-- ==== Sys2Proof/Word.lean ====
section
/-! DEFINITION. The byte, the unit of every message, record and memory of the device (R9: fields are little-endian bytes). -/

namespace Sys2Proof

/-- Eight bits: one byte of a message, of a record or of a memory. -/
abbrev Byte := BitVec 8

end Sys2Proof
end

