-- ==== Sys2Proof/Syntax.lean ====
section
/-! DEFINITION. The commands the block takes: one constructor of `Instr` per row of the table of operations and
events (spec/opcode_table.json). A VCP command carries the message as delivered and the carrier that delivered it
(R579, R598); an event row names the unit it happens at and what arrives there. Numbers are plain `Nat`s; which
numbers name a unit that the device has is said in WellFormed.lean. -/

namespace Sys2Proof

/-- An IP address with its family (R471): 32 bits, or 128 bits for IPv6. -/
structure NetAddr where
  v6 : Bool
  bits : Nat
deriving DecidableEq, Repr

/-- The carrier that delivered a VCP message (R598), and where on it. -/
inductive Via where
  /-- A UDP datagram taken on sub-port `sub` of network port `port`, from `src` and UDP port `srcPort` (R497). -/
  | udp (port sub : Nat) (src : NetAddr) (srcPort : Nat)
  /-- A RoCEv2 SEND on device queue pair `qpn` (R488). -/
  | send (qpn : Nat)
  /-- Tether mailbox `m` (R559). -/
  | mailbox (m : Nat)
  /-- The management two-wire bus (R651). -/
  | mtw
  /-- The host-memory relay `i` (R573); it carries fabric segments only. -/
  | relay (i : Nat)
deriving DecidableEq, Repr

/-- A VCP message as delivered: its carrier and its bytes (R579). -/
structure Req where
  via : Via
  msg : List Byte
deriving DecidableEq, Repr

/-- A doorbell that arrives over the network (R491, R492). -/
inductive Doorbell where
  /-- RDMA WRITE with Immediate: the data placed at `va` under remote key `key`, and the immediate. -/
  | imm (qpn key va : Nat) (data : List Byte) (value : Nat)
  /-- The doorbell word: a WRITE of exactly 8 bytes at H. -/
  | word (qpn key : Nat) (value : Nat)
deriving DecidableEq, Repr

/-- Integer operations of RV64IM on two operands (R267). -/
inductive IntOp where
  | add | sub | sll | slt | sltu | xor | srl | sra | or | and
  | mul | mulh | mulhsu | mulhu | div | divu | rem | remu
deriving DecidableEq, Repr

/-- Atomic memory operations of RV64A. -/
inductive AmoOp where
  | swap | add | xor | or | and | min | max | minu | maxu
deriving DecidableEq, Repr

/-- Scalar FP32 operations that write a floating-point register: on two operands, on one (`sqrt`), or fused on three. -/
inductive FloatOp where
  | add | sub | mul | div | sqrt | sgnj | sgnjn | sgnjx | min | max | madd | msub | nmsub | nmadd
deriving DecidableEq, Repr

/-- Scalar FP32 operations that write an integer register. -/
inductive FloatIntOp where
  | cvt (width : Nat) (signed : Bool)
  | mvX | eq | lt | le | classify
deriving DecidableEq, Repr

/-- How a CSR instruction forms the new value. -/
inductive CsrOp where
  | write | set | clear
deriving DecidableEq, Repr

/-- The addresses of a vector load or store: with a stride held in a register, or with offsets held in a vector register group. -/
inductive VMode where
  | unit
  | strided (rs2 : Nat)
  | indexed (vs2 eew : Nat)
deriving DecidableEq, Repr

/-- The other source of a vector instruction: a vector register group, an integer or a floating-point register, or an immediate as it is
extended. -/
inductive VecSrc where
  | vec (vs1 : Nat)
  | int (rs1 : Nat)
  | float (fs1 : Nat)
  | imm (value : Nat)
deriving DecidableEq, Repr

/-- Single-width integer operations on elements: those of `IntOp`, reversed subtraction, lesser and greater, a move of the other source,
saturating and averaging additions, the fixed-point product, and rounding shifts; signed or not. -/
inductive VecInt where
  | std (op : IntOp)
  | rsub | move | mulSat
  | least (signed : Bool)
  | greatest (signed : Bool)
  | addSat (signed : Bool)
  | subSat (signed : Bool)
  | addAvg (signed : Bool)
  | subAvg (signed : Bool)
  | shiftRound (signed : Bool)
deriving DecidableEq, Repr

/-- Comparisons of integer elements. -/
inductive VecCmp where
  | eq | ne
  | lt (signed : Bool)
  | le (signed : Bool)
  | gt (signed : Bool)
deriving DecidableEq, Repr

/-- Operations with a result of twice the width. -/
inductive VecWide where
  | add | sub | mul | macc
deriving DecidableEq, Repr

/-- FP32 operations on elements. -/
inductive VecFloat where
  | std (op : FloatOp)
  | rsub | rdiv
deriving DecidableEq, Repr

inductive VecUnary where
  | sqrt | rsqrt7 | rec7 | classify
deriving DecidableEq, Repr

inductive VecFloatCmp where
  | eq | ne | lt | le | gt | ge
deriving DecidableEq, Repr

/-- Whether a conversion keeps, doubles or halves the width. -/
inductive VecConvert where
  | same | widen | narrow
deriving DecidableEq, Repr

/-- Vector instructions that act on each element. -/
inductive VecEach where
  | int (op : VecInt)
  | cmp (op : VecCmp)
  /-- Multiply-add; with the product negated, and with the old destination as a factor. -/
  | fused (negated keepsFactor : Bool)
  /-- The first group's elements signed, the other's, and the first group of twice the width. -/
  | widen (op : VecWide) (signed2 signed1 wide : Bool)
  /-- A shift of an element of twice the width, or one clipped to the range. -/
  | narrow (signed clip : Bool)
  | extend (signed : Bool) (by_ : Nat)
  | carry (subtract : Bool)
  | carryOut (subtract uses : Bool)
  | merge
  | float (op : VecFloat)
  | floatFused (negatedProduct negatedAddend keepsFactor : Bool)
  | unary (op : VecUnary)
  | floatCmp (op : VecFloatCmp)
  /-- FP32 to integers, and integers to FP32. -/
  | toInt (signed : Bool) (k : VecConvert)
  | ofInt (signed : Bool) (k : VecConvert)
deriving DecidableEq, Repr

/-- Reductions. -/
inductive VecFold where
  | sum | and | or | xor
  | least (signed : Bool)
  | greatest (signed : Bool)
  | wideSum (signed : Bool)
  | floatSum (ordered : Bool)
  | floatLeast | floatGreatest
deriving DecidableEq, Repr

/-- Logical operations on masks. -/
inductive VecMask where
  | and | nand | andn | xor | or | nor | orn | xnor
deriving DecidableEq, Repr

/-- vmsbf, vmsif, vmsof. -/
inductive VecSet where
  | before | through | only
deriving DecidableEq, Repr

inductive VecPerm where
  | slideUp | slideDown | slide1Up | slide1Down | gather | gather16
deriving DecidableEq, Repr

/-- A vector instruction that accesses no memory (R267). -/
inductive VecOp where
  | each (op : VecEach) (vd vs2 : Nat) (src : VecSrc) (masked : Bool)
  | fold (op : VecFold) (vd vs2 vs1 : Nat) (masked : Bool)
  | mask (op : VecMask) (vd vs2 vs1 : Nat)
  | popCount (rd vs2 : Nat) (masked : Bool)
  | findFirst (rd vs2 : Nat) (masked : Bool)
  | maskSet (op : VecSet) (vd vs2 : Nat) (masked : Bool)
  | iota (vd vs2 : Nat) (masked : Bool)
  | index (vd : Nat) (masked : Bool)
  | perm (op : VecPerm) (vd vs2 : Nat) (src : VecSrc) (masked : Bool)
  | compress (vd vs2 vs1 : Nat)
  /-- Element 0 to a register, and a register to element 0. -/
  | toReg (rd vs2 : Nat)
  | toFloat (fd vs2 : Nat)
  | ofScalar (vd : Nat) (src : VecSrc)
  | moveWhole (n vd vs2 : Nat)
deriving DecidableEq, Repr

/-- What an instruction of the standard profile does in a hand (R267 to R272): its operation and its register fields. -/
inductive HandOp where
  /-- A load of `width` bytes into an integer register, and a store of one; `imm` is added modulo 2^64. -/
  | load (rd width : Nat) (signed : Bool) (rs1 imm : Nat)
  | store (width rs1 imm rs2 : Nat)
  | floatLoad (fd rs1 imm : Nat)
  | floatStore (rs1 imm fs : Nat)
  /-- Load-reserved, store-conditional and the atomic operations, of 4 or 8 bytes. -/
  | loadReserved (rd width rs1 : Nat)
  | storeConditional (rd width rs1 rs2 : Nat)
  | atomic (op : AmoOp) (rd width rs1 rs2 : Nat)
  /-- A CSR access with a register, or with the field itself as the operand. -/
  | csr (op : CsrOp) (number rd src : Nat) (imm : Bool)
  /-- Integer operations on 64 bits, or on words of 32; with an immediate; and LUI and AUIPC. -/
  | int (op : IntOp) (word : Bool) (rd rs1 rs2 : Nat)
  | intImm (op : IntOp) (word : Bool) (rd rs1 imm : Nat)
  | upper (rd imm : Nat) (pcRelative : Bool)
  /-- A jump that links; a branch, a fence or any other instruction that writes nothing. -/
  | jump (rd : Nat)
  | nothing
  /-- Scalar floating point, with the rounding-mode field. -/
  | float (op : FloatOp) (rm fd a b c : Nat)
  | floatInt (op : FloatIntOp) (rm rd a b : Nat)
  | intFloat (rm fd rs1 width : Nat) (signed : Bool)
  | mvFloat (fd rs1 : Nat)
  /-- A setting of vl and vtype: the length from a register or an immediate, the type from an immediate or a register. -/
  | vset (rd rs1 : Nat) (length : Option Nat) (vtype : Option Nat) (rs2 : Nat)
  /-- Vector loads and stores of `fields` fields of each segment, and the unit-stride load that stops before an element it cannot
  load. -/
  | vload (vd eew rs1 : Nat) (mode : VMode) (fields : Nat) (masked : Bool)
  | vloadFirst (vd eew rs1 fields : Nat) (masked : Bool)
  | vstore (vs eew rs1 : Nat) (mode : VMode) (fields : Nat) (masked : Bool)
  /-- Loads and stores of a mask, and of `n` whole registers. -/
  | vloadMask (vd rs1 : Nat)
  | vstoreMask (vs rs1 : Nat)
  | vloadWhole (n vd eew rs1 : Nat)
  | vstoreWhole (n vs rs1 : Nat)
  /-- Any other vector instruction. -/
  | vector (op : VecOp)
  /-- A word of the custom-0 or custom-1 major opcode (R281). -/
  | custom (word : Nat)
  | ecall
  | ebreak
  /-- An instruction outside the profile, or one that needs a higher privilege. -/
  | illegal
deriving DecidableEq, Repr

/-- A register space (R15): the tether's BAR0 (R547), the management two-wire bus (R642), the lantern (R635). -/
inductive RegBlock where
  | tth | mtw | lan
deriving DecidableEq, Repr

/-- What a frame is (R467, R470, R471, R481); those of RoCEv2, VCP, muster and knocks are commands of their own. -/
inductive RxFrame where
  /-- Its FCS fails; with an uncorrectable codeword or not. -/
  | badFcs (codeword : Bool)
  /-- A RoCEv2 packet whose ICRC fails (R484). -/
  | badIcrc
  | fragment
  | lldp
  /-- An ARP or neighbour-discovery request for an address, and an echo request to one. -/
  | resolve (target : NetAddr)
  | echo (target : NetAddr) (data : List Byte)
  /-- A frame for none of the device's protocols. -/
  | other
  /-- A frame of one of its protocols as it meets the ingress buffer (R474): one that is not discarded there is a command of its own. -/
  | ours
  /-- The first fragment of a preemptable frame; a later one, in sequence or not, the last or not, with what the whole frame is. -/
  | firstPart
  | nextPart (inOrder last : Bool) (whole : RxFrame)
deriving DecidableEq, Repr

/-- A muster message (R505): kind 0 ANNOUNCE, 1 ADMIT, 2 JOIN, 3 ROSTER; the field id; the sender's node ID; its view of the
coordinator and of the roster epoch; the node it is meant for, and a node number: that node's in ADMIT, else the sender's
(0xFFFF for none); the roster, as (node ID, number, roster address); for one of several ROSTER messages, the range of node numbers
that it lists (R731); the MAC. -/
structure MusterMsg where
  kind : Nat
  field : Nat
  sender : Nat
  coordinator : Nat
  epoch : Nat
  target : Nat
  number : Nat
  roster : List (Nat × Nat × Option NetAddr)
  part : Option (Nat × Nat)
  mac : List Byte
deriving DecidableEq, Repr

/-- What a loft port finds at boot (R455, R456): rate in GT/s (0: no usable expander), width, flit form (0 of 68, 1 of 256 bytes), units;
the kind of the device (0: a single logical device attached directly), and the major and minor level of CXL that it speaks. -/
structure LoftOffer where
  gts : Nat
  width : Nat
  flit : Nat
  units : Nat
  kind : Nat
  cxl : Nat × Nat
deriving DecidableEq, Repr

/-- How a boot phase ends (R685, R707, R709, R711, R712): the image loaded; the records and the module EEPROM read (or not, after
3 attempts) with its variant; the domains up; the stacks trained, with each new repair (silo, channel, lane), each silo that
cannot be brought up and why, and the capacity of each stack in GB; memory initialised; the failed tests of the boot set with
the first failure's code; what each loft port finds. -/
inductive BootResult where
  | verify
  | records (eeprom : Bool) (variant : Nat)
  | domains
  | silos (repairs : List (Nat × Nat × Nat)) (failed : List (Nat × Nat)) (capacity : List Nat)
  | init
  | selftest (failed code : Nat)
  | ports (loft : List LoftOffer)
deriving DecidableEq, Repr

/-- What takes slots of a thresher: a bag of a lookup section (R241), a group of an update sheaf's contributions (R263), or the rows
of C from `row` on, in a column block, of a matrix job (R259). -/
inductive Work where
  | bag (sheaf sect bag : Nat)
  | tally (sheaf group : Nat)
  | matrix (id block row : Nat)
deriving DecidableEq, Repr

/-- The kinds of work that an allotment names. -/
inductive WorkKind where
  | bag | tally | matrix
deriving DecidableEq, Repr

/-- The work of a kind in a sheaf or matrix job: a section's bag, a group (the first number), or a column block and its first row. -/
def WorkKind.of (k : WorkKind) (id : Nat) (part : Nat × Nat) : Work :=
  match k with
  | .bag => .bag id part.1 part.2
  | .tally => .tally id part.1
  | .matrix => .matrix id part.1 part.2

/-- The slice of a bag that a pass folds, and the errors that the reads of its positions meet: pairs of a position and a granule of its
row, corrected and uncorrectable (R265, R318, R353). -/
structure PassSlice where
  slice : Nat
  fixed : List (Nat × Nat)
  bad : List (Nat × Nat)
deriving DecidableEq, Repr

/-- The entry of the store at which a pass meets an error, and the other bags or rows that have read that entry (R266). -/
structure StoreEntry where
  entry : Nat
  readers : List Nat
deriving DecidableEq, Repr

/-- What the output stage of a thresher takes: a slice of its ready work, or of a section's held values (R245, R249); and the granules
of the fused operand, or of the held values, that its read finds corrected and uncorrectable (R318). -/
structure Drain where
  thresher : Nat
  back : Option (Nat × Nat)
  fixed : List Nat
  bad : List Nat
deriving DecidableEq, Repr

/-- A write that lands, and the granules of what it copies in passage whose read finds corrected and uncorrectable errors (R318). -/
structure WriteDone where
  id : Nat
  fixed : List Nat
  bad : List Nat
deriving DecidableEq, Repr

/-- The lookup that the bypass unit folds, and the errors that the reads of its positions meet, as those of a pass. -/
structure FoldReads where
  id : Nat
  fixed : List (Nat × Nat)
  bad : List (Nat × Nat)
deriving DecidableEq, Repr

/-- What a flit group carries beside its data: the partner's vote for the link's domain, if a control flit has one (R621), and the credit
returned for each class (R513). -/
structure Carried where
  vote : Option Bool
  credits : List Nat
deriving DecidableEq, Repr

/-- What a link's partner offers in training: its field, and the receive buffers of each class (R513, R518). -/
structure Offer where
  field : Nat
  credits : List Nat
deriving DecidableEq, Repr

/-- An instruction that a hand has fetched: its length in bytes, the single-bit errors of scratch and code store (R297) and of the crib
(R318) corrected meanwhile, the granules of the ring view or the crib share whose loads cannot be corrected (R272), and what it does. -/
structure Fetched where
  len : Nat
  fixed : Nat
  cribFixed : Nat
  bad : List Nat
  op : HandOp
deriving DecidableEq, Repr

/-- One command of the block: one constructor per row of the table of operations and events. -/
inductive Instr where
  /-- SESSION_HELLO (R500): Returns a fresh single-use device nonce for the named bay. -/
  | sessionHello (r : Req)
  /-- SESSION_OPEN (R501): Checks nonces and proof, then opens a session and returns handle, token, lease and hold. -/
  | sessionOpen (r : Req)
  /-- SESSION_CLOSE (R503): Ends the caller's session; released sheafs run on and held sheafs are discarded. -/
  | sessionClose (r : Req)
  /-- HEARTBEAT (R502): Renews the session lease from its acceptance instant. -/
  | heartbeat (r : Req)
  /-- SESSION_REATTACH (R504): Re-authenticates a session, issues a new token, restarts the lease and rebinds UDP. -/
  | sessionReattach (r : Req)
  /-- SESSION_QUERY (R511): Returns state, lease, hold, queue pairs and counters of a session. -/
  | sessionQuery (r : Req)
  /-- QP_CONNECT (R486): Creates a device queue pair bound to the session, sub-port and address and returns QPN, PSN, H and hatch key. -/
  | qpConnect (r : Req)
  /-- QP_DESTROY (R489): Puts a queue pair into ERROR and frees it. -/
  | qpDestroy (r : Req)
  /-- QP_QUERY (R511): Returns state, rate and counters of a queue pair. -/
  | qpQuery (r : Req)
  /-- BAY_CREATE (R77): Assigns owned shares, keys, regulators and areas to an ABSENT bay, which enters FORMING. -/
  | bayCreate (r : Req)
  /-- BAY_SET_SHARES (R77): Changes the owned shares of a FORMING bay. -/
  | baySetShares (r : Req)
  /-- BAY_SET_REGULATORS (R70): Changes minimums and caps, effective at the next window boundary. -/
  | baySetRegulators (r : Req)
  /-- BAY_OPEN (R77): Enables the bay's hatch, BAR2 window and sessions; bay enters OPEN. -/
  | bayOpen (r : Req)
  /-- BAY_DRAIN (R78): Stops intake of an OPEN bay, which enters DRAINING. -/
  | bayDrain (r : Req)
  /-- BAY_DESTROY (R80): Ends sessions and starts zeroisation, waiting for the drain to end if DRAINING. -/
  | bayDestroy (r : Req)
  /-- BAY_REKEY (R61): Replaces the keys selected by the mask. -/
  | bayRekey (r : Req)
  /-- BAY_QUERY (R77): Returns state, shares, regulators and counters of a bay. -/
  | bayQuery (r : Req)
  /-- HAND_LOAD (R292): Checks and loads a signed bay hand program into every crew of the bay. -/
  | handLoad (r : Req)
  /-- HAND_UNLOAD (R294): Removes a loaded program not bound or running. -/
  | handUnload (r : Req)
  /-- HAND_BIND (R294): Binds a table and role to a program and sets its cycle budget. -/
  | handBind (r : Req)
  /-- HAND_RUN (R296): Runs a JOB program on named idle crews with an argument block. -/
  | handRun (r : Req)
  /-- HAND_QUERY (R294): Returns programs, build ids, bindings and fault counter. -/
  | handQuery (r : Req)
  /-- TETHER_REGION_REG (R563): Registers a host region and returns its key. -/
  | tetherRegionReg (r : Req)
  /-- TETHER_REGION_DEREG (R567): Revokes a region key and answers after its work in flight completes. -/
  | tetherRegionDereg (r : Req)
  /-- TETHER_BIAS_SET (R570): Changes the bias of a page range through Drain, Flush or Drop and Commit. -/
  | tetherBiasSet (r : Req)
  /-- TABLE_CREATE (R148): Checks a descriptor and creates a table with all entries invalid. -/
  | tableCreate (r : Req)
  /-- TABLE_DESTROY (R156): Stops the table's intake; overwrite follows once earlier sheafs complete. -/
  | tableDestroy (r : Req)
  /-- TABLE_QUERY (R199): Returns descriptor, per-tier counts and counters of a table. -/
  | tableQuery (r : Req)
  /-- DIR_WRITE (R179): Sets or clears pinned, sets default_alias or clears valid on listed entries. -/
  | dirWrite (r : Req)
  /-- DIR_READ (R199): Returns listed directory entries. -/
  | dirRead (r : Req)
  /-- ROW_WRITE (R178): Writes whole rows in place or at newly allocated granules and commits entries. -/
  | rowWrite (r : Req)
  /-- ROW_READ (R199): Returns rows encoded or decoded, marking defaulted and chaffed rows. -/
  | rowRead (r : Req)
  /-- DEFAULT_ROW_SET (R175): Encodes and writes the configured default row under T0 settings. -/
  | defaultRowSet (r : Req)
  /-- TIER_MIGRATE (R182): Moves listed rows between tiers and homes, skipping or failing rows as stated. -/
  | tierMigrate (r : Req)
  /-- TIER_REBUILD (R189): Quiesces the table and re-encodes a tier under new scales or codebooks. -/
  | tierRebuild (r : Req)
  /-- HEAT_SNAPSHOT (R195): Copies the heat sketch to the snapshot area and keeps, clears or halves it. -/
  | heatSnapshot (r : Req)
  /-- HEAT_READ (R196): Returns counters of a named snapshot. -/
  | heatRead (r : Req)
  /-- HEAT_QUERY (R197): Returns live count-min estimates for listed rows. -/
  | heatQuery (r : Req)
  /-- HOTSET_PUT (R362): Copies listed rows into shadow halves, waiting for retirement if needed. -/
  | hotsetPut (r : Req)
  /-- HOTSET_DROP (R364): Removes named or all rows from shadow halves. -/
  | hotsetDrop (r : Req)
  /-- HOTSET_SWAP (R365): Increments the generation and makes the shadow half live on named dies. -/
  | hotsetSwap (r : Req)
  /-- HOTSET_QUERY (R384): Returns generations, half roles and use per half. -/
  | hotsetQuery (r : Req)
  /-- HOTSET_HOME (R369): Moves pinned rows of a frozen table into or out of home granary. -/
  | hotsetHome (r : Req)
  /-- HOTSET_CONFIG (R370): Sets the refresh interval and snapshot action and restarts the interval. -/
  | hotsetConfig (r : Req)
  /-- RUNAHEAD_CONFIG (R385): Sets run-ahead enable, depth, destination, crib_limit and prefetch_outstanding. -/
  | runaheadConfig (r : Req)
  /-- STAGE_QUERY (R384): Returns staging counters per die. -/
  | stageQuery (r : Req)
  /-- STREAM_CREATE (R341): Assigns a context as a persistent stream with queue, base registers and entries. -/
  | streamCreate (r : Req)
  /-- STREAM_APPEND (R341): Adds entries to an IDLE persistent stream. -/
  | streamAppend (r : Req)
  /-- STREAM_DESTROY (R341): Returns an IDLE persistent stream's context to FREE. -/
  | streamDestroy (r : Req)
  /-- STREAM_START (R339): Runs a persistent stream's list once, or holds one start while it runs. -/
  | streamStart (r : Req)
  /-- STREAM_REARM (R340): Writes masked base registers and optionally starts the stream. -/
  | streamRearm (r : Req)
  /-- STREAM_QUERY (R341): Returns state, queue, base registers and counters of a stream. -/
  | streamQuery (r : Req)
  /-- STREAM_CONFIG (R341): Sets the bay's queue weights, end-to-end timeout and watchdog limit. -/
  | streamConfig (r : Req)
  /-- TETHER_COPY_IN (R571): Copies granules from a readable host region into bay silo or loft space. -/
  | tetherCopyIn (r : Req)
  /-- TETHER_COPY_OUT (R571): Copies granules of bay silo or loft space into a writable host region. -/
  | tetherCopyOut (r : Req)
  /-- SHEAF_CANCEL (R230): Cancels a sheaf in flight that has not begun placement or expansion. -/
  | sheafCancel (r : Req)
  /-- POOL_SET (R251): Sets a table's pooling configuration from the next accepted doorbell. -/
  | poolSet (r : Req)
  /-- POOL_GET (R251): Returns a table's pooling configuration. -/
  | poolGet (r : Req)
  /-- WICKET_LOOKUP (R343): A 64-byte single-bag lookup accepted into a wicket queue level. -/
  | wicketLookup (r : Req)
  /-- LEDGER_QUERY (R428): Returns N, released, held and highest accepted sequence of a session. -/
  | ledgerQuery (r : Req)
  /-- LEDGER_SKIP (R395): Consumes sequence N without applying anything and releases the next held sheaf. -/
  | ledgerSkip (r : Req)
  /-- LEDGER_CONFIG (R429): Resizes the retention area and sets the barrier timeout. -/
  | ledgerConfig (r : Req)
  /-- OPT_SET (R414): Sets a table's optimiser record, allocating or freeing state on a change of optimiser. -/
  | optSet (r : Req)
  /-- OPT_GET (R428): Returns the optimiser record and training counters. -/
  | optGet (r : Req)
  /-- EPOCH_QUERY (R428): Returns accepted and complete epochs and size of U per table. -/
  | epochQuery (r : Req)
  /-- QUANT_SET_POLICY (R146): Replaces a tier or output policy record, resetting scales on a format change. -/
  | quantSetPolicy (r : Req)
  /-- QUANT_SET_SCALES (R146): Sets scales, zero points, codes and s2, or explicit M and S. -/
  | quantSetScales (r : Req)
  /-- QUANT_SET_CODEBOOK (R111): Loads codebooks of an empty CB4 or CB8 tier. -/
  | quantSetCodebook (r : Req)
  /-- QUANT_SET_SPLIT (R131): Sets the split-column list of an empty tier. -/
  | quantSetSplit (r : Req)
  /-- QUANT_GET_SCALES (R127): Returns the scales, zero points and M and S in force. -/
  | quantGetScales (r : Req)
  /-- QUANT_READ_SAT (R135): Returns saturation counters, optionally clearing them. -/
  | quantReadSat (r : Req)
  /-- POWER_VOTE (R622): Places the caller's vote on a domain, waking it if in fallow. -/
  | powerVote (r : Req)
  /-- POWER_RELEASE (R622): Withdraws the caller's vote on a domain. -/
  | powerRelease (r : Req)
  /-- POWER_QUERY (R615): Returns a domain's state, configuration and votes. -/
  | powerQuery (r : Req)
  /-- POWER_CONFIG (R625): Sets a domain's fallow state and hysteresis, kept in boot flash. -/
  | powerConfig (r : Req)
  /-- CCLK_SET (R607): Changes the CCLK operating point of both dies through Raise, Lock, Switch and Lower. -/
  | cclkSet (r : Req)
  /-- EVENT_READ (R664): Returns visible event records from a sequence at or above a severity. -/
  | eventRead (r : Req)
  /-- COUNTER_READ (R660): Returns performance counters of a block, optionally clearing them. -/
  | counterRead (r : Req)
  /-- SENSOR_READ (R659): Returns every sensor's value and status. -/
  | sensorRead (r : Req)
  /-- DEVICE_QUERY (R601): Returns product, variant, versions, state, identity and device time. -/
  | deviceQuery (r : Req)
  /-- SILO_QUERY (R447): Returns silo step, temperatures, repairs and error counts, restarting the caller's highest reading. -/
  | siloQuery (r : Req)
  /-- LOFT_QUERY (R466): Returns loft port state, link, DevLoad, counters and lost units. -/
  | loftQuery (r : Req)
  /-- NET_PORT_QUERY (R511): Returns a port's settings and per-sub-port link and counters. -/
  | netPortQuery (r : Req)
  /-- LINK_QUERY (R541): Returns ridge and yoke state, partners and counters. -/
  | linkQuery (r : Req)
  /-- TETHER_QUERY (R578): Returns tether link state, counters and region use. -/
  | tetherQuery (r : Req)
  /-- SHARD_MAP_LOAD (R538): Installs a shard map across named packages through Check, Span, Prepare and Commit. -/
  | shardMapLoad (r : Req)
  /-- SHARD_MAP_GET (R541): Returns the current map, version and owner availability. -/
  | shardMapGet (r : Req)
  /-- YOKE_SET (R541): Disables or enables a yoke link. -/
  | yokeSet (r : Req)
  /-- NET_PORT_SET (R475): Sets a port's mode, PFC, thresholds, classes, preemption, ECN response and VCP port. -/
  | netPortSet (r : Req)
  /-- NET_ADDR_SET (R471): Assigns IP addresses and VLANs to a sub-port, kept in boot flash. -/
  | netAddrSet (r : Req)
  /-- MUSTER_CONFIG (R505): Sets node ID, field id, key, seeds and muster port. -/
  | musterConfig (r : Req)
  /-- MUSTER_QUERY (R511): Returns muster phase, coordinator, epoch and roster. -/
  | musterQuery (r : Req)
  /-- FABRIC_SEGMENT (R527): A received fabric message segment is checked and taken into reassembly. -/
  | fabricSegment (r : Req)
  /-- TETHER_RELAY_SET (R572): Configures, enables or disables a host-memory relay. -/
  | tetherRelaySet (r : Req)
  /-- FW_STAGE (R702): Receives a chunk of a firmware image and checks the whole image at the final chunk. -/
  | fwStage (r : Req)
  /-- FW_ACTIVATE (R703): Makes a valid slot the trial slot and optionally restarts. -/
  | fwActivate (r : Req)
  /-- FW_QUERY (R700): Returns the state, version and build of each slot. -/
  | fwQuery (r : Req)
  /-- FW_ROLLBACK (R705): Makes the valid slot the trial slot and restarts at once. -/
  | fwRollback (r : Req)
  /-- SELFTEST_RUN (R712): Starts the self-tests selected by the mask. -/
  | selftestRun (r : Req)
  /-- SELFTEST_RESULT (R713): Returns the state and failures of a self-test run. -/
  | selftestResult (r : Req)
  /-- MEM_SCRUB_CONFIG (R446): Sets the scrub period. -/
  | memScrubConfig (r : Req)
  /-- LOFT_PORT_SET (R465): Disables or re-enables a loft port. -/
  | loftPortSet (r : Req)
  /-- MARGIN_RUN (R714): Starts a timing or voltage margin run on named lanes of a target. -/
  | marginRun (r : Req)
  /-- MARGIN_RESULT (R716): Returns the margins measured by a run. -/
  | marginResult (r : Req)
  /-- DEVICE_RESET (R610): Sends its response and then starts a device or steward reset. -/
  | deviceReset (r : Req)
  /-- ADMIN_REKEY (R719): Replaces the device administration secret and ends other device-scope sessions. -/
  | adminRekey (r : Req)
  /-- HATCH_RING_WRITE (R485): An RDMA WRITE places bytes into the bay's hatch ring. -/
  | hatchRingWrite (qpn : Nat) (key : Nat) (va : Nat) (data : List Byte)
  /-- DOORBELL (R492): A WRITE-with-immediate or doorbell word is accepted into the bay's doorbell queue, naming a run of sheafs. -/
  | doorbell (d : Doorbell)
  /-- HOLD_RELEASE (R391): A held update sheaf is released once every lower number is consumed or released. -/
  | holdRelease (sheaf : Nat)
  /-- SHEAF_DISPATCH (R274): An accepted sheaf is dispatched to a crew once its fence, crew queue room and a free context allow. -/
  | sheafDispatch (sheaf : Nat)
  /-- JOB_START (R277): The runtime starts a queued job on a crew's hands, writing the job descriptor and context list. -/
  | jobStart (crew : Nat)
  /-- HX_HASH (R282): Hand instruction computing a multiplicative hash. -/
  | hxHash (crew : Nat) (hand : Nat) (pc : Nat) (rd : Nat) (rs1 : Nat) (imm : Nat)
  /-- HX_DWQ (R283): Hand instruction enqueuing one directory walk. -/
  | hxDwq (crew : Nat) (hand : Nat) (pc : Nat) (rd : Nat) (rs1 : Nat) (rs2 : Nat)
  /-- HX_SWE (R285): Hand instruction emitting one swath entry into a job context. -/
  | hxSwe (crew : Nat) (hand : Nat) (pc : Nat) (rd : Nat) (rs1 : Nat) (rs2 : Nat)
  /-- HX_DEDUP (R286): Hand vector instruction marking first occurrences of ascending keys. -/
  | hxDedup (crew : Nat) (hand : Nat) (pc : Nat) (vd : Nat) (vs2 : Nat)
  /-- WALK_COMPLETE (R284): The walker resolves an index and writes the 16-byte result record. -/
  | walkComplete (crew : Nat) (k : Nat)
  /-- ECALL_EXIT (R279): A hand ends its part of the job, successfully or as a fault. -/
  | ecallExit (crew : Nat) (hand : Nat) (pc : Nat)
  /-- ECALL_BARRIER (R279): A hand waits until every hand of the job has called BARRIER equally often. -/
  | ecallBarrier (crew : Nat) (hand : Nat) (pc : Nat)
  /-- ECALL_SECTION_DONE (R280): A hand declares a section's entries all emitted; uncovered positions become chaffed. -/
  | ecallSectionDone (crew : Nat) (hand : Nat) (pc : Nat)
  /-- ECALL_LOG (R279): A hand raises HAND_LOG, rate-limited per millisecond. -/
  | ecallLog (crew : Nat) (hand : Nat) (pc : Nat)
  /-- HAND_FAULT (R298): A hand faults; the job stops, the crew resets and the role's outcome applies. -/
  | handFault (crew : Nat) (hand : Nat) (cause : Nat) (pc : Nat) (addr : Nat)
  /-- CYCLE_BUDGET_EXHAUSTED (R296): A job exhausts its cycle budget and faults with cause 8. -/
  | cycleBudgetExhausted (crew : Nat) (hand : Nat)
  /-- JOB_END (R302): A job ends when every hand has exited, returning contexts once their entries complete. -/
  | jobEnd (crew : Nat)
  /-- ENTRY_ISSUE (R310): The stream engine checks and issues a swath entry once regulators, bounds and crib space allow. -/
  | entryIssue (ctx : Nat)
  /-- READ_COMPLETION (R322): Granules of an issued read arrive in the crib or destination, making positions ready. -/
  | readCompletion (id : Nat) (fixed : List Nat) (bad : List Nat)
  /-- CONTEXT_RUNNING (R301): An IDLE context enters RUNNING once its crib reserve is available. -/
  | contextRunning (ctx : Nat)
  /-- PASS (R234): A pass of a chain enters a thresher and folds up to 16 ready positions in bag-position order. -/
  | pass (thresher : Nat) (bag : Nat) (slice : PassSlice)
  /-- PASS_WRITEBACK (R234): A pass leaves stage 15 and is written back into its chain's slots. -/
  | passWriteback (thresher : Nat) (bag : Nat) (slice : Nat) (fault : Nat) (entry : StoreEntry)
  /-- ALLOT (R241): A bag receives and initialises its slots in the filling tile. -/
  | allot (thresher : Nat) (kind : WorkKind) (id : Nat) (part : Nat × Nat)
  /-- TILE_SWAP (R244): The thresher swaps the filling and draining tiles when the swap condition holds. -/
  | tileSwap (thresher : Nat)
  /-- DRAIN_SLICE (R245): The output stage takes one slice of a ready bag from the draining tile. -/
  | drainSlice (d : Drain)
  /-- REDO (R138): A section whose output saturated is pooled again and converted to BF16. -/
  | redo (sheaf : Nat) (sect : Nat)
  /-- RESULT_PLACEMENT (R495): Result vectors of a sheaf are placed by RDMA WRITE or tether write. -/
  | resultPlacement (sheaf : Nat)
  /-- COMPLETION_RECORD (R229): The completion record is written after every result of the sheaf is placed. -/
  | completionRecord (sheaf : Nat)
  /-- MATRIX_JOB_DONE (R260): A matrix job writes its last element of C and then its job status. -/
  | matrixJobDone (id : Nat) (thresher : Option Nat)
  /-- TALLY (R403): The tally groups a sheaf's contributions by row and coalesces each group. -/
  | tally (sheaf : Nat)
  /-- FLAIL_TAKE (R408): A flail takes the operation at its queue head once a conflict entry is free or handed over. -/
  | flailTake (flail : Nat)
  /-- FLAIL_READ_DONE (R410): A flail's reads of entry, row and state complete and Compute forms new values. -/
  | flailReadDone (flail : Nat) (entry : Nat)
  /-- FLAIL_WRITE_DONE (R410): A flail's writes complete; Mark commits the update and Release frees the entry. -/
  | flailWriteDone (flail : Nat) (entry : Nat)
  /-- UPDATE_ACKNOWLEDGE (R46): An update sheaf is acknowledged once every contribution is committed locally and remotely. -/
  | updateAcknowledge (sheaf : Nat)
  /-- LEDGER_CONTRIB (R421): An owner receives a CONTRIB ledger message and applies, holds, re-acknowledges or discards it. -/
  | ledgerContrib (link : Nat) (msg : List Byte)
  /-- LEDGER_ACK_SEND (R421): The owner sends an ACK once every record of a message has committed or been handled. -/
  | ledgerAckSend (bay : Nat) (node : Nat) (seq : Nat)
  /-- LEDGER_ACK (R422): A sender receives an ACK and ends retention of the message. -/
  | ledgerAck (link : Nat) (msg : List Byte)
  /-- LEDGER_RETRANSMIT (R423): A message unacknowledged at the end of the timeout is sent again. -/
  | ledgerRetransmit (bay : Nat) (node : Nat) (seq : Nat)
  /-- BARRIER_TIMEOUT (R426): An unsatisfied STRICT barrier is abandoned and the section gleans with stale positions. -/
  | barrierTimeout (sheaf : Nat) (sect : Nat)
  /-- END_TO_END_TIMEOUT (R331): A loft, remote or host read times out and its granules are chaffed. -/
  | endToEndTimeout (id : Nat)
  /-- LATE_COMPLETION (R331): A completion after its timeout is discarded and its tag quarantined. -/
  | lateCompletion (id : Nat)
  /-- QUARANTINE_END (R331): A quarantined tag is released after twice the timeout. -/
  | quarantineEnd (id : Nat)
  /-- STALL_WATCHDOG (R335): A crib-stall watchdog reaches its limit and the victim context is spilled. -/
  | stallWatchdog (ctx : Nat)
  /-- SPILL_RELOAD (R336): A spilled granule is reloaded into the crib when a position or COPY needs it. -/
  | spillReload (ctx : Nat)
  /-- WICKET_PARSE (R723): The wicket parser takes the next message in queue order and checks and resolves it. -/
  | wicketParse (die : Nat)
  /-- BYPASS_FOLD (R255): A wicket lookup is folded in a free bypass unit and passed to the output stage. -/
  | bypassFold (f : FoldReads)
  /-- WICKET_RESULT (R349): The wicket status record and vector are placed in a single write. -/
  | wicketResult (id : Nat)
  /-- URGENT_MESSAGE (R350): A 64-byte urgent non-lookup message is handed to the stewards ahead of standard messages. -/
  | urgentMessage (die : Nat)
  /-- VCP_DATAGRAM (R497): A UDP datagram arrives at the VCP port and is checked, replayed or queued. -/
  | vcpDatagram (port : Nat) (sub : Nat) (src : NetAddr) (srcPort : Nat) (data : List Byte) (badSum : Bool)
  /-- VCP_SEND (R488): A RoCEv2 SEND carrying a VCP message arrives on a queue pair. -/
  | vcpSend (qpn : Nat) (data : List Byte)
  /-- RDMA_READ (R484): An RDMA READ or atomic to the device is answered with a NAK. -/
  | rdmaRead (qpn : Nat) (kind : Nat)
  /-- RDMA_ACK (R484): An ACK or NAK from the client arrives for the device's WRITEs. -/
  | rdmaAck (qpn : Nat) (kind : Nat) (psn : Nat)
  /-- QP_RETRY_TIMEOUT (R484): A queue pair's retransmission timeout expires and go-back-N resends. -/
  | qpRetryTimeout (qpn : Nat)
  /-- QP_ERROR (R489): A queue pair enters ERROR on exhausted retries, a NAK or session end. -/
  | qpError (qpn : Nat)
  /-- CNP_RECEIVE (R478): A CNP arrives and the queue pair's send rate is halved. -/
  | cnpReceive (qpn : Nat)
  /-- RATE_INCREASE (R478): After 50 µs without CNP the send rate rises by one step. -/
  | rateIncrease (qpn : Nat)
  /-- CE_MARKED_PACKET (R477): A CE-marked RoCEv2 packet triggers a CNP to its sender. -/
  | ceMarkedPacket (qpn : Nat)
  /-- PFC_FRAME (R476): A received PFC frame pauses or resumes a priority. -/
  | pfcFrame (port : Nat) (sub : Nat) (prio : Nat) (quanta : Nat)
  /-- PFC_XOFF (R474): Ingress occupancy crosses XOFF or XON and PFC frames are sent. -/
  | pfcXoff (port : Nat) (sub : Nat) (prio : Nat) (occupancy : Nat)
  /-- NET_PFC_STORM (R476): A priority stays paused for 100 ms and the event is raised. -/
  | netPfcStorm (port : Nat) (sub : Nat) (prio : Nat)
  /-- PREEMPT_VERIFY (R479): 802.3br verify runs and activates preemption or raises NET_PREEMPT_OFF. -/
  | preemptVerify (port : Nat) (sub : Nat) (answered : Nat) (fragSize : Nat)
  /-- FRAME_RECEIVE (R471): A frame is received, answered for ARP, ND or echo, or discarded. -/
  | frameReceive (port : Nat) (sub : Nat) (bytes : Nat) (tags : Nat) (mark : Nat) (corrected : Nat) (f : RxFrame)
  /-- NET_LINK_CHANGE (R472): A sub-port link goes up or down. -/
  | netLinkChange (port : Nat) (sub : Nat) (up : Bool)
  /-- LEASE_EXPIRY (R503): A session's lease expires and it becomes ORPHANED. -/
  | leaseExpiry (handle : Nat)
  /-- HOLD_EXPIRY (R503): An orphan hold expires and the session ends. -/
  | holdExpiry (handle : Nat)
  /-- NONCE_EXPIRY (R500): A device nonce expires after 1 s. -/
  | nonceExpiry
  /-- ANNOUNCE (R506): A node sends ANNOUNCE every 2 ms in the Announce phase. -/
  | announce
  /-- DECIDE (R506): The collection window ends and the node chooses or joins a coordinator. -/
  | decide
  /-- MUSTER_MESSAGE (R505): An ANNOUNCE, ADMIT, JOIN or ROSTER message is received and checked. Sources 1 to 4 are the yoke links. -/
  | musterMessage (source : Nat) (m : MusterMsg)
  /-- ADMIT_TIMEOUT (R506): No ROSTER within 50 ms returns the node to Announce. -/
  | admitTimeout
  /-- ROSTER_PERIOD (R510): The coordinator sends a ROSTER every 100 ms. -/
  | rosterPeriod
  /-- MUSTER_NODE_LOST (R510): A member unheard for 1 s is removed from the roster. -/
  | musterNodeLost (nodeId : Nat)
  /-- ROSTER_SILENCE (R510): A member hearing no ROSTER for 1 s returns to Announce. -/
  | rosterSilence
  /-- MUSTER_DUP_ID (R509): A node hears its own ID from another source and backs off. -/
  | musterDupId (source : Nat) (m : MusterMsg)
  /-- DUP_ID_BACKOFF (R509): The random backoff ends and the node announces again. -/
  | dupIdBackoff
  /-- FLIT_GROUP_RECEIVE (R514): A flit group arrives; a CRC error discards it and sends a NAK. -/
  | flitGroupReceive (link : Nat) (seq : Nat) (ok : Bool) (ack : Nat) (carried : Carried)
  /-- LINK_NAK (R514): A link NAK arrives and the sender replays from the named group. -/
  | linkNak (link : Nat) (group : Nat)
  /-- REPLAY_TIMEOUT (R514): The oldest unacknowledged group waits its replay timeout and is replayed. -/
  | replayTimeout (link : Nat)
  /-- RETRY_BUDGET_EXHAUSTED (R515): 16 consecutive replays exhaust the budget and the link retrains. -/
  | retryBudgetExhausted (link : Nat)
  /-- RETRAIN_DONE (R516): A link retrain succeeds and replay begins, or fails. -/
  | retrainDone (link : Nat) (ok : Bool)
  /-- RIDGE_LOST (R517): Three failed ridge retrains make the device FATAL. -/
  | ridgeLost
  /-- YOKE_TRAIN (R518): A yoke link trains and becomes UP or FOREIGN, or returns DOWN. -/
  | yokeTrain (yoke : Nat) (ok : Bool) (partner : Nat) (offer : Offer)
  /-- YOKE_DOWN (R518): An UP yoke link is lost and goes DOWN. -/
  | yokeDown (yoke : Nat)
  /-- READ_REQ (R530): An owner receives a forwarded READ_REQ and serves it for the carried bay. -/
  | readReq (link : Nat) (msg : List Byte)
  /-- READ_RESP (R522): A requester receives a READ_RESP and folds or chaffs its answers. -/
  | readResp (link : Nat) (msg : List Byte)
  /-- POOL_REQ (R523): An owner receives a POOL_REQ and pools its positions into partials. -/
  | poolReq (link : Nat) (msg : List Byte)
  /-- POOL_RESP (R524): A requester receives a POOL_RESP and combines the partials. -/
  | poolResp (link : Nat) (msg : List Byte)
  /-- FABRIC_ERROR (R525): An ERROR fabric message arrives and the request is reissued or chaffed. -/
  | fabricError (link : Nat) (msg : List Byte)
  /-- PATH_FAILURE (R532): A path fails with a request out and the request is reissued once. -/
  | pathFailure (id : Nat)
  /-- REASSEMBLY_TIMEOUT (R528): A message incomplete 1 ms after its first segment is discarded. -/
  | reassemblyTimeout (die : Nat) (sender : Nat) (id : Nat)
  /-- MAP_VERSION_RETIRE (R537): A previous map version is dropped once its sheafs complete and twice the timeout passes. -/
  | mapVersionRetire (bay : Nat) (table : Nat)
  /-- BAR2_WRITE (R555): A posted write to a hatch window is placed into the bay's ring or dropped. -/
  | bar2Write (bay : Nat) (off : Nat) (data : List Byte)
  /-- TTH_DOORBELL (R556): A write to TTH_DOORBELL is a doorbell accepted after earlier posted writes, or discarded. -/
  | tthDoorbell (bay : Nat) (value : Nat)
  /-- TTH_EVENT (R551): A W1C write clears TTH_EVENT bits. -/
  | tthEvent (value : Nat)
  /-- TTH_COUNTER_READ (R554): A read of an RC tether counter returns and clears it. -/
  | tthCounterRead (off : Nat)
  /-- TTH_BAD_ACCESS (R547): A BAR0 access of the wrong size is ignored and counted. -/
  | tthBadAccess (off : Nat) (isRead : Bool)
  /-- BAR2_READ (R545): A read of BAR2 or a mailbox slot returns zero and is counted. -/
  | bar2Read (bar : Nat) (off : Nat)
  /-- TTH_MBOX_SUBMIT (R559): A write submits a mailbox message from a slot. -/
  | tthMboxSubmit (box : Nat) (value : Nat)
  /-- TTH_MBOX_STATUS (R558): A W1C write clears mailbox overrun or ring_fault. -/
  | tthMboxStatus (box : Nat) (value : Nat)
  /-- MAILBOX_TAKE (R560): A submitted mailbox message is taken once its command queue has room. -/
  | mailboxTake (box : Nat)
  /-- MAILBOX_RESPONSE (R562): A response is written to the mailbox ring, then the count, then MSI-X. -/
  | mailboxResponse (box : Nat) (failed : Bool)
  /-- REGISTER_WRITE (R15): A write to a register without behaviour of its own sets RW fields or is ignored. -/
  | registerWrite (block : RegBlock) (off : Nat) (data : List Byte)
  /-- VECTOR_MODERATION_TIMER (R566): A moderated vector's time bound expires and the vector signals. -/
  | vectorModerationTimer (vector : Nat)
  /-- HOST_READ_COMPLETION (R571): A host read completes, or fails and is chaffed. -/
  | hostReadCompletion (id : Nat) (failed : Bool) (data : List Byte)
  /-- HOST_SNOOP (R543): An H2D snoop is answered RspIHitI. -/
  | hostSnoop (addr : Nat)
  /-- RELAY_POLL (R574): A relay receiver polls the producer count every 2 µs and copies new slots. -/
  | relayPoll (relay : Nat) (produced : Nat) (consumed : Nat) (alive : Nat) (slots : List (List Byte))
  /-- RELAY_SEND (R574): A sender writes a relay slot once there is room and increments the producer count. -/
  | relaySend (relay : Nat)
  /-- RELAY_ALIVE (R574): Each device increments its relay alive count every 1 ms. -/
  | relayAlive (relay : Nat)
  /-- TETHER_RESET (R576): PERST#, hot reset, FLR, link down or D3hot clears the tether state. -/
  | tetherReset (cause : Nat)
  /-- TETHER_ATTACH (R577): The tether link returns and TTH_STATUS.ready becomes 1. -/
  | tetherAttach (protocol : Nat) (gen : Nat) (width : Nat)
  /-- WINDOW_BOUNDARY (R63): A regulator window ends and served counts reset, with debt and parameter changes applied. -/
  | windowBoundary
  /-- DRAIN_END (R79): A bay's drain ends when nothing remains in flight. -/
  | drainEnd (bay : Nat)
  /-- DRAIN_TIMEOUT (R79): The drain timeout ends the drain, discarding retained and gap-held updates. -/
  | drainTimeout (bay : Nat)
  /-- ZEROISATION_END (R84): Every resource of the bay is written and the bay becomes ABSENT. -/
  | zeroisationEnd (bay : Nat)
  /-- TABLE_OVERWRITE (R156): After the last earlier sheaf completes the destroyed table is zeroed and freed. -/
  | tableOverwrite (bay : Nat) (table : Nat)
  /-- GRANULE_RELEASE (R180): Granules no longer named are released once earlier sheafs and remote requests complete. -/
  | granuleRelease (bay : Nat)
  /-- REBUILD_QUIESCED (R189): Earlier sheafs complete and the rebuild proceeds to Range or Re-encode. -/
  | rebuildQuiesced (bay : Nat) (table : Nat)
  /-- REBUILD_RESUME (R189): Re-encode ends; new settings take force and held sheafs are released. -/
  | rebuildResume (bay : Nat) (table : Nat)
  /-- HALF_RETIRED (R361): A retiring half's last bound work completes and the half is cleared. -/
  | halfRetired (bay : Nat) (die : Nat)
  /-- HOTSET_REFRESH_DUE (R370): The refresh interval expires, raising the event and an optional snapshot. -/
  | hotsetRefreshDue (bay : Nat)
  /-- RUNAHEAD_SCAN (R373): The scanner reads a queued lookup sheaf and issues staging reads. -/
  | runaheadScan (die : Nat) (sheaf : Nat)
  /-- STAGING_COMPLETE (R376): A staging read completes and records a staged copy, or fails. -/
  | stagingComplete (id : Nat) (bad : List Nat)
  /-- SILO_TEMPERATURE (R448): A stack temperature reading raises the throttle step or halts the silo. -/
  | siloTemperature (silo : Nat) (temp : Int)
  /-- THROTTLE_FALL (R448): After 10 ms below the leave threshold the throttle step falls one level. -/
  | throttleFall (silo : Nat)
  /-- SILO_LOST (R453): A silo is lost and the device enters FATAL. -/
  | siloLost (silo : Nat) (cond : Nat)
  /-- SILO_UE (R443): An uncorrectable granule is chaffed, counted and its page retired. -/
  | siloUe (silo : Nat) (pc : Nat) (bay : Nat) (granule : Nat)
  /-- SCRUB (R446): The controller scrubs a granule, correcting or retiring it. -/
  | scrub (silo : Nat) (pc : Nat) (bay : Nat) (granule : Nat) (result : Nat)
  /-- LOFT_DOWN (R463): A loft link goes down or signals viral; outstanding reads are chaffed. -/
  | loftDown (port : Nat) (cause : Nat)
  /-- LOFT_RETRAIN (R463): A DOWN loft port retrains each second and decides UP or LOST at link-up. -/
  | loftRetrain (port : Nat) (trained : Nat) (label : Nat)
  /-- LOFT_DEVLOAD (R459): A DevLoad change alters the loft port's capacity. -/
  | loftDevload (port : Nat) (level : Nat)
  /-- LOFT_POISON (R460): A poisoned or error loft completion chaffs the granule. -/
  | loftPoison (id : Nat) (bad : List Nat)
  /-- LOFT_EVENT_POLL (R460): Varlet reads the expander's event records every 10 ms. -/
  | loftEventPoll (port : Nat) (bay : Nat) (corrected : Nat)
  /-- LOFT_UNIT_RECLAIMED (R464): A lost unit with no named granules is zeroed and its mark cleared. -/
  | loftUnitReclaimed (bay : Nat) (extent : Nat)
  /-- HYSTERESIS_EXPIRY (R624): An idle domain's hysteresis runs out and entry to fallow begins. -/
  | hysteresisExpiry (dom : Nat) (low : Bool)
  /-- ENTRY_COMMIT (R626): Entry reaches its commit point and gates the domain. -/
  | entryCommit (dom : Nat)
  /-- WAKE_LATCH (R627): A wake event is latched, aborting entry or starting exit. -/
  | wakeLatch (dom : Nat) (cause : Nat)
  /-- PWR_OK (R628): Power-good ends the Regulator phase of exit. -/
  | pwrOk (dom : Nat)
  /-- PLL_LOCK (R628): PLL lock ends the Oscillator phase of exit. -/
  | pllLock (dom : Nat)
  /-- MEM_OK (R628): Memory ready ends the Memory phase of exit. -/
  | memOk (dom : Nat)
  /-- LOGIC_OK (R628): Logic ready ends exit and the domain is in A0. -/
  | logicOk (dom : Nat)
  /-- KNOCK (R634): A knock frame is checked and accepted as a wake or rejected. -/
  | knock (port : Nat) (sub : Nat) (data : List Byte)
  /-- LISTEN_FRAME (R632): A frame addressed to a port in F2 wakes it, pauses PFC and is buffered. -/
  | listenFrame (port : Nat) (sub : Nat) (data : List Byte)
  /-- FALSE_WAKE (R634): No knock within 20 ms of link-up returns the port to F3. -/
  | falseWake (port : Nat)
  /-- LANTERN_TIMER (R631): The lantern timer reaches its compare and wakes the D0 steward domain. -/
  | lanternTimer
  /-- CLOCK_REF_LOST (R606): A reference clock is lost. -/
  | clockRefLost (ref : Nat)
  /-- CLOCK_REF_OK (R606): A lost reference returns. -/
  | clockRefOk (ref : Nat)
  /-- REF_HOLDOVER_EXPIRY (R606): The 100 MHz reference stays lost 1 ms and the device enters FATAL. -/
  | refHoldoverExpiry
  /-- DIE_TEMPERATURE (R608): A junction temperature reading changes the CCLK ceiling or trips. -/
  | dieTemperature (die : Nat) (tj : Int)
  /-- DIE_THERMTRIP (R608): Tj reaches 105 °C and the package is held off. -/
  | dieThermtrip (die : Nat)
  /-- POWER_ON_RESET (R609): The lantern supply rises and everything resets. -/
  | powerOnReset (addrSel : Nat) (clkSel : Nat) (tthDisable : Nat)
  /-- MOD_RESET_N (R687): Assertion or release of the module reset input. -/
  | modResetN (low : Bool)
  /-- LAN_WDOG (R613): A write restarts the steward watchdog. -/
  | lanWdog
  /-- STEWARD_WATCHDOG (R613): The watchdog is not restarted for 500 ms and a steward reset starts. -/
  | stewardWatchdog
  /-- STEWARD_RESUME (R612): Varlet resumes after a steward reset, extending leases and writing buffered events. -/
  | stewardResume
  /-- LANTERN_FAILSAFE (R614): 2 s pass without resumption; fans go to 100 % and intake stops. -/
  | lanternFailsafe
  /-- FAILSAFE_RETRY (R614): A further 2 s without resumption starts another steward reset or gives up. -/
  | failsafeRetry
  /-- MTW_ADDRESS (R642): An MTW address byte is acknowledged or not. -/
  | mtwAddress (addr : Nat) (read : Bool) (n : Nat)
  /-- MTW_REQ (R651): A write to MTW_REQ submits a VCP request at its stop. -/
  | mtwReq (data : List Byte) (restart : Bool)
  /-- MTW_RESPONSE (R651): Varlet places the response in MTW_RSP and clears busy. -/
  | mtwResponse
  /-- MTW_QUICK_WRITE (R643): A quick write is acknowledged and ignored. -/
  | mtwQuickWrite
  /-- MTW_SET_POINTER (R643): A write of only the register byte sets the pointer. -/
  | mtwSetPointer (reg : Nat) (readLen : Option Nat)
  /-- SMBUS_TIMEOUT (R645): SCL low for 25 ms discards the transaction. -/
  | smbusTimeout
  /-- ALERT_RESPONSE (R650): A read of the Alert Response Address returns MTW's address and releases the alert. -/
  | alertResponse
  /-- LTW_TRANSFER (R652): Varlet performs one LTW transaction to a regulator, EEPROM or sensor. -/
  | ltwTransfer (target : Nat) (data : List Byte) (kind : Nat) (result : Nat)
  /-- LTW_ARB_STOP (R653): Arbitration lost at a stop or repeated start aborts and retries. -/
  | ltwArbStop
  /-- LTW_BUS_STUCK (R653): A line held low 35 ms is recovered or waited out. -/
  | ltwBusStuck (line : Nat) (held : Bool)
  /-- UART_BYTE (R656): A UART frame is received into the FIFO or discarded. -/
  | uartByte (b : Byte) (stop : Bool)
  /-- UART_BREAK (R656): A line low for two frame times is counted as a break. -/
  | uartBreak
  /-- CONSOLE_STATUS (R658): The console status command prints MTW_STATUS. -/
  | consoleStatus
  /-- CONSOLE_EVENTS (R658): The console events command prints recent records. -/
  | consoleEvents
  /-- CONSOLE_LEVEL (R658): The console level command sets the console level. -/
  | consoleLevel
  /-- CONSOLE_BAUD (R658): The console baud command sets the UART rate after replying ok. -/
  | consoleBaud
  /-- SENSOR_POLL (R659): A sensor is read at its period and its status updated. -/
  | sensorPoll (n : Nat) (reading : Option Int)
  /-- FAN_FAULT (R695): A present fan below 1,000 rpm for 3 s drives the others to 100 %. -/
  | fanFault (fan : Nat)
  /-- PACKAGE_POWER_LIMIT (R675): A package power reading above 950 W lowers the CCLK ceiling. -/
  | packagePowerLimit
  /-- POWER_CEILING_RAISE (R675): Readings below 900 W for 1 s raise the power ceiling one point. -/
  | powerCeilingRaise
  /-- EVENT_SUPPRESSED (R665): A suppression window closes and reports the records not written. -/
  | eventSuppressed (code : Nat) (bay : Option Nat) (die : Option Nat)
  /-- MATED_N_DEBOUNCE (R669): MATED_N low for 100 ms lets the hot-swap ramp start. -/
  | matedNDebounce
  /-- RAMP_COMPLETE (R669): The hot-swap ramp reaches power-good and rail sequencing begins. -/
  | rampComplete
  /-- RAIL_POWER_GOOD (R672): A rail asserts power-good and the next rail is enabled. -/
  | railPowerGood (rail : Nat)
  /-- HOTSWAP_FAULT (R670): A hot-swap fault condition opens the main path and latches. -/
  | hotswapFault (cause : Nat)
  /-- MODULE_INPUT_FAULT (R670): Input below 46 V for 1 ms raises the event. -/
  | moduleInputFault (mv : Nat)
  /-- ATTN_N (R690): A debounced falling edge of ATTN_N requests parking. -/
  | attnN
  /-- PARK_WAIT_END (R690): Every drain ends and the rails go down into Parked. -/
  | parkWaitEnd
  /-- SURPRISE_REMOVAL (R692): MATED_N high for 10 µs opens every rail and the main path. -/
  | surpriseRemoval
  /-- BOOT_ROM (R701): The boot ROM chooses and verifies a firmware slot, or enters recovery. -/
  | bootRom (bad : List Nat)
  /-- BOOT_PHASE (R707): A boot phase ends and the next begins, up to BOOT_COMPLETE. -/
  | bootPhase (r : BootResult)
  /-- BOOT_COMPLETE (R708): Ready: the device accepts messages and muster begins. -/
  | bootComplete
  /-- LOFT_UNIT_ZEROED (R710): Recorded bay loft units are zeroed after Ready, enabling BAY_CREATE. -/
  | loftUnitZeroed (port : Nat)
  /-- TRIAL_CONFIRMED (R704): A trial image runs 60 s without failure and becomes active. -/
  | trialConfirmed
  /-- TRIAL_FAILED (R704): A trial image fails before confirmation and the previous image restarts. -/
  | trialFailed
  /-- SELFTEST_DONE (R713): A self-test run completes, passed or failed. -/
  | selftestDone (run : Nat) (failed : Nat) (code : Nat)
  /-- MARGIN_DONE (R716): A margin run completes or is aborted and restores trained settings. -/
  | marginDone (run : Nat) (results : List (Nat × Nat × Nat))
  /-- PLUGGABLE_INSERTION (R676): A pluggable module is inserted in a cage; the port reads its power class and holds it in low power if above 12 W. -/
  | pluggableInsertion (port : Nat) (mw : Nat)
  /-- PFC_REPEAT (R474): Every 20 µs while occupancy stays at or above XON, the PFC pause frame for the priority is sent again. -/
  | pfcRepeat (port : Nat) (sub : Nat) (prio : Nat)
  /-- PFC_PAUSE_EXPIRY (R476): The pause time granted by a received PFC frame runs out and the priority may start frames again. -/
  | pfcPauseExpiry (port : Nat) (sub : Nat) (prio : Nat)
  /-- RESPONDER_ACK_DEADLINE (R484): 2 µs after the last unacknowledged packet the responder sends its coalesced ACK. -/
  | responderAckDeadline (qpn : Nat)
  /-- SPAN_MESSAGE (R538): A named package receives a Span, Prepare or Commit message of a shard-map load or spanned command and applies it, switching versions at its own instant at Commit. -/
  | spanMessage (node : Nat) (kind : Nat) (tag : Nat) (status : Nat) (msgs : List (List Byte))
  /-- GATE_END (R626): The Gate phase of a fallow entry ends, and exit begins on the next edge if a wake was latched at or after the commit point. -/
  | gateEnd (dom : Nat)
  /-- CCLK_PHASE_END (R607): A phase of an operating-point change ends (rails reach the new voltage or the idle PLL locks) and the next phase begins. -/
  | cclkPhaseEnd
  /-- STEWARD_EXCEPTION (R609): A fatal exception in a primary steward starts a steward reset. -/
  | stewardException
  /-- STANDBY_LOSS (R670): The 54 V input and the standby rail are lost: the whole module stops and the hot-swap fault latch clears. -/
  | standbyLoss
  /-- RAIL_DOWN (R672): A main rail falls below 10 % of its setpoint, and the next rail down is disabled or, after the last, the main path opens. -/
  | railDown (rail : Nat)
  /-- UART_TRANSMIT (R658): The UART finishes sending a byte from the 4 KiB console output FIFO, freeing space, and a pending baud change takes effect after the reply ok. -/
  | uartTransmit
  /-- HAND_INSTRUCTION (R272): A hand executes a standard instruction: a load, store or CSR access checked against its regions, with a silo or loft load issued as a single-granule read. -/
  | handInstruction (crew : Nat) (hand : Nat) (pc : Nat) (i : Fetched)
  /-- CLFLUSH_COMPLETE (R570): The CLFlush requests issued for a bias change towards DEVICE-OWNED complete and the change moves to Commit. -/
  | clflushComplete (id : Nat)
  /-- WRITE_COMPLETION (R304): A silo, loft, granary or crib write issued by a COPY, spill, zeroisation or Varlet command completes, releasing entries and commands that waited for it. -/
  | writeCompletion (d : WriteDone)
deriving DecidableEq, Repr

end Sys2Proof
end

