-- ==== Sys2Proof/Decode.lean ====
section
/-! DEFINITION. The rows of the table of operations and events give no bits to their commands (every row's list of fields
is empty): no word spells a command. -/

namespace Sys2Proof

/-- The command a word spells by the table's bits: none, for no row gives bits. -/
def decodeTableWord (_nbits _w : Nat) : Option Instr := none

end Sys2Proof
end

