-- ==== Sys2Proof/Machine/Bytes.lean ====
section
/-! DEFINITION. Bytes and fields: little-endian integers (R9), slices of a message, padding, and lists keyed by a
number, which hold every table of units the device keeps. -/

namespace Sys2Proof.Machine

/-- The value of little-endian bytes (R9). -/
def leNat : List Byte → Nat
  | [] => 0
  | b :: bs => b.toNat + 256 * leNat bs

/-- `n` as `w` little-endian bytes (R9), the bits above them dropped. -/
def leBytes : Nat → Nat → List Byte
  | 0, _ => []
  | w + 1, n => BitVec.ofNat 8 n :: leBytes w (n / 256)

/-- The value of bytes in network order (R483). -/
def beNat (l : List Byte) : Nat := leNat l.reverse

/-- `n` as `w` bytes in network order (R483). -/
def beBytes (w n : Nat) : List Byte := (leBytes w n).reverse

/-- `len` bytes from offset `off`. -/
def slice (off len : Nat) (l : List Byte) : List Byte := (l.drop off).take len

/-- The unsigned field of `w` bytes at offset `off` (R9, R10, R11). -/
def fieldAt (l : List Byte) (off w : Nat) : Nat := leNat (slice off w l)

def u8At (l : List Byte) (off : Nat) : Nat := fieldAt l off 1
def u16At (l : List Byte) (off : Nat) : Nat := fieldAt l off 2
def u32At (l : List Byte) (off : Nat) : Nat := fieldAt l off 4
def u48At (l : List Byte) (off : Nat) : Nat := fieldAt l off 6
def u64At (l : List Byte) (off : Nat) : Nat := fieldAt l off 8

/-- Bits `[lo + w - 1 : lo]` of `n` (R10). -/
def bits (n lo w : Nat) : Nat := (n / 2 ^ lo) % 2 ^ w

/-- Bit `i` of `n`. -/
def bit (n i : Nat) : Bool := n.testBit i

/-- 1 for true. -/
def flag (b : Bool) : Nat := if b then 1 else 0

/-- A two's complement field of `w` bits (R11). -/
def signedOf (w n : Nat) : Int := if n % 2 ^ w < 2 ^ (w - 1) then (n % 2 ^ w : Nat) else (n % 2 ^ w : Nat) - (2 ^ w : Nat)

/-- An integer as a two's complement field of `w` bits. -/
def unsignedOf (w : Nat) (i : Int) : Nat := (i % (2 ^ w : Nat)).toNat

/-- Whether every byte is zero. -/
def allZero (l : List Byte) : Bool := l.all (· == 0)

/-- Whether the `len` bytes at `off` are all zero (a reserved range, R584). -/
def zeroAt (l : List Byte) (off len : Nat) : Bool := allZero (slice off len l)

/-- `n` zero bytes (R12). -/
def zeros (n : Nat) : List Byte := List.replicate n 0

/-- `n` rounded up to a multiple of `k`. -/
def roundUp (n k : Nat) : Nat := (n + k - 1) / k * k

/-- The bytes padded with zeros to a multiple of `k`. -/
def padTo (k : Nat) (l : List Byte) : List Byte := l ++ zeros (roundUp l.length k - l.length)

/-- Exactly `n` bytes: cut or padded with zeros. -/
def fit (n : Nat) (l : List Byte) : List Byte := (l ++ zeros n).take n

/-- The successive chunks of `k` bytes. The first argument bounds the recursion; `l.length` suffices. -/
def chunksAux (k : Nat) : Nat → List Byte → List (List Byte)
  | 0, _ => []
  | f + 1, l => if l.isEmpty then [] else l.take k :: chunksAux k f (l.drop k)

def chunks (k : Nat) (l : List Byte) : List (List Byte) := chunksAux k l.length l

/-- `n` items read by `f` from their indices. -/
def items {α : Type} (n : Nat) (f : Nat → α) : List α := (List.range n).map f

/-- Distinct elements, first occurrences kept. -/
def distinct (l : List Nat) : List Nat := l.foldl (fun acc a => if acc.contains a then acc else acc ++ [a]) []

/-- The same of keys of any kind. -/
def distinctKeys {α : Type} [BEq α] (l : List α) : List α := l.foldl (fun acc k => if acc.contains k then acc else acc ++ [k]) []

/-- The element of the list whose key is `k`, if there is one. -/
def findKey {α : Type} (key : α → Nat) (l : List α) (k : Nat) : Option α := l.find? fun a => key a == k

/-- The list with the element of the same key as `a` replaced by `a`, or `a` added at the end. -/
def putKey {α : Type} (key : α → Nat) (a : α) : List α → List α
  | [] => [a]
  | b :: l => if key b == key a then a :: l else b :: putKey key a l

/-- The list without the elements of key `k`. -/
def dropKey {α : Type} (key : α → Nat) (l : List α) (k : Nat) : List α := l.filter fun a => key a != k

/-- The element at index `i`, if there is one. -/
def nth {α : Type} (l : List α) (i : Nat) : Option α := l[i]?

/-- The number at index `i`, 0 past the end. -/
def natAt (l : List Nat) (i : Nat) : Nat := l.getD i 0

/-- The list with `f` applied at index `i`. -/
def modifyAt {α : Type} (l : List α) (i : Nat) (f : α → α) : List α := l.modify i f

/-- The list with `n` added at index `i`. -/
def addAt (l : List Nat) (i n : Nat) : List Nat := l.modify i (· + n)

def sumBy {α : Type} (f : α → Nat) (l : List α) : Nat := l.foldl (fun n a => n + f a) 0

/-- The least of a list by a key, the first on a tie. -/
def leastBy {α : Type} (f : α → Nat) : List α → Option α
  | [] => none
  | a :: l => match leastBy f l with
    | none => some a
    | some b => if f a ≤ f b then some a else some b

/-- The greatest of a list by a key, the first on a tie. -/
def greatestBy {α : Type} (f : α → Nat) : List α → Option α
  | [] => none
  | a :: l => match greatestBy f l with
    | none => some a
    | some b => if f b ≤ f a then some a else some b

/-- Insertion into a list ascending by a key, after equal keys. -/
def insertBy {α : Type} (f : α → Nat) (a : α) : List α → List α
  | [] => [a]
  | b :: l => if f b ≤ f a then b :: insertBy f a l else a :: b :: l

/-- A stable ascending sort by a key. -/
def sortBy {α : Type} (f : α → Nat) (l : List α) : List α := l.foldl (fun acc a => insertBy f a acc) []

end Sys2Proof.Machine
end

