-- ==== Sys2Proof/Config.lean ====
section
/-! DEFINITION. What the specification leaves open and a run cannot know: constants without a body. -/

namespace Sys2Proof.Config

/-- The device's random source (tokens R501, device nonces R500, starting PSNs R486, muster backoff R509): the `n`-th
draw. Nothing is known of its values. -/
opaque random : Nat → Nat

/-- Whether an Ed25519 signature (RFC 8032) is good: key, message, signature. The algorithm is another standard's; the
specification uses only its outcome (R292, R698). -/
opaque ed25519 : List Byte → List Byte → List Byte → Bool

/-- The firmware verification key held in the boot ROM (R698). -/
opaque romKey : List Byte

/-- Flits that the receivers of the ridge have room for in each class, Control, Response and Request (R513). -/
opaque ridgeCredits : Nat → Nat

/-- A value the specification does not state, by the point it is left open at and the operands it depends on. -/
opaque unstated : Nat → Nat → Nat

end Sys2Proof.Config
end

