-- ==== Sys2Proof/Machine/DataOut.lean ====
section
/-! DEFINITION. What the device puts on its wires: every output of the block, recorded in `State.out`, newest first. -/

namespace Sys2Proof.Machine

/-- The codes a RoCEv2 responder answers with instead of an acknowledgement (R484, R485). -/
inductive Nak where
  | rnr | invalidRequest | remoteAccess | psnSequence
deriving DecidableEq, Repr

/-- One thing sent. -/
inductive Output where
  /-- Frames that leave a sub-port: the VLAN tag, an id and a priority, and the DSCP and ECN codepoint of their IP header, where they have
  one (R473, R477); the fewest bytes of a fragment into which they may be cut, 0 where they are not preemptable (R480); what they carry. -/
  | framed (port sub : Nat) (tag : Option (Nat × Nat)) (ip : Option (Nat × Nat)) (fragment : Nat) (out : Output)
  /-- A VCP message as a UDP datagram from a sub-port's VCP port (R497). -/
  | udp (port sub : Nat) (dst : NetAddr) (dstPort : Nat) (msg : List Byte)
  /-- An RDMA WRITE to a client (R487, R495). -/
  | rdmaWrite (qpn addr key : Nat) (data : List Byte)
  | ack (qpn : Nat)
  | nak (qpn : Nat) (code : Nak)
  /-- A congestion notification to the sender on a queue pair (R477). -/
  | cnp (qpn : Nat)
  | pfc (port sub priority quanta : Nat)
  /-- A frame of another protocol (R471, R634): kind 0 ARP, 1 neighbour discovery, 2 echo, 3 knock reply. -/
  | frame (port sub kind : Nat) (data : List Byte)
  /-- The 802.3br verify and response frames, with the addFragSize advertised (R479). -/
  | preemptVerify (port sub addFragSize : Nat)
  /-- A muster message on a trained yoke link (R505). -/
  | muster (link : Nat) (data : List Byte)
  /-- A posted write to host memory (R565); `ro` is Relaxed Ordering. -/
  | hostWrite (addr : Nat) (data : List Byte) (ro : Bool)
  /-- A read of host memory (R568). -/
  | hostRead (addr len : Nat)
  | msix (vector : Nat)
  /-- The answer to an H2D snoop (R543). -/
  | snoopResponse
  /-- CLFlush requests for every line of a range of host memory (R570). -/
  | clflush (addr len : Nat)
  /-- The value a register read returns (R15). -/
  | readData (value : Nat)
  /-- A fabric message to a node (R521 to R528). -/
  | fabric (node kind : Nat) (msg : List Byte)
  /-- Link layer: a NAK naming a group, or a replay from a group (R514). -/
  | linkNak (link group : Nat)
  | linkReplay (link group : Nat)
  /-- Credit for flits of a class returned to the sender on a link (R513). -/
  | linkCredit (link cls flits : Nat)
  /-- A requested link retrain (R516). -/
  | linkRetrain (link : Nat)
  /-- A ledger message to an owner, or an acknowledgement from one (R420, R421). -/
  | ledger (node kind : Nat) (msg : List Byte)
  /-- A message of a command carried out on several packages (R538, R539), to a node: kind 0 Span, 1 Prepare, 2 the ranges of a
  rebuild, 3 its settings, 4 Commit, 5 a reply, 6 the end of one that has failed. -/
  | span (node kind tag : Nat) (msgs : List (List Byte))
  /-- Bytes printed on the console (R658). -/
  | uart (data : List Byte)
  /-- A transfer on the local bus: target address, bytes written (R652). -/
  | ltw (target : Nat) (data : List Byte)
  /-- Nine clock pulses and a stop on the local bus (R653). -/
  | ltwRecover
  /-- Management bus: an acknowledgement of a byte or not, and bytes read back (R642, R643). -/
  | mtwAck (ok : Bool)
  | mtwRead (data : List Byte)
deriving DecidableEq, Repr

end Sys2Proof.Machine
end

