-- ==== Sys2Proof/Machine/DataBay.lean ====
section
/-! DEFINITION. A bay's owned shares, keys, regulators and lifecycle (chapter 02). -/

namespace Sys2Proof.Machine

/-- The states of a bay (R76). -/
inductive BayState where
  | absent | forming | opened | draining | zeroing
deriving DecidableEq, Repr

/-- The share block (R55, R602), hatch ring and drain timeout at the values in force. Pairs are D0, D1. -/
structure Shares where
  crews : List Nat
  granary : List Nat
  crib : List Nat
  contexts : List Nat
  silo : List Nat
  loft : List Nat
  stageMiB : List Nat
  spillMiB : List Nat
  hatchLog : Nat
  drainMs : Nat
deriving DecidableEq, Repr

/-- A regulator pair (R62): guaranteed minimum and cap per window. -/
structure RegPair where
  min : Nat
  cap : Nat
deriving DecidableEq, Repr

/-- A bay's key set (R61). -/
structure Keys where
  admission : List Byte
  hatch : Nat
  hand : List Byte
deriving DecidableEq, Repr

/-- The counters of BAY_QUERY and R591 (32 bits each). -/
structure BayCounters where
  rejected : Nat
  malformed : Nat
  placement : Nat
  handFaults : Nat
  doorbellFull : Nat
  badDoorbells : Nat
  late : Nat
  dropped : Nat
deriving DecidableEq, Repr

/-- The lifecycle instants of a bay (R79, R80, R84). -/
structure BayLife where
  state : BayState
  drainStart : Option Nat
  /-- BAY_DESTROY was answered while the drain had not ended (R80). -/
  destroyWanted : Bool
  zeroStart : Nat
  /-- Granules of each silo and of each loft port still to be written (R84). -/
  zeroSilo : List Nat
  zeroLoft : List Nat
deriving DecidableEq, Repr

/-- What a bay owns outright and its regulators. -/
structure BayCore where
  life : BayLife
  shares : Shares
  retentionMiB : Nat
  keys : Keys
  regs : List RegPair
  /-- A change that waits for the next window boundary (R70). -/
  regsNext : Option (List RegPair)
  served : List Nat
  debt : List Nat
  /-- The debt with which the window's served counts began (R66). -/
  carried : List Nat
  counters : BayCounters
deriving DecidableEq, Repr

def Shares.none : Shares := ⟨[0, 0], [0, 0], [0, 0], [0, 0], List.replicate 12 0, List.replicate 4 0, [0, 0], [0, 0], 0, 0⟩

def Keys.none : Keys := ⟨[], 0, []⟩

def BayCounters.zero : BayCounters := ⟨0, 0, 0, 0, 0, 0, 0, 0⟩

/-- A bay number that is not in use (R76). -/
def BayCore.absent : BayCore :=
  ⟨⟨.absent, Option.none, false, 0, [], []⟩, Shares.none, 0, Keys.none, List.replicate 36 ⟨0, 0⟩, Option.none,
    List.replicate 36 0, List.replicate 36 0, List.replicate 36 0, BayCounters.zero⟩

end Sys2Proof.Machine
end

