-- ==== Sys2Proof/Machine/DataDevice.lean ====
section
/-! DEFINITION. The device as a whole: its phase, clocks and resets, identity, the event log and the performance counters
(chapters 05, 16, 17). -/

namespace Sys2Proof.Machine

/-- Where the module stands between supply and service (R689, R690, R707, R706, R608). -/
inductive Phase where
  | off | standby | ramp | rails | booting | running | recovery | parked | tripped
deriving DecidableEq, Repr

/-- The boot phases of R707. -/
inductive BootPhase where
  | rom | verify | records | domains | silos | init | selftest | ports | ready
deriving DecidableEq, Repr

/-- What a steward reset does (R609, R612 to R614). -/
inductive StewardState where
  | running
  /-- In reset since an instant, for a cause, at an attempt of this episode. -/
  | inReset (since cause attempt : Nat)
  /-- Stopped for good after the attempts of R614. -/
  | gaveUp
deriving DecidableEq, Repr

/-- An operating-point change of CCLK (R607). -/
inductive CclkPhase where
  | raise | lock | switch | lower
deriving DecidableEq, Repr

structure CclkChange where
  phase : CclkPhase
  target : Nat
  /-- 0 command, 1 thermal ceiling. -/
  cause : Nat
  /-- Waiting command to answer, if a command caused the change. -/
  cmd : Option Nat
deriving DecidableEq, Repr

/-- Parking (R690). -/
inductive Parking where
  | none | draining | rails | parked
deriving DecidableEq, Repr

/-- An event as raised (R661): code, severity, bay and die (none: 0xFF), arguments. -/
structure Event where
  code : Nat
  severity : Nat
  bay : Option Nat
  die : Option Nat
  args : List Byte
deriving DecidableEq, Repr

/-- A 32-byte record of the log with its sequence number (R661, R663). -/
structure LogRecord where
  seq : Nat
  time : Nat
  ev : Event
  flags : Nat
deriving DecidableEq, Repr

/-- A suppression window (R665): its key, when it opened and the records raised in it. -/
structure LogWindow where
  code : Nat
  bay : Option Nat
  die : Option Nat
  opened : Nat
  count : Nat
deriving DecidableEq, Repr

/-- A block of performance counters that is not all zero (R660). -/
structure PerfBlock where
  block : Nat
  counts : List Nat
deriving DecidableEq, Repr

/-- A fan (R695): whether it is present, its last reading, since when it has run below 1,000 rpm while driven, and above it,
and whether it is taken as faulty; the duty of its PWM output. -/
structure Fan where
  present : Bool
  rpm : Nat
  slowSince : Option Nat
  fastSince : Option Nat
  faulty : Bool
  duty : Nat
deriving DecidableEq, Repr

/-- The module as a board (R669 to R691): MATED_N low and debounced, a latched hot-swap fault, the main rails in regulation
(in the order of R672), MOD_RESET_N low, a parking request that waits for boot, and the fans. -/
structure Board where
  mated : Bool
  fault : Option Nat
  rails : Nat
  resetLow : Bool
  parkAtBoot : Bool
  fans : List Fan
deriving DecidableEq, Repr

structure Dev where
  now : Nat
  phase : Phase
  fatal : Bool
  boot : BootPhase
  bootFailed : Bool
  /-- Operating point in force and as set by CCLK_SET: 0, 1, 2 for 1.0, 1.3, 1.6 GHz (R33). -/
  cclk : Nat
  cclkSet : Nat
  cclkChange : Option CclkChange
  thermCeil : Nat
  powerCeil : Nat
  /-- Junction temperatures in 1/16 °C (R608). -/
  tj : List Int
  coolSince : Option Nat
  lowPowerSince : Option Nat
  /-- Instants since which the 25 MHz, 100 MHz and 156.25 MHz references are lost (R606). -/
  refLost : List (Option Nat)
  windowStart : Nat
  /-- When the last boot was Ready (R708). -/
  readyAt : Nat
  steward : StewardState
  /-- The slot whose image runs, once the boot ROM has chosen it (R701), and since when a trial image has run (R704). -/
  slot : Option Nat
  trialSince : Option Nat
  /-- The slot of the trial image that was started last. -/
  trialRan : Option Nat
  /-- Events that the boot ROM has noted and Varlet has still to raise (R701). -/
  notes : List Event
  parking : Parking
  /-- A reset that starts after its response has been sent (R610, R703). -/
  pendingReset : Option Nat
  /-- Sheafs and wicket lookups accepted so far: the number of the next one (R492). -/
  accepted : Nat
  /-- Commands started so far: the number of the next one that answers later. -/
  commands : Nat
deriving DecidableEq, Repr

/-- What the part is (R1, R548, R601, R648, R685). -/
structure Ident where
  /-- 0 M212-432, 1 M212-288. -/
  variant : Nat
  hbm3e : Bool
  serial : Nat
  stepping : Nat
  macBase : Nat
deriving DecidableEq, Repr

end Sys2Proof.Machine
end

