-- ==== Sys2Proof/Machine/DataQuant.lean ====
section
/-! DEFINITION. The settings of a quantisation point (chapter 03): element formats, policy records, scales, zero points,
codebooks, split lists, saturation counters and the ranges that delayed discovery uses. -/

namespace Sys2Proof.Machine

/-- The element formats (R90). -/
inductive Fmt where
  | fp32 | bf16 | fp16 | e4m3 | e5m2 | int8 | int4 | cb4 | cb8
deriving DecidableEq, Repr

/-- A policy record (R145), without its target byte. -/
structure Policy where
  format : Fmt
  /-- 0 direct, 1 two-level -/
  storage : Nat
  /-- 0 off, 1 delayed, 2 first-pass -/
  discovery : Nat
  history : Nat
  margin : Nat
  /-- 0 clip, 1 split -/
  outlier : Nat
  splitCount : Nat
  /-- 0 EVENT, 1 REDO -/
  satPolicy : Nat
  symmetric : Bool
  satThreshold : Nat
deriving DecidableEq, Repr

/-- The range of one column over a step: the least and greatest finite FP32 values, none while there is none (R124). -/
abbrev Range := Option (Nat × Nat)

/-- An explicit multiplier, shift and zero point of an output column (R121, R604). -/
structure Rescale where
  m : Int
  s : Nat
  zp : Int
deriving DecidableEq, Repr

/-- The scales and zero points of a point (R107, R108). An empty list stands for the values of discovery off before any
QUANT_SET_SCALES: scale 1.0, code of 1.0, zero point 0 (R146). -/
structure Scales where
  direct : List Nat
  codes : List Nat
  s2 : Nat
  zps : List Int
deriving DecidableEq, Repr

/-- A run of granules of silo or loft space: its first granule and its length. -/
structure Run where
  first : Nat
  len : Nat
deriving DecidableEq, Repr

/-- A quantisation point: a tier of a table, or the table's lookup output. -/
structure Point where
  policy : Policy
  scales : Scales
  explicit : List Rescale
  /-- The split-column list in force (R131). -/
  splits : List Nat
  /-- BF16 entries of each group of 32 columns; empty while every entry is +0.0 (R111). -/
  codebooks : List (List Nat)
  /-- Saturation counters per column (R135). -/
  sat : List Nat
  /-- Ranges of the completed steps, newest first, at most 16 (R126). -/
  steps : List (List Range)
  /-- Scales that delayed discovery of the output computed at its latest step, none before one has completed (R126). -/
  found : Option Scales
  /-- Where a tier's side tensor, or its codebooks, lie in the bay's silo space (R59, R110). -/
  side : List Run
deriving DecidableEq, Repr

/-- The policy record a table is created with (R145). -/
def Policy.initial : Policy := ⟨.bf16, 0, 0, 0, 0, 0, 0, 0, false, 0⟩

/-- Scales of discovery off before any QUANT_SET_SCALES (R123, R146); s2 is 1.0. -/
def Scales.initial : Scales := ⟨[], [], 0x3F800000, []⟩

def Point.initial : Point := ⟨.initial, .initial, [], [], [], [], [], none, []⟩

end Sys2Proof.Machine
end

