-- ==== Sys2Proof/Machine/DataTable.lean ====
section
/-! DEFINITION. Tables, the hot set, heat and space of a bay (chapters 04, 09, 10, 11, 13). -/

namespace Sys2Proof.Machine

/-- A table descriptor (R148, R149). -/
structure Desc where
  id : Nat
  dim : Nat
  tiers : Nat
  /-- 0 sum, 1 mean, 2 weighted sum, 3 max, 4 min -/
  mode : Nat
  indexSigned : Bool
  partialPool : Bool
  relaxed : Bool
  defaultConfigured : Bool
  gradAccumulate : Bool
  frozen : Bool
  emptySet : Bool
  stalenessK : Nat
  rows : Nat
  emptyValue : Nat
deriving DecidableEq, Repr

/-- A pooling configuration (R251). -/
structure PoolCfg where
  compensated : Bool
  /-- 0 none, 1 add, 2 multiply -/
  fuseOp : Nat
  /-- 0 FP32, 1 BF16 -/
  fuseFormat : Nat
  /-- 0 broadcast, 1 per_bag -/
  fuseMode : Nat
  fuseStream : Nat
deriving DecidableEq, Repr

/-- An optimiser record (R414): FP32 hyperparameters. -/
structure OptRec where
  /-- 0 SGD, 1 momentum, 2 Adagrad, 3 row-wise Adagrad, 4 Adam -/
  kind : Nat
  /-- 3 FP8 E4M3, 5 INT8, 0 where no moment is kept -/
  moment : Nat
  lr : Nat
  eps : Nat
  beta1 : Nat
  beta2 : Nat
  decay : Nat
  c1 : Nat
  c2 : Nat
deriving DecidableEq, Repr

/-- An entry of a shard map (R534). -/
structure MapEntry where
  first : Nat
  last : Nat
  owner : Nat
  priority : Nat
deriving DecidableEq, Repr

structure ShardMap where
  version : Nat
  entries : List MapEntry
deriving DecidableEq, Repr

/-- A directory segment (R163): the rows of one owned range, the blocks that hold its entries and its state records
(R416), in order. -/
structure Segment where
  start : Nat
  rows : Nat
  dir : List Run
  state : List Run
deriving DecidableEq, Repr

inductive TabLife where
  | live | destroying | rebuilding
deriving DecidableEq, Repr

/-- The 64-bit counters of a table: defaulted, alias, discarded gradients, failed updates, non-finite gradients, barrier
timeouts, optimiser-state saturations (R173, R176, R412, R141, R426, R143). -/
structure TabCounters where
  defaulted : Nat
  aliased : Nat
  discarded : Nat
  failed : Nat
  nonFinite : Nat
  barrier : Nat
  momentSat : Nat
deriving DecidableEq, Repr

/-- The phases of a running TIER_REBUILD (R189). -/
inductive RebuildPhase where
  | quiesce | range | reencode
deriving DecidableEq, Repr

structure Rebuild where
  tier : Nat
  phase : RebuildPhase
  /-- Sheafs accepted before this number must have completed (R189). -/
  before : Nat
  /-- Settings carried by the command or computed by discovery (R188). -/
  scales : Scales
  books : List (List Nat)
  /-- The command, answered after Resume. -/
  cmd : Nat
  /-- The other packages of a spanned table that have still to report, and the ranges they have reported (R539). -/
  peers : List Nat
  ranges : List Range
  /-- The package that leads the rebuild, where it is not this one, and its tag. -/
  lead : Option (Nat × Nat)
deriving DecidableEq, Repr

structure Tab where
  desc : Desc
  life : TabLife
  /-- T0 to T3, then the lookup output. -/
  points : List Point
  pool : PoolCfg
  opt : OptRec
  segments : List Segment
  /-- The configured default row and its state record (R174, R416). -/
  defRow : Option Run
  defState : Option Run
  counters : TabCounters
  map : ShardMap
  /-- The map before, with the sheaf number and the instant that end its retention (R537). -/
  prevMap : Option (ShardMap × Nat × Nat)
  /-- Highest epoch accepted here (R427). -/
  epochHigh : Option Nat
  /-- Epochs of the update sheafs accepted that are not complete, and the ranges that flails have recorded for an epoch and tier
  until then (R124, R144, R427). -/
  epochs : List Nat
  epochRanges : List (Nat × Nat × List Range)
  rebuild : Option Rebuild
  /-- Sheafs accepted before this number must complete before the overwrite (R156). -/
  destroyBefore : Nat
deriving DecidableEq, Repr

/-- A hot-set copy (R356, R357): the row and its offset in the half. -/
structure HotCopy where
  table : Nat
  row : Nat
  off : Nat
  granules : Nat
deriving DecidableEq, Repr

/-- A bay's hot set on one die (R354, R359, R361). -/
structure HotDie where
  gen : Nat
  /-- The live half: 0 for H0, 1 for H1. -/
  live : Nat
  /-- Copies recorded in the index of H0 and of H1. -/
  index : List (List HotCopy)
  /-- While the shadow half is retiring: work accepted before this number was bound to it. -/
  retiring : Option Nat
  /-- Offsets of granary-homed rows, the same in both halves (R167). -/
  homes : List Run
  /-- Freed granules per half not yet released: the run and the sheaf number that releases it (R367, R180). -/
  freed : List (Nat × Run × Nat)
deriving DecidableEq, Repr

/-- A staged copy in a die's stage area (R376): the row, its place, the row's bytes being there. -/
structure Staged where
  table : Nat
  row : Nat
  sheaf : Nat
  at_ : Nat
  granules : Nat
  /-- In the crib rather than the stage area (R375). -/
  inCrib : Bool
  tier : Nat
  /-- Source address and update_epoch of a loft row; owner and instant of issue of a remote one (R376). -/
  src : Nat
  epoch : Nat
  node : Option Nat
  issued : Nat
  used : Nat
  data : List Byte
  /-- Its staging read, and whether that has ended. -/
  read : Nat
  done : Bool
deriving DecidableEq, Repr

/-- Staging counters of a die: staged, hits, evicted, discarded, invalidated, failed (R384). -/
structure StageDie where
  copies : List Staged
  counters : List Nat
deriving DecidableEq, Repr

structure RunAhead where
  enable : Nat
  dest : Nat
  depth : Nat
  /-- Crib limit in 256 KiB units; none is the default, a quarter of the die's crib share. -/
  cribLimit : Option Nat
  outstanding : Nat
deriving DecidableEq, Repr

structure Granary where
  dies : List HotDie
  refreshMs : Nat
  refreshAt : Option Nat
  snapAction : Nat
  runahead : RunAhead
  stage : List StageDie
deriving DecidableEq, Repr

/-- The heat sketch (R191): non-zero counters keyed by 65,536 × sketch row + index, ascending; and the snapshot. -/
structure Heat where
  live : List (Nat × Nat)
  snapSeq : Nat
  snap : List (Nat × Nat)
deriving DecidableEq, Repr

/-- The granule space of a bay (R434, R435, R457): silo and loft extents' owners, allocated runs, and runs that wait for
earlier sheafs (R180), with the number of the first sheaf that does not hold them back. -/
structure Space where
  siloExt : List Nat
  /-- The unit of its silo that each silo extent is (R433). -/
  siloUnit : List Nat
  loftExt : List Nat
  siloUsed : List Run
  loftUsed : List Run
  siloFreed : List (Run × Nat)
  loftFreed : List (Run × Nat)
  /-- Pages of 64 granules retired in the bay's silo space (R443), by page number. -/
  retired : List Nat
  /-- Extents of loft space that are lost (R463, R464). -/
  lostLoft : List Nat
  /-- Entries rewritten in a directory granule that could not be read: granule and byte of the entry (R445). -/
  dirFixed : List (Nat × Nat)
  /-- Runs of the retention area on each die (R429). -/
  retention : List (List Run)
deriving DecidableEq, Repr

def TabCounters.zero : TabCounters := ⟨0, 0, 0, 0, 0, 0, 0⟩
def PoolCfg.initial : PoolCfg := ⟨true, 0, 0, 0, 0⟩
def OptRec.initial : OptRec := ⟨0, 0, 0, 0, 0, 0, 0, 0, 0⟩
def Heat.zero : Heat := ⟨[], 0, []⟩
def Space.empty : Space := ⟨[], [], [], [], [], [], [], [], [], [], [[], []]⟩
def HotDie.initial : HotDie := ⟨0, 0, [[], []], Option.none, [], []⟩
def StageDie.initial : StageDie := ⟨[], [0, 0, 0, 0, 0, 0]⟩

end Sys2Proof.Machine
end

