-- ==== Sys2Proof/Machine/DataFabric.lean ====
section
/-! DEFINITION. Ridge, yokes and the messages between packages: links, forwarded requests, reassembly, ledger channels,
relays and spanned commands (chapters 10, 13, 14). -/

namespace Sys2Proof.Machine

/-- Phases of a command carried out on several packages (R538, R539). -/
inductive SpanPhase where
  | span | prepare | commit
deriving DecidableEq, Repr

/-- A spanned command in progress on the package that received it. -/
structure Span where
  tag : Nat
  req : Req
  bay : Nat
  /-- The packages named, and those that have answered the phase under way. -/
  nodes : List Nat
  replied : List Nat
  phase : SpanPhase
  since : Nat
  /-- Messages that create the table where it is missing (R539). -/
  setup : List (List Byte)
  /-- The answer to give after the last Commit: body. -/
  body : List Byte
deriving DecidableEq, Repr

/-- What this package holds prepared for a command on several packages (R538, R539): the issuing package (or this one), the command's tag,
the bay and table, the directory segments allocated for it, whether the table was created for it, the command's message, and whether its
Commit has come and waits for what is under way on the table. -/
structure Prepared where
  node : Nat
  tag : Nat
  bay : Nat
  table : Nat
  segments : List Segment
  created : Bool
  msg : List Byte
  due : Bool
deriving DecidableEq, Repr

/-- The path on which a message left (R529): a yoke link, a yoke link towards a relay package, Ethernet, a host relay, or
none. -/
inductive FabPath where
  | yoke (y : Nat)
  | via (y node : Nat)
  | ether (port sub : Nat)
  | host (i : Nat)
  | none
deriving DecidableEq, Repr

/-- A CONTRIB message retained by its sender (R422): its number, the sheaf, when last sent, how often again. -/
structure LedgerMsg where
  seq : Nat
  sheaf : Nat
  die : Nat
  data : List Byte
  sentAt : Nat
  retries : Nat
  /-- The path it was last sent on, and since when its timer is paused (R531). -/
  path : FabPath
  pausedAt : Option Nat
deriving DecidableEq, Repr

/-- The channel to an owner, for a bay (R419). -/
structure Channel where
  bay : Nat
  node : Nat
  nextSeq : Nat
  sent : List LedgerMsg
deriving DecidableEq, Repr

/-- A CONTRIB message at its owner (R421): held, or being applied with the counts of its acknowledgement. -/
structure Inbound where
  seq : Nat
  data : List Byte
  applying : Bool
  /-- Its acknowledgement has been sent; it stays until every lower number's has been. -/
  done : Bool
  left : Nat
  status : Nat
  defaulted : Nat
  failed : Nat
  saturated : Nat
  /-- Copies of it that arrived while it was in progress. -/
  duplicates : Nat
deriving DecidableEq, Repr

/-- The owner's side of a channel (R419, R421): the lowest number not applied, and messages held or in progress. -/
structure OwnerChannel where
  bay : Nat
  node : Nat
  next : Nat
  msgs : List Inbound
deriving DecidableEq, Repr

/-! ### Links (R512 to R518) -/

/-- The states of a link: those of R518 for a yoke, with the retry phases of R516; the ridge is UP, in retry, or lost. -/
inductive LinkState where
  | disabled | down | training | foreign | up | retry | retrain | replay
deriving DecidableEq, Repr

/-- A message that waits for its link: its class (R513), the bay it is charged to, whether a cap does not hold it back (R66), its
flits, the ridge point it passes on its way to the link (R24, R526), what it carries. -/
structure LinkMsg where
  cls : Nat
  bay : Option Nat
  wicket : Bool
  flits : Nat
  ridge : Option Nat
  out : Output
deriving DecidableEq, Repr

/-- Link 0 is the ridge, 1 to 4 the yokes 0 to 3. -/
structure Link where
  state : LinkState
  /-- Node ID of the partner, from its training pattern. -/
  partner : Nat
  /-- Sequence numbers modulo 256: the next group to send, the oldest unacknowledged one, the next group expected. -/
  sendNext : Nat
  sendBase : Nat
  expected : Nat
  /-- When the oldest unacknowledged group was last sent, consecutive replays of it, and failed retrain attempts. -/
  sentAt : Nat
  replaysRun : Nat
  attempts : Nat
  /-- Since when the link is not UP (R531). -/
  since : Nat
  replays : Nat
  crcErrors : Nat
  retrains : Nat
  malformed : Nat
  /-- Flits that the receiver has room for in each class, Control, Response and Request; and request flits taken in for which
  credit is withheld (R513, R530). -/
  credits : List Nat
  owed : Nat
  /-- Messages that wait, oldest first. -/
  queue : List LinkMsg
deriving DecidableEq, Repr

/-! ### Forwarded requests (R521 to R533) -/

/-- A READ_REQ or POOL_REQ in flight; its read record bears the same number. -/
structure FabRequest where
  id : Nat
  bay : Nat
  die : Nat
  node : Nat
  kind : Nat
  table : Nat
  version : Nat
  rows : List Nat
  msg : List Byte
  path : FabPath
  reissued : Bool
  /-- The request that this one reissues (R533). -/
  original : Option Nat
  /-- Since when its timeout is paused (R531). -/
  pausedAt : Option Nat
deriving DecidableEq, Repr

/-- A message under reassembly (R527, R528). -/
structure Reasm where
  die : Nat
  sender : Nat
  id : Nat
  count : Nat
  len : Nat
  segs : List (Nat × List Byte)
  startedAt : Nat
deriving DecidableEq, Repr

/-- A relay through host memory (R572 to R574). -/
structure Relay where
  peer : Nat
  base : Nat
  enabled : Bool
  /-- Own producer and consumer counts, alive count, and those read last from the peer, with the instant its alive count
  changed. -/
  produced : Nat
  consumed : Nat
  alive : Nat
  peerProduced : Nat
  peerConsumed : Nat
  peerAlive : Nat
  peerAliveAt : Option Nat
  /-- When this package last polled, and last increased its alive count. -/
  polledAt : Nat
  aliveAt : Nat
  /-- Slots that wait for room. -/
  queue : List (List Byte)
deriving DecidableEq, Repr

/-- A READ_REQ or POOL_REQ in the incoming queue of a die (R530): the link it came on, the message. -/
structure Incoming where
  die : Nat
  link : Option Nat
  msg : List Byte
deriving DecidableEq, Repr

structure Fabric where
  spans : List Span
  prepared : List Prepared
  channels : List Channel
  owners : List OwnerChannel
  malformedLedger : Nat
  links : List Link
  requests : List FabRequest
  reasm : List Reasm
  reasmDrops : Nat
  /-- Next message id per destination node (R527), and segments discarded. -/
  msgIds : List (Nat × Nat)
  segmentDrops : Nat
  /-- Owners that answered FAULTED, NO_BAY or STATE: node, bay and when (R535). -/
  refusals : List (Nat × Nat × Nat)
  relays : List Relay
  incoming : List Incoming
  /-- Segments whose intake waits for room, oldest first: die, message id, payload (R528). -/
  intake : List (Nat × Nat × List Byte)
deriving DecidableEq, Repr

def Link.initial : Link :=
  { state := .down, partner := 0, sendNext := 0, sendBase := 0, expected := 0, sentAt := 0, replaysRun := 0, attempts := 0,
    since := 0, replays := 0, crcErrors := 0, retrains := 0, malformed := 0, credits := [0, 0, 0], owed := 0, queue := [] }

def Fabric.initial : Fabric :=
  { spans := [], prepared := [], channels := [], owners := [], malformedLedger := 0,
    links := [{ Link.initial with state := .up, credits := [Config.ridgeCredits 0, Config.ridgeCredits 1, Config.ridgeCredits 2] },
      Link.initial, Link.initial, Link.initial, Link.initial],
    requests := [], reasm := [], reasmDrops := 0, msgIds := [], segmentDrops := 0, refusals := [], relays := [], incoming := [], intake := [] }

end Sys2Proof.Machine
end

