-- ==== Sys2Proof/Machine/DataNet.lean ====
section
/-! DEFINITION. Network ports, queue pairs, sessions and muster (chapter 12). -/

namespace Sys2Proof.Machine

inductive SessState where
  | opened | orphaned | ended
deriving DecidableEq, Repr

/-- The ledger of a session (R390): N, the numbers above it already consumed, and the highest number accepted. Sheafs
held or in flight are the sheafs of the datapath that bear the session. -/
structure SessLedger where
  next : Nat
  consumed : List Nat
  highest : Nat
deriving DecidableEq, Repr

/-- A partial chunked upload (R595): command, total length, bytes so far. -/
structure Upload where
  op : Nat
  total : Nat
  data : List Byte
deriving DecidableEq, Repr

structure Session where
  handle : Nat
  /-- None for a device-scope session (bay 0xFFFF). -/
  bay : Option Nat
  token : Nat
  state : SessState
  leaseMs : Nat
  holdS : Nat
  /-- End of the lease while OPEN, of the orphan hold while ORPHANED (R511). -/
  expiry : Nat
  /-- The bound UDP source (R498). -/
  udp : Option (NetAddr × Nat)
  /-- The last 256 responses sent over UDP, newest first, with where they went (R498). -/
  replay : List (Nat × List Byte)
  ledger : SessLedger
  dropped : Nat
  /-- Highest stack readings since this session's last SILO_QUERY, per silo (R447). -/
  highTemp : List (Option Int)
  uploads : List Upload
deriving DecidableEq, Repr

/-- A device nonce (R500). -/
structure Nonce where
  value : Nat
  bay : Option Nat
  client : List Byte
  expiry : Nat
deriving DecidableEq, Repr

/-- An RDMA WRITE sent and not yet acknowledged (R484): its first PSN and the packets it takes. -/
structure SentWrite where
  /-- Its class: 0 urgent, 1 bulk (R473). -/
  cls : Nat
  psn : Nat
  packets : Nat
  addr : Nat
  key : Nat
  data : List Byte
  /-- The sheaf or lookup whose results or record it places, by acceptance number (R225). -/
  work : Option Nat
deriving DecidableEq, Repr

/-- The client's response ring of a queue pair (R487). -/
structure RespRing where
  addr : Nat
  key : Nat
  slots : Nat
  count : Nat
deriving DecidableEq, Repr

structure Qp where
  qpn : Nat
  session : Nat
  bay : Option Nat
  port : Nat
  sub : Nat
  /-- The device address it is bound to: its index in the sub-port's list, none for the link-local address (R486). -/
  addr : Option Nat
  clientQpn : Nat
  clientIp : NetAddr
  mtu : Nat
  timeoutExp : Nat
  retryMax : Nat
  ring : RespRing
  /-- RTS, or ERROR with its cause (R489). -/
  error : Option Nat
  /-- The instant the oldest unacknowledged WRITE was last sent, and the retries left (R484). -/
  sentAt : Nat
  retriesLeft : Nat
  nextPsn : Nat
  unacked : List SentWrite
  /-- Packets received and not yet acknowledged, and when the last came (R484). -/
  rxUnacked : Nat
  rxLast : Nat
  /-- Send rate in kb/s; instants of the last cut, of the last CNP or rise, and of the last CNP sent (R477, R478). -/
  rateKb : Nat
  cutAt : Option Nat
  quietSince : Nat
  cnpAt : Option Nat
  sent : Nat
  retransmitted : Nat
  cnps : Nat
deriving DecidableEq, Repr

/-- One IP address of a sub-port (R471). -/
structure PortAddr where
  addr : NetAddr
  prefixLen : Nat
  vlan : Nat
deriving DecidableEq, Repr

/-- 802.3br verification of a sub-port (R479, R482). -/
inductive Verify where
  | off | verifying (attempts : Nat) | active | failed
deriving DecidableEq, Repr

/-- A run of frames that waits at a sub-port's egress: the bay it is charged to (R496), whether it is a level-0 wicket result
(R732), whether a cap does not hold it back (R66), frames, bytes, the ridge point they pass on their way to the port, with the payload
bytes that cross, their class and the VLAN id of the address they leave from (R473; 0 for none), what they carry. -/
structure Frames where
  bay : Option Nat
  ahead : Bool
  wicket : Bool
  frames : Nat
  bytes : Nat
  ridge : Option (Nat × Nat)
  cls : Nat
  vlan : Nat
  out : Output
deriving DecidableEq, Repr

/-- Received and sent pause of one priority of a sub-port (R474, R476). -/
structure PrioState where
  /-- Instant at which the pause in force began, and when it runs out. -/
  pausedSince : Option Nat
  pausedUntil : Nat
  stormAt : Option Nat
  /-- Ingress bytes waiting; whether XOFF has been sent, and when last. -/
  occupancy : Nat
  xoffAt : Option Nat
  /-- Frames that wait for the pause to end, for the port to wake, for a preemption or for their bay's cap, oldest first (R476,
  R480, R64). -/
  waiting : List Frames
deriving DecidableEq, Repr

structure SubPort where
  link : Bool
  addrs : List PortAddr
  verify : Verify
  /-- When the last verify frame was sent (R479). -/
  verifyAt : Nat
  /-- addFragSize advertised by the partner (R479). -/
  fragSize : Nat
  prios : List PrioState
  /-- corrected and uncorrectable codewords, FCS errors, discarded frames, PFC frames sent (NET_PORT_QUERY). -/
  counters : List Nat
  /-- Bytes of the first fragments of a preemptable frame, which are held (R481). -/
  fragment : Option Nat
deriving DecidableEq, Repr

/-- The settings of a port (NET_PORT_SET), in the order of its layout. -/
structure PortSettings where
  mode : Nat
  pfcMask : Nat
  expressMask : Nat
  preempt : Nat
  priorities : List Nat
  dscps : List Nat
  xoff : Nat
  xon : Nat
  floorMb : Nat
  stepDen : Nat
  intervalUs : Nat
  vcpPort : Nat
  dscpMap : List Nat
deriving DecidableEq, Repr

structure Port where
  settings : PortSettings
  subs : List SubPort
  /-- 0 no pluggable module, 1 one in use, 2 one held in low power (R676). -/
  cage : Nat
deriving DecidableEq, Repr

/-- A member of the roster (R508, R510). -/
structure Member where
  nodeId : Nat
  number : Nat
  heardAt : Nat
  /-- Its roster address, where it has an UP sub-port with one (R527). -/
  addr : Option NetAddr
deriving DecidableEq, Repr

inductive MusterPhase where
  | announce | decide | admitting | stable | stopped
deriving DecidableEq, Repr

/-- The settings of R505, kept in boot flash. -/
structure MusterConfig where
  nodeId : Nat
  fieldId : Nat
  fieldKey : List Byte
  port : Nat
  seeds : List Nat
deriving DecidableEq, Repr

structure Muster where
  config : MusterConfig
  /-- A configuration that takes effect at the next Announce (R511). -/
  next : Option MusterConfig
  phase : MusterPhase
  phaseSince : Nat
  announceAt : Nat
  rosterAt : Nat
  heardRosterAt : Nat
  coordinator : Option Nat
  epoch : Nat
  roster : List Member
  /-- Node IDs heard, each with its source and when last (R506, R509), and the coordinator of a ROSTER heard since Announce
  began. -/
  heard : List (Nat × Nat × Nat)
  rosterHeard : Option Nat
  number : Option Nat
  detections : Nat
  backoffUntil : Option Nat
  discarded : Nat
deriving DecidableEq, Repr

structure Net where
  sessions : List Session
  nonces : List Nonce
  /-- Failures per source address, their instants newest first; and sources ignored until an instant (R500). -/
  authFails : List (NetAddr × Nat)
  ignored : List (NetAddr × Nat)
  nextHandle : Nat
  nextQpn : Nat
  nextKey : Nat
  qps : List Qp
  /-- Commands accepted by the primary stewards and not yet started, in their order (R589). -/
  stewardQueue : List Req
  /-- Commands started that wait for something under way, in the order in which they started. -/
  parked : List Req
  ports : List Port
  /-- The malformed-VCP counter, and discards by reason: datagrams short or bad, long, unbound source, ICRC, fragments
  (R470, R484, R497, R498, R581). -/
  malformedVcp : Nat
  discards : List Nat
  muster : Muster
deriving DecidableEq, Repr

end Sys2Proof.Machine
end

