-- ==== Sys2Proof/Machine/DataFlash.lean ====
section
/-! DEFINITION. The boot flash: firmware slots and the records kept across every reset (R693, R697 to R701). -/

namespace Sys2Proof.Machine

inductive SlotState where
  | empty | valid | active | trial
deriving DecidableEq, Repr

/-- A firmware slot (R698, R700): the header fields of its image, and whether its signature is good. -/
structure Slot where
  state : SlotState
  version : Nat
  build : Nat
  security : Nat
  journal : Nat
  raiseFloor : Bool
  good : Bool
deriving DecidableEq, Repr

/-- A lane repair (R450, R711): silo, channel, lane. -/
structure Repair where
  silo : Nat
  channel : Nat
  lane : Nat
deriving DecidableEq, Repr

structure Flash where
  slots : List Slot
  trialAttempted : Bool
  /-- Kept domain configurations (R625): domain index, fallow state, hysteresis. -/
  domCfg : List (Nat × Nat × Nat)
  /-- Bays recorded as ZEROING (R86). -/
  zeroing : List Nat
  /-- Loft units assigned to bays, per port (R611), and those still to be zeroed after a reset (R710). -/
  loftUnits : List (Nat × Nat)
  loftToZero : List (Nat × Nat)
  /-- Retired pages per silo (R443), as physical page numbers under the bay they were found in: silo, bay, page. -/
  retired : List (Nat × Nat × Nat)
  repairs : List Repair
  roster : List Member
  muster : MusterConfig
  /-- Addresses of every sub-port: port, sub-port, addresses (R471). -/
  addrs : List (Nat × Nat × List PortAddr)
  adminSecret : List Byte
  /-- The last 32 FATAL records, newest first (R663). -/
  fatal : List LogRecord
deriving DecidableEq, Repr

def Slot.none : Slot := ⟨.empty, 0, 0, 0, 0, false, false⟩

end Sys2Proof.Machine
end

