-- ==== Sys2Proof/Machine/DataMemory.lean ====
section
/-! DEFINITION. Silos and loft ports (chapter 11). -/

namespace Sys2Proof.Machine

/-- A silo (R430, R442, R443, R447 to R453). -/
structure Silo where
  /-- Last stack temperature reading in °C, and for each leave threshold (92, 95, 98, 102) since when every reading has
  been below it. -/
  temp : Int
  below : List (Option Nat)
  /-- Throttle step: 0 100 %, 1 75 %, 2 50 %, 3 25 %, 4 halt, 5 lost; and a step that waits for the next window. -/
  step : Nat
  nextStep : Option Nat
  stepAt : Nat
  haltedAt : Option Nat
  lost : Bool
  /-- Lane repairs used and left (R450). -/
  sparesUsed : Nat
  sparesLeft : Nat
  /-- Corrected and uncorrectable errors, counted per pseudo-channel and bay (16: none): the key is 32 × bay + channel. -/
  errs : List (Nat × Nat × Nat)
  /-- Per pseudo-channel: instants of its last corrected errors, newest first, and of its last event (R442). -/
  ce : List (Nat × List Nat × Option Nat)
  /-- Instants of the last uncorrectable granules, newest first (R452). -/
  ue : List Nat
  retireFull : Bool
  /-- The granule that the running scrub pass reads next, and when the pass began (R446). -/
  scrubAt : Nat
  scrubFrom : Nat
deriving DecidableEq, Repr

/-- The label of an expander (R462): the package's serial number, the port number, and a number drawn afresh. -/
structure LoftLabel where
  serial : Nat
  port : Nat
  nonce : Nat
deriving DecidableEq, Repr

inductive LoftState where
  | absent | up | down | lost | disabled
deriving DecidableEq, Repr

/-- A loft port and its expander (R455 to R465). -/
structure Loft where
  state : LoftState
  gts : Nat
  width : Nat
  /-- 0: 68-byte, 1: 256-byte flits -/
  flit : Nat
  /-- DevLoad in force, one that waits for the next window, and when each level was indicated last (R459). -/
  devload : Nat
  devloadNext : Option Nat
  devloadAt : List Nat
  /-- Units of 256 MiB of the expander. -/
  units : Nat
  label : LoftLabel
  /-- Corrected and uncorrectable errors by bay (16: none). -/
  errs : List (Nat × Nat × Nat)
  /-- Since when the port is DOWN, and the last retrain attempt (R463). -/
  downAt : Nat
  /-- Whether a write was outstanding when the link went down (R463). -/
  writesOut : Bool
deriving DecidableEq, Repr

/-- The memories: the scrub period in hours (R446); and the granules, by key, of rows that read chaffed until ROW_WRITE rewrites them,
though nothing is wrong with what they hold (R190, R412). -/
structure Memsys where
  silos : List Silo
  lofts : List Loft
  scrubHours : Nat
  chaff : List Nat
deriving DecidableEq, Repr

end Sys2Proof.Machine
end

