-- ==== Sys2Proof/Machine/DataMgmt.lean ====
section
/-! DEFINITION. The event log, the counters, the management two-wire bus, the local bus, the console and the sensors
(chapter 17), and the self-test and margin runs (chapter 19). -/

namespace Sys2Proof.Machine

/-- The management two-wire slave (R640 to R651). -/
structure Mtw where
  pointer : Nat
  pec : Bool
  alertEn : Bool
  alertLevel : Nat
  lanAddr : Nat
  busy : Bool
  /-- The response held in MTW_RSP. -/
  response : Option (List Byte)
  /-- The response that Varlet has ready and has not placed yet. -/
  ready : Option (List Byte)
  /-- The event cursor (R650). -/
  cursor : Nat
  /-- The alert output was released by an alert response; it returns with a record at or above this sequence. -/
  releasedAt : Option Nat
  /-- Instants of the wrong packet error codes of the last second, newest first (R644). -/
  pecFails : List Nat
deriving DecidableEq, Repr

/-- The local two-wire master (R652, R653): the transfer in progress (target, bytes, retries, not-acknowledges), stuck
lines, and when a target last raised LTW_NACK. -/
structure Ltw where
  /-- Target, bytes written, and what the transfer is for: 0 a reading, 1 a regulator setting. -/
  transfer : Option (Nat × List Byte × Nat)
  retries : Nat
  nacks : Nat
  /-- Before when the bus is left alone (R652, R653). -/
  notBefore : Nat
  /-- Since when SCL has been found stuck, or was last checked. -/
  stuckScl : Option Nat
  lastNack : List (Nat × Nat)
deriving DecidableEq, Repr

/-- The UART and the console (R655 to R658). -/
structure Uart where
  /-- Index into the rates of R655. -/
  baud : Nat
  rx : List Byte
  line : List Byte
  /-- Bytes waiting in the 4 KiB output FIFO, oldest first. -/
  tx : List Byte
  level : Nat
  /-- A rate, and the bytes of the FIFO that are to be sent before it takes effect (R658). -/
  pendingBaud : Option (Nat × Nat)
deriving DecidableEq, Repr

/-- A sensor (R659): status 0 normal, 1 warning, 2 critical, 3 unavailable; signed milli-units. -/
structure Sensor where
  status : Nat
  value : Int
deriving DecidableEq, Repr

/-- A self-test run (R713): state 0 running, 1 passed, 2 failed. -/
structure SelfTest where
  run : Nat
  mask : Nat
  state : Nat
  failed : Nat
  failure : Nat
deriving DecidableEq, Repr

/-- A margin run (R714 to R716): its target and lanes, state and measured records of lane, margins and unit. -/
structure Margin where
  run : Nat
  kind : Nat
  index : Nat
  sub : Nat
  axis : Nat
  lanes : Nat
  state : Nat
  results : List (Nat × Nat × Nat × Nat)
deriving DecidableEq, Repr

structure Mgmt where
  log : List LogRecord
  windows : List LogWindow
  perf : List PerfBlock
  mtw : Mtw
  ltw : Ltw
  uart : Uart
  sensors : List Sensor
  selftests : List SelfTest
  margins : List Margin
  nextRun : Nat
  /-- Partial chunked uploads over MTW, which has no session (R595, R599). -/
  uploads : List (Nat × Nat × List Byte)
  /-- Highest stack readings since MTW's last SILO_QUERY (R447). -/
  high : List (Option Int)
deriving DecidableEq, Repr

end Sys2Proof.Machine
end

