-- ==== Sys2Proof/Machine/DataPath.lean ====
section
/-! DEFINITION. Work in flight: sheafs and their sections, jobs of crews and their hands, stream contexts, reads and writes,
threshers, wicket lookups, flails, moves of rows and commands that answer later (chapters 04 to 10). -/

namespace Sys2Proof.Machine

/-! ### Sheafs (chapters 05, 10) -/

/-- How a sheaf's doorbell came (R492, R556): the queue pair, or the tether and its session. -/
inductive Origin where
  | net (qpn : Nat)
  | tether
  /-- By a tether that has been reset since: nothing of it is placed (R576). -/
  | lost
deriving DecidableEq, Repr

/-- Binding of a (table, role) pair to a program (R294): role 1 GLEAN, 2 EXPAND; program 0 is the standard one. -/
structure Binding where
  table : Nat
  role : Nat
  program : Nat
  budgetUs : Nat
deriving DecidableEq, Repr

/-- A loaded bay program (R291). -/
structure Program where
  no : Nat
  roles : Nat
  codeSize : Nat
  dataSize : Nat
  codeAddr : Nat
  dataAddr : Nat
  entry : Nat
  buildId : Nat
  /-- The verified image kept for reloads (R292, R298). -/
  image : List Byte
  /-- Silo space in which the bay keeps it. -/
  store : List Run
deriving DecidableEq, Repr

/-- Where a sheaf stands between its doorbell and its completion record. -/
inductive SheafPhase where
  /-- An update sheaf held behind a gap (R391). -/
  | held
  /-- A duplicate of a sheaf in flight, waiting for its completion (R393). -/
  | duplicate
  /-- Accepted or released, waiting for its fence, a crew and a context, or for a rebuild (R231, R274). -/
  | accepted
  /-- In a crew's queue (R274). -/
  | queued
  /-- Being gleaned or expanded (R287, R288). -/
  | running
  /-- Job ended: pooling, or being tallied. -/
  | working
  /-- Its contributions have been grouped: the tally coalesces the groups (R263, R403). -/
  | tallying
  /-- Its contributions have been tallied: they are being submitted and applied (R405, R410). -/
  | applying
  /-- Only its completion record remains, with this status; results are placed or there are none. -/
  | finished (status : Nat)
deriving DecidableEq, Repr

/-- What a bag position names (R320): kind 0 ROW, 1 DEFAULT, 2 ALIAS, 3 REMOTE_PARTIAL; 4 stands for a position that no
entry covers (R280), and 5 for one whose map entry has not been read. -/
structure Pos where
  slot : Nat
  kind : Nat
  lastUse : Bool
deriving DecidableEq, Repr

/-- A row slot of a reorder window (R308, R320, R323). -/
structure RowSlot where
  slot : Nat
  row : Nat
  tier : Nat
  /-- The space its data is read from: 0 granary (read in place), or as R305. -/
  home : Nat
  /-- The half the granary data lies in, and its address. -/
  half : Nat
  addr : Nat
  granules : Nat
  /-- The row's bytes, once they have arrived. -/
  data : Option (List Byte)
  chaffed : Bool
  /-- Released after its last use (R323), and whether its heat increment has been made (R324). -/
  released : Bool
  heated : Bool
  /-- The context whose crib space it takes, and the granules of that space it takes (R319). -/
  ctx : Nat
  took : Nat
  /-- Where its data lies in the spill area, while it is there (R335). -/
  spilled : Option Nat
deriving DecidableEq, Repr

/-- A partial from an owner (R218): values s and c, sums, or value, winner and position per column. -/
structure Partial where
  node : Nat
  bag : Nat
  defaulted : Nat
  chaffed : Bool
  s : List Nat
  c : List Nat
  acc : List Int
  win : List (Nat × Nat)
deriving DecidableEq, Repr

/-- A pooled bag as it leaves the output stage (R220, R221). -/
structure BagOut where
  bag : Nat
  status : Nat
  /-- The element codes of its vector, none while first-pass discovery holds it (R249), and the FP32 values. -/
  codes : List Nat
  vals : List Nat
  wins : List Nat
  sat : Nat
deriving DecidableEq, Repr

/-- A table section of a sheaf (R202, R387) and its progress. -/
structure Section where
  table : Nat
  /-- The table's record in force at the doorbell (R147, R253, R415, R536). -/
  tab : Tab
  weightFmt : Nat
  width : Nat
  gradFmt : Nat
  offsets : List Nat
  indices : List Nat
  weights : List Nat
  gradScales : List Nat
  grads : List Nat
  winners : List Nat
  /-- Members of U (R424), by sheaf number and epoch; and whether the barrier has been passed, stale (true) or not. -/
  u : List (Nat × Nat)
  barrier : Option Bool
  barrierAt : Nat
  /-- The reorder window (R320), none before its BIND. -/
  window : Option (List Pos)
  /-- distinct_rows of its BIND (R308), the context that issued it, and that context's queue (R327). -/
  distinct : Nat
  ctx : Nat
  queue : Nat
  slots : List RowSlot
  done : Bool
  partials : List Partial
  /-- Tiers whose side tensors have been fetched (R327): tier and whether they were readable. -/
  sides : List (Nat × Bool)
  /-- Fused operand rows that have arrived (R252): row, bytes, chaffed. -/
  fused : List (Nat × List Byte × Bool)
  fuseBase : Nat
  outs : List BagOut
  /-- Ranges of the values before conversion, per column (R124). -/
  ranges : List Range
  /-- The scales and explicit records with which the section is converted (R126, R127, R226). -/
  scales : Scales
  widened : Bool
  placed : Bool
  /-- Held values read back (R249): whether the scales have been found, and slices of the bag under way. -/
  found : Bool
  back : Nat
deriving DecidableEq, Repr

/-- A coalesced contribution, or the values of a WRITE entry (R403, R404). -/
structure Group where
  table : Nat
  /-- The row; none is the table's default row. -/
  row : Option Nat
  /-- The owner, none for this package. -/
  node : Option Nat
  isWrite : Bool
  vals : List Nat
deriving DecidableEq, Repr

/-- A group of contributions that the tally coalesces (R263, R403): what it yields goes into `group`; the contributions' values in
the order of their fold; whether it is coalesced. -/
structure Tallied where
  group : Group
  parts : List (List Nat)
  out : Bool
deriving DecidableEq, Repr

/-- An UPDATE entry as emitted (R400): row, table, op, order key, the contribution. -/
structure Contrib where
  table : Nat
  row : Nat
  /-- Aimed at the default row by a winner of 0xFF_FFFF_FFFE (R398). -/
  toDefault : Bool
  op : Nat
  key : Nat
  vals : List Nat
  /-- Order of emission. -/
  seq : Nat
deriving DecidableEq, Repr

structure Sheaf where
  no : Nat
  bay : Nat
  session : Nat
  phase : SheafPhase
  origin : Origin
  /-- Offset in the hatch ring, and the 64 header bytes. -/
  off : Nat
  head : List Byte
  /-- The generations of D0 and D1, the tables, the fused-operand bases and the bindings at the doorbell. -/
  gens : List Nat
  bound : List Tab
  bases : List (Nat × Nat)
  bindings : List Binding
  /-- Update sheafs of the bay not acknowledged at the doorbell: number, epoch, tables named (R424). -/
  u : List (Nat × Nat × List Nat)
  acceptedAt : Nat
  /-- The number that the first read put after its acceptance has, and for each table the first one since its barrier was last
  satisfied (R377). -/
  firstRead : Nat
  cleared : List (Nat × Nat)
  crew : Nat
  sections : List Section
  contribs : List Contrib
  tally : List Tallied
  groups : List Group
  /-- Operations at flails and messages at owners that have not been acknowledged (R46, R422). -/
  ops : Nat
  messages : Nat
  /-- Whether a result has been issued, and the queue pair chosen for the results (R230, R495). -/
  placing : Bool
  qpn : Option Nat
  chaffed : Nat
  defaulted : Nat
  saturated : Nat
  stale : Nat
  /-- An UPDATE entry of its job was malformed or out of bounds (R402); with status FAULTED: by the loss of a silo (R394). -/
  bad : Bool
  /-- It bears its number in its session's ledger (R388 from step 8 on). -/
  ledger : Bool
  /-- It has been released (R391). -/
  released : Bool
  /-- Directory entries as they stood when it was dispatched, of rows whose place has changed since (R403): table, row, the entry. -/
  was : List (Nat × Nat × Nat)
deriving DecidableEq, Repr

/-! ### Crews and hands (chapter 07) -/

/-- Where a load of a hand puts its value: an integer register, a floating-point one, or an element of 8 × `width` bits of a vector
register group. -/
inductive HandDst where
  | int (rd : Nat) (signed : Bool)
  | float (fd : Nat)
  | elem (vd i : Nat)
deriving DecidableEq, Repr

/-- A hand of a job: registers, the CSRs of R270 and its calls. -/
structure Hand where
  /-- Address of the instruction executed last. -/
  pc : Nat
  x : List Nat
  f : List Nat
  /-- Vector registers of 256 bits; vl, vtype (its fields of 8 bits, and vill), vstart, vxsat and vxrm. -/
  v : List Nat
  vl : Nat
  vtype : Nat
  vill : Bool
  vstart : Nat
  /-- The field of that element at which a segment load or store goes on (R267). -/
  vfield : Nat
  vxsat : Nat
  vxrm : Nat
  /-- The reservation of a load-reserved: address and width. -/
  reserved : Option (Nat × Nat)
  dedupLast : Nat
  dedupState : Nat
  walkBase : Nat
  walkDone : Nat
  barriers : Nat
  waitingBarrier : Bool
  exited : Bool
  /-- A load waits for a granule read (R272). -/
  loading : Bool
deriving DecidableEq, Repr

/-- A swath entry (R305): its bytes; what a standard program sends with it (a position map, or a contribution's values);
the granules of a COPY already issued. -/
structure Swath where
  bytes : List Byte
  map : List Pos
  contrib : Option Contrib
  issued : Nat
  /-- Its order of emission in its job. -/
  seq : Nat
deriving DecidableEq, Repr

/-- A job of a crew (R275, R277): role 1 GLEAN, 2 EXPAND, 3 JOB, 4 ZPSUM, 5 MIGRATE. -/
structure Job where
  role : Nat
  sheaf : Nat
  program : Nat
  hands : List Hand
  contexts : List Nat
  /-- End of the cycle budget. -/
  until_ : Nat
  sectionsDone : List Nat
  /-- Entries that a standard program has still to emit, with their contexts. -/
  backlog : List (Nat × Swath)
  /-- The waiting command of HAND_RUN. -/
  cmd : Nat
deriving DecidableEq, Repr

structure Crew where
  queue : List Nat
  job : Option Job
  /-- HAND_RUN commands that wait for the crew: their numbers. -/
  runs : List Nat
  /-- The crew's assignment while a fault resets it (R298): until when. -/
  resetUntil : Nat
  /-- For each hand, when LOG last raised its event, and the calls dropped since (R279). -/
  logs : List (Option Nat × Nat)
deriving DecidableEq, Repr

/-- A walk in flight (R283): crew, hand, table, index, record slot address. -/
structure Walk where
  crew : Nat
  hand : Nat
  table : Nat
  index : Nat
  at_ : Nat
deriving DecidableEq, Repr

/-! ### Streams (chapter 08) -/

/-- A stream context that is not FREE (R300, R301). -/
structure Context where
  no : Nat
  bay : Nat
  running : Bool
  queue : Nat
  queueSet : Bool
  /-- The crew whose job holds it, or none for a persistent stream. -/
  crew : Option Nat
  sheaf : Nat
  /-- Persistent list, registers, the registers of the run, and whether a run is in progress (R338 to R340). -/
  list : List (List Byte)
  base : List Nat
  /-- Silo space that a persistent list takes (R338). -/
  store : List Run
  runBase : List Nat
  runCmd : Option Nat
  heldCmd : Option Nat
  active : Bool
  /-- Entries accepted and not yet issued, and those of a run's list that have still to be accepted (R303). -/
  waiting : List Swath
  rest : List Swath
  /-- Granules of a crib slot (R319), crib granules held. -/
  slot : Nat
  crib : Nat
  executed : Nat
  malformed : Nat
  zero : Nat
  chaffed : Nat
  spills : Nat
  mapErrors : Nat
  late : Nat
  /-- Counters of the run, and whether SWATH_MALFORMED has been raised in it (R310). -/
  runCounts : List Nat
  reported : Bool
  /-- Since when it has been crib-stalled (R334), and since when it has waited for its reserve (R301). -/
  stalledSince : Option Nat
  waitSince : Nat
  /-- Whether the job's end has been reached: the context returns to FREE when its entries have completed (R302); and whether
  its job has faulted: what its reads bring is dropped (R299, R332). -/
  jobOver : Bool
  faulted : Bool
deriving DecidableEq, Repr

/-- What a read is for. -/
inductive Purpose where
  | row (sheaf sect slot : Nat)
  /-- A piece of a COPY, with the crib granules it takes (R319). -/
  | copy (ctx dstSpace dstAddr took : Nat)
  | update (sheaf : Nat) (c : Contrib)
  | side (sheaf sect tier : Nat)
  | fuse (sheaf sect bagRow : Nat)
  | stage (table row : Nat)
  | wicket (id slot : Nat)
  /-- A side tensor for the wicket lookup with this acceptance number, and its positions that other owners pool (R348). -/
  | wicketSide (no tier : Nat)
  | wicketPool (id key : Nat)
  | hand (crew hand : Nat) (dst : HandDst) (width off : Nat)
  | move (cmd : Nat)
  /-- Host memory for a copy into the bay, bay space for one out of it, and the status of writes to the host (R568). -/
  | hostIn (cmd : Nat)
  | copyOut (cmd : Nat)
  | copyStatus (cmd : Nat)
  /-- A POOL_REQ of a section to an owner (R218), for some of its bags; its partials go under `key`. -/
  | pool (sheaf sect key : Nat) (bags : List Nat)
  /-- A window of a position map from position `base` on (R320). -/
  | map (sheaf sect base : Nat)
  /-- A row slot, or a COPY piece, that comes back from the spill area (R336). -/
  | reload (sheaf sect slot : Nat)
  | reloadPiece (write : Nat)
deriving DecidableEq, Repr

/-- A read that waits to be issued or is in flight (R314, R736): its priority queue (R312), where its granules lie, since when,
when it times out. -/
structure Read where
  id : Nat
  bay : Nat
  die : Nat
  ctx : Option Nat
  queue : Nat
  /-- Whether it has been issued; one that has not holds nothing. -/
  started : Bool
  purpose : Purpose
  space : Nat
  addr : Nat
  granules : Nat
  issued : Nat
  timeout : Option Nat
  /-- Nobody waits for it any more (R332). -/
  dropped : Bool
  /-- Out of bounds: zeros marked with chaff (R88). -/
  outside : Bool
  /-- Which granary half, for spaces 0 and 6. -/
  half : Nat
deriving DecidableEq, Repr

/-- What a write completes. -/
inductive WriteFor where
  | copy (ctx : Nat)
  | move (cmd : Nat)
  | copyIn (cmd : Nat)
  /-- A row slot, or a COPY piece, on its way to the spill area (R335). -/
  | spillRow (sheaf sect slot : Nat)
  | spillPiece (write : Nat)
deriving DecidableEq, Repr

/-- A write in flight (R304): granules with their data, none for a granule that is not written (R329). -/
structure Write where
  id : Nat
  bay : Nat
  die : Nat
  for_ : WriteFor
  space : Nat
  addr : Nat
  data : List (Option (List Byte))
  half : Nat
  /-- Crib granules that its data takes while it passes, and where it lies in the spill area while it is there (R319, R335). -/
  took : Nat
  spilled : Option Nat
deriving DecidableEq, Repr

/-- A tag in quarantine (R331): bay, die, space, until when. -/
structure Quarantine where
  id : Nat
  bay : Nat
  ctx : Option Nat
  die : Nat
  space : Nat
  until_ : Nat
  /-- Granules whose tags are held, and the loft port of a loft read. -/
  granules : Nat
  port : Nat
  /-- Its late completion has come. -/
  late : Bool
  /-- It held a tag of run-ahead staging (R375). -/
  staging : Bool
deriving DecidableEq, Repr

/-! ### Threshers (chapter 06) -/

/-- One lane's slot words (R240). -/
structure Lane where
  s : Nat
  c : Nat
  acc : Int
  idx : Nat
  pos : Nat
deriving DecidableEq, Repr

/-- A chain (R234): its lanes, the bag position of the next fold, and the pass in the array. -/
structure Chain where
  lanes : List Lane
  next : Nat
  flight : Option (List Lane × Nat)
deriving DecidableEq, Repr

/-- A bag allotted to a tile (R241), or a group of the tally, or a row of a matrix job's row group: they take slots and passes
alike (R259, R263). -/
structure BagRun where
  work : Work
  tile : Nat
  slots : List Nat
  chains : List Chain
  /-- Order in which it became ready (R245), slices drained, and an uncorrectable slot (R265). -/
  ready : Option Nat
  drained : Nat
  broken : Option Nat
  /-- A parity error of the decode store, or of a weight register, marks the bag chaffed or the row bad (R266). -/
  storeBad : Bool
  /-- A position has contributed as a chaffed row, or a granule of a matrix job could not be read. -/
  chaffed : Bool
  /-- Lanes of a matrix row whose accumulator has been held at its limit (R115). -/
  clamped : List Nat
deriving DecidableEq, Repr

/-- A block of W in one of the two weight registers of each stage (R256): its job, column block, row group and first value of k; the
codes of its rows, and whether a granule of it could not be read. -/
structure Weights where
  job : Nat
  block : Nat
  group : Nat
  k : Nat
  rows : List (List Nat)
  bad : Bool
deriving DecidableEq, Repr

structure Thresher where
  /-- The filling tile: 0 is A. -/
  filling : Nat
  bags : List BagRun
  readyNo : Nat
  /-- Matrix job in progress. -/
  matrix : Option Nat
  /-- Lookup in the bypass unit. -/
  bypass : Option Nat
  weights : List Weights
deriving DecidableEq, Repr

/-- Whether the bias of a matrix job is still to be formed by ZPSUM (R289, R299). -/
inductive BiasPhase where
  | done | wait | forming | failed
deriving DecidableEq, Repr

/-- A matrix job (R260). -/
structure Matrix where
  id : Nat
  bay : Nat
  ctx : Nat
  crew : Nat
  /-- The thresher that works on it, once it has begun. -/
  thresher : Option Nat
  /-- Its descriptor, and where that lies in the crew store. -/
  desc : List Byte
  at_ : Nat
  bias : BiasPhase
  /-- The column block and the row of C that come next, and elements of C written, in rows of column blocks (R259). -/
  block : Nat
  row : Nat
  written : Nat
  /-- Saturations, and rows of C that are zeros (R260, R265). -/
  sat : Nat
  bad : List Nat
deriving DecidableEq, Repr

/-! ### The wicket path (R342 to R350) -/

inductive WicketPhase where
  | waiting | fetching | folding | placing
deriving DecidableEq, Repr

structure Lookup where
  id : Nat
  die : Nat
  level : Nat
  req : Req
  bay : Nat
  session : Nat
  /-- Its acceptance number, which it shares with sheafs (R361). -/
  no : Nat
  gens : List Nat
  bound : List Tab
  /-- U of its table at acceptance (R348, R424), and whether its barrier has been given up (R426). -/
  u : List (Nat × Nat)
  acceptedAt : Nat
  gaveUp : Bool
  phase : WicketPhase
  /-- The single bag, once parsed. -/
  sect : Option Section
  /-- The thresher whose bypass unit it holds. -/
  unit : Option Nat
  status : Nat
  bagStatus : Nat
  sat : Nat
  widened : Bool
  result : List Byte
  /-- The tether it came by has been reset since (R576). -/
  lost : Bool
deriving DecidableEq, Repr

/-- A 64-byte message other than a lookup that waits in a wicket queue (R345, R350, R596). -/
structure WicketMsg where
  id : Nat
  die : Nat
  level : Nat
  bay : Option Nat
  req : Req
deriving DecidableEq, Repr

/-! ### Flails (chapter 10) -/

/-- An operation of a flail (R407). -/
inductive FlailOp where
  /-- An update for a sheaf, a record of an owner-side ledger message (node, sequence), of a table's row or default row. -/
  | update (sheaf : Option Nat) (message : Option (Nat × Nat)) (bay table : Nat) (row : Option Nat) (isWrite : Bool)
      (vals : List Nat) (epoch : Nat) (opt : OptRec)
  /-- The next item of a move command (R181, R363). -/
  | move (cmd bay table row : Nat)
deriving DecidableEq, Repr

/-- What Compute has formed (R410): the row's new bytes and state record, the saturated columns and moment saturations, and
the FP32 values before encoding. -/
structure Computed where
  row : List Byte
  state : List Byte
  sat : List Nat
  momentSat : Nat
  vals : List Nat
deriving DecidableEq, Repr

/-- A conflict-table entry (R408): the operation in progress, the new bytes it will write, those that wait. -/
structure Conflict where
  bay : Nat
  table : Nat
  row : Option Nat
  op : FlailOp
  /-- None while its reads are in flight. -/
  computed : Option Computed
  waiters : List FlailOp
deriving DecidableEq, Repr

/-- A flail with work (R406), by number: 32 × silo + pseudo-channel. -/
structure Flail where
  no : Nat
  queue : List FlailOp
  /-- Operations submitted while the input queue was full: their submission is stalled (R407). -/
  stalled : List FlailOp
  entries : List Conflict
deriving DecidableEq, Repr

/-! ### Commands that answer later -/

/-- A kind of long job. -/
inductive JobKind where
  | migrate | hotPut | hotDrop | hotSwap | hotHome | rebuild | copyIn | copyOut | handRun | streamRun | dereg | bias
deriving DecidableEq, Repr

/-- An item of a move: table, row, tier or die mask, home or direction, flags. -/
structure MoveItem where
  table : Nat
  row : Nat
  a : Nat
  b : Nat
  c : Nat
deriving DecidableEq, Repr

/-- A command that has started and answers later (R589), with its items still to do, the item in hand and its counts. -/
structure Waiting where
  id : Nat
  kind : JobKind
  req : Req
  bay : Nat
  session : Nat
  items : List MoveItem
  /-- The item in hand has passed its Mark: the destination and bytes. -/
  at_ : Nat
  dest : Nat
  data : List Byte
  counts : List Nat
  args : List Nat
deriving DecidableEq, Repr

/-- A bay's work settings and queues (R294, R312, R330, R334, R428, R493). -/
structure BayWork where
  programs : List Program
  bindings : List Binding
  weights : List Nat
  e2eUs : Nat
  watchdogUs : Nat
  barrierUs : Nat
  /-- Doorbells accepted (R493): the number of the first sheaf of each run and their count. -/
  doorbells : List (Nat × Nat)
  /-- LEDGER_RETAIN_FULL has been raised for the stall under way (R422). -/
  retainStall : Bool
  /-- Deficit round robin at a regulated point on a die (R312): 36 times the die plus the point, the queue (0 to 5 for 2 to 7) under
  way, and the deficits. -/
  drr : List (Nat × Nat × List Nat)
deriving DecidableEq, Repr

/-- A lookup sheaf on its way to gleaning, for the run-ahead scanner (R373): the indices scanned, and whether all are. -/
structure Scan where
  sheaf : Nat
  at_ : Nat
  done : Bool
deriving DecidableEq, Repr

structure Datapath where
  sheafs : List Sheaf
  crews : List Crew
  walks : List Walk
  contexts : List Context
  reads : List Read
  writes : List Write
  quarantines : List Quarantine
  nextRead : Nat
  threshers : List Thresher
  matrices : List Matrix
  lookups : List Lookup
  messages : List WicketMsg
  /-- Directory entries in the walker's cache (R346), most recent first: die, bay, table, row. -/
  walkCache : List (Nat × Nat × Nat × Nat)
  flails : List Flail
  waiting : List Waiting
  /-- The lookup sheafs that run-ahead scans, in the order of their dispatch (R373). -/
  scans : List Scan
  /-- Corrected single-bit counters per die: slot, store, crib, granary (R265, R297, R318, R353). -/
  corrected : List Nat
  /-- The bay last served under its minimum and within its cap at each of the 36 points (R64); 15 makes both orders start at bay 0. -/
  rr : List (Nat × Nat)
  /-- What device-scope traffic has used of each point in the window (R67), and command slots of each silo since the last one
  reserved for wicket reads (R317, R440). -/
  device : List Nat
  slots : List Nat
deriving DecidableEq, Repr

def BayWork.initial : BayWork :=
  { programs := [], bindings := [], weights := [32, 16, 8, 4, 2, 1], e2eUs := 500, watchdogUs := 50,
    barrierUs := 100000, doorbells := [], retainStall := false, drr := [] }

def Hand.initial : Hand :=
  { pc := 0, x := List.replicate 32 0, f := List.replicate 32 0, v := List.replicate 32 0, vl := 0, vtype := 0, vill := true,
    vstart := 0, vfield := 0, vxsat := 0, vxrm := 0, reserved := none, dedupLast := 0,
    dedupState := 0, walkBase := 0, walkDone := 0, barriers := 0, waitingBarrier := false, exited := false, loading := false }

def Crew.initial : Crew := ⟨[], none, [], 0, List.replicate 16 (none, 0)⟩

def Thresher.initial : Thresher := ⟨0, [], 0, none, none, []⟩

def Datapath.initial : Datapath :=
  { sheafs := [], crews := List.replicate 32 Crew.initial, walks := [], contexts := [], reads := [], writes := [],
    quarantines := [], nextRead := 1, threshers := List.replicate 32 Thresher.initial, matrices := [], lookups := [], messages := [], walkCache := [],
    flails := [], waiting := [], scans := [], corrected := List.replicate 8 0, rr := List.replicate 36 (15, 15),
    device := List.replicate 36 0, slots := List.replicate 12 0 }

end Sys2Proof.Machine
end

