-- ==== Sys2Proof/Machine/DataPower.lean ====
section
/-! DEFINITION. The lantern: power domains, votes, wake latches, reset and wake causes (chapter 16). -/

namespace Sys2Proof.Machine

/-- The phases of an entry to fallow (R626). -/
inductive EntryPhase where
  /-- Quiesce, and Save. -/
  | quiesce
  | gate
deriving DecidableEq, Repr

/-- The phases of an exit (R628). -/
inductive ExitPhase where
  | regulator | oscillator | memory | logic
deriving DecidableEq, Repr

/-- The state of a power domain (R617, R639): A0, a fallow state 1 to 3, or on the way to or from one. -/
inductive DomState where
  | a0
  | fallow (f : Nat)
  | entering (target : Nat) (phase : EntryPhase)
  | exiting (source : Nat) (phase : ExitPhase)
deriving DecidableEq, Repr

/-- A power domain with its LAN_VOTE and LAN_DOM_CFG registers (R621, R624, R625, R639). -/
structure Domain where
  state : DomState
  votes : Nat
  fallow : Nat
  hysteresis : Nat
  wakePending : Bool
  aborted : Nat
  /-- Since when the domain has been idle with no vote set (R624). -/
  idleSince : Nat
deriving DecidableEq, Repr

/-- A frame held in a port's listen buffer (R632): port, sub-port, bytes. -/
structure Held where
  port : Nat
  sub : Nat
  data : List Byte
deriving DecidableEq, Repr

structure Lantern where
  resetCause : Nat
  wakeCause : Nat
  held : Bool
  failsafe : Bool
  resets : Nat
  timer : Nat
  wdogAt : Nat
  domains : List Domain
  /-- ADDR_SEL, TTH_CLK_SEL, TTH_DISABLE as sampled (R684). -/
  addrSel : Nat
  clkSel : Nat
  tthDisable : Nat
  knockHigh : Nat
  knockRejects : Nat
  knockRejectAt : Option Nat
  /-- Replies owed once a port is in A0: port, sub-port, counter, sender (R634). -/
  knockReplies : List (Nat × Nat × Nat × Nat)
  listen : List Held
  listenDrops : Nat
  falseWakes : List Nat
  /-- Instant of link-up by signal energy of a port in F3, while no knock has come (R634). -/
  energyAt : List (Option Nat)
  /-- Events raised during a steward reset, oldest first, with their continuations, and those that did not fit (R612). -/
  buffered : List (Nat × Event × List (List Byte))
  overflow : Nat
  nextSeq : Nat
  /-- The fuse security floor (R699). -/
  floor : Nat
deriving DecidableEq, Repr

def Domain.initial : Domain := ⟨.a0, 0, 1, 100, false, 0, 0⟩

end Sys2Proof.Machine
end

