-- ==== Sys2Proof/Machine/DataTether.lean ====
section
/-! DEFINITION. The tether: its registers, mailboxes, host regions, bias pages and relays (chapter 14). -/

namespace Sys2Proof.Machine

/-- A tether mailbox (R558). -/
structure Mailbox where
  ring : Nat
  slots : Nat
  /-- Responses written to the ring (R562). -/
  count : Nat
  consumed : Nat
  session : Option Nat
  overrun : Bool
  ringFault : Bool
  /-- Messages submitted and not yet taken, in submit order: slot and length (R559). -/
  submitted : List (Nat × Nat)
  /-- Responses to be written to the ring, oldest first. -/
  toWrite : List (List Byte)
deriving DecidableEq, Repr

/-- A registered host region (R563). -/
structure Region where
  key : Nat
  bay : Nat
  base : Nat
  len : Nat
  /-- 0: 4 KiB, 1: 2 MiB pages -/
  pageSize : Nat
  write : Bool
  read : Bool
  vector : Option Nat
  /-- Pages whose bias is DEVICE-OWNED (R568). -/
  owned : List Nat
  /-- TETHER_REGION_DEREG accepted: the command that waits (R567). -/
  closing : Option Nat
deriving DecidableEq, Repr

/-- A moderated vector away from its reset state (R566): TTH_VEC_MOD, the records counted and not yet signalled, and the
instant of the first of them. -/
structure Vec where
  no : Nat
  reg : Nat
  pending : Nat
  since : Nat
deriving DecidableEq, Repr

/-- The tether (R549 to R566). -/
structure Tether where
  attached : Bool
  ready : Bool
  /-- The link as trained (R549): protocol 0 PCIe, 1 CXL 2.0, 2 CXL 3.1; generation; width. -/
  protocol : Nat
  gen : Nat
  width : Nat
  /-- The next region key (R563). -/
  nextKey : Nat
  /-- TTH_CTRL.result_ro and TTH_EVENT (R550, R551). -/
  resultRo : Bool
  event : Nat
  /-- The six RC counters of R554 in register order. -/
  counters : List Nat
  boxes : List Mailbox
  regions : List Region
  vecs : List Vec
deriving DecidableEq, Repr

end Sys2Proof.Machine
end

