-- ==== Sys2Proof/Machine/State.lean ====
section
/-! DEFINITION. The state of the block: every register, memory, queue, counter and mode the specification gives the
device, as plain data, and its value right after power-on reset in the factory state (R609, R718). -/

namespace Sys2Proof.Machine

/-- Why a step can fault. -/
inductive Fault where
  /-- Raised by every event row whose operand names a unit the device does not have (a die 2, a silo 12): safe, since no
  such event can occur. -/
  | noSuchUnit
deriving DecidableEq, Repr

/-- Why a command can be refused. -/
inductive Refusal where
  /-- Raised by the dispatch for a row that has no meaning yet: safe, the machine stops. -/
  | notModelled (mnemonic : String)
deriving DecidableEq, Repr

/-- A bay and everything it owns. -/
structure Bay where
  core : BayCore
  /-- Package-wide numbers (16 × die + crew) of the crews the bay owns (R55). -/
  crews : List Nat
  /-- Groups of 16 stream contexts the bay owns: 64 × die + group (R55, R300). -/
  groups : List Nat
  tables : List Tab
  granary : Granary
  heat : Heat
  space : Space
  work : BayWork
deriving DecidableEq, Repr

structure State where
  /-- The commands that are waiting, first in, first out. -/
  pending : List Instr
  /-- Everything the device has put on its wires, newest first. -/
  out : List Output
  /-- The model's own counter of free values drawn. -/
  freeCount : Nat
  /-- Every addressed memory of the device, in canonical form: keys strictly rising, no zero byte. -/
  mem : List Host.Cell
  /-- Granules that cannot be read correctly, by key. -/
  poison : List Nat
  dev : Dev
  board : Board
  ident : Ident
  lan : Lantern
  flash : Flash
  mgmt : Mgmt
  bays : List Bay
  memsys : Memsys
  net : Net
  tth : Tether
  fab : Fabric
  dp : Datapath
deriving DecidableEq, Repr

/-! ### The state right after power-on reset in the factory state (R609, R718) -/

def Granary.initial : Granary :=
  ⟨[HotDie.initial, HotDie.initial], 10000, Option.none, 0, ⟨1, 0, 0, none, 1024⟩, [StageDie.initial, StageDie.initial]⟩

/-- A bay number in state ABSENT (R76). -/
def Bay.absent : Bay := ⟨BayCore.absent, [], [], [], Granary.initial, Heat.zero, Space.empty, BayWork.initial⟩

/-- R609, R668, R718: the lantern's supply has risen and nothing else has happened; device time is 0 (R228). -/
def Dev.initial : Dev :=
  { now := 0, phase := .standby, fatal := false, boot := .rom, bootFailed := false, cclk := 2, cclkSet := 2,
    cclkChange := none, thermCeil := 2, powerCeil := 2, tj := [0, 0], coolSince := none, lowPowerSince := none,
    refLost := [none, none, none], windowStart := 0, readyAt := 0, steward := .running, slot := none, trialSince := none, trialRan := none,
      notes := [],
    parking := .none, pendingReset := none, accepted := 0, commands := 0 }

def Fan.initial : Fan := ⟨false, 0, none, none, false, 0⟩

/-- R668, R669: the main path is off. -/
def Board.initial : Board :=
  { mated := false, fault := none, rails := 0, resetLow := false, parkAtBoot := false, fans := List.replicate 4 Fan.initial }

/-- The part the model starts as (DESIGN CHOICE, log 4): M212-432 with HBM3E, serial number 1, stepping 0, MAC range from 0. -/
def Ident.initial : Ident := ⟨0, true, 1, 0, 0⟩

/-- R621, R625, R636 to R639 after power-on; straps open (R684). -/
def Lantern.initial : Lantern :=
  { resetCause := 0, wakeCause := 0, held := false, failsafe := false, resets := 0, timer := 0, wdogAt := 0,
    domains := List.replicate 75 Domain.initial, addrSel := 3, clkSel := 1, tthDisable := 1, knockHigh := 0,
    knockRejects := 0, knockRejectAt := none, knockReplies := [], listen := [], listenDrops := 0,
    falseWakes := List.replicate 8 0, energyAt := List.replicate 8 none, buffered := [], overflow := 0, nextSeq := 0,
    floor := 0 }

/-- R505, R718: the node ID is the serial number, the field id 0, the key zeros, port 7412, no seed. -/
def MusterConfig.initial : MusterConfig := ⟨1, 0, List.replicate 32 0, 7412, []⟩

/-- R718: slot 0 active, slot 1 empty, no record. -/
def Flash.initial : Flash :=
  { slots := [{ Slot.none with state := .active, good := true }, Slot.none], trialAttempted := false, domCfg := [],
    zeroing := [], loftUnits := [], loftToZero := [], retired := [], repairs := [], roster := [],
    muster := MusterConfig.initial, addrs := [], adminSecret := List.replicate 32 0, fatal := [] }

/-- R643 to R651, R655, R658, R659 after power-on. -/
def Mgmt.initial : Mgmt :=
  { log := [], windows := [], perf := [],
    mtw := { pointer := 0, pec := false, alertEn := true, alertLevel := 2, lanAddr := 0, busy := false, response := none,
             ready := none, cursor := 0, releasedAt := none, pecFails := [] },
    ltw := { transfer := none, retries := 0, nacks := 0, notBefore := 0, stuckScl := none, lastNack := [] },
    uart := { baud := 0, rx := [], line := [], tx := [], level := 1, pendingBaud := none },
    sensors := List.replicate 31 ⟨3, 0⟩, selftests := [], margins := [], nextRun := 1, uploads := [],
    high := List.replicate 12 none }

def Silo.initial : Silo :=
  { temp := 0, below := [none, none, none, none], step := 0, nextStep := none, stepAt := 0, haltedAt := none, lost := false,
    sparesUsed := 0, sparesLeft := 0, errs := [], ce := [], ue := [], retireFull := false, scrubAt := 0, scrubFrom := 0 }

def Loft.initial : Loft :=
  { state := .absent, gts := 0, width := 0, flit := 0, devload := 0, devloadNext := none, devloadAt := [0, 0, 0, 0], units := 0,
    label := ⟨0, 0, 0⟩,
    errs := [], downAt := 0, writesOut := false }

/-- Settings of a port before any NET_PORT_SET (R467, R473, R474, R478, R479, R497). -/
def PortSettings.initial : PortSettings :=
  { mode := 0, pfcMask := 0x48, expressMask := 0xC0, preempt := 1, priorities := [6, 3, 7], dscps := [48, 26, 56],
    xoff := 524288, xon := 262144, floorMb := 1000, stepDen := 16, intervalUs := 50, vcpPort := 7411,
    dscpMap := (List.range 64).map (· / 8) }

def PrioState.initial : PrioState := ⟨none, 0, none, 0, none, []⟩

def SubPort.initial : SubPort :=
  { link := false, addrs := [], verify := .off, verifyAt := 0, fragSize := 0, prios := List.replicate 8 PrioState.initial,
    counters := List.replicate 5 0, fragment := none }

def Port.initial : Port := ⟨PortSettings.initial, List.replicate 4 SubPort.initial, 0⟩

def Muster.initial : Muster :=
  { config := MusterConfig.initial, next := none, phase := .stopped, phaseSince := 0, announceAt := 0, rosterAt := 0,
    heardRosterAt := 0, coordinator := none, epoch := 0, roster := [], heard := [], rosterHeard := none,
    number := none, detections := 0, backoffUntil := none, discarded := 0 }

def Net.initial : Net :=
  { sessions := [], nonces := [], authFails := [], ignored := [], nextHandle := 1, nextQpn := 1, nextKey := 1, qps := [],
    stewardQueue := [], parked := [], ports := List.replicate 8 Port.initial, malformedVcp := 0, discards := List.replicate 5 0,
    muster := Muster.initial }

def Mailbox.initial : Mailbox :=
  { ring := 0, slots := 0, count := 0, consumed := 0, session := none, overrun := false, ringFault := false,
    submitted := [], toWrite := [] }

def Tether.initial : Tether :=
  { attached := false, ready := false, protocol := 0, gen := 0, width := 0, nextKey := 1, resultRo := false, event := 0,
    counters := List.replicate 6 0,
    boxes := List.replicate 32 Mailbox.initial, regions := [], vecs := [] }

/-- The block right after power-on reset, in the factory state, with nothing waiting. -/
def State.reset : State :=
  { pending := [], out := [], freeCount := 0, mem := [], poison := [], dev := Dev.initial, board := Board.initial, ident := Ident.initial,
    lan := Lantern.initial, flash := Flash.initial, mgmt := Mgmt.initial, bays := List.replicate 16 Bay.absent,
    memsys := ⟨List.replicate 12 Silo.initial, List.replicate 4 Loft.initial, 24, []⟩, net := Net.initial,
    tth := Tether.initial, fab := Fabric.initial, dp := Datapath.initial }

end Sys2Proof.Machine
end

