-- ==== Sys2Proof/Machine/Ops.lean ====
section
/-! DEFINITION. The shared operations over the state: memory in canonical form, outputs, free values, counters, and access
to bays, tables, sessions and queue pairs by number. -/

namespace Sys2Proof.Machine

/-- The outcome of a command. -/
abbrev Out := Host.Outcome State Fault Refusal

/-! ### Memory -/

/-- The addressed memories of the device (R271, R306, R351, R434, R457, R490, R558). -/
inductive Area where
  /-- A bay's silo space and loft space, by bay-relative byte address. -/
  | silo | loft
  /-- The two halves of a bay's granary share on a die. -/
  | half0 | half1
  | crib | stage | spill
  /-- A crew's store and a hand's scratch, by package-wide crew number. -/
  | store | scratch
  | ring
  /-- The slots of the tether mailboxes. -/
  | slots
deriving DecidableEq, Repr

def Area.code : Area → Nat
  | .silo => 1 | .loft => 2 | .half0 => 3 | .half1 => 4 | .crib => 5 | .stage => 6 | .spill => 7 | .store => 8
  | .scratch => 9 | .ring => 10 | .slots => 11

/-- The number under which a byte of an area is kept: the area, the bay (or crew), the die, the byte address. -/
def memKey (a : Area) (owner die addr : Nat) : Nat :=
  2 ^ 72 * a.code + 2 ^ 64 * (owner % 2 ^ 8) + 2 ^ 60 * (die % 2) + addr % 2 ^ 60

/-- What a byte nobody has written reads as: zero, for memory is initialised to zeros (R707 Init, R83). -/
def unwritten : Byte := 0

/-- The byte under a key. -/
def memGet (m : List Host.Cell) (k : Nat) : Byte :=
  match m with
  | [] => unwritten
  | (k', b) :: m => if k' < k then memGet m k else if k' = k then b else unwritten

/-- Memory with one byte set; a zero removes the entry. -/
def memSet (m : List Host.Cell) (k : Nat) (b : Byte) : List Host.Cell :=
  match m with
  | [] => if b = unwritten then [] else [(k, b)]
  | (k', b') :: m =>
    if k' < k then (k', b') :: memSet m k b
    else if k' = k then (if b = unwritten then m else (k, b) :: m)
    else (if b = unwritten then (k', b') :: m else (k, b) :: (k', b') :: m)

/-- Memory with successive bytes set from a key. -/
def memSets (m : List Host.Cell) (k : Nat) : List Byte → List Host.Cell
  | [] => m
  | b :: l => memSets (memSet m k b) (k + 1) l

/-- Memory with every byte of `[k, k + n)` zero. -/
def memClear (m : List Host.Cell) (k n : Nat) : List Host.Cell := m.filter fun c => !(decide (k ≤ c.1) && decide (c.1 < k + n))

/-- The canonical form: keys strictly rising and no entry equal to what an unlisted byte reads as. -/
def Memory.wf : List Host.Cell → Bool
  | [] => true
  | (k, b) :: m => b != unwritten && (match m with | [] => true | (k', _) :: _ => decide (k < k')) && Memory.wf m

/-- `n` bytes of an area. -/
def State.read (s : State) (a : Area) (owner die addr n : Nat) : List Byte :=
  items n fun i => memGet s.mem (memKey a owner die (addr + i))

/-- Bytes written to an area; writing whole granules makes them readable again. -/
def State.write (s : State) (a : Area) (owner die addr : Nat) (data : List Byte) : State :=
  { s with mem := memSets s.mem (memKey a owner die addr) data }

/-- The number under which the granule of a byte is recorded as unreadable. -/
def granuleKey (a : Area) (owner die granule : Nat) : Nat := memKey a owner die (64 * granule) / 64

/-- Whether any of `n` granules from `g` cannot be read correctly. -/
def State.poisoned (s : State) (a : Area) (owner die g n : Nat) : Bool :=
  (List.range n).any fun i => s.poison.contains (granuleKey a owner die (g + i))

/-- The keys of `n` granules removed from a list of them. -/
def dropGranules (l : List Nat) (a : Area) (owner die g n : Nat) : List Nat :=
  l.filter fun k => !(decide (granuleKey a owner die g ≤ k) && decide (k < granuleKey a owner die g + n))

/-- `n` granules readable again after a whole write. -/
def State.heal (s : State) (a : Area) (owner die g n : Nat) : State :=
  { s with poison := dropGranules s.poison a owner die g n, memsys.chaff := dropGranules s.memsys.chaff a owner die g n }

/-- Whether any of `n` granules is marked as chaffed (R190, R412). -/
def State.marked (s : State) (a : Area) (owner die g n : Nat) : Bool :=
  (List.range n).any fun i => s.memsys.chaff.contains (granuleKey a owner die (g + i))

/-- `n` granules marked as chaffed. -/
def State.markChaff (s : State) (a : Area) (owner die g n : Nat) : State :=
  { s with memsys.chaff := items n (fun i => granuleKey a owner die (g + i)) ++ dropGranules s.memsys.chaff a owner die g n }

/-- A granule that cannot be read correctly any more. -/
def State.addPoison (s : State) (a : Area) (owner die g : Nat) : State :=
  { s with poison := (granuleKey a owner die g :: s.poison.filter (· != granuleKey a owner die g)) }

/-- `n` granules overwritten with zeros from `g`. -/
def State.zero (s : State) (a : Area) (owner die g n : Nat) : State :=
  ({ s with mem := memClear s.mem (memKey a owner die (64 * g)) (64 * n) }).heal a owner die g n

/-! ### Outputs, free values, counters -/

/-- The state with an output sent. -/
def State.emit (s : State) (o : Output) : State := { s with out := o :: s.out }

def State.emits (s : State) (l : List Output) : State := { s with out := l.reverse ++ s.out }

/-- The next free value, and the state that has drawn it. -/
def State.fresh (s : State) : Nat × State := (Config.random s.freeCount, { s with freeCount := s.freeCount + 1 })

/-- A counter of `w` bits that stops at its all-ones value (R19, R660). -/
def satAdd (w n k : Nat) : Nat := min (2 ^ w - 1) (n + k)

def addCount : List Nat → Nat → Nat → List Nat
  | [], 0, k => [min (2 ^ 64 - 1) k]
  | [], i + 1, k => 0 :: addCount [] i k
  | n :: l, 0, k => satAdd 64 n k :: l
  | n :: l, i + 1, k => n :: addCount l i k

/-- A performance counter increased (R660). -/
def State.count (s : State) (block idx k : Nat) : State :=
  if k = 0 then s else
  let old := ((findKey PerfBlock.block s.mgmt.perf block).map PerfBlock.counts).getD []
  { s with mgmt.perf := putKey PerfBlock.block ⟨block, addCount old idx k⟩ s.mgmt.perf }

/-! ### Bays -/

def State.bay (s : State) (b : Nat) : Bay := s.bays.getD b Bay.absent

def State.modBay (s : State) (b : Nat) (f : Bay → Bay) : State := { s with bays := s.bays.modify b f }

def State.bayState (s : State) (b : Nat) : BayState := (s.bay b).core.life.state

/-- The state with a bay's lifecycle changed. -/
def State.modLife (s : State) (b : Nat) (f : BayLife → BayLife) : State :=
  s.modBay b fun y => { y with core.life := f y.core.life }

def State.modCounters (s : State) (b : Nat) (f : BayCounters → BayCounters) : State :=
  s.modBay b fun y => { y with core.counters := f y.core.counters }

/-! ### Power domains -/

def State.modDomain (s : State) (i : Nat) (f : Domain → Domain) : State := { s with lan.domains := s.lan.domains.modify i f }

/-- Whether a domain is in A0. -/
def State.domainA0 (s : State) (i : Nat) : Bool := ((s.lan.domains[i]?).map fun d => d.state == .a0).getD false

/-- A register of votes without one voter's. -/
def dropVote (votes v : Nat) : Nat := if bit votes v then votes - 2 ^ v else votes

/-- Every vote of a voter withdrawn (R621). -/
def State.withdrawVotes (s : State) (v : Nat) : State :=
  { s with lan.domains := s.lan.domains.map fun d => { d with votes := dropVote d.votes v } }

/-- Varlet's own votes, 16 and 17 on quad 0 of each die, held while any bay is OPEN (R264, R621). -/
def State.quadVotes (s : State) : State :=
  let on := s.bays.any fun y => y.core.life.state == .opened
  [0, 1].foldl (fun s die => State.modDomain s (34 + 4 * die) fun d =>
    if bit d.votes (16 + die) = on then d
    else { d with votes := dropVote d.votes (16 + die) + (if on then 2 ^ (16 + die) else 0), idleSince := s.dev.now }) s

/-! ### Tables -/

def Tab.id (t : Tab) : Nat := t.desc.id

def State.table (s : State) (b t : Nat) : Option Tab := findKey Tab.id (s.bay b).tables t

def State.putTable (s : State) (b : Nat) (t : Tab) : State :=
  s.modBay b fun y => { y with tables := putKey Tab.id t y.tables }

def State.modTable (s : State) (b t : Nat) (f : Tab → Tab) : State :=
  s.modBay b fun y => { y with tables := y.tables.map fun x => if x.id = t then f x else x }

/-- The quantisation point of a tier (0 to 3) or of the output (4). -/
def Tab.point (t : Tab) (target : Nat) : Point := t.points.getD target Point.initial

def Tab.setPoint (t : Tab) (target : Nat) (p : Point) : Tab := { t with points := t.points.set target p }

/-! ### Sessions and queue pairs -/

def State.session (s : State) (h : Nat) : Option Session := findKey Session.handle s.net.sessions h

def State.putSession (s : State) (x : Session) : State :=
  { s with net.sessions := putKey Session.handle x s.net.sessions }

def State.modSession (s : State) (h : Nat) (f : Session → Session) : State :=
  { s with net.sessions := s.net.sessions.map fun x => if x.handle = h then f x else x }

def State.qp (s : State) (n : Nat) : Option Qp := findKey Qp.qpn s.net.qps n

def State.modQp (s : State) (n : Nat) (f : Qp → Qp) : State :=
  { s with net.qps := s.net.qps.map fun q => if q.qpn = n then f q else q }

def State.box (s : State) (m : Nat) : Option Mailbox := s.tth.boxes[m]?

def State.modBox (s : State) (m : Nat) (f : Mailbox → Mailbox) : State :=
  { s with tth.boxes := s.tth.boxes.modify m f }

/-- Whether a session has any lease, hold or nothing left at an instant (R502): before the edge it is still live. -/
def Session.live (x : Session) : Bool := x.state == .opened

/-- The first queue pair in RTS of a session, by number (R495, R499). -/
def State.lowestRts (s : State) (h : Nat) : Option Qp :=
  leastBy Qp.qpn (s.net.qps.filter fun q => q.session == h && q.error.isNone)

/-! ### Work in flight -/

/-- The numbers of a bay's sheafs in flight. -/
def State.bayWork (s : State) (b : Nat) : List Nat := (s.dp.sheafs.filter fun x => x.bay == b).map Sheaf.no

/-- Whether every sheaf and wicket lookup of a bay accepted before number `n` has completed (R180). -/
def State.doneBefore (s : State) (b n : Nat) : Bool :=
  ((s.bayWork b).all fun k => decide (n ≤ k)) && s.dp.lookups.all fun x => x.bay != b || decide (n ≤ x.no)

end Sys2Proof.Machine
end

