-- ==== Sys2Proof/Machine/Events.lean ====
section
/-! DEFINITION. Raising an event: the suppression windows, the log, the console and the records kept in flash
(R661 to R666), the lantern's buffer during a steward reset (R612), and the tether's event register (R551). -/

namespace Sys2Proof.Machine

/-- Bytes of a text. -/
def ascii (t : String) : List Byte := t.toList.map fun c => BitVec.ofNat 8 c.toNat

/-- The catalogue's names (R666). -/
def eventNames : List (Nat × String) :=
  [(0x0101, "CLOCK_REF_LOST"),
   (0x0102, "CLOCK_REF_OK"),
   (0x0103, "CCLK_CHANGE"),
   (0x0104, "DIE_THERMAL"),
   (0x0105, "DIE_THERMTRIP"),
   (0x0106, "STEWARD_RESET"),
   (0x0107, "STEWARD_RESUME"),
   (0x0108, "LANTERN_FAILSAFE"),
   (0x0109, "KNOCK_REJECT"),
   (0x010A, "SENSOR_STATUS"),
   (0x010B, "FAN_FAULT"),
   (0x010C, "MODULE_INPUT_FAULT"),
   (0x010D, "HOTSWAP_FAULT"),
   (0x010E, "PACKAGE_POWER_LIMIT"),
   (0x010F, "EVENT_SUPPRESSED"),
   (0x0110, "EVENT_OVERFLOW"),
   (0x0201, "SILO_CE_THRESHOLD"),
   (0x0202, "SILO_UE"),
   (0x0203, "SILO_RETIRE_FULL"),
   (0x0204, "SILO_DIR_ECC")] ++
  [(0x0205, "SILO_THROTTLE"),
   (0x0206, "SILO_HALT"),
   (0x0207, "SILO_REPAIR"),
   (0x0208, "SILO_BOOT_FAIL"),
   (0x0209, "SILO_LOST"),
   (0x0301, "LOFT_OVERSIZE"),
   (0x0302, "LOFT_DEVLOAD"),
   (0x0303, "LOFT_POISON"),
   (0x0304, "LOFT_DOWN"),
   (0x0305, "LOFT_UP"),
   (0x0306, "LOFT_LOST"),
   (0x0307, "LOFT_UNIT_RECLAIMED"),
   (0x0401, "SWATH_MALFORMED"),
   (0x0402, "CRIB_STALL"),
   (0x0403, "SHEAF_MALFORMED"),
   (0x0404, "GRANARY_ECC"),
   (0x0405, "GRANARY_HOME_LOST"),
   (0x0406, "HOTSET_REFRESH_DUE"),
   (0x0407, "TABLE_MIGRATE_FAIL"),
   (0x0408, "HAND_FAULT")] ++
  [(0x0409, "HAND_LOG"),
   (0x0501, "THRESHER_SLOT_ECC"),
   (0x0502, "THRESHER_STORE_PARITY"),
   (0x0601, "FLAIL_ROW_ECC"),
   (0x0602, "LEDGER_SESSION_END"),
   (0x0603, "LEDGER_RETAIN_FULL"),
   (0x0604, "LEDGER_RETRY"),
   (0x0605, "LEDGER_BARRIER_TIMEOUT"),
   (0x0701, "NET_LINK_UP"),
   (0x0702, "NET_LINK_DOWN"),
   (0x0703, "NET_PFC_STORM"),
   (0x0704, "NET_PREEMPT_OFF"),
   (0x0705, "QP_ERROR"),
   (0x0706, "HATCH_DOORBELL_BAD"),
   (0x0707, "SESSION_ORPHANED"),
   (0x0708, "SESSION_EXPIRED"),
   (0x0801, "LINK_RETRAIN"),
   (0x0802, "RIDGE_LOST"),
   (0x0803, "YOKE_UP"),
   (0x0804, "YOKE_DOWN")] ++
  [(0x0805, "YOKE_FOREIGN"),
   (0x0806, "YOKE_MESH_INCOMPLETE"),
   (0x0807, "SHARD_OVERLAP"),
   (0x0808, "SHARD_MISMATCH"),
   (0x0809, "MUSTER_DUP_ID"),
   (0x080A, "MUSTER_RENUMBER"),
   (0x080B, "MUSTER_NODE_LOST"),
   (0x080C, "MUSTER_COORDINATOR"),
   (0x0901, "TETHER_PLACE_FAIL"),
   (0x0902, "TETHER_DETACH"),
   (0x0903, "TETHER_ATTACH"),
   (0x0A01, "LTW_ARB_STOP"),
   (0x0A02, "LTW_NACK"),
   (0x0A03, "LTW_TIMEOUT"),
   (0x0A04, "LTW_BUS_STUCK"),
   (0x0A05, "MTW_PEC_FAIL"),
   (0x0B01, "QUANT_SAT_THRESHOLD"),
   (0x0B02, "QUANT_GRAD_NONFINITE"),
   (0x0C01, "BAY_BOUNDS"),
   (0x0C02, "BAY_DRAIN_TIMEOUT")] ++
  [(0x0C03, "BAY_ZEROED"),
   (0x0C04, "HAND_SIG_FAIL"),
   (0x0C05, "SESSION_AUTH_FAIL"),
   (0x0C06, "BOOT_COMPLETE"),
   (0x0C07, "FW_SIG_FAIL"),
   (0x0C08, "FW_ACTIVATED"),
   (0x0C09, "FW_ROLLBACK"),
   (0x0C0A, "SELFTEST_FAIL"),
   (0x0C0B, "ADMIN_REKEYED")]

def eventName (code : Nat) : List Byte :=
  match eventNames.find? fun p => p.1 == code with
  | some p => ascii p.2
  | none => []

def severityName : Nat → List Byte
  | 0 => ascii "INFO"
  | 1 => ascii "WARN"
  | 2 => ascii "ERROR"
  | _ => ascii "FATAL"

/-- Decimal digits of a number; the first argument bounds their count. -/
def decimalAux : Nat → Nat → List Byte
  | 0, _ => []
  | f + 1, n => (if n < 10 then [] else decimalAux f (n / 10)) ++ [BitVec.ofNat 8 (48 + n % 10)]

def decimal (n : Nat) : List Byte := decimalAux 24 n

def hexDigit (n : Nat) : Byte := BitVec.ofNat 8 (if n < 10 then 48 + n else 55 + n)

def hexBytes (l : List Byte) : List Byte := l.flatMap fun b => [hexDigit (b.toNat / 16), hexDigit (b.toNat % 16)]

/-- A bay or die field: 0xFF for none (R661). -/
def scopeByte (o : Option Nat) : Nat := o.getD 0xFF

/-- The 32 bytes of a record (R661). -/
def recordBytes (r : LogRecord) : List Byte :=
  leBytes 8 r.seq ++ leBytes 6 r.time ++ leBytes 2 r.ev.code ++ leBytes 1 r.ev.severity ++ leBytes 1 r.flags ++
    leBytes 1 (scopeByte r.ev.bay) ++ leBytes 1 (scopeByte r.ev.die) ++ fit 12 r.ev.args

/-- A console line's ending: CR LF (R658). -/
def crlf : List Byte := [13, 10]

def space : List Byte := [32]

/-- A record as the console prints it (R658): sequence time SEVERITY NAME bay die args. -/
def consoleRecord (r : LogRecord) : List Byte :=
  decimal r.seq ++ space ++ decimal r.time ++ space ++ severityName r.ev.severity ++ space ++ eventName r.ev.code ++ space ++
    decimal (scopeByte r.ev.bay) ++ space ++ decimal (scopeByte r.ev.die) ++ space ++ hexBytes (fit 12 r.ev.args) ++ crlf

/-- A line put into the 4 KiB output FIFO; one that does not fit is dropped whole and counted (R658, R660). -/
def State.console (s : State) (line : List Byte) : State :=
  if s.mgmt.uart.tx.length + line.length ≤ 4096 then { s with mgmt.uart.tx := s.mgmt.uart.tx ++ line }
  else s.count 0x0700 12 1

/-- One record written to the log: numbered, kept within 65,536 records, a FATAL one kept in flash too, and printed at or
above the console level (R658, R663). -/
def State.logRecord (s : State) (time : Nat) (ev : Event) (flags : Nat) : State :=
  let r : LogRecord := ⟨s.lan.nextSeq, time, ev, flags⟩
  let s : State := { s with
    mgmt.log := (s.mgmt.log ++ [r]).drop (s.mgmt.log.length + 1 - 65536)
    lan.nextSeq := (s.lan.nextSeq + 1) % 2 ^ 64 }
  let s := if ev.severity = 3 then { s with flash.fatal := (r :: s.flash.fatal).take 32 } else s
  if s.mgmt.uart.level ≤ ev.severity then s.console (consoleRecord r) else s

/-- A record and its continuation records (R661): flags bit 1 marks one that is continued, bit 0 a continuation. -/
def State.logRecords (s : State) (time : Nat) (ev : Event) (more : List (List Byte)) (buffered : Nat) : State :=
  match more with
  | [] => s.logRecord time ev buffered
  | a :: rest =>
    let s := s.logRecord time ev (buffered + 2)
    let n := rest.length
    (a :: rest).zipIdx.foldl (fun s (x, i) =>
      s.logRecord time { ev with args := x } (buffered + 1 + (if i < n then 2 else 0))) s

def sameKey (ev : Event) (w : LogWindow) : Bool := w.code == ev.code && w.bay == ev.bay && w.die == ev.die

/-- A suppression window closed (R665): EVENT_SUPPRESSED reports the key and how many records were not written. -/
def State.closeWindow (s : State) (w : LogWindow) : State :=
  let s : State := { s with mgmt.windows := s.mgmt.windows.filter fun x => !(x.code == w.code && x.bay == w.bay && x.die == w.die) }
  if 100 < w.count then
    s.logRecord s.dev.now ⟨0x010F, 0, w.bay, w.die,
      leBytes 2 w.code ++ leBytes 1 (scopeByte w.bay) ++ leBytes 1 (scopeByte w.die) ++ leBytes 4 (w.count - 100)⟩ 0
  else s

/-- An event written unless its key's window has already taken 100 records (R665). -/
def State.writeEvent (s : State) (time : Nat) (ev : Event) (more : List (List Byte)) (buffered : Nat) : State :=
  let s := match s.mgmt.windows.find? (sameKey ev) with
    | some w => if w.opened + 1000000000 ≤ s.dev.now then s.closeWindow w else s
    | none => s
  match s.mgmt.windows.find? (sameKey ev) with
  | none =>
    let w : LogWindow := ⟨ev.code, ev.bay, ev.die, s.dev.now, 1⟩
    let s' : State := { s with mgmt.windows := s.mgmt.windows ++ [w] }
    s'.logRecords time ev more buffered
  | some w =>
    let s : State := { s with mgmt.windows := s.mgmt.windows.map fun x => if sameKey ev x then { x with count := x.count + 1 } else x }
    if w.count < 100 then s.logRecords time ev more buffered else s

/-- Whether Varlet runs: from the end of Verify on, and not in a steward reset (R612, R652, R707). -/
def State.varletRuns (s : State) : Bool :=
  s.dev.steward == .running && (s.dev.phase == .running || (s.dev.phase == .booting && s.dev.boot != .rom && s.dev.boot != .verify))

/-- An event with continuation records raised: written, or held in the lantern's buffer of 256 while Varlet does not run
(R612); in recovery mode no event is logged (R706). -/
def State.raiseMore (s : State) (ev : Event) (more : List (List Byte)) : State :=
  if s.dev.phase = .recovery || s.dev.phase = .off then s
  else if s.varletRuns then s.writeEvent s.dev.now ev more 0
  else if s.lan.buffered.length < 256 then { s with lan.buffered := s.lan.buffered ++ [(s.dev.now, ev, more)] }
  else { s with lan.overflow := s.lan.overflow + 1 }

/-- The buffered events written when Varlet runs again, flagged as buffered, and those that did not fit reported (R612, R665). -/
def State.flushBuffered (s : State) : State :=
  let l := s.lan.buffered
  let n := s.lan.overflow
  let s : State := { s with lan.buffered := [], lan.overflow := 0 }
  let s := l.foldl (fun s e => State.writeEvent s e.1 e.2.1 e.2.2 4) s
  if n = 0 then s else s.raiseMore ⟨0x0110, 1, none, none, leBytes 4 n⟩ []

/-- An event raised: code, severity (0 INFO, 1 WARN, 2 ERROR, 3 FATAL), bay, die, arguments (R666). -/
def State.raise (s : State) (code severity : Nat) (bay die : Option Nat) (args : List Byte) : State :=
  s.raiseMore ⟨code, severity, bay, die, args⟩ []

/-- A bit of TTH_EVENT set; a change from zero signals vector 0 (R551). -/
def State.tthEvent (s : State) (i : Nat) : State :=
  let s' := { s with tth.event := s.tth.event ||| 2 ^ i }
  if s.tth.event = 0 then s'.emit (.msix 0) else s'

/-- A tether counter increased; each is 32 bits and stops at all ones, and also counts in block 0x0600
(R19, R554, R660). -/
def State.tthCount (s : State) (i : Nat) : State :=
  ({ s with tth.counters := s.tth.counters.modify i fun n => satAdd 32 n 1 }).count 0x0600 i 1

/-- The severest condition of R650: the log holds a record at or above the cursor and at or above alert_level. -/
def State.alertCondition (s : State) (from_ : Nat) : Bool :=
  s.mgmt.log.any fun r => decide (from_ ≤ r.seq) && decide (s.mgmt.mtw.alertLevel ≤ r.ev.severity)

/-- Every OPEN bay drained as if BAY_DRAIN had been issued (R82). -/
def State.drainOpen (s : State) : State :=
  ({ s with bays := s.bays.map fun y =>
      if y.core.life.state = .opened then
        { y with core.life := { y.core.life with state := .draining, drainStart := some s.dev.now, destroyWanted := false } }
      else y } : State).quadVotes

/-- The device enters FATAL (R82). -/
def State.goFatal (s : State) : State := ({ s with dev.fatal := true }).drainOpen

end Sys2Proof.Machine
end

