-- ==== Sys2Proof/Machine/Command.lean ====
section
/-! DEFINITION. A VCP request: its header, the check order of R586, its response (R581 to R583) and the carriers that
take the response (R487, R498, R562, R651). -/

namespace Sys2Proof.Machine

/-- The status codes (R21). -/
inductive Status where
  | ok | busy | badOpcode | badLength | noBay | denied | noSpace | stale | duplicate | range | state | timeout | faulted
  | version
deriving DecidableEq, Repr

def Status.code : Status → Nat
  | .ok => 0 | .busy => 1 | .badOpcode => 2 | .badLength => 3 | .noBay => 4 | .denied => 5 | .noSpace => 6 | .stale => 7
  | .duplicate => 8 | .range => 9 | .state => 10 | .timeout => 11 | .faulted => 12 | .version => 13

/-- The header of a message (R579). -/
structure Header where
  version : Nat
  flags : Nat
  op : Nat
  bay : Nat
  len : Nat
  tag : Nat
  handle : Nat
deriving DecidableEq, Repr

def headerOf (m : List Byte) : Header := ⟨u8At m 0, u8At m 1, u16At m 2, u16At m 4, u16At m 6, u32At m 8, u32At m 12⟩

/-- Bytes of a header (R579). -/
def Header.bytes (h : Header) : List Byte :=
  leBytes 1 h.version ++ leBytes 1 h.flags ++ leBytes 2 h.op ++ leBytes 2 h.bay ++ leBytes 2 h.len ++ leBytes 4 h.tag ++
    leBytes 4 h.handle

/-- The answer to a request: status, detail and body (R582, R583). -/
structure Reply where
  status : Status
  detail : Nat
  body : List Byte
deriving DecidableEq, Repr

/-- The response message (R581, R582, R583, R585): the request's header with the response flag, the error flag for a
status other than OK, and the payload; an unsupported version is answered as version 0x02. -/
def responseMsg (h : Header) (r : Reply) : List Byte :=
  let v := if h.version = 1 then 1 else 2
  let detail := if v = 1 then 0 else r.detail
  let payload := leBytes 2 r.status.code ++ leBytes 2 detail ++ zeros 4 ++ r.body
  let flags := h.flags % 2 + 2 + (if r.status = .ok then 0 else 4)
  ({ h with version := v, flags := flags, len := payload.length }).bytes ++ payload

/-! ### Minimums and caps as they stand (R62, R64, R65, R69) -/

def BayCore.cap (c : BayCore) (i : Nat) : Nat := (c.regs.getD i ⟨0, 0⟩).cap
def BayCore.min (c : BayCore) (i : Nat) : Nat := (c.regs.getD i ⟨0, 0⟩).min

/-- Sub-ports of a mode, and the rate of each in kb/s (R467). -/
def modeSubs (mode : Nat) : Nat := natAt [1, 2, 4, 1, 2, 1] mode
def modeRateKb (mode : Nat) : Nat := natAt [400000000, 200000000, 100000000, 200000000, 100000000, 100000000] mode

def State.portMode (s : State) (port : Nat) : Nat := ((s.net.ports[port]?).map fun p => p.settings.mode).getD 0

def State.subPort (s : State) (port sub : Nat) : Option SubPort := (s.net.ports[port]?).bind fun p => p.subs[sub]?

def State.modSub (s : State) (port sub : Nat) (f : SubPort → SubPort) : State :=
  { s with net.ports := s.net.ports.modify port fun p => { p with subs := p.subs.modify sub f } }

/-- Whether a sub-port's link is up. -/
def State.linkUp (s : State) (port sub : Nat) : Bool := (s.subPort port sub).any SubPort.link

/-- Sub-ports of a port whose link is up, of those of its mode. -/
def State.upSubs (s : State) (port : Nat) : Nat :=
  ((List.range (modeSubs (s.portMode port))).filter fun i => s.linkUp port i).length

/-- The power domain of a regulated point (R615): a ridge or thresher point's is its die's steward domain. -/
def pointDomain (point : Nat) : Nat :=
  if point < 12 then 63 + point else if point < 16 then 46 + point else if point < 18 then point - 16
  else if point < 26 then 54 + (point - 18) / 2 else if point < 34 then 20 + point else point - 34

/-- The fraction of its nominal capacity that a point has now (R69): a silo's throttle step and refresh (R438, R448), a
loft port's DevLoad and width (R455, R459), the operating point of CCLK for thresher time, and nothing for a ridge or yoke
link in link-level retry, nothing at all while the point's domain is not in A0 (R620), and of a network port the share of its sub-ports
that are up (R469). -/
def State.fraction (s : State) (point : Nat) : Nat × Nat :=
  if !s.domainA0 (pointDomain point) then (0, 1)
  else if point < 12 then
    match s.memsys.silos[point]? with
    | some x => (natAt [100, 75, 50, 25, 0, 0] x.step * (if 85 < x.temp then 97 else 100), 10000)
    | none => (1, 1)
  else if point < 16 then
    match s.memsys.lofts[point - 12]? with
    | some x => (natAt [100, 100, 75, 50] x.devload * (if x.width = 4 then 1 else 2), 200)
    | none => (1, 1)
  else if 34 ≤ point then (natAt [10, 13, 16] s.dev.cclk, 16)
  else if 16 ≤ point && point < 26 then
    (if (s.fab.links[(point - 16) / 2]?).any fun l => l.state == .retry || l.state == .retrain || l.state == .replay then 0 else 1, 1)
  else (s.upSubs (point - 26), modeSubs (s.portMode (point - 26)))

/-- Units counted at a point for one unit of its parameters: 25 passes for each 1/1,024 part of thresher time (R262). -/
def pointUnits (point : Nat) : Nat := if 34 ≤ point then 25 else 1

/-- A bay's cap and minimum at a point as they stand now. -/
def State.capNow (s : State) (b point : Nat) : Nat :=
  let (n, d) := s.fraction point
  (s.bay b).core.cap point * pointUnits point * n / d

def State.minNow (s : State) (b point : Nat) : Nat :=
  let (n, d) := s.fraction point
  (s.bay b).core.min point * pointUnits point * n / d

/-- Nominal capacity of point `i` of R603 per window (R62, R469). -/
def State.nominal (s : State) (i : Nat) : Nat :=
  if i < 12 then (if s.ident.hbm3e then 1200000 else 800000)
  else if i < 16 then (if ((s.memsys.lofts[i - 12]?).map Loft.gts).getD 64 = 32 then 32000 else 64000)
  else if i < 18 then 2400000
  else if i < 26 then 210823
  else if i < 34 then
    (match s.portMode (i - 26) with | 0 | 1 | 2 => 50000 | 3 | 4 => 25000 | _ => 12500)
  else 1024

/-- What a point can serve in a window as it stands now (R69), and what it has served of it. -/
def State.capacity (s : State) (point : Nat) : Nat :=
  let (n, d) := s.fraction point
  s.nominal point * pointUnits point * n / d

/-- What a point has served in the window: the debts with which it began are service of the window before (R66). -/
def State.servedAll (s : State) (point : Nat) : Nat :=
  natAt s.dp.device point + sumBy (fun (y : Bay) => natAt y.core.served point - natAt y.core.carried point) s.bays

def State.roomLeft (s : State) (point : Nat) : Bool := decide (s.servedAll point < s.capacity point)

/-- Whether a bay is under its minimum at a point (R64). -/
def State.underMin (s : State) (b point : Nat) : Bool := decide (natAt (s.bay b).core.served point < s.minNow b point)

/-- Whether a bay can be served at a point in this window: it is below its cap, and the point has capacity left (R64, R68); a
request that crosses the cap completes (R65). -/
def State.mayServe (s : State) (b point : Nat) : Bool :=
  decide (natAt (s.bay b).core.served point < s.capNow b point) && s.roomLeft point

/-- Whether a bay's debt leaves its wicket requests at a point no room in this window (R66). -/
def State.debtFull (s : State) (b point : Nat) : Bool := decide (s.capNow b point ≤ natAt (s.bay b).core.debt point)

/-- Whether a bay's request is let through at a point in this window: a cap does not hold one of the wicket path back (R64, R66). -/
def State.pointOpen (s : State) (wicket : Bool) (b point : Nat) : Bool := if wicket then !s.debtFull b point else s.mayServe b point

/-- Whether device-scope traffic is let through at a point (R67): within the 1/16 held for it, or where no bay claims what is left of
the window's capacity. -/
def State.deviceMay (s : State) (point : Nat) (claimed : Bool) : Bool :=
  decide (16 * natAt s.dp.device point < s.capacity point) || (!claimed && s.roomLeft point)

/-- The bay that comes next after another in round robin, among some. -/
def roundRobin (last : Nat) (bays : List Nat) : Option Nat := leastBy (fun b => (b + 15 - last % 16) % 16) bays

/-- The bay that a point serves next among those with a request there, each given with whether it is one of the wicket path (R64): one
under its minimum first, then one within its cap, or past it on the wicket path (R66), each in the round robin that goes on from the
bay the same step served last. -/
def State.nextBay (s : State) (point : Nat) (l : List (Nat × Bool)) : Option Nat :=
  let last := s.dp.rr.getD point (15, 15)
  let may := (l.filter fun x => s.pointOpen x.2 x.1 point).map Prod.fst
  match roundRobin last.1 (may.filter fun b => s.underMin b point) with
  | some b => some b
  | none => roundRobin last.2 may

/-! ### Links (R512 to R514) and the ridge (R23) -/

/-- Flits of 256 bytes that some bytes take, and the flit groups of 16 that some flits take (R512). -/
def flitsOf (bytes : Nat) : Nat := (bytes + 255) / 256
def groupsOfFlits (flits : Nat) : Nat := (flits + 15) / 16

def State.link (s : State) (i : Nat) : Link := s.fab.links.getD i Link.initial
def State.modLink (s : State) (i : Nat) (f : Link → Link) : State := { s with fab.links := s.fab.links.modify i f }

/-- Flit groups that a link has sent and that are not acknowledged (R514). -/
def Link.held (l : Link) : Nat := (l.sendNext + 256 - l.sendBase % 256) % 256

/-- The flits of a transfer that a link's replay buffer of 64 groups can hold: a longer one passes group by group (DESIGN CHOICE,
log 188). -/
def bufferFlits (flits : Nat) : Nat := min flits 1024

/-- Whether a link can take flits of a class now: it is UP and not in retry (R69), its replay buffer of 64 groups has room (R514),
and the receiver has credit for them (R513). -/
def Link.room (l : Link) (cls flits : Nat) : Bool :=
  l.state == .up && decide (l.held + groupsOfFlits (bufferFlits flits) ≤ 64) && decide (bufferFlits flits ≤ natAt l.credits cls)

/-- Flits of a class sent on a link (R512 to R514). -/
def State.linkSent (s : State) (i cls flits : Nat) : State :=
  (s.modLink i fun l => { l with
    sendNext := (l.sendNext + groupsOfFlits (bufferFlits flits)) % 256
    sentAt := if l.sendBase = l.sendNext then s.dev.now else l.sentAt
    credits := l.credits.modify cls (· - bufferFlits flits) }).count (0x400 + i) 0 flits

/-- The class of data that crosses the ridge: read data is a response, a write a request (R513). -/
def ridgeClass (isWrite : Bool) : Nat := if isWrite then 2 else 1

/-- Whether the ridge is lost (R517). -/
def State.ridgeLost (s : State) : Bool := (s.fab.links[0]?).any fun l => l.state == .down

/-- The die of a yoke link. -/
def linkDie (link : Nat) : Nat := (link - 1) / 2

/-- The ridge point that data from one die passes on its way to a unit of another (R62). -/
def crossing (die to_ : Nat) : Option Nat := if die = to_ then none else some (16 + die)

/-! ### Charging and sending -/

/-- Bytes charged to a bay at a regulated point, in the record order of R603 (R62, R71), and counted (R660); the
point's round robin under minimum, or within cap, goes on from the bay (R64). -/
def State.charge (s : State) (b point n : Nat) : State :=
  let under := s.underMin b point
  let s := s.modBay b fun y => { y with core.served := addAt y.core.served point n }
  let s : State := { s with dp.rr := s.dp.rr.modify point fun r => if under then (b, r.2) else (r.1, b) }
  s.count b (17 + point) n

/-- Charges that no cap holds back (R66, R490): what passed the cap at a point between `s` and `s'` is carried as debt into
the next window. -/
def State.withDebt (s : State) (b : Nat) (s' : State) : State :=
  s'.modBay b fun y => { y with core.debt := y.core.debt.zipIdx.map fun d =>
    let cap := s.capNow b d.2
    d.1 + ((natAt y.core.served d.2 - cap) - (natAt (s.bay b).core.served d.2 - cap)) }

def State.chargeDebt (s : State) (b point n : Nat) : State := s.withDebt b (s.charge b point n)

/-- Bytes charged to the bay that a transfer is for, as debt where a cap does not hold it back (R66), or to the device-scope share
(R67). -/
def State.chargeFor (s : State) (bay : Option Nat) (wicket : Bool) (point n : Nat) : State :=
  match bay with
  | some b => if wicket then s.chargeDebt b point n else s.charge b point n
  | none => { s with dp.device := addAt s.dp.device point n }

/-- Bytes that cross the ridge by a point of it, charged, and their flits sent in a class. -/
def State.cross (s : State) (bay : Option Nat) (wicket : Bool) (point cls n : Nat) : State :=
  (s.chargeFor bay wicket point n).linkSent 0 cls (flitsOf n)

/-- Whether bytes of a bay may cross the ridge by a point of it: its regulator, the replay buffer and the credit let them (R69, R513,
R514); over a ridge that is lost nothing crosses (R517). -/
def State.crossMay (s : State) (bay : Option Nat) (wicket : Bool) (point cls n : Nat) : Bool :=
  (s.link 0).room cls (flitsOf n) && match bay with
    | some b => s.pointOpen wicket b point
    | none => s.deviceMay point false

/-- The margin runs of a link target that leaves the state in which it may be margined are aborted (R716). -/
def State.abortMargins (s : State) (kind index sub : Nat) : State :=
  { s with mgmt.margins := s.mgmt.margins.map fun m =>
      (if m.state = 0 && m.kind = kind && m.index = index && m.sub = sub then { m with state := 2 } else m) }

/-- Frame bytes from destination address to FCS of a UDP datagram or a RoCEv2 packet with `n` payload bytes (R62). -/
def udpFrame (v6 : Bool) (n : Nat) : Nat := 14 + (if v6 then 40 else 20) + 8 + n + 4
def roceFrame (v6 : Bool) (n : Nat) : Nat := udpFrame v6 (12 + 16 + n + 4)

/-- Frames sent on a sub-port counted (R660). -/
def State.framesSent (s : State) (port sub frames bytes : Nat) : State :=
  (s.count (0x300 + port) (16 * sub + 1) frames).count (0x300 + port) (16 * sub + 3) bytes

/-- The priority of a class on a port: 0 urgent, 1 bulk, 2 fabric (R473). -/
def State.classPrio (s : State) (port cls : Nat) : Nat :=
  ((s.net.ports[port]?).map fun p => natAt p.settings.priorities cls).getD 0

/-! ### Egress of a sub-port (R64, R476, R480, R496, R622, R732) -/

/-- Whether a bay's frames wait at a port for which its regulator has room: they claim its capacity (R67). -/
def State.portClaimed (s : State) (port : Nat) : Bool :=
  ((s.net.ports[port]?).map Port.subs).any fun l => l.any fun x => x.prios.any fun p => p.waiting.any fun f =>
    f.bay.any fun b => s.pointOpen f.wicket b (26 + port)

/-- Whether waiting frames may start as far as the regulators go: those of the device-scope share (R67), of a bay below its cap,
or of the wicket path while the bay's debt leaves room (R66); and the ridge, if they come over it. -/
def State.framesMay (s : State) (port : Nat) (f : Frames) : Bool :=
  (match f.bay with
    | none => s.deviceMay (26 + port) (s.portClaimed port)
    | some b => s.pointOpen f.wicket b (26 + port)) &&
  f.ridge.all fun r => s.crossMay f.bay f.wicket r.1 2 r.2

/-- The frames of one priority that leave next: a level-0 wicket result before every other (R732); in the urgent class then the
oldest; in another the device's own within its share, and then those of the bay that the regulator chooses (R64). -/
def State.nextFrames (s : State) (port : Nat) (urgent : Bool) (l : List Frames) : Option Frames :=
  let ready := l.filter (s.framesMay port)
  match ready.find? Frames.ahead with
  | some f => some f
  | none =>
    if urgent then ready.head?
    else match ready.find? fun f => f.bay.isNone with
      | some f => some f
      | none => (s.nextBay (26 + port) (ready.filterMap fun f => f.bay.map fun b => (b, f.wicket))).bind fun b =>
          ready.find? fun f => f.bay == some b

/-- The priorities of a port in the order in which its egress serves them: every express one before any preemptable one (R480),
and the higher number first among equals (DESIGN CHOICE, log 141). -/
def State.prioOrder (s : State) (port : Nat) : List Nat :=
  let mask := ((s.net.ports[port]?).map fun p => p.settings.expressMask).getD 0
  let all := (List.range 8).reverse
  all.filter (bit mask) ++ all.filter fun i => !bit mask i

/-- Whether a priority of a sub-port may start a frame: its port is awake (R622) and the priority is not paused (R476). -/
def State.prioOpen (s : State) (port prio : Nat) (x : SubPort) : Bool :=
  s.domainA0 (46 + port) && (x.prios[prio]?).any fun p => p.pausedSince.isNone

/-- The frames that a sub-port sends next, with their priority. -/
def State.egressNext (s : State) (port sub : Nat) : Option (Nat × Frames) :=
  match (s.subPort port sub).filter SubPort.link with
  | none => none
  | some x => (s.prioOrder port).findSome? fun k =>
    if s.prioOpen port k x then
      (s.nextFrames port (k == s.classPrio port 0) (((x.prios[k]?).map PrioState.waiting).getD [])).map fun f => (k, f)
    else none

/-- Whether what is sent has an IP header: all but ARP and knock replies (R471, R633). -/
def hasIp (o : Output) : Bool :=
  match o with
  | .frame _ _ kind _ => kind == 1 || kind == 2
  | _ => true

/-- Frames as they leave in a priority (R473, R477, R479, R480). -/
def State.framed (s : State) (port sub prio : Nat) (f : Frames) : Output :=
  let p := ((s.net.ports[port]?).map Port.settings).getD PortSettings.initial
  let least := match s.subPort port sub with
    | some x => if x.verify = .active && !bit p.expressMask prio then 64 * (1 + x.fragSize) else 0
    | none => 0
  .framed port sub (if f.vlan = 0 then none else some (f.vlan, prio)) (if hasIp f.out then some (natAt p.dscps f.cls, 2) else none) least f.out

/-- Frames leave: charged to their bay at the egress (R496), counted and sent. -/
def State.framesLeave (s : State) (port sub prio : Nat) (f : Frames) : State :=
  let s := s.modSub port sub fun x => { x with prios := x.prios.modify prio fun p => { p with waiting := p.waiting.erase f } }
  let s := s.chargeFor f.bay f.wicket (26 + port) f.bytes
  let s := match f.ridge with
    | some r => s.cross f.bay f.wicket r.1 2 r.2
    | none => s
  (s.framesSent port sub f.frames f.bytes).emit (s.framed port sub prio f)

/-- A sub-port sends what it may; the first argument bounds the runs of frames. -/
def State.egressRun : Nat → Nat → Nat → State → State
  | 0, _, _, s => s
  | n + 1, port, sub, s => match s.egressNext port sub with
    | none => s
    | some (k, f) => State.egressRun n port sub (s.framesLeave port sub k f)

/-- Frames that wait at a sub-port. -/
def State.framesWaiting (s : State) (port sub : Nat) : Nat :=
  ((s.subPort port sub).map fun x => sumBy (fun (p : PrioState) => p.waiting.length) x.prios).getD 0

def State.egress (s : State) (port sub : Nat) : State := State.egressRun (s.framesWaiting port sub) port sub s

/-- Frames handed to a sub-port in a class, for a bay or for the device-scope share: a link that is down sends nothing (R472);
whatever may not start yet waits and is not dropped (R49). -/
def State.sendFrames (s : State) (port sub cls frames bytes : Nat) (o : Output) (bay : Option Nat := none) (ahead : Bool := false)
    (wicket : Bool := false) (ridge : Option (Nat × Nat) := none) (vlan : Nat := 0) : State :=
  if !s.linkUp port sub then s
  else
    let prio := s.classPrio port cls
    let s := s.modSub port sub fun x => { x with prios := x.prios.modify prio fun p =>
      { p with waiting := p.waiting ++ [⟨bay, ahead, wicket, frames, bytes, ridge, cls, vlan, o⟩] } }
    s.egress port sub

/-- Bytes of a VLAN tag. -/
def tagBytes (vlan : Nat) : Nat := if vlan = 0 then 0 else 4

/-- The VLAN id of the address that a queue pair is bound to, and of the address of a family that a sub-port's own messages leave from, its
first (DESIGN CHOICE, log 193); 0 for none. -/
def State.qpVlan (s : State) (q : Qp) : Nat :=
  (((s.subPort q.port q.sub).bind fun x => q.addr.bind fun i => x.addrs[i]?).map PortAddr.vlan).getD 0
def State.udpVlan (s : State) (port sub : Nat) (v6 : Bool) : Nat :=
  (((s.subPort port sub).bind fun x => x.addrs.find? fun a => a.addr.v6 == v6).map PortAddr.vlan).getD 0

/-- Frame bytes of a datagram of a sub-port. -/
def State.udpBytes (s : State) (port sub : Nat) (v6 : Bool) (n : Nat) : Nat := udpFrame v6 n + tagBytes (s.udpVlan port sub v6)

/-- A datagram sent from a sub-port (R497, R505, R527). -/
def State.sendUdp (s : State) (port sub cls : Nat) (dst : NetAddr) (dstPort : Nat) (msg : List Byte) (bay : Option Nat)
    (wicket : Bool := false) (ridge : Option (Nat × Nat) := none) : State :=
  s.sendFrames port sub cls 1 (s.udpBytes port sub dst.v6 msg.length) (.udp port sub dst dstPort msg) bay false wicket ridge
    (s.udpVlan port sub dst.v6)

/-- A placement that failed (R225): counted; nothing more of the sheaf is placed. -/
def State.placeFail (s : State) (b : Nat) : State :=
  (s.modCounters b fun k => { k with placement := satAdd 32 k.placement 1 }).count b 7 1

/-- Packets of a WRITE (R484). -/
def packetsOf (mtu n : Nat) : Nat := if n = 0 then 1 else (n + mtu - 1) / mtu

/-- Bytes of a queue pair's frames that carry `n` bytes in `k` packets: with a VLAN tag where its address has one (R473). -/
def State.roceBytes (s : State) (q : Qp) (k n : Nat) : Nat :=
  n + k * (roceFrame q.clientIp.v6 0 + tagBytes (s.qpVlan q))

/-- An RDMA WRITE of data on a die sent on a queue pair: kept until acknowledged, counted, charged (R484, R495, R496). -/
def State.rdmaSend (s : State) (q : Qp) (addr key : Nat) (data : List Byte) (cls : Nat := 1) (ahead : Bool := false)
    (wicket : Bool := false) (work : Option Nat := none) (die : Nat := q.port / 4) : State :=
  let k := packetsOf q.mtu data.length
  let s := s.modQp q.qpn fun q =>
    { q with
      unacked := q.unacked ++ [⟨cls, q.nextPsn, k, addr, key, data, work⟩]
      nextPsn := (q.nextPsn + k) % 2 ^ 24
      sentAt := if q.unacked.isEmpty then s.dev.now else q.sentAt
      sent := satAdd 64 q.sent k }
  let n := s.roceBytes q k data.length
  s.sendFrames q.port q.sub cls k n (.rdmaWrite q.qpn addr key data) q.bay ahead wicket
    ((crossing die (q.port / 4)).map fun p => (p, data.length)) (s.qpVlan q)

/-- The class of a response: urgent for an urgent message whose frame is at most 512 bytes (R596). -/
def urgentClass (msg : List Byte) (frame : Nat) : Nat := if bit (u8At msg 1) 0 && decide (frame ≤ 512) then 0 else 1

/-- A response written to a queue pair's ring: the slot, then the count (R487). -/
def State.ringRespond (s : State) (q : Qp) (msg : List Byte) : State :=
  let slot := q.ring.count % q.ring.slots
  let cls := urgentClass msg (s.roceBytes q 1 msg.length)
  let s := s.rdmaSend q (q.ring.addr + 4096 * slot) q.ring.key msg cls
  let s := s.modQp q.qpn fun q => { q with ring.count := q.ring.count + 1 }
  match s.qp q.qpn with
  | some q => s.rdmaSend q (q.ring.addr + 4096 * q.ring.slots) q.ring.key (leBytes 8 q.ring.count) cls
  | none => s

/-- A response that can be delivered nowhere (R591): counted for the session and its bay. -/
def State.dropResponse (s : State) (handle : Nat) : State :=
  match s.session handle with
  | some x =>
    let s := s.modSession handle fun x => { x with dropped := satAdd 32 x.dropped 1 }
    match x.bay with
    | some b => (s.modCounters b fun c => { c with dropped := satAdd 32 c.dropped 1 }).count b 12 1
    | none => s
  | none => s

/-- The VCP port of a network port (R497). -/
def State.vcpPort (s : State) (port : Nat) : Nat := ((s.net.ports[port]?).map fun p => p.settings.vcpPort).getD 7411

/-- A message sent to a carrier, on behalf of a session (0 for none). -/
def State.deliver (s : State) (via : Via) (handle : Nat) (msg : List Byte) : State :=
  let bay := (s.session handle).bind Session.bay
  match via with
  | .udp port sub src srcPort =>
    s.sendUdp port sub (urgentClass msg (s.udpBytes port sub src.v6 msg.length)) src srcPort msg bay
  | .send qpn => match s.qp qpn with
    | some q => if q.error.isNone && 0 < q.ring.slots then s.ringRespond q msg else s.dropResponse handle
    | none => s.dropResponse handle
  | .mailbox m =>
    if s.tth.attached then s.modBox m fun x => { x with toWrite := x.toWrite ++ [msg] } else s.dropResponse handle
  | .mtw => { s with mgmt.mtw.ready := some msg }
  | .relay _ => s

/-- The response to a request sent by the way it came (R598); over UDP from the session's source it is also kept by tag among
its last 256 (R498). A wicket or command BUSY of R592 is answered with `keep` false. -/
def State.respond (s : State) (r : Req) (keep : Bool) (reply : Reply) : State :=
  let h := headerOf r.msg
  let msg := responseMsg h reply
  let s := s.deliver r.via h.handle msg
  match r.via with
  | .udp _ _ src srcPort =>
    if keep then s.modSession h.handle fun x =>
      if x.udp = some (src, srcPort) then
        { x with replay := ((h.tag, msg) :: x.replay.filter fun e => e.1 != h.tag).take 256 }
      else x
    else s
  | _ => s

/-! ### The command table (R601) -/

/-- Who runs a command: a bay session, a device-scope session, or management (R588, R599). -/
structure Caller where
  bay : Option Nat
  handle : Nat
  mtw : Bool
deriving DecidableEq, Repr

/-- Where a request names a bay in its payload: its offset and width (R588). -/
inductive BayField where
  | none
  /-- In every request: byte 0. -/
  | byte0
  /-- In a device-scope request only: bytes 0 and 1. -/
  | scoped
deriving DecidableEq, Repr

/-- One command's entry: opcode, marks B, D, M, U, N, T (R601), whether handle 0 is allowed,
the legal states of the bay it acts on (empty: any), where it names a bay, and the lengths it allows: the answer
is the detail of BAD_LENGTH, none for a length that is allowed. -/
structure CmdSpec where
  op : Nat
  b : Bool := false
  d : Bool := false
  m : Bool := false
  u : Bool := false
  n : Bool := false
  t : Bool := false
  handle0 : Bool := false
  states : List BayState := []
  bayField : BayField := .none
  lens : Caller → List Byte → Option Nat

/-- Commands executed while the device is FATAL (R587): groups 0x01, 0x0A and 0x0F, BAY_DRAIN, and the queries. -/
def fatalOk (op : Nat) : Bool :=
  [0x01, 0x0A, 0x0F].contains (op / 256) ||
    [0x0205, 0x0208, 0x020D, 0x0303, 0x0404, 0x0408, 0x0506, 0x0701, 0x0903, 0x0B31].contains op

/-- Detail of BAD_LENGTH for the header's payload_length field (R583). -/
def badLen : Nat := 0x8006

/-- Exactly `n` bytes. -/
def exactly (n : Nat) (_ : Caller) (p : List Byte) : Option Nat := if p.length = n then none else some badLen

/-- `base` bytes and `size` more for each of the items counted at `off` (in `w` bytes). -/
def counted (base size off w : Nat) (_ : Caller) (p : List Byte) : Option Nat :=
  if base ≤ p.length && p.length == base + size * fieldAt p off w then none else some badLen

/-- `base` bytes whose bulk descriptor stands at `off`, with inline data of its length after `base + items` (R593). -/
def withBulk (base off items : Nat) (p : List Byte) : Option Nat :=
  if p.length < base + items then some badLen
  else if u8At p off = 1 then (if p.length = base + items + u32At p (off + 16) then none else some (off + 16))
  else if p.length = base + items then none else some badLen

/-! ### The check order (R586) -/

/-- What an arrival check finds. -/
inductive Check where
  | pass (c : Caller)
  | fail (r : Reply)
  /-- Discarded: the index of the counter in `Net.discards`. -/
  | discard (why : Nat)
deriving DecidableEq, Repr

def failWith (st : Status) (detail : Nat) : Check := .fail ⟨st, detail, []⟩

/-- Steps 5 and 6 of R586 and the session that the message bears. -/
def checkSession (s : State) (spec : CmdSpec) (r : Req) (h : Header) : Check :=
  match r.via with
  | .mtw => if h.handle = 0 then .pass ⟨none, 0, true⟩ else failWith .stale 0
  | _ =>
    if h.handle = 0 then
      if spec.handle0 then .pass ⟨if h.bay = 0xFFFF then none else some h.bay, 0, false⟩ else failWith .stale 0
    else match s.session h.handle with
      | none => failWith .stale 0
      | some x =>
        if (x.state = .opened && s.dev.now < x.expiry) || (spec.op = 0x0105 && x.state ≠ .ended) then .pass ⟨x.bay, h.handle, false⟩
        else failWith .stale 0

/-- Step 7: the session's binding to the carrier (R87, R498, R561). -/
def checkBinding (s : State) (r : Req) (h : Header) (c : Caller) : Check :=
  match r.via with
  | .udp _ _ src srcPort =>
    if h.handle = 0 then .pass c
    else if ((s.session h.handle).bind Session.udp) = some (src, srcPort) then .pass c else .discard 2
  | .send qpn =>
    if h.handle = 0 then .pass c
    else if (s.qp qpn).any fun q => q.session == h.handle then .pass c else failWith .denied 0
  | .mailbox m =>
    if h.handle = 0 then .pass c
    else if ((s.box m).bind Mailbox.session) = some h.handle then .pass c else failWith .denied 0
  | _ => .pass c

/-- The bay a request names in its payload. -/
def payloadBay (spec : CmdSpec) (c : Caller) (p : List Byte) : Option Nat :=
  match spec.bayField with
  | .none => none
  | .byte0 => if p.isEmpty then none else some (u8At p 0)
  | .scoped => if c.bay.isNone && 2 ≤ p.length then some (u16At p 0) else none

/-- Step 8: the bay rules of R53 and R54 (a bay above 15 or ABSENT first, then the caller's own). BAY_CREATE and BAY_QUERY
may name an ABSENT bay. -/
def checkBay (s : State) (spec : CmdSpec) (h : Header) (c : Caller) (p : List Byte) : Check :=
  if h.bay ≠ 0xFFFF && (15 < h.bay || s.bayState h.bay = .absent) then failWith .noBay 0
  else if h.bay ≠ c.bay.getD 0xFFFF then failWith .denied 0
  else if c.bay.isSome && !spec.b then failWith .denied 0
  else if c.bay.isNone && !spec.d && !c.mtw then failWith .denied 0
  else match payloadBay spec c p with
    | none => .pass c
    | some b =>
      if 15 < b then failWith .noBay 0
      else if s.bayState b = .absent && spec.op ≠ 0x0201 && spec.op ≠ 0x0208 then failWith .noBay 0
      else if c.bay.isSome && c.bay ≠ some b then failWith .denied 0
      else .pass c

/-- Length the command's own layout takes, for one marked U that travels as a wicket message (R596). -/
def ownLength (op : Nat) (c : Caller) : Nat :=
  match op with
  | 0x0104 => 0
  | 0x0701 => if c.bay.isSome then 0 else 8
  | 0x0A01 => 16
  | _ => 8

/-- Whether a message is a U command's 64-byte form (R596). -/
def isPadded (spec : CmdSpec) (r : Req) : Bool := spec.u && r.msg.length == 64

/-- The payload without a wicket message's padding. -/
def ownPayload (spec : CmdSpec) (r : Req) (c : Caller) : List Byte :=
  if isPadded spec r then slice 16 (ownLength spec.op c) r.msg else r.msg.drop 16

/-- Steps 8 to 10. -/
def checkTail (s : State) (spec : CmdSpec) (r : Req) (c : Caller) : Check :=
  let h := headerOf r.msg
  let p := ownPayload spec r c
  match checkBay s spec h c p with
  | .pass c =>
    match spec.lens c p with
    | some d => failWith .badLength d
    | none => if s.dev.fatal && !fatalOk spec.op then failWith .faulted 0 else .pass c
  | x => x

/-- Steps 1 to 4 (R580, R585, R586): nothing for a request that passes. -/
def checkHead (known : Nat → Bool) (r : Req) : Option Check :=
  let h := headerOf r.msg
  if r.msg.length ≠ 16 + h.len || 4096 < r.msg.length then some (failWith .badLength badLen)
  else if h.version ≠ 1 && h.version ≠ 2 then some (.fail ⟨.version, 0, [1, 2]⟩)
  else if h.version = 1 && h.op / 256 = 0x0B then some (failWith .version 0)
  else if h.flags / 8 ≠ 0 then some (failWith .range 0x8001)
  else if !known h.op then some (failWith .badOpcode 0)
  else none

/-- Step 5: the transport (R598, R599, R600). -/
def transportOk (spec : CmdSpec) (r : Req) : Bool :=
  match r.via with
  | .udp .. => !spec.t
  | .send _ => !spec.t
  | .mailbox _ => !spec.n
  | .mtw => spec.m
  | .relay _ => false

/-- Steps 5 to 10 for a known command. -/
def checkKnown (s : State) (spec : CmdSpec) (r : Req) : Check :=
  let h := headerOf r.msg
  if !transportOk spec r then failWith .denied 0
  else match checkSession s spec r h with
    | .pass c => match checkBinding s r h c with
      | .pass c => checkTail s spec r c
      | x => x
    | x => x

/-! ### Running a command -/

/-- A command at the point where its own conditions are checked: the caller, the message, the payload, the bay it acts
on, and whether a wicket message's padding is zero (R584). -/
structure Ctx where
  caller : Caller
  req : Req
  p : List Byte
  bay : Nat
  padBad : Option Nat
  /-- The command is being carried out at the Commit of a spanned command (R538, R539). -/
  commit : Bool := false
deriving DecidableEq, Repr

/-- What a command's own part gives: an answer, or none when it answers later or never; and the state after. -/
abbrev Result := Option Reply × State

def fail (st : Status) (detail : Nat) (s : State) : Result := (some ⟨st, detail, []⟩, s)

def okWith (body : List Byte) (s : State) : Result := (some ⟨.ok, 0, body⟩, s)

/-- Detail of the first failing item of a list (R583). -/
def itemDetail (i : Nat) : Nat := 0x4000 + i

/-- Offset of the first field that fails. -/
def firstBad (l : List (Nat × Bool)) : Option Nat := (l.find? fun f => !f.2).map Prod.fst

/-- Step 12: the fields in payload order (R583, R584), then what follows. -/
def Ctx.fields (c : Ctx) (s : State) (l : List (Nat × Bool)) (k : Result) : Result :=
  match firstBad l with
  | some d => fail .range d s
  | none => match c.padBad with
    | some d => fail .range d s
    | none => k

/-- A step of the check order that answers with a status. -/
def refuseIf (cond : Bool) (st : Status) (detail : Nat) (s : State) (k : Result) : Result :=
  if cond then fail st detail s else k

/-- The bay a command acts on: the payload's, or the caller's. -/
def actingBay (spec : CmdSpec) (c : Caller) (p : List Byte) : Nat := ((payloadBay spec c p).orElse fun _ => c.bay).getD 0xFFFF

def mkCtx (spec : CmdSpec) (r : Req) (c : Caller) : Ctx :=
  let p := ownPayload spec r c
  let k := ownLength spec.op c
  ⟨c, r, p, actingBay spec c p, if isPadded spec r && !zeroAt r.msg (16 + k) (48 - k) then some k else none, false⟩

/-- Whether the stewards run commands: booted, not parked, not in a steward reset (R587, R612); in recovery mode MTW
alone is served (R706). -/
def State.serving (s : State) (via : Via) : Bool :=
  match s.dev.phase, via with
  | .running, _ => s.dev.steward == .running
  | .recovery, .mtw => true
  | _, _ => false

/-- Commands of recovery mode (R706). -/
def recoveryOps : List Nat := [0x0F01, 0x0F02, 0x0F03, 0x0A05, 0x0F40]

/-- Steps 11 to 13 of an accepted command and its answer. In recovery mode every other command is DENIED (R706). -/
def runAccepted (spec : CmdSpec) (run : Ctx → State → Result) (r : Req) (c : Caller) (s : State) : State :=
  let ctx := mkCtx spec r c
  let res : Result :=
    if s.dev.phase = .recovery && !recoveryOps.contains spec.op then fail .denied 0 s
    else if !spec.states.isEmpty && ctx.bay ≤ 15 && !spec.states.contains (s.bayState ctx.bay) then fail .state 0 s
    else run ctx s
  match res.1 with
  | some reply =>
    let reply := if c.mtw && 488 < reply.body.length then ⟨.range, 0, []⟩ else reply
    let s' := if c.mtw && 488 < (res.1.map fun x => x.body.length).getD 0 then s else res.2
    s'.respond r true reply
  | none => res.2

/-- The caller of a command that was accepted earlier (R591): its session is no longer asked for. -/
def acceptedCaller (s : State) (r : Req) : Caller :=
  let h := headerOf r.msg
  match r.via with
  | .mtw => ⟨none, 0, true⟩
  | _ => match s.session h.handle with
    | some x => ⟨x.bay, h.handle, false⟩
    | none => ⟨if h.bay = 0xFFFF then none else some h.bay, h.handle, false⟩

/-- A discarded message: counted by its reason (R484, R497, R498). -/
def State.countDiscard (s : State) (why : Nat) : State := { s with net.discards := addAt s.net.discards why 1 }

/-- Whether a queued message is the first of its session (R589: a session's commands start in acceptance order). -/
def State.startsNext (s : State) (r : Req) : Bool :=
  match s.net.stewardQueue.find? fun q => (headerOf q.msg).handle == (headerOf r.msg).handle with
  | some q => q == r
  | none => false

/-- Steps 8 to 13 for a command accepted earlier. -/
def resume (spec : CmdSpec) (run : Ctx → State → Result) (r : Req) (s : State) : State :=
  match checkTail s spec r (acceptedCaller s r) with
  | .pass c => runAccepted spec run r c s
  | .fail reply => s.respond r true reply
  | .discard w => s.countDiscard w

/-- A message with the response flag set (R581). -/
def isResponse (r : Req) : Bool := bit (u8At r.msg 1) 1

def State.countMalformed (s : State) : State := { s with net.malformedVcp := satAdd 64 s.net.malformedVcp 1 }

/-- Requests accepted and not yet answered. -/
def State.executing (s : State) : List Req :=
  s.net.stewardQueue ++ s.net.parked ++ s.dp.messages.map WicketMsg.req ++ s.dp.lookups.map Lookup.req ++
    s.dp.waiting.map Waiting.req ++ s.fab.spans.map Span.req

/-- A request of a session over UDP whose tag matches a kept response, which is sent again, or one still executing, which
discards it (R498). -/
def State.repeated (s : State) (r : Req) : Option State :=
  let h := headerOf r.msg
  match r.via with
  | .udp _ _ src srcPort =>
    match (s.session h.handle).filter fun x => x.udp == some (src, srcPort) with
    | none => none
    | some x => match x.replay.find? fun e => e.1 == h.tag with
      | some e => some (s.deliver r.via h.handle e.2)
      | none =>
        let same := fun (q : Req) => (match q.via with | .udp .. => true | _ => false) &&
          (headerOf q.msg).handle == h.handle && (headerOf q.msg).tag == h.tag
        if s.executing.any same then some s else none
  | _ => none

/-- A command's row: the message is started by the stewards. One that waits in their queue has passed steps 1 to 7 when
it was accepted, and starts once it is the first of its session; one that was parked tries again in its place, behind those parked before
it; any other
passes through all of R586 now. A message with another opcode changes nothing, nor does one that finds the stewards not
serving or in fallow (R587, R612, R622). -/
def runCommand (spec : CmdSpec) (run : Ctx → State → Result) (r : Req) (s : State) : Out :=
  .next <|
    if (headerOf r.msg).op ≠ spec.op then s
    else if !s.serving r.via || !s.domainA0 0 then s
    else if s.net.parked.contains r then
      let s' := resume spec run r { s with net.parked := s.net.parked.takeWhile (· != r) }
      if s'.net.parked.contains r then s
      else { s' with net.parked := s'.net.parked ++ (s.net.parked.dropWhile (· != r)).drop 1 }
    else if s.net.stewardQueue.contains r then
      if s.startsNext r then resume spec run r { s with net.stewardQueue := s.net.stewardQueue.erase r } else s
    else if isResponse r then s.countMalformed
    else match s.repeated r with
    | some s => s
    | none => match checkHead (fun op => op == spec.op) r with
      | some (.fail reply) => s.respond r true reply
      | some _ => s
      | none => match checkKnown s spec r with
        | .pass c => runAccepted spec run r c s
        | .fail reply => s.respond r true reply
        | .discard w => s.countDiscard w

/-- The answer of a command that waited (R589, R591): its response goes the way its request came. -/
def State.answer (s : State) (r : Req) (reply : Reply) : State := s.respond r true reply

/-- A command that must wait for something under way: its row tries it again later. -/
def park (c : Ctx) (s : State) : Result := (none, { s with net.parked := s.net.parked ++ [c.req] })

/-! ### Bulk data and item statuses -/

/-- A bulk descriptor (R593). -/
structure Bulk where
  kind : Nat
  key : Nat
  offset : Nat
  length : Nat
deriving DecidableEq, Repr

def bulkAt (p : List Byte) (off : Nat) : Bulk := ⟨u8At p off, u32At p (off + 4), u64At p (off + 8), u32At p (off + 16)⟩

/-- Field checks of a descriptor in payload order (R593, R584), for the kinds a command takes and a bay's ring of `h`
bytes. -/
def bulkChecks (p : List Byte) (off : Nat) (kinds : List Nat) (h : Nat) : List (Nat × Bool) :=
  let d := bulkAt p off
  [(off, kinds.contains d.kind), (off + 1, zeroAt p (off + 1) 3), (off + 4, d.kind == 3 || d.key == 0),
   (off + 8, (d.kind == 2 || d.kind == 3 || d.offset == 0) && (d.kind != 2 || d.offset % 8 == 0)),
   (off + 16, (d.kind != 0 || d.length == 0) && (d.kind != 2 || decide (d.offset + d.length ≤ h))),
   (off + 20, zeroAt p (off + 20) 4)]

/-- Bytes of a bay's hatch ring (R490): 0 while the bay is not open to writes. -/
def State.ringBytes (s : State) (b : Nat) : Nat := 2 ^ (s.bay b).core.shares.hatchLog

/-- The data a source descriptor names: inline after `base` bytes of the payload, or in the bay's ring. -/
def bulkSource (s : State) (b : Nat) (p : List Byte) (off base : Nat) : List Byte :=
  let d := bulkAt p off
  match d.kind with
  | 1 => slice base d.length p
  | 2 => s.read .ring b 0 d.offset d.length
  | _ => []

/-- Commands that change one table, whose number stands first in the payload (R589). -/
def tableOps : List Nat :=
  [0x020B, 0x0301, 0x0302, 0x0304, 0x0306, 0x0308, 0x0309, 0x030A, 0x0602, 0x0704, 0x0801, 0x0802, 0x0803, 0x0804]

/-- Whether a command changes a table of a bay. -/
def State.changesTable (s : State) (b table : Nat) (r : Req) : Bool :=
  let h := headerOf r.msg
  h.bay == b &&
    ((tableOps.contains h.op && u16At r.msg 16 == table) || (h.op == 0x0B01 && u16At (bulkSource s b (r.msg.drop 16) 0 24) 0 == table))

/-- Whether a command on several packages is prepared here for a table and not yet over (R538, R539). -/
def State.preparedOn (s : State) (b table : Nat) : Bool := s.fab.prepared.any fun p => p.bay == b && p.table == table

/-- A command that changes a table waits for every command accepted before it that changes the same one (R589): those that
are parked, those of several packages that are prepared, and what is under way. At the Commit of a spanned command only what is under
way holds it. -/
def inOrder (c : Ctx) (s : State) (table : Nat) (underWay : Bool) (k : Result) : Result :=
  if underWay || (!c.commit && (s.net.parked.any (s.changesTable c.bay table) || s.preparedOn c.bay table)) then park c s else k

/-- Item statuses as a body: 16 bits each, padded to a multiple of 8 bytes (R594). -/
def statusBody (l : List Status) : List Byte := padTo 8 (l.flatMap fun st => leBytes 2 st.code)

end Sys2Proof.Machine
end

