-- ==== Sys2Proof/Machine/Space.lean ====
section
/-! DEFINITION. The granule space of a bay: extents, areas, allocation of rows and blocks, and the release of granules
(R58, R180, R433 to R435, R443, R457). -/

namespace Sys2Proof.Machine

/-- Granules of a unit of 256 MiB (R433). -/
def unitGranules : Nat := 4194304
/-- Granules of a MiB. -/
def mibGranules : Nat := 16384
/-- Granules of a block (R434). -/
def blockGranules : Nat := 512

/-- The silo of a bay-relative granule address, none beyond the bay's units (R434). -/
def Space.siloOf (sp : Space) (a : Nat) : Option Nat := sp.siloExt[a / unitGranules]?

/-- The loft port of a bay-relative loft granule address (R457). -/
def Space.portOf (sp : Space) (a : Nat) : Option Nat := sp.loftExt[a / unitGranules]?

/-- The pseudo-channel of a silo granule (R434). -/
def pseudoChannel (a : Nat) : Nat := ((a % unitGranules) / blockGranules + a / unitGranules) % 32

/-- The home die of a silo (R436) and of a loft port (R457). -/
def siloDie (silo : Nat) : Nat := silo / 6
def loftDie (port : Nat) : Nat := port / 2

/-- Extents of consecutive units: the unit's silo (or port) for each (R434, R457). -/
def extentsOf (units : List Nat) : List Nat := units.zipIdx.flatMap fun u => List.replicate u.1 u.2

/-- Whether a span of `n` granules lies inside the bay's units (R88). -/
def Space.siloIn (sp : Space) (a n : Nat) : Bool := decide (a + n ≤ unitGranules * sp.siloExt.length)
def Space.loftIn (sp : Space) (a n : Nat) : Bool := decide (a + n ≤ unitGranules * sp.loftExt.length)

/-- Granules that runs, ascending by their first granule, take within `[lo, hi)`: those that lie in several are counted once. -/
def runsWithin (rs : List Run) (lo hi : Nat) : Nat :=
  (rs.foldl (fun (a : Nat × Nat) (r : Run) =>
    (max a.1 (r.first + r.len), a.2 + (min hi (r.first + r.len) - max a.1 r.first))) (lo, 0)).2

/-- A run put into a list ascending by its first granule. -/
def addRun (r : Run) (rs : List Run) : List Run := insertBy Run.first r rs

/-- A granule span taken out of a list of runs. -/
def cutRun (x : Run) (rs : List Run) : List Run :=
  rs.flatMap fun r =>
    let e := r.first + r.len
    let xe := x.first + x.len
    if xe ≤ r.first || e ≤ x.first then [r]
    else (if r.first < x.first then [⟨r.first, x.first - r.first⟩] else []) ++ (if xe < e then [⟨xe, e - xe⟩] else [])

/-- The least place from `pos` at which `g` granules fit inside one span of `k` granules: itself, or the next span. -/
def alignIn (k pos g : Nat) : Nat := if pos % k + g ≤ k then pos else roundUp pos k

/-- The lowest free place of `g` granules below `limit`, whole within a span of `k`, past runs ascending by their first
granule (R435). -/
def findFree (k g limit : Nat) : List Run → Nat → Option Nat
  | [], pos => let p := alignIn k pos g; if p + g ≤ limit then some p else none
  | r :: rs, pos =>
    let p := alignIn k pos g
    if p + g ≤ r.first && p + g ≤ limit then some p else findFree k g limit rs (max pos (r.first + r.len))

/-- Runs that may not be allocated: allocated ones, those awaiting release, and retired pages (R180, R443). -/
def Space.siloTaken (sp : Space) : List Run :=
  sortBy Run.first (sp.siloUsed ++ sp.siloFreed.map Prod.fst ++ sp.retired.map fun p => ⟨64 * p, 64⟩)

def Space.loftTaken (sp : Space) : List Run :=
  sortBy Run.first (sp.loftUsed ++ sp.loftFreed.map Prod.fst ++ sp.lostLoft.map fun x => ⟨unitGranules * x, unitGranules⟩)

/-- Extent numbers owned by each of `n` silos or ports, as a first extent and a count. -/
def extentRange (ext : List Nat) (k : Nat) : Nat × Nat :=
  ((ext.filter fun x => decide (x < k)).length, (ext.filter fun x => x == k).length)

/-- Free granules of one silo or port. -/
def freeIn (ext : List Nat) (taken : List Run) (k : Nat) : Nat :=
  let (f, n) := extentRange ext k
  unitGranules * n - runsWithin taken (unitGranules * f) (unitGranules * (f + n))

/-- The silos or ports in the order in which Varlet tries them: most free space first, ties to the lower number (R435,
R457). -/
def tryOrder (ext : List Nat) (taken : List Run) (among : List Nat) : List Nat :=
  sortBy (fun k => 2 ^ 64 - freeIn ext taken k) among

/-- The place the first of the silos or ports that can hold it gives to `g` granules. -/
def placeIn (ext : List Nat) (taken : List Run) (k g : Nat) : List Nat → Option Nat
  | [] => none
  | x :: rest =>
    let (f, n) := extentRange ext x
    match findFree k g (unitGranules * (f + n)) taken (unitGranules * f) with
    | some p => some p
    | none => placeIn ext taken k g rest

/-- A row of `g` granules allocated in silo space (R435): its address and the space after; none is NO_SPACE. -/
def Space.allocSilo (sp : Space) (g : Nat) : Option (Nat × Space) :=
  let taken := sp.siloTaken
  match placeIn sp.siloExt taken blockGranules g (tryOrder sp.siloExt taken (List.range 12)) with
  | some p => some (p, { sp with siloUsed := addRun ⟨p, g⟩ sp.siloUsed })
  | none => none

/-- A row of `g` granules allocated in loft space, in an UP port (R457), whole within one unit. -/
def Space.allocLoft (sp : Space) (up : List Nat) (g : Nat) : Option (Nat × Space) :=
  let taken := sp.loftTaken
  match placeIn sp.loftExt taken unitGranules g (tryOrder sp.loftExt taken up) with
  | some p => some (p, { sp with loftUsed := addRun ⟨p, g⟩ sp.loftUsed })
  | none => none

/-- Whole blocks in some silos (R435): as many as the lowest free run of the one with the most free space holds, then on.
The first argument bounds the number of runs. -/
def allocBlocks (among : List Nat) : Nat → Nat → Space → Option (List Run × Space)
  | _, 0, sp => some ([], sp)
  | 0, _, _ => none
  | f + 1, n, sp =>
    let taken := sp.siloTaken
    match placeIn sp.siloExt taken blockGranules blockGranules (tryOrder sp.siloExt taken among) with
    | none => none
    | some p =>
      -- how many further blocks of this silo are free behind the first
      let (e, k) := extentRange sp.siloExt ((sp.siloOf p).getD 0)
      let next := ((taken.filter fun r => decide (p ≤ r.first)).foldl (fun m (r : Run) => min m r.first) (unitGranules * (e + k)))
      let blocks := max 1 (min n ((next - p) / blockGranules))
      let r : Run := ⟨p, blockGranules * blocks⟩
      match allocBlocks among f (n - blocks) { sp with siloUsed := addRun r sp.siloUsed } with
      | some (rs, sp) => some (r :: rs, sp)
      | none => none

/-- The silos of a die. -/
def dieSilos (die : Nat) : List Nat := items 6 fun i => 6 * die + i

/-- Blocks for `bytes` bytes. -/
def blocksFor (bytes : Nat) : Nat := (bytes + 64 * blockGranules - 1) / (64 * blockGranules)

/-- Byte address of byte `off` of a segment's runs. -/
def runByte : List Run → Nat → Nat
  | [], off => off
  | r :: rs, off => if off < 64 * r.len then 64 * r.first + off else runByte rs (off - 64 * r.len)

/-- The granules of `n` bytes from byte `off` of a segment's runs, which need not lie side by side. -/
def runGranules (rs : List Run) (off n : Nat) : List Nat := items (n / 64) fun i => runByte rs (off + 64 * i) / 64

/-- Granules in order as runs of those that lie side by side. -/
def joinGranules : List Nat → List Run
  | [] => []
  | a :: l => match joinGranules l with
    | r :: rs => if r.first = a + 1 then ⟨a, r.len + 1⟩ :: rs else ⟨a, 1⟩ :: r :: rs
    | [] => [⟨a, 1⟩]

/-- Granules an entry no longer names wait for the sheafs accepted so far (R180). -/
def Space.freeSilo (sp : Space) (r : Run) (before : Nat) : Space :=
  { sp with siloUsed := cutRun r sp.siloUsed, siloFreed := sp.siloFreed ++ [(r, before)] }

def Space.freeLoft (sp : Space) (r : Run) (before : Nat) : Space :=
  { sp with loftUsed := cutRun r sp.loftUsed, loftFreed := sp.loftFreed ++ [(r, before)] }

/-! ### The areas carved at creation (R58, R195, R429, R490) -/

/-- Granules of the areas on a die: stage, spill and retention; the hatch ring and the heat snapshot lie on D0. -/
def areaGranules (sh : Shares) (retention die : Nat) : Nat :=
  mibGranules * (natAt sh.stageMiB die + natAt sh.spillMiB die + retention) +
    (if die = 0 then 2 ^ sh.hatchLog / 64 + mibGranules else 0)

/-- Granules of a die's silo units. -/
def dieGranules (sh : Shares) (die : Nat) : Nat := unitGranules * sumBy id (slice' sh.silo die)
where
  slice' (l : List Nat) (die : Nat) : List Nat := (l.drop (6 * die)).take 6

/-- First and last granule (exclusive) of a die's units in the bay's silo space. -/
def dieSpan (sh : Shares) (die : Nat) : Nat × Nat :=
  if die = 0 then (0, dieGranules sh 0) else (dieGranules sh 0, dieGranules sh 0 + dieGranules sh 1)

/-- The run of a die's areas: the highest granules of the die's units. -/
def areaRun (sh : Shares) (retention die : Nat) : Run :=
  let (_, hi) := dieSpan sh die
  ⟨hi - areaGranules sh retention die, areaGranules sh retention die⟩

/-- The retention area of a die as first carved: the lowest granules of its areas (R429). -/
def retentionRun (sh : Shares) (retention die : Nat) : Run :=
  ⟨(areaRun sh retention die).first, mibGranules * retention⟩

/-- The space of a bay as BAY_CREATE makes it. -/
def initialSpace (sh : Shares) (retention : Nat) : Space :=
  { Space.empty with
    siloExt := extentsOf sh.silo
    loftExt := extentsOf sh.loft
    siloUsed := sortBy Run.first [areaRun sh retention 0, areaRun sh retention 1]
    retention := [[retentionRun sh retention 0], [retentionRun sh retention 1]] }

/-- The retention area of a die resized (R429); none is NO_SPACE. -/
def Space.resizeRetention (sp : Space) (die mib : Nat) : Option Space :=
  let old := sp.retention.getD die []
  let freed := { sp with siloUsed := old.foldl (fun l r => cutRun r l) sp.siloUsed }
  let n := mibGranules / blockGranules * mib
  match allocBlocks (dieSilos die) (n + 1) n freed with
  | some (rs, sp) => some { sp with retention := sp.retention.set die rs }
  | none => none

/-- Whether a bay's silo units on each die hold that die's areas (R58). -/
def areasFit (sh : Shares) (retention : Nat) : Bool :=
  (List.range 2).all fun d => decide (areaGranules sh retention d ≤ dieGranules sh d)

/-- The loft ports in which rows may be allocated (R461): UP, or LOST with units that are not lost. -/
def State.upPorts (s : State) : List Nat :=
  (s.memsys.lofts.zipIdx.filter fun l => l.1.state == .up || l.1.state == .lost).map Prod.snd

end Sys2Proof.Machine
end

