-- ==== Sys2Proof/Machine/Regulator.lean ====
section
/-! DEFINITION. Regulated points: their nominal and present capacity, a bay's minimum and cap as scaled, and the order in
which a point serves bays (R62 to R71). -/

namespace Sys2Proof.Machine

/-- The pairs in force from the next window on. -/
def BayCore.regsSet (c : BayCore) : List RegPair := c.regsNext.getD c.regs

/-- Regulator pairs of a 288-byte block (R603). -/
def regsAt (p : List Byte) (off : Nat) : List RegPair := items 36 fun i => ⟨u32At p (off + 8 * i), u32At p (off + 8 * i + 4)⟩

/-- Range checks of a regulator block in payload order (R67): each cap at least its minimum and at most nominal. -/
def regChecks (s : State) (p : List Byte) (off : Nat) : List (Nat × Bool) :=
  items 36 fun i =>
    (off + 8 * i + 4, decide (u32At p (off + 8 * i) ≤ u32At p (off + 8 * i + 4)) && decide (u32At p (off + 8 * i + 4) ≤ s.nominal i))

/-- Whether the minimums of all bays, with `regs` for bay `b`, stay within 15/16 of every point's nominal capacity
(R67). -/
def minsFit (s : State) (b : Nat) (regs : List RegPair) : Bool :=
  (List.range 36).all fun i =>
    let others := sumBy (fun (y : Bay × Nat) =>
      if y.2 = b || y.1.core.life.state = .absent then 0 else ((y.1.core.regsSet).getD i ⟨0, 0⟩).min) s.bays.zipIdx
    decide (16 * (others + (regs.getD i ⟨0, 0⟩).min) ≤ 15 * s.nominal i)

def regsBytes (regs : List RegPair) : List Byte :=
  (items 36 fun i => regs.getD i ⟨0, 0⟩).flatMap fun r => leBytes 4 r.min ++ leBytes 4 r.cap

end Sys2Proof.Machine
end

