-- ==== Sys2Proof/Machine/Hmac.lean ====
section
/-! DEFINITION. HMAC-SHA-256 (RFC 2104, FIPS 180-4), which R500, R504 and R505 name as the proof of a session and the
code of a muster message. Words are natural numbers below 2^32. -/

namespace Sys2Proof.Machine

/-- The 64 round constants of SHA-256, sixteen to a number, each packed big-endian: the first 32 bits of the fractional parts of
the cube roots of the first 64 primes. -/
def shaPacked : List Nat :=
  [0x428a2f9871374491b5c0fbcfe9b5dba53956c25b59f111f1923f82a4ab1c5ed5d807aa9812835b01243185be550c7dc372be5d7480deb1fe9bdc06a7c19bf174,
   0xe49b69c1efbe47860fc19dc6240ca1cc2de92c6f4a7484aa5cb0a9dc76f988da983e5152a831c66db00327c8bf597fc7c6e00bf3d5a7914706ca635114292967,
   0x27b70a852e1b21384d2c6dfc53380d13650a7354766a0abb81c2c92e92722c85a2bfe8a1a81a664bc24b8b70c76c51a3d192e819d6990624f40e3585106aa070,
   0x19a4c1161e376c082748774c34b0bcb5391c0cb34ed8aa4a5b9cca4f682e6ff3748f82ee78a5636f84c878148cc7020890befffaa4506cebbef9a3f7c67178f2]

/-- Word `i` of a number that packs `n` words big-endian. -/
def packedWord (n x i : Nat) : Nat := bits x (32 * (n - 1 - i)) 32

/-- The round constant of round `i`. -/
def shaConst (i : Nat) : Nat := packedWord 16 (natAt shaPacked (i / 16)) (i % 16)

/-- The initial hash value: eight words packed big-endian, from the square roots of the first eight primes. -/
def shaStart : Nat := 0x6a09e667bb67ae853c6ef372a54ff53a510e527f9b05688c1f83d9ab5be0cd19

/-- The XOR of a word rotated right by each of some amounts: the rotation by `k` is the word written twice, cut out `k` bits up. -/
def spin (x : Nat) (ks : List Nat) : Nat := ks.foldl (fun acc k => acc ^^^ bits (x * (2 ^ 32 + 1)) k 32) 0

/-- The word that the message schedule adds after some words, newest first. -/
def shaNext (w : List Nat) : Nat :=
  let small := fun (x a b c : Nat) => spin x [a, b] ^^^ (x / 2 ^ c)
  (natAt w 15 + small (natAt w 14) 7 18 3 + natAt w 6 + small (natAt w 1) 17 19 10) % 2 ^ 32

/-- One round, `i`, over the working words `a` to `h` and the schedule's word for it. -/
def shaRound (v : List Nat) (i word : Nat) : List Nat :=
  let at_ := natAt v
  let choose := at_ 6 ^^^ (at_ 4 &&& (at_ 5 ^^^ at_ 6))
  let most := (at_ 0 &&& at_ 1) ||| (at_ 2 &&& (at_ 0 ||| at_ 1))
  let t := at_ 7 + spin (at_ 4) [6, 11, 25] + choose + shaConst i + word
  ((t + spin (at_ 0) [2, 13, 22] + most) % 2 ^ 32) :: (v.take 7).set 3 ((at_ 3 + t) % 2 ^ 32)

/-- `n` rounds from round `i` on, over the words still to be used and those of the schedule so far, newest first. -/
def shaRounds : Nat → Nat → List Nat → List Nat → List Nat
  | 0, _, _, v => v
  | n + 1, i, w, v =>
    let w := if i < 16 then w else (shaNext w :: w).take 16
    shaRounds n (i + 1) w (shaRound v i (natAt w (if i < 16 then 15 - i else 0)))

/-- The hash value after a block of 64 bytes. -/
def shaBlock (h : List Nat) (block : List Byte) : List Nat :=
  let w := items 16 fun i => beNat (slice (60 - 4 * i) 4 block)
  (h.zip (shaRounds 64 0 w h)).map fun p => (p.1 + p.2) % 2 ^ 32

/-- SHA-256 of a byte string: 32 bytes. The padding is a byte 0x80, zeros, and the length in bits. -/
def sha256 (m : List Byte) : List Byte :=
  let body := m ++ (0x80 :: zeros ((64 - (m.length + 9) % 64) % 64)) ++ beBytes 8 (8 * m.length)
  ((chunks 64 body).foldl shaBlock (items 8 (packedWord 8 shaStart))).flatMap (beBytes 4)

/-- HMAC-SHA-256 of a message under a key of at most 64 bytes (every key of the device has 32). -/
def hmac (key msg : List Byte) : List Byte :=
  let under := fun (x : Byte) (data : List Byte) => sha256 ((fit 64 key).map (x ^^^ ·) ++ data)
  under 0x5c (under 0x36 msg)

end Sys2Proof.Machine
end

