-- ==== Sys2Proof/Machine/Session.lean ====
section
/-! DEFINITION. Sessions and queue pairs: the session group of commands (R500 to R504, R486, R489, R511) and the expiry of
leases, holds and nonces (R500, R502, R503). -/

namespace Sys2Proof.Machine

/-- Sheafs of a session that have not completed. -/
def State.sessionWork (s : State) (h : Nat) : List Sheaf := s.dp.sheafs.filter fun x => x.session == h

/-! ### Queue pairs entering ERROR and being freed -/

/-- The code of a QP_ERROR cause, which the specification does not give (R489, R666): the causes in R489's order. -/
def qpCause (k : Nat) : Nat := Config.unstated 1 k % 256

/-- The placements that fail with a queue pair's unacknowledged WRITEs (R225): of work that is over but for them; a sheaf that has still
something to place counts its failure there. -/
def State.failedWork (s : State) (q : Qp) : List Nat :=
  (distinct (q.unacked.filterMap SentWrite.work)).filter fun n => !s.dp.sheafs.any fun x => x.no == n

/-- A queue pair enters ERROR for the k-th cause of R489 and raises QP_ERROR; one already in ERROR stays as it is. What it was placing
has failed. -/
def State.qpError (s : State) (qpn k : Nat) : State :=
  match s.qp qpn with
  | some q =>
    if q.error.isNone then
      let s := match q.bay with
        | some b => (s.failedWork q).foldl (fun s _ => State.placeFail s b) s
        | none => s
      (s.modQp qpn fun q => { q with error := some (qpCause k), unacked := [] }).raise 0x0705 1 q.bay none
        (leBytes 4 qpn ++ leBytes 4 q.session ++ leBytes 1 (qpCause k))
    else s
  | none => s

def State.freeQp (s : State) (qpn : Nat) : State := { s with net.qps := dropKey Qp.qpn s.net.qps qpn }

/-- The queue pairs of a session that has ended and has no placement left: each whose WRITEs have all been acknowledged enters ERROR
and is freed (R489, R503). -/
def State.retireQps (s : State) (h : Nat) : State :=
  if (s.sessionWork h).isEmpty then
    (s.net.qps.filter fun q => q.session == h && q.unacked.isEmpty).foldl (fun s q => (s.qpError q.qpn 3).freeQp q.qpn) s
  else s

/-! ### The end of a session (R396, R503) -/

/-- A session ends: its held update sheafs are discarded and reported, its mailboxes unbound, and its queue pairs retired
once its last placement has finished. -/
def State.endSession (s : State) (h : Nat) : State :=
  match s.session h with
  | none => s
  | some x =>
    let held := (s.sessionWork h).filter fun (y : Sheaf) => y.phase == SheafPhase.held
    let s : State := { s with dp.sheafs := s.dp.sheafs.filter fun y => !(y.session == h && y.phase == SheafPhase.held) }
    let s := s.modSession h fun x => { x with state := .ended, expiry := 0, uploads := [] }
    let s : State := { s with tth.boxes := s.tth.boxes.map fun m => if m.session = some h then { m with session := none } else m }
    let s := match x.bay with
      | some _ => s.raise 0x0602 0 x.bay none (leBytes 4 h ++ leBytes 4 held.length ++ leBytes 4 x.ledger.next)
      | none => s
    s.retireQps h

/-- The sessions of a bay that have not ended. -/
def State.baySessions (s : State) (bay : Option Nat) : List Session :=
  s.net.sessions.filter fun x => x.bay == bay && x.state != .ended

/-! ### Authentication (R500, R504) -/

/-- The secret a session of a bay proves (R61, R500): the bay's admission secret or the administration secret. -/
def State.secret (s : State) (bay : Option Nat) : List Byte :=
  match bay with
  | some b => (s.bay b).core.keys.admission
  | none => s.flash.adminSecret

/-- The MAC input of R500; R504 appends the handle and the token. -/
def macInput (device client : List Byte) (bay lease hold : Nat) : List Byte :=
  [0x56, 0x43, 0x50, 0x31] ++ device ++ client ++ leBytes 2 bay ++ leBytes 4 lease ++ leBytes 4 hold

/-- Source address of a request that came over the network. -/
def State.sourceOf (s : State) (via : Via) : Option NetAddr :=
  match via with
  | .udp _ _ src _ => some src
  | .send q => (s.qp q).map Qp.clientIp
  | _ => none

/-- A failed proof or nonce (R500): SESSION_AUTH_FAIL, and after 8 from one source within 1 s its HELLOs are ignored for
1 s. -/
def State.authFail (s : State) (via : Via) (bay : Option Nat) : State :=
  let src := s.sourceOf via
  let args := match src with
    | some a => leBytes 1 (if a.v6 then 6 else 4) ++ zeros 3 ++ leBytes 8 (a.bits % 2 ^ 64)
    | none => []
  let s := s.raise 0x0C05 1 bay none args
  match src with
  | none => s
  | some a =>
    let fails := ((a, s.dev.now) :: s.net.authFails).filter fun f => decide (s.dev.now < f.2 + 1000000000)
    let n := (fails.filter fun f => f.1 == a).length
    { s with
      net.authFails := fails
      net.ignored := if 8 ≤ n then (a, s.dev.now + 1000000000) :: s.net.ignored.filter (fun f => f.1 != a) else s.net.ignored }

/-- A device nonce used up by the first check that reaches it (R500): whether it was good, and the state after. -/
def State.useNonce (s : State) (value : Nat) : Bool × State :=
  let good := s.net.nonces.any fun n => n.value == value && decide (s.dev.now < n.expiry)
  (good, { s with net.nonces := s.net.nonces.filter fun n => n.value != value })

/-- The carrier binding of a session opened or reattached (R498, R561): UDP by its source, a mailbox by its number; every
other mailbox of the session is unbound. -/
def State.bindCarrier (s : State) (h : Nat) (via : Via) : State :=
  let udp := match via with
    | .udp _ _ src p => some (src, p)
    | _ => none
  let s := s.modSession h fun x => { x with udp := udp }
  let s : State := { s with tth.boxes := s.tth.boxes.map fun m => if m.session = some h then { m with session := none } else m }
  match via with
  | .mailbox m => s.modBox m fun x => { x with session := some h }
  | _ => s

def leaseNs (ms : Nat) : Nat := 1000000 * ms
def holdNs (s : Nat) : Nat := 1000000000 * s

/-- Device time as carried in six bytes (R228). -/
def timeBytes (t : Nat) : List Byte := leBytes 6 t

/-! ### SESSION_HELLO, SESSION_OPEN, SESSION_REATTACH -/

def specSessionHello : CmdSpec :=
  { op := 0x0101, b := true, d := true, handle0 := true, lens := exactly 16 }

/-- R500: a fresh device nonce, valid for 1 s and one use; at most 64 unused are kept. -/
def doHello (c : Ctx) (s : State) : Result :=
  c.fields s [] <|
    if s.net.ignored.any fun f => some f.1 == s.sourceOf c.req.via && decide (s.dev.now < f.2) then (none, s)
    else
      let (r, s) := s.fresh
      let v := r % 2 ^ 128
      let n : Nonce := ⟨v, c.caller.bay, c.p, s.dev.now + 1000000000⟩
      let kept := s.net.nonces ++ [n]
      okWith (leBytes 16 v) { s with net.nonces := kept.drop (kept.length - 64) }

def execSessionHello (r : Req) (s : State) : Out := runCommand specSessionHello doHello r s

def specSessionOpen : CmdSpec :=
  { op := 0x0102, b := true, d := true, handle0 := true, states := [.opened], lens := exactly 72 }

/-- Whether a request came on a mailbox that is bound (R561). -/
def onBoundBox (s : State) (via : Via) : Bool :=
  match via with
  | .mailbox m => ((s.box m).bind Mailbox.session).isSome
  | _ => false

/-- A new session's record (R390, R501). -/
def newSession (h token : Nat) (bay : Option Nat) (lease hold now : Nat) : Session :=
  { handle := h, bay := bay, token := token, state := .opened, leaseMs := lease, holdS := hold,
    expiry := now + leaseNs lease, udp := none, replay := [], ledger := ⟨0, [], 0⟩, dropped := 0,
    highTemp := List.replicate 12 none, uploads := [] }

/-- R501: nonce and proof, then the limits, then the session with its token. -/
def doOpen (c : Ctx) (s : State) : Result :=
  refuseIf (onBoundBox s c.req.via) .state 0 s <|
  c.fields s [(32, u32At c.p 32 == 0 || (decide (100 ≤ u32At c.p 32) && decide (u32At c.p 32 ≤ 60000))),
    (36, decide (u32At c.p 36 ≤ 3600))] <|
    let bay := c.caller.bay
    let client := slice 0 16 c.p
    let device := slice 16 16 c.p
    let (good, s) := s.useNonce (leNat device)
    let proof := hmac (s.secret bay) (macInput device client (bay.getD 0xFFFF) (u32At c.p 32) (u32At c.p 36))
    if !good || proof != slice 40 32 c.p then fail .denied 0 (s.authFail c.req.via bay)
    else if 1024 ≤ (s.net.sessions.filter fun x => x.state != .ended).length
        || (bay.isSome && 256 ≤ (s.baySessions bay).length) then fail .noSpace 0 s
    else
      let lease := if u32At c.p 32 = 0 then 2000 else u32At c.p 32
      let hold := if u32At c.p 36 = 0 then 60 else u32At c.p 36
      let (r, s) := s.fresh
      let token := r % 2 ^ 64
      let h := s.net.nextHandle
      let s : State := { s with net.nextHandle := if h + 1 = 2 ^ 32 then 1 else h + 1 }
      let s := (s.putSession (newSession h token bay lease hold s.dev.now)).bindCarrier h c.req.via
      okWith (leBytes 4 h ++ zeros 4 ++ leBytes 8 token ++ leBytes 4 lease ++ leBytes 4 hold) s

def execSessionOpen (r : Req) (s : State) : Out := runCommand specSessionOpen doOpen r s

def specSessionReattach : CmdSpec :=
  { op := 0x0105, b := true, d := true, handle0 := true, states := [.opened], lens := exactly 80 }

/-- Whether the hold of a session has run out at an instant: expiry wins on its edge (R504). -/
def holdOver (x : Session) (now : Nat) : Bool :=
  match x.state with
  | .ended => true
  | .orphaned => decide (x.expiry ≤ now)
  | .opened => decide (x.expiry + holdNs x.holdS ≤ now)

/-- R504: the session, then nonce, token and proof, then the new token, lease and binding. -/
def doReattach (c : Ctx) (s : State) : Result :=
  c.fields s [(4, zeroAt c.p 4 4)] <|
    match s.session (u32At c.p 0) with
    | none => fail .stale 0 s
    | some x =>
      if holdOver x s.dev.now then fail .stale 0 s
      else if x.bay ≠ c.caller.bay then fail .denied 0 s
      else
        let client := slice 16 16 c.p
        let device := slice 32 16 c.p
        let (good, s) := s.useNonce (leNat device)
        let proof := hmac (s.secret x.bay)
          (macInput device client (x.bay.getD 0xFFFF) x.leaseMs x.holdS ++ leBytes 4 x.handle ++ leBytes 8 (u64At c.p 8))
        if !good || u64At c.p 8 != x.token || proof != slice 48 32 c.p then fail .denied 0 (s.authFail c.req.via x.bay)
        else
          let (r, s) := s.fresh
          let token := r % 2 ^ 64
          let s := s.modSession x.handle fun y =>
            { y with token := token, state := .opened, expiry := s.dev.now + leaseNs x.leaseMs }
          let s := s.bindCarrier x.handle c.req.via
          okWith (leBytes 8 token ++ leBytes 4 x.leaseMs ++ leBytes 4 x.holdS) s

def execSessionReattach (r : Req) (s : State) : Out := runCommand specSessionReattach doReattach r s

/-! ### SESSION_CLOSE, HEARTBEAT, SESSION_QUERY -/

def specSessionClose : CmdSpec := { op := 0x0103, b := true, d := true, lens := exactly 0 }

/-- R503: the caller's session ends. The answer leaves by the carrier the request came on, which still stands. -/
def doClose (c : Ctx) (s : State) : Result :=
  let s := s.respond c.req true ⟨.ok, 0, []⟩
  (none, s.endSession c.caller.handle)

def execSessionClose (r : Req) (s : State) : Out := runCommand specSessionClose doClose r s

def specHeartbeat : CmdSpec := { op := 0x0104, b := true, d := true, u := true, lens := exactly 0 }

/-- R502: the lease starts again at the acceptance instant; at or after the expiry edge it is STALE_SESSION. -/
def doHeartbeat (c : Ctx) (s : State) : Result :=
  c.fields s [] <|
    match s.session c.caller.handle with
    | none => fail .stale 0 s
    | some x =>
      if x.state ≠ .opened || x.expiry ≤ s.dev.now then fail .stale 0 s
      else
        let e := s.dev.now + leaseNs x.leaseMs
        okWith (timeBytes e ++ zeros 2) (s.modSession x.handle fun x => { x with expiry := e })

def execHeartbeat (r : Req) (s : State) : Out := runCommand specHeartbeat doHeartbeat r s

/-- Own session: no payload; device scope: 8 bytes (R511). -/
def ownOrScoped (c : Caller) (p : List Byte) : Option Nat := exactly (if c.bay.isSome then 0 else 8) c p

def specSessionQuery : CmdSpec :=
  { op := 0x0106, b := true, d := true, bayField := .scoped, lens := ownOrScoped }

def sessCode : SessState → Nat
  | .opened => 0 | .orphaned => 1 | .ended => 2

/-- The body of SESSION_QUERY. -/
def sessionBody (s : State) (x : Session) : List Byte :=
  leBytes 4 x.handle ++ leBytes 1 (sessCode x.state) ++
    leBytes 1 (s.net.qps.filter fun q => q.session == x.handle).length ++ zeros 2 ++
    timeBytes (if x.state = .ended then 0 else x.expiry) ++ zeros 2 ++ leBytes 4 x.leaseMs ++ leBytes 4 x.holdS ++
    leBytes 4 (s.net.stewardQueue.filter fun r => (headerOf r.msg).handle == x.handle).length ++ leBytes 4 x.dropped

/-- R511: the caller's session, or any session of the named bay from device scope; one of another bay or no session is
RANGE. -/
def doSessionQuery (c : Ctx) (s : State) : Result :=
  if c.caller.bay.isSome then
    match s.session c.caller.handle with
    | some x => okWith (sessionBody s x) s
    | none => fail .stale 0 s
  else
    let x := (s.session (u32At c.p 4)).filter fun x => x.bay == some (u16At c.p 0)
    c.fields s [(2, zeroAt c.p 2 2), (4, x.isSome)] <|
      match x with
      | some x => okWith (sessionBody s x) s
      | none => fail .range 4 s

def execSessionQuery (r : Req) (s : State) : Out := runCommand specSessionQuery doSessionQuery r s

/-! ### Queue pairs (R486, R489, R511) -/

/-- Index of the idx-th address of a family in a sub-port's list (R486). -/
def familyIndex (l : List PortAddr) (v6 : Bool) (idx : Nat) : Option Nat :=
  ((l.zipIdx.filter fun a => a.1.addr.v6 == v6)[idx]?).map Prod.snd

/-- Whether an address index names an address, or the link-local address of a sub-port without one (R486, R718). -/
def addrNamed (l : List PortAddr) (v6 : Bool) (idx : Nat) : Bool :=
  (familyIndex l v6 idx).isSome || (v6 && idx == 0 && !l.any fun a => a.addr.v6)

def specQpConnect : CmdSpec :=
  { op := 0x0107, b := true, n := true, states := [.opened], lens := exactly 48 }

/-- A number after `n` that no queue pair bears. -/
def freeQpn (used : List Nat) : Nat → Nat → Nat
  | 0, n => n
  | f + 1, n => if used.contains n then freeQpn used f ((n + 1) % 2 ^ 24) else n

def doQpConnect (c : Ctx) (s : State) : Result :=
  let p := c.p
  let port := u8At p 12
  let sub := u8At p 13
  let v6 := u8At p 8 == 6
  let addrs := ((s.subPort port sub).map SubPort.addrs).getD []
  c.fields s [(0, decide (u32At p 0 < 2 ^ 24)), (4, decide (u32At p 4 < 2 ^ 24)), (8, u8At p 8 == 4 || u8At p 8 == 6),
    (9, decide (1 ≤ u8At p 9) && decide (u8At p 9 ≤ 3)),
    (10, u8At p 10 == 0 || (decide (8 ≤ u8At p 10) && decide (u8At p 10 ≤ 20))), (11, decide (u8At p 11 ≤ 7)),
    (12, decide (port < 8)), (13, decide (sub < modeSubs (s.portMode port))),
    (14, decide (u8At p 14 ≤ 7) && addrNamed addrs v6 (u8At p 14)), (15, zeroAt p 15 1),
    (16, v6 || zeroAt p 20 12), (44, decide (1 ≤ u32At p 44) && decide (u32At p 44 ≤ 4096))] <|
    let mine := s.net.qps.filter fun q => q.session == c.caller.handle
    let bays := s.net.qps.filter fun q => q.bay == some c.bay
    if 64 ≤ mine.length || 4096 ≤ bays.length || 16384 ≤ s.net.qps.length then fail .noSpace 0 s
    else
      let (r, s) := s.fresh
      let psn := r % 2 ^ 24
      let qpn := freeQpn (s.net.qps.map Qp.qpn) (s.net.qps.length + 1) s.net.nextQpn
      let ip : NetAddr := ⟨v6, beNat (slice 16 (if v6 then 16 else 4) p)⟩
      let q : Qp :=
        { qpn := qpn, session := c.caller.handle, bay := some c.bay, port := port, sub := sub,
          addr := familyIndex addrs v6 (u8At p 14), clientQpn := u32At p 0, clientIp := ip,
          mtu := 512 * 2 ^ u8At p 9, timeoutExp := if u8At p 10 = 0 then 10 else u8At p 10,
          retryMax := if u8At p 11 = 0 then 7 else u8At p 11, ring := ⟨u64At p 32, u32At p 40, u32At p 44, 0⟩,
          error := none, sentAt := s.dev.now, retriesLeft := if u8At p 11 = 0 then 7 else u8At p 11, nextPsn := psn,
          unacked := [], rxUnacked := 0, rxLast := s.dev.now, rateKb := modeRateKb (s.portMode port), cutAt := none,
          quietSince := s.dev.now, cnpAt := none, sent := 0, retransmitted := 0, cnps := 0 }
      let s : State := { s with net.qps := s.net.qps ++ [q], net.nextQpn := (qpn + 1) % 2 ^ 24 }
      okWith (leBytes 4 qpn ++ leBytes 4 psn ++ leBytes 4 (s.ringBytes c.bay) ++ leBytes 4 (s.bay c.bay).core.keys.hatch) s

def execQpConnect (r : Req) (s : State) : Out := runCommand specQpConnect doQpConnect r s

def specQpDestroy : CmdSpec := { op := 0x0108, b := true, lens := exactly 8 }

/-- The queue pair of the caller's session that a request names. -/
def ownQp (c : Ctx) (s : State) : Option Qp := (s.qp (u32At c.p 0)).filter fun q => q.session == c.caller.handle

/-- R489: the queue pair enters ERROR and is freed. The answer to a SEND on it can no longer be sent. -/
def doQpDestroy (c : Ctx) (s : State) : Result :=
  c.fields s [(0, (ownQp c s).isSome), (4, zeroAt c.p 4 4)] <|
    okWith [] ((s.qpError (u32At c.p 0) 2).freeQp (u32At c.p 0))

def execQpDestroy (r : Req) (s : State) : Out := runCommand specQpDestroy doQpDestroy r s

def specQpQuery : CmdSpec := { op := 0x0109, b := true, lens := exactly 8 }

def doQpQuery (c : Ctx) (s : State) : Result :=
  c.fields s [(0, (ownQp c s).isSome), (4, zeroAt c.p 4 4)] <|
    match ownQp c s with
    | none => fail .range 0 s
    | some q =>
      okWith (leBytes 1 (flag q.error.isSome) ++ leBytes 1 (q.error.getD 0) ++ leBytes 1 q.port ++ leBytes 1 q.sub ++
        leBytes 4 (q.rateKb / 1000) ++ leBytes 8 q.sent ++ leBytes 8 q.retransmitted ++ leBytes 8 q.cnps) s

def execQpQuery (r : Req) (s : State) : Out := runCommand specQpQuery doQpQuery r s

/-! ### Expiry (R500, R502, R503) -/

/-- A session whose lease has expired becomes ORPHANED; lease expiry waits while a steward reset runs (R503, R612). -/
def execLeaseExpiry (handle : Nat) (s : State) : Out :=
  .next <| match s.session handle with
  | none => s
  | some x =>
    if x.state = .opened && decide (x.expiry ≤ s.dev.now) && s.dev.steward == .running then
      (s.modSession handle fun y => { y with state := .orphaned, expiry := x.expiry + holdNs x.holdS }).raise 0x0707 1 x.bay
        none (leBytes 4 handle)
    else s

/-- An orphan hold that has expired ends the session (R503, R396). -/
def execHoldExpiry (handle : Nat) (s : State) : Out :=
  .next <| match s.session handle with
  | none => s
  | some x =>
    if x.state = .orphaned && decide (x.expiry ≤ s.dev.now) && s.dev.steward == .running then
      (s.raise 0x0708 1 x.bay none (leBytes 4 handle)).endSession handle
    else s

/-- Device nonces older than 1 s are discarded (R500). -/
def execNonceExpiry (s : State) : Out :=
  .next { s with net.nonces := s.net.nonces.filter fun n => decide (s.dev.now < n.expiry) }

end Sys2Proof.Machine
end

