-- ==== Sys2Proof/Machine/Float.lean ====
section
/-! DEFINITION. Exact arithmetic and rounding (chapter 03, R90 to R100). A number is held exactly as a signed fraction;
every rounding is round to nearest, ties to even, of the exact value (R96); no unit flushes subnormals (R97). An FP32
value travels as its 32-bit pattern. -/

namespace Sys2Proof.Machine

/-- An exact value: a NaN, an infinity, or a finite fraction `n / d` with its sign (`d` is never 0). -/
inductive Val where
  | nan
  | inf (neg : Bool)
  | fin (neg : Bool) (n d : Nat)
deriving DecidableEq, Repr

/-- A floating-point format (R91, R92): width of the mantissa field, bias, total width, largest finite magnitude code,
canonical NaN, and the magnitude code of infinity where the format has one. -/
structure FloatFmt where
  mant : Nat
  bias : Nat
  width : Nat
  maxMag : Nat
  nan : Nat
  infMag : Option Nat
deriving DecidableEq, Repr

def fp32Fmt : FloatFmt := ⟨23, 127, 32, 0x7F7FFFFF, 0x7FC00000, some 0x7F800000⟩
def bf16Fmt : FloatFmt := ⟨7, 127, 16, 0x7F7F, 0x7FC0, some 0x7F80⟩
def fp16Fmt : FloatFmt := ⟨10, 15, 16, 0x7BFF, 0x7E00, some 0x7C00⟩
def e4m3Fmt : FloatFmt := ⟨3, 7, 8, 0x7E, 0x7F, none⟩
def e5m2Fmt : FloatFmt := ⟨2, 15, 8, 0x7B, 0x7E, some 0x7C⟩

/-- The value of a pattern (R92): in E4M3 only 0x7F and 0xFF are NaN. -/
def decodeFloat (f : FloatFmt) (code : Nat) : Val :=
  let neg := bit code (f.width - 1)
  let mag := code % 2 ^ (f.width - 1)
  if f.infMag = some mag then .inf neg
  else if f.maxMag < mag then .nan
  else
    let e := mag / 2 ^ f.mant
    let m := mag % 2 ^ f.mant
    let sig := if e = 0 then m else 2 ^ f.mant + m
    let ex := (if e = 0 then 1 else e)  -- the power of two is ex - bias - mant
    if f.bias + f.mant ≤ ex then .fin neg (sig * 2 ^ (ex - f.bias - f.mant)) 1
    else .fin neg sig (2 ^ (f.bias + f.mant - ex))

/-- The integer nearest to `n / d`, ties to even (R96). -/
def rneDiv (n d : Nat) : Nat :=
  let q := n / d
  let r := n % d
  if 2 * r < d then q else if d < 2 * r then q + 1 else q + q % 2

/-- Floor of log2 of the fraction `n / d`, both non-zero. -/
def floorLog2 (n d : Nat) : Int :=
  let e : Int := (Nat.log2 n : Int) - (Nat.log2 d : Int)
  -- 2^(e-1) < n/d < 2^(e+1)
  let ge := if 0 ≤ e then d * 2 ^ e.toNat ≤ n else d ≤ n * 2 ^ (-e).toNat
  if ge then e else e - 1

/-- The magnitude code of `n / d` rounded in a format with the exponent unbounded above (R98's last sentence). -/
def roundMag (f : FloatFmt) (n d : Nat) : Nat :=
  if n = 0 then 0 else
    let qmin : Int := 1 - (f.bias : Int) - f.mant
    let qe : Int := max (floorLog2 n d - f.mant) qmin
    let q := if 0 ≤ qe then rneDiv n (d * 2 ^ qe.toNat) else rneDiv (n * 2 ^ (-qe).toNat) d
    (qe - qmin).toNat * 2 ^ f.mant + q

def withSign (f : FloatFmt) (neg : Bool) (mag : Nat) : Nat := if neg then 2 ^ (f.width - 1) + mag else mag

/-- Conversion of a value into a floating-point format (R98, R99): the code, and whether it is a saturation. -/
def convertFloat (f : FloatFmt) (v : Val) : Nat × Bool :=
  match v with
  | .nan => (f.nan, false)
  | .inf neg => match f.infMag with
    | some i => (withSign f neg i, false)
    | none => (withSign f neg f.maxMag, true)
  | .fin neg n d =>
    let m := roundMag f n d
    if f.maxMag < m then (withSign f neg f.maxMag, true) else (withSign f neg m, false)

/-- The FP32 result of an operation whose exact value is `v` (R100, R103): IEEE rounding, overflow to infinity. -/
def round32 (v : Val) : Nat :=
  match v with
  | .nan => 0x7FC00000
  | .inf neg => withSign fp32Fmt neg 0x7F800000
  | .fin neg n d =>
    let m := roundMag fp32Fmt n d
    withSign fp32Fmt neg (if 0x7F7FFFFF < m then 0x7F800000 else m)

/-- The exact value of an FP32 pattern. -/
def val32 (x : Nat) : Val := decodeFloat fp32Fmt x

def Val.negate : Val → Val
  | .nan => .nan
  | .inf s => .inf (!s)
  | .fin s n d => .fin (!s) n d

/-- The signed numerator of a finite value. -/
def signedNum (neg : Bool) (n : Nat) : Int := if neg then -(n : Int) else n

/-- A fraction with a signed numerator; an exact zero takes the sign `z`. -/
def ofSigned (i : Int) (d : Nat) (z : Bool) : Val :=
  if i = 0 then .fin z 0 1 else .fin (decide (i < 0)) i.natAbs d

def Val.mul (a b : Val) : Val :=
  match a, b with
  | .nan, _ => .nan
  | _, .nan => .nan
  | .inf s, .inf t => .inf (s != t)
  | .inf s, .fin t n _ => if n = 0 then .nan else .inf (s != t)
  | .fin s n _, .inf t => if n = 0 then .nan else .inf (s != t)
  | .fin s n d, .fin t m e => .fin (s != t) (n * m) (d * e)

/-- Exact sum; an exact zero of opposite signs is +0 under RNE. -/
def Val.add (a b : Val) : Val :=
  match a, b with
  | .nan, _ => .nan
  | _, .nan => .nan
  | .inf s, .inf t => if s = t then .inf s else .nan
  | .inf s, .fin .. => .inf s
  | .fin .., .inf t => .inf t
  | .fin s n d, .fin t m e =>
    ofSigned (signedNum s n * e + signedNum t m * d) (d * e) (s && t)

def Val.div (a b : Val) : Val :=
  match a, b with
  | .nan, _ => .nan
  | _, .nan => .nan
  | .inf _, .inf _ => .nan
  | .inf s, .fin t _ _ => .inf (s != t)
  | .fin s _ _, .inf t => .fin (s != t) 0 1
  | .fin s n d, .fin t m e =>
    if m = 0 then (if n = 0 then .nan else .inf (s != t)) else .fin (s != t) (n * e) (d * m)

/-- The integer square root by bits, from bit `i - 1` down. -/
def isqrtAux (n : Nat) : Nat → Nat → Nat
  | 0, r => r
  | i + 1, r => let r' := r + 2 ^ i; if r' * r' ≤ n then isqrtAux n i r' else isqrtAux n i r

def isqrt (n : Nat) : Nat := isqrtAux n (Nat.log2 n / 2 + 1) 0

/-- A value that rounds as the exact square root does in FP32: the root to more bits than FP32 has, with a sticky bit. -/
def Val.sqrt (a : Val) : Val :=
  match a with
  | .nan => .nan
  | .inf s => if s then .nan else .inf false
  | .fin s n d =>
    if n = 0 then .fin s 0 1 else if s then .nan else
      -- the scale 2^k gives at least 40 significant bits of the root
      let k := 40 + Nat.log2 d
      let t := n * 2 ^ (2 * k) / d
      let r := isqrt t
      let exact := r * r * d = n * 2 ^ (2 * k)
      .fin false (2 * r + (if exact then 0 else 1)) (2 ^ (k + 1))

/-- FP32 addition, multiplication, fused multiply-add, division and square root, each rounded once (R100). -/
def fadd (a b : Nat) : Nat := round32 ((val32 a).add (val32 b))
def fsub (a b : Nat) : Nat := round32 ((val32 a).add (val32 b).negate)
def fmul (a b : Nat) : Nat := round32 ((val32 a).mul (val32 b))
def ffma (a b c : Nat) : Nat := round32 (((val32 a).mul (val32 b)).add (val32 c))
def fdiv (a b : Nat) : Nat := round32 ((val32 a).div (val32 b))
def fsqrt (a : Nat) : Nat := round32 (val32 a).sqrt

/-- An integer as an exact value. -/
def valInt (i : Int) : Val := .fin (decide (i < 0)) i.natAbs 1

/-- The FP32 nearest to an integer. -/
def intTo32 (i : Int) : Nat := round32 (valInt i)

def f32One : Nat := 0x3F800000
def f32NegZero : Nat := 0x80000000

def isNan32 (x : Nat) : Bool := decide (0x7F800000 < x % 2 ^ 31)
def isInf32 (x : Nat) : Bool := x % 2 ^ 31 == 0x7F800000
def isFinite32 (x : Nat) : Bool := decide (x % 2 ^ 31 < 0x7F800000)
def isNeg32 (x : Nat) : Bool := bit x 31
def abs32 (x : Nat) : Nat := x % 2 ^ 31

/-- An integer that orders the non-NaN FP32 patterns as their values are ordered; both zeros give 0. -/
def order32 (x : Nat) : Int := if isNeg32 x then -((x % 2 ^ 31 : Nat) : Int) else (x % 2 ^ 31 : Nat)

/-- Numeric comparison of non-NaN FP32 values (R584: −0.0 meets a bound as 0 does). -/
def le32 (a b : Nat) : Bool := !isNan32 a && !isNan32 b && decide (order32 a ≤ order32 b)
def lt32 (a b : Nat) : Bool := !isNan32 a && !isNan32 b && decide (order32 a < order32 b)

/-- A positive, finite, normal FP32 value, which a scale must be (R106). -/
def scaleOk (x : Nat) : Bool := decide (0x00800000 ≤ x) && decide (x ≤ 0x7F7FFFFF)

/-- The FP32 of a BF16 pattern: exact. -/
def bf16To32 (x : Nat) : Nat := if (decodeFloat bf16Fmt x) = .nan then 0x7FC00000 else (x % 2 ^ 16) * 2 ^ 16

/-- The integer nearest to a finite value, ties to even. -/
def rneInt (neg : Bool) (n d : Nat) : Int := signedNum neg (rneDiv n d)

/-- The integer conversion of a value clamped to `[lo, hi]` (R98), and whether it is a saturation; a NaN gives 0, which
is the zero point after the caller adds it. -/
def convertInt (v : Val) (lo hi : Int) : Int × Bool :=
  match v with
  | .nan => (0, true)
  | .inf neg => (if neg then lo else hi, true)
  | .fin neg n d =>
    let q := rneInt neg n d
    if q < lo then (lo, true) else if hi < q then (hi, true) else (q, false)

end Sys2Proof.Machine
end

