-- ==== Sys2Proof/Machine/Quant.lean ====
section
/-! DEFINITION. Element formats, scales, encoding and decoding of rows, discovery and integer rescale (chapter 03). -/

namespace Sys2Proof.Machine

/-- The format of a code (R90); none for a code outside the table. -/
def fmtOfCode : Nat → Option Fmt
  | 0 => some .fp32 | 1 => some .bf16 | 2 => some .fp16 | 3 => some .e4m3 | 4 => some .e5m2
  | 5 => some .int8 | 6 => some .int4 | 7 => some .cb4 | 8 => some .cb8
  | _ => none

def codeOfFmt : Fmt → Nat
  | .fp32 => 0 | .bf16 => 1 | .fp16 => 2 | .e4m3 => 3 | .e5m2 => 4 | .int8 => 5 | .int4 => 6 | .cb4 => 7 | .cb8 => 8

/-- Bits of an element (R90). -/
def fmtBits : Fmt → Nat
  | .fp32 => 32 | .bf16 | .fp16 => 16 | .int4 | .cb4 => 4 | _ => 8

def isIntFmt : Fmt → Bool
  | .int8 | .int4 => true
  | _ => false

def isCodebook : Fmt → Bool
  | .cb4 | .cb8 => true
  | _ => false

/-- Formats to which scales apply (R101). -/
def isScaled : Fmt → Bool
  | .e4m3 | .e5m2 | .int8 | .int4 => true
  | _ => false

/-- The floating-point format of an element format. -/
def floatFmt : Fmt → FloatFmt
  | .bf16 => bf16Fmt | .fp16 => fp16Fmt | .e4m3 => e4m3Fmt | .e5m2 => e5m2Fmt | _ => fp32Fmt

/-- Whether the format is legal for a table tier (any) or for a lookup output (R95: no codebook formats). -/
def legalOutput (f : Fmt) : Bool := !isCodebook f

/-- The least and greatest stored integers (R93, R105). -/
def intLimits (f : Fmt) (symmetric : Bool) : Int × Int :=
  match f with
  | .int4 => (if symmetric then -7 else -8, 7)
  | _ => (if symmetric then -127 else -128, 127)

/-- RNE of the exact value of an E4M3 code times s2 (R108). -/
def codeScale (code s2 : Nat) : Nat := round32 ((decodeFloat e4m3Fmt code).mul (val32 s2))

/-- The effective scale of a column under a storage form (R107, R108); 0x38 is the code of 1.0. -/
def effScale (storage : Nat) (sc : Scales) (c : Nat) : Nat :=
  if storage = 1 then codeScale (sc.codes.getD c 0x38) sc.s2 else sc.direct.getD c f32One

def zpAt (sc : Scales) (c : Nat) : Int := sc.zps.getD c 0

/-- The codebook entry of an index in a column (R111): +0.0 while no codebook is loaded. -/
def codebookEntry (books : List (List Nat)) (c i : Nat) : Nat := natAt (books.getD (c / 32) []) i

/-- Decoding of a stored element to FP32 (R101, R103, R111). -/
def decodeElem (f : Fmt) (storage : Nat) (sc : Scales) (books : List (List Nat)) (c code : Nat) : Nat :=
  match f with
  | .fp32 => if isNan32 code then 0x7FC00000 else code
  | .bf16 => bf16To32 code
  | .fp16 => round32 (decodeFloat fp16Fmt code)
  | .e4m3 | .e5m2 => round32 ((decodeFloat (floatFmt f) code).mul (val32 (effScale storage sc c)))
  | .int8 | .int4 =>
    round32 ((valInt (signedOf (fmtBits f) code - zpAt sc c)).mul (val32 (effScale storage sc c)))
  | .cb4 | .cb8 => bf16To32 (codebookEntry books c code)

/-- Whether |a| < |b| for exact values, finite ones by cross multiplication. -/
def absLt (a b : Val) : Bool :=
  match a, b with
  | .fin _ n d, .fin _ m e => decide (n * e < m * d)
  | .fin .., .inf _ => true
  | _, _ => false

/-- Index of the best entry of a list by a strict order, the first on a tie. -/
def bestIndexAux (better : Nat → Nat → Bool) : List Nat → Nat → Nat → Nat → Nat
  | [], _, best, _ => best
  | x :: l, i, best, bx => if better x bx then bestIndexAux better l (i + 1) i x else bestIndexAux better l (i + 1) best bx

def bestIndex (better : Nat → Nat → Bool) : List Nat → Nat
  | [] => 0
  | x :: l => bestIndexAux better l 1 0 x

/-- Encoding of an FP32 value as a codebook index (R113), and whether it is a saturation. Entries are BF16. -/
def encodeCodebook (entries : List Nat) (x : Nat) : Nat × Bool :=
  let e32 := entries.map bf16To32
  let up := bestIndex (fun a b => lt32 b a) e32
  let down := bestIndex (fun a b => lt32 a b) e32
  if isNan32 x then (bestIndex (fun a b => decide (abs32 a < abs32 b)) e32, true)
  else if isInf32 x then (if isNeg32 x then down else up, true)
  else
    let dist := fun (a : Nat) => (val32 x).add (val32 a).negate
    (bestIndex (fun a b => absLt (dist a) (dist b)) e32,
      lt32 (natAt e32 up) x || lt32 x (natAt e32 down))

/-- Encoding of an FP32 value under a point's format and scales (R98, R104, R105, R113): the code, and whether the
element saturated. -/
def encodeElem (f : Fmt) (storage : Nat) (symmetric : Bool) (sc : Scales) (books : List (List Nat)) (c x : Nat) :
    Nat × Bool :=
  match f with
  | .fp32 => convertFloat fp32Fmt (val32 x)
  | .bf16 | .fp16 => convertFloat (floatFmt f) (val32 x)
  | .e4m3 | .e5m2 => convertFloat (floatFmt f) ((val32 x).div (val32 (effScale storage sc c)))
  | .int8 | .int4 =>
    let zp := zpAt sc c
    let (lo, hi) := intLimits f symmetric
    let (q, sat) := convertInt ((val32 x).div (val32 (effScale storage sc c))) (lo - zp) (hi - zp)
    (unsignedOf (fmtBits f) (q + zp), sat)
  | .cb4 => encodeCodebook (items 16 fun i => codebookEntry books c i) x
  | .cb8 => encodeCodebook (items 256 fun i => codebookEntry books c i) x

/-- Packing of 4-bit codes, two per byte, the lower column in the low half (R94). -/
def pack4 : List Nat → List Byte
  | [] => []
  | [a] => [BitVec.ofNat 8 (a % 16)]
  | a :: b :: l => BitVec.ofNat 8 (a % 16 + 16 * (b % 16)) :: pack4 l

/-- Packing of element codes into bytes (R94). -/
def packElems (f : Fmt) (l : List Nat) : List Byte :=
  if fmtBits f = 4 then pack4 l else l.flatMap (leBytes (fmtBits f / 8))

/-- Code of column `c` in the bytes of a row (R94). -/
def elemAt (f : Fmt) (row : List Byte) (c : Nat) : Nat :=
  match fmtBits f with
  | 4 => bits (u8At row (c / 2)) (4 * (c % 2)) 4
  | 8 => u8At row c
  | 16 => u16At row (2 * c)
  | _ => u32At row (4 * c)

/-- Bytes of `D` elements (R94). -/
def elemBytes (f : Fmt) (d : Nat) : Nat := d * fmtBits f / 8

/-- The encoding of zero that stands in the main slot of a split column (R132). -/
def zeroCode (f : Fmt) (sc : Scales) (c : Nat) : Nat :=
  if isIntFmt f then unsignedOf (fmtBits f) (zpAt sc c) else 0

/-- The FP32 values of a row of `d` columns stored at a tier's point (R103, R111, R132, R133). -/
def decodeRow (p : Point) (d : Nat) (row : List Byte) : List Nat :=
  items d fun c =>
    match p.splits.findIdx? (· == c) with
    | some k => bf16To32 (u16At row (elemBytes p.policy.format d + 2 * k))
    | none => decodeElem p.policy.format p.policy.storage p.scales p.codebooks c (elemAt p.policy.format row c)

/-- Encoding of a row's FP32 values at a tier's point (R132, R133, R144): its bytes before granule padding, and the
columns that saturated. -/
def encodeRow (p : Point) (vals : List Nat) : List Byte × List Nat :=
  let cols := vals.zipIdx.map fun (x, c) =>
    if p.splits.contains c then ((zeroCode p.policy.format p.scales c), false)
    else encodeElem p.policy.format p.policy.storage p.policy.symmetric p.scales p.codebooks c x
  let split := p.splits.map fun c => convertFloat bf16Fmt (val32 (natAt vals c))
  let sat := (cols.zipIdx.filterMap fun ((_, s), c) => if s then some c else none) ++
    ((p.splits.zip split).filterMap fun (c, (_, s)) => if s then some c else none)
  (packElems p.policy.format (cols.map Prod.fst) ++ split.flatMap (fun x => leBytes 2 x.1), sat)

/-! ### Ranges and discovery (R124 to R129) -/

/-- A range widened by a finite value; NaN and infinity are left out (R124). -/
def widen (r : Range) (x : Nat) : Range :=
  if isFinite32 x then
    match r with
    | none => some (x, x)
    | some (lo, hi) => some (if lt32 x lo then x else lo, if lt32 hi x then x else hi)
  else r

/-- The range of two steps together (R126). -/
def joinRange (a b : Range) : Range :=
  match b with
  | none => a
  | some (lo, hi) => widen (widen a lo) hi

/-- Column-wise widening of a section's or an epoch's ranges by a row of FP32 values. -/
def widenAll (rs : List Range) (vals : List Nat) : List Range :=
  vals.zipIdx.map fun (x, c) => widen (rs.getD c none) x

def joinRanges (d : Nat) (steps : List (List Range)) : List Range :=
  items d fun c => steps.foldl (fun r st => joinRange r (st.getD c none)) none

/-- The larger of two FP32 values. -/
def max32 (a b : Nat) : Nat := if lt32 a b then b else a
def min32 (a b : Nat) : Nat := if lt32 b a then b else a

/-- Clamp of a computed scale to [2^-126, largest finite] (R125). -/
def clampScale (s : Nat) : Nat := if s < 0x00800000 then 0x00800000 else if 0x7F7FFFFF < s then 0x7F7FFFFF else s

/-- The scale and zero point that discovery gives one column from its range (R125); the previous ones where the range is
zero or empty. -/
def discover (f : Fmt) (symmetric : Bool) (margin : Nat) (r : Range) (prevS : Nat) (prevZ : Int) : Nat × Int :=
  match r with
  | none => (prevS, prevZ)
  | some (lo, hi) =>
    let amax := max (abs32 lo) (abs32 hi)
    if amax = 0 then (prevS, prevZ)
    else if isIntFmt f && !symmetric then
      let (qmin, qmax) := intLimits f false
      let top := max32 hi 0
      let bot := min32 lo 0
      let span := (val32 top).add (val32 bot).negate
      let s := clampScale (round32 ((span.mul (.fin false (2 ^ margin) 1)).div (valInt (qmax - qmin))))
      let z := match (valInt qmin).add ((val32 bot).div (val32 s)).negate with
        | .fin neg n d => rneInt neg n d
        | _ => 0
      (s, max qmin (min qmax z))
    else
      let qmax : Nat := match f with | .e4m3 => 448 | .e5m2 => 57344 | .int8 => 127 | _ => 7
      (clampScale (round32 (((val32 amax).mul (.fin false (2 ^ margin) 1)).div (valInt qmax))), 0)

/-- The smallest code from `c` up whose effective scale is at least 2^-126. -/
def codeUp (s2 : Nat) : Nat → Nat → Nat
  | 0, c => c
  | f + 1, c => if 0x00800000 ≤ codeScale c s2 then c else codeUp s2 f (c + 1)

/-- The largest code from `c` down whose effective scale is finite. -/
def codeDown (s2 : Nat) : Nat → Nat → Nat
  | 0, c => c
  | f + 1, c => if codeScale c s2 < 0x7F800000 then c else codeDown s2 f (c - 1)

/-- The code of one column's scale under s2 (R129). -/
def twoLevelCode (s2 s : Nat) : Nat :=
  let ratio := (val32 s).div (val32 s2)
  let floor : Val := .fin false 1 512
  let c := (convertFloat e4m3Fmt (if absLt ratio floor then floor else ratio)).1
  let e := codeScale c s2
  if e < 0x00800000 then codeUp s2 126 1
  else if 0x7F7FFFFF < e then codeDown s2 126 0x7E
  else c

/-- s2 and codes from the per-column scales of a two-level point (R129). -/
def twoLevel (scales : List Nat) : List Nat × Nat :=
  let m := scales.foldl max 0
  let e : Int := match (val32 m).div (valInt 448) with
    | .fin _ n d =>
      let fl := floorLog2 n d
      let exact := if 0 ≤ fl then n = d * 2 ^ fl.toNat else n * 2 ^ (-fl).toNat = d
      if exact then fl else fl + 1
    | _ => 0
  let e := max (-126) (min 127 e)
  let s2 := (e + 127).toNat * 2 ^ 23
  (scales.map (twoLevelCode s2), s2)

/-- The settings that discovery computes for a point of `d` columns from its ranges, over the previous settings
(R125, R129). A split column takes part in the largest scale of a two-level form (DESIGN CHOICE, log 163). -/
def discoverScales (p : Policy) (d : Nat) (rs : List Range) (prev : Scales) : Scales :=
  let cols := items d fun c =>
    discover p.format p.symmetric p.margin (rs.getD c none) (effScale p.storage prev c) (zpAt prev c)
  let zps := if isIntFmt p.format then cols.map Prod.snd else []
  if p.storage = 1 then
    let (codes, s2) := twoLevel (cols.map Prod.fst)
    ⟨[], codes, s2, zps⟩
  else ⟨cols.map Prod.fst, [], f32One, zps⟩

/-- The scales in force of an output under delayed discovery; those of discovery off before one step has completed
(R126). -/
def Point.delayed (p : Point) : Scales := if p.policy.discovery = 1 then p.found.getD p.scales else p.scales

/-- The scales of an output under delayed discovery computed anew from the H most recent completed steps; a column whose range
is zero keeps those it had (R125, R126). -/
def Point.discovered (p : Point) (d : Nat) : Point :=
  if p.policy.discovery = 1 && !p.steps.isEmpty then
    { p with found := some (discoverScales p.policy d (joinRanges d (p.steps.take p.policy.history)) p.delayed) }
  else { p with found := none }

/-- The output's point after a step has completed (R124, R126). -/
def Point.step (p : Point) (d : Nat) (rs : List Range) : Point := ({ p with steps := (rs :: p.steps).take 16 }).discovered d

/-! ### Integer rescale (R118 to R121) -/

/-- M and S for r = s_acc / s_out (R121): the largest S from `k` down for which M fits. -/
def deriveRescaleAux (n d : Nat) : Nat → Int × Nat
  | 0 => let m := rneDiv n d; if m ≤ 2 ^ 31 - 1 then ((m : Int), 0) else (((2 ^ 31 - 1 : Nat) : Int), 0)
  | k + 1 => let m := rneDiv (n * 2 ^ (k + 1)) d; if m ≤ 2 ^ 31 - 1 then ((m : Int), k + 1) else deriveRescaleAux n d k

def deriveRescale (sAcc sOut : Nat) : Int × Nat :=
  match (val32 sAcc).div (val32 sOut) with
  | .fin _ n d => deriveRescaleAux n d 63
  | _ => (((2 ^ 31 - 1 : Nat) : Int), 0)

/-- Clamp of an integer, and whether it changed. -/
def clampInt (x lo hi : Int) : Int × Bool := if x < lo then (lo, true) else if hi < x then (hi, true) else (x, false)

/-- An INT48 result as an integer output, for a bag divisor `n` (1 unless a mean bag): R118, R119, R120. -/
def rescale (f : Fmt) (symmetric : Bool) (r : Rescale) (acc : Int) (n : Nat) : Int × Bool :=
  let p := acc * r.m
  let q : Int :=
    if n ≤ 1 then
      let rnd : Int := if r.s = 0 then 0 else 2 ^ (r.s - 1) - 1 + (p / 2 ^ r.s) % 2
      (p + rnd) / 2 ^ r.s
    else rneInt (decide (p < 0)) p.natAbs (n * 2 ^ r.s)
  let (lo, hi) := intLimits f symmetric
  let (c, sat) := clampInt q (lo - r.zp) (hi - r.zp)
  (c + r.zp, sat)

/-- The INT48 accumulator: held at the limit of the side it would leave (R115). -/
def clamp48 (x : Int) : Int × Bool := clampInt x (-(2 ^ 47)) (2 ^ 47 - 1)

/-! ### Optimiser moments (R142, R143) -/

/-- One block of a moment row requantised from FP32 (R143): codes, the block scale, and the non-finite elements. -/
def encodeMomentBlock (f : Fmt) (vals : List Nat) : List Nat × Nat × Nat :=
  let amax := vals.foldl (fun m x => if isFinite32 x then max m (abs32 x) else m) 0
  let qmax : Int := if f = .int8 then 127 else 448
  let s := round32 ((val32 amax).div (valInt qmax))
  let sb := if s = 0 then f32One else s
  let sc : Scales := ⟨[sb], [], f32One, []⟩
  let codes := vals.map fun x =>
    if s = 0 && isFinite32 x then 0 else (encodeElem f 0 true sc [] 0 x).1
  (codes, sb, (vals.filter fun x => !isFinite32 x).length)

/-- The successive blocks of 32 elements. -/
def blocks32Aux : Nat → List Nat → List (List Nat)
  | 0, _ => []
  | k + 1, l => if l.isEmpty then [] else l.take 32 :: blocks32Aux k (l.drop 32)

def blocks32 (l : List Nat) : List (List Nat) := blocks32Aux l.length l

/-- A moment row's bytes from FP32 (R142): D codes, then the block scales; and how many elements were not finite. -/
def encodeMoment (f : Fmt) (vals : List Nat) : List Byte × Nat :=
  let bs := (blocks32 vals).map (encodeMomentBlock f)
  (bs.flatMap (fun b => packElems f b.1) ++ bs.flatMap (fun b => leBytes 4 b.2.1), sumBy (fun b => b.2.2) bs)

/-- The FP32 values of a moment row of `d` elements (R103, R142). -/
def decodeMoment (f : Fmt) (d : Nat) (row : List Byte) : List Nat :=
  items d fun c => decodeElem f 0 ⟨[u32At row (d + 4 * (c / 32))], [], f32One, []⟩ [] 0 (u8At row c)

/-- Bytes of a moment row (R142). -/
def momentBytes (d : Nat) : Nat := d + 4 * ((d + 31) / 32)

end Sys2Proof.Machine
end

