-- ==== Sys2Proof/Machine/Directory.lean ====
section
/-! DEFINITION. Directory entries, the resolution of an index, and the bytes of a row (R157 to R174, R355, R535). -/

namespace Sys2Proof.Machine

/-! ### Entries (R164) -/

/-- A directory entry. -/
structure Entry where
  tier : Nat
  /-- 0 granary, 1 silo, 2 loft, 3 remote -/
  home : Nat
  valid : Bool
  pinned : Bool
  migrating : Bool
  isAlias : Bool
  epoch : Nat
  addr : Nat
deriving DecidableEq, Repr

def entryOf (n : Nat) : Entry :=
  ⟨bits n 62 2, bits n 60 2, bit n 59, bit n 58, bit n 57, bit n 56, bits n 48 8, bits n 0 48⟩

/-- The 64 bits of an entry; with valid clear all zeros but update_epoch (R168). -/
def Entry.word (e : Entry) : Nat :=
  if e.valid then
    e.tier % 4 * 2 ^ 62 + e.home % 4 * 2 ^ 60 + 2 ^ 59 + flag e.pinned * 2 ^ 58 + flag e.migrating * 2 ^ 57 +
      flag e.isAlias * 2 ^ 56 + e.epoch % 256 * 2 ^ 48 + e.addr % 2 ^ 48
  else e.epoch % 256 * 2 ^ 48

/-- The segment that holds a row's entry (R163). -/
def Tab.segmentOf (t : Tab) (row : Nat) : Option Segment :=
  t.segments.find? fun g => decide (g.start ≤ row) && decide (row < g.start + g.rows)

/-- Byte address in the bay's silo space of a row's entry. -/
def Segment.entryByte (g : Segment) (row : Nat) : Nat := runByte g.dir (8 * (row - g.start))

/-- A row's entry as the directory holds it; none where no segment of the package covers the row. -/
def State.entry (s : State) (b : Nat) (t : Tab) (row : Nat) : Option Entry :=
  (t.segmentOf row).map fun g => entryOf (leNat (s.read .silo b 0 (g.entryByte row) 8))

/-- Whether a silo granule of a bay lies on a silo that is lost (R453). -/
def State.siloLost (s : State) (b addr : Nat) : Bool := (((s.bay b).space.siloOf addr).bind fun x => s.memsys.silos[x]?).any fun x => x.lost

/-- Whether the granule of a row's entry cannot be read correctly (R445, R453). -/
def State.entryBad (s : State) (b : Nat) (t : Tab) (row : Nat) : Bool :=
  match t.segmentOf row with
  | some g => s.poisoned .silo b 0 (g.entryByte row / 64) 1 || s.siloLost b (g.entryByte row / 64)
  | none => false

/-- A row's entry written as one 8-byte unit (R170). -/
def State.setEntry (s : State) (b : Nat) (t : Tab) (row : Nat) (e : Entry) : State :=
  match t.segmentOf row with
  | some g => s.write .silo b 0 (g.entryByte row) (leBytes 8 e.word)
  | none => s

/-! ### Rows (R157) -/

/-- Bytes B and granules G of a row of a tier. -/
def Tab.rowBytes (t : Tab) (tier : Nat) : Nat :=
  elemBytes (t.point tier).policy.format t.desc.dim + 2 * (t.point tier).splits.length
def granulesOf (bytes : Nat) : Nat := (bytes + 63) / 64
def Tab.rowGranules (t : Tab) (tier : Nat) : Nat := granulesOf (t.rowBytes tier)

/-- The largest G of the table's tiers. -/
def Tab.maxGranules (t : Tab) : Nat := (List.range t.desc.tiers).foldl (fun m k => max m (t.rowGranules k)) 0

/-- The live half of a bay's granary on a die as an area (R354). -/
def halfArea (h : Nat) : Area := if h = 0 then .half0 else .half1

def State.hotDie (s : State) (b die : Nat) : HotDie := (s.bay b).granary.dies.getD die HotDie.initial

/-- Bytes of a row at its home; a granary home is read from the live half of a die (R165). -/
def State.rowAt (s : State) (b die : Nat) (home addr n : Nat) : List Byte :=
  match home with
  | 0 => s.read (halfArea (s.hotDie b die).live) b die (64 * addr) n
  | 1 => s.read .silo b 0 (64 * addr) n
  | _ => s.read .loft b 0 (64 * addr) n

/-- Whether a row's granules at its home cannot be read correctly (R328): poisoned or marked (R190, R412), or on a silo that is lost, or
in a loft unit that is lost or whose port is not UP. -/
def State.rowBad (s : State) (b die : Nat) (home addr g : Nat) : Bool :=
  let sp := (s.bay b).space
  match home with
  | 0 => s.poisoned (halfArea (s.hotDie b die).live) b die addr g
  | 1 => s.poisoned .silo b 0 addr g || s.marked .silo b 0 addr g || s.siloLost b addr
  | _ => s.poisoned .loft b 0 addr g || s.marked .loft b 0 addr g || sp.lostLoft.contains (addr / unitGranules) ||
      ((sp.portOf addr).bind fun x => s.memsys.lofts[x]?).any fun x => x.state != .up && x.state != .lost

/-- A row's bytes written at a home, padded to whole granules (R157). -/
def State.setRow (s : State) (b : Nat) (home addr : Nat) (data : List Byte) : State :=
  let area : Area := if home = 2 then .loft else .silo
  (s.write area b 0 (64 * addr) (padTo 64 data)).heal area b 0 addr (granulesOf data.length)

/-- A row marked as chaffed at its home in silo or loft space. -/
def State.chaffRow (s : State) (b home addr g : Nat) : State :=
  match home with
  | 0 => s
  | 1 => s.markChaff .silo b 0 addr g
  | _ => s.markChaff .loft b 0 addr g

/-! ### Owners (R535) -/

/-- The number that stands for this package in a map made before it has a node number (R152). -/
def selfNode : Nat := 0xFFFF

/-- Whether a node number is this package's. -/
def State.isSelf (s : State) (n : Nat) : Bool := n == selfNode || s.net.muster.number == some n

/-- The candidates of a row: covering entries by descending priority, then entry number (R535). -/
def candidates (m : ShardMap) (row : Nat) : List MapEntry :=
  sortBy (fun e => 7 - e.priority) (m.entries.filter fun e => decide (e.first ≤ row) && decide (row ≤ e.last))

/-- Whether the package owns a row under a map (R535). -/
def State.owns (s : State) (m : ShardMap) (row : Nat) : Bool :=
  m.entries.any fun e => decide (e.first ≤ row) && decide (row ≤ e.last) && s.isSelf e.owner

/-! ### Resolution (R171) -/

/-- What an index resolves to. -/
inductive Resolved where
  | default
  /-- default_alias -/
  | aliasTo
  /-- Owned by another node. -/
  | forward (node : Nat)
  /-- A candidate exists but none is available (R535). -/
  | noOwner
  /-- A hot-set copy on the resolving die: its half and its offset (R355). -/
  | copy (half off tier : Nat)
  | place (home tier addr : Nat)
  /-- The entry's granule cannot be read (R445). -/
  | unreadable
deriving DecidableEq, Repr

/-- The index read at the sheaf's width: none where it is negative in a signed table, and so invalid (R171, R172). -/
def indexOf (signed : Bool) (width raw : Nat) : Option Nat :=
  if signed && bit raw (width - 1) then none else some (raw % 2 ^ width)

/-- The hot-set copy of a row in an index. -/
def copyIn (ix : List HotCopy) (table row : Nat) : Option HotCopy := ix.find? fun c => c.table == table && c.row == row

/-- Resolution on a die at a generation (R171, R355, R360): the index of the live half of generation `gen`. -/
def State.indexFor (s : State) (b die gen : Nat) : Nat × List HotCopy :=
  let d := s.hotDie b die
  if d.gen = gen then (d.live, d.index.getD d.live [])
  else (1 - d.live, d.index.getD (1 - d.live) [])

/-- The nodes that have refused a bay in the last second (R535). -/
def State.refused (s : State) (b : Nat) : List Nat :=
  (s.fab.refusals.filter fun r => r.2.1 == b && decide (s.dev.now < r.2.2 + 1000000000)).map Prod.fst

/-- Whether an owner is available (R535): this package, or a roster member with no refusal in the last second; `bad`
lists the nodes that refused. -/
def State.available (s : State) (bad : List Nat) (n : Nat) : Bool :=
  s.isSelf n || (!bad.contains n && s.net.muster.roster.any fun m => m.number == n)

/-- Whether the walker of a die has a row's entry in its cache (R346). -/
def State.cached (s : State) (b die table row : Nat) : Bool := s.dp.walkCache.contains (die, b, table, row)

/-- The cached entries of a table that is no more. -/
def State.forgetEntries (s : State) (b table : Nat) : State :=
  { s with dp.walkCache := s.dp.walkCache.filter fun k => !(k.2.1 == b && k.2.2.1 == table) }

def State.resolve (s : State) (bad : List Nat) (b die gen : Nat) (t : Tab) (m : ShardMap) (idx : Option Nat) : Resolved :=
  match idx with
  | none => .default
  | some i =>
    if t.desc.rows ≤ i then .default
    else match candidates m i with
      | [] => .default
      | cs => match cs.find? fun e => s.available bad e.owner with
        | none => .noOwner
        | some e =>
          if !s.isSelf e.owner then .forward e.owner
          else if s.entryBad b t i && !s.cached b die t.id i then .unreadable
          else match s.entry b t i with
            | none => .default
            | some y =>
              if !y.valid then .default
              else if y.isAlias then .aliasTo
              else if y.home = 3 then .forward (bits y.addr 32 16)
              else if y.home ≠ 0 then
                let (half, ix) := s.indexFor b die gen
                match copyIn ix t.id i with
                | some c => .copy half c.off y.tier
                | none => .place y.home y.tier y.addr
              else .place 0 y.tier y.addr

/-! ### The default row (R174) -/

/-- The encoding of zero under a tier (R132, R174). -/
def Tab.zeroRow (t : Tab) (tier : Nat) : List Byte :=
  let p := t.point tier
  packElems p.policy.format (items t.desc.dim fun c => zeroCode p.policy.format p.scales c) ++ zeros (2 * p.splits.length)

/-- The bytes of the default row in T0's format (R174, R199). -/
def State.defaultBytes (s : State) (b : Nat) (t : Tab) : List Byte :=
  match t.desc.defaultConfigured, t.defRow with
  | true, some r => s.read .silo b 0 (64 * r.first) (t.rowBytes 0)
  | _, _ => t.zeroRow 0

/-- The FP32 values of the default row. -/
def State.defaultValues (s : State) (b : Nat) (t : Tab) : List Nat :=
  if t.desc.defaultConfigured then decodeRow (t.point 0) t.desc.dim (s.defaultBytes b t)
  else List.replicate t.desc.dim 0

/-! ### Copies of a row (R47, R366, R367, R380) -/

/-- A hot-set copy freed from a half waits for the sheafs accepted so far (R367). -/
def HotDie.dropCopies (d : HotDie) (keep : HotCopy → Bool) (before : Nat) : HotDie :=
  { d with
    index := d.index.map fun ix => ix.filter keep
    freed := d.freed ++ d.index.zipIdx.flatMap fun ix =>
      (ix.1.filter fun c => !keep c).map fun c => (ix.2, ⟨c.off, c.granules⟩, before) }

/-- A row's copies dropped from every index on both dies (R367). -/
def State.dropCopies (s : State) (b table row : Nat) : State :=
  s.modBay b fun y => { y with granary := { y.granary with
    dies := y.granary.dies.map fun d => d.dropCopies (fun c => !(c.table == table && c.row == row)) s.dev.accepted } }

/-- Staged copies of a row discarded as invalidated (R380): counter 4 of the die. -/
def State.dropStaged (s : State) (b table row : Nat) : State :=
  s.modBay b fun y => { y with granary := { y.granary with
    stage := y.granary.stage.map fun d =>
      let gone := d.copies.filter fun c => c.table == table && c.row == row
      { copies := d.copies.filter fun c => !(c.table == table && c.row == row)
        counters := addAt d.counters 4 gone.length } } }

/-- The instant at which a loft read or remote request issued now times out (R330). -/
def State.timeoutAt (s : State) (b : Nat) : Nat := s.dev.now + 1000 * (s.bay b).work.e2eUs

/-- A read put before the engine in a queue (R312): it waits, or with `started` it is issued at once, as a read of host memory is, which
runs under the end-to-end timeout from then on (R330). -/
def State.putRead (s : State) (b die : Nat) (ctx : Option Nat) (queue : Nat) (started : Bool) (purpose : Purpose)
    (space addr granules half : Nat) (outside : Bool) : State :=
  { s with
    dp.nextRead := s.dp.nextRead + 1
    dp.reads := s.dp.reads ++
      [{ id := s.dp.nextRead, bay := b, die := die, ctx := ctx, queue := queue, started := started, purpose := purpose, space := space,
         addr := addr, granules := granules, issued := s.dev.now,
         timeout := if started && space == 8 then some (s.timeoutAt b) else none, dropped := false, outside := outside,
         half := half }] }

/-- A write issued: it lands at its WRITE_COMPLETION. Its data takes `took` granules of crib until then (R319). -/
def State.issueWrite (s : State) (b die : Nat) (for_ : WriteFor) (space addr : Nat) (data : List (Option (List Byte)))
    (half : Nat) (took : Nat := 0) : State :=
  { s with
    dp.nextRead := s.dp.nextRead + 1
    dp.writes := s.dp.writes ++ [⟨s.dp.nextRead, b, die, for_, space, addr, data, half, took, none⟩] }

/-! ### Saturation counters (R135, R137) -/

/-- One saturation counted per listed column of a point, with QUANT_SAT_THRESHOLD at each crossing of the threshold in force (DESIGN
CHOICE, log 162). -/
def State.countSat (s : State) (b table target : Nat) (cols : List Nat) : State :=
  cols.foldl (fun s c =>
    match s.table b table with
    | none => s
    | some t =>
      let p := t.point target
      let n := natAt p.sat c
      let n' := satAdd 32 n 1
      let full := p.sat ++ List.replicate (t.desc.dim - p.sat.length) 0
      let s := s.modTable b table fun t => t.setPoint target { t.point target with sat := full.set c n' }
      let th := p.policy.satThreshold
      if th ≠ 0 && n < th && th ≤ n' then
        s.raise 0x0B01 1 (some b) none
          (leBytes 2 table ++ leBytes 1 target ++ zeros 1 ++ leBytes 2 c ++ zeros 2 ++ leBytes 4 n')
      else s) s

/-! ### The heat sketch (R191 to R193) -/

/-- The multipliers C_0 to C_3 of R192. -/
def hashFactors : List Nat := [0x9E3779B97F4A7C15, 0xA24BAED4963EE407, 0x9FB21C651E98DF25, 0xD1B54A32D192ED03]

/-- The counter of a sketch row that a row of a table uses (R192). -/
def heatIndex (i table row : Nat) : Nat :=
  let k := 2 ^ 40 * table + row
  65536 * i + (k * natAt hashFactors i) % 2 ^ 64 / 2 ^ 48

def heatGet (l : List (Nat × Nat)) (k : Nat) : Nat := ((findKey Prod.fst l k).map Prod.snd).getD 0

/-- A counter of the sketch, which stops at all ones, increased. -/
def heatAdd (l : List (Nat × Nat)) (k : Nat) : List (Nat × Nat) := putKey Prod.fst (k, satAdd 32 (heatGet l k) 1) l

/-- One increment of the sketch for a consumed row (R193). -/
def State.heatRow (s : State) (b table row : Nat) : State :=
  s.modBay b fun y => { y with heat := { y.heat with
    live := (List.range 4).foldl (fun l i => heatAdd l (heatIndex i table row)) y.heat.live } }

/-! ### Charges (R71, R436, R437, R439) -/

/-- Pages of 16 granules touched by `g` granules from `a` (R432). -/
def pagesOf (a g : Nat) : Nat := if g = 0 then 0 else (a + g - 1) / 16 - a / 16 + 1

/-- The die on which the data of an access lies, where it lies on one (R436, R457). -/
def State.dataDie (s : State) (b home addr : Nat) : Option Nat :=
  match home with
  | 1 => ((s.bay b).space.siloOf addr).map siloDie
  | 2 => ((s.bay b).space.portOf addr).map loftDie
  | _ => none

/-- The ridge point that an access issued on a die passes, if it does, in the direction in which the data travels (R437, R439). -/
def State.ridgePoint (s : State) (b die home addr : Nat) (isWrite : Bool) : Option Nat :=
  ((s.dataDie b home addr).filter (· != die)).map fun d => if isWrite then 16 + die else 16 + d

/-- Whether an access of a die to a place can be made no more because the ridge is lost (R517). -/
def State.cutOff (s : State) (b die home addr : Nat) : Bool := s.ridgeLost && (s.dataDie b home addr).any (· != die)

/-- Whether an access issues nothing to the memory it is for: that is a silo that is lost (R453), a loft port that is not UP or a unit
that is lost (R461, R464), or lies beyond a lost ridge (R517). A run is judged by its first granule (DESIGN CHOICE, log 188). -/
def State.deadAt (s : State) (b die home addr : Nat) : Bool :=
  s.cutOff b die home addr || match home with
    | 1 => s.siloLost b addr
    | 2 => (s.bay b).space.lostLoft.contains (addr / unitGranules) ||
        (((s.bay b).space.portOf addr).bind fun x => s.memsys.lofts[x]?).any fun x => x.state != .up && x.state != .lost
    | _ => false

/-- Command slots of a silo that a request of `g` granules takes: every sixteenth is reserved for wicket reads (R317, R440). A count of
15 says that the reserved one is next; a request takes its slots in one piece (DESIGN CHOICE, log 188). -/
def State.takeSlots (s : State) (k g : Nat) : State :=
  { s with dp.slots := s.dp.slots.modify k fun n => min 15 (if n = 15 then g - 1 else n + g) }

/-- One read or write of `g` granules at a home, issued on a die, charged to the bay: the silo with its activations, or
the loft, and the ridge, whose flits it takes. -/
def State.chargeAccess (s : State) (b die home addr g : Nat) (isWrite : Bool) : State :=
  if s.deadAt b die home addr then s
  else
    let sp := (s.bay b).space
    let s' := match home with
      | 1 => match sp.siloOf addr with
        | some k =>
          let s := (s.charge b k (64 * (g + 3 * pagesOf addr g))).takeSlots k g
          (s.count (0x100 + k) (flag isWrite) g).count (0x100 + k) 2 (pagesOf addr g)
        | none => s
      | 2 => match sp.portOf addr with
        | some k => (s.charge b (12 + k) (64 * g)).count (0x200 + k) (flag isWrite) g
        | none => s
      | _ => s
    match s.ridgePoint b die home addr isWrite with
    | some p => (s'.charge b p (64 * g)).linkSent 0 (ridgeClass isWrite) (flitsOf (64 * g))
    | none => s'

/-! ### Rows named by the directory -/

/-- The rows of a segment whose entries are valid, found in memory: byte 7 of an entry holds valid in bit 3 (R164). -/
def segmentRows (m : List Host.Cell) (b start : Nat) : Nat → List Run → List Nat
  | _, [] => []
  | skip, r :: rs =>
    let lo := memKey .silo b 0 (64 * r.first)
    (m.filterMap fun (k, v) =>
      if lo ≤ k && k < lo + 64 * r.len && (k - lo) % 8 == 7 && v.getLsbD 3 then some (start + (skip + (k - lo)) / 8) else none) ++
    segmentRows m b start (skip + 64 * r.len) rs

/-- The rows of a table with valid entries on this package. -/
def State.validRows (s : State) (b : Nat) (t : Tab) : List Nat :=
  t.segments.flatMap fun g => (segmentRows s.mem b g.start 0 g.dir).filter fun r => decide (r < g.start + g.rows)

/-- The valid rows with their entries. -/
def State.entries (s : State) (b : Nat) (t : Tab) : List (Nat × Entry) :=
  (s.validRows b t).filterMap fun r => (s.entry b t r).map fun e => (r, e)

/-- The entries that name a tier (R146): an alias names none (DESIGN CHOICE, log 160). An entry whose granule cannot be read is found
from the bytes that are there (DESIGN CHOICE, log 164). -/
def State.tierRows (s : State) (b : Nat) (t : Tab) (tier : Nat) : List (Nat × Entry) :=
  (s.entries b t).filter fun e => e.2.tier == tier && !e.2.isAlias

/-- Granules an entry names are released once earlier work completes (R180). -/
def State.freeEntry (s : State) (b : Nat) (t : Tab) (e : Entry) : State :=
  if !e.valid || e.isAlias then s else
    let r : Run := ⟨e.addr, t.rowGranules e.tier⟩
    s.modBay b fun y => match e.home with
      | 1 => { y with space := y.space.freeSilo r s.dev.accepted }
      | 2 => { y with space := y.space.freeLoft r s.dev.accepted }
      | 0 => { y with granary := { y.granary with dies := y.granary.dies.map fun d =>
          { d with homes := cutRun r d.homes, freed := d.freed ++ [(0, r, s.dev.accepted), (1, r, s.dev.accepted)] } } }
      | _ => y

/-- A row allocated in silo (1) or loft (2) space: its address and the state after; none is NO_SPACE (R435, R457). -/
def State.allocRow (s : State) (b home g : Nat) : Option (Nat × State) :=
  let sp := (s.bay b).space
  match (if home = 2 then sp.allocLoft s.upPorts g else sp.allocSilo g) with
  | some (a, sp) => some (a, s.modBay b fun y => { y with space := sp })
  | none => none

/-- An update sheaf that has been dispatched for expansion and is not tallied (R391, R403). -/
def Sheaf.untallied (x : Sheaf) : Bool :=
  bit (u8At x.head 3) 0 && (x.phase == .queued || x.phase == .running || x.phase == .working)

/-- What an entry says of where an update of its row goes: whether it is valid, an alias, or names another node. -/
def Entry.aim (e : Entry) : Bool × Bool × Nat := (e.valid, e.isAlias, if e.home = 3 then bits e.addr 32 16 + 1 else 0)

/-- An entry about to change is kept for the update sheafs whose contributions are aimed by the directory as it was (R403). -/
def State.keepEntry (s : State) (b : Nat) (t : Tab) (row : Nat) (e : Entry) : State :=
  match s.entry b t row with
  | none => s
  | some old =>
    if old.aim = e.aim then s
    else
      let keep := fun (x : Sheaf) =>
        (if x.bay = b && x.untallied && !x.was.any (fun w => w.1 == t.id && w.2.1 == row) then { x with was := (t.id, row, old.word) :: x.was }
         else x)
      { s with dp.sheafs := s.dp.sheafs.map keep }

/-- A command rewrites a row's entry (R170, R445): in a granule that could not be read, the fault clears with the last
rewrite of the entries of its rows, and the slots beyond the segment are written with zeros. -/
def State.commitEntry (s : State) (b : Nat) (t : Tab) (row : Nat) (e : Entry) : State :=
  match t.segmentOf row with
  | none => s
  | some g =>
    let byte := g.entryByte row
    let s := (s.keepEntry b t row e).setEntry b t row e
    if s.poisoned .silo b 0 (byte / 64) 1 then
      let sp := (s.bay b).space
      let fixed := (byte / 64, byte) :: sp.dirFixed.filter (· != (byte / 64, byte))
      let first := (row - g.start) / 8 * 8
      let rows := (List.range 8).filter fun i => decide (first + i < g.rows)
      let whole := rows.all fun i => fixed.contains (byte / 64, byte / 64 * 64 + 8 * i)
      let s := s.modBay b fun y => { y with space := { y.space with
        dirFixed := if whole then fixed.filter (fun x => x.1 != byte / 64) else fixed } }
      if whole then s.heal .silo b 0 (byte / 64) 1 else s
    else s

/-- Whether a granule of a span lies in a retired page (R444). -/
def Space.inRetired (sp : Space) (a g : Nat) : Bool := (List.range g).any fun i => sp.retired.contains ((a + i) / 64)

end Sys2Proof.Machine
end

