-- ==== Sys2Proof/Machine/Spanned.lean ====
section
/-! DEFINITION. Commands carried out on every package that a table's map names (R538, R539), and the report of an
uncorrectable granule of a silo (R443, R445). -/

namespace Sys2Proof.Machine

/-- The packages other than this one among owners. -/
def State.otherNodes (s : State) (owners : List Nat) : List Nat := (distinct owners).filter fun n => !s.isSelf n

/-- The message of a command with its bulk data inline, as it travels to the other packages: the data of a source in the ring
goes with it. -/
def inlined (c : Ctx) (s : State) : List Byte :=
  let op := (headerOf c.req.msg).op
  if [0x0802, 0x0803, 0x0308, 0x030A].contains op && (bulkAt c.p 8).kind == 2 then
    let data := bulkSource s c.bay c.p 8 32
    c.req.msg.take 24 ++ leBytes 4 1 ++ zeros 4 ++ zeros 8 ++ leBytes 4 data.length ++ zeros 4 ++ data
  else c.req.msg

/-- A spanned command starts: it is prepared here, and every other package is asked to prepare it (R538). -/
def State.startSpan (s : State) (c : Ctx) (table : Nat) (phase : SpanPhase) (nodes : List Nat) (setup : List (List Byte)) (body : List Byte) :
    Result :=
  let tag := s.dev.commands
  let s : State := { s with
    dev.commands := s.dev.commands + 1
    fab.prepared := s.fab.prepared ++ [⟨selfNode, tag, c.bay, table, [], false, inlined c s, false⟩]
    fab.spans := s.fab.spans ++ [⟨tag, { c.req with msg := inlined c s }, c.bay, nodes, [], phase, s.dev.now, setup, body⟩] }
  (none, s.emits (nodes.map fun n => .span n (if phase = .span then 0 else 1) tag (if phase = .span then setup else [inlined c s])))

/-- R539: a command on a table that a map spans is carried out on every package the map names, and on this one at the
Commit; on any failure here nothing changes. -/
def spanned (c : Ctx) (s : State) (t : Tab) (k : Result) : Result :=
  let nodes := s.otherNodes (t.map.entries.map MapEntry.owner)
  if c.commit || nodes.isEmpty then k
  else match k.1 with
    | some r => if r.status = .ok then s.startSpan c t.id .prepare nodes [] r.body else (some r, s)
    | none => s.startSpan c t.id .prepare nodes [] []

/-! ### Uncorrectable granules (R443, R445) -/

/-- Whether a silo granule of a bay belongs to a directory segment. -/
def State.inDirectory (s : State) (b g : Nat) : Bool :=
  (s.bay b).tables.any fun t => t.segments.any fun x => x.dir.any fun r => decide (r.first ≤ g) && decide (g < r.first + r.len)

def State.modSilo (s : State) (k : Nat) (f : Silo → Silo) : State := { s with memsys.silos := s.memsys.silos.modify k f }

/-- Errors counted under a key: corrected and uncorrectable. -/
def addErrs (l : List (Nat × Nat × Nat)) (k c u : Nat) : List (Nat × Nat × Nat) :=
  let old := ((findKey Prod.fst l k).map Prod.snd).getD (0, 0)
  putKey Prod.fst (k, satAdd 64 old.1 c, satAdd 64 old.2 u) l

/-- Errors of a pseudo-channel of a silo counted for a bay, or for none (16) (R442, R443, R452). -/
def State.siloError (s : State) (k pc b c u : Nat) : State :=
  let s := s.modSilo k fun x =>
    { x with errs := addErrs x.errs (32 * b + pc) c u, ue := if u = 0 then x.ue else (s.dev.now :: x.ue).take 257 }
  (s.count (0x100 + k) 3 c).count (0x100 + k) 4 u

/-- A corrected error (R442): counted, and reported when the pseudo-channel reaches 1,000 in a second, at most once a
minute. -/
def State.siloCorrected (s : State) (k pc b : Nat) : State :=
  let s := s.siloError k pc b 1 0
  let old := ((s.memsys.silos[k]?).bind fun x => findKey Prod.fst x.ce pc).getD (pc, [], none)
  let times := (s.dev.now :: old.2.1.filter fun t => decide (s.dev.now < t + 1000000000)).take 1000
  let tell := decide (1000 ≤ times.length) && (match old.2.2 with
    | some t => decide (t + 60000000000 ≤ s.dev.now)
    | none => true)
  let s := s.modSilo k fun x => { x with ce := putKey Prod.fst (pc, times, if tell then some s.dev.now else old.2.2) x.ce }
  if tell then s.raise 0x0201 1 none (some (siloDie k)) (leBytes 1 k ++ leBytes 1 pc ++ zeros 2 ++ leBytes 4 times.length) else s

/-- A page of a silo, found under a bay or in a reserved unit (16), put on the silo's list of retired pages while it has room (R443);
whether it is there now. -/
def State.retirePage (s : State) (k b page : Nat) : Bool × State :=
  let mine := s.flash.retired.filter fun r => r.1 == k
  if mine.any fun r => r.2.2 == page then (true, s)
  else if mine.length < 4096 then (true, { s with flash.retired := s.flash.retired ++ [(k, b, page)] })
  else if ((s.memsys.silos[k]?).map Silo.retireFull).getD true then (false, s)
  else (false, (s.modSilo k fun x => { x with retireFull := true }).raise 0x0203 1 none (some (siloDie k)) (leBytes 1 k))

/-- A read that found a granule of a bay's silo space uncorrectable: it is counted and reported, and its page is retired
while the silo's list has room (R443). -/
def State.siloBad (s : State) (b g : Nat) : State :=
  match ((s.bay b).space.siloOf g).filter fun _ => !s.siloLost b g with
  | none => s
  | some k =>
    let s := s.siloError k (pseudoChannel g) b 0 1
    let s := s.raise (if s.inDirectory b g then 0x0204 else 0x0202) 2 (some b) (some (siloDie k))
      (leBytes 1 k ++ leBytes 1 (pseudoChannel g) ++ zeros 2 ++ leBytes 8 g)
    let page := g / 64
    if (s.bay b).space.retired.contains page then s
    else
      let (kept, s) := s.retirePage k b (natAt (s.bay b).space.siloUnit (g / unitGranules) * 65536 + page % 65536)
      if kept then s.modBay b fun y => { y with space := { y.space with retired := y.space.retired ++ [page] } } else s

/-- A poisoned loft granule (R460): counted and reported. -/
def State.loftBad (s : State) (b g : Nat) : State :=
  match (s.bay b).space.portOf g with
  | none => s
  | some k =>
    let s : State := { s with memsys.lofts := s.memsys.lofts.modify k fun x => { x with errs := addErrs x.errs b 0 1 } }
    (s.count (0x200 + k) 2 1).raise 0x0303 2 (some b) (some (loftDie k)) (leBytes 1 k ++ zeros 3 ++ leBytes 8 g)

/-- The uncorrectable granules among `n` read from `g` at a home, each reported (R443, R460). -/
def State.reportBad (s : State) (b home g n : Nat) : State :=
  match home with
  | 1 => (List.range n).foldl (fun s i => if s.poisoned .silo b 0 (g + i) 1 then s.siloBad b (g + i) else s) s
  | 2 => (List.range n).foldl (fun s i => if s.poisoned .loft b 0 (g + i) 1 then s.loftBad b (g + i) else s) s
  | _ => s

/-- An entry's read or write charged to the bay (R71, R187): issued on a die, or on the entry's own by the stewards. -/
def State.chargeEntry (s : State) (b : Nat) (t : Tab) (row : Nat) (isWrite : Bool) (die : Option Nat := none) : State :=
  match t.segmentOf row with
  | some g =>
    let a := g.entryByte row / 64
    s.chargeAccess b (die.getD (siloDie (((s.bay b).space.siloOf a).getD 0))) 1 a 1 isWrite
  | none => s

/-! ### Rows under way -/

/-- Whether a row's conflict-table entry is taken (R181, R408). -/
def State.rowHeld (s : State) (b table row : Nat) : Bool :=
  s.dp.flails.any fun f => f.entries.any fun e => e.bay == b && e.table == table && e.row == some row

/-- Whether a long job has a table in hand. -/
def State.tableMoving (s : State) (b table : Nat) : Bool :=
  s.dp.waiting.any fun w => w.bay == b && w.items.any fun i => i.table == table

/-- A new number for a command that answers later, and its record. -/
def State.startJob (s : State) (c : Ctx) (kind : JobKind) (items : List MoveItem) (counts args : List Nat) : Nat × State :=
  let id := s.dev.commands
  (id, { s with
    dev.commands := id + 1
    dp.waiting := s.dp.waiting ++
      [{ id := id, kind := kind, req := c.req, bay := c.bay, session := c.caller.handle, items := items, at_ := 0, dest := 0,
         data := [], counts := counts, args := args }] })

def State.job (s : State) (id : Nat) : Option Waiting := findKey Waiting.id s.dp.waiting id

def State.modJob (s : State) (id : Nat) (f : Waiting → Waiting) : State :=
  { s with dp.waiting := s.dp.waiting.map fun w => if w.id = id then f w else w }

/-- The hands of the MIGRATE job that carries out a command (R290). -/
def Job.moves (j : Job) (id : Nat) : Bool := j.role == 5 && j.cmd == id

/-- They exit once the command is over. -/
def Job.endMove (id : Nat) (j : Job) : Job :=
  if j.moves id then { j with hands := j.hands.map fun h => { h with exited := true } } else j

def State.endMover (s : State) (id : Nat) : State :=
  { s with dp.crews := s.dp.crews.map fun c => { c with job := c.job.map (Job.endMove id) } }

/-- Whether a MIGRATE job carries out a command. -/
def State.moverRuns (s : State) (id : Nat) : Bool := s.dp.crews.any fun c => c.job.any fun j => j.moves id

/-- A long command answers and is over. -/
def State.endJob (s : State) (id : Nat) (reply : Reply) : State :=
  match s.job id with
  | some w => (({ s with dp.waiting := dropKey Waiting.id s.dp.waiting id }).endMover id).answer w.req reply
  | none => s

/-! ### Flail queues (R406, R407) -/

def State.flail (s : State) (n : Nat) : Flail := (findKey Flail.no s.dp.flails n).getD ⟨n, [], [], []⟩

/-- Stalled submissions enter the input queue while it has room in its 256 entries (R407). -/
def Flail.fill (f : Flail) : Flail :=
  let n := 256 - f.queue.length
  { f with queue := f.queue ++ f.stalled.take n, stalled := f.stalled.drop n }

def State.putFlail (s : State) (f : Flail) : State :=
  let f := f.fill
  { s with dp.flails := if f.queue.isEmpty && f.entries.isEmpty then dropKey Flail.no s.dp.flails f.no
                        else putKey Flail.no f s.dp.flails }

/-- The flail of a silo granule of a bay. -/
def State.flailOf (s : State) (b g : Nat) : Nat := 32 * (((s.bay b).space.siloOf g).getD 0) + pseudoChannel g

/-- The applying flail of a row by its entry (R406). -/
def State.applyingFlail (s : State) (b : Nat) (t : Tab) (row : Nat) : Nat :=
  match s.entry b t row, t.segmentOf row with
  | some e, some g => if e.valid && e.home = 1 then s.flailOf b e.addr else s.flailOf b (g.entryByte row / 64)
  | _, _ => 0

/-- An operation submitted to a flail: it enters the input queue, or its submission stalls and is not dropped (R407). -/
def State.toFlail (s : State) (n : Nat) (op : FlailOp) : State :=
  let f := s.flail n
  s.putFlail { f with stalled := f.stalled ++ [op] }

end Sys2Proof.Machine
end

