-- ==== Sys2Proof/Machine/Place.lean ====
section
/-! DEFINITION. Placing bytes at a client: RDMA WRITE on a queue pair, or a posted write into a host region (R495, R563 to
R566, R593); charges of the bay's own areas. -/

namespace Sys2Proof.Machine

/-! ### Host regions -/

def State.region (s : State) (key : Nat) : Option Region := s.tth.regions.find? fun r => r.key == key && r.closing.isNone

/-- Whether a key names a region of the bay, open to an access, that holds a span (R564). -/
def State.regionHolds (s : State) (b key off len : Nat) (write : Bool) : Bool :=
  match s.region key with
  | some r => r.bay == b && (if write then r.write else r.read) && decide (off + len ≤ r.len)
  | none => false

/-- A posted write of data on a die into a host region (R565): the tether is on D0, and D1 reaches it over the ridge (R24, R542). -/
def State.hostPlace (s : State) (key off : Nat) (data : List Byte) (ro : Bool) (die : Nat := 0) (wicket : Bool := false) : State :=
  match s.region key with
  | some r =>
    let s := match crossing die 0 with
      | some p => s.cross (some r.bay) wicket p 2 data.length
      | none => s
    (s.emit (.hostWrite (r.base + off) data ro)).count 0x0600 6 data.length
  | none => s

/-- Whether a write of `n` bytes on a die can reach the host now (R24, R64). -/
def State.hostMay (s : State) (b die n : Nat) : Bool := (crossing die 0).all fun p => s.crossMay (some b) false p 2 n

/-! ### Bulk destinations (R593) -/

/-- Whether a request came through the tether. -/
def onTether : Via → Bool
  | .mailbox _ => true
  | _ => false

/-- Bytes of a response before its body: header and prefix. -/
def replyHead : Nat := 24

/-- Whether a destination at payload offset `off` can take `len` bytes after a fixed body of `fixed` bytes: the detail of
RANGE otherwise. -/
def destBad (c : Ctx) (s : State) (off fixed len : Nat) : Option Nat :=
  let d := bulkAt c.p off
  if d.kind = 1 && 4096 < replyHead + fixed + len then some off
  else if d.length < len then some (off + 16)
  else if d.kind = 3 && onTether c.req.via && !s.regionHolds c.bay d.key d.offset d.length true then some (off + 4)
  else none

/-- The data placed at a destination before the response is sent; inline data stays in the response. -/
def placeDest (c : Ctx) (s : State) (off : Nat) (data : List Byte) : List Byte × State :=
  let d := bulkAt c.p off
  if d.kind = 1 then (data, s)
  else if onTether c.req.via then ([], s.hostPlace d.key d.offset data s.tth.resultRo)
  else match s.lowestRts c.caller.handle with
    | some q => ([], s.rdmaSend q d.offset d.key data)
    | none => ([], s.placeFail c.bay)

/-! ### The bay's own areas in its silo units (R58, R195, R490) -/

/-- First granule of the bay's areas on a die above its retention area: the hatch ring and the snapshot on D0, then stage
and spill. -/
def State.areaBase (s : State) (b die : Nat) : Nat := (areaRun (s.bay b).core.shares 0 die).first

/-- Granules that lie ahead of the stage area of a die. -/
def State.stageBase (s : State) (b die : Nat) : Nat :=
  s.areaBase b die + (if die = 0 then s.ringBytes b / 64 + mibGranules else 0)

def State.spillBase (s : State) (b die : Nat) : Nat := s.stageBase b die + mibGranules * natAt (s.bay b).core.shares.stageMiB die

/-- Granule of the bay's silo space in which a byte of its hatch ring lies. -/
def State.ringGranule (s : State) (b off : Nat) : Nat := s.areaBase b 0 + off / 64

/-- The die of a granule of a bay's silo space. -/
def State.granuleDie (s : State) (b a : Nat) : Nat := siloDie (((s.bay b).space.siloOf a).getD 0)

/-- Bytes of the hatch ring read or written, charged to the silo that holds them, and to the ridge for a crew of the other die. -/
def State.chargeRing (s : State) (b off len : Nat) (isWrite : Bool) (die : Option Nat := none) : State :=
  let a := s.ringGranule b off
  s.chargeAccess b (die.getD (s.granuleDie b a)) 1 a ((off % 64 + len + 63) / 64) isWrite

/-- The data a source descriptor at `off` names, its inline bytes after `base`; the hatch ring's are charged (R593). -/
def takeSource (c : Ctx) (s : State) (off base : Nat) : List Byte × State :=
  let d := bulkAt c.p off
  (bulkSource s c.bay c.p off base, if d.kind = 2 then s.chargeRing c.bay d.offset d.length false else s)

end Sys2Proof.Machine
end

