-- ==== Sys2Proof/Machine/Wire.lean ====
section
/-! DEFINITION. Messages between packages: the path they take (R529), their carriage over yokes, Ethernet and the
host-memory relay (R519, R526, R527, R573), and the requests of a requester (R521 to R523, R532). -/

namespace Sys2Proof.Machine

/-! ### Nodes -/

def State.selfNumber (s : State) : Nat := s.net.muster.number.getD selfNode

/-- Node ID of a number in the roster, and the number of an ID. -/
def State.nodeIdOf (s : State) (n : Nat) : Option Nat := (s.net.muster.roster.find? fun m => m.number == n).map Member.nodeId
def State.numberOf (s : State) (id : Nat) : Option Nat := (s.net.muster.roster.find? fun m => m.nodeId == id).map Member.number

/-- The roster address of a node (R527). -/
def State.rosterAddr (s : State) (node : Nat) : Option NetAddr :=
  (s.net.muster.roster.find? fun m => m.number == node).bind Member.addr

/-- Whether a link carries messages: UP, or UP and in link-level retry or retraining without having gone DOWN (R516). -/
def LinkState.carries (x : LinkState) : Bool := x == .up || x == .retry || x == .retrain || x == .replay

/-- The yoke links (1 to 4) that join this package to a node (R518, R519). -/
def State.yokesTo (s : State) (node : Nat) : List Nat :=
  match s.nodeIdOf node with
  | none => []
  | some id => [1, 2, 3, 4].filter fun i => (s.link i).state.carries && (s.link i).partner == id

/-! ### Paths (R529) -/

/-- The lowest-numbered UP sub-port that has an address (R527). -/
def State.fabricPort (s : State) : Option (Nat × Nat) :=
  (s.net.ports.zipIdx.flatMap fun p => (p.1.subs.zipIdx.filter fun x => x.1.link && !x.1.addrs.isEmpty).map fun x => (p.2, x.2)).head?

/-- Whether the host-memory relay to a node is available (R574). -/
def State.hostRelayTo (s : State) (node : Nat) : Option Nat :=
  match s.nodeIdOf node with
  | none => none
  | some id => (s.fab.relays.zipIdx.find? fun r => r.1.enabled && r.1.peer == id &&
      (r.1.peerAliveAt.any fun t => decide (s.dev.now ≤ t + 10000000))).map Prod.snd

/-- The relays of the rick that a message for a node may take: members with yokes to both, lowest number first. `joined`
says which members have UP yoke links to the node. -/
def State.relayTo (s : State) (joined : Nat → Bool) : Option Nat :=
  leastBy id ((s.net.muster.roster.map Member.number).filter fun n => !s.isSelf n && !(s.yokesTo n).isEmpty && joined n)

/-- The first available path to a node for a message of a number (R519, R529); `bad` are paths already tried. The yokes
that join other members are not visible here (DEDUCED, log 24): a member of the rick is taken to be joined to every other. -/
def State.pathTo (s : State) (node n : Nat) (bad : List FabPath) : FabPath :=
  let direct := s.yokesTo node
  let y : FabPath := match direct with
    | [] => .none
    | l => .yoke (natAt l (n % l.length))
  let r : FabPath := match s.relayTo (fun _ => !((s.nodeIdOf node).isNone)) with
    | some m => if m = node then .none else .via (natAt (s.yokesTo m) 0) m
    | none => .none
  let e : FabPath := match s.fabricPort, s.rosterAddr node with
    | some (p, k), some _ => .ether p k
    | _, _ => .none
  let h : FabPath := match s.hostRelayTo node with
    | some i => .host i
    | none => .none
  (([y, r, e, h].find? fun p => p != .none && !bad.contains p)).getD .none

/-! ### Carriage (R526, R527, R573) -/

/-- Segments of a message: each a payload with its 16-byte header. -/
def segmentsOf (sender : Nat) (msg : List Byte) : List (List Byte) :=
  let parts := chunks 4064 msg
  parts.zipIdx.map fun p =>
    leBytes 2 p.2 ++ leBytes 2 parts.length ++ leBytes 4 msg.length ++ leBytes 2 sender ++ zeros 6 ++ p.1

/-- FABRIC_SEGMENT as a VCP message (R527). -/
def segmentMsg (id : Nat) (payload : List Byte) : List Byte :=
  (Header.bytes ⟨2, 0, 0x0B40, 0xFFFF, payload.length, id, 0⟩) ++ payload

/-- The next message id for a node (R527). -/
def State.nextMsgId (s : State) (node : Nat) : Nat × State :=
  let n := ((findKey Prod.fst s.fab.msgIds node).map Prod.snd).getD 0
  (n, { s with fab.msgIds := putKey Prod.fst (node, (n + 1) % 2 ^ 32) s.fab.msgIds })

/-- Flit payload bytes of a message (R512). -/
def flitBytes (n : Nat) : Nat := 256 * flitsOf n

/-! ### Messages on a yoke link (R64, R513, R514, R526) -/

/-- The class of a fabric message's kind (R513): 0 Control, 1 Response, 2 Request. -/
def fabricClass (kind : Nat) : Nat := if kind = 2 || kind = 7 then 0 else if kind = 4 || kind = 6 then 1 else 2

/-- Whether a message that waits for a link may leave: the link has room for its class, its bay may be served, or the device-scope
share (R64, R66, R67), and so over the ridge, if it comes from the other die. -/
def State.linkMay (s : State) (i : Nat) (m : LinkMsg) : Bool :=
  (s.link i).room m.cls m.flits &&
  (match m.bay with
    | none => s.deviceMay (16 + 2 * i) ((s.link i).queue.any fun x => x.bay.any fun b => s.pointOpen x.wicket b (16 + 2 * i))
    | some b => s.pointOpen m.wicket b (16 + 2 * i)) &&
  m.ridge.all fun p => s.crossMay m.bay m.wicket p m.cls (256 * m.flits)

/-- The oldest messages of each class, bay and way in a queue. -/
def linkHeads : List LinkMsg → List LinkMsg → List LinkMsg
  | [], acc => acc.reverse
  | m :: rest, acc =>
    if acc.any fun x => x.cls == m.cls && x.bay == m.bay && x.ridge == m.ridge then linkHeads rest acc else linkHeads rest (m :: acc)

/-- The message that leaves next on a link: the device's own within its share first, then one of the bay that the regulator chooses
(R64, R66), in the order of the classes. -/
def State.linkNext (s : State) (i : Nat) : Option LinkMsg :=
  let ready := (linkHeads (s.link i).queue []).filter (s.linkMay i)
  match leastBy LinkMsg.cls (ready.filter fun m => m.bay.isNone) with
  | some m => some m
  | none => (s.nextBay (16 + 2 * i) (ready.filterMap fun m => m.bay.map fun b => (b, m.wicket))).bind fun b =>
      leastBy LinkMsg.cls (ready.filter fun m => m.bay == some b)

/-- A message leaves on a link: charged to its bay, and its flits sent, over the ridge too if it comes from the other die. -/
def State.linkLeave (s : State) (i : Nat) (m : LinkMsg) : State :=
  let s := s.modLink i fun l => { l with queue := l.queue.erase m }
  let s := s.chargeFor m.bay m.wicket (16 + 2 * i) (256 * m.flits)
  let s := match m.ridge with
    | some p => s.cross m.bay m.wicket p m.cls (256 * m.flits)
    | none => s
  (s.linkSent i m.cls m.flits).emit m.out

/-- A link sends what it may; the first argument bounds the messages. -/
def State.linkRun : Nat → Nat → State → State
  | 0, _, s => s
  | n + 1, i, s => match s.linkNext i with
    | none => s
    | some m => State.linkRun n i (s.linkLeave i m)

/-- A link goes on with the messages that wait for it. -/
def State.serveLink (s : State) (i : Nat) : State := State.linkRun (s.link i).queue.length i s

/-- A message put on a link: it waits for its turn, for room and for credit, and is not dropped (R49). -/
def State.linkSend (s : State) (i : Nat) (m : LinkMsg) : State :=
  (s.modLink i fun l => { l with queue := l.queue ++ [m] }).serveLink i

/-- Where the counts and slots of this package's own direction lie in a relay region, and those of the peer's: the producer
count, the consumer count, the alive count and the first slot of a direction (R572). -/
def relayProducer (dir : Nat) : Nat := 0x1000 * dir
def relayConsumer (dir : Nat) : Nat := 0x1000 * dir + 0x40
def relayAlive (dir : Nat) : Nat := 0x1000 * dir + 0x80
def relaySlots (dir : Nat) : Nat := 0x2000 + 0x100000 * dir

/-- The direction that this package writes: 0 with the lower node ID (R572). -/
def State.relayDir (s : State) (r : Relay) : Nat := if s.net.muster.config.nodeId < r.peer then 0 else 1

/-- A count of a relay written to host memory. -/
def State.relayCount (s : State) (r : Relay) (off n : Nat) : State := s.emit (.hostWrite (r.base + off) (leBytes 8 n) false)

/-- A slot written and then the producer count, in that order (R573, R574). -/
def State.relayPut (s : State) (i : Nat) (r : Relay) (payload : List Byte) : State :=
  let dir := s.relayDir r
  let s := s.emit (.hostWrite (r.base + relaySlots dir + 4096 * (r.produced % 256)) (leBytes 4 payload.length ++ zeros 12 ++ payload) false)
  let s := s.relayCount r (relayProducer dir) (r.produced + 1)
  { s with fab.relays := s.fab.relays.set i { r with produced := r.produced + 1 } }

/-- A segment sent on a relay if there is room in it, else kept waiting (R574). -/
def State.relaySend (s : State) (i : Nat) (payload : List Byte) : State :=
  match s.fab.relays[i]? with
  | none => s
  | some r =>
    if !r.enabled then s
    else if r.queue.isEmpty && r.produced - r.peerConsumed < 256 then s.relayPut i r payload
    else { s with fab.relays := s.fab.relays.set i { r with queue := r.queue ++ [payload] } }

/-- A message sent from a die to a node along a path, charged to the bay (R62, R71, R526); on a yoke it takes flit groups of 16 flits
(R512, R514) in the class of its kind, and so on the ridge if the path begins on the other die (R23, R24). A segment for the relay, which
D0 writes, crosses as it comes (DESIGN CHOICE, log 188). -/
def State.sendFabric (s : State) (bay : Option Nat) (die node : Nat) (path : FabPath) (msg : List Byte) (wicket : Bool := false) : State :=
  let kind := u8At msg 0
  let onYoke := fun (y : Nat) =>
    s.linkSend y ⟨fabricClass kind, bay, wicket, flitsOf msg.length, crossing die (linkDie y), .fabric node kind msg⟩
  match path with
  | .yoke y => onYoke y
  | .via y _ => onYoke y
  | .ether p k =>
    let (id, s) := s.nextMsgId node
    match s.rosterAddr node with
    | some a => (segmentsOf s.selfNumber msg).foldl (fun s x =>
        let m := segmentMsg id x
        State.sendUdp s p k 1 a (s.vcpPort p) m bay wicket
          ((crossing die (p / 4)).map fun r => (r, m.length))) s
    | none => s
  | .host i =>
    let s := match crossing die 0 with
      | some r => s.cross bay wicket r (fabricClass kind) msg.length
      | none => s
    (segmentsOf s.selfNumber msg).foldl (fun s x => s.relaySend i x) s
  | .none => s

/-- The die on which a path begins. -/
def FabPath.die : FabPath → Nat
  | .yoke y => linkDie y
  | .via y _ => linkDie y
  | .ether p _ => p / 4
  | _ => 0

/-- The regulated points that a message from a die on a path passes (R62, R526, R527): the link's or port's, and the ridge. -/
def FabPath.points (path : FabPath) (die : Nat) : List Nat :=
  match path with
  | .yoke y => (16 + 2 * y) :: (crossing die (linkDie y)).toList
  | .via y _ => (16 + 2 * y) :: (crossing die (linkDie y)).toList
  | .ether p _ => (26 + p) :: (crossing die (p / 4)).toList
  | .host _ => (crossing die 0).toList
  | .none => []

/-- Those that the answer passes on its way in, as far as this package regulates them. -/
def FabPath.pointsIn (path : FabPath) (die : Nat) : List Nat :=
  match path with
  | .yoke y => (17 + 2 * y) :: (crossing (linkDie y) die).toList
  | .via y _ => (17 + 2 * y) :: (crossing (linkDie y) die).toList
  | _ => []

/-! ### Requests (R521 to R523, R531, R532) -/

/-- The header of a forwarding message (R521). -/
def forwardHead (kind flags bay origin owner id records table status version bags : Nat) : List Byte :=
  leBytes 1 kind ++ leBytes 1 flags ++ leBytes 2 bay ++ leBytes 2 origin ++ leBytes 2 owner ++ leBytes 4 id ++
    leBytes 4 records ++ leBytes 2 table ++ leBytes 2 status ++ leBytes 4 version ++ leBytes 4 bags ++ zeros 4

/-- A request of a kind to an owner, with its read: `body` is its records (R521). It waits until its read is issued (R314), and
only then leaves. -/
def State.putRequest (s : State) (b die : Nat) (ctx : Option Nat) (queue : Nat) (purpose : Purpose) (kind flags node table version bags : Nat)
    (rows : List Nat) (body : List Byte) (g : Nat) (original : Option Nat) : State :=
  let id := s.dp.nextRead
  let s := s.putRead b die ctx queue false purpose 3 node g 0 false
  let msg := forwardHead kind flags b s.selfNumber node id rows.length table 0 version bags ++ body
  let q : FabRequest :=
    { id := id, bay := b, die := die, node := node, kind := kind, table := table, version := version, rows := rows, msg := msg, path := .none,
      reissued := bit flags 0, original := original, pausedAt := none }
  { s with fab.requests := s.fab.requests ++ [q] }

/-- A READ_REQ for one row (R522). -/
def State.putReadReq (s : State) (b die : Nat) (ctx : Option Nat) (queue : Nat) (purpose : Purpose) (node table version row g : Nat) : State :=
  s.putRequest b die ctx queue purpose 3 0 node table version 0 [row] (leBytes 8 row) g none

/-- A POOL_REQ for the positions of a section that one owner holds (R523): records of (row, position, bag ordinal in the
request, weight). -/
def State.putPoolReq (s : State) (b die : Nat) (ctx : Option Nat) (queue : Nat) (purpose : Purpose) (flags node table version bags : Nat)
    (recs : List (Nat × Nat × Nat × Nat)) : State :=
  s.putRequest b die ctx queue purpose 5 flags node table version bags (recs.map Prod.fst)
    (recs.flatMap fun r => leBytes 8 (r.1 + r.2.1 * 2 ^ 40) ++ leBytes 4 r.2.2.1 ++ leBytes 4 r.2.2.2) 0 none

/-- The path a request takes (R529): none for one for this package itself, which only a reissue to the next owner makes. -/
def State.requestPath (s : State) (node id : Nat) : FabPath := if s.isSelf node then .none else s.pathTo node id []

/-- A request leaves on the path it finds now; one for this package itself joins its own queue. -/
def State.sendRequest (s : State) (id : Nat) (wicket : Bool) : State :=
  match s.fab.requests.find? fun q => q.id == id with
  | none => s
  | some q =>
    let path := s.requestPath q.node id
    let s : State := { s with fab.requests := s.fab.requests.map fun y => if y.id = id then { y with path := path } else y }
    if s.isSelf q.node then { s with fab.incoming := s.fab.incoming ++ [⟨q.die, none, q.msg⟩] }
    else s.sendFabric (some q.bay) q.die q.node path q.msg wicket

end Sys2Proof.Machine
end

