-- ==== Sys2Proof/Machine/Requests.lean ====
section
/-! DEFINITION. Requests that wait to be issued: the sheafs, sections and contexts they belong to, the points on their way, the
bounds of R314, the turn of a request at a point (R64, R312), its issue, and the copies of a row that a commit invalidates (R47,
R325). -/

namespace Sys2Proof.Machine

/-! ### Sheafs, sections and contexts by number -/

def State.sheaf (s : State) (no : Nat) : Option Sheaf := findKey Sheaf.no s.dp.sheafs no

def State.modSheaf (s : State) (no : Nat) (f : Sheaf → Sheaf) : State :=
  { s with dp.sheafs := s.dp.sheafs.map fun x => if x.no = no then f x else x }

def State.dropSheaf (s : State) (no : Nat) : State := { s with dp.sheafs := dropKey Sheaf.no s.dp.sheafs no }

def State.modSection (s : State) (no sect : Nat) (f : Section → Section) : State :=
  s.modSheaf no fun x => { x with sections := x.sections.modify sect f }

def State.modSlot (s : State) (no k slot : Nat) (f : RowSlot → RowSlot) : State :=
  s.modSection no k fun g => { g with slots := g.slots.map fun r => if r.slot = slot then f r else r }

/-- A section of a sheaf, with its sheaf. -/
def State.sectionAt (s : State) (no k : Nat) : Option (Sheaf × Section) :=
  (s.sheaf no).bind fun x => (x.sections[k]?).map fun g => (x, g)

/-- The row slot that a position of a section names. -/
def Section.slotOf (g : Section) (i : Nat) : Option RowSlot :=
  (((g.window.getD [])[i]?).filter fun p => p.kind < 3).bind fun p => findKey RowSlot.slot g.slots p.slot

/-- The sheaf that work in the threshers is for. -/
def workSheaf (w : Work) : Option Nat :=
  match w with
  | .bag no _ _ | .tally no _ => some no
  | .matrix .. => none

/-- Reads that nobody waits for any more: those issued complete and are dropped, the others are never issued (R332). -/
def State.dropReads (s : State) (p : Read → Bool) : State :=
  let gone := (s.dp.reads.filter fun r => p r && !r.started).map Read.id
  { s with
    dp.reads := (s.dp.reads.filter fun r => !gone.contains r.id).map fun r => if p r then { r with dropped := true } else r
    fab.requests := s.fab.requests.filter fun q => !gone.contains q.id }

/-- Bags of a section. -/
def Section.bags (x : Section) : Nat := x.offsets.length - 1

/-- Length and first position of a bag (R203). -/
def Section.bagLen (x : Section) (b : Nat) : Nat := natAt x.offsets (b + 1) - natAt x.offsets b
def Section.bagStart (x : Section) (b : Nat) : Nat := natAt x.offsets b

def State.context (s : State) (n : Nat) : Option Context := findKey Context.no s.dp.contexts n

def State.modCtx (s : State) (n : Nat) (f : Context → Context) : State :=
  { s with dp.contexts := s.dp.contexts.map fun x => if x.no = n then f x else x }


/-- Granules of a context's reserve (R333): two crib slots. -/
def Context.reserve (x : Context) : Nat := 2 * x.slot

/-- Granules of the crib slots of a context that hold `n` granules (R319): one slot, or as many as it takes. -/
def Context.slotsFor (x : Context) (n : Nat) : Nat := x.slot * max 1 ((n + x.slot - 1) / max 1 x.slot)

/-- Granules of a bay's crib share on a die (R55). -/
def State.cribShare (s : State) (b die : Nat) : Nat := 4096 * natAt (s.bay b).core.shares.crib die

def ctxDie (n : Nat) : Nat := n / 1024 % 2

/-- The RUNNING contexts of a bay on a die. -/
def State.runningOn (s : State) (b die : Nat) : List Context :=
  s.dp.contexts.filter fun x => x.bay == b && x.running && ctxDie x.no == die

/-- Positions of a section not yet folded: the two next ones name these slots (R333). -/
def Section.nextSlots (g : Section) (folded : Nat) : List Nat :=
  match g.window with
  | some m => ((m.drop folded).take 2).map Pos.slot
  | none => []

/-- The bag that holds a position of a section. -/
def Section.bagOf (g : Section) (i : Nat) : Nat := (g.offsets.drop 1).findIdx fun o => decide (i < o)

/-- Whether a position has been folded in every slice: its bag is out, or every chain of it is past the position. -/
def State.posFolded (s : State) (no k : Nat) (g : Section) (i : Nat) : Bool :=
  let b := g.bagOf i
  (g.outs.any fun o => o.bag == b) || s.dp.threshers.any fun t => t.bags.any fun r =>
    r.work == .bag no k b && r.chains.all fun c => decide (i - g.bagStart b < c.next)

/-- Leading bag positions of a section that have been folded. -/
def State.foldedOf (s : State) (no k : Nat) : Nat :=
  match (s.sheaf no).bind fun f => f.sections[k]? with
  | none => 0
  | some g => ((List.range g.indices.length).find? fun i => !s.posFolded no k g i).getD g.indices.length

/-! ### Crib space (R319, R333, R381) -/

/-- Granules of crib copies staged on a die. -/
def State.stagedCrib (s : State) (b die : Nat) : Nat :=
  sumBy (fun (c : Staged) => if c.inCrib then c.granules else 0) (((s.bay b).granary.stage.getD die StageDie.initial).copies)

/-- Granules of a fused operand row of a table (R252), and of a bag's values held in FP32 for first-pass discovery (R249). -/
def Tab.fuseGranules (t : Tab) : Nat := granulesOf (t.desc.dim * (if t.pool.fuseFormat = 1 then 2 else 4))
def Tab.heldGranules (t : Tab) : Nat := granulesOf (4 * t.desc.dim)

/-- Whether a bag's values are held until the section's range is known (R249). -/
def BagOut.isHeld (o : BagOut) : Bool := o.codes.isEmpty && !o.vals.isEmpty

/-- The context number of a row slot that no context holds: of a wicket lookup, or of a section pooled again (R250). -/
def noCtx : Nat := 2 ^ 16

/-- Whether every bag of a section is out. -/
def Section.pooled (g : Section) : Bool := (List.range g.bags).all fun b => g.outs.any fun o => o.bag == b

/-- The reserve of a section pooled again, which no context holds for it (R250, R333). -/
def Section.reserve (g : Section) : Nat := if g.widened && !g.pooled then 2 * g.tab.maxGranules else 0

/-- Granules that the rows of a section pooled again take: of all, and of those that its two next positions name. -/
def State.againTook (s : State) (no k : Nat) (g : Section) (soon : Bool) : Nat :=
  let next := g.nextSlots (s.foldedOf no k)
  sumBy RowSlot.took (g.slots.filter fun r => r.ctx == noCtx && !r.released && (!soon || next.contains r.slot))

/-- Granules of crib that a section takes outside its contexts' slots: fused operand rows there or on their way, held values, and the
rows of a section pooled again. -/
def State.sectionCrib (s : State) (no k : Nat) (g : Section) : Nat :=
  g.tab.fuseGranules * (g.fused.length + (s.dp.reads.filter fun r => r.started && match r.purpose with
    | .fuse n j _ => n == no && j == k
    | _ => false).length) +
  g.tab.heldGranules * (g.outs.filter BagOut.isHeld).length +
  g.reserve + (s.againTook no k g false - min (s.againTook no k g true) g.reserve)

/-- The same of every section of a bay's sheafs on a die. -/
def State.cribLoose (s : State) (b die : Nat) : Nat :=
  sumBy (fun (x : Sheaf) => sumBy (fun (g : Section × Nat) => s.sectionCrib x.no g.2 g.1) x.sections.zipIdx)
    (s.dp.sheafs.filter fun x => x.bay == b && x.crew / 16 == die)

/-- Crib granules of a context that hold the rows of its two next positions, which its reserve serves (R333). -/
def State.soonUsed (s : State) (x : Context) : Nat :=
  match s.sheaf x.sheaf with
  | none => 0
  | some f => sumBy (fun (g : Section × Nat) =>
      let next := g.1.nextSlots (s.foldedOf f.no g.2)
      sumBy (fun (r : RowSlot) => if r.ctx == x.no && !r.released && next.contains r.slot then r.took else 0) g.1.slots) f.sections.zipIdx

/-- Granules of a bay's crib share on a die that are spoken for: every RUNNING context's reserve, what each holds beyond it, and
what its sections take. -/
def State.cribHeld (s : State) (b die : Nat) : Nat :=
  sumBy (fun (x : Context) => x.reserve + (x.crib - min (s.soonUsed x) x.reserve)) (s.runningOn b die) + s.cribLoose b die

/-- Whether `g` granules more fit in a bay's crib share on a die: copies staged there give way (R381). -/
def State.cribFits (s : State) (b die g : Nat) : Bool := decide (s.cribHeld b die + g ≤ s.cribShare b die)

/-- Whether a context can take `g` more granules: for the rows of its two next positions within its reserve, or from the share that
is left (R333). -/
def State.cribRoom (s : State) (x : Context) (g : Nat) (soon : Bool) : Bool :=
  (soon && decide (s.soonUsed x + g ≤ x.reserve)) || s.cribFits x.bay (ctxDie x.no) g

/-- Crib copies of a die discarded unless `need` granules are free beside them (R381). -/
def State.discardCrib (s : State) (b die need : Nat) : State :=
  if s.cribHeld b die + s.stagedCrib b die + need ≤ s.cribShare b die then s
  else s.modBay b fun y => { y with granary := { y.granary with stage := y.granary.stage.modify die fun d =>
    let gone := d.copies.filter fun c => c.inCrib
    { copies := d.copies.filter fun c => !c.inCrib, counters := addAt d.counters 3 gone.length } } }

/-- The stall watchdog of a context restarts, for a granule has entered or left its crib space (R334). -/
def Context.moved (x : Context) (now : Nat) : Context := { x with stalledSince := x.stalledSince.map fun _ => now }

/-- Crib space taken by a context, and released by it. -/
def State.cribTake (s : State) (n g : Nat) : State :=
  match s.context n with
  | none => s
  | some x => (s.discardCrib x.bay (ctxDie n) g).modCtx n fun x => { x.moved s.dev.now with crib := x.crib + g }

def State.cribFree (s : State) (n g : Nat) : State := s.modCtx n fun x => { x.moved s.dev.now with crib := x.crib - g }

/-- Whether a row slot is one that its context's two next positions name. -/
def State.slotSoon (s : State) (no k slot : Nat) : Bool :=
  ((s.sheaf no).bind fun f => f.sections[k]?).any fun g => (g.nextSlots (s.foldedOf no k)).contains slot

/-- The row slot a read is for. -/
def State.slotAt (s : State) (no k slot : Nat) : Option RowSlot :=
  ((s.sheaf no).bind fun f => f.sections[k]?).bind fun g => findKey RowSlot.slot g.slots slot

/-- Granules of a row slot of a section (R319). -/
def State.rowSlot (s : State) (no k : Nat) : Nat :=
  (((s.sheaf no).bind fun f => f.sections[k]?).map fun g => g.tab.maxGranules).getD 0

/-- Whether a row of a section pooled again has crib space: within the section's reserve, or in the share that is left. -/
def State.againRoom (s : State) (b die no k slot : Nat) : Bool :=
  match (s.sheaf no).bind fun f => f.sections[k]? with
  | none => true
  | some g =>
    (s.slotSoon no k slot && decide (s.againTook no k g true + g.tab.maxGranules ≤ g.reserve)) || s.cribFits b die g.tab.maxGranules

/-- Whether the data of a waiting read has crib space (R315): a row slot that has none yet needs it, and so does a fused operand
row. -/
def State.cribMay (s : State) (r : Read) : Bool :=
  match r.purpose with
  | .row no k slot => match s.slotAt no k slot, r.ctx.bind s.context with
    | some y, some x => decide (0 < y.took) || s.cribRoom x (x.slotsFor y.granules) (s.slotSoon no k slot)
    | some y, none => decide (0 < y.took) || s.againRoom r.bay r.die no k slot
    | _, _ => true
  | .fuse .. => s.cribFits r.bay r.die r.granules
  | .reload no k slot => match s.slotAt no k slot, r.ctx.bind s.context with
    | some y, some x => decide (0 < y.took) || s.cribRoom x (x.slotsFor y.granules) (s.slotSoon no k slot)
    | _, _ => true
  | .reloadPiece _ => match r.ctx.bind s.context with
    | some x => s.cribRoom x (x.slotsFor r.granules) false
    | none => true
  | _ => true

/-! ### The points on the way of a request (R62) -/

/-- The regulated points that an access of a bay issued on a die passes: the memory's own, and the ridge; none where nothing is issued
to the memory. -/
def State.accessPoints (s : State) (b die home addr : Nat) (isWrite : Bool) : List Nat :=
  if s.deadAt b die home addr then []
  else (match home with
    | 1 => ((s.bay b).space.siloOf addr).toList
    | 2 => (((s.bay b).space.portOf addr).map (12 + ·)).toList
    | _ => []) ++ (s.ridgePoint b die home addr isWrite).toList

/-- The home and granule that an address of a space stands for: the stage area lies in the bay's silo units (R58). -/
def State.homeOf (s : State) (b die space addr : Nat) : Nat × Nat :=
  match space with
  | 1 => (1, addr)
  | 2 => (2, addr)
  | 5 => (1, s.stageBase b die + addr)
  | _ => (9, addr)

/-- Whether a read of some of these granules has reached its memory and is not done: a write of them comes after it (R411, R440). -/
def State.readBefore (s : State) (b home addr g : Nat) : Bool :=
  s.dp.reads.any fun r => r.started && !r.outside && r.bay == b && r.space != 3 &&
    let h := s.homeOf b r.die r.space r.addr
    h.1 == home && decide (h.2 < addr + g) && decide (addr < h.2 + r.granules)

/-- The points that a read passes, those of its answer among them. -/
def State.readPoints (s : State) (r : Read) : List Nat :=
  if r.outside then []
  else if r.space = 3 then let p := s.requestPath r.addr r.id; p.points r.die ++ p.pointsIn r.die
  else let h := s.homeOf r.bay r.die r.space r.addr; s.accessPoints r.bay r.die h.1 h.2 false

/-- Those of a request to an owner that would leave a die now. -/
def State.pathPoints (s : State) (node die : Nat) : List Nat :=
  let p := s.requestPath node s.dp.nextRead; p.points die ++ p.pointsIn die

/-- Whether a read is one of the wicket path. -/
def Read.isWicket (r : Read) : Bool :=
  match r.purpose with
  | .wicket .. | .wicketSide .. | .wicketPool .. => true
  | _ => false

/-- Whether the ridge can take the data of an access, if it crosses it (R69, R513, R514); one to a place that cannot be reached does
not. -/
def State.ridgeOpen (s : State) (b die home addr g : Nat) (isWrite : Bool) : Bool :=
  s.deadAt b die home addr || (s.ridgePoint b die home addr isWrite).all fun _ => (s.link 0).room (ridgeClass isWrite) (flitsOf (64 * g))

/-! ### The bounds of R314 -/

/-- Whether a read is one of run-ahead staging. -/
def Read.isStaging (r : Read) : Bool :=
  match r.purpose with
  | .stage .. => true
  | _ => false

/-- HBM read tags (space 1, with the stage area's), or remote requests (space 3), that a bay holds on a die, quarantined ones
included: those of run-ahead staging, or the others. -/
def State.tagsHeld (s : State) (b die space : Nat) (staging : Bool) : Nat :=
  let w := fun (g : Nat) => if space = 3 then 1 else g
  let same := fun (x : Nat) => x == space || (space == 1 && x == 5)
  sumBy (fun (r : Read) => if r.started && r.bay == b && r.die == die && same r.space && !r.outside && r.isStaging == staging then
      w r.granules else 0) s.dp.reads +
    sumBy (fun (q : Quarantine) => if q.bay == b && q.die == die && same q.space && q.staging == staging then w q.granules else 0)
      s.dp.quarantines

/-- Whether `n` more tags of a bay fit: into its reserve, or into the pool the reserves leave (R57); staging reads draw on the pool
alone (R375). A tag in quarantine stays held when its bay is gone (R83). -/
def State.tagsFit (s : State) (b die space n : Nat) (staging : Bool := false) : Bool :=
  let reserve := if space = 3 then 128 else 256
  let total := if space = 3 then 4096 else 8192
  let keeps := fun (k : Nat) => if s.bayState k = .absent then 0 else reserve
  let pool := total - sumBy keeps (List.range 16)
  let used := sumBy (fun k => (s.tagsHeld k die space false - keeps k) + s.tagsHeld k die space true) (List.range 16)
  let mine := s.tagsHeld b die space false
  if staging then decide (used + n ≤ pool)
  else decide (mine + n ≤ reserve) || decide (used + ((mine + n - reserve) - (mine - reserve)) ≤ pool)

/-- Loft tags of a port that are held. -/
def State.loftTags (s : State) (port : Nat) : Nat :=
  sumBy (fun (r : Read) => if r.started && r.space == 2 && ((s.bay r.bay).space.portOf r.addr) == some port then r.granules else 0) s.dp.reads +
    sumBy (fun (q : Quarantine) => if q.space == 2 && q.port == port then q.granules else 0) s.dp.quarantines

/-- Outstanding granules of a context. -/
def State.ctxOutstanding (s : State) (n : Nat) : Nat :=
  sumBy (fun (r : Read) => if r.started && r.ctx == some n then r.granules else 0) s.dp.reads

/-- Whether `n` granules more stay within a context's 512 outstanding ones; a request larger than that is issued alone
(DESIGN CHOICE, log 142). -/
def State.ctxMay (s : State) (ctx : Option Nat) (n : Nat) : Bool :=
  match ctx with
  | none => true
  | some c => s.ctxOutstanding c == 0 || decide (s.ctxOutstanding c + n ≤ 512)

/-- Whether the bounds of R314 let a read of `n` granules be issued. -/
def State.boundsMay (s : State) (b die : Nat) (ctx : Option Nat) (space addr n : Nat) (staging : Bool := false) : Bool :=
  s.ctxMay ctx n && match space with
  | 1 | 5 => s.tagsFit b die 1 n staging
  | 2 => ((s.bay b).space.portOf addr).all fun k => decide (s.loftTags k + n ≤ 1024)
  | 3 => s.tagsFit b die 3 1 staging
  | _ => true

/-- Whether the regulators, the ridge and, for a read, the bounds let an access of a bay through (R57, R314, R315). An access made at
once takes its tags in parts (DESIGN CHOICE, log 188). -/
def State.accessMay (s : State) (b die home addr g : Nat) (isWrite : Bool) : Bool :=
  (s.accessPoints b die home addr isWrite).all (s.pointOpen false b) && s.ridgeOpen b die home addr g isWrite &&
    (isWrite || s.deadAt b die home addr || s.boundsMay b die none home addr (min g 256))

/-- Whether a waiting read is for a place to which nothing is issued (R453, R461, R464, R517). -/
def State.readDead (s : State) (r : Read) : Bool :=
  !r.outside && r.space != 3 && (let h := s.homeOf r.bay r.die r.space r.addr; s.deadAt r.bay r.die h.1 h.2)

/-- Whether the points, the ridge and the bounds let a waiting read be issued (R314, R315, R736). -/
def State.readMay (s : State) (r : Read) : Bool :=
  (s.readPoints r).all (s.pointOpen r.isWicket r.bay) &&
    (let h := s.homeOf r.bay r.die r.space r.addr; s.ridgeOpen r.bay r.die h.1 h.2 r.granules false) &&
    (r.outside || s.readDead r || s.boundsMay r.bay r.die r.ctx r.space r.addr r.granules r.isStaging) && s.cribMay r

/-! ### The turn of a request at a point (R64, R312) -/

/-- A request that could be served at the points on its way, that of its memory or link first: its bay, die, queue, whether it is one of
the wicket path, its granules. -/
structure Want where
  bay : Nat
  die : Nat
  queue : Nat
  wicket : Bool
  points : List Nat
  granules : Nat
deriving DecidableEq, Repr

/-- When deficit round robin reaches a request of `size` in queue `q`, in queue visits from the queue under way, `cur`: each visit
adds the queue's weight to its deficit. -/
def drrTime (cur w deficit size q : Nat) : Nat :=
  let off := (q + 6 - cur) % 6
  let need := (size - deficit + (max 1 w - 1)) / max 1 w
  if off = 0 then 6 * need else 6 * (need - 1) + off

/-- Visits that a queue has had by a time. -/
def drrVisits (cur q t : Nat) : Nat :=
  let off := (q + 6 - cur) % 6
  if off = 0 then t / 6 else if t < off then 0 else (t - off) / 6 + 1

/-- The round robin of a bay at a point on a die. -/
def State.drrOf (s : State) (b die point : Nat) : Nat × List Nat :=
  ((findKey Prod.fst (s.bay b).work.drr (36 * die + point)).map Prod.snd).getD (0, List.replicate 6 0)

/-- The queues, numbered from 0 for queue 2, with a request, each with the size of its oldest. -/
def drrHeads (ws : List Want) : List (Nat × Nat) :=
  (List.range 6).filterMap fun q => (ws.find? fun w => w.queue == q + 2).map fun w => (q, w.granules)

/-- Among a bay's requests at a point on a die, the queue taken next (R312): 0, then 1, then 2 to 7 by deficit round robin with the
bay's weights. -/
def State.nextQueue (s : State) (b die point : Nat) (ws : List Want) : Option Nat :=
  if ws.any fun w => w.queue == 0 then some 0
  else if ws.any fun w => w.queue == 1 then some 1
  else
    let (cur, ds) := s.drrOf b die point
    (leastBy (fun (h : Nat × Nat) => drrTime cur (natAt (s.bay b).work.weights h.1) (natAt ds h.1) h.2 h.1) (drrHeads ws)).map
      fun h => h.1 + 2

/-- The round robin at a point moved on by a request that is taken (R312): every queue visited on the way has gained its weight, the one
taken has spent the request's granules, and an empty queue keeps no deficit. -/
def State.drrTakeAt (s : State) (w : Want) (ws : List Want) (point : Nat) : State :=
  if w.queue < 2 then s
  else
    let (cur, ds) := s.drrOf w.bay w.die point
    let q := w.queue - 2
    let weight := natAt (s.bay w.bay).work.weights
    let heads := drrHeads (ws.filter fun x => x.bay == w.bay && x.die == w.die && x.points.contains point)
    let t := drrTime cur (weight q) (natAt ds q) w.granules q
    let ds := items 6 fun i =>
      if heads.any fun h => h.1 == i then natAt ds i + drrVisits cur i t * weight i - (if i = q then w.granules else 0) else 0
    s.modBay w.bay fun y => { y with work := { y.work with drr := putKey Prod.fst (36 * w.die + point, q, ds) y.work.drr } }

/-- The same at every point on its way. -/
def State.drrTake (s : State) (w : Want) (ws : List Want) : State := w.points.foldl (fun s p => State.drrTakeAt s w ws p) s

/-- Whether the next command slot of a silo is one reserved for wicket reads and some wait there (R317, R440). -/
def State.slotDue (s : State) (point : Nat) (l : List Want) : Bool := natAt s.dp.slots point == 15 && l.any Want.wicket

/-- Whether it is a request's turn at a point among those there: in a reserved slot of a silo, among those of the wicket path (R317);
the regulator has chosen its bay (R64, R66), and the engine of its die its queue (R312). -/
def State.turnAt (s : State) (w : Want) (l : List Want) (point : Nat) : Bool :=
  let due := s.slotDue point (w :: l)
  let there := (w :: l).filter fun x => !due || x.wicket
  (!due || w.wicket) && s.nextBay point (there.map fun x => (x.bay, x.wicket)) == some w.bay &&
    s.nextQueue w.bay w.die point (there.filter fun x => x.bay == w.bay && x.die == w.die) == some w.queue

/-- Whether it is a request's turn at the first point on its way. -/
def State.turnFirst (s : State) (rivals : List Want) (w : Want) : Bool :=
  w.points.head?.all fun p => s.turnAt w (rivals.filter fun x => x.points.contains p) p

/-- Whether it is a request's turn at every point on its way (R64, R312): at a further one among those whose turn it is at their first
(DESIGN CHOICE, log 167). -/
def State.turn (s : State) (w : Want) (rivals : List Want) : Bool :=
  s.turnFirst rivals w && (w.points.drop 1).all fun p =>
    s.turnAt w (rivals.filter fun x => x.points.contains p && s.turnFirst rivals x) p

/-! ### Issue -/

/-- A request at the points on its way; one that passes none takes no turn. -/
def wantAt (b die queue : Nat) (wicket : Bool) (points : List Nat) (g : Nat) : Option Want :=
  if points.isEmpty then none else some ⟨b, die, queue, wicket, points, g⟩

/-- What an access of a bay wants at the points on its way. -/
def State.accessWant (s : State) (b die queue home addr g : Nat) (isWrite : Bool) : Option Want :=
  wantAt b die queue false (s.accessPoints b die home addr isWrite) g

/-- What a waiting read wants at the points on its way. -/
def State.wantOf (s : State) (r : Read) : Option Want := wantAt r.bay r.die r.queue r.isWicket (s.readPoints r) r.granules

/-- The reads that wait and that everything but their turn lets through. -/
def State.ready (s : State) : List Read := s.dp.reads.filter fun r => !r.started && s.readMay r

/-- The queue of copies to and from the host (DESIGN CHOICE, log 153). -/
def copyQueue : Nat := 4

/-- The queue of a write (R312, R313): its context's, that of moves, that of copies from the host, or that of spill. -/
def State.writeQueue (s : State) (w : Write) : Nat :=
  match w.for_ with
  | .copy c => ((s.context c).map Context.queue).getD 4
  | .move _ => 6
  | .copyIn _ => copyQueue
  | .spillRow .. | .spillPiece _ => 1

/-- What a waiting write wants, if its points let it through. -/
def State.writeWant (s : State) (w : Write) : Option Want :=
  let h := s.homeOf w.bay w.die w.space w.addr
  if w.spilled.isNone && s.accessMay w.bay w.die h.1 h.2 w.data.length true then
    s.accessWant w.bay w.die (s.writeQueue w) h.1 h.2 w.data.length true
  else none

/-- The reads and writes that wait to be served. -/
def State.wants (s : State) : List Want := s.ready.filterMap s.wantOf ++ s.dp.writes.filterMap s.writeWant

/-! ### Accesses made at once -/

/-- Whether a bay has been charged more at a point between two states. -/
def State.tookMore (s s' : State) (b p : Nat) : Bool := decide (natAt (s.bay b).core.served p < natAt (s'.bay b).core.served p)

/-- Whether what a bay's work does at once, from `s` to `s'`, may be done now: at each point where it is charged the bay is below its cap,
or within its debt on the wicket path, and is the one served next (R64, R66, R67, R72); the ridge has room (R69, R513, R514); and for what
it reads a silo and a loft port have a tag (R314, R458). Its accesses then go together (DESIGN CHOICE, log 188). -/
def State.within (s s' : State) (b : Nat) (reads wicket : Bool) : Bool :=
  let rivals := s.wants
  (List.range 36).all fun p => !s.tookMore s' b p ||
    (s.nextBay p ((b, wicket) :: (rivals.filter fun w => w.points.contains p).map fun w => (w.bay, w.wicket)) == some b &&
      (if p = 16 || p = 17 then (s.link 0).room 1 1 && (s.link 0).room 2 1
       else if !reads then true
       else if p < 12 then s.tagsFit b (siloDie p) 1 1
       else if p < 16 then decide (s.loftTags (p - 12) < 1024)
       else true))

/-- What a bay's work does at once, or nothing until it may be done. -/
def State.inBudget (s : State) (b : Nat) (reads : Bool) (s' : State) : State := if s.within s' b reads false then s' else s

/-- A command whose accesses go together: it waits until they may be made (R64, R67). At the Commit of a spanned command they are made in
any case (DESIGN CHOICE, log 188). -/
def paced (reads : Bool) (run : Ctx → State → Result) (c : Ctx) (s : State) : Result :=
  let r := run c s
  if c.commit || s.within r.2 c.bay reads false then r else park c s

/-- The crib space that the data of a read takes when it is issued: of a row slot that has none, of a COPY piece that comes back, and of
a fused operand row, before which staged copies give way (R319, R336, R381). -/
def State.slotTake (s : State) (r : Read) : State :=
  match r.purpose with
  | .fuse .. => s.discardCrib r.bay r.die r.granules
  | .reloadPiece id => match r.ctx.bind s.context with
    | some x =>
      let s := s.cribTake x.no (x.slotsFor r.granules)
      { s with dp.writes := s.dp.writes.map fun w => if w.id = id then { w with took := x.slotsFor r.granules } else w }
    | none => s
  | .row no k slot | .reload no k slot => match s.slotAt no k slot, r.ctx.bind s.context with
    | some y, some x =>
      let n := x.slotsFor y.granules
      if 0 < y.took then s else (s.cribTake x.no n).modSlot no k slot fun y => { y with took := n }
    | some y, none =>
      let n := s.rowSlot no k
      if 0 < y.took then s else (s.discardCrib r.bay r.die n).modSlot no k slot fun y => { y with took := n }
    | _, _ => s
  | _ => s

/-- A waiting read is issued (R314): it takes what it needs in one step (R736), is charged to its bay, and a request leaves. Its
timeout starts now (R330, R737). One for a place to which nothing is issued brings chaff alone. -/
def State.startRead (s : State) (r : Read) (rivals : List Want) : State :=
  let dead := s.readDead r
  let s := match s.wantOf r with
    | some w => s.drrTake w (w :: rivals)
    | none => s
  let s := s.slotTake r
  let late := r.space == 2 || r.space == 3
  let s : State := { s with dp.reads := s.dp.reads.map fun x => if x.id = r.id then
    { x with started := true, issued := s.dev.now, timeout := if late then some (s.timeoutAt x.bay) else none, outside := x.outside || dead } else x }
  if r.space = 3 then s.sendRequest r.id r.isWicket
  else if r.outside then s
  else
    let h := s.homeOf r.bay r.die r.space r.addr
    let s' := s.chargeAccess r.bay r.die h.1 h.2 r.granules false
    if r.isWicket then s.withDebt r.bay s' else s'

/-- Waiting reads issued in turn as far as they can be, beside other requests that could be served; the first argument bounds
their number. -/
def State.serveReads (heads : State → List Want) : Nat → State → State
  | 0, s => s
  | n + 1, s =>
    let ready := s.ready
    let rivals := s.wants ++ heads s
    match ready.find? fun r => (s.wantOf r).all fun w => s.turn w rivals with
    | none => s
    | some r => State.serveReads heads n (s.startRead r rivals)

/-! ### Copies of a row that a commit invalidates (R47, R325) -/

/-- Whether some position of a section that has not been folded names a row slot. -/
def State.slotNeeded (s : State) (no k : Nat) (g : Section) (slot : Nat) : Bool :=
  match g.window with
  | none => true
  | some m => m.zipIdx.any fun p => p.1.slot == slot && p.1.kind != 3 && !s.posFolded no k g p.2

/-- The row slots of a bay that hold, or wait for, a copy of what was written: sheaf, section, slot. -/
def State.staleSlots (s : State) (b table : Nat) (stale : RowSlot → Bool) : List (Nat × Nat × RowSlot) :=
  (s.dp.sheafs.filter fun x => x.bay == b).flatMap fun x => (x.sections.zipIdx.filter fun g => g.1.table == table).flatMap
    fun g => (g.1.slots.filter fun r => !r.released && (r.home == 1 || r.home == 2) && stale r &&
      (r.data.isSome || r.spilled.isSome || s.dp.reads.any fun q => q.purpose == .row x.no g.2 r.slot && q.space == 5)).map fun r => (x.no, g.2, r)

/-- A copy in a row slot or in the spill area invalidated: a read that would bring the old bytes is dropped, and so is their way to the
spill area; where a position still needs the row, it is fetched again under its original entry. -/
def State.refetch (s : State) (b no k : Nat) (r : RowSlot) : State :=
  let needed := ((s.sheaf no).bind fun x => x.sections[k]?).any fun g => s.slotNeeded no k g r.slot
  let s := s.modSlot no k r.slot fun y => { y with data := none, spilled := none, chaffed := false }
  let s := s.dropReads fun q => (q.purpose == .row no k r.slot && q.space == 5) || q.purpose == .reload no k r.slot
  let s : State := { s with dp.writes := s.dp.writes.filter fun w => w.for_ != .spillRow no k r.slot }
  if !needed then s
  else if r.ctx = noCtx then
    s.putRead b (((s.sheaf no).map fun x => x.crew / 16).getD 0) none 2 false (.row no k r.slot) r.home r.addr r.granules 0 false
  else
    s.putRead b (ctxDie r.ctx) (some r.ctx) (((s.context r.ctx).map Context.queue).getD 2) false (.row no k r.slot) r.home r.addr
      r.granules 0 false

/-- Row slots with a copy of what a flail or a command has written are invalidated, and fetched again if still needed. -/
def State.snoopWhere (s : State) (b table : Nat) (stale : RowSlot → Bool) : State :=
  (s.staleSlots b table stale).foldl (fun s h => State.refetch s b h.1 h.2.1 h.2.2) s

def State.snoop (s : State) (b table row : Nat) : State := s.snoopWhere b table fun r => r.row == row

/-- The same for the default row of a table, which lies at `addr` in silo space (R174). -/
def State.snoopDefault (s : State) (b table addr : Nat) : State := s.snoopWhere b table fun r => r.home == 1 && r.addr == addr

/-- The effects of a ROW_WRITE commit on prefetched and staged copies and on the hot set (R178, R184, R369). -/
def State.rowCommitted (s : State) (b table row : Nat) : State := ((s.dropCopies b table row).dropStaged b table row).snoop b table row

end Sys2Proof.Machine
end

