-- ==== Sys2Proof/Machine/TableCmd.lean ====
section
/-! DEFINITION. The table and directory group of commands (R148 to R199), but for TIER_MIGRATE and TIER_REBUILD. -/

namespace Sys2Proof.Machine

/-- The entry of a table command: a bay session, its bay OPEN (R198). -/
def openSpec (op : Nat) (lens : Caller → List Byte → Option Nat) : CmdSpec :=
  { op := op, b := true, states := [.opened], lens := lens }

/-- A table of the caller's bay that is not being destroyed. -/
def Ctx.tab (c : Ctx) (s : State) (off : Nat) : Option Tab := (s.table c.bay (u16At c.p off)).filter fun t => t.life != .destroying

/-- The fields of a command on a table, then its body. -/
def onTable (c : Ctx) (s : State) (off : Nat) (more : Tab → List (Nat × Bool)) (k : Tab → Result) : Result :=
  match c.tab s off with
  | none => c.fields s ((off, false) :: []) (fail .range off s)
  | some t => c.fields s (more t) (k t)

/-! ### TABLE_CREATE, TABLE_DESTROY, TABLE_QUERY -/

/-- The descriptor in a payload (R148). -/
def descAt (p : List Byte) : Desc :=
  let f := u8At p 6
  { id := u16At p 0, dim := u16At p 2, tiers := u8At p 4, mode := u8At p 5, indexSigned := bit f 0, partialPool := bit f 1,
    relaxed := bit f 2, defaultConfigured := bit f 3, gradAccumulate := bit f 4, frozen := bit f 5, emptySet := bit f 6,
    stalenessK := u8At p 7, rows := u64At p 8, emptyValue := u32At p 16 }

def Desc.bytes (d : Desc) : List Byte :=
  leBytes 2 d.id ++ leBytes 2 d.dim ++ leBytes 1 d.tiers ++ leBytes 1 d.mode ++
    leBytes 1 (flag d.indexSigned + 2 * flag d.partialPool + 4 * flag d.relaxed + 8 * flag d.defaultConfigured +
      16 * flag d.gradAccumulate + 32 * flag d.frozen + 64 * flag d.emptySet) ++
    leBytes 1 d.stalenessK ++ leBytes 8 d.rows ++ leBytes 4 d.emptyValue ++ zeros 12

/-- The checks of a descriptor (R148, R150). -/
def descChecks (p : List Byte) : List (Nat × Bool) :=
  let d := descAt p
  [(0, decide (d.id < 4096)), (2, decide (4 ≤ d.dim) && decide (d.dim ≤ 4096) && d.dim % 4 == 0),
   (4, decide (1 ≤ d.tiers) && decide (d.tiers ≤ 4)), (5, decide (d.mode ≤ 4)),
   (6, !bit (u8At p 6) 7 && (!d.gradAccumulate || d.defaultConfigured)),
   (7, if d.relaxed then decide (1 ≤ d.stalenessK) else d.stalenessK == 0), (8, decide (1 ≤ d.rows) && decide (d.rows ≤ 2 ^ 40)),
   (16, if d.emptySet then !isNan32 d.emptyValue else d.emptyValue == 0), (20, zeroAt p 20 12)]

/-- A new table's record (R145, R152, R251, R414), without its storage. -/
def Tab.new (d : Desc) (map : ShardMap) : Tab :=
  { desc := d, life := .live, points := List.replicate 5 Point.initial, pool := PoolCfg.initial, opt := OptRec.initial,
    segments := [], defRow := none, defState := none, counters := TabCounters.zero, map := map, prevMap := none,
    epochHigh := none, epochs := [], epochRanges := [], rebuild := none, destroyBefore := 0 }

/-- Runs of silo space filled with zeros, charged to the bay. -/
def State.zeroRuns (s : State) (b : Nat) (rs : List Run) : State :=
  rs.foldl (fun s (r : Run) =>
    (s.zero .silo b 0 r.first r.len).chargeAccess b (siloDie (((s.bay b).space.siloOf r.first).getD 0)) 1 r.first r.len true) s

/-- Blocks allocated in a bay's silo space for `bytes` bytes. -/
def State.allocBytes (s : State) (b bytes : Nat) : Option (List Run × State) :=
  let n := blocksFor bytes
  match allocBlocks (List.range 12) (n + 1) n (s.bay b).space with
  | some (rs, sp) => some (rs, (s.modBay b fun y => { y with space := sp }).zeroRuns b rs)
  | none => none

/-- Bytes of a state record of a table's optimiser (R416). -/
def stateBytes (d : Desc) (o : OptRec) : Nat :=
  let m := 64 * granulesOf (momentBytes d.dim)
  match o.kind with
  | 1 | 2 => m
  | 3 => 64
  | 4 => 2 * m
  | _ => 0

/-- The zero form of a state record (R143, R416): zero codes with block scales of 1.0; all zero for row-wise Adagrad. -/
def zeroState (d : Desc) (o : OptRec) : List Byte :=
  let row := padTo 64 (zeros d.dim ++ (items ((d.dim + 31) / 32) fun _ => leBytes 4 f32One).flatten)
  match o.kind with
  | 1 | 2 => row
  | 3 => zeros 64
  | 4 => row ++ row
  | _ => []

/-- Bytes of whole granules written to granules of a bay's silo space that need not lie side by side. -/
def State.writeGranules (s : State) (b : Nat) (l : List Nat) (data : List Byte) : State :=
  (l.zip (chunks 64 data)).foldl (fun s x => (s.write .silo b 0 (64 * x.1) x.2).heal .silo b 0 x.1 1) s

/-- A directory segment of a range, with its state segment (R163, R416). Its state records hold the zero form. -/
def State.allocSegment (s : State) (b : Nat) (d : Desc) (o : OptRec) (start rows : Nat) : Option (Segment × State) :=
  match s.allocBytes b (8 * rows) with
  | none => none
  | some (dir, s) =>
    let n := stateBytes d o
    if n = 0 then some (⟨start, rows, dir, []⟩, s)
    else match s.allocBytes b (n * rows) with
      | none => none
      | some (st, s) =>
        let z := zeroState d o
        let s := if o.kind = 3 then s else
          (List.range rows).foldl (fun s i => s.writeGranules b (runGranules st (n * i) n) z) s
        some (⟨start, rows, dir, st⟩, s)

/-- The configured default row under T0's settings, allocated and filled with the encoding of zero (R174). -/
def State.allocDefault (s : State) (b : Nat) (t : Tab) : Option (Tab × State) :=
  if !t.desc.defaultConfigured then some (t, s)
  else match s.allocRow b 1 (t.rowGranules 0) with
    | none => none
    | some (a, s) => some ({ t with defRow := some ⟨a, t.rowGranules 0⟩ }, s.setRow b 1 a (t.zeroRow 0))

def specTableCreate : CmdSpec := openSpec 0x0301 (exactly 32)

/-- The table a descriptor makes, with its directory and default row, over the ranges this package owns; none is
NO_SPACE. -/
def State.createTable (s : State) (b : Nat) (d : Desc) (map : ShardMap) (ranges : List (Nat × Nat)) : Option State :=
  let t := Tab.new d map
  let segs := ranges.foldl (fun acc r => match acc with
    | none => none
    | some ((l : List Segment), s) => match State.allocSegment s b d t.opt r.1 r.2 with
      | some (g, s) => some (l ++ [g], s)
      | none => none) (some ([], s))
  match segs with
  | none => none
  | some (l, s) => match s.allocDefault b { t with segments := l } with
    | some (t, s) => some (s.putTable b t)
    | none => none

/-- R151, R152. -/
def doTableCreate (c : Ctx) (s : State) : Result :=
  let d := descAt c.p
  let old := s.table c.bay d.id
  refuseIf (old.any fun t => t.life == .destroying) .state 0 s <|
  c.fields s (descChecks c.p) <|
  inOrder c s d.id false <|
  refuseIf old.isSome .duplicate 0 s <|
    match s.createTable c.bay d ⟨0, [⟨0, d.rows - 1, selfNode, 0⟩]⟩ [(0, d.rows)] with
    | some s => okWith [] s
    | none => fail .noSpace 0 s

def execTableCreate (r : Req) (s : State) : Out := runCommand specTableCreate (paced false doTableCreate) r s

def specTableDestroy : CmdSpec := openSpec 0x0302 (exactly 8)

/-- R156: intake stops at once. -/
def doTableDestroy (c : Ctx) (s : State) : Result :=
  onTable c s 0 (fun _ => [(2, zeroAt c.p 2 6)]) fun t =>
    inOrder c s t.id (t.life == .rebuilding || s.tableMoving c.bay t.id) <|
    spanned c s t <|
      okWith [] (s.putTable c.bay { t with life := .destroying, destroyBefore := s.dev.accepted })

def execTableDestroy (r : Req) (s : State) : Out := runCommand specTableDestroy doTableDestroy r s

def specTableQuery : CmdSpec := openSpec 0x0303 (exactly 8)

def lifeCode : TabLife → Nat
  | .live => 0 | .destroying => 1 | .rebuilding => 2

def doTableQuery (c : Ctx) (s : State) : Result :=
  match s.table c.bay (u16At c.p 0) with
  | none => fail .range 0 s
  | some t =>
    c.fields s [(2, zeroAt c.p 2 6)] <|
      let rows := items 4 fun k => (s.tierRows c.bay t k).length
      okWith (t.desc.bytes ++ rows.flatMap (leBytes 8) ++
        (rows.zipIdx.flatMap fun n => leBytes 8 (n.1 * t.rowGranules n.2)) ++
        leBytes 8 t.counters.defaulted ++ leBytes 8 t.counters.aliased ++ leBytes 8 t.counters.discarded ++
        leBytes 1 (lifeCode t.life) ++ zeros 7) s

def execTableQuery (r : Req) (s : State) : Out := runCommand specTableQuery doTableQuery r s

/-! ### DIR_WRITE, DIR_READ -/

/-- Whether an item's row is in the table and owned by the package (R177, R601). -/
def State.ownRow (s : State) (t : Tab) (row : Nat) : Bool := decide (row < t.desc.rows) && s.owns t.map row

/-- The row indices of a list of 8-byte items. -/
def rowsAt (p : List Byte) (off n : Nat) : List Nat := items n fun i => u64At p (off + 8 * i)

/-- One item of DIR_WRITE (R168, R179). -/
def dirItem (b op row : Nat) (s : State) (t : Tab) : Status × State :=
  if !s.ownRow t row then (.range, s)
  else match s.entry b t row with
    | none => (.range, s)
    | some e =>
      let put := fun (s : State) (e : Entry) => (s.commitEntry b t row e).chargeEntry b t row true
      match op with
      | 0 => if e.valid then (.ok, put s { e with pinned := true }) else (.range, s)
      | 1 =>
        if !e.valid || (e.home = 0 && !e.isAlias) then (.range, s) else (.ok, put s { e with pinned := false })
      | 2 =>
        let pinned := e.valid && e.pinned
        (.ok, (put (s.freeEntry b t e) ⟨0, 0, true, pinned, false, true, e.epoch, 0⟩).dropCopies b t.id row)
      | _ =>
        if e.valid then (.ok, (put (s.freeEntry b t e) ⟨0, 0, false, false, false, false, e.epoch, 0⟩).dropCopies b t.id row)
        else (.ok, s)

/-- Items done in order, each with its status. -/
def eachItem {α : Type} (f : α → State → Status × State) : List α → State → List Status × State
  | [], s => ([], s)
  | a :: l, s =>
    let (st, s) := f a s
    let (sts, s) := eachItem f l s
    (st :: sts, s)

/-- Whether any of the rows is under an update, a migration or a hot-set copy (R179, R181, R363). -/
def anyHeld (s : State) (b table : Nat) (rows : List Nat) : Bool := rows.any fun r => s.rowHeld b table r

/-- Whether a read of one of the rows where it lies is under way: a write of it comes after (R440). -/
def anyRead (s : State) (b : Nat) (t : Tab) (rows : List Nat) : Bool :=
  rows.any fun r => (s.entry b t r).any fun e => e.valid && !e.isAlias && s.readBefore b e.home e.addr (t.rowGranules e.tier)

def specDirWrite : CmdSpec := openSpec 0x0304 (counted 8 8 4 2)

def doDirWrite (c : Ctx) (s : State) : Result :=
  onTable c s 0 (fun _ => [(2, decide (u8At c.p 2 ≤ 3)), (3, zeroAt c.p 3 1),
    (4, decide (1 ≤ u16At c.p 4) && decide (u16At c.p 4 ≤ 500)), (6, zeroAt c.p 6 2)]) fun t =>
    let rows := rowsAt c.p 8 (u16At c.p 4)
    inOrder c s t.id (t.life == .rebuilding) <|
    if anyHeld s c.bay t.id rows then park c s
    else
      let (sts, s) := eachItem (fun r s => dirItem c.bay (u8At c.p 2) r s t) rows s
      okWith (statusBody sts) s

def execDirWrite (r : Req) (s : State) : Out := runCommand specDirWrite (paced false doDirWrite) r s

def specDirRead : CmdSpec := openSpec 0x0305 (counted 8 8 2 2)

/-- One item of DIR_READ (R199): its status and entry. -/
def dirReadItem (b row : Nat) (s : State) (t : Tab) : (Status × Nat) × State :=
  if !s.ownRow t row then ((.range, 0), s)
  else match t.segmentOf row with
    | none => ((.range, 0), s)
    | some g =>
      let s := s.chargeEntry b t row false
      if s.entryBad b t row then ((.faulted, 0), s.siloBad b (g.entryByte row / 64))
      else ((.ok, ((s.entry b t row).map Entry.word).getD 0), s)

def eachRead {α β : Type} (f : α → State → β × State) : List α → State → List β × State
  | [], s => ([], s)
  | a :: l, s =>
    let (x, s) := f a s
    let (xs, s) := eachRead f l s
    (x :: xs, s)

def doDirRead (c : Ctx) (s : State) : Result :=
  onTable c s 0 (fun _ => [(2, decide (1 ≤ u16At c.p 2) && decide (u16At c.p 2 ≤ 250)), (4, zeroAt c.p 4 4)]) fun t =>
    let (xs, s) := eachRead (fun r s => dirReadItem c.bay r s t) (rowsAt c.p 8 (u16At c.p 2)) s
    okWith (statusBody (xs.map Prod.fst) ++ xs.flatMap fun x => leBytes 8 x.2) s

def execDirRead (r : Req) (s : State) : Out := runCommand specDirRead (paced true doDirRead) r s

/-! ### ROW_WRITE, ROW_READ -/

/-- Whether a tier can take rows: one whose record gives split columns needs its list set (R131). -/
def Tab.tierReady (t : Tab) (tier : Nat) : Bool :=
  let p := t.point tier
  p.policy.outlier = 0 || p.policy.splitCount = 0 || p.splits.length = p.policy.splitCount

/-- One row written (R178, R444, R464): the bytes and the saturated columns are already formed. -/
def State.rowWrite (s : State) (b : Nat) (t : Tab) (row tier home : Nat) (data : List Byte) (sat : List Nat) : Status × State :=
  match s.entry b t row with
  | none => (.range, s)
  | some e =>
    let g := granulesOf data.length
    let die := fun (s : State) (a : Nat) =>
      if home = 2 then loftDie (((s.bay b).space.portOf a).getD 0) else siloDie (((s.bay b).space.siloOf a).getD 0)
    let inPlace := e.valid && !e.isAlias && e.tier == tier && e.home == home &&
      !(home == 1 && (s.bay b).space.inRetired e.addr g) && !(home == 2 && (s.bay b).space.lostLoft.contains (e.addr / unitGranules))
    if inPlace then
      let s := (s.setRow b home e.addr data).chargeAccess b (die s e.addr) home e.addr g true
      let s := if s.entryBad b t row then (s.commitEntry b t row e).chargeEntry b t row true else s
      (.ok, (s.rowCommitted b t.id row).countSat b t.id tier sat)
    else match s.allocRow b home g with
      | none => (.noSpace, s)
      | some (a, s) =>
        let s := ((s.setRow b home a data).chargeAccess b (die s a) home a g true).freeEntry b t e
        let s := (s.commitEntry b t row ⟨tier, home, true, e.valid && e.pinned, false, false, e.epoch, a⟩).chargeEntry b t row true
        (.ok, (s.rowCommitted b t.id row).countSat b t.id tier sat)

/-- An item of ROW_WRITE: row, tier, home, and its values in the source. -/
def rowWriteItem (b form : Nat) (x : Nat × Nat × Nat × List Byte) (s : State) (t : Tab) : Status × State :=
  let (row, tier, home, src) := x
  if !s.ownRow t row || t.desc.tiers ≤ tier || !t.tierReady tier || (home != 1 && home != 2) then (.range, s)
  else if form = 1 then s.rowWrite b t row tier home (src.take (t.rowBytes tier)) []
  else
    let (data, sat) := encodeRow (t.point tier) (items t.desc.dim fun j => u32At src (4 * j))
    s.rowWrite b t row tier home data sat

/-- A source cut into the items' values, each rounded up to 8 bytes. -/
def cutSource : List Nat → List Byte → List (List Byte)
  | [], _ => []
  | n :: l, src => src.take n :: cutSource l (src.drop n)

def specRowWrite : CmdSpec := openSpec 0x0306 fun _ p => withBulk 32 8 (16 * u16At p 4) p

def doRowWrite (c : Ctx) (s : State) : Result :=
  let p := c.p
  let n := u16At p 4
  let its := items n fun i => (u64At p (32 + 16 * i), u8At p (40 + 16 * i), u8At p (41 + 16 * i))
  onTable c s 0 (fun t => [(2, decide (u8At p 2 ≤ 1)), (3, zeroAt p 3 1), (4, decide (1 ≤ n) && decide (n ≤ 250)),
      (6, zeroAt p 6 2)] ++ bulkChecks p 8 [1, 2] (s.ringBytes c.bay) ++
      (its.zipIdx.map fun x => (itemDetail x.2, zeroAt p (42 + 16 * x.2) 6)) ++
      (if u8At p 2 = 1 then its.zipIdx.map fun x => (itemDetail x.2, decide (x.1.2.1 < t.desc.tiers)) else [])) fun t =>
    let sizes := its.map fun x => roundUp (if u8At p 2 = 1 then t.rowBytes x.2.1 else 4 * t.desc.dim) 8
    if (bulkAt p 8).length ≠ sumBy id sizes then fail .range 24 s
    else inOrder c s t.id (t.life == .rebuilding) <|
    if anyHeld s c.bay t.id (its.map Prod.fst) || anyRead s c.bay t (its.map Prod.fst) then park c s
    else
      let (src, s) := takeSource c s 8 (32 + 16 * n)
      let (sts, s) := eachItem (fun x s => rowWriteItem c.bay (u8At p 2) x s t)
        ((its.zip (cutSource sizes src)).map fun x => (x.1.1, x.1.2.1, x.1.2.2, x.2)) s
      okWith (statusBody sts) s

def execRowWrite (r : Req) (s : State) : Out := runCommand specRowWrite (paced false doRowWrite) r s

/-- One row read by ROW_READ (R199): status, flags, tier and bytes. -/
def rowReadItem (b form row : Nat) (s : State) (t : Tab) : (Status × Nat × Nat × List Byte) × State :=
  if !s.ownRow t row then ((.range, 0, 0, []), s)
  else
    let s := s.chargeEntry b t row false
    let default := fun (s : State) =>
      let bad := t.desc.defaultConfigured && (t.defRow.any fun r => s.rowBad b 0 1 r.first r.len)
      let n := if form = 1 then 4 * t.desc.dim else t.rowBytes 0
      let data := if form = 1 then (s.defaultValues b t).flatMap (leBytes 4) else s.defaultBytes b t
      ((Status.ok, 1 + 2 * flag bad, 0, if bad then zeros n else data), s)
    if s.entryBad b t row then
      ((.ok, 2, 0, zeros (if form = 1 then 4 * t.desc.dim else t.rowBytes 0)),
        match t.segmentOf row with
        | some g => s.siloBad b (g.entryByte row / 64)
        | none => s)
    else match s.entry b t row with
      | none => default s
      | some e =>
        if !e.valid || e.isAlias then default s
        else if e.home = 3 then ((.range, 0, 0, []), s)
        else
          let g := t.rowGranules e.tier
          let bad := s.rowBad b 0 e.home e.addr g
          let die := if e.home = 2 then loftDie (((s.bay b).space.portOf e.addr).getD 0)
            else siloDie (((s.bay b).space.siloOf e.addr).getD 0)
          let s := (s.chargeAccess b die e.home e.addr g false).reportBad b e.home e.addr g
          let raw := s.rowAt b 0 e.home e.addr (t.rowBytes e.tier)
          let n := if form = 1 then 4 * t.desc.dim else t.rowBytes e.tier
          let data := if form = 1 then (decodeRow (t.point e.tier) t.desc.dim raw).flatMap (leBytes 4) else raw
          ((.ok, 2 * flag bad, e.tier, if bad then zeros n else data), s)

def specRowRead : CmdSpec := openSpec 0x0307 (counted 32 8 4 2)

def doRowRead (c : Ctx) (s : State) : Result :=
  let p := c.p
  let n := u16At p 4
  onTable c s 0 (fun _ => [(2, decide (u8At p 2 ≤ 1)), (3, zeroAt p 3 1), (4, decide (1 ≤ n) && decide (n ≤ 250)),
      (6, zeroAt p 6 2)] ++ bulkChecks p 8 [1, 3] 0) fun t =>
    let (xs, s') := eachRead (fun r s => rowReadItem c.bay (u8At p 2) r s t) (rowsAt p 32 n) s
    let data := xs.flatMap fun x => padTo 16 x.2.2.2
    match destBad c s 8 (8 * n) data.length with
    | some d => fail .range d s
    | none =>
      let (inl, s) := placeDest c s' 8 data
      okWith ((xs.flatMap fun x => leBytes 2 x.1.code ++ leBytes 1 x.2.1 ++ leBytes 1 x.2.2.1 ++ leBytes 4 x.2.2.2.length) ++ inl) s

def execRowRead (r : Req) (s : State) : Out := runCommand specRowRead (paced true doRowRead) r s

/-! ### DEFAULT_ROW_SET -/

def specDefaultRowSet : CmdSpec := openSpec 0x0308 fun _ p => withBulk 32 8 0 p

/-- Whether an update of a table's default row is in progress (R176, R408). -/
def State.defaultHeld (s : State) (b table : Nat) : Bool :=
  s.dp.flails.any fun f => f.entries.any fun e => e.bay == b && e.table == table && e.row == none

/-- R175: the values encoded under T0's settings and written. -/
def doDefaultRowSet (c : Ctx) (s : State) : Result :=
  refuseIf ((c.tab s 0).any fun t => !t.desc.defaultConfigured) .state 0 s <|
  onTable c s 0 (fun _ => [(2, zeroAt c.p 2 6)] ++ bulkChecks c.p 8 [1, 2] (s.ringBytes c.bay)) fun t =>
    if (bulkAt c.p 8).length ≠ 4 * t.desc.dim then fail .range 24 s
    else inOrder c s t.id (t.life == .rebuilding) <|
    if s.defaultHeld c.bay t.id || t.defRow.any fun r => s.readBefore c.bay 1 r.first r.len then park c s
    else spanned c s t <|
      let (src, s) := takeSource c s 8 32
      let (data, sat) := encodeRow (t.point 0) (items t.desc.dim fun j => u32At src (4 * j))
      match t.defRow with
      | some r =>
        let s := (s.setRow c.bay 1 r.first data).chargeAccess c.bay (siloDie (((s.bay c.bay).space.siloOf r.first).getD 0)) 1
          r.first r.len true
        okWith [] ((s.snoopDefault c.bay t.id r.first).countSat c.bay t.id 0 sat)
      | none => okWith [] s

def execDefaultRowSet (r : Req) (s : State) : Out := runCommand specDefaultRowSet (paced false doDefaultRowSet) r s

/-! ### HEAT_SNAPSHOT, HEAT_READ, HEAT_QUERY -/

/-- The sketch's counters written over the snapshot area (R195): row by row, four bytes each (DESIGN CHOICE, log 146). -/
def State.storeSnapshot (s : State) (b a : Nat) (l : List (Nat × Nat)) : State :=
  l.foldl (fun s c => State.write s .silo b 0 (64 * a + 4 * c.1) (leBytes 4 c.2)) (s.zero .silo b 0 a mibGranules)

/-- R195: the sketch copied to the snapshot area and the action applied at one instant; the copy is charged. The sequence number
that follows 2^32 - 1 is 0, at which HEAT_READ finds no snapshot (DESIGN CHOICE, log 147). -/
def State.snapshot (s : State) (b action : Nat) : State :=
  let s := s.modBay b fun y =>
    let h := y.heat
    { y with heat :=
      { live := match action with
          | 1 => []
          | 2 => (h.live.map fun c => (c.1, c.2 / 2)).filter fun c => c.2 != 0
          | _ => h.live
        snapSeq := (h.snapSeq + 1) % 2 ^ 32
        snap := h.live } }
  let a := s.areaBase b 0 + s.ringBytes b / 64
  (s.storeSnapshot b a (s.bay b).heat.snap).chargeAccess b (siloDie (((s.bay b).space.siloOf a).getD 0)) 1 a mibGranules true

def specHeatSnapshot : CmdSpec := openSpec 0x030B (exactly 8)

def doHeatSnapshot (c : Ctx) (s : State) : Result :=
  c.fields s [(0, decide (u8At c.p 0 ≤ 2)), (1, zeroAt c.p 1 7)] <|
    let s := s.snapshot c.bay (u8At c.p 0)
    okWith (leBytes 4 (s.bay c.bay).heat.snapSeq ++ zeros 4) s

def execHeatSnapshot (r : Req) (s : State) : Out := runCommand specHeatSnapshot (paced false doHeatSnapshot) r s

def specHeatRead : CmdSpec := openSpec 0x030C (exactly 16)

/-- R196: a sequence number that is not the latest snapshot's, or none at all, is STATE. -/
def doHeatRead (c : Ctx) (s : State) : Result :=
  let p := c.p
  let h := (s.bay c.bay).heat
  refuseIf (h.snapSeq = 0 || u32At p 0 ≠ h.snapSeq) .state 0 s <|
  c.fields s [(4, decide (u8At p 4 ≤ 3)), (5, zeroAt p 5 3), (8, decide (u32At p 8 < 65536)),
      (12, decide (1 ≤ u32At p 12) && decide (u32At p 12 ≤ 1000) && decide (u32At p 8 + u32At p 12 ≤ 65536))] <|
    okWith (leBytes 4 h.snapSeq ++ leBytes 4 (u32At p 12) ++
      (items (u32At p 12) fun i => leBytes 4 (heatGet h.snap (65536 * u8At p 4 + u32At p 8 + i))).flatten) s

def execHeatRead (r : Req) (s : State) : Out := runCommand specHeatRead doHeatRead r s

def specHeatQuery : CmdSpec := openSpec 0x030D (counted 8 8 0 2)

def doHeatQuery (c : Ctx) (s : State) : Result :=
  let p := c.p
  let n := u16At p 0
  c.fields s ([(0, decide (1 ≤ n) && decide (n ≤ 256)), (2, zeroAt p 2 6)] ++
      (items n fun i => (itemDetail i, bits (u64At p (8 + 8 * i)) 52 12 == 0))) <|
    let l := (s.bay c.bay).heat.live
    okWith (items n fun i =>
      let k := u64At p (8 + 8 * i)
      leBytes 4 ((List.range 4).foldl (fun m j => min m (heatGet l (heatIndex j (bits k 40 12) (bits k 0 40)))) (2 ^ 32 - 1))).flatten s

def execHeatQuery (r : Req) (s : State) : Out := runCommand specHeatQuery doHeatQuery r s

end Sys2Proof.Machine
end

