-- ==== Sys2Proof/Machine/QuantCmd.lean ====
section
/-! DEFINITION. The quantisation commands (R111, R131, R135, R145 to R147, R175, R604) and the accumulation domain of a
table (R114). -/

namespace Sys2Proof.Machine

/-! ### Domain and rescale in force -/

/-- The effective scales and zero points of a point, and its split list: what R114 compares. -/
def Tab.tierKey (t : Tab) (k : Nat) : Nat × List Nat × List Int × List Nat :=
  let p := t.point k
  (codeOfFmt p.policy.format, items t.desc.dim (effScale p.policy.storage p.scales), items t.desc.dim (zpAt p.scales), p.splits)

/-- Whether a table's bags accumulate in INT48 (R114). -/
def Tab.int48 (t : Tab) : Bool :=
  decide (t.desc.mode ≤ 1) && isIntFmt (t.point 0).policy.format &&
    (List.range t.desc.tiers).all fun k => t.tierKey k == t.tierKey 0

/-- The explicit records in force: of an output whose discovery is off (R121). Settings of form 0 or 1 that come after them leave
them in force (DESIGN CHOICE, log 144). -/
def Point.explicitNow (p : Point) : List Rescale := if p.policy.discovery = 0 then p.explicit else []

/-- M, S and zero point of an output column (R118, R121, R604): explicit, or derived from the scales in force. -/
def Tab.rescaleAt (t : Tab) (out : Scales) (c : Nat) : Rescale :=
  let p := t.point 4
  match p.explicitNow[c]? with
  | some r => r
  | none =>
    let q := t.point 0
    let (m, k) := deriveRescale (effScale q.policy.storage q.scales c) (effScale p.policy.storage out c)
    ⟨m, k, zpAt out c⟩

/-! ### Changing a point -/

/-- Whether a tier holds no rows (R146). -/
def State.tierEmpty (s : State) (b : Nat) (t : Tab) (tier : Nat) : Bool := (s.tierRows b t tier).isEmpty

/-- The state condition of the setting commands (R146): an output always; a tier that holds no rows and no rebuild runs. -/
def State.pointFree (s : State) (b : Nat) (t : Tab) (target : Nat) : Bool :=
  target == 4 || (t.life != .rebuilding && s.tierEmpty b t target)

/-- Scale data of a point in its storage form (R223, R604). -/
def scaleData (p : Policy) (d : Nat) (sc : Scales) : List Byte :=
  if !isScaled p.format then []
  else
    (if p.storage = 1 then (items d fun j => leBytes 1 (sc.codes.getD j 0x38)).flatten ++ leBytes 4 sc.s2
     else (items d fun j => leBytes 4 (sc.direct.getD j f32One)).flatten) ++
    (if isIntFmt p.format then (items d fun j => leBytes 1 (unsignedOf 8 (zpAt sc j))).flatten else [])

/-- Entries of a codebook, and bytes of a tier's codebooks (R111). -/
def bookEntries (f : Fmt) : Nat := if f = .cb4 then 16 else 256
def booksBytes (f : Fmt) (d : Nat) : Nat := (d + 31) / 32 * (2 * bookEntries f)

/-- What a tier keeps in the bay's silo space beside its rows (R59): the scale and zero-point vectors of its side tensor in their
storage form (R110), or its codebooks in group order (DESIGN CHOICE, log 145: the layout). -/
def Point.sideBytes (p : Point) (d : Nat) : List Byte :=
  if isCodebook p.policy.format then
    (items ((d + 31) / 32) fun g => (items (bookEntries p.policy.format) fun i =>
      leBytes 2 (natAt (p.codebooks.getD g []) i)).flatten).flatten
  else scaleData p.policy d p.scales

/-- The sizes of the pieces, of at most a block, that hold `g` granules. -/
def pieceSizes (g : Nat) : List Nat :=
  List.replicate (g / blockGranules) blockGranules ++ (if g % blockGranules = 0 then [] else [g % blockGranules])

/-- One more piece of `n` granules of silo space, after those there are. -/
def State.allocPiece (b : Nat) (o : Option (List Run × State)) (n : Nat) : Option (List Run × State) :=
  match o with
  | none => none
  | some (rs, s) => match s.allocRow b 1 n with
    | none => none
    | some (a, s) => some (rs ++ [⟨a, n⟩], s)

/-- Silo space for `g` granules in pieces. -/
def State.allocPieces (s : State) (b g : Nat) : Option (List Run × State) :=
  (pieceSizes g).foldl (State.allocPiece b) (some ([], s))

/-- Bytes written over runs of a bay's silo space, charged to the bay. -/
def State.fillRuns (b : Nat) : List Run → List Byte → State → State
  | [], _, s => s
  | r :: rs, data, s =>
    State.fillRuns b rs (data.drop (64 * r.len)) <|
      (s.setRow b 1 r.first (data.take (64 * r.len))).chargeAccess b (siloDie (((s.bay b).space.siloOf r.first).getD 0)) 1 r.first r.len true

/-- A tier's side tensor or codebooks stored anew for its settings; the space of the old ones waits for the sheafs accepted so
far (R147, R180). None is NO_SPACE. -/
def State.placeSide (s : State) (b d : Nat) (old p : Point) : Option (Point × State) :=
  let data := p.sideBytes d
  if old.side != [] && old.sideBytes d == data then some ({ p with side := old.side }, s)
  else
    let n := granulesOf data.length
    match s.allocPieces b n with
    | none => none
    | some (rs, s) =>
      let s := s.modBay b fun y => { y with space := old.side.foldl (fun sp r => Space.freeSilo sp r s.dev.accepted) y.space }
      some ({ p with side := rs }, State.fillRuns b rs data s)

/-- A point's new settings put in force. A tier's side tensor or codebooks are stored anew, and a change of T0's settings
re-encodes a configured default row at its new size (R175); none is NO_SPACE. -/
def State.changePoint (s : State) (b : Nat) (t : Tab) (target : Nat) (p : Point) : Option State :=
  if target = 4 then some (s.putTable b (t.setPoint 4 p))
  else match s.placeSide b t.desc.dim (t.point target) p with
    | none => none
    | some (p, s) =>
      let t' := t.setPoint target p
      match target, t.defRow with
      | 0, some old =>
        let vals := decodeRow (t.point 0) t.desc.dim (s.read .silo b 0 (64 * old.first) (t.rowBytes 0))
        let (data, sat) := encodeRow p vals
        match s.allocRow b 1 (t'.rowGranules 0) with
        | none => none
        | some (a, s) =>
          let s := (s.setRow b 1 a data).modBay b fun y => { y with space := y.space.freeSilo old s.dev.accepted }
          some ((s.putTable b { t' with defRow := some ⟨a, t'.rowGranules 0⟩ }).countSat b t.id 0 sat)
      | _, _ => some (s.putTable b t')

/-- A change of a point, on every package that the table's map names. -/
def putPoint (c : Ctx) (s : State) (t : Tab) (target : Nat) (p : Point) : Result :=
  if target = 0 && s.defaultHeld c.bay t.id then park c s
  else spanned c s t <|
    match s.changePoint c.bay t target p with
    | some s => okWith [] s
    | none => fail .noSpace 0 s

/-- Fields of a command on a target of a table; `state` is the command's own state condition. It takes effect after the commands
accepted before it that change the table, moves of its rows among them (R589). -/
def onTarget (c : Ctx) (s : State) (target : Nat) (state : Tab → Bool) (more : Tab → List (Nat × Bool)) (k : Tab → Result) :
    Result :=
  inOrder c s (u16At c.p 0) (target != 4 && s.tableMoving c.bay (u16At c.p 0)) <|
  refuseIf ((c.tab s 0).any fun t => (decide (target < t.desc.tiers) || target == 4) && !state t) .state 0 s <|
  onTable c s 0 more k

/-! ### QUANT_SET_POLICY -/

/-- The policy record at an offset (R145). -/
def policyAt (p : List Byte) (o : Nat) : Policy :=
  { format := (fmtOfCode (u8At p (o + 1))).getD .bf16, storage := u8At p (o + 2), discovery := u8At p (o + 3),
    history := u8At p (o + 4), margin := u8At p (o + 5), outlier := u8At p (o + 6), splitCount := u8At p (o + 7),
    satPolicy := u8At p (o + 8), symmetric := bit (u8At p (o + 9)) 0, satThreshold := u32At p (o + 12) }

/-- The checks of a policy record for a table of `tiers` tiers (R95, R101, R145). -/
def policyChecks (p : List Byte) (o tiers : Nat) : List (Nat × Bool) :=
  let t := u8At p o
  let q := policyAt p o
  let out := t == 4
  [(o, decide (t < tiers) || out), (o + 1, (fmtOfCode (u8At p (o + 1))).any fun f => !out || legalOutput f),
   (o + 2, decide (q.storage ≤ 1) && (isScaled q.format || q.storage == 0)),
   (o + 3, decide (q.discovery ≤ 2) && (isScaled q.format || q.discovery == 0)),
   (o + 4, if q.discovery = 1 then decide (1 ≤ q.history) && decide (q.history ≤ 16) else q.history == 0),
   (o + 5, decide (q.margin ≤ 7)), (o + 6, decide (q.outlier ≤ 1) && (!out || q.outlier == 0)),
   (o + 7, decide (q.splitCount ≤ 64) && (q.outlier == 1 || q.splitCount == 0)),
   (o + 8, decide (q.satPolicy ≤ 1) && (out || q.satPolicy == 0)),
   (o + 9, decide (u8At p (o + 9) ≤ 1) && (isIntFmt q.format || !q.symmetric)), (o + 10, zeroAt p (o + 10) 2),
   (o + 16, zeroAt p (o + 16) 16)]

/-- The point of a target after its record is replaced (R131, R146). Scales that a rebuild discovered stay when the record turns discovery
off (R123 names those set, R128 and R146 change none: DESIGN CHOICE, log 194). -/
def Point.withPolicy (p : Point) (target d : Nat) (q : Policy) : Point :=
  let keepList := q.outlier = p.policy.outlier && q.splitCount = p.policy.splitCount
  let p' := { p with policy := q, splits := if keepList then p.splits else [] }
  let p' := if q.format = p.policy.format && q.storage = p.policy.storage && q.symmetric = p.policy.symmetric then p'
    else { p' with scales := Scales.initial, explicit := [], codebooks := [], found := none }
  if target = 4 then p'.discovered d else p'

def specQuantSetPolicy : CmdSpec := openSpec 0x0801 (exactly 40)

def doQuantSetPolicy (c : Ctx) (s : State) : Result :=
  let target := u8At c.p 8
  onTarget c s target (fun t => s.pointFree c.bay t target) (fun t => [(2, zeroAt c.p 2 6)] ++ policyChecks c.p 8 t.desc.tiers)
    fun t => putPoint c s t target ((t.point target).withPolicy target t.desc.dim (policyAt c.p 8))

def execQuantSetPolicy (r : Req) (s : State) : Out := runCommand specQuantSetPolicy (paced false doQuantSetPolicy) r s

/-! ### QUANT_SET_SCALES (R105 to R109, R604) -/

def signed8 (n : Nat) : Int := signedOf 8 n

/-- Bytes of scale data in a form for `d` columns. -/
def scaleBytes (p : Policy) (d form : Nat) : Nat :=
  let z := if isIntFmt p.format then d else 0
  match form with
  | 0 => 4 * d + z
  | 1 => d + 4 + z
  | _ => 8 * d

/-- Whether a zero point is in the format's range, and 0 for a symmetric point (R105). -/
def zpOk (p : Policy) (z : Int) : Bool :=
  let (lo, hi) := intLimits p.format false
  decide (lo ≤ z) && decide (z ≤ hi) && (!p.symmetric || z == 0)

/-- Offset of the first byte of scale data that breaks a rule. -/
def scaleBad (p : Policy) (d form : Nat) (data : List Byte) : Option Nat :=
  let zAt := fun (base : Nat) => if isIntFmt p.format then items d fun j => (base + j, zpOk p (signed8 (u8At data (base + j)))) else []
  firstBad <| match form with
    | 0 => (items d fun j => (4 * j, scaleOk (u32At data (4 * j)))) ++ zAt (4 * d)
    | 1 =>
      (items d fun j => (j, decide (1 ≤ u8At data j) && decide (u8At data j ≤ 0x7E) &&
        (!scaleOk (u32At data d) || scaleOk (codeScale (u8At data j) (u32At data d))))) ++
        [(d, scaleOk (u32At data d))] ++ zAt (d + 4)
    | _ => (items d fun j => [(8 * j + 4, decide (u8At data (8 * j + 4) ≤ 63)),
        (8 * j + 5, zpOk p (signed8 (u8At data (8 * j + 5)))), (8 * j + 6, zeroAt data (8 * j + 6) 2)]).flatten

/-- The scales that data of form 0 or 1 sets. -/
def scalesFrom (p : Policy) (d form : Nat) (data : List Byte) : Scales :=
  let zs := fun (base : Nat) => if isIntFmt p.format then items d fun j => signed8 (u8At data (base + j)) else []
  if form = 0 then ⟨items d fun j => u32At data (4 * j), [], f32One, zs (4 * d)⟩
  else ⟨[], items d fun j => u8At data j, u32At data d, zs (d + 4)⟩

def explicitFrom (d : Nat) (data : List Byte) : List Rescale :=
  items d fun j => ⟨signedOf 32 (u32At data (8 * j)), u8At data (8 * j + 4), signed8 (u8At data (8 * j + 5))⟩

def specQuantSetScales : CmdSpec := openSpec 0x0802 fun _ p => withBulk 32 8 0 p

/-- Detail of a failing byte of bulk data: its payload offset where it is inline, else the descriptor's. -/
def dataDetail (p : List Byte) (off base at_ : Nat) : Nat := if (bulkAt p off).kind = 1 then base + at_ else off

/-- Whether a form fits a target (R107, R121, R604). -/
def formOk (p : Policy) (target form : Nat) : Bool :=
  if form = 2 then target == 4 && isIntFmt p.format && p.discovery == 0 else form == p.storage

/-- A target whose format has no scales is RANGE at the target (DESIGN CHOICE, log 161). -/
def doQuantSetScales (c : Ctx) (s : State) : Result :=
  let target := u8At c.p 2
  let form := u8At c.p 3
  onTarget c s target (fun t => s.pointFree c.bay t target)
    (fun t => [(2, (decide (target < t.desc.tiers) || target == 4) && isScaled (t.point target).policy.format),
      (3, formOk (t.point target).policy target form), (4, zeroAt c.p 4 4)] ++ bulkChecks c.p 8 [1, 2] (s.ringBytes c.bay) ++
      [(24, (bulkAt c.p 8).length == scaleBytes (t.point target).policy t.desc.dim form)]) fun t =>
    let p := t.point target
    let (data, s) := takeSource c s 8 32
    match scaleBad p.policy t.desc.dim form data with
    | some e => fail .range (dataDetail c.p 8 32 e) s
    | none =>
      putPoint c s t target <|
        if form = 2 then { p with explicit := explicitFrom t.desc.dim data }
        else { p with scales := scalesFrom p.policy t.desc.dim form data }

def execQuantSetScales (r : Req) (s : State) : Out := runCommand specQuantSetScales (paced true doQuantSetScales) r s

/-! ### QUANT_SET_CODEBOOK, QUANT_SET_SPLIT -/

/-- Codebooks in group order (R111). -/
def booksFrom (f : Fmt) (d : Nat) (data : List Byte) : List (List Nat) :=
  items ((d + 31) / 32) fun g => items (bookEntries f) fun i => u16At data (2 * (bookEntries f * g + i))

/-- Offset of the first entry that is not finite (R112). -/
def booksBad (n : Nat) (data : List Byte) : Option Nat :=
  firstBad (items n fun i => (2 * i, decide (u16At data (2 * i) % 2 ^ 15 < 0x7F80)))

def specQuantSetCodebook : CmdSpec := openSpec 0x0803 fun _ p => withBulk 32 8 0 p

def doQuantSetCodebook (c : Ctx) (s : State) : Result :=
  let tier := u8At c.p 2
  onTarget c s tier (fun t => tier == 4 || (s.pointFree c.bay t tier && isCodebook (t.point tier).policy.format))
    (fun t => [(2, decide (tier < t.desc.tiers)), (3, zeroAt c.p 3 5)] ++ bulkChecks c.p 8 [1, 2] (s.ringBytes c.bay) ++
      [(24, (bulkAt c.p 8).length == booksBytes (t.point tier).policy.format t.desc.dim)]) fun t =>
    let p := t.point tier
    let f := p.policy.format
    let (data, s) := takeSource c s 8 32
    match booksBad (booksBytes f t.desc.dim / 2) data with
    | some e => fail .range (dataDetail c.p 8 32 e) s
    | none => putPoint c s t tier { p with codebooks := booksFrom f t.desc.dim data }

def execQuantSetCodebook (r : Req) (s : State) : Out := runCommand specQuantSetCodebook (paced true doQuantSetCodebook) r s

def specQuantSetSplit : CmdSpec :=
  openSpec 0x0804 fun _ p => if 8 ≤ p.length && p.length == 8 + roundUp (2 * u8At p 3) 8 then none else some badLen

/-- R131: distinct columns below D in ascending order, as many as the record's split_count. -/
def doQuantSetSplit (c : Ctx) (s : State) : Result :=
  let tier := u8At c.p 2
  let n := u8At c.p 3
  let cols := items n fun i => u16At c.p (8 + 2 * i)
  onTarget c s tier (fun t => tier == 4 || s.pointFree c.bay t tier)
    (fun t => [(2, decide (tier < t.desc.tiers)),
      (3, decide (n ≤ 64) && n == (t.point tier).policy.splitCount && (n == 0 || (t.point tier).policy.outlier == 1)),
      (4, zeroAt c.p 4 4)] ++
      (items n fun i => (itemDetail i, decide (natAt cols i < t.desc.dim) && (i == 0 || decide (natAt cols (i - 1) < natAt cols i)))) ++
      [(8 + 2 * n, zeroAt c.p (8 + 2 * n) (roundUp (2 * n) 8 - 2 * n))]) fun t =>
    putPoint c s t tier { t.point tier with splits := cols }

def execQuantSetSplit (r : Req) (s : State) : Out := runCommand specQuantSetSplit (paced false doQuantSetSplit) r s

/-! ### QUANT_GET_SCALES, QUANT_READ_SAT -/

def rescaleBytes (r : Rescale) : List Byte := leBytes 4 (unsignedOf 32 r.m) ++ leBytes 1 r.s ++ leBytes 1 (unsignedOf 8 r.zp) ++ zeros 2

/-- Whether an integer output is fed from INT48 (R122). -/
def Tab.fedInt48 (t : Tab) : Bool := t.int48 && isIntFmt (t.point 4).policy.format && t.pool.fuseOp == 0

/-- The scales in force of a target (R126, R127). -/
def Tab.scalesNow (t : Tab) (target : Nat) : Scales :=
  if target = 4 then (t.point 4).delayed else (t.point target).scales

/-- The explicit records of a column's zero point replace the output's stored ones (R604). -/
def Tab.withExplicitZp (t : Tab) (sc : Scales) : Scales :=
  let l := (t.point 4).explicitNow
  if l.isEmpty then sc else { sc with zps := l.map Rescale.zp }

def specQuantGetScales : CmdSpec := openSpec 0x0805 (exactly 32)

def doQuantGetScales (c : Ctx) (s : State) : Result :=
  let target := u8At c.p 2
  onTable c s 0 (fun t => [(2, decide (target < t.desc.tiers) || target == 4), (3, zeroAt c.p 3 5)] ++ bulkChecks c.p 8 [1, 3] 0)
    fun t =>
    let p := t.point target
    let sc := if target = 4 then t.withExplicitZp (t.scalesNow 4) else t.scalesNow target
    let ms := target == 4 && t.fedInt48
    let data := scaleData p.policy t.desc.dim sc ++
      (if ms then (items t.desc.dim fun j => rescaleBytes (t.rescaleAt sc j)).flatten else [])
    match destBad c s 8 8 data.length with
    | some d => fail .range d s
    | none =>
      let (inl, s) := placeDest c s 8 data
      okWith (leBytes 1 p.policy.storage ++ leBytes 1 (flag ms) ++ zeros 6 ++ inl) s

def execQuantGetScales (r : Req) (s : State) : Out := runCommand specQuantGetScales doQuantGetScales r s

def specQuantReadSat : CmdSpec := openSpec 0x0806 (exactly 8)

/-- R18, R135: the counters read, each cleared as it is read if the clear flag is set. -/
def doQuantReadSat (c : Ctx) (s : State) : Result :=
  let target := u8At c.p 2
  let first := u16At c.p 4
  let n := u16At c.p 6
  onTable c s 0 (fun t => [(2, decide (target < t.desc.tiers) || target == 4), (3, decide (u8At c.p 3 ≤ 1)),
      (4, decide (first < t.desc.dim)), (6, decide (1 ≤ n) && decide (n ≤ 1000) && decide (first + n ≤ t.desc.dim))]) fun t =>
    let p := t.point target
    let body := (items n fun i => leBytes 4 (natAt p.sat (first + i))).flatten
    let s := if bit (u8At c.p 3) 0 then
        s.putTable c.bay (t.setPoint target { p with sat := p.sat.zipIdx.map fun x =>
          if first ≤ x.2 && x.2 < first + n then 0 else x.1 })
      else s
    okWith body s

def execQuantReadSat (r : Req) (s : State) : Out := runCommand specQuantReadSat doQuantReadSat r s

end Sys2Proof.Machine
end

