-- ==== Sys2Proof/Machine/SheafOps.lean ====
section
/-! DEFINITION. Sheafs in flight: header fields, the reading of sections (R200 to R205, R386, R387), the tables a sheaf
names, and the epochs of a table (R427). -/

namespace Sys2Proof.Machine

/-! ### Header fields (R200, R386) -/

def Sheaf.isUpdate (x : Sheaf) : Bool := bit (u8At x.head 3) 0
def Sheaf.fence (x : Sheaf) : Bool := bit (u8At x.head 3) 1
def Sheaf.bytes (x : Sheaf) : Nat := u32At x.head 12
def Sheaf.id (x : Sheaf) : Nat := u64At x.head 40
def Sheaf.handle (x : Sheaf) : Nat := u32At x.head 48
def Sheaf.seq (x : Sheaf) : Nat := u32At x.head 52
def Sheaf.epoch (x : Sheaf) : Nat := u32At x.head 56

/-- Whether an update sheaf that has ended consumes its number (R388, R230, R394): not one that was cancelled or whose job
faulted. -/
def Sheaf.consumes (x : Sheaf) : Bool :=
  match x.phase with
  | .finished 0 => true
  | .finished 9 => true
  | .finished 10 => x.sections.any fun g => g.tab.desc.frozen
  | .finished 12 => x.bad
  | _ => false

/-- Whether a sheaf at a lower number of the ledger no longer holds back the ones above it (R391). -/
def Sheaf.isReleased (x : Sheaf) : Bool :=
  match x.phase with
  | .held | .duplicate => false
  | .finished _ => x.consumes
  | _ => true

/-! ### Sections (R202, R203, R387) -/

/-- Bytes of an array padded to 8. -/
def pad8 (n : Nat) : Nat := roundUp n 8

/-- Little-endian values of `w` bytes. -/
def valuesAt (data : List Byte) (off n w : Nat) : List Nat := items n fun i => fieldAt data (off + w * i) w

/-- Whether the bytes between an array's end and the next multiple of 8 are zero. -/
def padZero (data : List Byte) (off n : Nat) : Bool := zeroAt data (off + n) (pad8 n - n)

/-- A section just read, before any work. -/
def newSection (t : Tab) (base : Nat) : Section :=
  { table := t.id, tab := t, weightFmt := 0, width := 32, gradFmt := 0, offsets := [], indices := [], weights := [],
    gradScales := [], grads := [], winners := [], u := [], barrier := none, barrierAt := 0, window := none, distinct := 0, ctx := 0, queue := 2,
      slots := [], done := false,
    partials := [], sides := [], fused := [], fuseBase := base, outs := [], ranges := [], scales := Scales.initial,
    widened := false, placed := false, found := false, back := 0 }

/-- Whether offsets rise from 0 to `n` with no bag above 2^24 (R204). -/
def offsetsOk (l : List Nat) (n : Nat) : Bool :=
  l.head? == some 0 && l.getLast? == some n && (l.zip (l.drop 1)).all fun p => decide (p.1 ≤ p.2) && decide (p.2 - p.1 ≤ 2 ^ 24)

/-- Bytes of one element of a weights or gradient array. -/
def weightBytes (f : Nat) : Nat := natAt [0, 2, 4] f
def gradBytes (f : Nat) : Nat := if f = 4 then 1 else 2

/-- One section read at a position of the sheaf's bytes: the section, where it ends, and whether it keeps every rule that
R204 and R388 state for it; none where it does not lie inside the sheaf or its table does not exist. -/
def readSection (bound : List Tab) (bases : List (Nat × Nat)) (width : Nat) (upd : Bool) (data : List Byte) (pos : Nat) :
    Option (Section × Nat × Bool) :=
  let id := u16At data pos
  match findKey Tab.id bound id with
  | none => none
  | some t =>
    let d := t.desc.dim
    let wf := u8At data (pos + 2)
    let gf := u8At data (pos + 3)
    let bags := u32At data (pos + 4)
    let n := u32At data (pos + 8)
    let o1 := pos + 16
    let o2 := o1 + pad8 (4 * (bags + 1))
    let o3 := o2 + pad8 (width / 8 * n)
    let o4 := o3 + pad8 (weightBytes wf * n)
    let mm := decide (3 ≤ t.desc.mode)
    let o5 := if upd then o4 + pad8 (4 * d) else o4
    let o6 := if upd then o5 + pad8 (gradBytes gf * d * bags) else o5
    let fin := if upd && mm then o6 + 8 * d * bags else o6
    if data.length < fin || 2 < wf then none
    else
      let offs := valuesAt data o1 (bags + 1) 4
      let scales := if upd then valuesAt data o4 d 4 else []
      let wins := if upd && mm then valuesAt data o6 (d * bags) 8 else []
      let ok := (if upd then gf == 1 || gf == 4 else gf == 0) && zeroAt data (pos + 12) 4 && (wf != 0) == (t.desc.mode == 2) &&
        offsetsOk offs n && padZero data o1 (4 * (bags + 1)) && padZero data o2 (width / 8 * n) &&
        padZero data o3 (weightBytes wf * n) && scales.all scaleOk && (!upd || padZero data o5 (gradBytes gf * d * bags)) &&
        wins.all fun w => decide (w < 2 ^ 40)
      some ({ newSection t (((bases.find? fun b => b.1 == id).map Prod.snd).getD 0) with
        weightFmt := wf
        width := width
        gradFmt := gf
        offsets := offs
        indices := valuesAt data o2 n (width / 8)
        weights := if wf = 0 then [] else valuesAt data o3 n (weightBytes wf)
        gradScales := scales
        grads := if upd then valuesAt data o5 (d * bags) (gradBytes gf) else []
        winners := wins }, fin, ok)

/-- The sections of a sheaf, where they end, and whether all keep their rules. -/
def readSections (bound : List Tab) (bases : List (Nat × Nat)) (width : Nat) (upd : Bool) (data : List Byte) :
    Nat → Nat → List Section × Nat × Bool
  | 0, pos => ([], pos, true)
  | k + 1, pos =>
    match readSection bound bases width upd data pos with
    | none => ([], pos, false)
    | some (x, p, ok) =>
      let (l, fin, ok') := readSections bound bases width upd data k p
      (x :: l, fin, ok && ok')

/-- Bytes of a sheaf as they stand in its bay's ring. -/
def State.sheafData (s : State) (x : Sheaf) : List Byte := s.read .ring x.bay 0 x.off x.bytes

/-- The sections of a sheaf in flight: as read, or read from the ring now. -/
def State.sectionsOf (s : State) (x : Sheaf) : List Section × Nat × Bool :=
  readSections x.bound x.bases (u8At x.head 6) x.isUpdate (s.sheafData x) (u16At x.head 4) 64

/-- The tables a sheaf names. -/
def State.tablesOf (s : State) (x : Sheaf) : List Nat :=
  distinct (if x.sections.isEmpty then (s.sectionsOf x).1.map Section.table else x.sections.map Section.table)

def State.names (s : State) (x : Sheaf) (table : Nat) : Bool := (s.tablesOf x).contains table

/-- Checks of R204 on a whole sheaf but for version and bay state; R388 step 9 for an update sheaf. The header's own
reserved fields, then the sections. -/
def State.sheafOk (s : State) (x : Sheaf) : Bool :=
  let h := x.head
  let (l, fin, ok) := s.sectionsOf x
  decide (u8At h 3 < 4) && decide (u16At h 4 ≤ 4096) && (u8At h 6 == 32 || u8At h 6 == 64) && zeroAt h 7 1 &&
    x.bytes % 8 == 0 && u64At h 32 % 32 == 0 && u64At h 24 % 16 == 0 &&
    (if x.isUpdate then zeroAt h 60 4 && zeroAt h 16 4 && zeroAt h 24 8 else zeroAt h 48 16) &&
    ok && l.length == u16At h 4 && fin == x.bytes && sumBy Section.bags l == u32At h 8 &&
    (u16At h 4 != 0 || u32At h 8 == 0)

/-! ### Update sheafs of a bay (R424, R427) -/

/-- Update sheafs of a bay that its sessions' ledgers have accepted and that are in flight: no duplicates, and none refused at its
doorbell. -/
def State.updates (s : State) (b : Nat) : List Sheaf := s.dp.sheafs.filter fun x => x.bay == b && x.isUpdate && x.ledger

/-- Epochs of the update sheafs naming a table that have not been acknowledged. -/
def State.openEpochs (s : State) (b table : Nat) : List Nat :=
  ((s.updates b).filter fun x => s.names x table).map Sheaf.epoch

/-- The highest complete epoch of a table (R427). -/
def State.epochDone (s : State) (b : Nat) (t : Tab) : Option Nat :=
  match t.epochHigh with
  | none => none
  | some h =>
    let m := (s.openEpochs b t.id).foldl min h
    if m = 0 then none else some (m - 1)

/-- The ranges that an epoch recorded for a tier; none where it wrote nothing there. -/
def Tab.epochRange (t : Tab) (epoch tier : Nat) : List Range :=
  ((t.epochRanges.find? fun x => x.1 == epoch && x.2.1 == tier).map fun x => x.2.2).getD (List.replicate t.desc.dim none)

/-- A complete epoch becomes a step of every tier of the table (R124, R427). -/
def Tab.stepTiers (t : Tab) (epoch : Nat) : Tab :=
  (List.range t.desc.tiers).foldl (fun (u : Tab) k =>
    u.setPoint k { u.point k with steps := (t.epochRange epoch k :: (u.point k).steps).take 16 }) t

/-- Epochs that are now complete become steps, oldest first (R126, R427). -/
def State.closeEpochs (s : State) (b table : Nat) : State :=
  match s.table b table with
  | none => s
  | some t =>
    match s.epochDone b t with
    | none => s
    | some e =>
      let over_ := sortBy id (distinct ((t.epochs ++ t.epochRanges.map Prod.fst).filter fun x => decide (x ≤ e)))
      let t := over_.foldl Tab.stepTiers t
      s.putTable b { t with
        epochs := t.epochs.filter fun x => !decide (x ≤ e)
        epochRanges := t.epochRanges.filter fun x => !decide (x.1 ≤ e) }

/-- U of a table for work accepted with the given update sheafs outstanding (R424). -/
def uOf (u : List (Nat × Nat × List Nat)) (table : Nat) : List (Nat × Nat) :=
  (u.filter fun x => x.2.2.contains table).map fun x => (x.1, x.2.1)

/-- The outstanding update sheafs of a bay at an instant: number, epoch, tables. -/
def State.outstanding (s : State) (b : Nat) : List (Nat × Nat × List Nat) :=
  (s.updates b).map fun x => (x.no, x.epoch, s.tablesOf x)

/-- The members of U that have not been acknowledged. -/
def State.unacked (s : State) (u : List (Nat × Nat)) : List (Nat × Nat) := u.filter fun x => (s.sheaf x.1).isSome

/-- Whether a table's barrier is satisfied for U (R424). -/
def State.barrierMet (s : State) (t : Tab) (u : List (Nat × Nat)) : Bool :=
  let open_ := s.unacked u
  if t.desc.relaxed then
    let a := u.foldl (fun m x => max m x.2) 0
    open_.all fun x => decide (a < x.2 + t.desc.stalenessK)
  else open_.isEmpty

end Sys2Proof.Machine
end

