-- ==== Sys2Proof/Machine/Training.lean ====
section
/-! DEFINITION. The training and ledger commands and the pooling configuration (R251, R390 to R395, R414 to R416, R427 to
R429), and SHEAF_CANCEL (R230). -/

namespace Sys2Proof.Machine

/-! ### The ledger (R390 to R395) -/

/-- Distance of a sequence number above N, modulo 2^32 (R390). -/
def SessLedger.ahead (l : SessLedger) (n : Nat) : Nat := (n + 2 ^ 32 - l.next % 2 ^ 32) % 2 ^ 32

/-- The ledger with a sequence number seen, which may be the highest of its window. -/
def SessLedger.seen (l : SessLedger) (n : Nat) : SessLedger :=
  if l.ahead l.highest ≤ l.ahead n || 2 ^ 31 ≤ l.ahead l.highest then { l with highest := n } else l

/-- N past every consumed number; the first argument bounds the walk. -/
def SessLedger.advance : Nat → SessLedger → SessLedger
  | 0, l => l
  | f + 1, l =>
    if l.consumed.contains l.next then
      SessLedger.advance f { l with next := (l.next + 1) % 2 ^ 32, consumed := l.consumed.erase l.next }
    else l

/-- A number recorded as consumed (R392). -/
def SessLedger.consume (l : SessLedger) (n : Nat) : SessLedger :=
  SessLedger.advance (l.consumed.length + 1) { l with consumed := n :: l.consumed.erase n }

/-- Whether a number is already consumed: below N, or in the list above it. -/
def SessLedger.isConsumed (l : SessLedger) (n : Nat) : Bool := decide (2 ^ 31 ≤ l.ahead n) || l.consumed.contains n

/-- The sheafs of a session in flight that hold a place in its ledger. -/
def State.ledgerSheafs (s : State) (h : Nat) : List Sheaf :=
  s.dp.sheafs.filter fun x => x.ledger && x.session == h

/-- Whether a held sheaf may be released: every lower number of the window is consumed or its sheaf released (R391). -/
def State.mayRelease (s : State) (x : Sheaf) : Bool :=
  match s.session x.session with
  | none => false
  | some y =>
    let l := y.ledger
    let rel := ((s.ledgerSheafs x.session).filter Sheaf.isReleased).map Sheaf.seq
    (List.range (l.ahead x.seq)).all fun i =>
      let n := (l.next + i) % 2 ^ 32
      l.consumed.contains n || rel.contains n

/-- A held sheaf is released: dispatched for expansion (R391). -/
def State.release (s : State) (no : Nat) : State :=
  match s.sheaf no with
  | some x => if x.phase = .held && s.mayRelease x then s.modSheaf no fun x => { x with phase := .accepted, released := true } else s
  | none => s

/-- Every held sheaf of a session that may be released, in sequence order. -/
def State.releaseAll (s : State) (h : Nat) : State :=
  match s.session h with
  | none => s
  | some y =>
    (sortBy (fun x : Sheaf => y.ledger.ahead x.seq) ((s.ledgerSheafs h).filter fun x => x.phase == .held)).foldl
      (fun s x => s.release x.no) s

def specLedgerQuery : CmdSpec :=
  { op := 0x0701, b := true, d := true, u := true, states := [.opened], bayField := .scoped, lens := ownOrScoped }

def ledgerBody (s : State) (x : Session) : List Byte :=
  let l := s.ledgerSheafs x.handle
  leBytes 4 x.ledger.next ++ leBytes 4 (l.filter Sheaf.released).length ++
    leBytes 4 (l.filter fun y => y.phase == .held).length ++ leBytes 4 x.ledger.highest

def doLedgerQuery (c : Ctx) (s : State) : Result :=
  if c.caller.bay.isSome then
    c.fields s [] <| match s.session c.caller.handle with
      | some x => okWith (ledgerBody s x) s
      | none => fail .stale 0 s
  else
    let x := (s.session (u32At c.p 4)).filter fun x => x.bay == some (u16At c.p 0)
    c.fields s [(2, zeroAt c.p 2 2), (4, x.isSome)] <| match x with
      | some x => okWith (ledgerBody s x) s
      | none => fail .range 4 s

def execLedgerQuery (r : Req) (s : State) : Out := runCommand specLedgerQuery doLedgerQuery r s

def specLedgerSkip : CmdSpec := openSpec 0x0702 (exactly 8)

/-- R395: N is consumed where no sheaf bears it, and what it held up is released; any other number is STATE. -/
def doLedgerSkip (c : Ctx) (s : State) : Result :=
  match s.session c.caller.handle with
  | none => fail .stale 0 s
  | some x =>
    let n := u32At c.p 0
    refuseIf (n ≠ x.ledger.next || (s.ledgerSheafs x.handle).any fun y => y.seq == n) .state 0 s <|
    c.fields s [(4, zeroAt c.p 4 4)] <|
      let l := x.ledger.consume n
      let s := (s.modSession x.handle fun x => { x with ledger := l }).releaseAll x.handle
      okWith (leBytes 4 l.next ++ zeros 4) s

def execLedgerSkip (r : Req) (s : State) : Out := runCommand specLedgerSkip doLedgerSkip r s

def specLedgerConfig : CmdSpec := openSpec 0x0703 (exactly 16)

/-- Bytes of CONTRIB messages retained for a bay on a die (R422). -/
def State.retained (s : State) (b die : Nat) : Nat :=
  sumBy (fun (c : Channel) => if c.bay = b then sumBy (fun (m : LedgerMsg) => if m.die = die then m.data.length else 0) c.sent else 0)
    s.fab.channels

/-- R429: the retention area resized, the barrier timeout set. -/
def doLedgerConfig (c : Ctx) (s : State) : Result :=
  let p := c.p
  let m := u8At p 0
  let mib := u32At p 4
  let bar := u32At p 8
  c.fields s [(0, decide (m < 4)), (1, zeroAt p 1 3), (4, if bit m 0 then decide (4 ≤ mib) && decide (mib ≤ 4096) else mib == 0),
      (8, if bit m 1 then bar == 0 || (decide (1000 ≤ bar) && decide (bar ≤ 10000000)) else bar == 0), (12, zeroAt p 12 4)] <|
    let s1 := if bit m 1 then s.modBay c.bay fun y => { y with work := { y.work with barrierUs := bar } } else s
    if !bit m 0 then okWith [] s1
    else if (List.range 2).any fun d => decide (2 ^ 20 * mib < s.retained c.bay d) then fail .busy 0 s
    else match (s.bay c.bay).space.resizeRetention 0 mib with
      | none => fail .noSpace 0 s
      | some sp => match sp.resizeRetention 1 mib with
        | none => fail .noSpace 0 s
        | some sp => okWith [] (s1.modBay c.bay fun y =>
            { y with space := sp, core := { y.core with retentionMiB := mib } })

def execLedgerConfig (r : Req) (s : State) : Out := runCommand specLedgerConfig doLedgerConfig r s

/-! ### OPT_SET, OPT_GET, EPOCH_QUERY -/

def optAt (p : List Byte) : OptRec :=
  ⟨u8At p 2, u8At p 3, u32At p 4, u32At p 8, u32At p 12, u32At p 16, u32At p 20, u32At p 24, u32At p 28⟩

def OptRec.bytes (table : Nat) (o : OptRec) : List Byte :=
  leBytes 2 table ++ leBytes 1 o.kind ++ leBytes 1 o.moment ++
    [o.lr, o.eps, o.beta1, o.beta2, o.decay, o.c1, o.c2].flatMap (leBytes 4) ++ zeros 32

/-- The checks of an optimiser record (R414). -/
def optChecks (p : List Byte) : List (Nat × Bool) :=
  let o := optAt p
  let adam := o.kind == 4
  let unit := fun x => isFinite32 x && le32 0 x && lt32 x f32One
  let corr := fun x => if adam then isFinite32 x && le32 f32One x else x == 0
  [(2, decide (o.kind ≤ 4)), (3, if o.kind = 0 || o.kind = 3 then o.moment == 0 else o.moment == 3 || o.moment == 5),
   (4, isFinite32 o.lr), (8, isFinite32 o.eps && le32 0 o.eps), (12, if o.kind = 1 || adam then unit o.beta1 else o.beta1 == 0),
   (16, if adam then unit o.beta2 else o.beta2 == 0), (20, isFinite32 o.decay), (24, corr o.c1), (28, corr o.c2),
   (32, zeroAt p 32 32)]

/-- The state segments of a table released and allocated anew for an optimiser, every record in its zero form (R415,
R416); none is NO_SPACE. -/
def State.remakeState (s : State) (b : Nat) (t : Tab) (o : OptRec) : Option (Tab × State) :=
  let n := stateBytes t.desc o
  let s := s.modBay b fun y => { y with space := { y.space with
    siloUsed := (t.segments.flatMap Segment.state ++ t.defState.toList).foldl (fun l r => cutRun r l) y.space.siloUsed } }
  let z := zeroState t.desc o
  let segs := t.segments.foldl (fun acc g => match acc with
    | none => none
    | some ((l : List Segment), s) =>
      if n = 0 then some (l ++ [{ g with state := [] }], s)
      else match State.allocBytes s b (n * g.rows) with
        | none => none
        | some (st, s) =>
          some (l ++ [{ g with state := st }],
            (List.range g.rows).foldl (fun s i => State.writeGranules s b (runGranules st (n * i) n) z) s)) (some ([], s))
  match segs with
  | none => none
  | some (l, s) =>
    let t := { t with segments := l, opt := o }
    if n = 0 || !t.desc.defaultConfigured then some ({ t with defState := none }, s)
    else match s.allocRow b 1 (n / 64) with
      | none => none
      | some (a, s) => some ({ t with defState := some ⟨a, n / 64⟩ }, s.setRow b 1 a z)

def specOptSet : CmdSpec := openSpec 0x0704 (exactly 64)

/-- R415. -/
def doOptSet (c : Ctx) (s : State) : Result :=
  onTable c s 0 (fun _ => optChecks c.p) fun t =>
    let o := optAt c.p
    inOrder c s t.id (t.life == .rebuilding) <|
    if o.kind = t.opt.kind && o.moment = t.opt.moment then spanned c s t <| okWith [] (s.putTable c.bay { t with opt := o })
    else if (s.updates c.bay).any fun x => s.names x t.id then fail .busy 0 s
    else spanned c s t <|
      match s.remakeState c.bay t o with
      | some (t, s) => okWith [] (s.putTable c.bay t)
      | none => fail .noSpace 0 s

def execOptSet (r : Req) (s : State) : Out := runCommand specOptSet (paced false doOptSet) r s

def specOptGet : CmdSpec := openSpec 0x0705 (exactly 8)

def doOptGet (c : Ctx) (s : State) : Result :=
  onTable c s 0 (fun _ => [(2, zeroAt c.p 2 6)]) fun t =>
    okWith (t.opt.bytes t.id ++ leBytes 8 t.counters.failed ++ leBytes 8 t.counters.nonFinite ++ leBytes 8 t.counters.barrier) s

def execOptGet (r : Req) (s : State) : Out := runCommand specOptGet doOptGet r s

def specEpochQuery : CmdSpec := openSpec 0x0706 (exactly 8)

/-- The value reported for an epoch that there is not, which the specification does not state. -/
def noEpoch (k : Nat) : Nat := Config.unstated 2 k % 2 ^ 32

def doEpochQuery (c : Ctx) (s : State) : Result :=
  let n := u16At c.p 2
  c.fields s [(0, decide (u16At c.p 0 < 4096)), (2, decide (1 ≤ n) && decide (n ≤ 250)), (4, zeroAt c.p 4 4)] <|
    let ts := ((sortBy Tab.id (s.bay c.bay).tables).filter fun t => decide (u16At c.p 0 ≤ t.id) && t.life != .destroying).take n
    okWith (leBytes 2 ts.length ++ zeros 6 ++ ts.flatMap fun t =>
      leBytes 2 t.id ++ zeros 2 ++ leBytes 4 (t.epochHigh.getD (noEpoch 0)) ++ leBytes 4 ((s.epochDone c.bay t).getD (noEpoch 1)) ++
        leBytes 4 (s.openEpochs c.bay t.id).length) s

def execEpochQuery (r : Req) (s : State) : Out := runCommand specEpochQuery doEpochQuery r s

/-! ### POOL_SET, POOL_GET (R251) -/

/-- A persistent stream of a bay (R341). -/
def State.persistent (s : State) (b n : Nat) : Option Context := (s.context n).filter fun x => x.bay == b && x.crew.isNone

def poolAt (p : List Byte) : PoolCfg := ⟨bit (u8At p 2) 0, u8At p 3, u8At p 4, u8At p 5, u16At p 6⟩

def PoolCfg.bytes (table : Nat) (c : PoolCfg) : List Byte :=
  leBytes 2 table ++ leBytes 1 (flag c.compensated) ++ leBytes 1 c.fuseOp ++ leBytes 1 c.fuseFormat ++ leBytes 1 c.fuseMode ++
    leBytes 2 c.fuseStream ++ zeros 8

def specPoolSet : CmdSpec := openSpec 0x0602 (exactly 16)

def doPoolSet (c : Ctx) (s : State) : Result :=
  let q := poolAt c.p
  onTable c s 0 (fun _ => [(2, decide (u8At c.p 2 ≤ 1)), (3, decide (q.fuseOp ≤ 2)),
      (4, decide (q.fuseFormat ≤ 1) && (q.fuseOp != 0 || q.fuseFormat == 0)),
      (5, decide (q.fuseMode ≤ 1) && (q.fuseOp != 0 || q.fuseMode == 0)),
      (6, if q.fuseOp = 0 then q.fuseStream == 0 else c.commit || (s.persistent c.bay q.fuseStream).isSome),
      (8, zeroAt c.p 8 8)]) fun t =>
    inOrder c s t.id (t.life == .rebuilding) <|
    spanned c s t <| okWith [] (s.putTable c.bay { t with pool := q })

def execPoolSet (r : Req) (s : State) : Out := runCommand specPoolSet doPoolSet r s

def specPoolGet : CmdSpec := openSpec 0x0603 (exactly 8)

def doPoolGet (c : Ctx) (s : State) : Result :=
  onTable c s 0 (fun _ => [(2, zeroAt c.p 2 6)]) fun t => okWith (t.pool.bytes t.id) s

def execPoolGet (r : Req) (s : State) : Out := runCommand specPoolGet doPoolGet r s

/-! ### The end of a job's work -/

/-- The work of a job's contexts stops: reads in flight are dropped (R332), and entries not issued are gone, unless a fault of GLEAN
keeps them to be fetched (R299). -/
def State.stopContexts (s : State) (crew : Nat) (keepIssued : Bool) : State :=
  let mine := (s.dp.contexts.filter fun x => x.crew == some crew).map Context.no
  let s : State := { s with
    dp.contexts := s.dp.contexts.map fun x =>
      if x.crew == some crew then
        { x with waiting := if keepIssued then x.waiting else [], rest := [], jobOver := true, faulted := true } else x
    dp.walks := s.dp.walks.filter fun w => w.crew != crew }
  if keepIssued then s else s.dropReads fun r => r.ctx.any mine.contains

end Sys2Proof.Machine
end

