-- ==== Sys2Proof/Machine/Moves.lean ====
section
/-! DEFINITION. Moves of rows by Varlet: migrations (R182 to R187), hot-set copies (R356 to R368) and moves into and out of
home granary (R369): how an item is chosen, takes its row, is read, written and committed. -/

namespace Sys2Proof.Machine

/-- The row tag (R60, R159). -/
def rowTag (b table row : Nat) : Nat := 2 ^ 40 * (4096 * b + table) + row

/-! ### The granary halves (R354 to R357) -/

/-- Granules of a half of a bay's granary share on a die (R55). -/
def State.halfGranules (s : State) (b die : Nat) : Nat := mibGranules * natAt (s.bay b).core.shares.granary die

/-- Index entries of a half (R357). -/
def State.indexCapacity (s : State) (b die : Nat) : Nat := 8192 * natAt (s.bay b).core.shares.granary die

def State.modHot (s : State) (b die : Nat) (f : HotDie → HotDie) : State :=
  s.modBay b fun y => { y with granary := { y.granary with dies := y.granary.dies.modify die f } }

/-- The shadow half of a die. -/
def HotDie.shadow (d : HotDie) : Nat := 1 - d.live

def HotDie.copies (d : HotDie) (half : Nat) : List HotCopy := d.index.getD half []

/-- Places reserved in a half by copies under way: `dest` and the granules in `args`. -/
def State.reservedIn (s : State) (b die half : Nat) : List Run :=
  s.dp.waiting.filterMap fun w =>
    if w.bay = b && 2 ≤ w.at_ &&
        ((w.kind == .hotPut && (w.items.head?.any fun i => i.a == die) && half == (s.hotDie b die).shadow) ||
         (w.kind == .hotHome && (w.items.head?.any fun i => i.a == 0))) then
      some ⟨w.dest, natAt w.args 0⟩
    else none

/-- Copies under way to a die, each of which will take an index entry (R357). -/
def State.copiesComing (s : State) (b die : Nat) : Nat :=
  (s.dp.waiting.filter fun w => w.bay == b && decide (2 ≤ w.at_) && w.kind == .hotPut && w.items.head?.any fun i => i.a == die).length

/-- Taken runs of a half, ascending. -/
def State.halfTaken (s : State) (b die half : Nat) : List Run :=
  let d := s.hotDie b die
  sortBy Run.first <| ((d.copies half).map fun c => ⟨c.off, c.granules⟩) ++ d.homes ++
    ((d.freed.filter fun f => f.1 == half).map fun f => f.2.1) ++ s.reservedIn b die half

/-- The lowest free offset of `g` granules in a half. -/
def State.freeOffset (s : State) (b die half g : Nat) : Option Nat :=
  findFree (2 ^ 40) g (s.halfGranules b die) (s.halfTaken b die half) 0

/-- The lowest offset that is free in both halves on both dies (R369). -/
def State.freeEverywhere (s : State) (b g : Nat) : Option Nat :=
  let taken := sortBy Run.first (s.halfTaken b 0 0 ++ s.halfTaken b 0 1 ++ s.halfTaken b 1 0 ++ s.halfTaken b 1 1)
  findFree (2 ^ 40) g (min (s.halfGranules b 0) (s.halfGranules b 1)) taken 0

/-! ### The conditions of an item (R185, R358, R369) -/

/-- The count an item goes into without being moved, none if it can proceed; an item for a die without a granary share is skipped_space
(R384). -/
def State.moveSkip (s : State) (w : Waiting) (i : MoveItem) : Option Nat :=
  let t := (s.table w.bay i.table).filter fun t => t.life != .destroying
  let e := t.bind fun t => if t.desc.rows ≤ i.row then none else s.entry w.bay t i.row
  let owned := t.any fun t => decide (t.desc.rows ≤ i.row) || s.owns t.map i.row
  match w.kind with
  | .migrate => match e with
    | none => some 2
    | some e =>
      if e.valid && e.pinned && i.c = 0 then some 1
      else if !e.valid || e.isAlias || e.home = 0 || e.home = 3 then some 2
      else if e.migrating then some 3
      else if e.tier = i.a && e.home = i.b then some 4
      else none
  | .hotPut =>
    if s.halfGranules w.bay i.a = 0 then some 4
    else if !owned then (if t.isSome then some 2 else some 1)
    else match e with
      | none => some 1
      | some e =>
        if !e.valid || e.isAlias || e.home = 0 then some 1
        else if e.home = 3 then some 2
        else if (copyIn ((s.hotDie w.bay i.a).copies (s.hotDie w.bay i.a).shadow) i.table i.row).isSome then some 3
        else none
  | .hotHome => if (List.range 2).any fun d => bit i.b d && s.halfGranules w.bay d == 0 then some 3 else match e with
    | none => some 1
    | some e =>
      if !e.valid || !e.pinned then some 1
      else if !(t.any fun t => t.desc.frozen) then some 2
      else if e.isAlias || e.home = 3 then some 1
      else if (i.a = 0) = (e.home = 0) then some 0
      else none
  | _ => none

/-! ### The items of a job, one after the other -/

/-- The reply of a job whose items are done: its counts as R601 lays them out. -/
def Waiting.countsReply (w : Waiting) : Reply := ⟨.ok, 0, w.counts.flatMap (leBytes 4)⟩

/-- The first item of a job dropped and counted. -/
def State.countItem (s : State) (id count : Nat) : State :=
  s.modJob id fun w => { w with items := w.items.drop 1, counts := addAt w.counts count 1, at_ := 0, dest := 0, data := [], args := [] }

/-- The next item of a job that can proceed is handed to the applying flail of its row; items that cannot are counted
(R185, R358, R369). A hot-set copy waits while its die's shadow half is retiring (R364). The first argument bounds the
items. -/
def State.moveItems : Nat → Nat → State → State
  | 0, _, s => s
  | f + 1, id, s =>
    match s.job id with
    | none => s
    | some w => match w.items with
      | [] => s.endJob id w.countsReply
      | i :: _ =>
        if w.kind = .hotPut && ((s.hotDie w.bay i.a).retiring).isSome then s
        else match s.moveSkip w i with
          | some k => State.moveItems f id (s.countItem id k)
          | none => match s.table w.bay i.table with
            | none => s
            | some t =>
              (s.modJob id fun w => { w with at_ := 1 }).toFlail (s.applyingFlail w.bay t i.row) (.move id w.bay i.table i.row)

/-- A job goes on with its next item. -/
def State.moveNext (s : State) (id : Nat) : State :=
  match s.job id with
  | some w => State.moveItems (w.items.length + 1) id s
  | none => s

/-! ### Mark: an item takes its row (R182, R363) -/

/-- Die that reads a row at its home. -/
def State.homeDie (s : State) (b home addr : Nat) : Nat :=
  if home = 2 then loftDie (((s.bay b).space.portOf addr).getD 0) else siloDie (((s.bay b).space.siloOf addr).getD 0)

/-- The item in hand has taken its row's conflict-table entry: its destination is allocated, a migration is marked, and
its source is read in queue 6 (R313; DEDUCED, log 148, for hot-set copies). The Boolean says whether the row is still held. -/
def State.moveTake (s : State) (id : Nat) : Bool × State :=
  match s.job id with
  | none => (false, s)
  | some w => match w.items with
    | [] => (false, s)
    | i :: _ => match s.moveSkip w i, s.table w.bay i.table with
      | some k, _ => (false, (s.countItem id k).moveNext id)
      | none, none => (false, (s.countItem id 1).moveNext id)
      | none, some t => match s.entry w.bay t i.row with
        | none => (false, (s.countItem id 1).moveNext id)
        | some e =>
          let g := t.rowGranules e.tier
          let read := fun (s : State) (die space addr half : Nat) =>
            (true, s.putRead w.bay die none 6 false (.move id) space addr g half false)
          match w.kind with
          | .migrate => match s.allocRow w.bay i.b (t.rowGranules i.a) with
            | none => (false, (s.countItem id 5).moveNext id)
            | some (a, s) =>
              let s := (s.commitEntry w.bay t i.row { e with migrating := true }).chargeEntry w.bay t i.row true
              let s := s.modJob id fun w => { w with at_ := 2, dest := a }
              read s (s.homeDie w.bay e.home e.addr) e.home e.addr 0
          | .hotPut =>
            let d := s.hotDie w.bay i.a
            let full := s.indexCapacity w.bay i.a ≤ (d.copies d.shadow).length + s.copiesComing w.bay i.a
            match (if full then none else s.freeOffset w.bay i.a d.shadow g) with
            | none => (false, (s.countItem id 4).moveNext id)
            | some off =>
              let s := s.modJob id fun w => { w with at_ := 2, dest := off, args := [g] }
              match copyIn (d.copies d.live) i.table i.row with
              | some c => read s i.a 0 c.off d.live
              | none => read s i.a e.home e.addr 0
          | _ =>
            if i.a = 0 then
              match s.freeEverywhere w.bay g with
              | none => (false, (s.countItem id 3).moveNext id)
              | some off =>
                let s := s.modJob id fun w => { w with at_ := 2, dest := off, args := [g] }
                read s (s.homeDie w.bay e.home e.addr) e.home e.addr 0
            else match s.allocRow w.bay 1 g with
              | none => (false, (s.countItem id 3).moveNext id)
              | some (a, s) =>
                let s := s.modJob id fun w => { w with at_ := 2, dest := a, args := [g] }
                read s (s.homeDie w.bay 1 a) 0 e.addr (s.hotDie w.bay (s.homeDie w.bay 1 a)).live

/-! ### Copy and Commit (R183 to R187) -/

/-- An item's source has arrived; `bad` says that a granule of it cannot be read. The new bytes are formed and written, or
the item has failed. -/
def State.moveRead (s : State) (id : Nat) (bad : Bool) (data : List Byte) : Bool × State :=
  match s.job id with
  | none => (false, s)
  | some w => match w.items with
    | [] => (false, s)
    | i :: _ => match s.table w.bay i.table with
      | none => (false, (s.countItem id 0).moveNext id)
      | some t => match s.entry w.bay t i.row with
        | none => (false, (s.countItem id 0).moveNext id)
        | some e =>
          let b := w.bay
          let raw := data.take (t.rowBytes e.tier)
          let write := fun (s : State) (die space addr half : Nat) (bytes : List Byte) =>
            (true, (s.modJob id fun w => { w with at_ := 3, data := bytes }).issueWrite
              b die (.move id) space addr ((chunks 64 (padTo 64 bytes)).map some) half)
          match w.kind with
          | .migrate =>
            if bad then
              let s := (s.commitEntry b t i.row { e with migrating := false }).chargeEntry b t i.row true
              let s := s.modBay b fun y =>
                let r : Run := ⟨w.dest, t.rowGranules i.a⟩
                { y with space := if i.b = 2 then { y.space with loftUsed := cutRun r y.space.loftUsed }
                                  else { y.space with siloUsed := cutRun r y.space.siloUsed } }
              let s := s.raise 0x0407 1 (some b) none (leBytes 2 i.table ++ zeros 2 ++ leBytes 8 i.row)
              (false, (s.countItem id 6).moveNext id)
            else
              let (bytes, sat) := if e.tier = i.a then (raw, [])
                else encodeRow (t.point i.a) (decodeRow (t.point e.tier) t.desc.dim raw)
              write (s.modJob id fun w => { w with args := sat }) (s.homeDie b i.b w.dest) i.b w.dest 0 bytes
          | .hotPut =>
            if bad then (false, (s.countItem id 5).moveNext id)
            else write s i.a 6 w.dest (s.hotDie b i.a).shadow raw
          | _ =>
            if bad then
              let s := if i.a = 1 then s.modBay b fun y =>
                  { y with space := { y.space with siloUsed := cutRun ⟨w.dest, t.rowGranules e.tier⟩ y.space.siloUsed } }
                else s
              (false, (s.countItem id 4).moveNext id)
            else if i.a = 0 then write s 0 0 w.dest 0 raw
            else write s (s.homeDie b 1 w.dest) 1 w.dest 0 raw

/-- A hot-set copy recorded, or dropped again at once by a HOTSET_DROP that was accepted after its HOTSET_PUT and has
already acted on the die (R364). -/
def State.recordCopy (s : State) (id b die : Nat) (c : HotCopy) : State :=
  let drop := s.dp.waiting.find? fun w => w.kind == .hotDrop && w.bay == b && decide (id < w.id) && w.args.contains die &&
    (w.at_ == 1 || w.items.any fun i => i.table == c.table && i.row == c.row && i.a == die)
  match drop with
  | some w => s.modJob w.id fun w => { w with counts := addAt w.counts 0 1 }
  | none => s.modHot b die fun d => { d with index := d.index.modify d.shadow fun ix => ix ++ [c] }

/-- Bytes of a granary-homed row written to its four places (R167, R369). -/
def State.writeHomes (s : State) (b off : Nat) (data : List Byte) : State :=
  [(0, 0), (0, 1), (1, 0), (1, 1)].foldl (fun s p =>
    (s.write (halfArea p.2) b p.1 (64 * off) (padTo 64 data)).heal (halfArea p.2) b p.1 off (granulesOf data.length)) s

/-- An item's bytes have been written: its row's entry is committed (R182, R363, R369). -/
def State.moveWritten (s : State) (id : Nat) : State :=
  match s.job id with
  | none => s
  | some w => match w.items with
    | [] => s
    | i :: _ => match s.table w.bay i.table with
      | none => (s.countItem id 0).moveNext id
      | some t => match s.entry w.bay t i.row with
        | none => (s.countItem id 0).moveNext id
        | some e =>
          let b := w.bay
          let commit := fun (s : State) (e' : Entry) => ((s.freeEntry b t e).commitEntry b t i.row e').chargeEntry b t i.row true
          match w.kind with
          | .migrate =>
            let s := s.setRow b i.b w.dest w.data
            let s := commit s { e with tier := i.a, home := i.b, addr := w.dest, migrating := false }
            let s := (s.rowCommitted b i.table i.row).countSat b i.table i.a w.args
            (s.countItem id 0).moveNext id
          | .hotPut =>
            let d := s.hotDie b i.a
            let s := (s.write (halfArea d.shadow) b i.a (64 * w.dest) (padTo 64 w.data)).heal (halfArea d.shadow) b i.a w.dest (natAt w.args 0)
            ((s.recordCopy id b i.a ⟨i.table, i.row, w.dest, natAt w.args 0⟩).countItem id 0).moveNext id
          | _ =>
            if i.a = 0 then
              let s := s.writeHomes b w.dest w.data
              let s := commit s { e with home := 0, addr := w.dest }
              let s := (s.modHot b 0 fun d => { d with homes := addRun ⟨w.dest, natAt w.args 0⟩ d.homes }).modHot b 1 fun d =>
                { d with homes := addRun ⟨w.dest, natAt w.args 0⟩ d.homes }
              ((s.dropStaged b i.table i.row).countItem id 0).moveNext id
            else
              let s := s.setRow b 1 w.dest w.data
              let s := commit s { e with home := 1, addr := w.dest }
              ((s.dropStaged b i.table i.row).countItem id 0).moveNext id

end Sys2Proof.Machine
end

