-- ==== Sys2Proof/Machine/HotSet.lean ====
section
/-! DEFINITION. The granary commands (R354 to R385), the retirement of a half, and the refresh interval. -/

namespace Sys2Proof.Machine

/-! ### HOTSET_PUT, HOTSET_DROP and HOTSET_SWAP in their order (R364, R365) -/

def isHot (k : JobKind) : Bool := k == .hotPut || k == .hotDrop || k == .hotSwap

/-- The hot-set commands of a bay that were accepted before another and have not answered. -/
def State.hotBefore (s : State) (b id : Nat) (kinds : List JobKind) : List Waiting :=
  s.dp.waiting.filter fun w => w.bay == b && decide (w.id < id) && kinds.contains w.kind

/-- A HOTSET_DROP acts on one die: the copies it names leave the shadow index, their space is freed, and each counts
once. `at_` is 1 for the all form. -/
def State.dropOn (s : State) (w : Waiting) (die : Nat) : State :=
  let d := s.hotDie w.bay die
  let named := fun (c : HotCopy) => w.at_ == 1 || w.items.any fun i => i.table == c.table && i.row == c.row && i.a == die
  let gone := (d.copies d.shadow).filter named
  let s := s.modHot w.bay die fun d => { d with index := d.index.modify d.shadow fun ix => ix.filter fun c => !named c }
  s.modJob w.id fun w => { w with counts := addAt w.counts 0 gone.length, args := w.args ++ [die] }

/-- A HOTSET_DROP goes on: on each named die whose shadow half is not retiring; it answers when it has acted on every die
and every HOTSET_PUT accepted before it has answered. `dest` is its die mask. -/
def State.dropStep (s : State) (id : Nat) : State :=
  let s := (List.range 2).foldl (fun s d => match s.job id with
    | some w =>
      if bit w.dest d && !w.args.contains d && ((s.hotDie w.bay d).retiring).isNone then s.dropOn w d else s
    | none => s) s
  match s.job id with
  | some w =>
    if ((List.range 2).all fun d => !bit w.dest d || w.args.contains d) && (s.hotBefore w.bay id [.hotPut]).isEmpty then
      s.endJob id ⟨.ok, 0, leBytes 4 (natAt w.counts 0) ++ zeros 4⟩
    else s
  | none => s

/-- The generations of both dies. -/
def State.genBytes (s : State) (b : Nat) : List Byte := leBytes 4 (s.hotDie b 0).gen ++ leBytes 4 (s.hotDie b 1).gen

/-- The refresh interval starts again (R370). -/
def State.restartRefresh (s : State) (b : Nat) : State :=
  s.modBay b fun y => { y with granary := { y.granary with
    refreshAt := if y.granary.refreshMs = 0 then none else some (s.dev.now + 1000000 * y.granary.refreshMs) } }

/-- R365: every named die swaps at one instant, or none does. -/
def State.swapNow (s : State) (w : Waiting) : State :=
  let dies := (List.range 2).filter fun d => bit w.dest d
  if dies.any fun d => ((s.hotDie w.bay d).retiring).isSome then s.endJob w.id ⟨.busy, 0, []⟩
  else
    let s := dies.foldl (fun s d => s.modHot w.bay d fun h =>
      { h with gen := (h.gen + 1) % 2 ^ 32, live := 1 - h.live, retiring := some s.dev.accepted }) s
    let s := s.restartRefresh w.bay
    s.endJob w.id ⟨.ok, 0, s.genBytes w.bay⟩

/-- A hot-set command goes on if the ones before it let it. -/
def State.hotStep (s : State) (id : Nat) : State :=
  match s.job id with
  | none => s
  | some w =>
    match w.kind with
    | .hotPut => if w.at_ ≠ 0 || !(s.hotBefore w.bay id [.hotSwap]).isEmpty then s else s.moveNext id
    | .hotDrop => if !(s.hotBefore w.bay id [.hotSwap]).isEmpty then s else s.dropStep id
    | .hotSwap => if !(s.hotBefore w.bay id [.hotPut, .hotDrop, .hotSwap]).isEmpty then s else s.swapNow w
    | _ => s

/-- The hot-set commands of a bay go on, in the order of their acceptance. -/
def State.hotPoll (s : State) (b : Nat) : State :=
  ((s.dp.waiting.filter fun w => w.bay == b && isHot w.kind).map Waiting.id).foldl (fun s id => s.hotStep id) s

/-! ### The commands -/

def granarySpec (op : Nat) (lens : Caller → List Byte → Option Nat) : CmdSpec := openSpec op lens

/-- A hot-set item at an offset: table, die mask, direction, row (R601). -/
def hotItem (p : List Byte) (o : Nat) : Nat × Nat × Nat × Nat := (u16At p o, u8At p (o + 2), u8At p (o + 3), u64At p (o + 8))

/-- The checks of `n` items from offset 8. -/
def hotItemChecks (p : List Byte) (n maxDir : Nat) : List (Nat × Bool) :=
  items n fun i =>
    let o := 8 + 16 * i
    (itemDetail i, decide (u8At p (o + 2) ≤ 3) && decide (u8At p (o + 3) ≤ maxDir) && zeroAt p (o + 4) 4)

/-- One move item per die that an item names. -/
def perDie (p : List Byte) (n : Nat) : List MoveItem :=
  (List.range n).flatMap fun i =>
    let (t, m, _, r) := hotItem p (8 + 16 * i)
    ((List.range 2).filter fun d => bit m d).map fun d => ⟨t, r, d, 0, 0⟩

def specHotsetPut : CmdSpec := granarySpec 0x0401 (counted 8 16 0 2)

/-- R362: the copies are made one after the other, die by die. -/
def doHotsetPut (c : Ctx) (s : State) : Result :=
  let n := u16At c.p 0
  c.fields s ([(0, decide (1 ≤ n) && decide (n ≤ 250)), (2, zeroAt c.p 2 6)] ++ hotItemChecks c.p n 0) <|
    let (_, s) := s.startJob c .hotPut (perDie c.p n) (List.replicate 6 0) []
    (none, s.hotPoll c.bay)

def execHotsetPut (r : Req) (s : State) : Out := runCommand specHotsetPut doHotsetPut r s

def specHotsetDrop : CmdSpec := granarySpec 0x0402 (counted 8 16 2 2)

def doHotsetDrop (c : Ctx) (s : State) : Result :=
  let p := c.p
  let n := u16At p 2
  let all := bit (u8At p 0) 0
  c.fields s ([(0, decide (u8At p 0 ≤ 1)), (1, decide (1 ≤ u8At p 1) && decide (u8At p 1 ≤ 3)),
      (2, if all then n == 0 else decide (1 ≤ n) && decide (n ≤ 250)), (4, zeroAt p 4 4)] ++ hotItemChecks p n 0) <|
    let (id, s) := s.startJob c .hotDrop ((perDie p n).filter fun i => bit (u8At p 1) i.a) [0] []
    let s := s.modJob id fun w => { w with dest := u8At p 1, at_ := flag all }
    (none, s.hotPoll c.bay)

def execHotsetDrop (r : Req) (s : State) : Out := runCommand specHotsetDrop doHotsetDrop r s

def specHotsetSwap : CmdSpec := granarySpec 0x0403 (exactly 8)

def doHotsetSwap (c : Ctx) (s : State) : Result :=
  c.fields s [(0, decide (1 ≤ u8At c.p 0) && decide (u8At c.p 0 ≤ 3)), (1, zeroAt c.p 1 7)] <|
    let (id, s) := s.startJob c .hotSwap [] [] []
    let s := s.modJob id fun w => { w with dest := u8At c.p 0 }
    (none, s.hotPoll c.bay)

def execHotsetSwap (r : Req) (s : State) : Out := runCommand specHotsetSwap doHotsetSwap r s

def specHotsetQuery : CmdSpec :=
  { granarySpec 0x0404 (exactly 0) with states := [.opened, .draining] }

/-- Rows and granules in use in a half: its copies, and the granary-homed rows of the die. -/
def HotDie.inUse (d : HotDie) (half : Nat) : List Byte :=
  leBytes 4 (d.copies half).length ++ leBytes 4 (sumBy HotCopy.granules (d.copies half) + sumBy Run.len d.homes)

def doHotsetQuery (c : Ctx) (s : State) : Result :=
  okWith ((List.range 2).flatMap fun k =>
    let d := s.hotDie c.bay k
    leBytes 4 d.gen ++ leBytes 1 d.live ++ leBytes 1 (flag d.retiring.isSome) ++ zeros 2 ++ d.inUse d.live ++ d.inUse d.shadow ++
      leBytes 4 (s.indexCapacity c.bay k) ++ zeros 4) s

def execHotsetQuery (r : Req) (s : State) : Out := runCommand specHotsetQuery doHotsetQuery r s

def specHotsetHome : CmdSpec := granarySpec 0x0405 (counted 8 16 0 2)

/-- R369. -/
def doHotsetHome (c : Ctx) (s : State) : Result :=
  let n := u16At c.p 0
  c.fields s ([(0, decide (1 ≤ n) && decide (n ≤ 250)), (2, zeroAt c.p 2 6)] ++ hotItemChecks c.p n 1) <|
    let its := items n fun i => let (t, m, d, r) := hotItem c.p (8 + 16 * i); (⟨t, r, d, m, 0⟩ : MoveItem)
    let (id, s) := s.startJob c .hotHome its (List.replicate 5 0) []
    (none, s.moveNext id)

def execHotsetHome (r : Req) (s : State) : Out := runCommand specHotsetHome doHotsetHome r s

def specHotsetConfig : CmdSpec := granarySpec 0x0406 (exactly 8)

def doHotsetConfig (c : Ctx) (s : State) : Result :=
  let ms := u32At c.p 0
  c.fields s [(0, ms == 0 || (decide (100 ≤ ms) && decide (ms ≤ 3600000))), (4, decide (u8At c.p 4 ≤ 3)), (5, zeroAt c.p 5 3)] <|
    let s := s.modBay c.bay fun y => { y with granary := { y.granary with refreshMs := ms, snapAction := u8At c.p 4 } }
    okWith [] (s.restartRefresh c.bay)

def execHotsetConfig (r : Req) (s : State) : Out := runCommand specHotsetConfig doHotsetConfig r s

/-- The greatest crib_limit of R385: the crib share less the reserves of the RUNNING contexts, in units of 256 KiB, on the
die that allows less. -/
def State.maxCribLimit (s : State) (b : Nat) : Nat :=
  (List.range 2).foldl (fun m d => min m ((s.cribShare b d - sumBy Context.reserve (s.runningOn b d)) / 4096)) (2 ^ 16)

def specRunaheadConfig : CmdSpec := granarySpec 0x0407 (exactly 8)

def doRunaheadConfig (c : Ctx) (s : State) : Result :=
  let p := c.p
  c.fields s [(0, decide (u8At p 0 ≤ 1)), (1, decide (u8At p 1 ≤ 1)), (4, decide (u16At p 4 ≤ s.maxCribLimit c.bay)),
      (6, decide (u16At p 6 ≤ 4096))] <|
    okWith [] (s.modBay c.bay fun y => { y with granary := { y.granary with
      runahead := ⟨u8At p 0, u8At p 1, u16At p 2, some (u16At p 4), u16At p 6⟩ } })

def execRunaheadConfig (r : Req) (s : State) : Out := runCommand specRunaheadConfig doRunaheadConfig r s

def specStageQuery : CmdSpec := { granarySpec 0x0408 (exactly 0) with states := [.opened, .draining] }

def doStageQuery (c : Ctx) (s : State) : Result :=
  okWith ((s.bay c.bay).granary.stage.flatMap fun d => d.counters.flatMap (leBytes 8)) s

def execStageQuery (r : Req) (s : State) : Out := runCommand specStageQuery doStageQuery r s

/-! ### Retirement and the refresh interval -/

/-- Whether work bound to an earlier generation of a die is still in flight (R361). -/
def State.boundEarlier (s : State) (b die : Nat) : Bool :=
  let g := (s.hotDie b die).gen
  (s.dp.sheafs.any fun x => x.bay == b && !x.isUpdate && natAt x.gens die != g) ||
    s.dp.lookups.any fun x => x.bay == b && natAt x.gens die != g

/-- R361: the last work bound to a generation in which the retiring half was live has completed; its index is cleared and
its copies' granules are free. -/
def execHalfRetired (bay die : Nat) (s : State) : Out :=
  if 15 < bay || 1 < die then .fault .noSuchUnit
  else .next <|
    if ((s.hotDie bay die).retiring).isNone || s.boundEarlier bay die then s
    else
      let s := s.modHot bay die fun d => { d with retiring := none, index := d.index.set d.shadow [] }
      s.hotPoll bay

/-- R370: the refresh interval has expired. -/
def execHotsetRefreshDue (bay : Nat) (s : State) : Out :=
  if 15 < bay then .fault .noSuchUnit
  else .next <| match (s.bay bay).granary.refreshAt with
  | none => s
  | some t =>
    if s.dev.now < t || s.bayState bay ≠ .opened then s
    else
      let s := s.modBay bay fun y => { y with granary := { y.granary with refreshAt := none } }
      let s := s.raise 0x0406 0 (some bay) none (s.genBytes bay)
      let a := (s.bay bay).granary.snapAction
      if a = 0 then s else s.snapshot bay (a - 1)

end Sys2Proof.Machine
end

