-- ==== Sys2Proof/Machine/FlailOps.lean ====
section
/-! DEFINITION. The flails (R406 to R418): taking operations, the update of a row under an optimiser, its commit and the
release of its conflict-table entry. -/

namespace Sys2Proof.Machine

/-! ### The optimiser step (R414, R417) -/

def neg32 (x : Nat) : Nat := (x + 2 ^ 31) % 2 ^ 32

/-- One column's step: the new value and moments from g', x and the moments m and v; `r` is the row-wise accumulator. -/
def optColumn (o : OptRec) (g x m v r : Nat) : Nat × Nat × Nat :=
  let lr := neg32 o.lr
  if !isFinite32 g then (x, m, v)
  else match o.kind with
    | 0 => (ffma lr g x, m, v)
    | 1 => let m' := ffma o.beta1 m g; (ffma lr m' x, m', v)
    | 2 => let v' := ffma g g v; (ffma lr (fdiv g (fadd (fsqrt v') o.eps)) x, m, v')
    | 3 => (ffma lr (fdiv g (fadd (fsqrt r) o.eps)) x, m, v)
    | _ =>
      let a1 := fsub f32One o.beta1
      let a2 := fsub f32One o.beta2
      let m' := ffma o.beta1 m (fmul a1 g)
      let v' := ffma o.beta2 v (fmul a2 (fmul g g))
      (ffma lr (fdiv (fmul m' o.c1) (fadd (fsqrt (fmul v' o.c2)) o.eps)) x, m', v')

/-- The row-wise accumulator after a step (R417). -/
def rowWise (d r : Nat) (gs : List Nat) : Nat :=
  fadd r (fdiv (gs.foldl (fun a g => if isFinite32 g then ffma g g a else a) f32NegZero) (intTo32 d))

/-- A step of a row: its values, its state record as it stands, the coalesced contribution; the new values, the new record,
and the saturations of the moments. -/
def optRow (o : OptRec) (d : Nat) (xs : List Nat) (state : List Byte) (con : List Nat) : List Nat × List Byte × Nat :=
  let gs := (xs.zip con).map fun p => ffma o.decay p.1 p.2
  let f := (fmtOfCode o.moment).getD .int8
  let n := 64 * granulesOf (momentBytes d)
  let ms := if o.kind = 1 || o.kind = 4 then decodeMoment f d (state.take n) else []
  let vs := if o.kind = 2 then decodeMoment f d (state.take n) else if o.kind = 4 then decodeMoment f d (state.drop n) else []
  let r := if o.kind = 3 then rowWise d (u32At state 0) gs else 0
  let cols := (gs.zip xs).zipIdx.map fun p => optColumn o p.1.1 p.1.2 (natAt ms p.2) (natAt vs p.2) r
  let enc := fun (l : List Nat) => let (bytes, sat) := encodeMoment f l; (padTo 64 bytes, sat)
  let (st, sat) := match o.kind with
    | 1 => enc (cols.map fun c => c.2.1)
    | 2 => enc (cols.map fun c => c.2.2)
    | 3 => (leBytes 4 r ++ zeros 60, 0)
    | 4 =>
      let a := enc (cols.map fun c => c.2.1)
      let b := enc (cols.map fun c => c.2.2)
      (a.1 ++ b.1, a.2 + b.2)
    | _ => ([], 0)
  (cols.map Prod.fst, st, sat)

/-! ### Where a row lies -/

/-- The home, granule address and tier of a row, or of the default row, as an update sees it. -/
def State.updatePlace (s : State) (b : Nat) (t : Tab) (row : Option Nat) : Option (Nat × Nat × Nat) :=
  match row with
  | none => t.defRow.map fun r => (1, r.first, 0)
  | some r => match s.entry b t r with
    | some e => if e.valid && !e.isAlias && (e.home = 1 || e.home = 2) then some (e.home, e.addr, e.tier) else none
    | none => none

/-- The granules of a row's state record, which need not lie side by side (R416). -/
def Tab.stateGranules (t : Tab) (row : Option Nat) : List Nat :=
  let n := stateBytes t.desc t.opt
  match row with
  | none => (t.defState.map fun r => items (n / 64) fun i => r.first + i).getD []
  | some r => match t.segmentOf r with
    | some g => runGranules g.state (n * (r - g.start)) n
    | none => []

/-- The applying flail of a row or of the default row (R406). -/
def State.flailFor (s : State) (b : Nat) (t : Tab) (row : Option Nat) : Nat :=
  match row with
  | some r => s.applyingFlail b t r
  | none => (t.defRow.map fun r => s.flailOf b r.first).getD 0

/-! ### The end of an operation -/

/-- An operation is over for the sheaf or the ledger message it came from, with its rows not applied, its positions
discarded, and its saturations. -/
def State.opDone (s : State) (op : FlailOp) (failed sat : Nat) : State :=
  match op with
  | .move .. => s
  | .update sheaf message b _ _ _ _ _ _ =>
    let s := match sheaf with
      | some no => s.modSheaf no fun x =>
          { x with ops := x.ops - 1, chaffed := x.chaffed + failed, saturated := x.saturated + sat }
      | none => s
    match message with
    | some (node, seq) => { s with fab.owners := s.fab.owners.map fun c =>
        if c.bay = b && c.node = node then { c with msgs := c.msgs.map fun m =>
            if m.seq = seq then { m with left := m.left - 1, failed := m.failed + failed, saturated := m.saturated + sat } else m }
        else c }
    | none => s

/-- Gradients discarded for a table (R176). -/
def State.countDiscarded (s : State) (b table n : Nat) : State :=
  s.modTable b table fun t => { t with counters := { t.counters with discarded := satAdd 64 t.counters.discarded n } }

/-! ### Take and Release (R408 to R410) -/

def FlailOp.key : FlailOp → Nat × Nat × Option Nat
  | .update _ _ b t r _ _ _ _ => (b, t, r)
  | .move _ b t r => (b, t, some r)

def Conflict.key (e : Conflict) : Nat × Nat × Option Nat := (e.bay, e.table, e.row)

/-- An operation that has taken its row's entry at a flail: whether it holds the row. One whose row has moved to another flail
goes to the head of that flail's queue (R181, R183, R409); an update whose row no longer exists is discarded (R176). -/
def State.beginOp (s : State) (k : Nat) (op : FlailOp) : Bool × State :=
  let elsewhere := fun (k' : Nat) => let f := s.flail k'; (false, s.putFlail { f with queue := op :: f.queue })
  match op with
  | .move id b table row => match s.table b table with
    | none => s.moveTake id
    | some t => let k' := s.applyingFlail b t row; if k' ≠ k then elsewhere k' else s.moveTake id
  | .update _ _ b table row _ _ _ _ => match s.table b table with
    | none => (false, s.opDone op 0 0)
    | some t =>
      if (row.any fun r => s.entryBad b t r) then (true, s)
      else if (s.updatePlace b t row).isNone then (false, (s.opDone op 0 0).countDiscarded b table 1)
      else let k' := s.flailFor b t row; if k' ≠ k then elsewhere k' else (true, s)

/-- A row's entry is released: freed, or handed to its first waiter; waiters whose flail has changed go, in order, to the
head of the new flail's queue (R408, R409). The first argument bounds the waiters. -/
def releaseAux : Nat → Nat → Nat × Nat × Option Nat → State → State
  | 0, _, _, s => s
  | f + 1, k, key, s =>
    let fl := s.flail k
    match fl.entries.find? fun e => e.key == key with
    | none => s
    | some e =>
      let rest := fl.entries.filter fun e => e.key != key
      match e.waiters with
      | [] => s.putFlail { fl with entries := rest }
      | w :: ws =>
        let k' := match s.table key.1 key.2.1 with
          | some t => s.flailFor key.1 t key.2.2
          | none => k
        if k' ≠ k then
          let s := s.putFlail { fl with entries := rest }
          let g := s.flail k'
          s.putFlail { g with queue := e.waiters ++ g.queue }
        else
          let s := s.putFlail { fl with entries := fl.entries.map fun x =>
            if x.key == key then { x with op := w, computed := none, waiters := ws } else x }
          let (held, s) := s.beginOp k w
          if held then s else releaseAux f k key s

def State.releaseRow (s : State) (k : Nat) (key : Nat × Nat × Option Nat) : State :=
  let n := match (s.flail k).entries.find? fun e => e.key == key with
    | some e => e.waiters.length
    | none => 0
  releaseAux (n + 2) k key s

/-- The flail that holds a row's entry. -/
def State.holder (s : State) (key : Nat × Nat × Option Nat) : Option Nat :=
  (s.dp.flails.find? fun f => f.entries.any fun e => e.key == key).map Flail.no

/-- A row under a move is released wherever its entry is held, and the bay's hot-set commands go on. -/
def State.releaseMove (s : State) (b table row : Nat) : State :=
  match s.holder (b, table, some row) with
  | some k => (s.releaseRow k (b, table, some row)).hotPoll b
  | none => s.hotPoll b

/-- R408: the operation at the head of a flail's queue takes a free entry, or joins the waiting list of its row. -/
def State.takeHead (s : State) (k : Nat) : State :=
  let f := s.flail k
  match f.queue with
  | [] => s
  | op :: rest =>
    let key := op.key
    if f.entries.any fun e => e.key == key then
      s.putFlail { f with queue := rest, entries := f.entries.map fun e =>
        if e.key == key then { e with waiters := e.waiters ++ [op] } else e }
    else if 64 ≤ f.entries.length then s
    else
      let s := s.putFlail { f with queue := rest, entries := f.entries ++ [⟨key.1, key.2.1, key.2.2, op, none, []⟩] }
      let (held, s) := s.beginOp k op
      (if held then s else s.releaseRow k key).hotPoll key.1

/-- FLAIL_TAKE (R408): flail number 32 × silo + pseudo-channel. -/
def execFlailTake (flail : Nat) (s : State) : Out :=
  if 384 ≤ flail then .fault .noSuchUnit else .next (s.takeHead flail)

/-- A row's new bytes written into every hot-set copy of it (R366). -/
def State.writeCopies (s : State) (b table row : Nat) (data : List Byte) : State :=
  [(0, 0), (0, 1), (1, 0), (1, 1)].foldl (fun s p => match copyIn ((s.hotDie b p.1).copies p.2) table row with
    | some c => (State.write s (halfArea p.2) b p.1 (64 * c.off) (padTo 64 data)).heal (halfArea p.2) b p.1 c.off c.granules
    | none => s) s

end Sys2Proof.Machine
end

