-- ==== Sys2Proof/Machine/Rebuild.lean ====
section
/-! DEFINITION. TIER_MIGRATE and TIER_REBUILD (R182 to R190), the overwrite of a destroyed table (R156) and the release of
granules (R180). -/

namespace Sys2Proof.Machine

/-! ### TIER_MIGRATE -/

def specTierMigrate : CmdSpec := openSpec 0x0309 (counted 8 16 2 2)

/-- R185, R187: a destination outside the table, or one whose split list is not set (R131), refuses the whole command. A MIGRATE job
carries it out (R290). -/
def doTierMigrate (c : Ctx) (s : State) : Result :=
  let p := c.p
  let n := u16At p 2
  onTable c s 0 (fun t => [(2, decide (1 ≤ n) && decide (n ≤ 250)), (4, zeroAt p 4 4)] ++
      (items n fun i =>
        let o := 8 + 16 * i
        (itemDetail i, decide (u8At p (o + 8) < t.desc.tiers) && t.tierReady (u8At p (o + 8)) &&
          (u8At p (o + 9) == 1 || u8At p (o + 9) == 2) && decide (u8At p (o + 10) ≤ 1) && zeroAt p (o + 11) 5))) fun t =>
    let its := items n fun i =>
      let o := 8 + 16 * i
      (⟨t.id, u64At p o, u8At p (o + 8), u8At p (o + 9), u8At p (o + 10)⟩ : MoveItem)
    inOrder c s t.id (t.life == .rebuilding) <|
    (none, (s.startJob c .migrate its (List.replicate 7 0) []).2)

def execTierMigrate (r : Req) (s : State) : Out := runCommand specTierMigrate doTierMigrate r s

/-! ### TIER_REBUILD -/

/-- Formats that have scales or codebooks (R188). -/
def rebuildable (f : Fmt) : Bool := isScaled f || isCodebook f

/-- Bytes of the settings a rebuild carries (R188, R604). -/
def settingsBytes (p : Policy) (d : Nat) : Nat :=
  if isCodebook p.format then booksBytes p.format d else scaleBytes p d p.storage

def settingsBad (p : Policy) (d : Nat) (data : List Byte) : Option Nat :=
  if isCodebook p.format then booksBad (booksBytes p.format d / 2) data else scaleBad p d p.storage data

def specTierRebuild : CmdSpec := openSpec 0x030A fun _ p => withBulk 32 8 0 p

/-- A rebuild starts: the table is quiesced (R189). A delayed tier's ranges are those of its history now (R126). -/
def State.beginRebuild (s : State) (b : Nat) (t : Tab) (tier : Nat) (sc : Scales) (books : List (List Nat)) (cmd : Nat)
    (peers : List Nat) (lead : Option (Nat × Nat)) : State :=
  let p := t.point tier
  let ranges := if p.policy.discovery = 1 then joinRanges t.desc.dim (p.steps.take p.policy.history) else []
  s.putTable b { t with
    life := .rebuilding
    rebuild := some { tier := tier, phase := .quiesce, before := s.dev.accepted, scales := sc, books := books, cmd := cmd,
                      peers := peers, ranges := ranges, lead := lead } }

/-- The settings a rebuild's data carries, or the tier's own where discovery supplies them. -/
def rebuildSettings (p : Point) (d : Nat) (data : List Byte) : Scales × List (List Nat) :=
  if p.policy.discovery ≠ 0 then (p.scales, p.codebooks)
  else if isCodebook p.policy.format then (p.scales, booksFrom p.policy.format d data)
  else (scalesFrom p.policy d p.policy.storage data, p.codebooks)

/-- R188, R539. -/
def doTierRebuild (c : Ctx) (s : State) : Result :=
  let tier := u8At c.p 2
  let d := bulkAt c.p 8
  onTable c s 0 (fun t =>
      let p := (t.point tier).policy
      [(2, decide (tier < t.desc.tiers) && rebuildable p.format), (3, zeroAt c.p 3 5)] ++
        bulkChecks c.p 8 [0, 1, 2] (s.ringBytes c.bay) ++
        [(8, (d.kind == 0) == (p.discovery != 0)), (24, d.length == (if p.discovery = 0 then settingsBytes p t.desc.dim else 0))]) fun t =>
    let p := t.point tier
    (fun (k : Result) => if t.life = .rebuilding then k else inOrder c s t.id false k) <|
    let (data, s) := takeSource c s 8 32
    match (if p.policy.discovery = 0 then settingsBad p.policy t.desc.dim data else none) with
    | some e => fail .range (dataDetail c.p 8 32 e) s
    | none =>
      if t.life = .rebuilding then fail .busy 0 s
      else
        let (sc, books) := rebuildSettings p t.desc.dim data
        let peers := s.otherNodes (t.map.entries.map MapEntry.owner)
        let (id, s) := s.startJob c .rebuild [] [] []
        let s := s.beginRebuild c.bay t tier sc books id peers none
        let msg := inlined c s
        let s : State := if peers.isEmpty then s
          else { s with fab.spans := s.fab.spans ++ [⟨id, { c.req with msg := msg }, c.bay, peers, [], .prepare, s.dev.now, [], []⟩] }
        (none, s.emits (peers.map fun n => .span n 1 id [msg]))

def execTierRebuild (r : Req) (s : State) : Out := runCommand specTierRebuild (paced true doTierRebuild) r s

/-- Whether a sheaf or lookup accepted before a number and naming a table is in flight. -/
def State.namedBefore (s : State) (b table n : Nat) : Bool :=
  (s.dp.sheafs.any fun x => x.bay == b && decide (x.no < n) && s.names x table) ||
    s.dp.lookups.any fun x => x.bay == b && decide (x.no < n) && u16At x.req.msg 16 == table

/-- Whether a row of a table is held by a flail. -/
def State.tableHeld (s : State) (b table : Nat) : Bool :=
  s.dp.flails.any fun f => f.entries.any fun e => e.bay == b && e.table == table

/-- Every staged copy of a table invalidated (R380). -/
def State.dropStagedTable (s : State) (b table : Nat) : State :=
  s.modBay b fun y => { y with granary := { y.granary with
    stage := y.granary.stage.map fun d =>
      let gone := d.copies.filter fun c => c.table == table
      { copies := d.copies.filter fun c => c.table != table, counters := addAt d.counters 4 gone.length } } }

/-- Place of a row's bytes: a die on which they can be read, none where they cannot. -/
def State.readableDie (s : State) (b home addr g : Nat) : Option Nat :=
  if !s.rowBad b 0 home addr g then some 0
  else if home = 0 && !s.rowBad b 1 home addr g then some 1 else none

/-- The range of every column of a tier over its readable rows (R128). -/
def State.tierRanges (s : State) (b : Nat) (t : Tab) (tier : Nat) : List Range :=
  let g := t.rowGranules tier
  (s.tierRows b t tier).foldl (fun rs e =>
    if e.2.home = 3 then rs else match s.readableDie b e.2.home e.2.addr g with
    | some die => widenAll rs (decodeRow (t.point tier) t.desc.dim (s.rowAt b die e.2.home e.2.addr (t.rowBytes tier)))
    | none => rs) (List.replicate t.desc.dim none)

/-- A tier read once, charged to its bay. -/
def State.chargeTier (s : State) (b : Nat) (t : Tab) (tier : Nat) (isWrite : Bool) : State :=
  (s.tierRows b t tier).foldl (fun s e =>
    s.chargeAccess b (s.homeDie b e.2.home e.2.addr) e.2.home e.2.addr (t.rowGranules tier) isWrite) s

/-- Whether a command accepted before a rebuild still moves rows of the table (R589). -/
def State.movedBefore (s : State) (b table : Nat) (r : Rebuild) : Bool :=
  r.lead.isNone && s.dp.waiting.any fun w => w.bay == b && decide (w.id < r.cmd) && w.items.any fun i => i.table == table

/-- A column's range as one package reports it to another (R538): a flag, its least and its greatest value. -/
def rangeBytes (x : Range) : List Byte :=
  match x with
  | some (lo, hi) => leBytes 1 1 ++ leBytes 4 lo ++ leBytes 4 hi
  | none => zeros 9

/-- REBUILD_QUIESCED (R189): every sheaf naming the table that was accepted earlier has completed; a first-pass tier is
read for its ranges. A rebuild led by another package reports its ranges. -/
def execRebuildQuiesced (bay table : Nat) (s : State) : Out :=
  if 15 < bay then .fault .noSuchUnit
  else .next <| match s.table bay table with
  | none => s
  | some t => match t.rebuild with
    | none => s
    | some r =>
      if r.phase ≠ .quiesce || !(r.lead.isSome || s.moverRuns r.cmd) || s.namedBefore bay table r.before || s.tableHeld bay table ||
        s.movedBefore bay table r then s
      else
        let first := (t.point r.tier).policy.discovery = 2
        let own := if first then s.tierRanges bay t r.tier else r.ranges
        let s := if first then s.chargeTier bay t r.tier false else s
        let ranges := if (t.point r.tier).policy.discovery = 0 then [] else
          items t.desc.dim fun i => joinRange (own.getD i none) (r.ranges.getD i none)
        let s := (s.putTable bay { t with rebuild := some { r with phase := .reencode, ranges := ranges } }).dropStagedTable bay table
        match r.lead with
        | some (node, tag) => s.emit (.span node 2 tag
            [ranges.flatMap rangeBytes])
        | none => s

/-- The settings with which a rebuild re-encodes (R125 to R129, R188). -/
def rebuiltPoint (t : Tab) (r : Rebuild) : Point :=
  let p := t.point r.tier
  let sc := match p.policy.discovery with
    | 0 => r.scales
    | 1 => if r.ranges.all Option.isNone then p.scales else discoverScales p.policy t.desc.dim r.ranges p.scales
    | _ => discoverScales p.policy t.desc.dim r.ranges p.scales
  { p with scales := sc, codebooks := if p.policy.discovery = 0 then r.books else p.codebooks }

/-- The copies of a row in the hot set that can be read, re-encoded where they lie (R368). -/
def State.reencodeCopies (s : State) (b : Nat) (t : Tab) (tier : Nat) (p' : Point) (row : Nat) : State :=
  [(0, 0), (0, 1), (1, 0), (1, 1)].foldl (fun (s : State) p => match copyIn ((s.hotDie b p.1).copies p.2) t.id row with
    | some c =>
      if s.poisoned (halfArea p.2) b p.1 c.off c.granules then s
      else
        let raw := s.read (halfArea p.2) b p.1 (64 * c.off) (t.rowBytes tier)
        s.write (halfArea p.2) b p.1 (64 * c.off) (padTo 64 (encodeRow p' (decodeRow (t.point tier) t.desc.dim raw)).1)
    | none => s) s

/-- One row of a tier re-encoded in place, with every copy of it (R190, R368); counts of rows, saturations, failures. Where its home
cannot be read, it goes on reading chaffed, and its readable copies are re-encoded alone. -/
def State.reencode (s : State) (b : Nat) (t : Tab) (tier : Nat) (p' : Point) (row : Nat) (e : Entry) (n : Nat × Nat × Nat) :
    (Nat × Nat × Nat) × State :=
  let g := t.rowGranules tier
  match s.readableDie b e.home e.addr g with
  | none => ((n.1, n.2.1, n.2.2 + 1), ((s.reencodeCopies b t tier p' row).reportBad b e.home e.addr g).chaffRow b e.home e.addr g)
  | some die =>
    let (data, sat) := encodeRow p' (decodeRow (t.point tier) t.desc.dim (s.rowAt b die e.home e.addr (t.rowBytes tier)))
    let s := if e.home = 0 then s.writeHomes b e.addr data else s.setRow b e.home e.addr data
    ((n.1 + 1, n.2.1 + sat.length, n.2.2), (s.writeCopies b t.id row data).countSat b t.id tier sat)

/-- The default row re-encoded with T0 (R189), and its saturations. -/
def State.reencodeDefault (s : State) (b : Nat) (t : Tab) (p' : Point) : Nat × State :=
  match t.defRow with
  | none => (0, s)
  | some r =>
    if s.rowBad b 0 1 r.first r.len then (0, s.chaffRow b 1 r.first r.len)
    else
      let (data, sat) := encodeRow p' (decodeRow (t.point 0) t.desc.dim (s.read .silo b 0 (64 * r.first) (t.rowBytes 0)))
      (sat.length, (s.setRow b 1 r.first data).countSat b t.id 0 sat)

/-- A bound record with a tier's new settings. -/
def Tab.rebound (tier id : Nat) (p : Point) (t : Tab) : Tab :=
  if t.id = id then t.setPoint tier { t.point tier with scales := p.scales, codebooks := p.codebooks } else t

/-- New settings reach the sheafs and lookups held through the rebuild. -/
def State.rebindTier (s : State) (b id tier : Nat) (p : Point) : State :=
  { s with
    dp.sheafs := s.dp.sheafs.map fun x => if x.bay = b then
        { x with bound := x.bound.map (Tab.rebound tier id p)
                 sections := x.sections.map fun g => { g with tab := g.tab.rebound tier id p } } else x
    dp.lookups := s.dp.lookups.map fun x => if x.bay = b then { x with bound := x.bound.map (Tab.rebound tier id p) } else x }

/-- The re-encoding of a tier and Resume, with given settings. -/
def State.finishRebuild (s : State) (b : Nat) (t : Tab) (r : Rebuild) (p : Point) : State :=
  let s := (s.chargeTier b t r.tier false).chargeTier b t r.tier true
  let (n, s) := ((s.tierRows b t r.tier).filter fun e => e.2.home ≠ 3).foldl
    (fun (acc : (Nat × Nat × Nat) × State) e => acc.2.reencode b t r.tier p e.1 e.2 acc.1) ((0, 0, 0), s)
  let (d, s) := if r.tier = 0 then s.reencodeDefault b t p else (0, s)
  let s := State.fillRuns b p.side (p.sideBytes t.desc.dim) s
  let s := s.modTable b t.id fun t =>
    { (t.setPoint r.tier { t.point r.tier with scales := p.scales, codebooks := p.codebooks }) with
      life := if t.life = .rebuilding then .live else t.life, rebuild := none }
  let s := s.rebindTier b t.id r.tier p
  s.endJob r.cmd ⟨.ok, 0, leBytes 8 n.1 ++ leBytes 4 (min (2 ^ 32 - 1) (n.2.1 + d)) ++ leBytes 4 n.2.2⟩

/-- The settings of a point as bytes for the other packages of a spanned table (R539). -/
def pointBytes (d : Nat) (p : Point) : List Byte :=
  scaleData p.policy d p.scales ++ p.codebooks.flatMap fun g => g.flatMap (leBytes 2)

/-- REBUILD_RESUME (R189): the tier is re-encoded, the new settings take force and held sheafs can go on. For a spanned
table every other package has reported first, and is told the settings. -/
def execRebuildResume (bay table : Nat) (s : State) : Out :=
  if 15 < bay then .fault .noSuchUnit
  else .next <| match s.table bay table with
  | none => s
  | some t => match t.rebuild with
    | none => s
    | some r =>
      if r.phase ≠ .reencode || !s.moverRuns r.cmd || !r.peers.isEmpty || r.lead.isSome || s.tableHeld bay table then s
      else
        let p := rebuiltPoint t r
        let nodes := s.otherNodes (t.map.entries.map MapEntry.owner)
        (s.finishRebuild bay t r p).emits (nodes.map fun n => .span n 3 r.cmd [pointBytes t.desc.dim p])

/-! ### The end of a destroyed table, and freed granules -/

/-- Runs of loft space zeroed, charged to the bay. -/
def State.zeroLoftRun (s : State) (b : Nat) (r : Run) : State :=
  (s.zero .loft b 0 r.first r.len).chargeAccess b (loftDie (((s.bay b).space.portOf r.first).getD 0)) 2 r.first r.len true

/-- One row of a destroyed table overwritten and its granules freed. -/
def State.destroyRow (s : State) (b : Nat) (t : Tab) (e : Entry) : State :=
  let r : Run := ⟨e.addr, t.rowGranules e.tier⟩
  if e.isAlias then s
  else match e.home with
    | 1 => (s.zeroRuns b [r]).modBay b fun y => { y with space := { y.space with siloUsed := cutRun r y.space.siloUsed } }
    | 2 => (s.zeroLoftRun b r).modBay b fun y => { y with space := { y.space with loftUsed := cutRun r y.space.loftUsed } }
    | 0 => (s.writeHomes b e.addr (zeros (64 * r.len))).modBay b fun y => { y with granary := { y.granary with
        dies := y.granary.dies.map fun d => { d with homes := cutRun r d.homes } } }
    | _ => s

/-- TABLE_OVERWRITE (R156): the last sheaf accepted before the destruction has completed. -/
def execTableOverwrite (bay table : Nat) (s : State) : Out :=
  if 15 < bay then .fault .noSuchUnit
  else .next <| match s.table bay table with
  | none => s
  | some t =>
    if t.life ≠ .destroying || s.namedBefore bay table t.destroyBefore || s.tableHeld bay table then s
    else
      let s := (s.modBay bay fun y => { y with granary := { y.granary with
        dies := y.granary.dies.map fun d => d.dropCopies (fun c => c.table != table) s.dev.accepted } }).dropStagedTable bay table
      let s := (s.entries bay t).foldl (fun s e => s.destroyRow bay t e.2) s
      let runs := t.segments.flatMap (fun g => g.dir ++ g.state) ++ t.defRow.toList ++ t.defState.toList ++ t.points.flatMap Point.side
      let s := s.zeroRuns bay runs
      (s.forgetEntries bay table).modBay bay fun y => { y with
        tables := dropKey Tab.id y.tables table
        space := { y.space with siloUsed := runs.foldl (fun l r => cutRun r l) y.space.siloUsed } }

/-- GRANULE_RELEASE (R180, R367): granules that no entry names any more, and copies that no index holds, are free once
every sheaf and lookup accepted before the change has completed. -/
def execGranuleRelease (bay : Nat) (s : State) : Out :=
  if 15 < bay then .fault .noSuchUnit
  else .next <| s.modBay bay fun y =>
    { y with
      space := { y.space with
        siloFreed := y.space.siloFreed.filter fun r => !s.doneBefore bay r.2
        loftFreed := y.space.loftFreed.filter fun r => !s.doneBefore bay r.2 }
      granary := { y.granary with dies := y.granary.dies.map fun d =>
        { d with freed := d.freed.filter fun r => !s.doneBefore bay r.2.2 } } }

end Sys2Proof.Machine
end

