-- ==== Sys2Proof/Machine/Streams.lean ====
section
/-! DEFINITION. Stream contexts: their states, crib space, runs of persistent streams, and the stream commands
(R300 to R304, R319, R333 to R341). -/

namespace Sys2Proof.Machine

/-! ### Contexts (R300 to R302) -/

/-- The stream numbers a bay owns on a die. -/
def State.ctxNumbers (s : State) (b die : Nat) : List Nat :=
  ((s.bay b).groups.filter fun g => g / 64 == die).flatMap fun g => items 16 fun i => 1024 * die + 16 * (g % 64) + i

/-- The FREE contexts of a bay on a die, lowest first. -/
def State.freeContexts (s : State) (b die : Nat) : List Nat :=
  (s.ctxNumbers b die).filter fun n => (s.context n).isNone

def newContext (no bay : Nat) (crew : Option Nat) (sheaf now : Nat) : Context :=
  { no := no, bay := bay, running := false, queue := 4, queueSet := false, crew := crew, sheaf := sheaf, list := [],
    base := [0, 0, 0, 0], store := [], runBase := [0, 0, 0, 0], runCmd := none, heldCmd := none, active := false, waiting := [], rest := [],
    slot := 64, crib := 0, executed := 0, malformed := 0, zero := 0, chaffed := 0, spills := 0, mapErrors := 0, late := 0,
    runCounts := [0, 0, 0, 0], reported := false, stalledSince := none, waitSince := now, jobOver := false, faulted := false }

/-- Counters of a context increased: 0 malformed, 1 zero-length, 2 chaffed granules, 3 spills, 4 map errors, 5 late; those
of a run report: executed, chaffed, zero-length, malformed. -/
def Context.bump (x : Context) (i n : Nat) : Context :=
  match i with
  | 0 => { x with malformed := satAdd 32 x.malformed n, runCounts := addAt x.runCounts 3 n }
  | 1 => { x with zero := satAdd 32 x.zero n, runCounts := addAt x.runCounts 2 n }
  | 2 => { x with chaffed := satAdd 32 x.chaffed n, runCounts := addAt x.runCounts 1 n }
  | 3 => { x with spills := satAdd 32 x.spills n }
  | 4 => { x with mapErrors := satAdd 32 x.mapErrors n }
  | _ => { x with late := satAdd 32 x.late n }

/-- CONTEXT_RUNNING (R301): an IDLE context with entries enters RUNNING once its reserve can be provided, in ascending
queue number, then in the order in which contexts began to wait. -/
def State.waitsForReserve (x : Context) : Bool := !x.running && (!x.waiting.isEmpty)

def execContextRunning (ctx : Nat) (s : State) : Out :=
  .next <| match s.context ctx with
  | none => s
  | some x =>
    let before := s.dp.contexts.any fun y => y.bay == x.bay && ctxDie y.no == ctxDie x.no && y.no != ctx &&
      State.waitsForReserve y && (decide (y.queue < x.queue) || (y.queue == x.queue && decide (y.waitSince < x.waitSince)))
    if !State.waitsForReserve x || before then s
    else if s.cribHeld x.bay (ctxDie ctx) + x.reserve ≤ s.cribShare x.bay (ctxDie ctx) then
      (s.discardCrib x.bay (ctxDie ctx) x.reserve).modCtx ctx fun x => { x with running := true, crib := 0, stalledSince := none }
    else s

/-! ### The end of a run or of a job's context (R302, R339) -/

/-- Whether anything of a context is still to do or in flight (R302). A ROW entry is over when its row slot is released (DESIGN CHOICE, log
194). -/
def State.ctxBusy (s : State) (x : Context) : Bool :=
  !x.waiting.isEmpty || !x.rest.isEmpty || s.dp.reads.any (fun r => r.ctx == some x.no) ||
    s.dp.writes.any (fun w => w.for_ == .copy x.no) || s.dp.matrices.any (fun m => m.ctx == x.no) ||
    (x.crew.isSome && !x.faulted && s.dp.sheafs.any fun f => f.no == x.sheaf && f.sections.any fun g => g.slots.any fun r =>
      r.ctx == x.no && !r.released && r.home != 0)

/-- A run starts with the list and the registers in force (R339): its first 64 entries are accepted (R303). -/
def State.startRun (s : State) (n cmd : Nat) : State :=
  s.modCtx n fun x =>
    let l : List Swath := x.list.zipIdx.map fun e => ⟨e.1, [], none, 0, e.2⟩
    { x with
      active := true, runCmd := some cmd, runBase := x.base, runCounts := [0, 0, 0, 0], reported := false, waitSince := s.dev.now
      waiting := l.take 64, rest := l.drop 64 }

/-- A context whose last entry has completed: a run answers and a held start begins; a job's context returns to FREE. -/
def State.ctxSettle (s : State) (n : Nat) : State :=
  match s.context n with
  | none => s
  | some x =>
    if s.ctxBusy x then s
    else match x.crew with
      | some _ => if x.jobOver then { s with dp.contexts := dropKey Context.no s.dp.contexts n } else s
      | none =>
        if !x.active then s
        else
          let s := match x.runCmd with
            | some id => s.endJob id ⟨.ok, 0, x.runCounts.flatMap (leBytes 4)⟩
            | none => s
          let s := s.modCtx n fun x => { x with active := false, running := false, crib := 0, runCmd := none, heldCmd := none }
          match x.heldCmd with
          | some id =>
            let s := s.startRun n id
            if x.list.isEmpty then
              (s.endJob id ⟨.ok, 0, zeros 16⟩).modCtx n fun x => { x with active := false, runCmd := none }
            else s
          | none => s

/-! ### The stream commands (R338 to R341) -/

/-- Entries at an offset of a payload. -/
def entriesAt (p : List Byte) (off n : Nat) : List (List Byte) := items n fun i => slice (off + 32 * i) 32 p

/-- The four base registers at an offset. -/
def basesAt (p : List Byte) (off : Nat) : List Nat := items 4 fun i => u64At p (off + 8 * i)

/-- Entries written into the silo space of a persistent list from its entry `i` on (R338): 32 bytes each (DESIGN CHOICE, log
151). -/
def State.storeList (s : State) (b : Nat) (store : List Run) (i : Nat) (l : List (List Byte)) : State :=
  l.zipIdx.foldl (fun s e => State.write s .silo b 0 (runByte store (32 * (i + e.2))) e.1) s

def specStreamCreate : CmdSpec := openSpec 0x0501 (counted 40 32 2 2)

/-- R341. -/
def doStreamCreate (c : Ctx) (s : State) : Result :=
  let p := c.p
  let n := u16At p 2
  c.fields s ([(0, decide (u8At p 0 ≤ 1)), (1, decide (u8At p 1 ≤ 7) || u8At p 1 == 0xFF), (2, decide (n ≤ 120)), (4, zeroAt p 4 4)] ++
      (items 4 fun i => (8 + 8 * i, decide (u64At p (8 + 8 * i) < 2 ^ 48)))) <|
    match s.freeContexts c.bay (u8At p 0) with
    | [] => fail .noSpace 0 s
    | no :: _ => match s.allocBytes c.bay (32 * n) with
      | none => fail .noSpace 0 s
      | some (runs, s) =>
        let x : Context := { newContext no c.bay none 0 s.dev.now with
          queue := if u8At p 1 = 0xFF then 4 else u8At p 1, queueSet := true, list := entriesAt p 40 n, base := basesAt p 8, store := runs }
        let s := s.storeList c.bay runs 0 x.list
        okWith (leBytes 2 no ++ zeros 6) { s with dp.contexts := putKey Context.no x s.dp.contexts }

def execStreamCreate (r : Req) (s : State) : Out := runCommand specStreamCreate doStreamCreate r s

/-- The persistent stream a payload names. -/
def Ctx.stream (c : Ctx) (s : State) : Option Context := s.persistent c.bay (u16At c.p 0)

def specStreamAppend : CmdSpec := openSpec 0x0502 (counted 8 32 2 2)

def doStreamAppend (c : Ctx) (s : State) : Result :=
  let p := c.p
  let n := u16At p 2
  refuseIf ((c.stream s).any Context.running) .state 0 s <|
  c.fields s [(0, (c.stream s).isSome), (2, decide (1 ≤ n) && decide (n ≤ 120)), (4, zeroAt p 4 4)] <|
    match c.stream s with
    | none => fail .range 0 s
    | some x =>
      let total := x.list.length + n
      if 4096 < total then fail .noSpace 0 s
      else
        let have_ := sumBy Run.len x.store
        let need := 64 * blockGranules * (blocksFor (32 * total) - have_ / blockGranules)
        match s.allocBytes c.bay need with
        | none => fail .noSpace 0 s
        | some (runs, s) =>
          let s := s.storeList c.bay (x.store ++ runs) x.list.length (entriesAt p 8 n)
          okWith (leBytes 2 total ++ zeros 6)
            (s.modCtx x.no fun x => { x with list := x.list ++ entriesAt p 8 n, store := x.store ++ runs })

def execStreamAppend (r : Req) (s : State) : Out := runCommand specStreamAppend doStreamAppend r s

def specStreamDestroy : CmdSpec := openSpec 0x0503 (exactly 8)

/-- Whether a table of the bay names a stream for its fused operand (R251). -/
def State.fuseNamed (s : State) (b n : Nat) : Bool := (s.bay b).tables.any fun t => t.pool.fuseOp != 0 && t.pool.fuseStream == n

/-- The starts of a stream that is destroyed while it still waits for its reserve: their commands answer STATE (DESIGN CHOICE, log
152). -/
def State.dropStarts (s : State) (x : Context) : State :=
  (x.runCmd.toList ++ x.heldCmd.toList).foldl (fun s id => State.endJob s id ⟨.state, 0, []⟩) s

def doStreamDestroy (c : Ctx) (s : State) : Result :=
  refuseIf ((c.stream s).any fun x => x.running || s.fuseNamed c.bay x.no) .state 0 s <|
  c.fields s [(0, (c.stream s).isSome), (2, zeroAt c.p 2 6)] <|
    match c.stream s with
    | none => fail .range 0 s
    | some x =>
      let s := s.modBay c.bay fun y => { y with space := { y.space with
        siloUsed := x.store.foldl (fun l r => cutRun r l) y.space.siloUsed } }
      okWith [] (({ s with dp.contexts := dropKey Context.no s.dp.contexts x.no }).dropStarts x)

def execStreamDestroy (r : Req) (s : State) : Out := runCommand specStreamDestroy doStreamDestroy r s

/-- R339: the list runs once, or the start is held behind the run in progress, or behind one that waits for its reserve (DESIGN
CHOICE, log 152); a second held start is BUSY. -/
def State.streamStart (c : Ctx) (s : State) (x : Context) : Result :=
  if x.active && x.heldCmd.isSome then fail .busy 0 s
  else if !x.active && x.list.isEmpty then okWith (zeros 16) s
  else
    let (id, s) := s.startJob c .streamRun [] [] []
    if x.active then (none, s.modCtx x.no fun x => { x with heldCmd := some id }) else (none, s.startRun x.no id)

def specStreamStart : CmdSpec := openSpec 0x0504 (exactly 8)

def doStreamStart (c : Ctx) (s : State) : Result :=
  c.fields s [(0, (c.stream s).isSome), (2, zeroAt c.p 2 6)] <|
    match c.stream s with
    | none => fail .range 0 s
    | some x => State.streamStart c s x

def execStreamStart (r : Req) (s : State) : Out := runCommand specStreamStart doStreamStart r s

def specStreamRearm : CmdSpec := openSpec 0x0505 (exactly 40)

/-- R340: the selected registers take effect; with the start flag the stream also starts, or the whole command is BUSY. -/
def doStreamRearm (c : Ctx) (s : State) : Result :=
  let p := c.p
  let m := u8At p 2
  c.fields s ([(0, (c.stream s).isSome), (2, decide (m < 16)), (3, decide (u8At p 3 ≤ 1)), (4, zeroAt p 4 4)] ++
      (items 4 fun i => (8 + 8 * i, if bit m i then decide (u64At p (8 + 8 * i) < 2 ^ 48) else u64At p (8 + 8 * i) == 0))) <|
    match c.stream s with
    | none => fail .range 0 s
    | some x =>
      let start := bit (u8At p 3) 0
      if start && x.active && x.heldCmd.isSome then fail .busy 0 s
      else
        let base := x.base.zipIdx.map fun r => if bit m r.2 then u64At p (8 + 8 * r.2) else r.1
        let s := s.modCtx x.no fun x => { x with base := base }
        if start then State.streamStart c s { x with base := base } else okWith [] s

def execStreamRearm (r : Req) (s : State) : Out := runCommand specStreamRearm doStreamRearm r s

def specStreamQuery : CmdSpec := openSpec 0x0506 (exactly 8)

def doStreamQuery (c : Ctx) (s : State) : Result :=
  c.fields s [(0, (c.stream s).isSome), (2, zeroAt c.p 2 6)] <|
    match c.stream s with
    | none => fail .range 0 s
    | some x =>
      okWith (leBytes 1 (if x.running then 2 else 1) ++ leBytes 1 x.queue ++ leBytes 2 x.list.length ++ leBytes 1 (flag x.heldCmd.isSome) ++
        zeros 3 ++ x.base.flatMap (leBytes 8) ++
        [x.malformed, x.zero, x.chaffed, x.spills, x.mapErrors, x.late].flatMap (leBytes 4)) s

def execStreamQuery (r : Req) (s : State) : Out := runCommand specStreamQuery doStreamQuery r s

def specStreamConfig : CmdSpec := openSpec 0x0507 (exactly 16)

def doStreamConfig (c : Ctx) (s : State) : Result :=
  let p := c.p
  let e := u32At p 8
  let w := u32At p 12
  c.fields s [(6, zeroAt p 6 2), (8, e == 0 || (decide (50 ≤ e) && decide (e ≤ 100000))),
      (12, w == 0 || (decide (10 ≤ w) && decide (w ≤ 10000)))] <|
    okWith [] (s.modBay c.bay fun y => { y with work := { y.work with
      weights := y.work.weights.zipIdx.map fun x => if u8At p x.2 = 0 then x.1 else u8At p x.2
      e2eUs := if e = 0 then y.work.e2eUs else e
      watchdogUs := if w = 0 then y.work.watchdogUs else w } })

def execStreamConfig (r : Req) (s : State) : Out := runCommand specStreamConfig doStreamConfig r s

end Sys2Proof.Machine
end

