-- ==== Sys2Proof/Machine/Swath.lean ====
section
/-! DEFINITION. Swath entries: their fields and checks (R305 to R310), the spaces they name and the areas they may not write (R88,
R273), position maps (R320), staged copies (R316, R377), matrix descriptors (R260), and what an entry reads (R304). -/

namespace Sys2Proof.Machine

/-! ### The fields of an entry (R305, R308, R400) -/

def swKind (e : List Byte) : Nat := u8At e 0
def swLen (e : List Byte) : Nat := u16At e 2
def swSrc (e : List Byte) : Nat := u8At e 4
def swDst (e : List Byte) : Nat := u8At e 5
def swTier (e : List Byte) : Nat := u8At e 6 % 4
def swSrcRel (e : List Byte) : Bool := bit (u8At e 1) 0
def swDstRel (e : List Byte) : Bool := bit (u8At e 1) 1
/-- Section ordinal of a BIND or ROW entry. -/
def swSect (e : List Byte) : Nat := if swKind e = 0 then u16At e 16 else u16At e 20

/-- Base register named by an entry, as a context resolves it now. -/
def Context.baseOf (x : Context) (e : List Byte) : Nat := natAt (if x.crew.isSome then x.base else x.runBase) (bits (u8At e 1) 2 2)

/-- Source and destination addresses (R307). -/
def Context.srcAddr (x : Context) (e : List Byte) : Nat := u48At e 8 + if swSrcRel e then x.baseOf e else 0
def Context.dstAddr (x : Context) (e : List Byte) : Nat := u48At e 16 + if swDstRel e then x.baseOf e else 0

/-! ### The checks of R310 -/

/-- Whether an entry is malformed: the sheaf's sections as its context's job has read them. -/
def swMalformed (x : Context) (sections : List Section) (isUpdate : Bool) (e : List Byte) : Bool :=
  let k := swKind e
  let g := sections[swSect e]?
  let common := decide (k ≤ 4) && u8At e 1 / 16 == 0 && u8At e 6 / 4 == 0 && u8At e 7 / 8 == 0 && u16At e 14 == 0 &&
    (k == 1 || u8At e 6 == 0) && (k == 2 || swDst e == 0) && !(swSrcRel e && swSrc e == 3) &&
    (swSrc e != 3 || bits (u48At e 8) 0 32 == 0)
  let kind := match k with
    | 0 => x.crew.isSome && swLen e == 0 && (swSrc e == 1 || swSrc e == 4) && zeroAt e 18 2 && zeroAt e 28 4 &&
        decide (1 ≤ u32At e 20) && decide (u32At e 20 ≤ 2 ^ 29) &&
        g.any fun g => g.window.isNone && u32At e 24 == g.indices.length
    | 1 => x.crew.isSome && decide (swSrc e ≤ 3) && zeroAt e 22 2 && bits (u64At e 24) 40 24 == 0 &&
        g.any fun g => (swLen e == 0 || (decide (swTier e < g.tab.desc.tiers) && swLen e == g.tab.rowGranules (swTier e))) &&
          (g.window.isNone || decide (u32At e 16 < g.distinct))
    | 2 => decide (swSrc e ≤ 6) && [1, 2, 4, 5, 6].contains (swDst e) && u16At e 22 == 0 && zeroAt e 24 8
    | 3 => swLen e == 0 && swSrc e == 0 && u48At e 8 == 0 && u32At e 16 % 64 == 0 && zeroAt e 20 12
    | _ => x.crew.isSome && isUpdate && (swSrc e == 1 || swSrc e == 4) && decide (u8At e 26 ≤ 1) && zeroAt e 27 1 &&
        bits (u64At e 16) 40 24 == 0 &&
        (sections.find? fun g => g.table == u16At e 24).any fun g => swLen e == (g.tab.desc.dim + 15) / 16
  !(common && kind)

/-- Whether `n` granules at an address of a space lie inside a bay's bounds on a die (R88, R306). -/
def State.spaceIn (s : State) (b die space addr n : Nat) : Bool :=
  let sp := (s.bay b).space
  decide (addr < 2 ^ 48) && match space with
  | 0 => decide (addr + n ≤ s.halfGranules b die)
  | 1 => sp.siloIn addr n
  | 2 => sp.loftIn addr n
  | 3 => true
  | 4 => decide (addr + n ≤ s.cribShare b die)
  | _ => false

def runsMeet (a b : Run) : Bool := decide (a.first < b.first + b.len) && decide (b.first < a.first + a.len)

/-- Silo areas into which no swath entry may write (R273): directory segments, default rows, side tensors and codebooks, the heat
snapshot and the stage areas. -/
def State.guarded (s : State) (b : Nat) : List Run :=
  let sh := (s.bay b).core.shares
  ((s.bay b).tables.flatMap fun t => t.segments.flatMap Segment.dir ++ t.defRow.toList ++ t.points.flatMap Point.side) ++
    [⟨s.areaBase b 0 + s.ringBytes b / 64, mibGranules⟩, ⟨s.stageBase b 0, mibGranules * natAt sh.stageMiB 0⟩,
      ⟨s.stageBase b 1, mibGranules * natAt sh.stageMiB 1⟩]

/-- Granules of the table rows of a bay at a home. -/
def State.rowRuns (s : State) (b home : Nat) : List Run :=
  (s.bay b).tables.flatMap fun t => ((s.entries b t).filter fun e => e.2.home == home && !e.2.isAlias).map fun e =>
    ⟨e.2.addr, t.rowGranules e.2.tier⟩

/-- Whether a destination is one that a swath entry may write (R88, R273). -/
def State.dstOk (s : State) (b die space addr n : Nat) : Bool :=
  s.spaceIn b die space addr n && match space with
  | 1 => !(s.guarded b ++ s.rowRuns b 1).any fun r => runsMeet r ⟨addr, n⟩
  | 2 => !(s.rowRuns b 2).any fun r => runsMeet r ⟨addr, n⟩
  | _ => true

/-- BAY_BOUNDS (R88, R89): path 0 a read, 1 a write of a swath entry, and so on in the row order of R88. -/
def State.boundsEvent (s : State) (b die path addr : Nat) : State :=
  s.raise 0x0C01 1 (some b) (some die) (leBytes 1 path ++ zeros 3 ++ leBytes 8 (addr % 2 ^ 64))

/-! ### Row slots, maps, staged copies -/

/-- A row slot put into a section. -/
def Section.setSlot (g : Section) (r : RowSlot) : Section := { g with slots := putKey RowSlot.slot r g.slots }

/-- The staged copy of a row on a die (R316). -/
def State.staged (s : State) (b die table row : Nat) : Option Staged :=
  ((s.bay b).granary.stage.getD die StageDie.initial).copies.find? fun c => c.table == table && c.row == row

/-- Whether a ROW entry hits a staged copy (R377). -/
def State.stageHit (s : State) (x : Sheaf) (g : Section) (c : Staged) (tier home addr : Nat) : Bool :=
  match c.node with
  | none => home == 2 && c.tier == tier && c.src == addr && (s.entry x.bay g.tab c.row).any fun e => e.epoch == c.epoch
  | some _ => home == 3 && decide (x.firstRead ≤ c.read) &&
      (g.tab.desc.relaxed || ((s.unacked g.u).isEmpty && (findKey Prod.fst x.cleared g.table).all fun y => decide (y.2 ≤ c.read)))

def State.modStage (s : State) (b die : Nat) (f : StageDie → StageDie) : State :=
  s.modBay b fun y => { y with granary := { y.granary with stage := y.granary.stage.modify die f } }

/-- Positions of a map (R320). -/
def posAt (data : List Byte) (n : Nat) : List Pos :=
  items n fun i => let w := u32At data (4 * i); ⟨bits w 0 29, bits w 29 2, bit w 31⟩

/-- The area of a space on a die of a bay: area, owner, die, and granule offset. -/
def spaceArea (space half b die : Nat) : Area × Nat × Nat :=
  match space with
  | 0 => (halfArea half, b, die)
  | 1 => (.silo, b, 0)
  | 2 => (.loft, b, 0)
  | 4 => (.crib, b, die)
  | 5 => (.stage, b, die)
  | _ => (halfArea half, b, die)

/-- Bytes of a partial of a table (R524). -/
def Tab.partialBytes (t : Tab) : Nat := (if 3 ≤ t.desc.mode then 12 else 8) * t.desc.dim

/-- Bags put into requests, as many to one as its records and its answer have room for (R523, R524): each with its number of
positions. -/
def poolGroups (size : Nat) : List (Nat × Nat) → List Nat → Nat → Nat → List (List Nat)
  | [], cur, _, _ => if cur.isEmpty then [] else [cur]
  | (bag, n) :: rest, cur, used, back =>
    if !cur.isEmpty && (65504 < used + 16 * n || 65504 < back + size) then cur :: poolGroups size rest [bag] (16 * n) size
    else poolGroups size rest (cur ++ [bag]) (used + 16 * n) (back + size)

/-- The crew whose store a JOB entry's descriptor lies in: the context's job's, or the bay's lowest crew on the die (DEDUCED, log 22). -/
def State.jobCrew (s : State) (x : Context) : Nat :=
  match x.crew with
  | some c => c
  | none => ((s.bay x.bay).crews.find? fun c => c / 16 == ctxDie x.no).getD (16 * ctxDie x.no)

/-- The first entry a context accepts sets its queue (R305). -/
def Context.setQueue (x : Context) (e : List Byte) : Context :=
  if x.queueSet then x else { x with queue := u8At e 7 % 8, queueSet := true }

/-! ### Matrix job descriptors (R260) -/

/-- A descriptor as R260 lays it out. -/
structure MatDesc where
  fa : Fmt
  fw : Fmt
  fo : Fmt
  bias : Bool
  comp : Bool
  fuseOp : Nat
  m : Nat
  k : Nat
  n : Nat
  aAddr : Nat
  wAddr : Nat
  bAddr : Nat
  oAddr : Nat
  uAddr : Nat
  col : Nat
  status : Nat
deriving DecidableEq, Repr

/-- Formats that a matrix input may have (R95). -/
def matrixInput (f : Fmt) : Bool := !isCodebook f && f != .fp32

/-- The fields of a descriptor; none where one is out of range by itself. -/
def matDescOf (d : List Byte) : Option MatDesc :=
  match fmtOfCode (u8At d 0), fmtOfCode (u8At d 1), fmtOfCode (u8At d 2) with
  | some fa, some fw, some fo =>
    let fl := u8At d 3
    let x : MatDesc :=
      { fa := fa, fw := fw, fo := fo, bias := bit fl 0, comp := bit fl 1, fuseOp := bits fl 2 2, m := u32At d 4, k := u32At d 8,
        n := u32At d 12, aAddr := u64At d 16, wAddr := u64At d 24, bAddr := u64At d 32, oAddr := u64At d 40, uAddr := u64At d 48,
        col := u32At d 56, status := u32At d 60 }
    if matrixInput fa && matrixInput fw && legalOutput fo && isIntFmt fa == isIntFmt fw && decide (fl < 16) && decide (x.fuseOp < 3) &&
        !(x.comp && isIntFmt fa) && decide (1 ≤ x.m) && decide (x.m ≤ 2 ^ 24) && decide (1 ≤ x.k) && decide (x.k ≤ 2 ^ 30) &&
        decide (1 ≤ x.n) && decide (x.n ≤ 65536) && (x.bias || x.bAddr == 0) && (x.fuseOp != 0 || x.uAddr == 0) &&
        decide (x.col + 16 * x.n ≤ 0xF0000) && decide (x.status + 16 ≤ 0xF0000) then some x else none
  | _, _, _ => none

/-- Granules of a row of `n` elements of a format. -/
def matRow (f : Fmt) (n : Nat) : Nat := granulesOf ((n * fmtBits f + 7) / 8)

def MatDesc.isInt (x : MatDesc) : Bool := isIntFmt x.fa

/-- Spans that a job reads and writes in the bay's silo space. -/
def MatDesc.reads (x : MatDesc) : List Run :=
  [⟨x.aAddr, x.m * matRow x.fa x.k⟩, ⟨x.wAddr, x.k * matRow x.fw x.n⟩] ++
    (if x.bias then [⟨x.bAddr, if x.isInt then granulesOf (8 * x.m * x.n) else granulesOf (4 * x.n)⟩] else []) ++
    (if x.fuseOp = 0 then [] else [⟨x.uAddr, x.m * matRow .fp32 x.n⟩])

def MatDesc.out (x : MatDesc) : Run := ⟨x.oAddr, x.m * matRow x.fo x.n⟩

/-! ### What an entry reads (R304) -/

/-- Whether the job of a context still runs: UPDATE entries wait for its end (R402). -/
def State.jobRuns (s : State) (x : Context) : Bool :=
  match x.crew with
  | some c => ((s.dp.crews[c]?).bind Crew.job).any fun j => j.sheaf == x.sheaf
  | none => false

/-- The fused operand row of a bag (R252): row 0, or the bag's ordinal among the sheaf's bags of the table. -/
def Sheaf.fuseRow (f : Sheaf) (k bag : Nat) : Nat :=
  match f.sections[k]? with
  | none => 0
  | some g => if g.tab.pool.fuseMode = 0 then 0
    else sumBy (fun (h : Section) => if h.table = g.table then h.bags else 0) (f.sections.take k) + bag

/-- The fused operand rows of a section, each once, and the granules of one. -/
def Sheaf.fuseRows (f : Sheaf) (k : Nat) (g : Section) : List Nat :=
  if g.tab.pool.fuseOp = 0 then [] else distinct (items g.bags (f.fuseRow k))
def Section.fuseRun (g : Section) (row : Nat) : Run := ⟨g.fuseBase + row * g.tab.fuseGranules, g.tab.fuseGranules⟩

/-- The section that an entry of a job's context names. -/
def State.sectionOf (s : State) (x : Context) (e : List Byte) : Option (Sheaf × Section) :=
  match (s.sheaf x.sheaf).filter fun _ => x.crew.isSome with
  | none => none
  | some f => (f.sections[swSect e]?).map fun g => (f, g)

/-- The spans that an entry reads, or for a COPY its next piece: space and granules. -/
def State.entryReads (s : State) (x : Context) (w : Swath) : List (Nat × Run) :=
  let e := w.bytes
  match swKind e with
  | 0 => (if w.map.isEmpty then [(swSrc e, ⟨x.srcAddr e, granulesOf (4 * u32At e 24)⟩)] else []) ++
      (match s.sectionOf x e with
        | some (f, g) => (f.fuseRows (swSect e) g).map fun r => (1, g.fuseRun r)
        | none => [])
  | 1 => [(swSrc e, ⟨x.srcAddr e, swLen e⟩)]
  | 2 => [(swSrc e, ⟨x.srcAddr e + w.issued, min x.slot (swLen e - w.issued)⟩)]
  | 3 => ((matDescOf (s.read .store (s.jobCrew x) 0 (u32At e 16) 64)).map fun d => d.reads.map fun r => (1, r)).getD []
  | _ => if w.contrib.isSome then [] else [(swSrc e, ⟨x.srcAddr e, swLen e⟩)]

/-- Whether an earlier COPY of a context has still to write a span (R304). -/
def State.copyWaits (s : State) (x : Context) (space : Nat) (r : Run) : Bool :=
  (s.dp.reads.any fun q => q.ctx == some x.no && match q.purpose with
    | .copy _ sp a _ => sp == space && runsMeet ⟨a, q.granules⟩ r
    | _ => false) ||
  s.dp.writes.any fun w => w.for_ == .copy x.no && w.space == space && runsMeet ⟨w.addr, w.data.length⟩ r

end Sys2Proof.Machine
end

