-- ==== Sys2Proof/Machine/Engine.lean ====
section
/-! DEFINITION. The stream engine: what an entry needs before it can be issued and its issue (R301 to R304, R310 to R316, R320, R321,
R327), the requests it puts for a section, and the stall watchdog, spill and reload (R334 to R336). -/

namespace Sys2Proof.Machine

/-! ### Requests of a section: side tensors, fused operands, pooled positions -/

/-- Whether the side tensor of a tier has been asked for in a section, and whether it is in the decode store. -/
def State.sideAsked (s : State) (no k : Nat) (g : Section) (tier : Nat) : Bool :=
  (g.sides.any fun x => x.1 == tier) || s.dp.reads.any fun r => r.purpose == .side no k tier
def State.sideThere (s : State) (no k : Nat) (g : Section) (tier : Nat) : Bool :=
  (g.sides.any fun x => x.1 == tier) && !s.dp.reads.any fun r => r.purpose == .side no k tier || r.purpose == .wicketSide no tier

/-- The side tensor of a tier, or its codebooks, asked for with the section's first row of the tier (R110, R327); a tier without
any has it at once. -/
def State.fetchSide (s : State) (no k : Nat) (g : Section) (b die : Nat) (ctx : Option Nat) (queue tier : Nat) : State :=
  if s.sideAsked no k g tier then s
  else match (g.tab.point tier).side with
    | [] => s.modSection no k fun g => { g with sides := g.sides ++ [(tier, true)] }
    | l => l.foldl (fun s r => State.putRead s b die ctx queue false (.side no k tier) 1 r.first r.len 0 false) s

/-- Fused operand rows of a section that have not been asked for are, in a queue (R252, R327). -/
def State.fetchFused (s : State) (no k die : Nat) (ctx : Option Nat) (queue : Nat) : State :=
  match s.sheaf no with
  | none => s
  | some f => match f.sections[k]? with
    | none => s
    | some g =>
      let have_ := fun (r : Nat) => (g.fused.any fun x => x.1 == r) || s.dp.reads.any fun q => q.purpose == .fuse no k r
      ((f.fuseRows k g).filter fun r => !have_ r).foldl (fun s r =>
        let a := g.fuseRun r
        if s.spaceIn f.bay die 1 a.first a.len then State.putRead s f.bay die ctx queue false (.fuse no k r) 1 a.first a.len 0 false
        else (State.boundsEvent s f.bay die 0 a.first).putRead f.bay die ctx queue false (.fuse no k r) 1 a.first a.len 0 true) s

/-- The POOL_REQs for some positions of a section, given with their places, to an owner (R218, R523): each with its purpose. -/
def State.putPool (s : State) (b die : Nat) (ctx : Option Nat) (queue : Nat) (g : Section) (node flags : Nat) (mine : List (Pos × Nat))
    (purpose : List Nat → Purpose) : State :=
  let all := distinct (mine.map fun p => g.bagOf p.2)
  let sizes := all.map fun bag => (bag, (mine.filter fun p => g.bagOf p.2 == bag).length)
  (poolGroups (16 + g.tab.partialBytes) sizes [] 0 0).foldl (fun s bags =>
    let recs := (mine.filter fun p => bags.contains (g.bagOf p.2)).map fun p =>
      let bag := g.bagOf p.2
      let w := natAt g.weights p.2
      (bits (natAt g.indices p.2) 0 40, p.2 - g.bagStart bag, bags.findIdx (· == bag),
        if g.weightFmt = 1 then bf16To32 w else if g.weightFmt = 2 then w else 0)
    State.putPoolReq s b die ctx queue (purpose bags) (flags + 2 * flag g.tab.pool.compensated) node g.table g.tab.map.version bags.length
      recs) s

/-- POOL_REQs for the positions of a section that other owners pool: the partials of each go under its number. -/
def State.putPools (s : State) (b die : Nat) (ctx : Option Nat) (queue : Nat) (g : Section) (map : List Pos)
    (purpose : Nat → List Nat → Purpose) : State :=
  let idx := map.zipIdx.filter fun p => p.1.kind == 3
  (distinct (idx.map fun p => p.1.slot)).foldl (fun s node =>
    s.putPool b die ctx queue g node 0 (idx.filter fun p => p.1.slot == node) (purpose node)) s

/-! ### What an entry needs (R304, R314, R315, R334) -/

/-- Whether an entry can be issued: it waits, it waits for crib space and for nothing else (R334), or it can, with what it wants
at the point of its memory or link. -/
inductive Avail where
  | wait
  | stall
  | go (want : Option Want)
deriving DecidableEq, Repr

/-- What a read of a context meets on its way; `room` says whether there is crib space for it. -/
def State.availRead (s : State) (x : Context) (space addr n : Nat) (room : Bool) : Avail :=
  let die := ctxDie x.no
  let h := s.homeOf x.bay die space addr
  let points := if space = 3 then s.pathPoints (bits addr 32 16) die else s.accessPoints x.bay die h.1 h.2 false
  if points.all (s.pointOpen false x.bay) && s.ridgeOpen x.bay die h.1 h.2 n false &&
      (s.deadAt x.bay die h.1 h.2 || s.boundsMay x.bay die (some x.no) space addr n) then
    if room then .go (wantAt x.bay die x.queue false points n) else .stall
  else .wait

/-- The staged copy that serves a ROW entry (R316, R377). -/
def State.rowHit (s : State) (x : Context) (f : Sheaf) (g : Section) (e : List Byte) : Option Staged :=
  (s.staged x.bay (ctxDie x.no) g.table (bits (u64At e 24) 0 40)).filter fun c =>
    (swSrc e == 2 || swSrc e == 3) && s.stageHit f g c (swTier e) (swSrc e) (x.srcAddr e)

/-- A ROW entry waits for its section's BIND (R321); one out of bounds or served by the granary needs nothing; a hit in the
crib needs space, another the stage area's silo; any other its source. -/
def State.availRow (s : State) (x : Context) (e : List Byte) : Avail :=
  match s.sectionOf x e with
  | none => .go none
  | some (f, g) =>
    if g.window.isNone then .wait
    else if !s.spaceIn x.bay (ctxDie x.no) (swSrc e) (x.srcAddr e) (swLen e) || swSrc e == 0 then .go none
    else
      let room := s.cribRoom x (x.slotsFor (swLen e)) ((g.nextSlots (s.foldedOf f.no (swSect e))).contains (u32At e 16))
      match s.rowHit x f g e with
      | some c =>
        if !c.done then .wait
        else if c.inCrib then (if room then .go none else .stall)
        else s.availRead x 5 c.at_ c.granules room
      | none => s.availRead x (swSrc e) (x.srcAddr e) (swLen e) room

/-- Whether the source of a COPY entry lies whole inside the bay's bounds (R88, R309, R310). -/
def State.copyIn (s : State) (x : Context) (e : List Byte) : Bool :=
  s.spaceIn x.bay (ctxDie x.no) (swSrc e) (x.srcAddr e) (swLen e)

/-- Whether the bay's crib share can provide the reserve of a context that a BIND gives larger slots (R319, R333). -/
def State.bindFits (s : State) (x : Context) (e : List Byte) : Bool :=
  match s.sectionOf x e with
  | none => true
  | some (_, g) => decide (g.tab.maxGranules ≤ x.slot) || s.cribFits x.bay (ctxDie x.no) (2 * g.tab.maxGranules - x.reserve)

/-- Whether an entry is an UPDATE entry held until every hand of its job has called EXIT (R402). -/
def State.entryHeld (s : State) (x : Context) (w : Swath) : Bool := swKind w.bytes == 4 && s.jobRuns x

/-- What the entry at the head of a context needs. -/
def State.availEntry (s : State) (x : Context) (w : Swath) : Avail :=
  let e := w.bytes
  if s.entryHeld x w then .wait
  else if (s.entryReads x w).any fun r => s.copyWaits x r.1 r.2 then .wait
  else match swKind e with
    | 0 => if s.bindFits x e then .go none else .stall
    | 1 => if swLen e = 0 then .go none else s.availRow x e
    | 2 =>
      if swLen e = 0 || !s.copyIn x e then .go none
      else
        let n := min x.slot (swLen e - w.issued)
        s.availRead x (if swSrc e = 3 then 9 else swSrc e) (x.srcAddr e + w.issued) n (s.cribRoom x x.slot false)
    | 4 =>
      if w.contrib.isSome || !s.spaceIn x.bay (ctxDie x.no) (swSrc e) (x.srcAddr e) (swLen e) then .go none
      else s.availRead x (swSrc e) (x.srcAddr e) (swLen e) true
    | _ => .go none

/-- Whether the entry at the head of a context is malformed (R310). -/
def State.headBad (s : State) (x : Context) (w : Swath) : Bool :=
  let f := (s.sheaf x.sheaf).filter fun _ => x.crew.isSome
  swMalformed x ((f.map Sheaf.sections).getD []) (f.any Sheaf.isUpdate) w.bytes

/-- What the entry at the head of a RUNNING context wants, if all but its turn lets it be issued. -/
def State.headWant (s : State) (x : Context) : Option Want :=
  match x.running, x.waiting with
  | true, w :: _ => if s.headBad x w then none else match s.availEntry x w with
    | .go want => want
    | _ => none
  | _, _ => none

def State.heads (s : State) : List Want := s.dp.contexts.filterMap s.headWant

/-- Whether an access is let through now: by the regulators, the ridge, the bounds and its turn (R64, R312). -/
def State.mayAccess (s : State) (b die queue home addr g : Nat) (isWrite : Bool) : Bool :=
  s.accessMay b die home addr g isWrite && (s.accessWant b die queue home addr g isWrite).all fun w => s.turn w (s.wants ++ s.heads)

/-- An access made in its queue, charged to its bay. -/
def State.access (s : State) (b die queue home addr g : Nat) (isWrite : Bool) : State :=
  (match s.accessWant b die queue home addr g isWrite with
    | some w => s.drrTake w (w :: (s.wants ++ s.heads))
    | none => s).chargeAccess b die home addr g isWrite

/-- The reads that wait are issued as far as they can be (R312, R314). -/
def State.pump (s : State) : State := State.serveReads State.heads s.dp.reads.length s

/-- A read just put is issued at once. -/
def State.startLast (s : State) (rivals : List Want) : State :=
  match s.dp.reads.getLast? with
  | some r => s.startRead r rivals
  | none => s

/-- A row slot that nobody will fold gives its crib space back. -/
def State.giveSlot (s : State) (no k : Nat) (r : RowSlot) : State :=
  let s := s.modSlot no k r.slot fun r => { r with released := true, data := none, spilled := none, took := 0 }
  if r.ctx = noCtx then s else s.cribFree r.ctx r.took

/-- The same of a row slot by its number. -/
def State.dropRow (s : State) (no k slot : Nat) : State :=
  match s.slotAt no k slot with
  | some r => if r.released then s else s.giveSlot no k r
  | none => s

/-- The same of a row slot whose row has come. -/
def State.giveRow (s : State) (no k slot : Nat) : State :=
  match s.slotAt no k slot with
  | some r => if !r.released && (r.data.isSome || r.home == 0) then s.giveSlot no k r else s
  | none => s

/-! ### Issue of ROW entries (R316, R319, R321) -/

/-- A staged copy taken out of a die's records, or marked used; `counter` is the one of R384 that moves. -/
def State.unstage (s : State) (b die table row counter : Nat) : State :=
  s.modStage b die fun d =>
    { copies := d.copies.filter fun y => !(y.table == table && y.row == row), counters := addAt d.counters counter 1 }
def State.useStaged (s : State) (b die table row : Nat) : State :=
  s.modStage b die fun d =>
    { copies := d.copies.map fun y => if y.table = table && y.row = row then { y with used := s.dev.now } else y
      counters := addAt d.counters 1 1 }

/-- A row slot as a ROW entry makes it, before its data has come. -/
def rowSlotOf (x : Context) (e : List Byte) : RowSlot :=
  { slot := u32At e 16, row := bits (u64At e 24) 0 40, tier := swTier e, home := swSrc e, half := 0, addr := x.srcAddr e,
    granules := swLen e, data := none, chaffed := false, released := false, heated := false, ctx := x.no, took := 0, spilled := none }

/-- A row slot put into a section, with the side tensor of its tier. -/
def State.putSlot (s : State) (x : Context) (no k : Nat) (g : Section) (r : RowSlot) : State :=
  (s.modSection no k fun g => g.setSlot r).fetchSide no k g x.bay (ctxDie x.no) (some x.no) x.queue r.tier

/-- A ROW entry is issued. -/
def State.issueRow (s : State) (x : Context) (e : List Byte) (rivals : List Want) : State :=
  match s.sectionOf x e with
  | none => s
  | some (f, g) =>
    let no := f.no
    let k := swSect e
    let b := x.bay
    let die := ctxDie x.no
    let n := swLen e
    let slot := rowSlotOf x e
    let row := Purpose.row no k slot.slot
    if !s.spaceIn b die (swSrc e) slot.addr n then
      let s := s.putSlot x no k g { slot with data := some (zeros (64 * n)), chaffed := true, home := 4 }
      ((s.boundsEvent b die 0 slot.addr).modCtx x.no fun x => x.bump 2 n).count b 14 n
    else if swSrc e = 0 then s.putSlot x no k g { slot with half := (s.indexFor b die (natAt f.gens die)).1 }
    else match s.rowHit x f g e with
      | some c =>
        let slot := { slot with tier := c.tier, granules := c.granules }
        if c.inCrib then
          let took := x.slotsFor n
          ((s.unstage b die c.table c.row 1).cribTake x.no took).putSlot x no k g { slot with data := some c.data, took := took }
        else
          (((s.useStaged b die c.table c.row).putSlot x no k g slot).putRead b die (some x.no) x.queue false row 5 c.at_ c.granules 0
            false).startLast rivals
      | none =>
        let s := if (swSrc e = 2 || swSrc e = 3) && (s.staged b die g.table slot.row).isSome then s.unstage b die g.table slot.row 4 else s
        let s := s.putSlot x no k g slot
        (if swSrc e = 3 then
          s.putReadReq b die (some x.no) x.queue row (bits slot.addr 32 16) g.table g.tab.map.version slot.row n
        else s.putRead b die (some x.no) x.queue false row (swSrc e) slot.addr n 0 false).startLast rivals

/-! ### BIND, COPY, JOB and UPDATE -/

/-- The windows of a position map (R320): 4,096 positions each, by their first. -/
def mapWindows (n : Nat) : List Nat := items ((n + 4095) / 4096) (4096 * ·)

/-- A map read in windows from crib or silo; where it is not inside the bay's bounds its granules are chaffed zeros (R310). -/
def State.fetchMap (s : State) (x : Context) (k : Nat) (e : List Byte) : State :=
  let n := u32At e 24
  let die := ctxDie x.no
  let addr := x.srcAddr e
  let isIn := s.spaceIn x.bay die (swSrc e) addr (granulesOf (4 * n))
  let s := if isIn then s else s.boundsEvent x.bay die 0 addr
  (mapWindows n).foldl (fun s base =>
    State.putRead s x.bay die (some x.no) x.queue false (.map x.sheaf k base) (swSrc e) (addr + base / 16)
      (granulesOf (4 * min 4096 (n - base))) 0 (!isIn)) s

/-- A BIND is issued: its window is created (R320), with the map that a standard program sends, or one still to be read. -/
def State.issueBind (s : State) (x : Context) (w : Swath) : State :=
  let e := w.bytes
  let k := swSect e
  match s.sectionOf x e with
  | none => s
  | some (f, g) =>
    let map := if w.map.isEmpty then List.replicate (u32At e 24) ⟨0, 5, false⟩ else w.map
    let s := s.modSection f.no k fun g => { g with window := some map, distinct := u32At e 20, ctx := x.no, queue := x.queue }
    let s := s.modCtx x.no fun x => { x with slot := g.tab.maxGranules }
    let s := s.discardCrib x.bay (ctxDie x.no) 0
    let s := if w.map.isEmpty then s.fetchMap x k e else s.putPools x.bay (ctxDie x.no) (some x.no) x.queue g map (.pool f.no k)
    s.fetchFused f.no k (ctxDie x.no) (some x.no) x.queue

/-- A piece of a COPY entry is issued (R319): the entry stays until its last piece has been. The specification does not say what a
remote source without a row holds (DESIGN CHOICE, log 149: space 9), nor which half a persistent stream reads: the one live at issue (DESIGN
CHOICE, log 194). -/
def State.issueCopy (s : State) (x : Context) (w : Swath) (rivals : List Want) : Swath × State :=
  let e := w.bytes
  let b := x.bay
  let die := ctxDie x.no
  let n := min x.slot (swLen e - w.issued)
  let src := x.srcAddr e + w.issued
  let half := match (s.sheaf x.sheaf).filter fun _ => x.crew.isSome with
    | some f => (s.indexFor b die (natAt f.gens die)).1
    | none => (s.hotDie b die).live
  let good := s.dstOk b die (swDst e) (x.dstAddr e) (swLen e)
  let isIn := s.copyIn x e
  let s := if !good && w.issued = 0 then s.boundsEvent b die 1 (x.dstAddr e) else s
  let s := if !isIn && w.issued = 0 then s.boundsEvent b die 0 (x.srcAddr e) else s
  let took := if isIn then x.slot else 0
  let s := if isIn then s.cribTake x.no took else s
  let s := s.putRead b die (some x.no) x.queue false (.copy x.no (if good then swDst e else 7) (x.dstAddr e + w.issued) took)
    (if swSrc e = 3 then 9 else swSrc e) src n half (!isIn)
  ({ w with issued := w.issued + n }, s.startLast rivals)

/-- Entries that a standard program has still to emit go, in order, into their contexts while these have room (R303). -/
def feedList : List (Nat × Swath) → List Nat → State → List (Nat × Swath) × State
  | [], _, s => ([], s)
  | (n, w) :: rest, full, s =>
    if full.contains n || (s.context n).any fun x => decide (64 ≤ x.waiting.length) then
      let (l, s) := feedList rest (n :: full) s
      ((n, w) :: l, s)
    else feedList rest full (s.modCtx n fun x =>
      { (x.setQueue w.bytes) with waiting := x.waiting ++ [w], waitSince := if x.waiting.isEmpty then s.dev.now else x.waitSince })

def State.feed (s : State) (crew : Nat) : State :=
  match (s.dp.crews[crew]?).bind Crew.job with
  | none => s
  | some j =>
    let (l, s) := feedList j.backlog [] s
    { s with dp.crews := s.dp.crews.modify crew fun c => { c with job := c.job.map fun j => { j with backlog := l } } }

/-- Entries of a run's list enter their context while it has room (R303). -/
def Context.refill (x : Context) : Context :=
  let n := 64 - x.waiting.length
  { x with waiting := x.waiting ++ x.rest.take n, rest := x.rest.drop n }

/-- The head of a context dropped. -/
def State.ctxPop (s : State) (n : Nat) : State :=
  let s := s.modCtx n fun x => ({ x with waiting := x.waiting.drop 1 }).refill
  let s := match (s.context n).bind Context.crew with
    | some c => s.feed c
    | none => s
  s.ctxSettle n

def State.countExec (s : State) (n : Nat) : State :=
  s.modCtx n fun x => { x with executed := x.executed + 1, runCounts := addAt x.runCounts 0 1 }

/-- A malformed entry (R310): counted, and reported once per job or run; an UPDATE entry of an EXPAND job makes its sheaf RANGE
(R402). -/
def State.malformedEntry (s : State) (x : Context) (e : List Byte) : State :=
  let s := s.modCtx x.no fun x => { (x.bump 0 1) with reported := true }
  let told := match x.crew with
    | some c => s.dp.contexts.any fun y => y.crew == some c && y.sheaf == x.sheaf && y.reported && y.no != x.no
    | none => false
  let s := if x.reported || told then s
    else s.raise 0x0401 1 (some x.bay) (some (ctxDie x.no)) (leBytes 2 x.no ++ leBytes 1 (swKind e))
  s.modSheaf x.sheaf fun f => { f with bad := f.bad || (x.crew.isSome && f.isUpdate && swKind e == 4) }

/-- An UPDATE entry is issued: its values travel with it, or are read from the entry's source (R400); one out of bounds reads chaffed
zeros and makes the sheaf RANGE (R310, R402). -/
def State.issueUpdate (s : State) (x : Context) (w : Swath) (rivals : List Want) : State :=
  let e := w.bytes
  let c : Contrib := ⟨u16At e 24, bits (u64At e 16) 0 40, false, u8At e 26, u32At e 28, [], w.seq⟩
  match w.contrib with
  | some c => s.modSheaf x.sheaf fun f => { f with contribs := f.contribs ++ [c] }
  | none =>
    let b := x.bay
    let die := ctxDie x.no
    let isIn := s.spaceIn b die (swSrc e) (x.srcAddr e) (swLen e)
    let s := if isIn then s else (s.boundsEvent b die 0 (x.srcAddr e)).modSheaf x.sheaf fun f => { f with bad := true }
    (s.putRead b die (some x.no) x.queue false (.update x.sheaf c) (swSrc e) (x.srcAddr e) (swLen e) 0 (!isIn)).startLast rivals

/-- A matrix job enters the queue of its die (R260). One of a persistent stream, behind which there is no hand program, that is
integral and has a bias gets it from the standard ZPSUM (R289; DESIGN CHOICE, log 154). A descriptor outside the crew store is out of
bounds: its zeros pass no check and name no place for a status (R310; DESIGN CHOICE, log 192). -/
def State.issueJob (s : State) (x : Context) (e : List Byte) : State :=
  if 0x100000 < u32At e 16 + 64 then s.boundsEvent x.bay (ctxDie x.no) 0 (u32At e 16 / 64) else
  let c := s.jobCrew x
  let desc := s.read .store c 0 (u32At e 16) 64
  let zp := x.crew.isNone && (matDescOf desc).any fun d => d.isInt && d.bias
  { s with
    dp.nextRead := s.dp.nextRead + 1
    dp.matrices := s.dp.matrices ++
      [{ id := s.dp.nextRead, bay := x.bay, ctx := x.no, crew := c, thresher := none, desc := desc, at_ := u32At e 16,
         bias := if zp then .wait else .done, block := 0, row := 0, written := 0,
         sat := 0, bad := [] }] }

/-- The entry at the head of a context is issued. -/
def State.issueEntry (s : State) (x : Context) (w : Swath) (rivals : List Want) : State :=
  let e := w.bytes
  let n := x.no
  let s := s.modCtx n fun x => { x with stalledSince := none }
  match swKind e with
  | 0 => ((s.issueBind x w).countExec n).ctxPop n
  | 1 =>
    if swLen e = 0 then (s.modCtx n fun x => x.bump 1 1).ctxPop n
    else
      let s := s.issueRow x e rivals
      let s := if x.faulted then s.giveRow x.sheaf (swSect e) (u32At e 16) else s
      (s.countExec n).ctxPop n
  | 2 =>
    if swLen e = 0 then (s.modCtx n fun x => x.bump 1 1).ctxPop n
    else
      let (w', s) := s.issueCopy x w rivals
      if w'.issued < swLen e then s.modCtx n fun x => { x with waiting := w' :: x.waiting.drop 1 }
      else (s.countExec n).ctxPop n
  | 3 => ((s.issueJob x e).countExec n).ctxPop n
  | _ => ((s.issueUpdate x w rivals).countExec n).ctxPop n

/-- ENTRY_ISSUE (R304, R310, R312): the engine takes the next entry of a RUNNING context, checks it and issues it if everything it
needs is available and it is its turn. A context whose entry waits for crib space alone is crib-stalled from then on (R334), one
whose entry waits for anything else is not. -/
def execEntryIssue (ctx : Nat) (s : State) : Out :=
  .next <|
    let s := s.pump
    match s.context ctx with
    | none => s
    | some x => match x.running, x.waiting with
      | true, w :: _ =>
        if s.headBad x w && !s.entryHeld x w then ((s.malformedEntry x w.bytes).ctxPop ctx).pump
        else
          let unstalled := s.modCtx ctx fun x => { x with stalledSince := none }
          match s.availEntry x w with
          | .wait => unstalled
          | .stall => s.modCtx ctx fun x => { x with stalledSince := some (x.stalledSince.getD s.dev.now) }
          | .go none => (s.issueEntry x w []).pump
          | .go (some want) =>
            let rivals := s.wants ++ s.heads
            if s.turn want rivals then (s.issueEntry x w rivals).pump else unstalled
      | _, _ => s

/-! ### The stall watchdog, spill and reload (R334 to R336) -/

/-- Granules of a bay's spill area on a die in use, those on their way there among them. -/
def State.spillTaken (s : State) (b die : Nat) : List Run :=
  sortBy Run.first <|
    ((s.dp.sheafs.filter fun x => x.bay == b).flatMap fun x => x.sections.flatMap fun g =>
      (g.slots.filter fun r => !r.released && ctxDie r.ctx == die).filterMap fun r => r.spilled.map fun a => ⟨a, r.granules⟩) ++
    (s.dp.writes.filter fun w => w.bay == b && w.die == die).filterMap fun w => match w.for_ with
      | .spillRow .. | .spillPiece _ => some ⟨w.addr - s.spillBase b die, w.data.length⟩
      | _ => w.spilled.map fun a => ⟨a, w.data.length⟩

/-- The lowest free place of `g` granules in a bay's spill area on a die. -/
def State.spillPlace (s : State) (b die g : Nat) : Option Nat :=
  findFree (2 ^ 40) g (mibGranules * natAt (s.bay b).core.shares.spillMiB die) (s.spillTaken b die) 0

/-- The row slots of a context whose data is in the crib beyond its reserve and may be spilled: sheaf, section, slot. -/
def State.spillSlots (s : State) (x : Context) : List (Nat × Nat × RowSlot) :=
  match (s.sheaf x.sheaf).filter fun _ => x.crew.isSome with
  | none => []
  | some f => f.sections.zipIdx.flatMap fun g =>
      let keep := g.1.nextSlots (s.foldedOf f.no g.2)
      (g.1.slots.filter fun r => r.ctx == x.no && r.data.isSome && !r.released && decide (0 < r.took) && !keep.contains r.slot &&
        !s.dp.writes.any fun w => w.for_ == .spillRow f.no g.2 r.slot).map fun r => (f.no, g.2, r)

/-- Its COPY pieces whose data is in passage in the crib. -/
def State.spillWrites (s : State) (x : Context) : List Write :=
  s.dp.writes.filter fun w => w.for_ == .copy x.no && decide (0 < w.took) && w.spilled.isNone &&
    !s.dp.writes.any fun y => y.for_ == .spillPiece w.id

/-- Crib granules that a context holds beyond its reserve, which serves the rows of its two next positions (R333). -/
def State.beyondReserve (s : State) (x : Context) : Nat := x.crib - min (s.soonUsed x) x.reserve

/-- The victim of a stall (R335). -/
def State.victim (s : State) (x : Context) : Option Context :=
  greatestBy (fun (y : Context) => 2048 * y.queue + y.no) ((s.runningOn x.bay (ctxDie x.no)).filter fun y => decide (0 < s.beyondReserve y))

/-- Granules sent to a free place of the spill area, in queue 1 (R313, R335): they land at their WRITE_COMPLETION. -/
def State.sendSpill (s : State) (x : Context) (for_ : WriteFor) (l : List (Option (List Byte))) : State :=
  let die := ctxDie x.no
  match s.spillPlace x.bay die l.length with
  | some a => s.issueWrite x.bay die for_ 1 (s.spillBase x.bay die + a) l 0
  | none => s

/-- The granules of a row slot. -/
def RowSlot.granuleList (r : RowSlot) : List (Option (List Byte)) := (chunks 64 (padTo 64 (r.data.getD []))).map some

/-- The victim stated by CRIB_STALL when there is none, which the specification does not give (DESIGN CHOICE, log 176). -/
def noVictim (ctx : Nat) : Nat := Config.unstated 9 ctx % 2 ^ 16

/-- Whether a context is crib-stalled: its next entry waits for crib space and for nothing else (R334). -/
def State.cribStalled (s : State) (x : Context) : Bool :=
  match x.running, x.waiting with
  | true, w :: _ => !s.headBad x w && s.availEntry x w == .stall
  | _, _ => false

/-- STALL_WATCHDOG (R334, R335): the limit has been reached with no movement of the crib space of a context that is still stalled: what
its victim holds beyond its reserve goes to the spill area. The watchdog of one that is stalled no more stops. -/
def execStallWatchdog (ctx : Nat) (s : State) : Out :=
  .next <| match s.context ctx with
  | none => s
  | some x => match x.stalledSince with
    | none => s
    | some t =>
      if !s.cribStalled x then s.modCtx ctx fun x => { x with stalledSince := none }
      else if s.dev.now < t + 1000 * (s.bay x.bay).work.watchdogUs then s
      else
        let die := ctxDie ctx
        let s := s.modCtx ctx fun x => { x with stalledSince := some s.dev.now }
        let tell := fun (s : State) (victim n : Nat) =>
          s.raise 0x0402 1 (some x.bay) (some die) (leBytes 2 ctx ++ leBytes 2 victim ++ leBytes 4 n)
        match s.victim x with
        | none => tell s (noVictim ctx) 0
        | some v =>
          let slots := s.spillSlots v
          let pieces := s.spillWrites v
          let n := sumBy (fun (r : Nat × Nat × RowSlot) => r.2.2.granules) slots + sumBy (fun (w : Write) => w.data.length) pieces
          let s := tell s v.no n
          let s := slots.foldl (fun s r => State.sendSpill s v (.spillRow r.1 r.2.1 r.2.2.slot) r.2.2.granuleList) s
          let s := pieces.foldl (fun s w => State.sendSpill s v (.spillPiece w.id) w.data) s
          (s.count x.bay 15 1).pump

/-- The spilled row slots that a context's next positions name. -/
def State.spilledNext (s : State) (x : Context) : List (Nat × Nat × RowSlot) :=
  match (s.sheaf x.sheaf).filter fun _ => x.crew.isSome with
  | none => []
  | some f => f.sections.zipIdx.flatMap fun g =>
      let next := g.1.nextSlots (s.foldedOf f.no g.2)
      (g.1.slots.filter fun r => r.ctx == x.no && r.spilled.isSome && !r.released && next.contains r.slot).map fun r => (f.no, g.2, r)

/-- A read of the spill area put in queue 1 (R313, R336), unless it is out. -/
def State.putReload (s : State) (x : Context) (p : Purpose) (a n : Nat) : State :=
  if s.dp.reads.any fun q => q.purpose == p && !q.dropped then s
  else s.putRead x.bay (ctxDie x.no) (some x.no) 1 false p 1 (s.spillBase x.bay (ctxDie x.no) + a) n 0 false

/-- SPILL_RELOAD (R336): the spilled data that a context's next positions, or its COPY pieces, need is asked back into the crib. -/
def execSpillReload (ctx : Nat) (s : State) : Out :=
  .next <| match s.context ctx with
  | none => s
  | some x =>
    let s := (s.spilledNext x).foldl (fun s r => State.putReload s x (.reload r.1 r.2.1 r.2.2.slot) (r.2.2.spilled.getD 0) r.2.2.granules) s
    ((s.dp.writes.filter fun (w : Write) => w.for_ == .copy ctx && w.spilled.isSome).foldl (fun s w =>
      State.putReload s x (.reloadPiece w.id) (w.spilled.getD 0) w.data.length) s).pump

end Sys2Proof.Machine
end

