-- ==== Sys2Proof/Machine/Copies.lean ====
section
/-! DEFINITION. Copies between host memory and a bay's spaces (R329, R568, R571), changes of bias (R570) and the end of a
revoked region (R567). A copy has one part of at most 4,096 bytes under way at a time and never reads ahead (DEDUCED, log 45). -/

namespace Sys2Proof.Machine

/-- Bytes of granules, zeros for a chaffed one. -/
def granBytes (l : List (Option (List Byte))) : List Byte := l.flatMap fun g => g.getD (zeros 64)

def chaffCount (l : List (Option (List Byte))) : Nat := (l.filter Option.isNone).length

/-- Bytes of a page of a region (R563). -/
def pageBytes (size : Nat) : Nat := if size = 0 then 4096 else 2097152

/-- A region by its key, revoked or not. -/
def State.regionAny (s : State) (key : Nat) : Option Region := s.tth.regions.find? fun r => r.key == key

/-- The key and the granules of its region that a read of host memory is for. -/
def State.hostSpan (s : State) (r : Read) : Option (Nat × Run) :=
  let of := fun (cmd : Nat) => (s.job cmd).map fun w => (natAt w.args 2, (⟨r.addr, r.granules⟩ : Run))
  match r.purpose with
  | .hostIn cmd | .copyStatus cmd => of cmd
  | _ => none

/-- Whether a read issued to a region's granules is still out. -/
def State.hostReadsIn (s : State) (key : Nat) (span : Option Run) : Bool :=
  s.dp.reads.any fun r => (s.hostSpan r).any fun x => x.1 == key && span.all fun y => runsMeet x.2 y

/-- Whether the bias of some of a region's granules is being changed (R570). The arguments of such a command: key, first
granule, granules, bias. -/
def State.biasChanging (s : State) (key : Nat) (span : Run) : Bool :=
  s.dp.waiting.any fun w => w.kind == .bias && natAt w.args 0 == key && runsMeet span ⟨natAt w.args 1, natAt w.args 2⟩

/-- Non-posted tags of the tether in use or in quarantine (R544). -/
def State.hostTags (s : State) : Nat :=
  (s.dp.reads.filter fun r => r.space == 8).length + (s.dp.quarantines.filter fun q => q.space == 8).length

/-! ### Copies. Arguments: space, granule address, key, byte offset in the region, granules; counts: written, chaffed. `at_` is 1
while a part is under way, `dest` 1 once the status of a copy out has been read. -/

/-- Granules of the next part: within 4,096 bytes, one page and one unit. -/
def partSize (left : Nat) (hostGranule pageGranules addr : Nat) : Nat :=
  min left (min (64 - hostGranule % 64) (min (pageGranules - hostGranule % pageGranules) (unitGranules - addr % unitGranules)))

def State.copyReply (s : State) (w : Waiting) : State :=
  s.endJob w.id ⟨.ok, 0, leBytes 4 (natAt w.counts 0) ++ leBytes 4 (natAt w.counts 1)⟩

/-- A read of host memory issued for a copy. -/
def State.hostRead (s : State) (w : Waiting) (r : Region) (purpose : Purpose) (g n : Nat) : State :=
  ((s.putRead w.bay 0 none copyQueue true purpose 8 g n 0 false).modJob w.id fun w => { w with at_ := 1 }).emit (.hostRead (r.base + 64 * g) (64 * n))

/-- The next part of a copy, or its answer. What is left once the region has been revoked is neither read nor written and
counts as chaffed (DEDUCED, log 46). -/
def State.copyNext (s : State) (id : Nat) : State :=
  match s.job id with
  | none => s
  | some w =>
    if w.at_ ≠ 0 || !(w.kind == .copyIn || w.kind == .copyOut) then s
    else
      let space := natAt w.args 0
      let key := natAt w.args 2
      let n := natAt w.args 4
      let did := natAt w.counts 0 + natAt w.counts 1
      let g := natAt w.args 3 / 64 + did
      let addr := natAt w.args 1 + did
      match s.region key with
      | none => s.copyReply { w with counts := addAt w.counts 1 (n - did) }
      | some r =>
        if n ≤ did then
          if w.kind = .copyIn || w.dest = 1 then s.copyReply w
          else if decide (512 ≤ s.hostTags) then s
          else s.hostRead w r (.copyStatus id) (g - 1) 1
        else
          let k := partSize (n - did) g (pageBytes r.pageSize / 64) addr
          if w.kind = .copyIn then
            if decide (512 ≤ s.hostTags) || s.biasChanging key ⟨g, k⟩ || !s.accessMay w.bay 0 space addr k true then s
            else s.hostRead w r (.hostIn id) g k
          else ((s.putRead w.bay 0 none copyQueue false (.copyOut id) space addr k 0 false).modJob id fun w => { w with at_ := 1 }).pump

/-! ### Bias changes (R570): `at_` is 0 in Drain and 1 in Flush -/

/-- Commit: the new bias is in force on the pages, and the command answers. -/
def State.biasCommit (s : State) (w : Waiting) : State :=
  let change := fun (r : Region) =>
    let p := pageBytes r.pageSize / 64
    let pages := items (natAt w.args 2 / p) fun i => natAt w.args 1 / p + i
    let rest := r.owned.filter fun x => !pages.contains x
    { r with owned := if natAt w.args 3 = 1 then sortBy id (rest ++ pages) else rest }
  let s : State := { s with tth.regions := s.tth.regions.map fun r => if r.key == natAt w.args 0 then change r else r }
  s.endJob w.id ⟨.ok, 0, []⟩

/-- A bias change goes on once every read of its pages has completed. -/
def State.biasNext (s : State) (id : Nat) : State :=
  match s.job id with
  | none => s
  | some w =>
    let span : Run := ⟨natAt w.args 1, natAt w.args 2⟩
    if w.kind ≠ .bias || w.at_ ≠ 0 || s.hostReadsIn (natAt w.args 0) (some span) then s
    else match s.regionAny (natAt w.args 0) with
      | none => s.biasCommit w
      | some r =>
        if natAt w.args 3 = 1 && s.tth.protocol ≠ 0 && 0 < span.len then
          (s.modJob id fun w => { w with at_ := 1 }).emit (.clflush (r.base + 64 * span.first) (64 * span.len))
        else s.biasCommit w

/-! ### Deregistration (R567) -/

/-- Revoked regions with no access left out are gone, and their commands answer. -/
def State.deregNext (s : State) : State :=
  s.tth.regions.foldl (fun s r => match r.closing with
    | some id =>
      if State.hostReadsIn s r.key none then s
      else State.endJob { s with tth.regions := s.tth.regions.filter fun x => x.key != r.key } id ⟨.ok, 0, []⟩
    | none => s) s

/-- Everything on the tether that may go on does. -/
def State.tetherRun (s : State) : State :=
  let s := s.dp.waiting.foldl (fun s w => State.biasNext s w.id) s
  s.deregNext.dp.waiting.foldl (fun s w => State.copyNext s w.id) s.deregNext

/-! ### What a part's granules do -/

/-- Granules of host memory have arrived for a copy into the bay: those not chaffed are written (R329). -/
def State.hostArrived (s : State) (id : Nat) (l : List (Option (List Byte))) : State :=
  match s.job id with
  | none => s.tetherRun
  | some w =>
    let bad := chaffCount l
    if bad = l.length then
      (s.modJob id fun w => { w with at_ := 0, counts := addAt w.counts 1 bad }).tetherRun
    else
      let did := natAt w.counts 0 + natAt w.counts 1
      let s := s.issueWrite w.bay 0 (.copyIn id) (natAt w.args 0) (natAt w.args 1 + did) l 0
      (s.modJob id fun w => { w with dest := bad }).tetherRun

/-- A part's write has landed: `n` granules; `dest` holds those that were chaffed. -/
def State.copyWritten (s : State) (id n : Nat) : State :=
  (s.modJob id fun w => { w with at_ := 0, dest := 0, counts := addAt (addAt w.counts 0 n) 1 w.dest }).tetherRun

/-- Granules of the bay have arrived for a copy out: those not chaffed are written to the host. -/
def State.copyArrived (s : State) (id : Nat) (l : List (Option (List Byte))) : State :=
  match s.job id with
  | none => s
  | some w =>
    let key := natAt w.args 2
    let did := natAt w.counts 0 + natAt w.counts 1
    let good := if (s.region key).isSome then l.zipIdx.filterMap fun g => g.1.map fun d => (d, g.2) else []
    let s := good.foldl (fun s g => State.hostPlace s key (natAt w.args 3 + 64 * (did + g.2)) g.1 false) s
    (s.modJob id fun w => { w with at_ := 0, counts := addAt (addAt w.counts 0 good.length) 1 (l.length - good.length) }).tetherRun

/-- The status of a copy out has been read. -/
def State.statusArrived (s : State) (id : Nat) : State := (s.modJob id fun w => { w with at_ := 0, dest := 1 }).tetherRun

end Sys2Proof.Machine
end

