-- ==== Sys2Proof/Machine/Arrive.lean ====
section
/-! DEFINITION. What becomes of a read's granules when they arrive or are chaffed, and of a write when it lands (R310, R322,
R328, R329, R371, R372); run-ahead prefetch (R373 to R382). -/

namespace Sys2Proof.Machine

/-! ### Granules as they arrive (R328) -/

/-- One granule of a space, none where it cannot be read correctly; what a COPY's remote source holds is not stated (log 149). -/
def State.granuleAt (s : State) (b die space addr half : Nat) : Option (List Byte) :=
  let a := spaceArea space half b die
  let lost := match space with
    | 1 => s.rowBad b 0 1 addr 1
    | 5 => s.poisoned a.1 a.2.1 a.2.2 addr 1 || s.siloLost b (s.stageBase b die + addr)
    | 2 => s.rowBad b 0 2 addr 1
    | _ => s.poisoned a.1 a.2.1 a.2.2 addr 1
  if lost || s.cutOff b die space addr then none else some (s.read a.1 a.2.1 a.2.2 (64 * addr) 64)

/-- Granules of a read, none for each that is chaffed. -/
def State.granules (s : State) (r : Read) : List (Option (List Byte)) :=
  items r.granules fun i =>
    if r.outside then none
    else if r.space = 9 then some (leBytes 64 (Config.unstated 10 (4096 * r.id + i)))
    else s.granuleAt r.bay r.die r.space (r.addr + i) r.half

/-- An uncorrectable error in a granary granule (R371, R372): a copy is dropped on its die; a granary-homed row is
rewritten from the other die, or is lost. -/
def State.granaryBad (s : State) (b die half off : Nat) : State :=
  let d := s.hotDie b die
  match (d.copies half).find? fun c => decide (c.off ≤ off) && decide (off < c.off + c.granules) with
  | some c =>
    let s := s.modHot b die fun d => d.dropCopies (fun y => !(y.table == c.table && y.row == c.row)) s.dev.accepted
    s.raise 0x0404 2 (some b) (some die) (leBytes 8 (rowTag b c.table c.row))
  | none =>
    let owner := (s.bay b).tables.flatMap fun t => ((s.entries b t).filter fun e => e.2.home == 0 && !e.2.isAlias &&
      decide (e.2.addr ≤ off) && decide (off < e.2.addr + t.rowGranules e.2.tier)).map fun e => (t.id, e.1)
    match owner with
    | [] => s
    | (t, r) :: _ =>
      let other := 1 - die
      let h := (s.hotDie b other).live
      match s.granuleAt b other 0 off h with
      | some data =>
        let s := ((s.write (halfArea half) b die (64 * off) data).heal (halfArea half) b die off 1)
        s.raise 0x0404 2 (some b) (some die) (leBytes 8 (rowTag b t r))
      | none => s.raise 0x0405 2 (some b) (some die) (leBytes 8 (rowTag b t r))

/-- Granules found uncorrectable by a read: recorded, counted and reported by the memory that holds them (R318, R353, R371,
R443). -/
def State.badGranules (s : State) (r : Read) (bad : List Nat) : State :=
  bad.foldl (fun s i =>
    if r.granules ≤ i || r.outside then s
    else
      let a := spaceArea r.space r.half r.bay r.die
      let s := s.addPoison a.1 a.2.1 a.2.2 (r.addr + i)
      match r.space with
      | 1 => s.siloBad r.bay (r.addr + i)
      | 5 => s.siloBad r.bay (s.stageBase r.bay r.die + r.addr + i)
      | 2 => s.loftBad r.bay (r.addr + i)
      | 0 | 6 => s.granaryBad r.bay r.die r.half (r.addr + i)
      | _ => s) s

/-! ### Work in the threshers' slots (R239, R244, R245) -/

def State.thresher (s : State) (n : Nat) : Thresher := s.dp.threshers.getD n Thresher.initial

def State.modThresher (s : State) (n : Nat) (f : Thresher → Thresher) : State :=
  { s with dp.threshers := s.dp.threshers.modify n f }

def State.modBag (s : State) (n i : Nat) (f : BagRun → BagRun) : State :=
  s.modThresher n fun t => { t with bags := t.bags.modify i f }

/-- Positions that each chain of a work has to fold; none where what it is for is gone. -/
def State.workLen (s : State) (w : Work) : Option Nat :=
  match w with
  | .bag no k bag => (s.sectionAt no k).map fun g => g.2.bagLen bag
  | .tally no i => ((s.sheaf no).bind fun x => x.tally[i]?).map fun t => t.parts.length
  | .matrix id _ _ => ((findKey Matrix.id s.dp.matrices id).bind fun q => matDescOf q.desc).map MatDesc.k

/-- Work whose last pass has been written back (R244). -/
def BagRun.complete (s : State) (r : BagRun) : Bool :=
  (s.workLen r.work).any fun n => r.chains.all fun c => c.flight.isNone && decide (n ≤ c.next)

/-- The owners whose partials a bag takes (R218). -/
def bagNodes (g : Section) (bag : Nat) : List Nat :=
  distinct (((((g.window.getD []).drop (g.bagStart bag)).take (g.bagLen bag)).filter fun p => p.kind == 3).map Pos.slot)

/-- Whether work is complete, and a bag's fused operand and every partial it takes from other owners have arrived (R218, R244). -/
def State.bagReady (s : State) (r : BagRun) : Bool :=
  r.complete s && match r.work with
  | .bag no k bag => (s.sectionAt no k).any fun g =>
      (g.2.tab.pool.fuseOp == 0 || g.2.fused.any fun y => y.1 == g.1.fuseRow k bag) &&
        (bagNodes g.2 bag).all fun n => g.2.partials.any fun p => p.node == n && p.bag == bag
  | _ => true

/-- Work that has become ready takes its number in the order of R245: work that became ready together by its lowest slot, and bags
without any last. -/
def State.noteReady (s : State) (n : Nat) : State :=
  let t := s.thresher n
  let fresh := sortBy (fun (b : BagRun × Nat) => (b.1.slots.head?).getD 64) (t.bags.zipIdx.filter fun b => b.1.ready.isNone && s.bagReady b.1)
  fresh.foldl (fun s b => s.modThresher n fun t =>
    { t with readyNo := t.readyNo + 1, bags := t.bags.modify b.2 fun r => { r with ready := some t.readyNo } }) s

def State.noteAll (s : State) : State := (List.range 32).foldl (fun s n => State.noteReady s n) s

/-! ### Delivery -/

/-- A slot of a wicket lookup's section. -/
def State.modLookup (s : State) (id : Nat) (f : Lookup → Lookup) : State :=
  { s with dp.lookups := s.dp.lookups.map fun x => if x.id = id then f x else x }

def State.modHand (s : State) (crew hand : Nat) (f : Hand → Hand) : State :=
  { s with dp.crews := s.dp.crews.modify crew fun c => { c with job := c.job.map fun j => { j with hands := j.hands.modify hand f } } }

/-- A value loaded into a register: zero- or sign-extended. -/
def loadValue (width : Nat) (signed : Bool) (l : List Byte) : Nat :=
  let n := leNat (l.take width)
  if signed then unsignedOf 64 (signedOf (8 * width) n) else n

/-- An element of `w` bits of a vector register group, and the group with one replaced. -/
def Hand.velemW (h : Hand) (w vs i : Nat) : Nat := bits (natAt h.v ((vs + i * w / 256) % 32)) (i * w % 256) w
def Hand.setElem (h : Hand) (w vd i x : Nat) : Hand :=
  let lo := i * w % 256
  { h with v := h.v.modify ((vd + i * w / 256) % 32) fun r => r - bits r lo w * 2 ^ lo + x % 2 ^ w * 2 ^ lo }

/-- Bytes loaded put where they go; x0 stays zero. -/
def Hand.put (h : Hand) (dst : HandDst) (width : Nat) (l : List Byte) : Hand :=
  match dst with
  | .int rd sgn => if rd % 32 = 0 then h else { h with x := h.x.set (rd % 32) (loadValue width sgn l) }
  | .float fd => { h with f := h.f.set (fd % 32) (leNat (l.take 4)) }
  | .elem vd i => h.setElem (8 * width) vd i (leNat (l.take width))

/-- A staging read has ended well: the copy is recorded (R376). -/
def State.stageDone (s : State) (r : Read) (table row : Nat) (data : List Byte) : State :=
  match (s.staged r.bay r.die table row).filter fun c => c.read == r.id with
  | none => s
  | some c =>
    let s := s.modStage r.bay r.die fun d =>
      { copies := d.copies.map fun y => (if y.read = r.id then { y with done := true, data := if y.inCrib then data else [] } else y),
        counters := addAt d.counters 0 1 }
    if c.inCrib then s
    else ((s.write .stage r.bay r.die (64 * c.at_) (padTo 64 data)).heal .stage r.bay r.die c.at_ c.granules).access r.bay r.die 7 1
      (s.stageBase r.bay r.die + c.at_) c.granules true

/-- A staging read has failed: nothing is staged (R376). -/
def State.stageFail (s : State) (r : Read) : State :=
  (s.modStage r.bay r.die fun d =>
    { copies := d.copies.filter fun y => y.read != r.id || y.done, counters := addAt d.counters 5 1 }).count r.bay 16 1

/-- Chaffed granules counted for a context of a bay (R328). -/
def State.countChaff (s : State) (ctx : Option Nat) (b n : Nat) : State :=
  match ctx with
  | some c => if n = 0 then s else (s.modCtx c fun x => x.bump 2 n).count b 14 n
  | none => s

/-- A window of a position map in place (R320): positions of a granule that cannot be read are covered by no entry. -/
def Section.mapWindow (g : Section) (base : Nat) (l : List (Option (List Byte))) : Section :=
  let here := l.flatMap fun d => match d with
    | some d => posAt d 16
    | none => List.replicate 16 ⟨0, 4, false⟩
  { g with window := g.window.map fun m => m.take base ++ here.take (min 4096 (m.length - base)) ++ m.drop (base + 4096) }

/-- A window of a map has arrived: after the last one, the requests to other owners are put. -/
def State.mapArrived (s : State) (r : Read) (no k base : Nat) (l : List (Option (List Byte))) : State :=
  let s := s.modSection no k fun g => g.mapWindow base l
  if s.dp.reads.any fun q => match q.purpose with
    | .map n j _ => n == no && j == k
    | _ => false
  then s
  else match r.ctx, (s.sheaf no).bind fun f => f.sections[k]? with
    | some c, some g => s.putPools r.bay (ctxDie c) (some c) r.queue g (g.window.getD []) (.pool no k)
    | _, _ => s

/-- The granules of a read reach what it was made for; the read is over. Chaffed granules of a WRITE's new row are never written: the
entry has no effect (R413; DESIGN CHOICE, log 191). -/
def State.landRead (s : State) (r : Read) (l : List (Option (List Byte))) : State :=
  let bad := chaffCount l
  let data := granBytes l
  match r.purpose with
  | .row no k slot =>
    s.modSlot no k slot fun y => { y with data := some data, chaffed := decide (0 < bad) }
  | .reload no k slot =>
    let s := s.modSlot no k slot fun y => if y.spilled.isSome then
      { y with data := some data, chaffed := y.chaffed || decide (0 < bad), spilled := none } else y
    match r.ctx with
    | some c => s.modCtx c fun x => x.bump 3 r.granules
    | none => s
  | .reloadPiece id =>
    let s : State := { s with dp.writes := s.dp.writes.map fun w =>
      if w.id = id then { w with data := w.data.zipIdx.map fun d => d.1.bind fun _ => l.getD d.2 none, spilled := none } else w }
    match r.ctx with
    | some c => s.modCtx c fun x => x.bump 3 r.granules
    | none => s
  | .copy ctx space addr took =>
    if space = 7 then s.cribFree ctx took else s.issueWrite r.bay r.die (.copy ctx) space addr l 0 took
  | .update no c =>
    let d := (((s.sheaf no).bind fun f => f.sections.find? fun g => g.table == c.table).map fun g => g.tab.desc.dim).getD 0
    if 0 < bad && c.op = 1 then s
    else s.modSheaf no fun f => { f with contribs := f.contribs ++ [{ c with vals := items d fun j => u32At data (4 * j) }] }
  | .side no k tier => s.modSection no k fun g => { g with sides := g.sides ++ [(tier, bad == 0)] }
  | .fuse no k row => (s.modSection no k fun g => { g with fused := putKey Prod.fst (row, data, decide (0 < bad)) g.fused }).noteAll
  | .stage table row => if 0 < bad then s.stageFail r else s.stageDone r table row data
  | .wicket id slot => s.modLookup id fun y => { y with sect := y.sect.map fun g =>
      { g with slots := g.slots.map fun q => if q.slot = slot then { q with data := some data, chaffed := decide (0 < bad) } else q } }
  | .hand crew hand dst width off => s.modHand crew hand fun h => { h.put dst width (data.drop off) with loading := false }
  | .move cmd => match (s.job cmd).map fun w => (w.bay, w.items.head?) with
    | some (b, some i) =>
      let (held, s) := s.moveRead cmd (decide (0 < bad)) data
      if held then s else s.releaseMove b i.table i.row
    | _ => s
  | .hostIn cmd => s.hostArrived cmd l
  | .copyOut cmd => s.copyArrived cmd l
  | .copyStatus cmd => s.statusArrived cmd
  | .map no k base => s.mapArrived r no k base l
  | .wicketSide no tier => { s with dp.lookups := s.dp.lookups.map fun y =>
      if y.no = no then { y with sect := y.sect.map fun g => { g with sides := g.sides ++ [(tier, bad == 0)] } } else y }
  | .pool .. | .wicketPool .. => s

/-- A read is over (R322, R328): its granules are delivered, or dropped (R332), and requests that waited for what it held go on. -/
def State.deliver' (s : State) (r : Read) (l : List (Option (List Byte))) : State :=
  let s : State := { s with dp.reads := dropKey Read.id s.dp.reads r.id }
  let s := if r.dropped || (r.ctx.bind s.context).any Context.faulted then (match r.purpose with
      | .copy ctx _ _ took => s.cribFree ctx took
      | .row no k slot => if (r.ctx.bind s.context).any Context.faulted then s.dropRow no k slot else s
      | _ => s)
    else
      let s := (s.countChaff r.ctx r.bay (chaffCount l)).landRead r l
      match r.ctx with
      | some c => s.modCtx c fun x => x.moved s.dev.now
      | none => s
  let s := match r.ctx with
    | some c => s.ctxSettle c
    | none => s
  s.pump

/-- Errors corrected in a granule of the crib or of the granary counted (R318, R353). -/
def State.dieCorrected (s : State) (die kind : Nat) : State :=
  { s with dp.corrected := addAt s.dp.corrected (4 * die + kind) 1 }.count (0x500 + die) (kind + 2) 1

/-- Granules of a read whose errors were corrected (R318, R353, R442). -/
def State.fixedGranules (s : State) (r : Read) (fixed : List Nat) : State :=
  fixed.foldl (fun s i =>
    if r.granules ≤ i || r.outside then s
    else match r.space with
      | 1 => match (State.bay s r.bay).space.siloOf (r.addr + i) with
        | some k => s.siloCorrected k (pseudoChannel (r.addr + i)) r.bay
        | none => s
      | 5 =>
        let g := State.stageBase s r.bay r.die + r.addr + i
        match (State.bay s r.bay).space.siloOf g with
        | some k => s.siloCorrected k (pseudoChannel g) r.bay
        | none => s
      | 4 => s.dieCorrected r.die 2
      | 0 | 6 => s.dieCorrected r.die 3
      | _ => s) s

/-- READ_COMPLETION (R322, R441, R442): granules of a read of this package's own memories arrive; `fixed` lists those whose
errors were corrected, `bad` those found uncorrectable now. -/
def execReadCompletion (id : Nat) (fixed bad : List Nat) (s : State) : Out :=
  .next <| match (findKey Read.id s.dp.reads id).filter Read.started with
  | none => s
  | some r => match r.purpose with
    | .stage .. | .hostIn _ | .copyStatus _ => s
    | _ =>
      if r.space = 3 && !r.outside then s
      else
        let s := (s.fixedGranules r fixed).badGranules r bad
        s.deliver' r (s.granules r)

/-- One granule of a write lands; one without data, or on a die that cannot be reached, keeps its contents (R304, R517). -/
def State.landGranule (w : Write) (s : State) (g : Option (List Byte) × Nat) : State :=
  match g.1 with
  | some bytes =>
    let a := spaceArea w.space w.half w.bay w.die
    if s.cutOff w.bay w.die w.space (w.addr + g.2) then s
    else (s.write a.1 a.2.1 a.2.2 (64 * (w.addr + g.2)) bytes).heal a.1 a.2.1 a.2.2 (w.addr + g.2) 1
  | none => s

/-- The data of a write lands. -/
def State.landWrite (s : State) (w : Write) : State := w.data.zipIdx.foldl (State.landGranule w) s

/-- A row slot whose data has reached the spill area gives up its crib space (R335), unless it has been released or invalidated. -/
def State.spillLanded (s : State) (no k slot a n : Nat) : State :=
  match s.slotAt no k slot with
  | none => s
  | some r =>
    if r.released || r.data.isNone then s
    else ((s.modSlot no k slot fun y => { y with data := none, spilled := some a, took := 0 }).cribFree r.ctx r.took).modCtx r.ctx fun y => y.bump 3 n

/-- The same of a COPY piece. -/
def State.pieceLanded (s : State) (id a n : Nat) : State :=
  match findKey Write.id s.dp.writes id with
  | none => s
  | some w =>
    let ctx := match w.for_ with
      | .copy c => c
      | _ => noCtx
    ((({ s with dp.writes := s.dp.writes.map fun y => if y.id = id then { y with spilled := some a, took := 0 } else y } : State).cribFree ctx
      w.took).modCtx ctx fun y => y.bump 3 n)

/-- Errors that the data of a COPY piece, or of a spill, meets as it is read from the crib (R318): the granules in `fixed` are corrected;
those in `bad` are chaff, counted for the context (R328), and a COPY does not write them (R329). -/
def State.passageErrors (s : State) (w : Write) (fixed bad : List Nat) : Write × State :=
  match w.for_ with
  | .copy ctx =>
    let inData := fun (l : List Nat) => l.filter fun i => decide (i < w.data.length)
    let s := (inData fixed).foldl (fun s _ => State.dieCorrected s w.die 2) s
    ({ w with data := w.data.zipIdx.map fun d => if bad.contains d.2 then none else d.1 }, s.countChaff (some ctx) w.bay (inData bad).length)
  | _ => (w, s)

/-- WRITE_COMPLETION (R304, R315, R329, R335, R440): a write that its points let through, before which no read of its granules has come,
and whose data is not in the spill area, lands; a granule without data keeps its contents. -/
def execWriteCompletion (d : WriteDone) (s : State) : Out :=
  .next <| match (findKey Write.id s.dp.writes d.id).filter fun w => w.spilled.isNone with
  | none => s
  | some w =>
    let q := s.writeQueue w
    let h := s.homeOf w.bay w.die w.space w.addr
    if !s.mayAccess w.bay w.die q h.1 h.2 w.data.length true || (h.1 != 9 && s.readBefore w.bay h.1 h.2 w.data.length) then s
    else
      let s := ({ s with dp.writes := dropKey Write.id s.dp.writes d.id } : State).access w.bay w.die q h.1 h.2 w.data.length true
      let (w, s) := s.passageErrors w d.fixed d.bad
      State.pump <| match w.for_ with
      | .move cmd => match (s.job cmd).map fun j => (j.bay, j.items.head?) with
        | some (b, some i) => (s.moveWritten cmd).releaseMove b i.table i.row
        | _ => s
      | .copy ctx => ((s.landWrite w).cribFree ctx w.took).ctxSettle ctx
      | .copyIn cmd => (s.landWrite w).copyWritten cmd (w.data.filter Option.isSome).length
      | .spillRow no k slot => (s.landWrite w).spillLanded no k slot (w.addr - s.spillBase w.bay w.die) w.data.length
      | .spillPiece copy => (s.landWrite w).pieceLanded copy (w.addr - s.spillBase w.bay w.die) w.data.length

/-! ### Run-ahead prefetch (R373 to R382) -/

/-- Granules of crib copies a bay may stage on a die (R381, R385). -/
def State.cribLimit (s : State) (b die : Nat) : Nat :=
  match (s.bay b).granary.runahead.cribLimit with
  | some n => 4096 * n
  | none => s.cribShare b die / 4

/-- Whether a read of a staged copy's granules, or of their place, is out. -/
def State.stageReads (s : State) (b die : Nat) : List Run :=
  (s.dp.reads.filter fun r => r.bay == b && r.die == die && r.space == 5).map fun r => ⟨r.addr, r.granules⟩

/-- Room in the stage area for `g` granules, with what is left of the copies after evicting, least recently used first, those that have
been consumed or whose sheaf has completed (R381), and that nothing still reads. The first argument bounds the evictions. -/
def State.stagePlace (s : State) (b die g : Nat) : Nat → List Staged → Option (Nat × List Staged)
  | fuel, copies =>
    let out := s.stageReads b die
    let taken := sortBy Run.first (((copies.filter fun c => !c.inCrib).map fun c => ⟨c.at_, c.granules⟩) ++ out)
    match findFree (2 ^ 40) g (mibGranules * natAt (s.bay b).core.shares.stageMiB die) taken 0, fuel with
    | some p, _ => some (p, copies)
    | none, 0 => none
    | none, n + 1 =>
      match leastBy Staged.used (copies.filter fun c => !c.inCrib && c.done && (c.used != 0 || (s.sheaf c.sheaf).isNone) &&
          !out.any fun r => runsMeet r ⟨c.at_, c.granules⟩) with
      | none => none
      | some v => State.stagePlace s b die g n (copies.filter fun c => !(c.table == v.table && c.row == v.row))

/-- Room for a new staged copy of `g` granules: the place in the stage area or the crib, with the copies evicted for it counted. -/
def State.stageRoom (s : State) (b die g : Nat) : Option (Nat × Bool × State) :=
  let d := (s.bay b).granary.stage.getD die StageDie.initial
  if (s.bay b).granary.runahead.dest = 1 then
    if s.stagedCrib b die + g ≤ s.cribLimit b die && s.cribHeld b die + s.stagedCrib b die + g ≤ s.cribShare b die then some (0, true, s) else none
  else match s.stagePlace b die g d.copies.length d.copies with
    | none => none
    | some (p, rest) =>
      some (p, false, s.modStage b die fun d => { copies := rest, counters := addAt d.counters 2 (d.copies.length - rest.length) })

/-- Whether a staging read may be issued now: by the regulators, the bounds, with the pools alone (R375), and its turn. -/
def State.stageMay (s : State) (b die space addr g : Nat) : Bool :=
  let points := if space = 3 then s.pathPoints addr die else s.accessPoints b die space addr false
  points.all (s.pointOpen false b) && s.ridgeOpen b die space addr g false && s.boundsMay b die none space addr g true &&
    (wantAt b die 7 false points g).all fun w => s.turn w (s.wants ++ s.heads)

/-- A staging read issued for a row of a scanned sheaf (R374, R375): none while the scanner must pause. -/
def State.stageRow (s : State) (x : Sheaf) (die : Nat) (t : Tab) (row tier home addr : Nat) (node : Option Nat) (epoch : Nat) :
    Option State :=
  let b := x.bay
  let g := if home = 3 then t.maxGranules else t.rowGranules tier
  let out := (s.dp.reads.filter fun r => r.bay == b && r.die == die && r.isStaging).length
  if decide ((s.bay b).granary.runahead.outstanding ≤ out) || !s.stageMay b die home (node.getD addr) g then none
  else match s.stageRoom b die g with
    | none => none
    | some (p, crib, s) =>
      let c : Staged := { table := t.id, row := row, sheaf := x.no, at_ := p, granules := g, inCrib := crib, tier := tier, src := addr,
                          epoch := epoch, node := node, issued := s.dev.now, used := 0, data := [], read := s.dp.nextRead, done := false }
      let rivals := s.wants ++ s.heads
      let s := s.modStage b die fun d => { d with copies := d.copies ++ [c] }
      some ((match node with
        | some n => s.putReadReq b die none 7 (.stage t.id row) n t.id t.map.version row g
        | none => s.putRead b die none 7 false (.stage t.id row) home addr g 0 false).startLast rivals)

/-- An entry put first in the walker's cache of a die, which keeps 1,024 of a bay (R346). -/
def State.cacheEntry (s : State) (b die table row : Nat) : State :=
  let key := (die, b, table, row)
  let mine := fun (k : Nat × Nat × Nat × Nat) => k.1 == die && k.2.1 == b
  let rest := s.dp.walkCache.filter (· != key)
  let keep := (rest.filter mine).take 1023
  { s with dp.walkCache := key :: rest.filter fun k => !mine k || keep.contains k }

/-- Whether the resolution of a row reads its directory entry here (R171, R346, R535): the owner chosen for it is this package. -/
def State.walksHere (s : State) (b : Nat) (t : Tab) (row : Nat) : Bool :=
  decide (row < t.desc.rows) && ((candidates t.map row).find? fun e => s.available (s.refused b) e.owner).any fun e => s.isSelf e.owner

/-- One directory walk of a table's row, counted: a cached entry takes no read (R346); a read is charged to the walker's die, and an
unreadable entry reported (R284, R445). -/
def State.walkCharge (s : State) (b die : Nat) (t : Tab) (idx : Option Nat) : State :=
  let s := s.count (0x500 + die) 6 1
  match idx with
  | none => s
  | some row =>
    if !s.walksHere b t row then s
    else if s.cached b die t.id row then s.cacheEntry b die t.id row
    else if s.entryBad b t row then (match t.segmentOf row with
      | some g => (s.chargeEntry b t row false (some die)).siloBad b (g.entryByte row / 64)
      | none => s)
    else (s.chargeEntry b t row false (some die)).cacheEntry b die t.id row

/-- One index of a scanned sheaf, walked (R374) and staged where R374 says so; none while the scanner must pause. -/
def State.scanIndex (s : State) (x : Sheaf) (die : Nat) (t : Tab) (raw width : Nat) : Option State :=
  let idx := indexOf t.desc.indexSigned width raw
  let w := s.walkCharge x.bay die t idx
  let row := raw % 2 ^ width
  if !s.within w x.bay true false then none else match s.resolve (s.refused x.bay) x.bay die (natAt x.gens die) t t.map idx with
  | .place 2 tier addr =>
    if (s.staged x.bay die t.id row).isSome then some w
    else w.stageRow x die t row tier 2 addr none (((s.entry x.bay t row).map Entry.epoch).getD 0)
  | .forward node =>
    if t.desc.partialPool || (s.staged x.bay die t.id row).isSome then some w
    else if !t.desc.relaxed && !s.barrierMet t (uOf x.u t.id) then none
    else w.stageRow x die t row 0 3 0 (some node) 0
  | _ => some w

/-- Indices scanned in order until the scanner must pause: how many. -/
def State.scanAll (x : Sheaf) (die : Nat) : List (Tab × Nat × Nat) → State → Nat × State
  | [], s => (0, s)
  | (t, raw, w) :: rest, s => match s.scanIndex x die t raw w with
    | some s => let r := State.scanAll x die rest s; (r.1 + 1, r.2)
    | none => (0, s)

/-- The scans of a bay's sheafs that are queued on a die: their gleaning has not begun (R373). -/
def State.scansOf (s : State) (b die : Nat) : List Scan :=
  s.dp.scans.filter fun y => (s.sheaf y.sheaf).any fun x => x.bay == b && x.phase == .queued && x.crew / 16 == die

/-- What the scanner has to do for a sheaf: the distinct indices of each section, in order (R374). -/
def State.scanWork (s : State) (x : Sheaf) : List (Tab × Nat × Nat) :=
  (s.sectionsOf x).1.flatMap fun g => (distinct g.indices).map fun i => (g.tab, i, g.width)

/-- RUNAHEAD_SCAN (R373): the scanner of a die goes on with the first queued lookup sheaf, in dispatch order, of a bay whose run-ahead
is enabled, that it has not scanned. -/
def execRunaheadScan (die sheaf : Nat) (s : State) : Out :=
  if 1 < die then .fault .noSuchUnit
  else .next <| match s.sheaf sheaf with
  | none => s
  | some x =>
    let ra := (s.bay x.bay).granary.runahead
    let mine := s.scansOf x.bay die
    let ahead := mine.takeWhile fun y => y.done
    match mine[ahead.length]? with
    | none => s
    | some y =>
      if y.sheaf ≠ sheaf || ra.enable = 0 || s.bayState x.bay ≠ .opened || (ra.depth ≠ 0 && ra.depth ≤ ahead.length) then s
      else
        let work := (s.scanWork x).drop y.at_
        let (n, s) := State.scanAll x die work s
        { s with dp.scans := s.dp.scans.map fun z => if z.sheaf = sheaf then { z with at_ := y.at_ + n, done := n == work.length } else z }

/-- STAGING_COMPLETE (R376): a staging read of the loft completes; `bad` lists granules that came chaffed. -/
def execStagingComplete (id : Nat) (bad : List Nat) (s : State) : Out :=
  .next <| match findKey Read.id s.dp.reads id with
  | none => s
  | some r => match r.purpose with
    | .stage .. =>
      if r.space = 3 || !r.started then s
      else
        let s := s.badGranules r bad
        s.deliver' r (s.granules r)
    | _ => s

end Sys2Proof.Machine
end

