-- ==== Sys2Proof/Machine/Doorbells.lean ====
section
/-! DEFINITION. Hatch rings and doorbells (R485, R490 to R494), the acceptance of sheafs (R78, R204, R360, R388, R391) and
their dispatch to crews (R201, R231, R274). -/

namespace Sys2Proof.Machine

/-! ### Writes into a hatch ring (R484, R485, R490) -/

/-- An acknowledgement or a NAK sent on a queue pair, which acknowledges all that came before. -/
def State.rcAck (s : State) (q : Qp) (o : Output) : State :=
  (s.modQp q.qpn fun q => { q with rxUnacked := 0 }).sendFrames q.port q.sub 1 1
    (udpFrame q.clientIp.v6 (12 + 4 + 4) + tagBytes (s.qpVlan q)) o (vlan := s.qpVlan q)

def State.sendNak (s : State) (q : Qp) (n : Nak) : State := s.rcAck q (.nak q.qpn n)

/-- Packets received on a queue pair: acknowledged at once when 16 have not been (R484). -/
def State.received (s : State) (q : Qp) (n : Nat) : State :=
  let k := packetsOf q.mtu n
  let s := (s.count (0x300 + q.port) (16 * q.sub) k).count (0x300 + q.port) (16 * q.sub + 2) (s.roceBytes q k n)
  let s := s.modQp q.qpn fun q => { q with rxUnacked := q.rxUnacked + k, rxLast := s.dev.now }
  if 16 ≤ q.rxUnacked + k then s.rcAck q (.ack q.qpn) else s

/-- Bytes placed in a bay's ring, charged to the silos of the ring without regard to a cap (R490). -/
def State.placeRing (s : State) (b off : Nat) (data : List Byte) : State :=
  if data.isEmpty then s
  else
    let a := s.areaBase b 0 + off / 64
    let k := ((s.bay b).space.siloOf a).getD 0
    let n := (off % 64 + data.length + 63) / 64
    let s := (s.write .ring b 0 off data).chargeDebt b k (64 * (n + 3 * pagesOf a n))
    (s.count (0x100 + k) 1 n).count (0x100 + k) 2 (pagesOf a n)

/-- The bay of a queue pair in RTS whose sub-port's link is up and whose port is powered (R472, R622). -/
def State.hatchOf (s : State) (qpn : Nat) : Option (Qp × Nat) :=
  match s.qp qpn with
  | some q => if q.error.isNone && s.linkUp q.port q.sub && s.domainA0 (46 + q.port) then q.bay.map fun b => (q, b) else none
  | none => none

/-- Whether a WRITE of `len` bytes at `va` with a key lies in the ring part of a hatch region (R485). -/
def State.inRing (s : State) (b key va len : Nat) : Bool :=
  key == (s.bay b).core.keys.hatch && decide (va + len ≤ s.ringBytes b)

/-! ### Accepting a sheaf -/

/-- The fused-operand bases in force (R252). -/
def State.fuseBases (s : State) (b : Nat) : List (Nat × Nat) :=
  (s.bay b).tables.filterMap fun t =>
    if t.pool.fuseOp = 0 then none else (s.persistent b t.pool.fuseStream).map fun x => (t.id, natAt x.base 0)

/-- A sheaf as it stands at its doorbell: everything it binds (R147, R360, R295, R424, R536). -/
def State.newSheaf (s : State) (b h : Nat) (origin : Origin) (off : Nat) (head : List Byte) : Sheaf :=
  { no := s.dev.accepted, bay := b, session := h, phase := .accepted, origin := origin, off := off, head := head,
    gens := [(s.hotDie b 0).gen, (s.hotDie b 1).gen],
    bound := (s.bay b).tables.filter fun t => t.life != .destroying,
    bases := s.fuseBases b, bindings := (s.bay b).work.bindings, u := s.outstanding b, acceptedAt := s.dev.now, firstRead := s.dp.nextRead,
      cleared := [], crew := 0,
    sections := [], contribs := [], tally := [], groups := [], ops := 0, messages := 0, placing := false, qpn := none, chaffed := 0,
    defaulted := 0, saturated := 0, stale := 0, bad := false, ledger := false, released := false, was := [] }

def State.addSheaf (s : State) (x : Sheaf) : State :=
  ({ s with dev.accepted := s.dev.accepted + 1, dp.sheafs := s.dp.sheafs ++ [x] }).count x.bay 0 1

/-- The sheaf's sections read into its record, with U and the output's scales as they were at the doorbell (R126, R424). The barrier timeout
runs from the doorbell (R426 does not date it: DESIGN CHOICE, log 194). -/
def Sheaf.loaded (x : Sheaf) (l : List Section) : Sheaf :=
  if x.sections.isEmpty then
    { x with sections := l.map fun g => { g with u := uOf x.u g.table, barrierAt := x.acceptedAt, scales := g.tab.scalesNow 4 } }
  else x

def State.loadSections (s : State) (no : Nat) : State :=
  match s.sheaf no with
  | some x => if x.sections.isEmpty then
      let (l, _, _) := s.sectionsOf x
      s.modSheaf no fun x => x.loaded l
    else s
  | none => s

/-- An update sheaf's epoch is recorded for the tables it names (R427): a higher one shows the end of an epoch for those tables only (DESIGN
CHOICE, log 194). -/
def State.noteEpoch (s : State) (b : Nat) (tables : List Nat) (epoch : Nat) : State :=
  tables.foldl (fun s id =>
    (s.modTable b id fun t => { t with
      epochHigh := some (max epoch (t.epochHigh.getD 0))
      epochs := t.epochs.filter (· != epoch) ++ [epoch] }).closeEpochs b id) s

/-- The ledger's part of an update sheaf's doorbell (R388 steps 4 to 8). -/
def State.acceptUpdate (s : State) (x : Sheaf) (viaSession : Option Nat) : State :=
  let fin := fun (st : Status) => s.addSheaf { x with phase := .finished st.code }
  match (s.session x.handle).filter fun y => y.bay == some x.bay && y.state == .opened with
  | none => fin .stale
  | some y =>
    let x := { x with session := x.handle }
    if viaSession.any fun h => h != x.handle then s.addSheaf { x with phase := .finished Status.denied.code }
    else if y.ledger.isConsumed x.seq then s.addSheaf { x with phase := .finished Status.duplicate.code }
    else if (s.ledgerSheafs x.session).any fun z => z.seq == x.seq then s.addSheaf { x with phase := .duplicate }
    else if 4096 ≤ y.ledger.ahead x.seq then s.addSheaf { x with phase := .finished Status.busy.code }
    else
      let s := (s.addSheaf { x with phase := .held, ledger := true }).modSession x.session fun y =>
        { y with ledger := y.ledger.seen x.seq }
      (s.noteEpoch x.bay (s.tablesOf x) x.epoch).release x.no

/-- A doorbell, or a sheaf of its run, whose header cannot be read in DRAINING is counted (R78). -/
def State.rejectDoorbell (s : State) (b : Nat) : State :=
  (s.modCounters b fun k => { k with rejected := satAdd 32 k.rejected 1 }).count b 5 1

/-- Whether a header at an offset of the ring can be read: inside the ring, aligned, and in granules that can be (R78, R494). -/
def State.headReadable (s : State) (b off : Nat) : Bool :=
  off % 8 == 0 && decide (off + 64 ≤ s.ringBytes b) && (List.range ((off + 63) / 64 - off / 64 + 1)).all fun i =>
    !s.poisoned .ring b 0 (off / 64 + i) 1 && !s.siloLost b (s.areaBase b 0 + off / 64 + i)

/-- A sheaf whose header stands in the ring at an offset is accepted (R78, R204, R388): of the checks that fail, that of the version
comes first, then that of the bay's state, before any other (DESIGN CHOICE, log 155). -/
def State.acceptSheaf (s : State) (b h : Nat) (origin : Origin) (viaSession : Option Nat) (off : Nat) : State :=
  if s.bayState b ≠ .opened && !s.headReadable b off then s.rejectDoorbell b else
  let head := s.read .ring b 0 off 64
  let s := s.chargeRing b off 64 false
  let x := s.newSheaf b h origin off head
  if u16At head 0 ≠ 0x4853 then
    let s := (s.modCounters b fun k => { k with malformed := satAdd 32 k.malformed 1 }).count b 6 1
    (({ s with dev.accepted := s.dev.accepted + 1 }).count b 0 1).raise 0x0403 1 (some b) none (leBytes 4 off)
  else if u8At head 2 ≠ 1 then s.addSheaf { x with phase := .finished Status.version.code }
  else if s.bayState b ≠ .opened then s.addSheaf { x with phase := .finished Status.state.code }
  else if x.isUpdate then s.acceptUpdate x viaSession
  else if viaSession.any fun h => (s.session h).all fun y => y.state != .opened then
    s.addSheaf { x with phase := .finished Status.state.code }
  else s.addSheaf x

/-- HATCH_DOORBELL_BAD (R494): reason 0 reserved bits, 1 alignment, 2 beyond H, 3 sheaf_bytes. -/
def State.badDoorbell (s : State) (b off count reason : Nat) : State :=
  ((s.modCounters b fun k => { k with badDoorbells := satAdd 32 k.badDoorbells 1 }).count b 10 1).raise 0x0706 1 (some b) none
    (leBytes 4 off ++ leBytes 2 count ++ leBytes 1 reason)

/-- The sheafs of a run accepted in order, up to the first that breaks a rule of R494. `count` is the whole run's. -/
def State.acceptRun (b h : Nat) (origin : Origin) (viaSession : Option Nat) (count : Nat) : Nat → Nat → State → State
  | 0, _, s => s
  | k + 1, off, s =>
    let size := s.ringBytes b
    let n := u32At (s.read .ring b 0 off 64) 12
    if off % 8 ≠ 0 then s.badDoorbell b off count 1
    else if size < off + 64 then s.badDoorbell b off count 2
    else if n < 64 then s.badDoorbell b off count 3
    else if size < off + n then s.badDoorbell b off count 2
    else State.acceptRun b h origin viaSession count k (off + n) (s.acceptSheaf b h origin viaSession off)

/-- Doorbells of a bay that still have a sheaf no crew has taken (R493). -/
def State.doorbellsHeld (s : State) (b : Nat) : List (Nat × Nat) :=
  (s.bay b).work.doorbells.filter fun d => s.dp.sheafs.any fun x => x.bay == b && x.phase == .accepted && decide (d.1 ≤ x.no) &&
    decide (x.no < d.1 + d.2)

/-- Whether a bay's doorbell queue is full (R493), or failsafe has stopped intake (R614): the doorbell is counted and not
taken. -/
def State.doorbellFull (s : State) (b : Nat) : Bool := s.lan.failsafe || decide (4096 ≤ (s.doorbellsHeld b).length)

def State.countFull (s : State) (b : Nat) : State :=
  (s.modCounters b fun k => { k with doorbellFull := satAdd 32 k.doorbellFull 1 }).count b 9 1

/-- A doorbell accepted: its run of sheafs (R491, R492). In DRAINING each sheaf whose header can be read is answered with
STATE, and a doorbell whose first header cannot be read is counted (R78). -/
def State.ring (s : State) (b h : Nat) (origin : Origin) (viaSession : Option Nat) (off count : Nat) : State :=
  if s.bayState b ≠ .opened && !s.headReadable b off then s.rejectDoorbell b
  else
    let first := s.dev.accepted
    let s := State.acceptRun b h origin viaSession count count off s
    let n := s.dev.accepted - first
    if n = 0 then s
    else s.modBay b fun y => { y with work := { y.work with doorbells := s.doorbellsHeld b ++ [(first, n)] } }

/-- The doorbell word written to a bay's region (R491 to R494). -/
def State.ringWord (s : State) (q : Qp) (b value : Nat) : State :=
  if s.doorbellFull b then s.countFull b
  else if bits value 43 21 ≠ 0 then (s.received q 8).badDoorbell b (bits value 0 32) (bits value 32 11 + 1) 0
  else (s.received q 8).ring b q.session (.net q.qpn) (some q.session) (bits value 0 32) (bits value 32 11 + 1)

/-- HATCH_RING_WRITE (R485): bytes into the ring; 8 bytes at the ring's end are the doorbell word; anything else is a
remote access error. -/
def execHatchRingWrite (qpn key va : Nat) (data : List Byte) (s : State) : Out :=
  .next <| match s.hatchOf qpn with
  | none => s
  | some (q, b) =>
    if s.inRing b key va data.length then (s.placeRing b va data).received q data.length
    else if key = (s.bay b).core.keys.hatch ∧ va = s.ringBytes b ∧ data.length = 8 then s.ringWord q b (leNat data)
    else s.sendNak q .remoteAccess

/-- DOORBELL (R491 to R494): the immediate of a WRITE with Immediate, or the doorbell word. -/
def execDoorbell (d : Doorbell) (s : State) : Out :=
  .next <| match d with
  | .imm qpn key va data value => match s.hatchOf qpn with
    | none => s
    | some (q, b) =>
      if !s.inRing b key va data.length then s.sendNak q .remoteAccess
      else if s.doorbellFull b then (s.countFull b).sendNak q .rnr
      else
        let s := (s.placeRing b va data).received q data.length
        s.ring b q.session (.net qpn) (some q.session) (8 * bits value 0 21) (bits value 21 11 + 1)
  | .word qpn key value => match s.hatchOf qpn with
    | none => s
    | some (q, b) =>
      if key ≠ (s.bay b).core.keys.hatch then s.sendNak q .remoteAccess else s.ringWord q b value

/-- HOLD_RELEASE (R391): a held update sheaf is released once every lower number of its session's window has been consumed
or released. -/
def execHoldRelease (sheaf : Nat) (s : State) : Out := .next (s.release sheaf)

/-! ### Dispatch (R201, R231, R274, R302) -/

/-- Whether a lookup sheaf that passes its checks has a section whose barrier is neither satisfied nor abandoned (R424,
R426). -/
def State.barred (s : State) (x : Sheaf) : Bool :=
  !x.isUpdate && s.sheafOk x &&
    ((x.loaded (s.sectionsOf x).1).sections.any fun g => g.barrier.isNone && !s.barrierMet g.tab g.u)

/-- Whether a fence, a rebuild of a table that the sheaf names, or a barrier keeps it back (DEDUCED, log 25). -/
def State.kept (s : State) (x : Sheaf) : Bool :=
  s.barred x ||
  (x.fence && s.dp.sheafs.any fun y => y.bay == x.bay && decide (y.no < x.no)) ||
    (s.bay x.bay).tables.any fun t => (t.rebuild.any fun r => decide (r.before ≤ x.no)) && s.names x t.id

/-- Whether a HAND_RUN runs on a crew, or on others beside it (R296). -/
def State.runsOn (s : State) (y : Crew) : Bool := y.runs.any fun id => (s.job id).any fun w => w.at_ == 1

/-- The crew that takes the next sheaf of a bay: the fewest queued, ties to the lowest number (R274), none that a HAND_RUN has taken
(R296). -/
def State.nextCrew (s : State) (b : Nat) : Option Nat :=
  leastBy (fun c => ((s.dp.crews[c]?).map fun y => y.queue.length).getD 16 * 64 + c)
    ((s.bay b).crews.filter fun c => ((s.dp.crews[c]?).any fun y =>
      decide (y.queue.length < 16) && !s.runsOn y))

/-- Whether an earlier sheaf of the bay that names a table of this one waits for its dispatch and nothing else: sheafs that a rebuild has
held are released in doorbell order (R189). -/
def State.behind (s : State) (x : Sheaf) : Bool :=
  s.dp.sheafs.any fun y => y.bay == x.bay && y.phase == .accepted && decide (y.no < x.no) && !s.kept y &&
    (s.tablesOf x).any fun t => s.names y t

/-- A bound table with its shard map as it stands now: an update sheaf is aimed by the map in force when it is released (R403). -/
def State.mapNow (s : State) (b : Nat) (t : Tab) : Tab := { t with map := ((s.table b t.id).map Tab.map).getD t.map }

/-- SHEAF_DISPATCH (R274): an accepted sheaf joins a crew's queue; the run-ahead scanner will come to a lookup sheaf (R373). -/
def execSheafDispatch (sheaf : Nat) (s : State) : Out :=
  .next <| match s.sheaf sheaf with
  | none => s
  | some x =>
    if x.phase ≠ .accepted || s.kept x || s.behind x then s
    else match s.nextCrew x.bay with
      | none => s
      | some c =>
        let s := s.modSheaf sheaf fun x => { x with
          phase := .queued
          crew := c
          bound := if x.isUpdate then x.bound.map (s.mapNow x.bay) else x.bound }
        { s with
          dp.crews := s.dp.crews.modify c fun y => { y with queue := y.queue ++ [sheaf] }
          dp.scans := if x.isUpdate then s.dp.scans else s.dp.scans ++ [⟨sheaf, 0, false⟩] }

end Sys2Proof.Machine
end

