-- ==== Sys2Proof/Machine/Crews.lean ====
section
/-! DEFINITION. Jobs of crews: their start (R275, R277, R278, R295, R302), the standard GLEAN and EXPAND programs (R287,
R288, R397 to R401), section ends, faults and job ends (R279, R280, R296 to R299), and barriers given up (R426). -/

namespace Sys2Proof.Machine

/-! ### Crews -/

/-- The bay that owns a crew (R87). -/
def State.crewBay (s : State) (crew : Nat) : Option Nat :=
  (s.bays.zipIdx.find? fun y => y.1.crews.contains crew).map Prod.snd

def State.jobOf (s : State) (crew : Nat) : Option Job := (s.dp.crews[crew]?).bind Crew.job

def State.modCrew (s : State) (crew : Nat) (f : Crew → Crew) : State := { s with dp.crews := s.dp.crews.modify crew f }

def State.modJobOf (s : State) (crew : Nat) (f : Job → Job) : State :=
  s.modCrew crew fun c => { c with job := c.job.map f }

/-- CCLK periods in a microsecond at the operating point in force (R33). -/
def State.cclkMhz (s : State) : Nat := natAt [1000, 1300, 1600] s.dev.cclk

/-- The program of a role that a sheaf was bound to for a table, with its cycle budget in µs (R294, R296). -/
def Sheaf.program (x : Sheaf) (table role : Nat) : Nat × Nat :=
  match x.bindings.find? fun b => b.table == table && b.role == role with
  | some b => (b.program, b.budgetUs)
  | none => (0, 1000)

/-- Whether two sections of a sheaf are bound to different programs (R295). -/
def Sheaf.mixed (x : Sheaf) (role : Nat) : Bool :=
  match x.sections.head? with
  | none => false
  | some g => x.sections.any fun h => (x.program h.table role).1 != (x.program g.table role).1

/-! ### The start of a job (R277, R278) -/

/-- The 64 bytes of a job descriptor and the context list behind them. -/
def jobDescriptor (role rank hands bay : Nat) (contexts : List Nat) (args id budget : Nat) : List Byte :=
  fit 64 (leBytes 1 role ++ leBytes 1 rank ++ leBytes 1 hands ++ leBytes 1 bay ++ leBytes 4 0xF040 ++ leBytes 4 contexts.length ++
    zeros 4 ++ leBytes 8 args ++ leBytes 8 id ++ leBytes 8 budget) ++ fit 32 (contexts.flatMap (leBytes 2))

/-- Entry address of a bay program in the hands' address space (R271, R291). -/
def State.entryPc (s : State) (b program : Nat) : Nat :=
  match (s.bay b).work.programs.find? fun p => p.no == program with
  | some p => 0x100000 + p.codeAddr + p.entry
  | none => 0x800000

/-- The cycle budget of a ZPSUM or MIGRATE job in µs, which the specification does not give (DESIGN CHOICE, log 154). -/
def looseBudget (role : Nat) : Nat := Config.unstated 12 role

/-- A job put on a crew: contexts, descriptor and hands. The runtime sets every custom CSR to zero. -/
def State.beginJob (s : State) (crew b role program sheaf args id budgetUs cmd : Nat) : State :=
  let ctx := (s.freeContexts b (crew / 16)).take 16
  let s : State := { s with dp.contexts := s.dp.contexts ++ ctx.map fun n => newContext n b (some crew) sheaf s.dev.now }
  let s := (List.range 16).foldl (fun s h =>
    State.write s .scratch crew 0 (65536 * h + 0xF000) (jobDescriptor role h 16 b ctx args id (budgetUs * s.cclkMhz))) s
  let j : Job :=
    { role := role, sheaf := sheaf, program := program, hands := List.replicate 16 { Hand.initial with pc := s.entryPc b program },
      contexts := ctx, until_ := s.dev.now + 1000 * budgetUs, sectionsDone := [], backlog := [], cmd := cmd }
  s.modCrew crew fun c => { c with job := some j }

/-- Every hand of a standard program has exited. -/
def State.allExit (s : State) (crew : Nat) : State :=
  s.modJobOf crew fun j => { j with hands := j.hands.map fun h => { h with exited := true } }

/-! ### Swath entries of the standard programs (R305, R308, R313) -/

def swathBytes (kind len space tier queue addr : Nat) (rest : List Byte) : List Byte :=
  fit 32 (leBytes 1 kind ++ leBytes 1 0 ++ leBytes 2 len ++ leBytes 1 space ++ leBytes 1 0 ++ leBytes 1 tier ++ leBytes 1 queue ++
    leBytes 6 addr ++ zeros 2 ++ rest)

def bindBytes (sect distinct positions : Nat) : List Byte :=
  swathBytes 0 0 4 0 2 0 (leBytes 2 sect ++ zeros 2 ++ leBytes 4 distinct ++ leBytes 4 positions)

def rowBytes (sect slot row space tier addr len : Nat) : List Byte :=
  swathBytes 1 len space tier 2 addr (leBytes 4 slot ++ leBytes 2 sect ++ zeros 2 ++ leBytes 5 row)

/-! ### Standard GLEAN (R287) -/

/-- The marker that stands for the default row where a row index is named (R398). -/
def defaultMark : Nat := 0xFFFFFFFFFE

/-- What a distinct index of a section needs: its raw value and what it resolves to. -/
abbrev Found := Nat × Resolved

/-- Kind of a position (R320). -/
def posKind (t : Tab) : Resolved → Nat
  | .default => 1
  | .aliasTo => 2
  | .forward _ => if t.desc.partialPool then 3 else 0
  | .copy .. | .place .. => 0
  | .noOwner | .unreadable => 4

/-- The row slot's key: the raw index, none for the default row; nothing where no slot is taken. -/
def slotKey (t : Tab) (f : Found) : Option (Option Nat) :=
  match f.2 with
  | .default | .aliasTo => if t.desc.defaultConfigured then some none else none
  | .forward _ => if t.desc.partialPool then none else some (some f.1)
  | .copy .. | .place .. => some (some f.1)
  | .noOwner | .unreadable => none

/-- The position map of a section (R320): positions in order, each with its slot and whether it uses it last. -/
def gleanMap (t : Tab) (found : List Found) (indices : List Nat) (keys : List (Option Nat)) : List Pos :=
  let at_ := fun (raw : Nat) => ((found.find? fun f => f.1 == raw).getD (raw, .default))
  let ks := indices.map fun i => slotKey t (at_ i)
  (indices.zip ks).zipIdx.map fun p =>
    let f := at_ p.1.1
    let slot := match p.1.2 with
      | some k => keys.findIdx (· == k)
      | none => match f.2 with
        | .forward n => n
        | _ => 0
    ⟨slot, posKind t f.2, p.1.2.isSome && !((ks.drop (p.2 + 1)).contains p.1.2)⟩

/-- The ROW entry of a slot. -/
def gleanRow (t : Tab) (width sect slot : Nat) (found : List Found) (key : Option Nat) : Option (List Byte) :=
  match key with
  | none => t.defRow.map fun r => rowBytes sect slot defaultMark 1 0 r.first (t.rowGranules 0)
  | some raw =>
    let row := raw % 2 ^ width
    match found.find? fun f => f.1 == raw with
    | some (_, .copy _ off tier) => some (rowBytes sect slot row 0 tier off (t.rowGranules tier))
    | some (_, .place home tier addr) => some (rowBytes sect slot row home tier addr (t.rowGranules tier))
    | some (_, .forward n) => some (rowBytes sect slot row 3 0 (n * 2 ^ 32) (t.rowGranules 0))
    | _ => none

/-- Next numbers of the order of emission. -/
def State.takeSeq (s : State) : Nat × State := (s.dp.nextRead, { s with dp.nextRead := s.dp.nextRead + 1 })

/-- Entries added to the backlog of a crew's standard program. -/
def State.emitEntries (s : State) (crew ctx : Nat) (l : List (List Byte × List Pos × Option Contrib)) : State :=
  l.foldl (fun s e =>
    let (q, s) := State.takeSeq s
    s.modJobOf crew fun j => { j with backlog := j.backlog ++ [(ctx, ⟨e.1, e.2.1, e.2.2, 0, q⟩)] }) s

/-- The value of hx.hash (R282). -/
def hxHash (x imm : Nat) : Nat := (x * natAt hashFactors (bits imm 6 2)) % 2 ^ 64 / 2 ^ (64 - (bits imm 0 6 + 1))

/-- The bucket of a key of the Partition phase (R287): hx.hash with i = 0 and b = 4. -/
def gleanBucket (table raw : Nat) : Nat := hxHash (table * 2 ^ 40 + raw) 3

/-- A sheaf's distinct keys in the order of Partition and Dedup (R287): bucket by bucket, each in ascending order of its keys. -/
def gleanOrder (table : Nat) (raws : List Nat) : List Nat := sortBy (gleanBucket table) (sortBy id raws)

/-- The indices of a section that no earlier section of the same table has: each key of a sheaf is walked once (R287). -/
def Sheaf.freshKeys (x : Sheaf) (k : Nat) (g : Section) : List Nat :=
  let before := ((x.sections.take k).filter fun h => h.table == g.table).flatMap Section.indices
  (Sys2Proof.Machine.distinct g.indices).filter fun r => !before.contains r

/-- A section gleaned: its indices resolved, its position map bound and its rows named (R287). -/
def State.gleanSection (s : State) (crew : Nat) (x : Sheaf) (k ctx : Nat) (g : Section) : State :=
  let s := s.modSection x.no k fun g => { g with done := true, barrier := some (g.barrier.getD false || !(s.unacked g.u).isEmpty) }
  if g.indices.isEmpty then s
  else
    let b := x.bay
    let die := crew / 16
    let t := g.tab
    let raws := distinct g.indices
    let idx := fun (r : Nat) => indexOf t.desc.indexSigned g.width r
    let bad := s.refused b
    let found : List Found := raws.map fun r => (r, s.resolve bad b die (natAt x.gens die) t t.map (idx r))
    let s := (gleanOrder t.id (x.freshKeys k g)).foldl (fun s r => State.walkCharge s b die t (idx r)) s
    let keys := distinctKeys (g.indices.filterMap fun i => (found.find? fun f => f.1 == i).bind (slotKey t))
    let map := gleanMap t found g.indices keys
    s.emitEntries crew ctx ((bindBytes k (max 1 keys.length) g.indices.length, map, none) ::
      (keys.zipIdx.filterMap fun q => gleanRow t g.width k q.2 found q.1).map fun e => (e, [], none))

/-! ### Standard EXPAND (R288, R397, R398, R400, R401) -/

/-- FP32 of a section's weight at a position; 1.0 where it has none. -/
def Section.weight (g : Section) (p : Nat) : Nat :=
  match g.weightFmt with
  | 1 => bf16To32 (natAt g.weights p)
  | 2 => natAt g.weights p
  | _ => f32One

/-- A gradient element of a bag as it decodes (R140). -/
def Section.gradCode (g : Section) (bag c : Nat) : Nat :=
  let code := natAt g.grads (bag * g.tab.desc.dim + c)
  let v := decodeFloat (if g.gradFmt = 4 then e5m2Fmt else bf16Fmt) code
  round32 (v.mul (val32 (natAt g.gradScales c)))

/-- What it contributes: zero for one that is not finite (R141). -/
def Section.gradAt (g : Section) (bag c : Nat) : Nat := let v := g.gradCode bag c; if isFinite32 v then v else 0

/-- Gradient elements of a section that are not finite: each counts once, however many positions it is for (R141). -/
def Section.badGrads (g : Section) : Nat :=
  sumBy (fun b => ((List.range g.tab.desc.dim).filter fun c => !isFinite32 (g.gradCode b c)).length) (List.range g.bags)

/-- Elements of a table that are not finite, counted and reported (R141, R399). -/
def State.countNonFinite (s : State) (b table n : Nat) : State :=
  if n = 0 then s
  else (s.modTable b table fun t => { t with counters := { t.counters with nonFinite := satAdd 64 t.counters.nonFinite n } }).raise 0x0B02 1
    (some b) none (leBytes 2 table ++ zeros 2 ++ leBytes 4 n)

/-- The row a contribution of an index is aimed at: an index that can name no row is one beyond every table. -/
def aim (t : Tab) (width raw : Nat) : Nat := (indexOf t.desc.indexSigned width raw).getD (2 ^ 64)

/-- The contributions of a section: `base` counts the positions of the sections before it, or for max and min the bags (R397, R398,
R401). -/
def expandSection (g : Section) (base : Nat) : List Contrib :=
  let t := g.tab
  let d := t.desc.dim
  (List.range g.bags).flatMap fun b =>
    let n := g.bagLen b
    let grads := items d (g.gradAt b)
    if t.desc.mode ≤ 2 then
      items n fun i =>
        let p := g.bagStart b + i
        let vals := match t.desc.mode with
          | 0 => grads
          | 1 => grads.map fun x => round32 ((val32 x).div (valInt n))
          | _ => grads.map fun x => round32 ((val32 (g.weight p)).mul (val32 x))
        ⟨t.id, aim t g.width (natAt g.indices p), false, 0, base + p, vals, 0⟩
    else if n = 0 then []
    else
      let wins := items d fun c => natAt g.winners (b * d + c)
      ((distinct wins).filter fun w => w != 0xFFFFFFFFFF).map fun w =>
        ⟨t.id, w, w == defaultMark, 0, base + b, items d fun c => if natAt wins c = w then natAt grads c else 0, 0⟩

/-- Bytes of a standard UPDATE entry. -/
def updateBytes (d row table op key : Nat) : List Byte :=
  swathBytes 4 ((d + 15) / 16) 4 0 3 0 (leBytes 5 row ++ zeros 3 ++ leBytes 2 table ++ leBytes 1 op ++ zeros 1 ++ leBytes 4 key)

/-- Every section expanded into UPDATE entries; they go into the job's contexts at once (DEDUCED, log 26), which accept 64 and take the
others as those are issued (R303). -/
def State.expandAll (s : State) (x : Sheaf) (ctxs : List Nat) : State :=
  let (_, l) := x.sections.zipIdx.foldl (fun (acc : (Nat × Nat) × List (Nat × Contrib)) g =>
    let base := if g.1.tab.desc.mode ≤ 2 then acc.1.1 else acc.1.2
    ((acc.1.1 + g.1.indices.length, acc.1.2 + g.1.bags), acc.2 ++ (expandSection g.1 base).map fun c => (g.2, c))) ((0, 0), [])
  let s := (distinct (x.sections.map Section.table)).foldl (fun s t =>
    State.countNonFinite s x.bay t (sumBy Section.badGrads (x.sections.filter fun g => g.table == t))) s
  l.foldl (fun s e =>
    let (q, s) := State.takeSeq s
    let c := { e.2 with seq := q }
    let d := ((x.sections[e.1]?).map fun g => g.tab.desc.dim).getD 0
    s.modCtx (natAt ctxs (e.1 % ctxs.length)) fun y =>
      let w : Swath := ⟨updateBytes d (c.row % 2 ^ 40) c.table c.op c.key, [], some c, 0, q⟩
      let y := y.setQueue w.bytes
      if y.waiting.length < 64 then { y with waiting := y.waiting ++ [w], waitSince := if y.waiting.isEmpty then s.dev.now else y.waitSince }
      else { y with rest := y.rest ++ [w] }) s

/-! ### Results that are not pooled -/

/-- The code of +0.0 in a column of a section's output. -/
def Section.zeroOut (g : Section) (c : Nat) : Nat :=
  if g.widened then 0 else zeroCode (g.tab.point 4).policy.format (g.tab.withExplicitZp g.scales) c

/-- Positions of a bag by kind: (DEFAULT, ALIAS, ROW). -/
def Section.kinds (g : Section) (bag : Nat) : Nat × Nat × Nat :=
  let l := (((g.window.getD []).drop (g.bagStart bag)).take (g.bagLen bag)).map Pos.kind
  ((l.filter (· == 1)).length, (l.filter (· == 2)).length, (l.filter (· == 0)).length)

/-- Those of them that an owner has resolved to DEFAULT or ALIAS, and counted (R173, R522): the first position of each row asked for, since
a request names the row alone (DESIGN CHOICE, log 192: further positions of the same row count here). -/
def Section.awayKinds (g : Section) (bag : Nat) : Nat × Nat :=
  let w := g.window.getD []
  let away := ((w.zipIdx.drop (g.bagStart bag)).take (g.bagLen bag)).filter fun p =>
    (findKey RowSlot.slot g.slots p.1.slot).any (fun r => r.home == 3) && !(w.take p.2).any fun q => q.slot == p.1.slot
  ((away.filter fun p => p.1.kind == 1).length, (away.filter fun p => p.1.kind == 2).length)

/-- Whether the output stage holds a section's bags until its range is known (R249). -/
def Section.holds (g : Section) : Bool := !g.widened && !g.found && (g.tab.point 4).policy.discovery == 2

/-- A bag of zeros, chaffed (R265, R299): what its positions resolved to still shows in its status (R221). `more` counts the
positions that other owners resolved to DEFAULT. Under first-pass discovery its zeros are held, to be encoded with the scales found. -/
def Section.blank (g : Section) (bag more : Nat) : BagOut :=
  let (d, al, rows) := g.kinds bag
  let stale := g.barrier == some true && decide (0 < al + rows)
  { bag := bag, status := 1 + 2 * flag (g.bagLen bag == 0) + 4 * flag (decide (0 < d + more)) + 8 * flag stale,
    codes := if g.holds then [] else items g.tab.desc.dim g.zeroOut, vals := if g.holds then List.replicate g.tab.desc.dim 0 else [],
    wins := if 3 ≤ g.tab.desc.mode then List.replicate g.tab.desc.dim 0xFFFFFFFFFF else [], sat := 0 }

/-- What the partials of a bag bring besides: positions resolved to DEFAULT, and whether one is chaffed. -/
def Section.partialMarks (g : Section) (bag : Nat) : Nat × Bool :=
  let ps := g.partials.filter fun p => p.bag == bag
  (sumBy Partial.defaulted ps, ps.any Partial.chaffed)

/-- A bag's output recorded in its section, with the counters it moves (R135, R173, R227); a bag of zeros for an error takes no part in
the section's ranges. What a section pooled again resolves to has been counted the first time; its saturations count again (R139). -/
def State.putOut (s : State) (x : Sheaf) (k : Nat) (g : Section) (o : BagOut) (sat : List Nat) (more : Nat) (blank : Bool := false) : State :=
  let (d, al, rows) := g.kinds o.bag
  let s := s.modSection x.no k fun g =>
    { g with
      outs := putKey BagOut.bag o g.outs
      ranges := if g.widened || blank then g.ranges
        else widenAll (if g.ranges.isEmpty then List.replicate g.tab.desc.dim none else g.ranges) o.vals }
  let s := s.modSheaf x.no fun x => { x with chaffed := x.chaffed + o.status % 2, saturated := x.saturated + sat.length }
  let s := (s.countSat x.bay g.table 4 sat).count x.bay 13 (o.status % 2)
  if g.widened then s
  else
    let away := g.awayKinds o.bag
    ((s.modTable x.bay g.table fun t => { t with counters := { t.counters with
        defaulted := satAdd 64 t.counters.defaulted (d - away.1), aliased := satAdd 64 t.counters.aliased (al - away.2) } }).modSheaf x.no fun x =>
      { x with
        defaulted := x.defaulted + d + more
        stale := x.stale + (if g.barrier = some true then rows + al else 0) }).count x.bay 2 1

/-- The scales that first-pass discovery finds once a section's last bag is in (R127). -/
def Section.findScales (g : Section) : Section :=
  if g.found then g
  else
    let p := g.tab.point 4
    { g with found := true, back := 0, scales := discoverScales p.policy g.tab.desc.dim g.ranges p.scales }

/-! ### Held ROW entries (R321), and the cancellation of a sheaf (R230) -/

/-- Whether a ROW entry is held for the BIND of its section. -/
def rowHeld (sections : Nat) (bound : List Nat) (w : Swath) : Bool :=
  swKind w.bytes == 1 && decide (swSect w.bytes < sections) && !bound.contains (swSect w.bytes)

/-- The ROW entries, by their order of emission, that contexts with these entries could never issue: each head that is not held goes, a
BIND binds its section, and where every head is held the one emitted first is given up. The first argument bounds the entries. -/
def stuckRows (sections : Nat) : Nat → List Nat → List (List Swath) → List Nat
  | 0, _, _ => []
  | n + 1, bound, qs =>
    match qs.zipIdx.findSome? fun q => (q.1.head?.filter fun w => !rowHeld sections bound w).map fun w => (w, q.2) with
    | some (w, i) =>
      stuckRows sections n (if swKind w.bytes = 0 then swSect w.bytes :: bound else bound) (qs.modify i (List.drop 1))
    | none => match leastBy Swath.seq (qs.filterMap List.head?) with
      | none => []
      | some w => w.seq :: stuckRows sections n bound (qs.map fun q => q.filter fun v => v.seq != w.seq)

/-- ROW entries of a job that has ended whose section no BIND waiting in the job's contexts can still bind: they are not executed
(R321; DEDUCED, log 190). -/
def State.dropUnbound (s : State) (no : Nat) (ctxs : List Nat) : State :=
  match s.sheaf no with
  | none => s
  | some f =>
    let qs := (s.dp.contexts.filter fun x => ctxs.contains x.no).map fun x => x.waiting ++ x.rest
    let bound := (f.sections.zipIdx.filter fun g => g.1.window.isSome).map Prod.snd
    let gone := stuckRows f.sections.length (sumBy List.length qs) bound qs
    let keep := fun (w : Swath) => !(swKind w.bytes == 1 && gone.contains w.seq)
    { s with dp.contexts := s.dp.contexts.map fun x =>
        if ctxs.contains x.no then { x with waiting := x.waiting.filter keep, rest := x.rest.filter keep } else x }

/-- Whether a read is made for a sheaf, whichever queue it is in: for its rows, side tensors, fused operands, maps, contributions and
partials, or to stage its rows, unless a ROW entry of another sheaf waits for the copy (R332, R382). -/
def Purpose.isOf (p : Purpose) (s : State) (x : Sheaf) : Bool :=
  match p with
  | .row n _ _ | .side n _ _ | .fuse n _ _ | .map n _ _ | .reload n _ _ => n == x.no
  | .update n _ => n == x.no
  | .pool n .. => n == x.no
  | .stage t r =>
    ((s.bay x.bay).granary.stage.any fun d => d.copies.any fun c => c.table == t && c.row == r && c.sheaf == x.no && !c.done) &&
      !s.dp.contexts.any fun y => y.bay == x.bay && y.sheaf != x.no && (y.waiting.head?).any fun w =>
        swKind w.bytes == 1 && bits (u64At w.bytes 24) 0 40 == r && (s.sectionOf y w.bytes).any fun g => g.2.table == t
  | _ => false

/-- A sheaf's work ends with a status and nothing placed: its place in a crew's queue, its job, its entries, reads and bags
go. -/
def State.abortSheaf (s : State) (no : Nat) (status : Status) : State :=
  match s.sheaf no with
  | none => s
  | some x =>
    let runs := ((s.dp.crews[x.crew]?).bind Crew.job).any fun j => j.sheaf == no && (j.role == 1 || j.role == 2)
    let s := if runs && x.phase == .running then s.stopContexts x.crew false else s
    let mine := (s.dp.contexts.filter fun y => y.sheaf == no && y.crew.isSome).map Context.no
    let s : State := { s with
      dp.crews := s.dp.crews.map fun y =>
        { y with queue := y.queue.filter (· != no), job := y.job.filter fun j => !(j.sheaf == no && (j.role == 1 || j.role == 2)) }
      dp.contexts := s.dp.contexts.map fun y => if mine.contains y.no then { y with waiting := [], jobOver := true, crib := 0 } else y
      dp.threshers := s.dp.threshers.map fun t => { t with bags := t.bags.filter fun g => workSheaf g.work != some no } }
    let s := s.dropReads fun r => r.ctx.any mine.contains || r.purpose.isOf s x
    let s := s.modSheaf no fun x =>
      { x with phase := .finished status.code, sections := x.sections.map fun y => { y with outs := [], fused := [], slots := [] } }
    mine.foldl (fun s n => State.ctxSettle s n) s

def specSheafCancel : CmdSpec :=
  { op := 0x0601, b := true, u := true, states := [.opened, .draining], lens := exactly 8 }

/-- R230: the first accepted sheaf that bears the id. One whose outcome is decided, or that duplicates a number, is BUSY (DESIGN CHOICE,
log 166). -/
def doSheafCancel (c : Ctx) (s : State) : Result :=
  match leastBy Sheaf.no (s.dp.sheafs.filter fun x => x.bay == c.bay && x.id == u64At c.p 0) with
  | none => c.fields s [(0, false)] (fail .range 0 s)
  | some x =>
    c.fields s [] <|
      match x.phase with
      | .held | .accepted | .queued => okWith [] (s.abortSheaf x.no .state)
      | .running | .working | .tallying | .applying => if x.isUpdate || x.placing then fail .busy 0 s else okWith [] (s.abortSheaf x.no .state)
      | .duplicate | .finished _ => fail .busy 0 s

def execSheafCancel (r : Req) (s : State) : Out := runCommand specSheafCancel doSheafCancel r s

/-! ### Faults (R297 to R299) -/

/-- One bag of a sheaf whose GLEAN job has faulted: zeros and chaffed (R299). One that was out counts no second time, and its
saturations go with its values; another counts what its positions have resolved to (R227). -/
def State.blankBag (s : State) (x : Sheaf) (k : Nat) (g : Section) (bag : Nat) : State :=
  let more := (g.partialMarks bag).1
  let o := g.blank bag more
  match g.outs.find? fun o => o.bag == bag with
  | some y => (s.modSection x.no k fun g => { g with outs := putKey BagOut.bag o g.outs }).modSheaf x.no fun x =>
      { x with chaffed := x.chaffed + (1 - y.status % 2), saturated := x.saturated - y.sat }
  | none => s.putOut x k g o [] more true

/-- A section of such a sheaf: no bag has a range, so that under first-pass discovery the scales stay those of discovery off (R127). Its
rows in the crib are given back, those on their way as they arrive. -/
def State.blankSection (s : State) (x : Sheaf) (k : Nat) : State :=
  let s := s.modSection x.no k fun g =>
    let g := { g with done := true, fused := [], ranges := if g.found then g.ranges else [] }
    if (g.tab.point 4).policy.discovery = 2 then g.findScales else g
  match (s.sheaf x.no).bind fun x => x.sections[k]? with
  | none => s
  | some g =>
    let s := (List.range g.bags).foldl (fun s bag => State.blankBag s x k g bag) s
    (g.slots.filter fun r => !r.released && (r.data.isSome || r.spilled.isSome || r.home == 0)).foldl (fun s r => State.giveSlot s x.no k r) s

/-- A sheaf whose GLEAN job has faulted: every bag zeros and chaffed. -/
def State.gleanFaulted (s : State) (no : Nat) : State :=
  match s.sheaf no with
  | none => s
  | some x =>
    let s : State := { s with dp.threshers := s.dp.threshers.map fun t => { t with bags := t.bags.filter fun g => workSheaf g.work != some no } }
    let s := s.modSheaf no fun x => { x with phase := .working }
    (List.range x.sections.length).foldl (fun s k => State.blankSection s x k) s

/-- A matrix job changed. -/
def State.modMatrix (s : State) (id : Nat) (f : Matrix → Matrix) : State :=
  { s with dp.matrices := s.dp.matrices.map fun q => if q.id = id then f q else q }

/-- A MIGRATE job has faulted (R299): rows not committed stay at their source and count as failed; a rebuild keeps its tier as it
was. -/
def State.moveFaulted (s : State) (id : Nat) : State :=
  match s.job id with
  | none => s
  | some w =>
    if w.kind = .rebuild then
      match (s.bay w.bay).tables.find? fun t => t.rebuild.any fun r => r.cmd == id && r.lead.isNone with
      | none => s
      | some t =>
        let n := ((t.rebuild.map fun r => (s.tierRows w.bay t r.tier).length).getD 0)
        (s.modTable w.bay t.id fun t => { t with life := if t.life = .rebuilding then .live else t.life, rebuild := none }).endJob id
          ⟨.ok, 0, leBytes 8 0 ++ leBytes 4 0 ++ leBytes 4 n⟩
    else
      let s := s.modJob id fun w => { w with items := w.items.take 1, counts := addAt w.counts 6 (w.items.length - 1) }
      match w.items.head? with
      | none => s.moveNext id
      | some i =>
        if w.at_ < 2 then (s.countItem id 6).moveNext id
        else
          let s := s.dropReads fun r => r.purpose == .move id
          let s : State := { s with dp.writes := s.dp.writes.filter fun y => y.for_ != .move id }
          (s.moveRead id true []).2.releaseMove w.bay i.table i.row

/-- The crew's code loaded again from the images its bay keeps (R298). -/
def State.reloadCode (s : State) (b crew : Nat) : State :=
  (s.bay b).work.programs.foldl (fun s p => State.write s .store crew 0 p.codeAddr (slice 64 p.codeSize p.image)) s

/-- Whether an address lies in a code page of the bay's programs (R271, R292). -/
def State.codePage (s : State) (b pc : Nat) : Bool :=
  (s.bay b).work.programs.any fun p => decide (0x100000 + p.codeAddr ≤ pc) && decide (pc < 0x100000 + p.codeAddr + p.codeSize)

/-- A HAND_RUN is over on every crew. -/
def State.endRuns (s : State) (cmd : Nat) : State :=
  { s with dp.crews := s.dp.crews.map fun c => { c with runs := c.runs.filter (· != cmd) } }

/-- A hand faults: its job ends, the crew is reset, and the job's role decides the outcome. -/
def State.crewFault (s : State) (crew hand cause pc addr : Nat) : State :=
  match s.crewBay crew, s.jobOf crew with
  | some b, some j =>
    let s := s.raise 0x0408 2 (some b) (some (crew / 16))
      (leBytes 1 (16 * (crew % 16) + hand) ++ leBytes 1 cause ++ leBytes 4 (pc % 2 ^ 32) ++ leBytes 6 addr)
    let s := (s.modCounters b fun c => { c with handFaults := satAdd 32 c.handFaults 1 }).count b 8 1
    let s := s.stopContexts crew (j.role == 1)
    let s := s.dropReads fun r => match r.purpose with
      | .hand c .. => c == crew
      | _ => false
    let s := if cause = 9 && s.codePage b addr then s.reloadCode b crew else s
    let s := s.modCrew crew fun c => { c with job := none, resetUntil := s.dev.now + 2000 }
    let s := if j.role = 1 then (s.dropUnbound j.sheaf j.contexts).gleanFaulted j.sheaf else s
    let s := j.contexts.foldl (fun s n => State.ctxSettle s n) s
    match j.role with
    | 1 => s
    | 2 => s.modSheaf j.sheaf fun x => { x with phase := .finished Status.faulted.code, contribs := [], bad := false }
    | 4 => s.modMatrix j.cmd fun q => { q with bias := .failed }
    | 5 => s.moveFaulted j.cmd
    | _ =>
      (s.endRuns j.cmd).endJob j.cmd ⟨.faulted, 0, leBytes 1 crew ++ leBytes 1 hand ++ leBytes 1 cause ++ zeros 1 ++ leBytes 4 (pc % 2 ^ 32)⟩
  | _, _ => s

/-- HAND_FAULT (R298): a hand faults with a cause of R297. -/
def execHandFault (crew hand cause pc addr : Nat) (s : State) : Out :=
  if 31 < crew || 15 < hand then .fault .noSuchUnit
  else .next <| match s.jobOf crew with
  | none => s
  | some _ => if 1 ≤ cause && cause ≤ 9 && cause ≠ 8 then s.crewFault crew hand cause pc addr else s

/-- CYCLE_BUDGET_EXHAUSTED (R296, R297 cause 8). -/
def execCycleBudgetExhausted (crew hand : Nat) (s : State) : Out :=
  if 31 < crew || 15 < hand then .fault .noSuchUnit
  else .next <| match s.jobOf crew with
  | none => s
  | some j => if j.role ≤ 3 && j.until_ ≤ s.dev.now then s.crewFault crew hand 8 ((j.hands[hand]?.map Hand.pc).getD 0) 0 else s

/-! ### JOB_START -/

/-- A sheaf taken from the head of a crew's queue ends there with a status. -/
def State.endAtStart (s : State) (crew no status : Nat) : State :=
  (s.modCrew crew fun c => { c with queue := c.queue.filter (· != no) }).modSheaf no fun x => { x with phase := .finished status }

/-- The job of a sheaf starts (R204, R205, R287, R388 steps 9 and 10). -/
def State.startSheaf (s : State) (crew : Nat) (x : Sheaf) : State :=
  let role := if x.isUpdate then 2 else 1
  let s := s.chargeRing x.bay (x.off + 64) (x.bytes - 64) false (some (crew / 16))
  if !s.sheafOk x then s.endAtStart crew x.no Status.range.code
  else
    let s := s.loadSections x.no
    match s.sheaf x.no with
    | none => s
    | some x =>
      if x.mixed role then s.endAtStart crew x.no Status.range.code
      else if x.isUpdate && x.sections.any fun g => g.tab.desc.frozen then s.endAtStart crew x.no Status.state.code
      else
        let s := s.modCrew crew fun c => { c with queue := c.queue.filter (· != x.no) }
        if !x.isUpdate && u32At x.head 8 = 0 then s.modSheaf x.no fun x => { x with phase := .working }
        else
          let (program, budget) := match x.sections.head? with
            | some g => x.program g.table role
            | none => (0, 1000)
          let s := s.beginJob crew x.bay role program x.no x.off x.id budget 0
          let s := s.modSheaf x.no fun x => { x with phase := .running }
          let ctxs := ((s.jobOf crew).map Job.contexts).getD []
          if program ≠ 0 then
            if x.isUpdate then s
            else s.modSheaf x.no fun x => { x with sections := x.sections.map fun g =>
              { g with barrier := some (g.barrier.getD false || !(s.unacked g.u).isEmpty) } }
          else if x.isUpdate then (s.expandAll x ctxs).allExit crew
          else
            let s := x.sections.zipIdx.foldl (fun s g => State.gleanSection s crew x g.2 (natAt ctxs (g.2 % ctxs.length)) g.1) s
            (s.allExit crew).feed crew

/-- Crews named by a mask (R294). -/
def maskCrews (mask : Nat) : List Nat := (List.range 32).filter fun i => bit mask i

/-- A crew with nothing to do. -/
def Crew.idle (c : Crew) (now : Nat) : Bool := c.queue.isEmpty && c.job.isNone && decide (c.resetUntil ≤ now)

/-- The page of the crew store that takes a job's argument block: the highest one that no program of the bay uses (DEDUCED, log 27). -/
def State.argPage (s : State) (b : Nat) : Nat :=
  let used := (s.bay b).work.programs.flatMap fun p => [(⟨p.codeAddr, p.codeSize⟩ : Run), ⟨p.dataAddr, p.dataSize⟩]
  4096 * (((items 240 fun i => 239 - i).find? fun k => !used.any fun r => decide (4096 * k < r.first + r.len) &&
    decide (r.first < 4096 * k + 4096)).getD 239)

/-- A HAND_RUN command starts on its crews once all are idle, in the order in which the commands came (R296). -/
def State.startRunJob (s : State) (b id : Nat) : State :=
  match s.job id with
  | none => s
  | some w =>
    let crews := maskCrews (natAt w.args 1)
    let ready := crews.all fun k => (s.dp.crews[k]?).any fun c => c.idle s.dev.now && c.runs.head? == some id &&
      !(s.freeContexts b (k / 16)).isEmpty
    if !ready then s
    else
      let page := s.argPage b
      let s := s.modJob id fun w => { w with at_ := 1 }
      crews.foldl (fun s k =>
        let s := State.write s .store k 0 page w.data
        (s.beginJob k b 3 (natAt w.args 0) (2 ^ 64) (0x100000 + page) 0 (1000 * natAt w.args 2) id)) s

/-! ### Standard ZPSUM and MIGRATE (R289, R290) -/

/-- A zero point of a matrix job, which its descriptor does not hold (DESIGN CHOICE, log 154): of column `j` of W, or of A for `j` = 65,536,
in the range of its format (R105). -/
def zeroPoint (f : Fmt) (id j : Nat) : Int := signedOf (fmtBits f) (Config.unstated 11 (2 ^ 17 * id + j) % 2 ^ fmtBits f)

/-- The stored integers of a row of `n` elements of a format at a granule of a bay's silo space. -/
def State.intRow (s : State) (b : Nat) (f : Fmt) (addr n : Nat) : List Int :=
  let row := s.read .silo b 0 (64 * addr) (64 * matRow f n)
  items n fun i => signedOf (fmtBits f) (elemAt f row i)

/-- The bias of an integer matrix job (R117), row by row of C: from the exact sums of A's rows and W's columns. -/
def State.biasTerm (s : State) (b id : Nat) (d : MatDesc) : List Int :=
  let rowSums := items d.m fun i => (s.intRow b d.fa (d.aAddr + i * matRow d.fa d.k) d.k).foldl (· + ·) 0
  let colSums := (List.range d.k).foldl (fun (acc : List Int) k =>
    (acc.zip (s.intRow b d.fw (d.wAddr + k * matRow d.fw d.n) d.n)).map fun x => x.1 + x.2) (List.replicate d.n 0)
  let za := zeroPoint d.fa id 65536
  rowSums.flatMap fun r => colSums.zipIdx.map fun c => let zw := zeroPoint d.fw id c.2; -zw * r - za * c.1 + d.k * za * zw

/-- The ZPSUM job of a matrix job on the crew whose store holds its descriptor: the sums and the bias array. Where a span of it is out
of bounds nothing is read or written, and the job's own checks refuse it. -/
def State.runZpsum (s : State) (b : Nat) (q : Matrix) : State :=
  let die := ctxDie q.ctx
  let s := s.beginJob q.crew b 4 0 (2 ^ 64) (0x100000 + q.at_) 0 (looseBudget 4) q.id
  let s := (s.modMatrix q.id fun q => { q with bias := .forming }).allExit q.crew
  match matDescOf q.desc with
  | none => s
  | some d =>
    let out : Run := ⟨d.bAddr, granulesOf (8 * d.m * d.n)⟩
    if !(d.reads.all fun r => s.spaceIn b die 1 r.first r.len) || !s.dstOk b die 1 out.first out.len then s
    else
      let vals := s.biasTerm b q.id d
      let s := (d.reads.take 2).foldl (fun s r => State.access s b die 4 1 r.first r.len false) s
      ((s.write .silo b 0 (64 * out.first) (padTo 64 (vals.flatMap fun v => leBytes 8 (unsignedOf 64 v)))).heal .silo b 0 out.first
        out.len).access b die 4 1 out.first out.len true

/-- Whether the regulators, the ridge, the bounds and their turn let the accesses of a ZPSUM job through (R313: queue 4). -/
def State.zpsumMay (s : State) (b : Nat) (q : Matrix) : Bool :=
  (matDescOf q.desc).all fun d =>
    ((d.reads.take 2).all fun r => s.mayAccess b (ctxDie q.ctx) 4 1 r.first r.len false) &&
      s.mayAccess b (ctxDie q.ctx) 4 1 d.bAddr (granulesOf (8 * d.m * d.n)) true

/-- The command of a bay that a MIGRATE job is still to carry out. -/
def State.nextMove (s : State) (b : Nat) : Option Waiting :=
  s.dp.waiting.find? fun w => w.bay == b && (w.kind == .migrate || w.kind == .rebuild) && !s.moverRuns w.id &&
    (w.kind == .migrate || (s.bay b).tables.any fun t => t.rebuild.any fun r => r.cmd == w.id && r.lead.isNone)

/-- The MIGRATE job of a command on a crew. -/
def State.runMove (s : State) (crew b : Nat) (w : Waiting) : State :=
  let s := s.beginJob crew b 5 0 (2 ^ 64) (0x100000 + s.argPage b) 0 (looseBudget 5) w.id
  if w.kind = .migrate then s.moveNext w.id else s

/-- A crew with no sheaf and no HAND_RUN takes a ZPSUM job, or a MIGRATE job (DESIGN CHOICE, log 154). -/
def State.startStandard (s : State) (crew b : Nat) : State :=
  match s.dp.matrices.find? fun q => q.crew == crew && q.bias == .wait && s.zpsumMay b q with
  | some q => s.runZpsum b q
  | none => match s.nextMove b with
    | some w => s.runMove crew b w
    | none => s

/-- JOB_START (R275, R277, R302): the crew takes the next sheaf of its queue, once its reads of the ring and of the directory may be made
(R64), or, idle, the job of a HAND_RUN, or a job of the standard programs. -/
def execJobStart (crew : Nat) (s : State) : Out :=
  if 31 < crew then .fault .noSuchUnit
  else .next <| match s.dp.crews[crew]?, s.crewBay crew with
  | some c, some b =>
    if c.job.isSome || s.dev.now < c.resetUntil then s
    else match c.queue with
      | no :: _ => match s.sheaf no with
        | none => s.modCrew crew fun c => { c with queue := c.queue.drop 1 }
        | some x => if (s.freeContexts b (crew / 16)).isEmpty then s else s.inBudget b true (s.startSheaf crew x)
      | [] =>
        if s.runsOn c then s
        else match c.runs with
          | id :: _ => s.startRunJob b id
          | [] => if (s.freeContexts b (crew / 16)).isEmpty then s else s.startStandard crew b
  | _, _ => s

/-! ### The end of a job -/

/-- Whether the BIND of a section still waits in a context of its job: the section's fused operands come in that context's queue (R327). -/
def State.bindWaits (s : State) (no : Nat) (ctxs : List Nat) (k : Nat) : Bool :=
  s.dp.contexts.any fun x => x.sheaf == no && ctxs.contains x.no && (x.waiting ++ x.rest).any fun w =>
    swKind w.bytes == 0 && swSect w.bytes == k

/-- JOB_END (R280, R302): every hand has exited and every entry has been accepted. Sections that no hand declared done are
done; the contexts go back once their entries have completed. -/
def State.endCrewJob (s : State) (crew : Nat) (j : Job) : State :=
  let s : State := { s with
    dp.contexts := s.dp.contexts.map fun x => if x.crew == some crew && j.contexts.contains x.no then { x with jobOver := true } else x
    dp.walks := s.dp.walks.filter fun w => w.crew != crew }
  let s := s.dropUnbound j.sheaf j.contexts
  let s := s.modCrew crew fun c => { c with job := none }
  let s := s.modSheaf j.sheaf fun x =>
    { x with phase := .working, sections := x.sections.map fun g => { g with done := true } }
  let s := match s.sheaf j.sheaf with
    | some x => if x.isUpdate then s
      else ((List.range x.sections.length).foldl (fun s k => if State.bindWaits s x.no j.contexts k then s
        else State.fetchFused s j.sheaf k (crew / 16) none 2) s).pump
    | none => s
  let s := j.contexts.foldl (fun s n => State.ctxSettle s n) s
  match j.role with
  | 3 =>
    if s.dp.crews.any fun c => c.job.any fun y => y.role == 3 && y.cmd == j.cmd then s
    else (s.endRuns j.cmd).endJob j.cmd ⟨.ok, 0, leBytes 1 (((s.job j.cmd).map fun w => (maskCrews (natAt w.args 1)).length).getD 0) ++ zeros 7⟩
  | 4 => s.modMatrix j.cmd fun q => { q with bias := .done }
  | _ => s

def execJobEnd (crew : Nat) (s : State) : Out :=
  if 31 < crew then .fault .noSuchUnit
  else .next <| match s.jobOf crew with
  | none => s
  | some j => if j.hands.all Hand.exited && j.backlog.isEmpty then s.endCrewJob crew j else s

/-! ### BARRIER_TIMEOUT (R426) -/

/-- A section's STRICT barrier is given up: counted and reported (R426), with the lowest epoch among the unacknowledged members of U (DESIGN
CHOICE, log 194). -/
def State.giveUp (s : State) (b : Nat) (t : Tab) (u : List (Nat × Nat)) : State :=
  let s := s.modTable b t.id fun t => { t with counters := { t.counters with barrier := satAdd 64 t.counters.barrier 1 } }
  s.raise 0x0605 1 (some b) none (leBytes 2 t.id ++ zeros 2 ++ leBytes 4 ((s.unacked u).foldl (fun m x => min m x.2) (2 ^ 32 - 1)))

end Sys2Proof.Machine
end

