-- ==== Sys2Proof/Machine/HandCmd.lean ====
section
/-! DEFINITION. The bay program commands (R291 to R296). -/

namespace Sys2Proof.Machine

/-- The header fields of an image in order (R291): offset in the image and whether the value is in range. -/
def imageChecks (m : List Byte) : List Bool :=
  let code := u32At m 8
  let data := u32At m 12
  [u32At m 0 == 0x47485254, u8At m 4 == 1, decide (1 ≤ u8At m 5) && decide (u8At m 5 ≤ 8), decide (u8At m 6 < 8), zeroAt m 7 1,
   code % 4096 == 0 && decide (4096 ≤ code) && decide (code ≤ 524288), data % 8 == 0, u32At m 16 % 4096 == 0,
   u32At m 20 % 4096 == 0, u32At m 24 % 2 == 0 && decide (u32At m 24 < code), zeroAt m 36 28,
   decide (m.length = 128 + code + data)]

def programOf (m : List Byte) : Program :=
  { no := u8At m 5, roles := u8At m 6, codeSize := u32At m 8, dataSize := u32At m 12, codeAddr := u32At m 16,
    dataAddr := u32At m 20, entry := u32At m 24, buildId := u64At m 28, image := m, store := [] }

/-- The spans a program takes in the crew store. -/
def Program.spans (p : Program) : List Run := [⟨p.codeAddr, p.codeSize⟩, ⟨p.dataAddr, p.dataSize⟩]

/-- Whether a program fits beside the others of its bay (R292 step 3). -/
def programFits (others : List Program) (p : Program) : Bool :=
  p.spans.all (fun r => decide (r.first + r.len ≤ 0xF0000)) && !runsMeet ⟨p.codeAddr, p.codeSize⟩ ⟨p.dataAddr, p.dataSize⟩ &&
    (others.all fun q => p.spans.all fun a => q.spans.all fun b => !runsMeet a b) &&
    decide (p.codeSize + sumBy Program.codeSize others ≤ 524288)

/-- Whether a sheaf of a bay that has been dispatched, but has not started, may run a program: its bindings name it (R293, R295). -/
def State.programQueued (s : State) (b no : Nat) : Bool :=
  s.dp.sheafs.any fun x => x.bay == b && x.phase == .queued && x.bindings.any fun y => y.program == no

/-- Whether a job of a bay runs a program. -/
def State.programRuns (s : State) (b no : Nat) : Bool :=
  (s.bay b).crews.any fun c => (s.jobOf c).any fun j => j.program == no

def specHandLoad : CmdSpec := { op := 0x0209, b := true, states := [.forming, .opened], lens := exactly 24 }

/-- HAND_LOAD (R292, R293): a replacement completes when no job and no sheaf dispatched earlier runs the old image any more. The verified
image is kept in the bay's silo space. -/
def doHandLoad (c : Ctx) (s : State) : Result :=
  let b := c.bay
  c.fields s (bulkChecks c.p 0 [2] (s.ringBytes b)) <|
    let (m, s') := takeSource c s 0 24
    if !(imageChecks m).all id then fail .range 0 s'
    else
      let p := programOf m
      let body := m.take (m.length - 64)
      if !Config.ed25519 (s.bay b).core.keys.hand body (m.drop (m.length - 64)) then
        fail .denied 0 (s'.raise 0x0C04 1 (some b) none (leBytes 1 p.no))
      else if s.programRuns b p.no || s.programQueued b p.no then park c s
      else
        let old := (s.bay b).work.programs.find? fun q => q.no == p.no
        let others := (s.bay b).work.programs.filter fun q => q.no != p.no
        let s1 := s'.modBay b fun y => { y with space := ((old.map Program.store).getD []).foldl (fun sp r => sp.freeSilo r 0) y.space }
        if !programFits others p then fail .noSpace 0 s'
        else match s1.allocBytes b m.length with
          | none => fail .noSpace 0 s'
          | some (runs, s) =>
            let s := State.fillRuns b runs (padTo 64 m) s
            let s := s.modBay b fun y => { y with work := { y.work with programs := sortBy Program.no ({ p with store := runs } :: others) } }
            let s := (s.bay b).crews.foldl (fun s k =>
              State.write (State.write s .store k 0 p.codeAddr (slice 64 p.codeSize m)) .store k 0 p.dataAddr
                (slice (64 + p.codeSize) p.dataSize m)) s
            okWith (leBytes 1 p.no ++ zeros 7 ++ leBytes 8 p.buildId) s

def execHandLoad (r : Req) (s : State) : Out := runCommand specHandLoad (paced true doHandLoad) r s

def specHandUnload : CmdSpec := { op := 0x020A, b := true, states := [.forming, .opened], lens := exactly 8 }

/-- HAND_UNLOAD (R294): refused while a binding in force, or one of a sheaf in flight, names the program, or a job runs
it. -/
def doHandUnload (c : Ctx) (s : State) : Result :=
  let b := c.bay
  let no := u8At c.p 0
  let names := fun (l : List Binding) => l.any fun x => x.program == no
  refuseIf (1 ≤ no && (names (s.bay b).work.bindings || s.programRuns b no ||
      s.dp.sheafs.any fun x => x.bay == b && names x.bindings && (x.phase == .accepted || x.phase == .queued || x.phase == .held))) .state 0 s <|
  c.fields s [(0, (s.bay b).work.programs.any fun p => p.no == no), (1, zeroAt c.p 1 7)] <|
    let gone := (s.bay b).work.programs.filter fun p => p.no == no
    okWith [] (s.modBay b fun y =>
      { y with
        work := { y.work with programs := y.work.programs.filter fun p => p.no != no }
        space := (gone.flatMap Program.store).foldl (fun sp r => sp.freeSilo r s.dev.accepted) y.space })

def execHandUnload (r : Req) (s : State) : Out := runCommand specHandUnload doHandUnload r s

def specHandBind : CmdSpec := openSpec 0x020B (exactly 8)

/-- HAND_BIND (R294 to R296). -/
def doHandBind (c : Ctx) (s : State) : Result :=
  let b := c.bay
  let p := c.p
  let role := u8At p 2
  let no := u8At p 3
  let us := u32At p 4
  onTable c s 0 (fun _ => [(2, role == 1 || role == 2),
      (3, no == 0 || (s.bay b).work.programs.any fun q => q.no == no && bit q.roles (role - 1)),
      (4, us == 0 || (decide (10 ≤ us) && decide (us ≤ 100000)))]) fun t =>
    inOrder c s t.id (t.life == .rebuilding) <|
    let e : Binding := ⟨t.id, role, no, if us = 0 then 1000 else us⟩
    okWith [] (s.modBay b fun y => { y with work := { y.work with
      bindings := sortBy (fun x => 4 * x.table + x.role) (e :: y.work.bindings.filter fun x => !(x.table == t.id && x.role == role)) } })

def execHandBind (r : Req) (s : State) : Out := runCommand specHandBind doHandBind r s

def specHandRun : CmdSpec := openSpec 0x020C fun _ p => withBulk 40 16 0 p

/-- HAND_RUN (R294, R296): the job waits until the named crews are idle. -/
def doHandRun (c : Ctx) (s : State) : Result :=
  let b := c.bay
  let p := c.p
  let mask := u32At p 4
  let crews := maskCrews mask
  let ms := u32At p 8
  c.fields s ([(0, (s.bay b).work.programs.any fun q => q.no == u8At p 0 && bit q.roles 2), (1, zeroAt p 1 3),
      (4, decide (1 ≤ crews.length) && decide (crews.length ≤ 16) && crews.all fun k => (s.bay b).crews.contains k),
      (8, ms == 0 || decide (ms ≤ 10000)), (12, zeroAt p 12 4)] ++ bulkChecks p 16 [1, 2] (s.ringBytes b) ++
      [(32, decide ((bulkAt p 16).length ≤ 4096))]) <|
    let (data, s) := takeSource c s 16 40
    let (id, s) := s.startJob c .handRun [] [] [u8At p 0, mask, if ms = 0 then 100 else ms]
    let s := s.modJob id fun w => { w with data := data }
    (none, crews.foldl (fun s k => State.modCrew s k fun y => { y with runs := y.runs ++ [id] }) s)

def execHandRun (r : Req) (s : State) : Out := runCommand specHandRun (paced true doHandRun) r s

def specHandQuery : CmdSpec :=
  { op := 0x020D, b := true, states := [.forming, .opened, .draining], lens := exactly 8 }

/-- HAND_QUERY: programs, and up to 128 bindings from a table on. -/
def doHandQuery (c : Ctx) (s : State) : Result :=
  let y := s.bay c.bay
  c.fields s [(0, decide (u16At c.p 0 ≤ 4095)), (2, zeroAt c.p 2 6)] <|
    let later := y.work.bindings.filter fun e => decide (u16At c.p 0 ≤ e.table)
    -- a table's two bindings are not split between answers
    let cut := later.take 128
    let l := if 128 < later.length && ((later[128]?).map Binding.table) == (cut.getLast?.map Binding.table) then cut.take 127 else cut
    let next := ((later[l.length]?).map Binding.table).getD 0xFFFF
    okWith (leBytes 1 y.work.programs.length ++ leBytes 1 l.length ++ leBytes 2 next ++ leBytes 4 y.core.counters.handFaults ++
      (y.work.programs.flatMap fun q => leBytes 1 q.no ++ leBytes 1 q.roles ++ zeros 6 ++ leBytes 4 q.codeSize ++ leBytes 4 q.dataSize ++
        leBytes 8 q.buildId) ++
      l.flatMap fun e => leBytes 2 e.table ++ leBytes 1 e.role ++ leBytes 1 e.program ++ leBytes 4 e.budgetUs) s

def execHandQuery (r : Req) (s : State) : Out := runCommand specHandQuery doHandQuery r s

end Sys2Proof.Machine
end

