-- ==== Sys2Proof/Machine/Profile.lean ====
section
/-! DEFINITION. The arithmetic of the hands' profile (R267, R268): RV64IM, the atomic operations and scalar FP32. What the operations
compute is the RISC-V standards', which the specification names (PRESUMED, log 156); rounding is R96's. -/

namespace Sys2Proof.Machine

/-! ### Integers -/

/-- A value of 32 bits as a register holds it: sign-extended. -/
def sext32 (n : Nat) : Nat := unsignedOf 64 (signedOf 32 n)

/-- Whether an operation has a form on words of 32 bits. -/
def hasWord : IntOp → Bool
  | .add | .sub | .sll | .srl | .sra | .mul | .div | .divu | .rem | .remu => true
  | .slt | .sltu | .xor | .or | .and | .mulh | .mulhsu | .mulhu => false

/-- Whether an operation has a vector form; shifts by less than the width, comparisons with a mask of their own (`VecCmp`). -/
def hasVec : IntOp → Bool
  | .slt | .sltu => false
  | _ => true

/-- Whether an operation has a form with an immediate. -/
def hasImm : IntOp → Bool
  | .add | .slt | .sltu | .xor | .or | .and | .sll | .srl | .sra => true
  | _ => false

/-- An integer operation on `w` bits. -/
def intOpAt (w : Nat) (op : IntOp) (a b : Nat) : Nat :=
  let a := a % 2 ^ w
  let b := b % 2 ^ w
  let sa := signedOf w a
  let sb := signedOf w b
  (match op with
    | .add => a + b
    | .sub => a + 2 ^ w - b
    | .sll => a * 2 ^ (b % w)
    | .slt => flag (decide (sa < sb))
    | .sltu => flag (decide (a < b))
    | .xor => a ^^^ b
    | .srl => a / 2 ^ (b % w)
    | .sra => unsignedOf w (sa / (2 ^ (b % w) : Nat))
    | .or => a ||| b
    | .and => a &&& b
    | .mul => a * b
    | .mulh => unsignedOf w (sa * sb / (2 ^ w : Nat))
    | .mulhsu => unsignedOf w (sa * b / (2 ^ w : Nat))
    | .mulhu => a * b / 2 ^ w
    | .div => if b = 0 then 2 ^ w - 1 else unsignedOf w (sa.tdiv sb)
    | .divu => if b = 0 then 2 ^ w - 1 else a / b
    | .rem => if b = 0 then a else unsignedOf w (sa.tmod sb)
    | .remu => if b = 0 then a else a % b) % 2 ^ w

/-- An integer operation as a register takes its result. -/
def intOp (op : IntOp) (word : Bool) (a b : Nat) : Nat := if word then sext32 (intOpAt 32 op a b) else intOpAt 64 op a b

/-- What an atomic operation stores, on `w` bits. -/
def amoOp (w : Nat) (op : AmoOp) (old b : Nat) : Nat :=
  let b := b % 2 ^ w
  match op with
  | .swap => b
  | .add => (old + b) % 2 ^ w
  | .xor => old ^^^ b
  | .or => old ||| b
  | .and => old &&& b
  | .min => if signedOf w b < signedOf w old then b else old
  | .max => if signedOf w old < signedOf w b then b else old
  | .minu => min old b
  | .maxu => max old b

/-! ### Scalar FP32 -/

/-- Whether an operation has a rounding-mode field (R268). -/
def floatRounds : FloatOp → Bool
  | .sgnj | .sgnjn | .sgnjx | .min | .max => false
  | _ => true

def negate32 (a : Nat) : Nat := (a + 2 ^ 31) % 2 ^ 32

/-- The sign of `b` on the magnitude of `a`. -/
def signedAs (a : Nat) (neg : Bool) : Nat := withSign fp32Fmt neg (abs32 a)

/-- The lesser, or the greater, of two values: a NaN gives way, and −0 is less than +0. -/
def minMax32 (greater : Bool) (a b : Nat) : Nat :=
  if isNan32 a then (if isNan32 b then 0x7FC00000 else b)
  else if isNan32 b then a
  else if order32 a = order32 b then (if isNeg32 a == greater then b else a)
  else if decide (order32 a < order32 b) == greater then b else a

def floatOp (op : FloatOp) (a b c : Nat) : Nat :=
  match op with
  | .add => fadd a b
  | .sub => fsub a b
  | .mul => fmul a b
  | .div => fdiv a b
  | .sqrt => fsqrt a
  | .sgnj => signedAs a (isNeg32 b)
  | .sgnjn => signedAs a (!isNeg32 b)
  | .sgnjx => signedAs a (isNeg32 a != isNeg32 b)
  | .min => minMax32 false a b
  | .max => minMax32 true a b
  | .madd => ffma a b c
  | .msub => ffma a b (negate32 c)
  | .nmsub => ffma (negate32 a) b c
  | .nmadd => ffma (negate32 a) b (negate32 c)

/-- The class of a value as a mask of ten bits. -/
def classOf32 (a : Nat) : Nat :=
  let neg := isNeg32 a
  let m := abs32 a
  let k :=
    if isNan32 a then (if bit m 22 then 9 else 8)
    else if isInf32 a then (if neg then 0 else 7)
    else if m = 0 then (if neg then 3 else 4)
    else if m < 0x00800000 then (if neg then 2 else 5)
    else (if neg then 1 else 6)
  2 ^ k

/-- FP32 to an integer of `w` bits: rounded, held at the limits, the greatest for a NaN. -/
def floatToInt (w : Nat) (sgn : Bool) (a : Nat) : Nat :=
  let lo : Int := if sgn then -((2 ^ (w - 1) : Nat) : Int) else 0
  let hi : Int := if sgn then ((2 ^ (w - 1) : Nat) : Int) - 1 else ((2 ^ w : Nat) : Int) - 1
  let r := if isNan32 a then hi else (convertInt (val32 a) lo hi).1
  if w = 32 then sext32 (unsignedOf 32 r) else unsignedOf 64 r

def floatIntRounds : FloatIntOp → Bool
  | .cvt .. => true
  | _ => false

def floatIntOp (op : FloatIntOp) (a b : Nat) : Nat :=
  match op with
  | .cvt w sgn => floatToInt w sgn a
  | .mvX => sext32 a
  | .eq => flag (le32 a b && le32 b a)
  | .lt => flag (lt32 a b)
  | .le => flag (le32 a b)
  | .classify => classOf32 a

/-- FP32 from an integer of `w` bits. -/
def intToFloat (w : Nat) (sgn : Bool) (a : Nat) : Nat := intTo32 (if sgn then signedOf w a else (a % 2 ^ w : Nat))

end Sys2Proof.Machine
end

