-- ==== Sys2Proof/Machine/Vector.lean ====
section
/-! DEFINITION. The vector extension of the hands' profile (R267, R268): Zve64f with VLEN 256. What the instructions compute is the
RISC-V standard's, which the specification names (PRESUMED, log 156); FP32 is rounded as R96 to R100 say. -/

namespace Sys2Proof.Machine

/-- An integer register; x0 reads zero. -/
def Hand.reg (h : Hand) (r : Nat) : Nat := if r % 32 = 0 then 0 else natAt h.x (r % 32)

/-- An integer register written; x0 stays zero. -/
def Hand.setReg (h : Hand) (r v : Nat) : Hand := if r % 32 = 0 then h else { h with x := h.x.set (r % 32) (v % 2 ^ 64) }

/-! ### Type, length and register groups -/

/-- SEW, and the registers of a group: none for a fractional LMUL. -/
def Hand.sew (h : Hand) : Nat := 8 * 2 ^ bits h.vtype 3 3
def Hand.lmul (h : Hand) : Nat := if h.vtype % 8 < 4 then 2 ^ (h.vtype % 8) else 0

/-- LMUL in eighths; 0 for the reserved code. -/
def lmulEighths (vtype : Nat) : Nat := natAt [8, 16, 32, 64, 0, 1, 2, 4] (vtype % 8)

/-- vtype and vl set (RVV 1.0, with ELEN 64 and VLEN 256): a type that is not supported sets vill. -/
def Hand.setVtype (h : Hand) (rd avl vtype : Nat) : Hand :=
  let sew := 8 * 2 ^ bits vtype 3 3
  let e := lmulEighths vtype
  let h := { h with vstart := 0 }
  if vtype / 256 ≠ 0 || 64 < sew || e = 0 || 8 * e < sew then { h.setReg rd 0 with vtype := 0, vill := true, vl := 0 }
  else
    let vl := min avl (32 * e / sew)
    { h.setReg rd vl with vtype := vtype, vill := false, vl := vl }

/-- The eighths of a register that a group of elements of `w` bits takes beside one of SEW, and the elements of a group of SEW. -/
def Hand.eighths (h : Hand) (w : Nat) : Nat := w * lmulEighths h.vtype / h.sew
def Hand.vlmax (h : Hand) : Nat := 32 * lmulEighths h.vtype / h.sew

/-- The registers of a group. -/
def groupRegs (e : Nat) : Nat := max 1 (e / 8)

/-- Whether a group of so many eighths can begin at a register. -/
def groupAt (e r : Nat) : Bool := decide (1 ≤ e) && decide (e ≤ 64) && r % groupRegs e == 0

/-- Whether a register group can hold the elements of a vector load or store of `fields` fields. -/
def Hand.groupOk (h : Hand) (eew vd fields : Nat) : Bool :=
  let e := h.eighths eew
  !h.vill && [8, 16, 32, 64].contains eew && groupAt e vd && decide (1 ≤ fields) && decide (fields * groupRegs e ≤ 8) &&
    decide (vd + fields * groupRegs e ≤ 32)

/-- The elements that an instruction acts on, from vstart on: all, or those that the mask in v0 names. -/
def Hand.active (h : Hand) (masked : Bool) : List Nat :=
  (List.range h.vl).filter fun i => decide (h.vstart ≤ i) && (!masked || bit (natAt h.v 0) i)

/-- Whether two groups have a register in common. -/
def groupsMeet (a ea b eb : Nat) : Bool := decide (a < b + groupRegs eb) && decide (b < a + groupRegs ea)

/-- Whether a destination group may lie over a source group: of one width; over its lowest part, if narrower; over its highest part, if
wider. A mask is one register of width 1. -/
def mayOverlap (vd ed wd vs es ws : Nat) : Bool :=
  !groupsMeet vd ed vs es || wd == ws || (decide (wd < ws) && vd == vs) ||
    (decide (ws < wd) && decide (8 ≤ es) && vs + groupRegs es == vd + groupRegs ed)

/-! ### Arithmetic on elements -/

/-- A value with its low `d` bits rounded off as vxrm says. -/
def roundOff (vxrm : Nat) (v : Int) (d : Nat) : Int :=
  let p : Int := (2 ^ d : Nat)
  let q := v / p
  let low := (v % p).toNat
  let up := match vxrm % 4 with
    | 0 => decide (2 ^ d ≤ 2 * low) && d != 0
    | 1 => decide (2 ^ d < 2 * low) || (2 * low == 2 ^ d && d != 0 && q % 2 != 0)
    | 2 => false
    | _ => q % 2 == 0 && low != 0
  if up then q + 1 else q

/-- A value held within `[lo, hi]` as `w` bits, and whether it was outside. -/
def heldIn (w : Nat) (lo hi v : Int) : Nat × Bool := (unsignedOf w (max lo (min hi v)), decide (v < lo) || decide (hi < v))

/-- The same within the signed, or the unsigned, range of `w` bits. -/
def heldAs (w : Nat) (sgn : Bool) (v : Int) : Nat × Bool :=
  if sgn then heldIn w (-((2 ^ (w - 1) : Nat) : Int)) (((2 ^ (w - 1) : Nat) : Int) - 1) v else heldIn w 0 (((2 ^ w : Nat) : Int) - 1) v

/-- `w` bits as a number, signed or not. -/
def asInt (w : Nat) (sgn : Bool) (n : Nat) : Int := if sgn then signedOf w n else ((n % 2 ^ w : Nat) : Int)

/-- A single-width integer operation on an element `a` of the first group and `b` of the other source; and whether it saturated. -/
def vecInt (w vxrm : Nat) (op : VecInt) (a b : Nat) : Nat × Bool :=
  let exact := fun (n : Nat) => (n, false)
  match op with
  | .std op => exact (intOpAt w op a b)
  | .rsub => exact (intOpAt w .sub b a)
  | .least sgn => exact (if asInt w sgn b < asInt w sgn a then b else a)
  | .greatest sgn => exact (if asInt w sgn a < asInt w sgn b then b else a)
  | .move => exact b
  | .addSat sgn => heldAs w sgn (asInt w sgn a + asInt w sgn b)
  | .subSat sgn => heldAs w sgn (asInt w sgn a - asInt w sgn b)
  | .addAvg sgn => exact (unsignedOf w (roundOff vxrm (asInt w sgn a + asInt w sgn b) 1))
  | .subAvg sgn => exact (unsignedOf w (roundOff vxrm (asInt w sgn a - asInt w sgn b) 1))
  | .mulSat => heldAs w true (roundOff vxrm (signedOf w a * signedOf w b) (w - 1))
  | .shiftRound sgn => exact (unsignedOf w (roundOff vxrm (asInt w sgn a) (b % w)))

/-- A comparison of integers. -/
def vecCmp (w : Nat) (op : VecCmp) (a b : Nat) : Bool :=
  match op with
  | .eq => a == b
  | .ne => a != b
  | .lt sgn => decide (asInt w sgn a < asInt w sgn b)
  | .le sgn => decide (asInt w sgn a ≤ asInt w sgn b)
  | .gt sgn => decide (asInt w sgn b < asInt w sgn a)

/-- The seven leading bits of a reciprocal's significand, and of a reciprocal square root's, as the standard's tables give them. -/
def rec7Table (i : Nat) : Nat := (131072 / (257 + 2 * i) + 1) / 2 - 128
def rsqrt7Table (i : Nat) : Nat :=
  if i < 64 then (isqrt (2 ^ 24 / (129 + 2 * i)) + 1) / 2 - 128 else (isqrt (2 ^ 25 / (129 + 2 * (i - 64))) + 1) / 2 - 128

/-- The biased exponent of a positive FP32 value with a normalised significand, and its 23 fraction bits. -/
def normal32 (m : Nat) : Int × Nat :=
  if 2 ^ 23 ≤ m then (m / 2 ^ 23, m % 2 ^ 23) else (1 - ((23 - Nat.log2 m : Nat) : Int), m * 2 ^ (23 - Nat.log2 m) % 2 ^ 23)

/-- vfrec7.v: an estimate of the reciprocal to seven bits. -/
def frec7 (a : Nat) : Nat :=
  let neg := isNeg32 a
  let m := abs32 a
  if isNan32 a then 0x7FC00000
  else if isInf32 a then withSign fp32Fmt neg 0
  else if m = 0 then withSign fp32Fmt neg 0x7F800000
  else
    let (e, f) := normal32 m
    if e < -1 then withSign fp32Fmt neg 0x7F800000
    else
      let sig := rec7Table (f / 2 ^ 16) * 2 ^ 16
      let out : Int := 253 - e
      withSign fp32Fmt neg
        (if 0 < out then out.toNat * 2 ^ 23 + sig else if out = 0 then (sig + 2 ^ 23) / 2 else (sig + 2 ^ 23) / 4)

/-- vfrsqrt7.v: an estimate of the reciprocal square root to seven bits. -/
def frsqrt7 (a : Nat) : Nat :=
  let neg := isNeg32 a
  let m := abs32 a
  if isNan32 a then 0x7FC00000
  else if m = 0 then withSign fp32Fmt neg 0x7F800000
  else if neg then 0x7FC00000
  else if isInf32 a then 0
  else
    let (e, f) := normal32 m
    ((380 - e) / 2).toNat * 2 ^ 23 + rsqrt7Table (64 * (e % 2).toNat + f / 2 ^ 17) * 2 ^ 16

/-- A floating-point operation on two elements; `rsub` and `rdiv` take them the other way round. -/
def vecFloat (op : VecFloat) (a b : Nat) : Nat :=
  match op with
  | .std op => floatOp op a b 0
  | .rsub => fsub b a
  | .rdiv => fdiv b a

def vecUnary (op : VecUnary) (a : Nat) : Nat :=
  match op with
  | .sqrt => fsqrt a
  | .rsqrt7 => frsqrt7 a
  | .rec7 => frec7 a
  | .classify => classOf32 a

/-- A comparison of FP32 values: false of a NaN, but for `ne`. -/
def vecFloatCmp (op : VecFloatCmp) (a b : Nat) : Bool :=
  match op with
  | .eq => le32 a b && le32 b a
  | .ne => !(le32 a b && le32 b a)
  | .lt => lt32 a b
  | .le => le32 a b
  | .gt => lt32 b a
  | .ge => le32 b a

/-! ### Instructions on each element -/

/-- The other source's element, of `w` bits. -/
def Hand.source (h : Hand) (w : Nat) (src : VecSrc) (i : Nat) : Nat :=
  match src with
  | .vec vs1 => h.velemW w vs1 i
  | .int rs1 => h.reg rs1 % 2 ^ w
  | .float fs1 => natAt h.f (fs1 % 32) % 2 ^ w
  | .imm n => n % 2 ^ w

/-- Width of the integers of a conversion beside FP32, and the SEW that it takes. -/
def convertWidth : VecConvert → Nat
  | .same => 32 | .widen => 64 | .narrow => 16
def unconvertWidth : VecConvert → Nat
  | .same => 32 | .widen => 16 | .narrow => 64

/-- The widths of an instruction on each element at a SEW: its destination's, with 1 for a mask, and its first group's. -/
def vecWidths (sew : Nat) : VecEach → Nat × Nat
  | .int _ | .fused .. | .float _ | .floatFused .. | .unary _ | .merge | .carry .. => (sew, sew)
  | .cmp _ | .floatCmp _ | .carryOut .. => (1, sew)
  | .widen _ _ _ wide => (2 * sew, if wide then 2 * sew else sew)
  | .narrow .. => (sew, 2 * sew)
  | .extend _ by_ => (sew, sew / by_)
  | .toInt _ k => (convertWidth k, 32)
  | .ofInt _ k => (32, unconvertWidth k)

/-- Whether an instruction on each element is one that the profile has at a SEW: FP32 alone, elements of 8 to 64 bits, no high half and no
fixed-point product of 64 bits. -/
def vecHas (sew : Nat) (src : VecSrc) (masked : Bool) : VecEach → Bool
  | .int (.std op) => hasVec op && (sew < 64 || !([.mulh, .mulhsu, .mulhu].contains op))
  | .int .mulSat => decide (sew < 64)
  | .int .move => !masked
  | .int _ | .cmp _ | .fused .. => true
  | .widen op s2 s1 wide => decide (sew < 64) && (match op with
      | .add | .sub => s2 == s1
      | .mul | .macc => !wide)
  | .narrow .. => decide (sew < 64)
  | .extend _ by_ => [2, 4, 8].contains by_ && decide (8 * by_ ≤ sew)
  | .carry _ => !masked
  | .carryOut .. => !masked
  | .merge => !masked && (match src with | .float _ => sew == 32 | _ => true)
  | .float op => sew == 32 && (match op with | .std o => [.add, .sub, .mul, .div, .sgnj, .sgnjn, .sgnjx, .min, .max].contains o | _ => true)
  | .floatFused .. | .unary _ | .floatCmp _ => sew == 32
  | .toInt _ k => sew == (match k with | .narrow => 16 | _ => 32)
  | .ofInt _ k => sew == (match k with | .widen => 16 | _ => 32)

/-- One element: of the first group `a`, the other source `b`, the old destination `d`, and the mask bit `m` of v0; and whether it
saturated. -/
def vecEach (sew vxrm : Nat) (op : VecEach) (a b d : Nat) (m : Bool) : Nat × Bool :=
  let mod := fun (n : Nat) => (n % 2 ^ sew, false)
  match op with
  | .int op => vecInt sew vxrm op a b
  | .cmp op => (flag (vecCmp sew op a b), false)
  | .fused neg keeps =>
    let p := if keeps then b * d else b * a
    let c := if keeps then a else d
    (unsignedOf sew (if neg then (c : Int) - p else c + p), false)
  | .widen op s2 s1 wide =>
    let x := asInt (if wide then 2 * sew else sew) s2 a
    let y := asInt sew s1 b
    (unsignedOf (2 * sew) (match op with
      | .add => x + y
      | .sub => x - y
      | .mul => x * y
      | .macc => d + x * y), false)
  | .narrow sgn clip =>
    let x := asInt (2 * sew) sgn a
    let k := b % (2 * sew)
    if clip then heldAs sew sgn (roundOff vxrm x k) else (unsignedOf sew (x / ((2 ^ k : Nat) : Int)), false)
  | .extend sgn by_ => (unsignedOf sew (asInt (sew / by_) sgn a), false)
  | .carry sub => mod (if sub then a + 2 * 2 ^ sew - b - flag m else a + b + flag m)
  | .carryOut sub uses =>
    let c := flag (m && uses)
    (flag (if sub then decide (a < b + c) else decide (2 ^ sew ≤ a + b + c)), false)
  | .merge => (if m then b else a, false)
  | .float op => (vecFloat op a b, false)
  | .floatFused negP negC keeps =>
    let x := if negP then negate32 b else b
    let c := if keeps then a else d
    (ffma x (if keeps then d else a) (if negC then negate32 c else c), false)
  | .unary op => (vecUnary op a, false)
  | .floatCmp op => (flag (vecFloatCmp op a b), false)
  | .toInt sgn k => (floatToInt (convertWidth k) sgn a % 2 ^ convertWidth k, false)
  | .ofInt sgn k => (intToFloat (unconvertWidth k) sgn a, false)

/-- Whether the groups of an instruction are sound: each can begin where it does, the destination lies over a source only where it may,
and over v0 only where no mask or carry of vector width is read from it. -/
def Hand.eachOk (h : Hand) (op : VecEach) (vd vs2 : Nat) (src : VecSrc) (masked : Bool) : Bool :=
  let (wd, w2) := vecWidths h.sew op
  let ed := if wd = 1 then 1 else h.eighths wd
  let readsMask := masked || (match op with | .carry _ | .merge => true | _ => false)
  let mayLie := fun (vs w : Nat) => groupAt (h.eighths w) vs && mayOverlap vd ed wd vs (h.eighths w) w
  groupAt ed vd && mayLie vs2 w2 && (match src with | .vec vs1 => mayLie vs1 h.sew | _ => true) && !(readsMask && wd != 1 && vd == 0)

/-- An instruction on each active element; tail and masked-off elements keep what they hold (DESIGN CHOICE, log 156). -/
def Hand.runEach (h : Hand) (op : VecEach) (vd vs2 : Nat) (src : VecSrc) (masked : Bool) : Hand :=
  let (wd, w2) := vecWidths h.sew op
  let l := (h.active masked).map fun i =>
    (i, vecEach h.sew h.vxrm op (h.velemW w2 vs2 i) (h.source h.sew src i) (h.velemW wd vd i) (bit (natAt h.v 0) i))
  let h' := l.foldl (fun h x => Hand.setElem h wd vd x.1 x.2.1) h
  { h' with vstart := 0, vxsat := if l.any fun x => x.2.2 then 1 else h.vxsat }

/-! ### Reductions -/

/-- Width of a reduction's result, and whether the profile has it. -/
def foldWidth (sew : Nat) : VecFold → Nat
  | .wideSum _ => 2 * sew
  | _ => sew

def foldHas (sew : Nat) : VecFold → Bool
  | .wideSum _ => decide (sew < 64)
  | .floatSum _ | .floatLeast | .floatGreatest => sew == 32
  | _ => true

/-- A reduction of the active elements with the scalar. An unordered sum of several has the value of some order, which the standard
leaves open: a free value. -/
def foldOf (sew : Nat) (op : VecFold) (x : Nat) (l : List Nat) : Nat :=
  match op with
  | .sum => l.foldl (fun a y => (a + y) % 2 ^ sew) x
  | .and => l.foldl (fun a y => a &&& y) x
  | .or => l.foldl (fun a y => a ||| y) x
  | .xor => l.foldl (fun a y => a ^^^ y) x
  | .least sgn => l.foldl (fun a y => if asInt sew sgn y < asInt sew sgn a then y else a) x
  | .greatest sgn => l.foldl (fun a y => if asInt sew sgn a < asInt sew sgn y then y else a) x
  | .wideSum sgn => unsignedOf (2 * sew) (l.foldl (fun a y => a + asInt sew sgn y) (x : Int))
  | .floatSum ordered =>
    if ordered || l.length ≤ 1 then l.foldl fadd x else Config.unstated 14 (l.foldl (fun a y => a * 2 ^ 32 + y) (2 ^ 32 + x)) % 2 ^ 32
  | .floatLeast => l.foldl (minMax32 false) x
  | .floatGreatest => l.foldl (minMax32 true) x

/-- A reduction: nothing is written where vl is 0. -/
def Hand.runFold (h : Hand) (op : VecFold) (vd vs2 vs1 : Nat) (masked : Bool) : Hand :=
  let w := foldWidth h.sew op
  let x := foldOf h.sew op (h.velemW w vs1 0) ((h.active masked).map (h.velemW h.sew vs2))
  if h.vl = 0 then h else h.setElem w vd 0 x

/-! ### Masks -/

def maskBit (op : VecMask) (a b : Bool) : Bool :=
  match op with
  | .and => a && b
  | .nand => !(a && b)
  | .andn => a && !b
  | .xor => a != b
  | .or => a || b
  | .nor => !(a || b)
  | .orn => a || !b
  | .xnor => a == b

/-- A bit of a mask register, and one written. -/
def Hand.maskAt (h : Hand) (v i : Nat) : Bool := bit (natAt h.v (v % 32)) i
def Hand.setMask (h : Hand) (v i : Nat) (x : Bool) : Hand := h.setElem 1 v i (flag x)

/-- Bits of a mask before its first active one (vmsbf, vmsif), or that one alone (vmsof). -/
def Hand.maskSet (h : Hand) (op : VecSet) (vs2 : Nat) (masked : Bool) (i : Nat) : Bool :=
  let before := (h.active masked).any fun j => decide (j < i) && h.maskAt vs2 j
  match op with
  | .before => !before && !h.maskAt vs2 i
  | .through => !before
  | .only => !before && h.maskAt vs2 i

/-! ### Permutations -/

/-- The whole value of a scalar source: an offset or an index. -/
def Hand.scalar (h : Hand) (src : VecSrc) : Nat :=
  match src with
  | .vec _ => 0
  | .int rs1 => h.reg rs1
  | .float fs1 => natAt h.f (fs1 % 32)
  | .imm n => n

/-- An element of a group; zero past its end. -/
def Hand.elemOr0 (h : Hand) (vs i : Nat) : Nat := if h.vlmax ≤ i then 0 else h.velemW h.sew vs i

/-- The element that a permutation brings to place `i`; none where the place keeps its own. -/
def Hand.permuted (h : Hand) (op : VecPerm) (vs2 : Nat) (src : VecSrc) (i : Nat) : Option Nat :=
  match op with
  | .slideUp => if i < h.scalar src then none else some (h.velemW h.sew vs2 (i - h.scalar src))
  | .slideDown => some (h.elemOr0 vs2 (i + h.scalar src))
  | .slide1Up => some (if i = 0 then h.source h.sew src 0 else h.velemW h.sew vs2 (i - 1))
  | .slide1Down => some (if i + 1 = h.vl then h.source h.sew src 0 else h.elemOr0 vs2 (i + 1))
  | .gather => some (h.elemOr0 vs2 (match src with | .vec vs1 => h.velemW h.sew vs1 i | _ => h.scalar src))
  | .gather16 => some (h.elemOr0 vs2 (h.source 16 src i))

/-- Whether a permutation's groups are sound: the destination may lie over the source only in a slide downwards. -/
def Hand.permOk (h : Hand) (op : VecPerm) (vd vs2 : Nat) (src : VecSrc) (masked : Bool) : Bool :=
  let e := h.eighths h.sew
  let down := op == .slideDown || op == .slide1Down
  groupAt e vd && groupAt e vs2 && (down || !groupsMeet vd e vs2 e) && !(masked && vd == 0) && (match op, src with
    | .gather, .vec vs1 => groupAt e vs1 && !groupsMeet vd e vs1 e
    | .gather16, .vec vs1 => groupAt (h.eighths 16) vs1 && !groupsMeet vd e vs1 (h.eighths 16)
    | .gather16, _ => false
    | .slide1Up, .float _ => h.sew == 32
    | .slide1Down, .float _ => h.sew == 32
    | _, .vec _ => false
    | _, .float _ => false
    | _, _ => true)

def Hand.runPerm (h : Hand) (op : VecPerm) (vd vs2 : Nat) (src : VecSrc) (masked : Bool) : Hand :=
  { (h.active masked).foldl (fun g i => match h.permuted op vs2 src i with
      | some x => Hand.setElem g h.sew vd i x
      | none => g) h with vstart := 0 }

/-! ### One instruction -/

/-- A vector arithmetic, mask or permutation instruction of the profile: the hand after it; none where it is illegal (R267, R268). -/
def Hand.runVector (h : Hand) (op : VecOp) : Option Hand :=
  let e := h.eighths h.sew
  let done := fun (h : Hand) => { h with vstart := 0 }
  let onlyIf := fun (ok : Bool) (g : Hand) => if ok && !h.vill then some (done g) else none
  let first := h.vstart == 0
  match op with
  | .each op vd vs2 src masked => onlyIf (vecHas h.sew src masked op && h.eachOk op vd vs2 src masked) (h.runEach op vd vs2 src masked)
  | .fold op vd vs2 vs1 masked => onlyIf (first && foldHas h.sew op && groupAt e vs2) (h.runFold op vd vs2 vs1 masked)
  | .mask op vd vs2 vs1 => onlyIf true
      ((h.active false).foldl (fun g i => Hand.setMask g vd i (maskBit op (h.maskAt vs2 i) (h.maskAt vs1 i))) h)
  | .popCount rd vs2 masked => onlyIf first (h.setReg rd ((h.active masked).filter (h.maskAt vs2)).length)
  | .findFirst rd vs2 masked => onlyIf first (h.setReg rd (((h.active masked).find? (h.maskAt vs2)).getD (2 ^ 64 - 1)))
  | .maskSet op vd vs2 masked => onlyIf (first && vd != vs2 && !(masked && vd == 0))
      ((h.active masked).foldl (fun g i => Hand.setMask g vd i (h.maskSet op vs2 masked i)) h)
  | .iota vd vs2 masked => onlyIf (first && groupAt e vd && !groupsMeet vd e vs2 1 && !(masked && vd == 0))
      ((h.active masked).foldl (fun g i => Hand.setElem g h.sew vd i
        ((h.active masked).filter fun j => decide (j < i) && h.maskAt vs2 j).length) h)
  | .index vd masked => onlyIf (groupAt e vd && !(masked && vd == 0))
      ((h.active masked).foldl (fun g i => Hand.setElem g h.sew vd i i) h)
  | .perm op vd vs2 src masked => onlyIf (h.permOk op vd vs2 src masked) (h.runPerm op vd vs2 src masked)
  | .compress vd vs2 vs1 => onlyIf (first && groupAt e vd && groupAt e vs2 && !groupsMeet vd e vs2 e && !groupsMeet vd e vs1 1)
      (((h.active false).filter (h.maskAt vs1)).zipIdx.foldl (fun g x => Hand.setElem g h.sew vd x.2 (h.velemW h.sew vs2 x.1)) h)
  | .toReg rd vs2 => onlyIf true (h.setReg rd (unsignedOf 64 (signedOf h.sew (h.velemW h.sew vs2 0))))
  | .toFloat fd vs2 => onlyIf (h.sew == 32) { h with f := h.f.set (fd % 32) (h.velemW 32 vs2 0) }
  | .ofScalar vd src => onlyIf (match src with | .float _ => h.sew == 32 | .int _ => true | _ => false)
      (if h.vstart < h.vl then h.setElem h.sew vd 0 (h.source h.sew src 0) else h)
  | .moveWhole n vd vs2 => onlyIf ([1, 2, 4, 8].contains n && vd % n == 0 && vs2 % n == 0)
      (((List.range (256 * n / h.sew)).filter fun i => decide (h.vstart ≤ i)).foldl
        (fun g i => Hand.setElem g h.sew vd i (h.velemW h.sew vs2 i)) h)

end Sys2Proof.Machine
end

