-- ==== Sys2Proof/Machine/Hands.lean ====
section
/-! DEFINITION. Hands: their address space (R271, R272), the standard profile (R267 to R270), the custom instructions (R281 to R286),
the runtime's services (R279, R280) and the walker (R284). -/

namespace Sys2Proof.Machine

/-! ### Access to a hand -/

/-- One instruction of `len` bytes of a hand of a bay program's job: a hand that is waiting or has exited executes none, and the fetch
is checked first (R271, cause 2). -/
def State.onHand (s : State) (crew hand pc len : Nat) (f : Nat → Job → Hand → State → State) : Out :=
  if 31 < crew || 15 < hand then .fault .noSuchUnit
  else .next <| match s.crewBay crew, s.jobOf crew with
  | some b, some j => match j.hands[hand]? with
    | none => s
    | some h =>
      if j.program = 0 || h.exited || h.waitingBarrier || h.loading then s
      else if !(s.codePage b pc && s.codePage b (pc + len - 1)) then s.crewFault crew hand 2 pc pc
      else f b j h (s.modHand crew hand fun h => { h with pc := pc })
  | _, _ => s

/-! ### Regions (R271) -/

/-- What a hand sees at an address. -/
inductive Region' where
  | scratch (off : Nat)
  | store (off : Nat)
  | ring (off : Nat)
  | crib (off : Nat)
  | silo (off : Nat)
  | loft (off : Nat)
  | none
deriving DecidableEq, Repr

/-- The region that holds `n` bytes at an address for a data access of a hand. -/
def State.handRegion (s : State) (b die addr n : Nat) : Region' :=
  let within := fun (lo size : Nat) => decide (lo ≤ addr) && decide (addr + n ≤ lo + size)
  let sp := (s.bay b).space
  if within 0 0xF000 || within 0xF000 96 then .scratch addr
  else if within 0x100000 (960 * 1024) then .store (addr - 0x100000)
  else if within 0x100000000 (s.ringBytes b) then .ring (addr - 0x100000000)
  else if within 0x1000000000 (64 * s.cribShare b die) then .crib (addr - 0x1000000000)
  else if within 0x10000000000 (64 * unitGranules * sp.siloExt.length) then .silo (addr - 0x10000000000)
  else if within 0x20000000000 (64 * unitGranules * sp.loftExt.length) then .loft (addr - 0x20000000000)
  else .none

/-- The priority queue of a hand's loads (DESIGN CHOICE, log 157). -/
def handQueue (role : Nat) : Nat := if role = 1 then 2 else if role = 2 then 3 else 4

/-- How a load has gone: its value has come, a read for it is under way, or neither: the hand faults, or waits for the ring's point. -/
inductive Loaded where
  | come | coming | no
deriving DecidableEq, Repr

/-- Bytes of the crib, zeros in granules that cannot be read (R272, R318). -/
def State.cribBytes (s : State) (b die off n : Nat) (bad : List Nat) : List Byte :=
  (s.read .crib b die off n).zipIdx.map fun x => if bad.contains ((off + x.2) / 64) then 0 else x.1

/-- A load of the ring view: at its point's turn (R64, R72), charged to the bay; zeros from a granule that cannot be read. -/
def State.ringLoad (s : State) (b role die off width : Nat) (bad : List Nat) : Option (List Byte × State) :=
  let g := s.ringGranule b off
  if !s.mayAccess b die (handQueue role) 1 g 1 false then none
  else
    let s := s.chargeRing b off width false (some die)
    let s := if bad.contains (off / 64) then (s.addPoison .ring b 0 (off / 64)).siloBad b g else s
    some (if s.poisoned .ring b 0 (off / 64) 1 || s.siloLost b g || s.cutOff b die 1 g then zeros width else s.read .ring b 0 off width, s)

/-- A load (R272): scratch, store and crib answer at once, the ring at its turn; silo and loft space by a read of one granule, charged to
the bay, for which the hand waits. -/
def State.handLoad (s : State) (b role crew hand pc : Nat) (dst : HandDst) (width addr : Nat) (bad : List Nat) : Loaded × State :=
  let die := crew / 16
  let put := fun (s : State) (l : List Byte) => (Loaded.come, s.modHand crew hand fun h => h.put dst width l)
  let far := fun (space off : Nat) =>
    if addr % width ≠ 0 then (Loaded.no, s.crewFault crew hand 5 pc addr)
    else (Loaded.coming, ((s.modHand crew hand fun h => { h with loading := true }).putRead b die none (handQueue role) false
      (.hand crew hand dst width (off % 64)) space (off / 64) 1 0 false).pump)
  match s.handRegion b die addr width with
  | .scratch off => put s (s.read .scratch crew 0 (65536 * hand + off) width)
  | .store off => put s (s.read .store crew 0 off width)
  | .ring off =>
    if addr % width ≠ 0 then (.no, s.crewFault crew hand 5 pc addr)
    else match s.ringLoad b role die off width bad with
      | some (l, s) => put s l
      | none => (.no, s)
  | .crib off => put s (s.cribBytes b die off width bad)
  | .silo off => far 1 off
  | .loft off => far 2 off
  | .none => (.no, s.crewFault crew hand 3 pc addr)

/-- Whether a load of an address would fault (R271, R272). -/
def State.loadFaults (s : State) (b die width addr : Nat) : Bool :=
  match s.handRegion b die addr width with
  | .scratch _ | .store _ | .crib _ => false
  | .ring _ | .silo _ | .loft _ => addr % width != 0
  | .none => true

/-- Whether hand `j` of crew `k` sees what another one stores at an address: in the store of its crew, or in the bay's crib share on
its die. -/
def State.seesStore (s : State) (b crew hand addr k j : Nat) : Bool :=
  !(k == crew && j == hand) &&
    (if addr < 0x100000 then false else if addr < 0x1000000000 then k == crew else k / 16 == crew / 16 && (s.bay b).crews.contains k)

/-- Reservations that a store ends. -/
def Job.unreserve (j : Job) (sees : Nat → Bool) (addr n : Nat) : Job :=
  { j with hands := j.hands.zipIdx.map fun h =>
      if sees h.2 && h.1.reserved.any fun r => decide (addr < r.1 + r.2) && decide (r.1 < addr + n) then { h.1 with reserved := none }
      else h.1 }

def State.unreserve (s : State) (b crew hand addr n : Nat) : State :=
  { s with dp.crews := s.dp.crews.zipIdx.map fun c =>
      { c.1 with job := c.1.job.map fun j => j.unreserve (s.seesStore b crew hand addr c.2) addr n } }

/-- A store (R272, R273, cause 4). Whether it has been made. -/
def State.handStore (s : State) (b crew hand pc width addr data : Nat) : Bool × State :=
  let die := crew / 16
  let bytes := leBytes width data
  let no := fun (cause : Nat) => (false, s.crewFault crew hand cause pc addr)
  let put := fun (s : State) => (true, s.unreserve b crew hand addr width)
  match s.handRegion b die addr width with
  | .scratch off => if off < 0xF000 then put (s.write .scratch crew 0 (65536 * hand + off) bytes) else no 4
  | .store off =>
    if (List.range width).any fun i => s.codePage b (addr + i) then no 4 else put (s.write .store crew 0 off bytes)
  | .crib off => put (s.write .crib b die off bytes)
  | .ring _ | .silo _ | .loft _ => no (if addr % width = 0 then 4 else 5)
  | .none => no 4

/-! ### Atomic memory operations -/

/-- A load-reserved (RV64A): the load, and the reservation. -/
def State.handReserve (s : State) (b role crew hand pc rd width addr : Nat) (bad : List Nat) : State :=
  if addr % width ≠ 0 then s.crewFault crew hand 5 pc addr
  else ((s.modHand crew hand fun h => { h with reserved := some (addr, width) }).handLoad b role crew hand pc (.int rd true) width addr bad).2

/-- A store-conditional: made while the hand's reservation of the place stands, which it ends; 0, or 1 for one not made. -/
def State.handConditional (s : State) (b crew hand pc rd width addr data : Nat) : State :=
  let held := ((s.jobOf crew).bind fun j => j.hands[hand]?).any fun h => h.reserved == some (addr, width)
  let give := fun (s : State) (v : Nat) => s.modHand crew hand fun h => { h.setReg rd v with reserved := none }
  if addr % width ≠ 0 then s.crewFault crew hand 5 pc addr
  else if !held then give s 1
  else match s.handStore b crew hand pc width addr data with
    | (true, s) => give s 0
    | (false, s) => s

/-- An atomic operation: the old value goes to `rd`. -/
def State.handAtomic (s : State) (b crew hand pc : Nat) (op : AmoOp) (rd width addr data : Nat) (bad : List Nat) : State :=
  if addr % width ≠ 0 then s.crewFault crew hand 5 pc addr
  else
    let old := match s.handRegion b (crew / 16) addr width with
      | .scratch off => leNat (s.read .scratch crew 0 (65536 * hand + off) width)
      | .store off => leNat (s.read .store crew 0 off width)
      | .crib off => leNat (s.cribBytes b (crew / 16) off width bad)
      | _ => 0
    match s.handStore b crew hand pc width addr (amoOp (8 * width) op old data) with
    | (true, s) => s.modHand crew hand fun h => h.setReg rd (unsignedOf 64 (signedOf (8 * width) old))
    | (false, s) => s

/-! ### Vector loads and stores (R267) -/

/-- The address of an element. -/
def Hand.elemAddr (h : Hand) (eew fields rs1 : Nat) (mode : VMode) (i : Nat) : Nat :=
  (h.reg rs1 + match mode with
    | .unit => i * (fields * (eew / 8))
    | .strided rs2 => i * h.reg rs2
    | .indexed vs2 w => h.velemW w vs2 i) % 2 ^ 64

/-- Whether the group of an indexed access's offsets is sound: a load's destination lies over it only where it may. -/
def Hand.modeOk (h : Hand) (eew vd fields : Nat) (isLoad : Bool) : VMode → Bool
  | .indexed vs2 w => h.groupOk w vs2 1 && eew == h.sew && (!isLoad ||
      if fields = 1 then mayOverlap vd (h.eighths eew) eew vs2 (h.eighths w) w
      else !(List.range fields).any fun f => groupsMeet (vd + f * groupRegs (h.eighths eew)) (h.eighths eew) vs2 (h.eighths w))
  | _ => true

/-- The fields of some elements, each with its element, from where the instruction goes on. -/
def Hand.fieldsOf (h : Hand) (fields : Nat) (l : List Nat) : List (Nat × Nat) :=
  (l.flatMap fun i => (List.range fields).map fun f => (i, f)).filter fun x => x.1 != h.vstart || decide (h.vfield ≤ x.2)

/-- The address of a field. -/
def fieldAddr (eew : Nat) (addr : Nat → Nat) (x : Nat × Nat) : Nat := (addr x.1 + x.2 * (eew / 8)) % 2 ^ 64

/-- Where a vector access goes on when it is executed again. -/
def Hand.goOn (h : Hand) (l : List (Nat × Nat)) : Hand := { h with vstart := (l.headD (0, 0)).1, vfield := (l.headD (0, 0)).2 }

/-- Fields loaded one by one, those of one number into one group of `regs` registers. One of silo or loft space comes with a read of its
own, after which the instruction goes on with the next when it is executed again; one that cannot be loaded yet is tried again. -/
def State.vloadRun (b role crew hand pc vd regs eew : Nat) (bad : List Nat) (addr : Nat → Nat) : List (Nat × Nat) → State → State
  | [], s => s.modHand crew hand fun h => h.goOn []
  | x :: rest, s => match s.handLoad b role crew hand pc (.elem (vd + x.2 * regs) x.1) (eew / 8) (fieldAddr eew addr x) bad with
    | (.come, s) => State.vloadRun b role crew hand pc vd regs eew bad addr rest s
    | (.coming, s) => s.modHand crew hand fun h => h.goOn rest
    | (.no, s) => s.modHand crew hand fun h => h.goOn (x :: rest)

/-- Fields stored one by one. -/
def State.vstoreRun (b crew hand pc vs regs eew : Nat) (h : Hand) (addr : Nat → Nat) : List (Nat × Nat) → State → State
  | [], s => s.modHand crew hand fun h => h.goOn []
  | x :: rest, s =>
    match s.handStore b crew hand pc (eew / 8) (fieldAddr eew addr x) (h.velemW eew (vs + x.2 * regs) x.1) with
    | (true, s) => State.vstoreRun b crew hand pc vs regs eew h addr rest s
    | (false, s) => s

/-- The vector load that stops before an element, other than the first, which it cannot load: vl becomes that element's number. -/
def State.vloadFirst (s : State) (b role crew hand pc vd eew fields : Nat) (bad : List Nat) (h : Hand) (addr : Nat → Nat) (masked : Bool) :
    State :=
  let ok := fun (i : Nat) => i == 0 || (List.range fields).all fun f => !s.loadFaults b (crew / 16) (eew / 8) (fieldAddr eew addr (i, f))
  let l := h.active masked
  let n := ((l.find? fun i => !ok i).getD h.vl)
  State.vloadRun b role crew hand pc vd (groupRegs (h.eighths eew)) eew bad addr (h.fieldsOf fields (l.takeWhile ok))
    (s.modHand crew hand fun h => { h with vl := n })

/-! ### CSRs (R268, R270) -/

/-- hx_ident. -/
def identOf (b crew hand : Nat) : Nat := hand + 16 * (crew % 16) + 256 * (crew / 16) + 4096 * b

/-- The value of a CSR; none for one that the profile lacks. Counters of Zicntr are not given a value (DESIGN CHOICE, log 28). -/
def State.csrValue (s : State) (b crew hand : Nat) (h : Hand) (n : Nat) : Option Nat :=
  match n with
  | 0x001 | 0x002 | 0x003 => some 0
  | 0x008 => some h.vstart
  | 0x009 => some h.vxsat
  | 0x00A => some h.vxrm
  | 0x00F => some (h.vxsat + 2 * h.vxrm)
  | 0x800 => some h.dedupLast
  | 0x801 => some h.dedupState
  | 0x802 => some h.walkBase
  | 0x803 => some h.walkDone
  | 0xCC0 => some (identOf b crew hand)
  | 0xC00 | 0xC01 | 0xC02 => some (Config.unstated 3 (s.dev.now * 4096 + n) % 2 ^ 64)
  | 0xC20 => some h.vl
  | 0xC21 => some (if h.vill then 2 ^ 63 else h.vtype)
  | 0xC22 => some 32
  | _ => none

/-- A CSR written: reserved bits stay zero; frm, fflags and the RO fields hx_walk_done and hx_ident ignore writes (R15, R268, R270). -/
def Hand.setCsr (h : Hand) (n v : Nat) : Hand :=
  match n with
  | 0x008 => { h with vstart := v % 256, vfield := 0 }
  | 0x009 => { h with vxsat := v % 2 }
  | 0x00A => { h with vxrm := v % 4 }
  | 0x00F => { h with vxsat := v % 2, vxrm := v / 2 % 4 }
  | 0x800 => { h with dedupLast := v % 2 ^ 64 }
  | 0x801 => { h with dedupState := v % 4 }
  | 0x802 => { h with walkBase := v % 2 ^ 64 / 16 * 16 }
  | _ => h

/-- Whether a write to a CSR is illegal: to one whose number says read-only, but for the profile's own, whose writes are ignored. -/
def csrFixed (n : Nat) : Bool := n / 1024 == 3 && n != 0xCC0

/-- A CSR instruction: the old value goes to `rd`, the new one is written unless nothing is set or cleared. -/
def State.handCsr (s : State) (b crew hand pc : Nat) (h : Hand) (op : CsrOp) (n rd src : Nat) (imm : Bool) : State :=
  match s.csrValue b crew hand h n with
  | none => s.crewFault crew hand 1 pc 0
  | some old =>
    let x := if imm then src % 32 else h.reg src
    let writes := op == .write || src % 32 != 0
    if writes && csrFixed n then s.crewFault crew hand 1 pc 0
    else
      let new := match op with
        | .write => x
        | .set => old ||| x
        | .clear => old - (old &&& x)
      s.modHand crew hand fun h => (if writes then h.setCsr n new else h).setReg rd old

/-! ### hx.hash, hx.dedup -/

/-- hx.hash (R281, R282): imm[11:8] must be zero. -/
def State.runHash (s : State) (crew hand pc : Nat) (h : Hand) (rd rs1 imm : Nat) : State :=
  if 256 ≤ imm then s.crewFault crew hand 1 pc 0
  else s.modHand crew hand fun h' => h'.setReg rd (hxHash (h.reg rs1) imm)

/-- HX_HASH. -/
def execHxHash (crew hand pc rd rs1 imm : Nat) (s : State) : Out :=
  s.onHand crew hand pc 4 fun _ _ h s => s.runHash crew hand pc h rd rs1 imm

/-- Element `i` of 64 bits of a vector register group. -/
def Hand.velem (h : Hand) (vs i : Nat) : Nat := bits (natAt h.v (vs + i / 4)) (64 * (i % 4)) 64

/-- One step of hx.dedup (R286): the mask and the two registers. -/
def hxDedup (keys : List Nat) (last state : Nat) : Nat × Nat × Nat :=
  let prevs := (last, bit state 0) :: keys.map fun k => (k, true)
  let l := keys.zip prevs
  let mask := (l.zipIdx.filter fun x => !x.1.2.2 || x.1.1 != x.1.2.1).foldl (fun m x => m + 2 ^ x.2) 0
  let err := l.any fun x => x.2.2 && decide (x.1 < x.2.1)
  match keys.getLast? with
  | none => (mask, last, state)
  | some k => (mask, k, 1 + 2 * flag (bit state 1 || err))

/-- hx.dedup (R281, R286). -/
def State.runDedup (s : State) (crew hand pc : Nat) (h : Hand) (vd vs2 : Nat) : State :=
  if h.vill || h.sew ≠ 64 || !([1, 2, 4, 8].contains h.lmul) || vs2 % h.lmul ≠ 0 || (vs2 ≤ vd && vd < vs2 + h.lmul) then
    s.crewFault crew hand 1 pc 0
  else
    let (mask, last, st) := hxDedup (items h.vl (h.velem vs2)) h.dedupLast h.dedupState
    s.modHand crew hand fun h => { h with v := h.v.set (vd % 32) (mask % 2 ^ 256), dedupLast := last, dedupState := st }

/-- HX_DEDUP. -/
def execHxDedup (crew hand pc vd vs2 : Nat) (s : State) : Out :=
  s.onHand crew hand pc 4 fun _ _ h s => s.runDedup crew hand pc h vd vs2

/-! ### hx.dwq and the walker (R283, R284) -/

/-- hx.dwq (R283): a directory walk joins the crew's queue of 256. -/
def State.runDwq (s : State) (crew hand pc : Nat) (h : Hand) (rd rs1 rs2 : Nat) : State :=
  let w := h.reg rs2
  let at_ := h.walkBase + 16 * bits w 16 16
  if bits w 12 4 ≠ 0 || bits w 32 32 ≠ 0 then s.crewFault crew hand 1 pc 0
  else if 0xF000 < at_ + 16 then s.crewFault crew hand 4 pc at_
  else if 256 ≤ (s.dp.walks.filter fun x => x.crew == crew).length then s.modHand crew hand fun h => h.setReg rd 1
  else
    let s : State := { s with dp.walks := s.dp.walks ++ [⟨crew, hand, bits w 0 12, h.reg rs1, at_⟩] }
    s.modHand crew hand fun h => h.setReg rd 0

/-- HX_DWQ. -/
def execHxDwq (crew hand pc rd rs1 rs2 : Nat) (s : State) : Out :=
  s.onHand crew hand pc 4 fun _ _ h s => s.runDwq crew hand pc h rd rs1 rs2

/-- A walk record (R284). -/
def walkRecord (entry kind owner off : Nat) : List Byte :=
  leBytes 8 entry ++ leBytes 1 kind ++ leBytes 1 1 ++ leBytes 2 owner ++ leBytes 4 off

/-- The record of a walk's resolution. -/
def State.walkResult (s : State) (b die gen : Nat) (t : Tab) (idx : Option Nat) : List Byte :=
  let word := (idx.bind fun i => (s.entry b t i).map Entry.word).getD 0
  match s.resolve (s.refused b) b die gen t t.map idx with
  | .default =>
    let read := idx.any fun i => s.walksHere b t i
    walkRecord (if read then word else 0) 1 0 0
  | .aliasTo => walkRecord word 2 0 0
  | .forward n => walkRecord (if idx.any fun i => s.walksHere b t i then word else 0) 3 n 0
  | .noOwner => walkRecord 0 3 (((idx.bind fun i => (candidates t.map i).head?).map MapEntry.owner).getD 0) 0
  | .copy _ off _ => walkRecord word 4 0 off
  | .place .. => walkRecord word 0 0 0
  | .unreadable => walkRecord 0 6 0 0

/-- The table a walk names: as bound at the job's doorbell, or as it stands for a job without a sheaf. -/
def State.walkTable (s : State) (b : Nat) (j : Job) (id : Nat) : Option Tab :=
  match s.sheaf j.sheaf with
  | some x => findKey Tab.id x.bound id
  | none => s.table b id

/-- WALK_COMPLETE (R284): the `k`-th walk in flight of a crew completes, once the read of its entry may be made (R64, R314). -/
def execWalkComplete (crew k : Nat) (s : State) : Out :=
  if 31 < crew then .fault .noSuchUnit
  else .next <| match (s.dp.walks.filter fun w => w.crew == crew)[k]?, s.jobOf crew, s.crewBay crew with
  | some w, some j, some b => s.inBudget b true <|
    let die := crew / 16
    let s : State := { s with dp.walks := s.dp.walks.erase w }
    let gen := match s.sheaf j.sheaf with
      | some x => natAt x.gens die
      | none => (s.hotDie b die).gen
    let (rec_, s) := match s.walkTable b j w.table with
      | none => (walkRecord 0 5 0 0, s.count (0x500 + die) 6 1)
      | some t =>
        let idx := if t.desc.indexSigned && bit w.index 63 then none else some w.index
        (s.walkResult b die gen t idx, s.walkCharge b die t idx)
    let s := State.write s .scratch crew 0 (65536 * w.hand + w.at_) rec_
    s.modHand crew w.hand fun h => { h with walkDone := h.walkDone + 1 }
  | _, _, _ => s

/-! ### hx.swe (R285) -/

/-- hx.swe (R285, R303): one swath entry into a context of the job. -/
def State.runSwe (s : State) (crew hand pc : Nat) (j : Job) (h : Hand) (rd rs1 rs2 : Nat) : State :=
  let a := h.reg rs1
  let n := h.reg rs2
  if a % 32 ≠ 0 then s.crewFault crew hand 5 pc a
  else if 0xF000 < a + 32 then s.crewFault crew hand 3 pc a
  else if !j.contexts.contains n then s.crewFault crew hand 4 pc a
  else if (s.context n).any fun x => decide (64 ≤ x.waiting.length) then s.modHand crew hand fun h => h.setReg rd 1
  else
    let e := s.read .scratch crew 0 (65536 * hand + a) 32
    let (q, s) := State.takeSeq s
    let s := s.modCtx n fun x =>
      { (x.setQueue e) with
        waiting := x.waiting ++ [⟨e, [], none, 0, q⟩]
        waitSince := if x.waiting.isEmpty then s.dev.now else x.waitSince }
    s.modHand crew hand fun h => h.setReg rd 0

/-- HX_SWE. -/
def execHxSwe (crew hand pc rd rs1 rs2 : Nat) (s : State) : Out :=
  s.onHand crew hand pc 4 fun _ j h s => s.runSwe crew hand pc j h rd rs1 rs2

/-! ### ECALL (R279) -/

/-- A service called: its number is in a7 (x17). -/
def State.onEcall (s : State) (crew hand pc service : Nat) (f : Nat → Job → Hand → State → State) : Out :=
  s.onHand crew hand pc 4 fun b j h s => if h.reg 17 = service then f b j h s else s

/-- EXIT: success ends the hand's part; any other value is a fault of cause 6. -/
def State.runExit (s : State) (crew hand pc : Nat) (h : Hand) : State :=
  if h.reg 10 ≠ 0 then s.crewFault crew hand 6 pc 0 else s.modHand crew hand fun h => { h with exited := true }

/-- ECALL_EXIT. -/
def execEcallExit (crew hand pc : Nat) (s : State) : Out := s.onEcall crew hand pc 0 fun _ _ h s => s.runExit crew hand pc h

/-- Hands that wait at a barrier which every hand has reached `n` times go on. -/
def Job.release (j : Job) (n : Nat) : Job :=
  if j.hands.all fun y => decide (n ≤ y.barriers) then
    { j with hands := j.hands.map fun y => if y.barriers = n then { y with waitingBarrier := false } else y }
  else j

/-- BARRIER: the hand waits until every hand has called it as often. -/
def State.runBarrier (s : State) (crew hand : Nat) (h : Hand) : State :=
  let n := h.barriers + 1
  (s.modHand crew hand fun h => { h with barriers := n, waitingBarrier := true }).modJobOf crew fun j => j.release n

/-- ECALL_BARRIER. -/
def execEcallBarrier (crew hand pc : Nat) (s : State) : Out := s.onEcall crew hand pc 1 fun _ _ h s => s.runBarrier crew hand h

/-- SECTION_DONE: positions of the section that no entry covers contribute as chaffed rows from now on (R280). -/
def State.runSectionDone (s : State) (crew : Nat) (j : Job) (h : Hand) : State :=
  let k := h.reg 10
  let s := s.modJobOf crew fun j => { j with sectionsDone := j.sectionsDone ++ [k] }
  if j.role = 1 then s.modSection j.sheaf k fun g => { g with done := true } else s

/-- ECALL_SECTION_DONE. -/
def execEcallSectionDone (crew hand pc : Nat) (s : State) : Out := s.onEcall crew hand pc 2 fun _ j h s => s.runSectionDone crew j h

/-- LOG: HAND_LOG at most once a millisecond per hand, whatever its job; further calls are counted and dropped. -/
def State.runLog (s : State) (b crew hand : Nat) (h : Hand) : State :=
  let (last, dropped) := (((s.dp.crews[crew]?).map Crew.logs).getD []).getD hand (none, 0)
  let put := fun (s : State) (x : Option Nat × Nat) => s.modCrew crew fun c => { c with logs := c.logs.set hand x }
  if last.any fun t => decide (s.dev.now < t + 1000000) then put s (last, dropped + 1)
  else
    let a := fun (r : Nat) => zeros 4 ++ leBytes 8 (h.reg r)
    (put s (some s.dev.now, dropped)).raiseMore
      ⟨0x0409, 0, some b, some (crew / 16), leBytes 1 (16 * (crew % 16) + hand) ++ zeros 3 ++ leBytes 8 (h.reg 10)⟩ [a 11, a 12]

/-- ECALL_LOG. -/
def execEcallLog (crew hand pc : Nat) (s : State) : Out := s.onEcall crew hand pc 3 fun b _ h s => s.runLog b crew hand h

/-! ### HAND_INSTRUCTION (R267, R268, R270, R272, R281, R297) -/

/-- A custom instruction. -/
inductive CustomOp where
  | hash (rd rs1 imm : Nat)
  | dwq (rd rs1 rs2 : Nat)
  | swe (rd rs1 rs2 : Nat)
  | dedup (vd vs2 : Nat)
deriving DecidableEq, Repr

/-- The custom instruction that a word encodes (R281). -/
def decodeCustom (w : Nat) : Option CustomOp :=
  let rd := bits w 7 5
  let rs1 := bits w 15 5
  let rs2 := bits w 20 5
  let f7 := bits w 25 7
  match bits w 0 7, bits w 12 3 with
  | 0x0B, 0 => if bits w 28 4 = 0 then some (.hash rd rs1 (bits w 20 12)) else none
  | 0x0B, 1 => if f7 = 0 then some (.dwq rd rs1 rs2) else none
  | 0x0B, 2 => if f7 = 0 then some (.swe rd rs1 rs2) else none
  | 0x2B, 0 => if f7 = 0 && rs1 = 0 then some (.dedup rd rs2) else none
  | _, _ => none

def State.runCustom (s : State) (crew hand pc : Nat) (j : Job) (h : Hand) (w : Nat) : State :=
  match decodeCustom w with
  | none => s.crewFault crew hand 1 pc 0
  | some (.hash rd rs1 imm) => s.runHash crew hand pc h rd rs1 imm
  | some (.dwq rd rs1 rs2) => s.runDwq crew hand pc h rd rs1 rs2
  | some (.swe rd rs1 rs2) => s.runSwe crew hand pc j h rd rs1 rs2
  | some (.dedup vd vs2) => s.runDedup crew hand pc h vd vs2

/-- An ECALL: a service that there is not is a fault of cause 6 (R279). -/
def State.runEcall (s : State) (b crew hand pc : Nat) (j : Job) (h : Hand) : State :=
  match h.reg 17 with
  | 0 => s.runExit crew hand pc h
  | 1 => s.runBarrier crew hand h
  | 2 => s.runSectionDone crew j h
  | 3 => s.runLog b crew hand h
  | _ => s.crewFault crew hand 6 pc 0

/-- Single-bit errors of scratch and crew store corrected on the way of an instruction (R297). -/
def State.storeCorrected (s : State) (die n : Nat) : State :=
  { s with dp.corrected := addAt s.dp.corrected (4 * die + 1) n }.count (0x500 + die) 3 n

/-- The same of the crib (R318). -/
def State.cribCorrected (s : State) (die n : Nat) : State :=
  { s with dp.corrected := addAt s.dp.corrected (4 * die + 2) n }.count (0x500 + die) 4 n

/-- A rounding-mode field that the profile allows (R268). -/
def rmOk (rm : Nat) : Bool := rm == 0 || rm == 7

/-- One instruction of the profile. -/
def State.runInstr (s : State) (b crew hand pc len : Nat) (j : Job) (h : Hand) (bad : List Nat) (op : HandOp) : State :=
  let role := j.role
  let load := fun (dst : HandDst) (w a : Nat) => (s.handLoad b role crew hand pc dst w a bad).2
  let vload := fun (vd regs eew : Nat) (a : Nat → Nat) (l : List (Nat × Nat)) => State.vloadRun b role crew hand pc vd regs eew bad a l s
  let vstore := fun (vs regs eew : Nat) (a : Nat → Nat) (l : List (Nat × Nat)) => State.vstoreRun b crew hand pc vs regs eew h a l s
  let from_ := fun (n : Nat) => ((List.range n).filter fun i => decide (h.vstart ≤ i)).map fun i => (i, 0)
  let illegal := s.crewFault crew hand 1 pc 0
  let onlyIf := fun (ok : Bool) (t : State) => if ok then t else illegal
  let set := fun (f : Hand → Hand) => s.modHand crew hand f
  let setF := fun (fd v : Nat) => s.modHand crew hand fun h => { h with f := h.f.set (fd % 32) (v % 2 ^ 32) }
  let fr := fun (r : Nat) => natAt h.f (r % 32)
  let addr := fun (rs1 imm : Nat) => (h.reg rs1 + imm) % 2 ^ 64
  match op with
  | .load rd w sgn rs1 imm => onlyIf ([1, 2, 4, 8].contains w) (load (.int rd sgn) w (addr rs1 imm))
  | .store w rs1 imm rs2 => onlyIf ([1, 2, 4, 8].contains w) (s.handStore b crew hand pc w (addr rs1 imm) (h.reg rs2)).2
  | .floatLoad fd rs1 imm => load (.float fd) 4 (addr rs1 imm)
  | .floatStore rs1 imm fs => (s.handStore b crew hand pc 4 (addr rs1 imm) (fr fs)).2
  | .loadReserved rd w rs1 => onlyIf (w == 4 || w == 8) (s.handReserve b role crew hand pc rd w (h.reg rs1) bad)
  | .storeConditional rd w rs1 rs2 => onlyIf (w == 4 || w == 8) (s.handConditional b crew hand pc rd w (h.reg rs1) (h.reg rs2))
  | .atomic o rd w rs1 rs2 => onlyIf (w == 4 || w == 8) (s.handAtomic b crew hand pc o rd w (h.reg rs1) (h.reg rs2) bad)
  | .csr o n rd src imm => s.handCsr b crew hand pc h o n rd src imm
  | .int o word rd rs1 rs2 => onlyIf (!word || hasWord o) (set fun h => h.setReg rd (intOp o word (h.reg rs1) (h.reg rs2)))
  | .intImm o word rd rs1 imm => onlyIf (hasImm o && (!word || hasWord o)) (set fun h => h.setReg rd (intOp o word (h.reg rs1) imm))
  | .upper rd imm pcRel => set fun h => h.setReg rd ((if pcRel then pc else 0) + imm)
  | .jump rd => set fun h => h.setReg rd (pc + len)
  | .nothing => s
  | .float o rm fd a b c => onlyIf (!floatRounds o || rmOk rm) (setF fd (floatOp o (fr a) (fr b) (fr c)))
  | .floatInt o rm rd a b => onlyIf (!floatIntRounds o || rmOk rm) (set fun h => h.setReg rd (floatIntOp o (fr a) (fr b)))
  | .intFloat rm fd rs1 w sgn => onlyIf (rmOk rm && (w == 32 || w == 64)) (setF fd (intToFloat w sgn (h.reg rs1)))
  | .mvFloat fd rs1 => setF fd (h.reg rs1)
  | .vset rd rs1 length vtype rs2 =>
    let avl := length.getD (if rs1 % 32 ≠ 0 then h.reg rs1 else if rd % 32 ≠ 0 then 2 ^ 64 - 1 else h.vl)
    set fun h => h.setVtype rd avl (vtype.getD (h.reg rs2))
  | .vload vd eew rs1 mode fields masked =>
    onlyIf (h.groupOk eew vd fields && h.modeOk eew vd fields true mode && !(masked && vd % 32 == 0))
      (vload vd (groupRegs (h.eighths eew)) eew (h.elemAddr eew fields rs1 mode) (h.fieldsOf fields (h.active masked)))
  | .vloadFirst vd eew rs1 fields masked =>
    onlyIf (h.groupOk eew vd fields && !(masked && vd % 32 == 0))
      (s.vloadFirst b role crew hand pc vd eew fields bad h (h.elemAddr eew fields rs1 .unit) masked)
  | .vstore vs eew rs1 mode fields masked =>
    onlyIf (h.groupOk eew vs fields && h.modeOk eew vs fields false mode)
      (vstore vs (groupRegs (h.eighths eew)) eew (h.elemAddr eew fields rs1 mode) (h.fieldsOf fields (h.active masked)))
  | .vloadMask vd rs1 => onlyIf (!h.vill) (vload vd 1 8 (h.elemAddr 8 1 rs1 .unit) (from_ ((h.vl + 7) / 8)))
  | .vstoreMask vs rs1 => onlyIf (!h.vill) (vstore vs 1 8 (h.elemAddr 8 1 rs1 .unit) (from_ ((h.vl + 7) / 8)))
  | .vloadWhole n vd eew rs1 => onlyIf ([1, 2, 4, 8].contains n && [8, 16, 32, 64].contains eew && vd % n == 0)
      (vload vd 1 eew (h.elemAddr eew 1 rs1 .unit) (from_ (256 * n / eew)))
  | .vstoreWhole n vs rs1 => onlyIf ([1, 2, 4, 8].contains n && vs % n == 0) (vstore vs 1 8 (h.elemAddr 8 1 rs1 .unit) (from_ (32 * n)))
  | .vector o => match h.runVector o with
    | some h' => set fun y => { h' with pc := y.pc }
    | none => illegal
  | .custom w => s.runCustom crew hand pc j h w
  | .ecall => s.runEcall b crew hand pc j h
  | .ebreak => s.crewFault crew hand 7 pc 0
  | .illegal => illegal

/-- HAND_INSTRUCTION: one instruction of a hand, of `len` bytes, with the single-bit errors corrected on its way. -/
def execHandInstruction (crew hand pc : Nat) (i : Fetched) (s : State) : Out :=
  s.onHand crew hand pc i.len fun b j h s => ((s.storeCorrected (crew / 16) i.fixed).cribCorrected (crew / 16) i.cribFixed).runInstr b crew hand pc i.len j h i.bad i.op

end Sys2Proof.Machine
end

