-- ==== Sys2Proof/Machine/Net.lean ====
section
/-! DEFINITION. Network ports and queue pairs: acknowledgements and retransmission (R484, R489), congestion (R477, R478),
priority flow control (R474 to R476), frame preemption (R479, R482), links and frames (R467 to R472), and the port
commands. -/

namespace Sys2Proof.Machine

/-! ### Acknowledgements of the device's WRITEs (R484) -/

/-- Distance from one packet sequence number to another, modulo 2^24. -/
def psnAhead (a b : Nat) : Nat := (b + 2 ^ 24 - a % 2 ^ 24) % 2 ^ 24

/-- A WRITE of which the first `k` packets are acknowledged: none where that is all of it. -/
def SentWrite.without (w : SentWrite) (mtu k : Nat) : Option SentWrite :=
  if w.packets ≤ k then none
  else some { w with psn := (w.psn + k) % 2 ^ 24, packets := w.packets - k, addr := w.addr + k * mtu, data := w.data.drop (k * mtu) }

/-- The WRITEs left once every packet before `psn` is acknowledged. -/
def afterAck (mtu psn : Nat) (l : List SentWrite) : List SentWrite :=
  l.filterMap fun w => let d := psnAhead w.psn psn
    if d < 2 ^ 23 then w.without mtu d else some w

/-- Every unacknowledged WRITE sent again from the oldest (go-back-N). -/
def State.resend (s : State) (qpn : Nat) : State :=
  match s.qp qpn with
  | none => s
  | some q =>
    let s := s.modQp qpn fun q => { q with sentAt := s.dev.now, retransmitted := satAdd 64 q.retransmitted (sumBy SentWrite.packets q.unacked) }
    q.unacked.foldl (fun s w =>
      let n := s.roceBytes q w.packets w.data.length
      s.sendFrames q.port q.sub w.cls w.packets n (.rdmaWrite q.qpn w.addr w.key w.data) q.bay false (w.cls == 0) none (s.qpVlan q)) s

/-- A queue pair that is in RTS. -/
def State.rts (s : State) (qpn : Nat) : Option Qp := (s.qp qpn).filter fun q => q.error.isNone

/-- RDMA_ACK (R484, R489): kind 0 acknowledges every packet up to `psn`; kind 1 is an RNR NAK and kind 2 a PSN sequence
error, which acknowledge what came before `psn` and have the rest sent again; any other NAK ends the queue pair. -/
def execRdmaAck (qpn kind psn : Nat) (s : State) : Out :=
  .next <| match s.rts qpn with
  | none => s
  | some q =>
    let upTo := if kind = 0 then psn + 1 else psn
    let left := afterAck q.mtu upTo q.unacked
    let s := s.modQp qpn fun q =>
      if left = q.unacked then q else { q with unacked := left, sentAt := s.dev.now, retriesLeft := q.retryMax }
    if kind = 0 then s
    else if kind ≤ 2 then s.resend qpn
    else s.qpError qpn 1

/-- The timeout of a queue pair in ns: 4.096 µs × 2^t (R486). -/
def Qp.timeout (q : Qp) : Nat := 4096 * 2 ^ q.timeoutExp

/-- QP_RETRY_TIMEOUT (R484, R489): the oldest WRITE has waited the timeout; all are sent again, or the retries have run
out. -/
def execQpRetryTimeout (qpn : Nat) (s : State) : Out :=
  .next <| match s.rts qpn with
  | none => s
  | some q =>
    if q.unacked.isEmpty || s.dev.now < q.sentAt + q.timeout then s
    else if q.retriesLeft = 0 then s.qpError qpn 0
    else (s.modQp qpn fun q => { q with retriesLeft := q.retriesLeft - 1 }).resend qpn

/-- QP_ERROR (R489): a queue pair whose session has ended and whose last placement on it has finished: every WRITE has been acknowledged. -/
def execQpError (qpn : Nat) (s : State) : Out :=
  .next <| match s.qp qpn with
  | none => s
  | some q =>
    if (s.session q.session).all (fun x => x.state == .ended) && (s.sessionWork q.session).isEmpty && q.unacked.isEmpty then
      (s.qpError qpn 3).freeQp qpn
    else s

/-- RDMA_READ (R484): a READ is a remote access error; atomics, SEND with Immediate and SEND with Invalidate are invalid
requests. -/
def execRdmaRead (qpn kind : Nat) (s : State) : Out :=
  .next <| match s.rts qpn with
  | none => s
  | some q => if s.linkUp q.port q.sub then s.sendNak q (if kind = 0 then .remoteAccess else .invalidRequest) else s

/-- RESPONDER_ACK_DEADLINE (R484): the coalesced acknowledgement, 2 µs after the last unacknowledged packet. -/
def execResponderAckDeadline (qpn : Nat) (s : State) : Out :=
  .next <| match s.rts qpn with
  | none => s
  | some q => if 0 < q.rxUnacked && q.rxLast + 2000 ≤ s.dev.now then s.rcAck q (.ack qpn) else s

/-! ### Congestion (R477, R478) -/

def State.settings (s : State) (port : Nat) : PortSettings := ((s.net.ports[port]?).map Port.settings).getD PortSettings.initial

/-- CNP_RECEIVE (R478): the rate is halved, at most once per interval and not below the floor. -/
def execCnpReceive (qpn : Nat) (s : State) : Out :=
  .next <| match s.rts qpn with
  | none => s
  | some q =>
    let p := s.settings q.port
    let cut := q.cutAt.all fun t => decide (t + 1000 * p.intervalUs ≤ s.dev.now)
    s.modQp qpn fun q =>
      { q with
        cnps := satAdd 64 q.cnps 1
        quietSince := s.dev.now
        rateKb := if cut then max (min q.rateKb (1000 * p.floorMb)) (q.rateKb / 2) else q.rateKb
        cutAt := if cut then some s.dev.now else q.cutAt }

/-- RATE_INCREASE (R478): an interval without a CNP raises the rate by a step of line rate, up to line rate. -/
def execRateIncrease (qpn : Nat) (s : State) : Out :=
  .next <| match s.rts qpn with
  | none => s
  | some q =>
    let p := s.settings q.port
    let line := modeRateKb p.mode
    if s.dev.now < q.quietSince + 1000 * p.intervalUs then s
    else s.modQp qpn fun q => { q with quietSince := s.dev.now, rateKb := min line (q.rateKb + line / p.stepDen) }

/-- CE_MARKED_PACKET (R477; every IP packet leaves with ECT(0), see `State.framed`): one CNP per queue pair per 50 µs, in the urgent
class, charged to the bay (R496). -/
def execCeMarkedPacket (qpn : Nat) (s : State) : Out :=
  .next <| match s.rts qpn with
  | none => s
  | some q =>
    if s.linkUp q.port q.sub && q.cnpAt.all fun t => decide (t + 50000 ≤ s.dev.now) then
      let n := udpFrame q.clientIp.v6 (12 + 16 + 4) + tagBytes (s.qpVlan q)
      let s := (s.modQp qpn fun q => { q with cnpAt := some s.dev.now }).count (0x300 + q.port) (16 * q.sub + 10) 1
      s.sendFrames q.port q.sub 0 1 n (.cnp qpn) q.bay (vlan := s.qpVlan q)
    else s

/-! ### Priority flow control (R474 to R476) -/

def State.prio (s : State) (port sub prio : Nat) : Option PrioState := (s.subPort port sub).bind fun x => x.prios[prio]?

def State.modPrio (s : State) (port sub prio : Nat) (f : PrioState → PrioState) : State :=
  s.modSub port sub fun x => { x with prios := x.prios.modify prio f }

/-- One of the counts of NET_PORT_QUERY: corrected and uncorrectable codewords, FCS errors, discarded frames, PFC frames
sent; and the performance counter of the same (R660). -/
def State.countSub (s : State) (port sub i k : Nat) : State :=
  (s.modSub port sub fun x => { x with counters := x.counters.modify i fun n => satAdd 64 n k }).count (0x300 + port) (16 * sub + 4 + i) k

/-- A PFC frame sent for a priority. -/
def State.sendPfc (s : State) (port sub prio quanta : Nat) : State :=
  (s.countSub port sub 4 1).emit (.pfc port sub prio quanta)

/-- A paused priority may start frames again: the sub-port goes on with what waits (R476). -/
def State.resumePrio (s : State) (port sub prio : Nat) : State :=
  (s.modPrio port sub prio fun p => { p with pausedSince := none, stormAt := none }).egress port sub

def State.pfcOn (s : State) (port prio : Nat) : Bool := bit (s.settings port).pfcMask prio

/-- Whether a sub-port can see a frame now: it is one of the mode's, its link is up and its port is powered. -/
def State.alive (s : State) (port sub : Nat) : Bool :=
  decide (sub < modeSubs (s.portMode port)) && s.linkUp port sub && s.domainA0 (46 + port)

/-- Whether the device has a port and sub-port of these numbers (R467). -/
def hasSub (port sub : Nat) : Bool := decide (port < 8) && decide (sub < 4)

/-- PFC_FRAME (R476): a priority with PFC is paused for 512 bit times per quantum, or resumed by quanta of 0. -/
def execPfcFrame (port sub prio quanta : Nat) (s : State) : Out :=
  if !hasSub port sub || 8 ≤ prio then .fault .noSuchUnit
  else .next <|
    if !s.alive port sub then s
    else
      let s := s.count (0x300 + port) (16 * sub + 9) 1
      if !s.pfcOn port prio then s
      else if quanta = 0 then s.resumePrio port sub prio
      else
        let t := (quanta % 65536) * 512 * 1000000 / modeRateKb (s.portMode port)
        s.modPrio port sub prio fun p =>
          { p with pausedSince := some (p.pausedSince.getD s.dev.now), pausedUntil := s.dev.now + t }

/-- PFC_PAUSE_EXPIRY (R476). -/
def execPfcPauseExpiry (port sub prio : Nat) (s : State) : Out :=
  if !hasSub port sub || 8 ≤ prio then .fault .noSuchUnit
  else .next <| if (s.prio port sub prio).any fun p => p.pausedSince.isSome && decide (p.pausedUntil ≤ s.dev.now) then
      s.resumePrio port sub prio
    else s

/-- NET_PFC_STORM (R476): a priority has been paused for 100 ms, or 10 s have passed since the event was last raised. -/
def execNetPfcStorm (port sub prio : Nat) (s : State) : Out :=
  if !hasSub port sub || 8 ≤ prio then .fault .noSuchUnit
  else .next <| match s.prio port sub prio with
  | none => s
  | some p => match p.pausedSince with
    | none => s
    | some t =>
      if s.dev.now < p.pausedUntil && t + 100000000 ≤ s.dev.now && p.stormAt.all fun u => decide (u + 10000000000 ≤ s.dev.now) then
        (s.modPrio port sub prio fun p => { p with stormAt := some s.dev.now }).raise 0x0703 1 none (some (port / 4))
          (leBytes 1 port ++ leBytes 1 sub ++ leBytes 1 prio ++ zeros 1 ++ leBytes 4 ((s.dev.now - t) / 1000000))
      else s

/-- PFC_XOFF (R474): the ingress occupancy of a priority is `occupancy` bytes; reaching XOFF pauses the sender, falling
below XON resumes it. -/
def execPfcXoff (port sub prio occupancy : Nat) (s : State) : Out :=
  if !hasSub port sub || 8 ≤ prio then .fault .noSuchUnit
  else .next <|
    if !s.alive port sub then s
    else
      let paused := (s.prio port sub prio).any fun p => p.xoffAt.isSome
      let s := s.modPrio port sub prio fun p => { p with occupancy := occupancy }
      if s.pfcOn port prio && !paused && decide ((s.settings port).xoff ≤ occupancy) then
        (s.modPrio port sub prio fun p => { p with xoffAt := some s.dev.now }).sendPfc port sub prio 0xFFFF
      else if paused && decide (occupancy < (s.settings port).xon) then
        (s.modPrio port sub prio fun p => { p with xoffAt := none }).sendPfc port sub prio 0
      else s

/-- PFC_REPEAT (R474): every 20 µs while the occupancy stays at or above XON. -/
def execPfcRepeat (port sub prio : Nat) (s : State) : Out :=
  if !hasSub port sub || 8 ≤ prio then .fault .noSuchUnit
  else .next <|
    if s.alive port sub && (s.prio port sub prio).any fun p =>
        decide ((s.settings port).xon ≤ p.occupancy) && p.xoffAt.any fun t => decide (t + 20000 ≤ s.dev.now) then
      (s.modPrio port sub prio fun p => { p with xoffAt := some s.dev.now }).sendPfc port sub prio 0xFFFF
    else s

/-! ### Preemption (R479, R482) -/

/-- Verification begins on a sub-port whose link is up (R479). -/
def State.startVerify (s : State) (port sub : Nat) : State :=
  if s.linkUp port sub && (s.settings port).preempt = 1 then
    (s.modSub port sub fun x => { x with verify := .verifying 1, verifyAt := s.dev.now }).emit (.preemptVerify port sub 0)
  else s.modSub port sub fun x => { x with verify := .off }

/-- PREEMPT_VERIFY (R479, R482): the partner's response, with the addFragSize it advertises, makes preemption active; 10 ms
without one is an attempt gone, and the third failure leaves it inactive. -/
def execPreemptVerify (port sub answered fragSize : Nat) (s : State) : Out :=
  if !hasSub port sub then .fault .noSuchUnit
  else .next <| match s.subPort port sub with
  | none => s
  | some x => match x.verify with
    | .verifying n =>
      if !x.link then s
      else if 0 < answered then s.modSub port sub fun x => { x with verify := .active, fragSize := fragSize % 4 }
      else if s.dev.now < x.verifyAt + 10000000 then s
      else if n < 3 then
        (s.modSub port sub fun x => { x with verify := .verifying (n + 1), verifyAt := s.dev.now }).emit (.preemptVerify port sub 0)
      else (s.modSub port sub fun x => { x with verify := .failed }).raise 0x0704 1 none (some (port / 4)) (leBytes 1 port ++ leBytes 1 sub)
    | _ => s

/-! ### Links (R468, R472) -/

/-- A sub-port's link comes up or goes down (R472). -/
def State.setLink (s : State) (port sub : Nat) (up : Bool) : State :=
  let s := s.modSub port sub fun x => { x with link := up, verify := .off, fragment := none }
  let s : State := { s with lan.energyAt := s.lan.energyAt.modify port fun t => if up then t.map fun _ => s.dev.now else t }
  if up then
    let s := s.raise 0x0701 1 none (some (port / 4)) (leBytes 1 port ++ leBytes 1 sub ++ leBytes 1 (s.portMode port))
    ((List.range 8).foldl (fun s k => s.modPrio port sub k fun p => { p with pausedSince := none, stormAt := none })
      (s.startVerify port sub)).egress port sub
  else (s.abortMargins 3 port sub).raise 0x0702 1 none (some (port / 4)) (leBytes 1 port ++ leBytes 1 sub)

/-- NET_LINK_CHANGE (R468, R472, R679): a port whose cage holds its module in low power brings no link up. -/
def execNetLinkChange (port sub : Nat) (up : Bool) (s : State) : Out :=
  if !hasSub port sub then .fault .noSuchUnit
  else .next <|
    if modeSubs (s.portMode port) ≤ sub || s.linkUp port sub == up then s
    else if up && (s.dev.phase != .running || (s.net.ports[port]?).any fun p => p.cage == 2) then s
    else
      let fitted := fun (p : Port) => (if up && p.cage = 0 then { p with cage := 1 } else p)
      State.setLink { s with net.ports := s.net.ports.modify port fitted } port sub up

/-! ### Frames of other protocols (R467, R470, R471, R473) -/

/-- Shared ingress bytes of a port (R474, R475). -/
def sharedBytes (mode mask : Nat) : Nat := 4194304 - 262144 * ((List.range 8).filter fun k => bit mask k).length * modeSubs mode

/-- Whether the shared buffer of a port is full. -/
def State.sharedFull (s : State) (port : Nat) : Bool :=
  let p := s.settings port
  let used := sumBy (fun (x : SubPort) => sumBy PrioState.occupancy x.prios) (((s.net.ports[port]?).map Port.subs).getD [])
  decide (sharedBytes p.mode p.pfcMask ≤ used)

/-- The MAC address of a sub-port (R685). -/
def State.macOf (s : State) (port sub : Nat) : Nat := (s.ident.macBase + 4 * port + sub) % 2 ^ 48

/-- The link-local address formed from it (R718): modified EUI-64, the universal bit inverted. -/
def State.linkLocal (s : State) (port sub : Nat) : NetAddr :=
  let m := s.macOf port sub
  let hi := m / 2 ^ 24
  ⟨true, 0xFE80 * 2 ^ 112 + ((hi ^^^ 0x020000) * 2 ^ 40 + 0xFFFE * 2 ^ 24 + m % 2 ^ 24)⟩

/-- The addresses a sub-port answers on: its link-local address while no IPv6 address is assigned to it (R486, R718). -/
def State.answersOn (s : State) (port sub : Nat) : List NetAddr :=
  let l := ((s.subPort port sub).map SubPort.addrs).getD []
  l.map PortAddr.addr ++ (if l.any fun a => a.addr.v6 then [] else [s.linkLocal port sub])

def State.discardFrame (s : State) (port sub : Nat) : State := s.countSub port sub 3 1

/-- Whether a port's transport engine is powered. -/
def State.portOn (s : State) (port : Nat) : Bool := s.domainA0 (46 + port)

/-- The priority of a received frame (R473): the PCP of its tag, or what the port's map gives for its DSCP. -/
def State.rxPrio (s : State) (port tags mark : Nat) : Nat := if tags = 0 then natAt (s.settings port).dscpMap mark else mark

/-- The VLAN id of an address of a sub-port. -/
def State.vlanOf (s : State) (port sub : Nat) (a : NetAddr) : Nat :=
  (((s.subPort port sub).bind fun x => x.addrs.find? fun y => y.addr == a).map PortAddr.vlan).getD 0

/-- A whole frame of `bytes` bytes with `tags` VLAN tags, in a priority (R470, R471, R474). The device sends no frame of more than 4,200
bytes (R470): a longer echo is not answered (DESIGN CHOICE, log 193). -/
def State.frameIn (s : State) (port sub bytes tags prio : Nat) (f : RxFrame) : State :=
  let c := (s.count (0x300 + port) (16 * sub) 1).count (0x300 + port) (16 * sub + 2) bytes
  let drop := c.discardFrame port sub
  match f with
  | .badFcs cw => ((if cw then c.countSub port sub 1 1 else c).countSub port sub 2 1).discardFrame port sub
  | _ =>
    if 9216 < bytes || 1 < tags || (!s.pfcOn port prio && s.sharedFull port) then drop
    else match f with
    | .ours => s
    | .badIcrc => drop.countDiscard 3
    | .fragment => drop.countDiscard 4
    | .resolve a =>
      let v := s.vlanOf port sub a
      if (s.answersOn port sub).contains a then
        c.sendFrames port sub 1 1 ((if a.v6 then 90 else 64) + tagBytes v) (.frame port sub (if a.v6 then 1 else 0) (beBytes 6 (s.macOf port sub)))
          (vlan := v)
      else drop
    | .echo a data =>
      if (s.answersOn port sub).contains a && decide (bytes ≤ 4200) then
        c.sendFrames port sub 1 1 bytes (.frame port sub 2 data) (vlan := s.vlanOf port sub a)
      else drop
    | .badFcs _ | .lldp | .other | .firstPart | .nextPart .. => drop

/-- The fragments held of a preemptable frame whose continuation does not follow are discarded, and counted (R481). -/
def State.cutFrame (s : State) (port sub : Nat) : State :=
  if (s.subPort port sub).any fun x => x.fragment.isSome then
    (s.discardFrame port sub).modSub port sub fun x => { x with fragment := none }
  else s

/-- FRAME_RECEIVE (R467, R470, R471, R473, R474, R481): a frame, or a fragment of a preemptable one, of `bytes` bytes with `tags` VLAN
tags, marked with the PCP of its tag or its DSCP. An express frame leaves held fragments as they are; another that is whole, or a new first
fragment, shows that their continuation does not follow. The last fragment makes the frame whole. -/
def execFrameReceive (port sub bytes tags mark corrected : Nat) (f : RxFrame) (s : State) : Out :=
  if !hasSub port sub || 64 ≤ mark || (tags != 0 && decide (8 ≤ mark)) then .fault .noSuchUnit
  else .next <|
    if !s.alive port sub || !s.portOn port then s
    else
      let s := s.countSub port sub 0 corrected
      let prio := s.rxPrio port tags mark
      let held := (s.subPort port sub).bind SubPort.fragment
      match f with
      | .firstPart => (s.cutFrame port sub).modSub port sub fun x => { x with fragment := some bytes }
      | .nextPart inOrder last whole => match held with
        | none => s.discardFrame port sub
        | some n =>
          if !inOrder then s.cutFrame port sub
          else if last then
            State.frameIn ((s.modSub port sub fun x => { x with fragment := none }).count (0x300 + port) (16 * sub + 12) 1)
              port sub (n + bytes) tags prio whole
          else s.modSub port sub fun x => { x with fragment := some (n + bytes) }
      | _ => (if bit (s.settings port).expressMask prio then s else s.cutFrame port sub).frameIn port sub bytes tags prio f

/-! ### NET_PORT_QUERY, NET_PORT_SET, NET_ADDR_SET -/

def verifyCode : Verify → Nat
  | .off => 0 | .verifying _ => 1 | .active => 2 | .failed => 3

/-- The settings in the layout of NET_PORT_SET (R601). -/
def portBytes (port : Nat) (p : PortSettings) : List Byte :=
  leBytes 1 port ++ leBytes 1 p.mode ++ leBytes 1 p.pfcMask ++ leBytes 1 p.expressMask ++ leBytes 1 p.preempt ++
    fit 3 (p.priorities.map fun n => BitVec.ofNat 8 n) ++ fit 3 (p.dscps.map fun n => BitVec.ofNat 8 n) ++ zeros 1 ++
    leBytes 4 p.xoff ++ leBytes 4 p.xon ++ leBytes 4 p.floorMb ++ leBytes 1 p.stepDen ++ zeros 3 ++ leBytes 4 p.intervalUs ++
    leBytes 2 p.vcpPort ++ zeros 2 ++ fit 64 (p.dscpMap.map fun n => BitVec.ofNat 8 n)

/-- The link state of a sub-port: down, up, no module, or its module held in low power (R676). -/
def linkByte (cage : Nat) (x : SubPort) : Nat := if x.link then 1 else if cage = 2 then 3 else if cage = 0 then 2 else 0

def specNetPortQuery : CmdSpec := { op := 0x0A12, d := true, m := true, lens := exactly 8 }

def doNetPortQuery (c : Ctx) (s : State) : Result :=
  let port := u8At c.p 0
  c.fields s [(0, decide (port < 8)), (1, zeroAt c.p 1 7)] <|
    let cage := ((s.net.ports[port]?).map Port.cage).getD 0
    let subs := (((s.net.ports[port]?).map Port.subs).getD []).take (modeSubs (s.portMode port))
    okWith (portBytes port (s.settings port) ++ subs.zipIdx.flatMap fun x =>
      leBytes 1 x.2 ++ leBytes 1 (linkByte cage x.1) ++ leBytes 1 (verifyCode x.1.verify) ++ zeros 5 ++
        (fitNat 5 x.1.counters).flatMap fun n => leBytes 8 n) s
where
  /-- The first `n` numbers of a list. -/
  fitNat (n : Nat) (l : List Nat) : List Nat := items n fun i => natAt l i

def execNetPortQuery (r : Req) (s : State) : Out := runCommand specNetPortQuery doNetPortQuery r s

def specNetPortSet : CmdSpec := { op := 0x0B20, d := true, lens := exactly 100 }

/-- The settings a NET_PORT_SET carries. -/
def settingsOf (p : List Byte) : PortSettings :=
  { mode := u8At p 1, pfcMask := u8At p 2, expressMask := u8At p 3, preempt := u8At p 4, priorities := items 3 fun i => u8At p (5 + i),
    dscps := items 3 fun i => u8At p (8 + i), xoff := u32At p 12, xon := u32At p 16, floorMb := u32At p 20, stepDen := u8At p 24,
    intervalUs := u32At p 28, vcpPort := u16At p 32, dscpMap := items 64 fun i => u8At p (36 + i) }

/-- Headroom of a mode and a PFC mask (R475). -/
def headroom (mode mask : Nat) : Nat := 262144 * ((List.range 8).filter fun k => bit mask k).length * modeSubs mode

/-- The settings applied whole: a change of mode retrains every sub-port (R468), another change of preemption starts or ends
verification, and a priority that loses PFC pauses no longer. -/
def State.setPort (s : State) (port : Nat) (x : PortSettings) : State :=
  let old := s.settings port
  let up := (List.range 4).filter fun i => s.linkUp port i
  let s : State := { s with net.ports := s.net.ports.modify port fun p => { p with settings := x } }
  let s := up.foldl (fun s i => (List.range 8).foldl (fun s k => if s.pfcOn port k then s else
    (s.modPrio port i k fun p => { p with xoffAt := none }).resumePrio port i k) s) s
  if old.mode ≠ x.mode then up.foldl (fun s i => s.setLink port i false) s
  else if old.preempt ≠ x.preempt then up.foldl (fun s i => s.startVerify port i) s
  else s

/-- R467, R473, R474, R475, R478, R479, R497. The answer leaves from the VCP port in force until then. -/
def doNetPortSet (c : Ctx) (s : State) : Result :=
  let p := c.p
  let x := settingsOf p
  let big := decide (3145728 < headroom x.mode x.pfcMask)
  c.fields s ([(0, decide (u8At p 0 < 8)), (1, decide (x.mode ≤ 5)), (4, decide (x.preempt ≤ 1))] ++
    (items 3 fun i => (5 + i, decide (u8At p (5 + i) ≤ 7))) ++ (items 3 fun i => (8 + i, decide (u8At p (8 + i) ≤ 63))) ++
    [(11, zeroAt p 11 1), (12, big || decide (x.xoff ≤ sharedBytes x.mode x.pfcMask)), (16, decide (x.xon < x.xoff)),
     (24, decide (1 ≤ x.stepDen)), (25, zeroAt p 25 3), (32, decide (1024 ≤ x.vcpPort)), (34, zeroAt p 34 2)] ++
    (items 64 fun i => (36 + i, decide (u8At p (36 + i) ≤ 7)))) <|
    refuseIf big .noSpace 0 s <|
      (none, (s.answer c.req ⟨.ok, 0, []⟩).setPort (u8At p 0) x)

def execNetPortSet (r : Req) (s : State) : Out := runCommand specNetPortSet doNetPortSet r s

def specNetAddrSet : CmdSpec := { op := 0x0B21, d := true, lens := counted 8 24 2 1 }

/-- An address item: family, prefix length, VLAN id, address in network order (R601). -/
def addrItem (p : List Byte) (i : Nat) : PortAddr :=
  let o := 8 + 24 * i
  let v6 := u8At p o == 6
  ⟨⟨v6, beNat (slice (o + 8) (if v6 then 16 else 4) p)⟩, u8At p (o + 1), u16At p (o + 2)⟩

/-- Whether an item is a unicast address of its family (R471). -/
def addrItemOk (p : List Byte) (i : Nat) : Bool :=
  let o := 8 + 24 * i
  let a := addrItem p i
  (u8At p o == 4 || u8At p o == 6) && decide (u8At p (o + 1) ≤ (if a.addr.v6 then 128 else 32)) && decide (a.vlan ≤ 4094) &&
    zeroAt p (o + 4) 4 && (a.addr.v6 || zeroAt p (o + 12) 12) && a.addr.bits != 0 &&
    (if a.addr.v6 then a.addr.bits / 2 ^ 120 != 0xFF else decide (a.addr.bits / 2 ^ 28 < 14))

/-- R471: the whole list replaces the sub-port's, at most four addresses of each family, and is kept in boot flash. -/
def doNetAddrSet (c : Ctx) (s : State) : Result :=
  let p := c.p
  let port := u8At p 0
  let sub := u8At p 1
  let n := u8At p 2
  let l := items n (addrItem p)
  c.fields s [(0, decide (port < 8)), (1, decide (sub < modeSubs (s.portMode port))), (2, decide (n ≤ 8)), (3, zeroAt p 3 5)] <|
    let room := fun i => decide (((l.take (i + 1)).filter fun a => a.addr.v6 == (addrItem p i).addr.v6).length ≤ 4)
    match (List.range n).find? fun i => !(addrItemOk p i && room i) with
    | some i => fail .range (itemDetail i) s
    | none =>
      let s := s.modSub port sub fun x => { x with addrs := l }
      okWith [] { s with flash.addrs := (s.flash.addrs.filter fun a => !(a.1 == port && a.2.1 == sub)) ++ [(port, sub, l)] }

def execNetAddrSet (r : Req) (s : State) : Out := runCommand specNetAddrSet doNetAddrSet r s

end Sys2Proof.Machine
end

