-- ==== Sys2Proof/Machine/Operands.lean ====
section
/-! DEFINITION. The operands of a fold and the fold itself: what a position contributes (R207), one step of each pooling mode
(R208, R209, R211, R212), partials and their combination (R218), and the output stage's value of a column (R210, R214, R247,
R248). -/

namespace Sys2Proof.Machine

/-- What one bag position contributes: FP32 values, stored integers (INT48 domain), whether it is chaffed (R207). -/
structure Contr where
  vals : List Nat
  ints : List Int
  chaffed : Bool
deriving DecidableEq, Repr

/-- A stored row of a tier as a contribution (R103, R114). -/
def Tab.contr (t : Tab) (tier : Nat) (row : List Byte) : Contr :=
  let p := t.point tier
  ⟨decodeRow p t.desc.dim row,
   if t.int48 then items t.desc.dim fun c => signedOf (fmtBits p.policy.format) (elemAt p.policy.format row c) else [], false⟩

/-- A row of zeros: +0.0, or the zero point in INT48 (R116, R174, R207). -/
def Tab.zeroContr (t : Tab) (chaffed : Bool) : Contr :=
  ⟨List.replicate t.desc.dim 0, if t.int48 then items t.desc.dim (zpAt (t.point 0).scales) else [], chaffed⟩

/-- Whether a column of a table accumulates in INT48 (R114). -/
def Tab.intCol (t : Tab) (c : Nat) : Bool := t.int48 && !((t.point 0).splits.contains c)

/-- The position number of a lane into which nothing has been folded. -/
def noPos : Nat := 2 ^ 24

/-- A lane as allotment initialises it (R241). -/
def Lane.initial : Lane := ⟨f32NegZero, f32NegZero, 0, 0, noPos⟩

/-- An integer that orders non-NaN values with −0.0 below +0.0 (R212). -/
def rank32 (x : Nat) : Int := if isNeg32 x then -((x % 2 ^ 31 : Nat) : Int) - 1 else (x % 2 ^ 31 : Nat)

/-- One step of R208, or of R209 with compensation. -/
def foldSum (comp : Bool) (l : Lane) (w x : Nat) : Lane :=
  let a := (val32 w).mul (val32 x)
  let sum := (val32 l.s).add a
  let t := round32 sum
  if comp then
    let c := if isFinite32 t then fadd l.c (round32 (sum.add (val32 t).negate)) else l.c
    { l with s := t, c := c }
  else { l with s := t }

/-- One step of R212: mode 3 is max, 4 is min. -/
def foldBest (mode : Nat) (l : Lane) (x idx pos : Nat) : Lane :=
  let x := if isNan32 x then 0x7FC00000 else x
  if l.pos = noPos then { l with s := x, idx := idx, pos := pos }
  else if isNan32 x then l
  else if isNan32 l.s || (if mode = 3 then decide (rank32 l.s < rank32 x) else decide (rank32 x < rank32 l.s)) then
    { l with s := x, idx := idx, pos := pos }
  else l

/-- One position folded into a lane of column `c` (R234): an INT48 lane adds the raw stored integer (R211). -/
def Tab.foldLane (t : Tab) (comp : Bool) (c w : Nat) (x : Contr) (idx pos : Nat) (l : Lane) : Lane :=
  if 3 ≤ t.desc.mode then foldBest t.desc.mode l (natAt x.vals c) idx pos
  else if t.intCol c then { l with acc := (clamp48 (l.acc + x.ints.getD c 0)).1 }
  else foldSum comp l w (natAt x.vals c)

/-- One position folded into the lanes of columns from `lo` on. -/
def Tab.foldLanes (t : Tab) (comp : Bool) (lo w : Nat) (x : Contr) (idx pos : Nat) (ls : List Lane) : List Lane :=
  ls.zipIdx.map fun l => t.foldLane comp (lo + l.2) w x idx pos l.1

/-- The result of R209, or the sum itself. -/
def Lane.sum (comp : Bool) (l : Lane) : Nat :=
  if !comp || !isFinite32 l.s || l.c % 2 ^ 31 = 0 then l.s else fadd l.s l.c

/-! ### Partials (R218) -/

/-- The lanes of a column as a partial's pairs, integers and winners. -/
def Partial.ofLanes (node bag defaulted : Nat) (chaffed : Bool) (ls : List Lane) : Partial :=
  { node := node, bag := bag, defaulted := defaulted, chaffed := chaffed, s := ls.map Lane.s, c := ls.map Lane.c,
    acc := ls.map Lane.acc, win := ls.map fun l => (l.idx, l.pos) }

/-- The lane of column `c` that a partial stands for. -/
def Partial.lane (p : Partial) (c : Nat) : Lane :=
  let w := p.win.getD c (0, noPos)
  ⟨p.s.getD c f32NegZero, p.c.getD c f32NegZero, p.acc.getD c 0, w.1, w.2⟩

/-- A later partial combined into a column: its pair folded as two contributions; integers added; the better winner. -/
def Tab.combine (t : Tab) (comp : Bool) (c : Nat) (a b : Lane) : Lane :=
  if 3 ≤ t.desc.mode then
    if b.pos = noPos then a
    else if a.pos = noPos then b
    else if isNan32 b.s then (if isNan32 a.s && b.pos < a.pos then b else a)
    else if isNan32 a.s then b
    else if (if t.desc.mode = 3 then decide (rank32 a.s < rank32 b.s) else decide (rank32 b.s < rank32 a.s)) ||
        (rank32 a.s == rank32 b.s && decide (b.pos < a.pos)) then b
    else a
  else if t.intCol c then { a with acc := (clamp48 (a.acc + b.acc)).1 }
  else
    let a := foldSum comp a f32One b.s
    if comp then foldSum comp a f32One b.c else a

/-- The owner of a partial: its key, but that further requests to one owner stand under keys of their own. -/
def Partial.owner (p : Partial) : Nat := p.node % 65536

/-- The lanes of a bag from its partials in ascending node number of their owners (R218). -/
def Tab.combineAll (t : Tab) (comp : Bool) (ps : List Partial) : List Lane :=
  match sortBy Partial.owner (sortBy Partial.node ps) with
  | [] => List.replicate t.desc.dim Lane.initial
  | p :: rest => items t.desc.dim fun c => rest.foldl (fun l q => t.combine comp c l (q.lane c)) (p.lane c)

/-! ### The value of a column (R210, R214, R247 steps 1, 2 and 4) -/

/-- INT48 as FP32 (R122): the corrected sum times its scale, divided for a mean. -/
def Tab.intValue (t : Tab) (c : Nat) (acc : Int) (n : Nat) : Nat :=
  let p := t.point 0
  let v := fmul (intTo32 acc) (effScale p.policy.storage p.scales c)
  if t.desc.mode = 1 && 1 < n then round32 ((val32 v).div (valInt n)) else v

/-- The corrected INT48 sum of a bag of `n` positions (R116, R211). -/
def Tab.corrected (t : Tab) (c : Nat) (l : Lane) (n : Nat) : Int := l.acc - n * zpAt (t.point 0).scales c

/-- The value of R214 in a column of an empty bag. -/
def Tab.emptyValue (t : Tab) : Nat :=
  if t.desc.mode < 3 then 0 else if t.desc.emptySet then t.desc.emptyValue else 0xFF800000

/-- The FP32 value of a column before the fused operation; `n` is the bag's length. -/
def Tab.value (t : Tab) (comp : Bool) (c n : Nat) (l : Lane) : Nat :=
  if n = 0 then t.emptyValue
  else if 3 ≤ t.desc.mode then l.s
  else if t.intCol c then t.intValue c (t.corrected c l n) n
  else
    let v := l.sum comp
    if t.desc.mode = 1 then round32 ((val32 v).div (valInt n)) else v

/-- The fused element-wise operation (R248). -/
def fuse (op v u : Nat) : Nat :=
  match op with
  | 1 => fadd v u
  | 2 => fmul v u
  | _ => v

/-- The element of a fused operand row (R252). -/
def fuseElem (fmt : Nat) (row : List Byte) (c : Nat) : Nat :=
  if fmt = 1 then bf16To32 (u16At row (2 * c)) else (let x := u32At row (4 * c); if isNan32 x then 0x7FC00000 else x)

/-- Conversion of a column (R122): the code and whether it saturated. A column that stays in INT48 to an integer output is
rescaled; every other goes through its FP32 value. -/
def Tab.convert (t : Tab) (sc : Scales) (c n : Nat) (l : Lane) (v : Nat) : Nat × Bool :=
  let p := t.point 4
  if t.intCol c && isIntFmt p.policy.format && t.pool.fuseOp = 0 then
    let acc := if n = 0 then 0 else t.corrected c l n
    let (q, sat) := rescale p.policy.format p.policy.symmetric (t.rescaleAt sc c) acc (if t.desc.mode = 1 then n else 1)
    (unsignedOf (fmtBits p.policy.format) q, sat)
  else encodeElem p.policy.format p.policy.storage p.policy.symmetric (t.withExplicitZp sc) [] c v

/-- Conversion of a value held for first-pass discovery (R127, R249). -/
def Tab.convertHeld (t : Tab) (sc : Scales) (c v : Nat) : Nat × Bool :=
  let p := t.point 4
  encodeElem p.policy.format p.policy.storage p.policy.symmetric sc [] c v

/-- Conversion to BF16 with no scale (R138). -/
def convertWide (v : Nat) : Nat × Bool := convertFloat bf16Fmt (val32 v)

end Sys2Proof.Machine
end

