-- ==== Sys2Proof/Machine/Threshers.lean ====
section
/-! DEFINITION. The threshers: what a position reads (R207, R280, R321 to R323), allotment, passes, tiles and draining (R232
to R246, R262 to R266), the output stage (R247 to R249) and the recomputation of a section (R138, R250). -/

namespace Sys2Proof.Machine

/-! ### Power domains (R264, R615) -/

/-- Index of a domain in the order of R615: quads from 34. -/
def quadDomain (thresher : Nat) : Nat := 34 + thresher / 4


def thresherDie (n : Nat) : Nat := n / 16

/-! ### What a position reads -/

/-- What a position presents: nothing yet; nothing to fold here, for its owner pools it (R218); a contribution; or one that
names a released slot, which also counts as a map error (R323). -/
inductive PosRead where
  | wait
  | skip
  | fold (c : Contr)
  | mapError
deriving DecidableEq, Repr

/-- Swath entries of a sheaf that have not been issued. -/
def State.entriesLeft (s : State) (no : Nat) : List (List Byte) :=
  ((s.dp.contexts.filter fun x => x.sheaf == no && x.crew.isSome).flatMap fun x => x.waiting.map Swath.bytes) ++
    s.dp.crews.flatMap fun c => match c.job with
      | some j => if j.sheaf = no then j.backlog.map fun w => w.2.bytes else []
      | none => []

/-- The granules of a row that a bag reads in place in the granary (R319). -/
def State.granaryRow (s : State) (b die : Nat) (r : RowSlot) : List (Option (List Byte)) :=
  items r.granules fun i => s.granuleAt b die 0 (r.addr + i) r.half

/-- The data of a row slot: none while it is not in the crib, or its tier's side tensor is not in the decode store (R327). -/
def State.slotData (s : State) (x : Sheaf) (k : Nat) (g : Section) (r : RowSlot) : Option Contr :=
  if !s.sideThere x.no k g r.tier then none
  else
    let good := (g.sides.filter fun y => y.1 == r.tier).all Prod.snd
    if r.home = 0 then
      let l := s.granaryRow x.bay (x.crew / 16) r
      if l.any Option.isNone || !good then some (g.tab.zeroContr true) else some (g.tab.contr r.tier (granBytes l))
    else match r.data with
      | none => none
      | some d =>
        if r.spilled.isSome then none else if r.chaffed || !good then some (g.tab.zeroContr true) else some (g.tab.contr r.tier d)

/-- What position `i` of a section presents. -/
def State.position (s : State) (x : Sheaf) (k : Nat) (g : Section) (i : Nat) : PosRead :=
  match g.window with
  | none =>
    if g.done && !(s.entriesLeft x.no).any fun e => swKind e == 0 && u16At e 16 == k then .fold (g.tab.zeroContr true) else .wait
  | some m => match m[i]? with
    | none => .fold (g.tab.zeroContr true)
    | some p =>
      let slot := fun (_ : Unit) => match findKey RowSlot.slot g.slots p.slot with
        | some r => if r.released then .mapError else match s.slotData x k g r with
          | some c => .fold c
          | none => .wait
        | none =>
          if g.done && !(s.entriesLeft x.no).any fun e => swKind e == 1 && u16At e 20 == k && u32At e 16 == p.slot && swLen e != 0 then
            .fold (g.tab.zeroContr true)
          else .wait
      match p.kind with
      | 0 => slot ()
      | 1 | 2 => if g.tab.desc.defaultConfigured then slot () else .fold (g.tab.zeroContr false)
      | 3 => .skip
      | 5 => .wait
      | _ => .fold (g.tab.zeroContr true)

/-- The winning index a position would give (R213). -/
def Section.winIndex (g : Section) (i : Nat) : Nat :=
  if ((g.window.bind fun m => m[i]?).map Pos.kind) == some 1 then defaultMark else natAt g.indices i % 2 ^ 40

/-! ### Slots and allotment (R239 to R241) -/

/-- Slices of a row (R233). -/
def slicesOf (d : Nat) : Nat := (d + 127) / 128

/-- Slots a bag of a table takes in its tile (R240). -/
def Tab.slotsNeeded (t : Tab) : Nat :=
  let n := slicesOf t.desc.dim
  if 3 ≤ t.desc.mode then 2 * n
  else if t.int48 then n + (distinct ((t.point 0).splits.map (· / 128))).length
  else n

def Thresher.freeSlots (t : Thresher) (tile : Nat) : List Nat :=
  (List.range 64).filter fun i => !t.bags.any fun b => b.tile == tile && b.slots.contains i

/-- A chain for each slice of a row. -/
def newChains (d : Nat) : List Chain :=
  items (slicesOf d) fun j => ⟨List.replicate (min 128 (d - 128 * j)) Lane.initial, 0, none⟩

/-- Work as it stands when it has been allotted. -/
def newRun (w : Work) (tile : Nat) (slots : List Nat) (chains : List Chain) : BagRun :=
  { work := w, tile := tile, slots := slots, chains := chains, ready := none, drained := 0, broken := none, storeBad := false,
    chaffed := false, clamped := [] }

/-- Whether work is allotted somewhere. -/
def State.allotted (s : State) (w : Work) : Bool := s.dp.threshers.any fun t => t.bags.any fun r => r.work == w

/-- Whether a bag waits for its slots: not out, and its first position's data there; one without positions needs none (R241,
R243). -/
def State.bagWaits (s : State) (x : Sheaf) (k bag : Nat) (g : Section) : Bool :=
  decide (bag < g.bags) && !(g.outs.any fun o => o.bag == bag) && !s.allotted (.bag x.no k bag) &&
    (g.bagLen bag == 0 || s.position x k g (g.bagStart bag) != .wait)

/-- The decode banks of a thresher (R238): a third section waits. -/
def Thresher.bankFor (t : Thresher) (no k : Nat) : Bool :=
  let bound := distinctKeys (t.bags.filterMap fun b => match b.work with
    | .bag n j _ => some (n, j)
    | _ => none)
  bound.contains (no, k) || decide (bound.length < 2)

/-- A bag receives its slots, initialised, in the filling tile of a thresher of its die (R241); one without positions takes none, and
awaits its turn in the drain order (R243). Which free slots it receives is not stated: the lowest-numbered (DESIGN CHOICE, log 194). -/
def State.allotBag (s : State) (thresher no k bag : Nat) : State :=
  match s.sectionAt no k with
  | none => s
  | some (x, g) =>
    let t := s.thresher thresher
    let free := t.freeSlots t.filling
    let need := if g.bagLen bag = 0 then 0 else g.tab.slotsNeeded
    if x.isUpdate || !(x.phase == .running || x.phase == .working) || x.crew / 16 ≠ thresherDie thresher || !s.bagWaits x k bag g ||
        t.matrix.isSome || !s.domainA0 (quadDomain thresher) || free.length < need || !t.bankFor no k then s
    else (s.modThresher thresher fun t =>
      { t with bags := t.bags ++ [newRun (.bag no k bag) t.filling (free.take need) (newChains g.tab.desc.dim)] }).noteReady thresher

/-! ### Passes (R234, R235, R262) -/

/-- Up to `n` ready positions folded into a chain's lanes, in order. -/
def State.passAux (s : State) (x : Sheaf) (k : Nat) (g : Section) (bag slice : Nat) : Nat → List Lane → Nat → Bool → Nat →
  List Lane × Nat × Bool × Nat
  | 0, ls, p, ch, err => (ls, p, ch, err)
  | n + 1, ls, p, ch, err =>
    if g.bagLen bag ≤ p then (ls, p, ch, err)
    else
      let i := g.bagStart bag + p
      let go := fun (c : Contr) (e : Nat) =>
        State.passAux s x k g bag slice n (g.tab.foldLanes g.tab.pool.compensated (128 * slice) (g.weight i) c (g.winIndex i) p ls) (p + 1)
          (ch || c.chaffed) (err + e)
      match s.position x k g i with
      | .wait => (ls, p, ch, err)
      | .skip => State.passAux s x k g bag slice n ls (p + 1) ch err
      | .fold c => go c 0
      | .mapError => go (g.tab.zeroContr true) 1

/-- Errors met by the reads of a pass, or of a bypass unit (R318, R353, R371): of the `n` positions from `lo` on, each with a
granule of its row. Those in `fixed` are corrected; those in `bad` are not: the granary's are handled there, and a row in the crib is
chaffed. -/
def State.rowErrors (s : State) (b die lo n : Nat) (g : Section) (chaff : State → RowSlot → State) (fixed bad : List (Nat × Nat)) : State :=
  let at_ := fun (e : Nat × Nat) => ((g.slotOf (lo + e.1)).filter fun r => decide (e.1 < n) && decide (e.2 < r.granules)).map fun r => (r, e.2)
  let s := (fixed.filterMap at_).foldl (fun s e => State.dieCorrected s die (if e.1.home = 0 then 3 else 2)) s
  (bad.filterMap at_).foldl (fun s e =>
    let r := e.1
    if r.home = 0 then (s.addPoison (halfArea r.half) b die (r.addr + e.2)).granaryBad b die r.half (r.addr + e.2)
    else chaff s r) s

/-- A row in the crib found bad: it is chaffed, and counted for its context (R318, R328). -/
def State.chaffSlot (s : State) (x : Sheaf) (k : Nat) (r : RowSlot) : State :=
  (s.modSlot x.no k r.slot fun y => { y with chaffed := true }).countChaff (some r.ctx) x.bay 1

/-- Rows of the positions `[lo, hi)` of a section counted, once for each row slot: in the heat sketch (R193, R324), and the granules
of a row in the granary that could not be read, for its context (R328). -/
def State.heatSlots (s : State) (x : Sheaf) (k : Nat) (g : Section) (lo hi : Nat) : State :=
  match g.window with
  | none => s
  | some m =>
    ((m.take hi).drop lo).foldl (fun s p =>
      match (State.sectionAt s x.no k).bind fun f => findKey RowSlot.slot f.2.slots p.slot with
      | some r =>
        if p.kind < 3 && !r.heated && !r.released then
          let s := State.modSlot s x.no k p.slot fun r => { r with heated := true }
          let s := if r.home = 0 then s.countChaff (some r.ctx) x.bay (chaffCount (s.granaryRow x.bay (x.crew / 16) r)) else s
          if r.home = 3 || p.kind != 0 then s else s.heatRow x.bay g.table r.row
        else s
      | none => s) s

/-- A pass enters a thresher: its time is charged to the bay (R262). -/
def State.enterPass (s : State) (thresher bag slice b : Nat) (ls : List Lane) (next : Nat) (f : BagRun → BagRun) : State :=
  ((s.charge b (34 + thresherDie thresher) 1).count (0x500 + thresherDie thresher) 0 1).modBag thresher bag fun r =>
    { f r with chains := r.chains.modify slice fun c => { c with flight := some (ls, next) } }

/-- A pass of a bag's chain enters with the positions whose data is there (R234, R262): `fixed` and `bad` are the errors its reads
meet. -/
def State.passBag (s : State) (thresher i slice no k bag : Nat) (c : Chain) (fixed bad : List (Nat × Nat)) : State :=
  match s.sectionAt no k with
  | none => s
  | some (x, g) =>
    let die := thresherDie thresher
    let (_, p, _, _) := s.passAux x k g bag slice 16 c.lanes c.next false 0
    if p = c.next then s
    else
      let lo := g.bagStart bag + c.next
      let s := s.rowErrors x.bay die lo (p - c.next) g (fun s r => State.chaffSlot s x k r) fixed bad
      match s.sectionAt no k with
      | none => s
      | some (x, g) =>
        let (ls, p, ch, err) := s.passAux x k g bag slice (p - c.next) c.lanes c.next false 0
        let s := s.heatSlots x k g lo (g.bagStart bag + p)
        let s := if err = 0 || slice ≠ 0 then s else s.modCtx g.ctx fun y => y.bump 4 err
        s.enterPass thresher i slice x.bay ls p fun r => { r with chaffed := r.chaffed || ch }

/-- Crib space of the slots whose last use has been folded is released (R323). -/
def State.releaseSlots (s : State) (no k : Nat) (all : Bool) : State :=
  match s.sectionAt no k with
  | none => s
  | some (_, g) =>
    let m := g.window.getD []
    let gone := (g.slots.filter fun r => !r.released).filter fun r =>
      all || (m.zipIdx.any fun p => p.1.slot == r.slot && p.1.lastUse && p.1.kind < 3 &&
        (List.range (p.2 + 1)).all fun i => ((m[i]?).map Pos.slot) != some r.slot || s.posFolded no k g i)
    gone.foldl (fun s r =>
      let s := State.modSlot s no k r.slot fun r => { r with released := true, data := none, spilled := none, took := 0 }
      if r.ctx = noCtx then s else (s.cribFree r.ctx r.took).ctxSettle r.ctx) s

/-! ### Tiles (R244, R245) -/

/-- The slots that each bag or group waiting on a die needs. -/
def State.waitingNeeds (s : State) (die : Nat) : List Nat :=
  (s.dp.sheafs.filter fun x => x.crew / 16 == die).flatMap fun x =>
    if x.phase == .tallying then (x.tally.zipIdx.filter fun t => !t.1.out && !s.allotted (.tally x.no t.2)).map fun t =>
      slicesOf t.1.group.vals.length
    else if x.isUpdate || !(x.phase == .running || x.phase == .working) then []
    else x.sections.zipIdx.flatMap fun g =>
      ((List.range g.1.bags).filter fun b => decide (0 < g.1.bagLen b) && s.bagWaits x g.2 b g.1).map fun _ => g.1.tab.slotsNeeded

/-- The slots that the next row group of a thresher's matrix job needs (R259). -/
def State.groupNeeds (s : State) (id : Nat) : List Nat :=
  match (findKey Matrix.id s.dp.matrices id).bind fun q => (matDescOf q.desc).map fun x => (q, x) with
  | none => []
  | some (q, x) => if 128 * q.block < x.n then [min 64 (x.m - q.row)] else []

/-- Whether the filling tile lacks the slots that waiting work needs while the draining tile has them (R244): any waiting bag of the die may
be the next (DESIGN CHOICE, log 194). -/
def State.lacksSlots (s : State) (n : Nat) : Bool :=
  let t := s.thresher n
  let fill := (t.freeSlots t.filling).length
  let drain := (t.freeSlots (1 - t.filling)).length
  (match t.matrix with
    | some id => s.groupNeeds id
    | none => s.waitingNeeds (thresherDie n)).any fun k => decide (fill < k) && decide (k ≤ drain)

/-- TILE_SWAP (R244). -/
def execTileSwap (thresher : Nat) (s : State) : Out :=
  if 31 < thresher then .fault .noSuchUnit
  else .next <|
    let s := s.noteReady thresher
    let t := s.thresher thresher
    let drainReady := t.bags.any fun b => b.tile != t.filling && b.ready.isSome
    if !drainReady && ((t.bags.any fun b => b.tile == t.filling && b.complete s) || s.lacksSlots thresher) then
      s.modThresher thresher fun t => { t with filling := 1 - t.filling }
    else s

/-! ### The output stage (R247, R248) -/

/-- The fused operand's elements for a bag, and whether a granule of it could not be read. -/
def Sheaf.operand (x : Sheaf) (k bag : Nat) (g : Section) : List Nat × Bool :=
  if g.tab.pool.fuseOp = 0 then ([], false)
  else match g.fused.find? fun y => y.1 == x.fuseRow k bag with
    | some (_, row, bad) => (items g.tab.desc.dim (fuseElem g.tab.pool.fuseFormat row), bad)
    | none => (List.replicate g.tab.desc.dim 0, true)

/-- A bag as the output stage gives it (R247): from the lanes of its columns. A section pooled again is converted to BF16 (R138);
first-pass discovery holds the values (R249). -/
def outputBag (x : Sheaf) (k : Nat) (g : Section) (bag : Nat) (ls : List Lane) (chaffed : Bool) (more : Nat) : BagOut × List Nat :=
  let t := g.tab
  let n := g.bagLen bag
  let comp := t.pool.compensated
  let (u, ubad) := x.operand k bag g
  let vals := items t.desc.dim fun c => fuse t.pool.fuseOp (t.value comp c n (ls.getD c Lane.initial)) (natAt u c)
  let held := g.holds
  let conv := items t.desc.dim fun c =>
    if g.widened then convertWide (natAt vals c) else t.convert g.scales c n (ls.getD c Lane.initial) (natAt vals c)
  let sat := if held then [] else (conv.zipIdx.filter fun z => z.1.2).map Prod.snd
  let (d, al, rows) := g.kinds bag
  let stale := g.barrier == some true && decide (0 < al + rows)
  let status := flag (chaffed || ubad) + 2 * flag (n == 0) + 4 * flag (decide (0 < d + more)) + 8 * flag stale + 16 * flag (!sat.isEmpty)
  ({ bag := bag, status := status, codes := if held then [] else conv.map Prod.fst, vals := vals,
     wins := if t.desc.mode < 3 then [] else items t.desc.dim fun c => if n = 0 then 0xFFFFFFFFFF else (ls.getD c Lane.initial).idx % 2 ^ 40,
     sat := sat.length }, sat)

/-- Fused operand rows that no bag still needs leave the crib (R327). -/
def State.releaseFused (s : State) (no k : Nat) : State :=
  match s.sectionAt no k with
  | none => s
  | some (x, g) =>
    let need := ((List.range g.bags).filter fun b => !g.outs.any fun o => o.bag == b).map (x.fuseRow k)
    s.modSection no k fun g => { g with fused := g.fused.filter fun y => need.contains y.1 }

/-- The lanes of a bag folded here, combined with the partials of other owners (R218): a bag all of whose positions they hold has none of
its own. -/
def State.mergedLanes (s : State) (g : Section) (bag : Nat) (ls : List Lane) : List Lane :=
  let ps := g.partials.filter fun p => p.bag == bag
  let here := (((g.window.getD []).drop (g.bagStart bag)).take (g.bagLen bag)).any fun p => p.kind != 3
  let own := if here then [Partial.ofLanes s.selfNumber bag 0 false ls] else []
  if ps.isEmpty then ls else g.tab.combineAll g.tab.pool.compensated (own ++ ps)

/-- The bag of a drained run: its lanes, with the partials of other owners (R218), through the output stage; with an uncorrectable
slot error its vector is zeros (R265). -/
def State.drainBag (s : State) (n : Nat) (r : BagRun) (no k bag : Nat) : State :=
  match s.sectionAt no k with
  | none => s
  | some (x, g) =>
    let (more, ch) := g.partialMarks bag
    let lanes := s.mergedLanes g bag (r.chains.flatMap Chain.lanes)
    let bad := r.chaffed || r.storeBad || ch
    let (o, sat) := if r.broken.isSome then (g.blank bag more, []) else outputBag x k g bag lanes bad more
    let s := match r.broken with
      | some slot => s.raise 0x0501 2 (some x.bay) (some (thresherDie n)) (leBytes 1 n ++ leBytes 1 r.tile ++ leBytes 1 slot)
      | none => s
    let s := s.putOut x k g o sat more r.broken.isSome
    let whole := (s.sectionAt no k).any fun f => (List.range f.2.bags).all fun b => f.2.outs.any fun o => o.bag == b
    (s.releaseSlots no k whole).releaseFused no k

/-! ### The end of a section (R214, R249) -/

/-- A held bag converted with the scales found (R127, R249). -/
def State.convertOut (s : State) (x : Sheaf) (k : Nat) (g : Section) (o : BagOut) : State :=
  let conv := o.vals.zipIdx.map fun v => g.tab.convertHeld g.scales v.2 v.1
  let sat := (conv.zipIdx.filter fun z => z.1.2).map Prod.snd
  let o := { o with codes := conv.map Prod.fst, sat := sat.length, status := o.status % 16 + 16 * flag (!sat.isEmpty) }
  ((s.modSection x.no k fun g => { g with outs := putKey BagOut.bag o g.outs }).modSheaf x.no
    fun x => { x with saturated := x.saturated + sat.length }).countSat x.bay g.table 4 sat

/-- Whether a section's results are final but for their widening: every bag out and none held. -/
def Section.whole (g : Section) : Bool := g.pooled && !g.outs.any BagOut.isHeld

/-- Whether a section, pooled, still has to be pooled again (R138). -/
def Section.needsRedo (g : Section) : Bool :=
  (g.tab.point 4).policy.satPolicy == 1 && !g.widened && g.outs.any fun o => decide (0 < o.sat)

/-- The slot of a row that its owner resolved to DEFAULT or ALIAS, as one of the default row here: it is not asked for, and not counted,
again (R173). -/
def Section.slotAgain (g : Section) (r : RowSlot) : RowSlot :=
  if r.home = 3 && (g.window.getD []).any fun p => p.slot == r.slot && (p.kind == 1 || p.kind == 2) then
    match g.tab.defRow with
    | some d => { r with home := 1, addr := d.first, granules := d.len }
    | none => { r with home := 4 }
  else r

/-- A section put back to be pooled as new bags (R250): its rows have left the crib, and no context holds them any more. -/
def Section.again (g : Section) : Section :=
  { g with
    widened := true
    outs := []
    fused := []
    slots := g.slots.map fun r =>
      let r := g.slotAgain r
      if r.home = 0 || r.home = 4 then { r with released := false, ctx := noCtx, data := if r.home = 4 then some (zeros (64 * r.granules)) else none }
      else { r with released := false, data := none, spilled := none, chaffed := false, took := 0, ctx := noCtx } }

/-- Row slots in the order in which the positions of a section first use them. -/
def slotOrder (g : Section) : List RowSlot :=
  (distinct ((g.window.getD []).map Pos.slot)).filterMap fun n => findKey RowSlot.slot g.slots n

/-- The rows of a section asked for again (R71, R138), in the queue of its BIND's context (R327). -/
def State.fetchAgain (s : State) (x : Sheaf) (k : Nat) (g : Section) : State :=
  let die := x.crew / 16
  let s := (slotOrder g).foldl (fun s r =>
    if r.home = 3 then State.putReadReq s x.bay die none g.queue (.row x.no k r.slot) (bits r.addr 32 16) g.table g.tab.map.version r.row r.granules
    else if r.home = 1 || r.home = 2 then State.putRead s x.bay die none g.queue false (.row x.no k r.slot) r.home r.addr r.granules 0 false
    else s) s
  s.fetchFused x.no k die none g.queue

/-- REDO (R138, R250): a section whose output saturated is pooled again, as new bags, to be converted to BF16; it waits for a reserve
of crib space of its own (R333). -/
def execRedo (sheaf sect : Nat) (s : State) : Out :=
  .next <| match s.sectionAt sheaf sect with
  | none => s
  | some (x, g) =>
    if x.phase ≠ .working || !g.whole || !g.needsRedo || !s.cribFits x.bay (x.crew / 16) (2 * g.tab.maxGranules) then s
    else
      let s := ((s.discardCrib x.bay (x.crew / 16) (2 * g.tab.maxGranules)).modSection sheaf sect Section.again).modSheaf sheaf fun x =>
        { x with chaffed := x.chaffed - sumBy (fun (o : BagOut) => o.status % 2) g.outs }
      (s.fetchAgain x sect g.again).pump

end Sys2Proof.Machine
end

