-- ==== Sys2Proof/Machine/Matrix.lean ====
section
/-! DEFINITION. Matrix jobs (R117, R256 to R262, R265, R266): descriptor and column records, the row groups of a job in a thresher's
slots, their passes and their output, and the job status. -/

namespace Sys2Proof.Machine

/-- A column record (R261). -/
structure MatCol where
  mult : Int
  shift : Nat
  zp : Int
  inScale : Nat
  outScale : Nat
deriving DecidableEq, Repr

def matColOf (r : List Byte) : MatCol :=
  ⟨signedOf 32 (u32At r 0), u8At r 4, signedOf 8 (u8At r 5), u32At r 8, u32At r 12⟩

/-- Whether a record keeps R261: fields the job does not use are zero, and a scale it uses is legal. -/
def matColOk (x : MatDesc) (r : List Byte) : Bool :=
  let c := matColOf r
  let intOut := isIntFmt x.fo
  let usesM := x.isInt && intOut
  let usesIn := !(x.isInt && intOut)
  let usesOut := x.fo == .e4m3 || x.fo == .e5m2 || (intOut && !x.isInt)
  let (lo, hi) := intLimits x.fo false
  zeroAt r 6 2 && (if usesM then decide (c.shift ≤ 63) else c.mult == 0 && c.shift == 0) &&
    (if intOut then decide (lo ≤ c.zp) && decide (c.zp ≤ hi) else c.zp == 0) &&
    (if usesIn then scaleOk c.inScale else c.inScale == 0) && (if usesOut then scaleOk c.outScale else c.outScale == 0)

/-- Values of k that a pass covers (R256), and column blocks of C. -/
def MatDesc.kGroup (x : MatDesc) : Nat := if x.isInt then 32 else 16
def MatDesc.blocks (x : MatDesc) : Nat := (x.n + 127) / 128

/-- Columns of a block. -/
def MatDesc.cols (x : MatDesc) (block : Nat) : Nat := min 128 (x.n - 128 * block)

/-- Products folded into an accumulator in ascending k (R115, R257): the lane, and whether it has been held at its limit. -/
def matAcc (x : MatDesc) (a w : List Nat) (l : Lane) : Lane × Bool :=
  (a.zip w).foldl (fun (acc : Lane × Bool) p =>
    if x.isInt then
      let (v, sat) := clamp48 (acc.1.acc + signedOf (fmtBits x.fa) p.1 * signedOf (fmtBits x.fw) p.2)
      ({ acc.1 with acc := v }, acc.2 || sat)
    else
      (foldSum x.comp acc.1 (decodeElem x.fa 0 Scales.initial [] 0 p.1) (decodeElem x.fw 0 Scales.initial [] 0 p.2), acc.2)) (l, false)

/-- The accumulator before the first product (R117, R257): the bias, or −0.0 (0 for integers). -/
def matStart (x : MatDesc) (bias : Nat) : Lane :=
  if x.isInt then ⟨f32NegZero, f32NegZero, signedOf 64 bias, 0, 0⟩
  else ⟨if x.bias then bias else f32NegZero, f32NegZero, 0, 0, 0⟩

/-- An element of C (R247, R261): its code and whether it saturated. An integer result that passes through the fused
operation on its way to an integer output has no stated scale (DESIGN CHOICE, log 29). -/
def matOut (x : MatDesc) (c : MatCol) (l : Lane) (u : Nat) : Nat × Bool :=
  let intOut := isIntFmt x.fo
  if x.isInt && intOut then
    if x.fuseOp = 0 then
      let (q, sat) := rescale x.fo false ⟨c.mult, c.shift, c.zp⟩ l.acc 1
      (unsignedOf (fmtBits x.fo) q, sat)
    else (Config.unstated 4 (u + 2 ^ 32 * unsignedOf 48 l.acc) % 2 ^ fmtBits x.fo, false)
  else
    let v := if x.isInt then fmul (intTo32 l.acc) c.inScale else fmul (l.sum x.comp) c.inScale
    encodeElem x.fo 0 false ⟨[c.outScale], [], f32One, [c.zp]⟩ [] 0 (fuse x.fuseOp v u)

/-- The job status (R260). -/
def matStatus (st : Status) (sat rows : Nat) : List Byte :=
  leBytes 2 st.code ++ zeros 2 ++ leBytes 4 (min sat (2 ^ 32 - 1)) ++ leBytes 4 rows ++ zeros 4

/-! ### What a job reads (R256, R260) -/

/-- Granules of a run of a bay's silo space that cannot be read from a die. -/
def State.runBad (s : State) (b die : Nat) (r : Run) : Nat :=
  ((List.range r.len).filter fun i => (s.granuleAt b die 1 (r.first + i) 0).isNone).length

/-- The granules that `n` elements of a format from element `lo` on of a row at granule `base` lie in. -/
def elemRun (f : Fmt) (base lo n : Nat) : Run :=
  let first := lo * fmtBits f / 512
  ⟨base + first, ((lo + n) * fmtBits f + 511) / 512 - first⟩

/-- Codes of `n` elements from element `lo` on of a row at granule `base` of a bay's silo space. -/
def State.matElems (s : State) (b : Nat) (f : Fmt) (base lo n : Nat) : List Nat :=
  let r := elemRun f base lo n
  let row := s.read .silo b 0 (64 * r.first) (64 * r.len)
  let skip := lo - 512 * (lo * fmtBits f / 512) / fmtBits f
  items n fun i => elemAt f row (skip + i)

/-- Granule of row `i` of A, of row `k` of W, of row `i` of the fused operand and of C. -/
def MatDesc.aRow (x : MatDesc) (i : Nat) : Nat := x.aAddr + i * matRow x.fa x.k
def MatDesc.wRow (x : MatDesc) (k : Nat) : Nat := x.wAddr + k * matRow x.fw x.n
def MatDesc.uRow (x : MatDesc) (i : Nat) : Nat := x.uAddr + i * matRow .fp32 x.n
def MatDesc.oRow (x : MatDesc) (i : Nat) : Nat := x.oAddr + i * matRow x.fo x.n

/-- Whether every span of a job lies inside the bay's bounds and C goes where the bay may write (R88, R273). -/
def State.matrixIn (s : State) (b die : Nat) (x : MatDesc) : Bool :=
  x.reads.all (fun r => s.spaceIn b die 1 r.first r.len) && s.dstOk b die 1 x.out.first x.out.len

/-- The column records of a job. -/
def State.matrixCols (s : State) (q : Matrix) (x : MatDesc) : List (List Byte) :=
  items x.n fun j => s.read .store q.crew 0 (x.col + 16 * j) 16

/-- Whether a job passes the checks made before its first pass (R260, R261). -/
def State.matrixOk (s : State) (q : Matrix) (x : MatDesc) : Bool :=
  s.matrixIn q.bay (ctxDie q.ctx) x && (s.matrixCols q x).all (matColOk x) && q.bias != .failed

/-- Several reads or writes of a matrix job (R313: queue 4), let through together, and made; a write comes after the reads of its granules
under way (R440). -/
def State.matrixMay (s : State) (b die : Nat) (runs : List Run) (isWrite : Bool) : Bool :=
  runs.all fun r => s.mayAccess b die 4 1 r.first r.len isWrite && !(isWrite && s.readBefore b 1 r.first r.len)
def State.matrixAccess (s : State) (b die : Nat) (runs : List Run) (isWrite : Bool) : State :=
  runs.foldl (fun s r => State.access s b die 4 1 r.first r.len isWrite) s

/-- The same of reads, with what cannot be read reported and counted for the job's context (R328, R443). -/
def State.matrixReads (s : State) (q : Matrix) (runs : List Run) : State :=
  let die := ctxDie q.ctx
  runs.foldl (fun s r => (State.reportBad s q.bay 1 r.first r.len).countChaff (some q.ctx) q.bay (s.runBad q.bay die r))
    (s.matrixAccess q.bay die runs false)

/-! ### Row groups (R256, R257, R259) -/

/-- Rows of the group that begins at a row of C. -/
def MatDesc.group (x : MatDesc) (row : Nat) : Nat := min 64 (x.m - row)

/-- The bias of row `i` in a column block. -/
def MatDesc.biasRun (x : MatDesc) (i block : Nat) : Run :=
  if x.isInt then
    let lo := 8 * (i * x.n + 128 * block)
    ⟨x.bAddr + lo / 64, (lo + 8 * x.cols block + 63) / 64 - lo / 64⟩
  else elemRun .fp32 x.bAddr (128 * block) (x.cols block)

/-- The bias granules that a row group reads. -/
def MatDesc.biasRuns (x : MatDesc) (row block : Nat) : List Run :=
  if !x.bias then [] else if x.isInt then items (x.group row) fun i => x.biasRun (row + i) block else [x.biasRun row block]

/-- The lanes of row `i` in a column block as its slot is initialised. -/
def State.matrixLanes (s : State) (b : Nat) (x : MatDesc) (i block : Nat) : List Lane :=
  items (x.cols block) fun j =>
    let at_ := if x.isInt then 8 * (i * x.n + 128 * block + j) else 4 * (128 * block + j)
    matStart x (if x.bias then leNat (s.read .silo b 0 (64 * x.bAddr + at_) (if x.isInt then 8 else 4)) else 0)

/-- Whether a thresher can take a row group: the job's own, or one of its die all of whose slots are free; in A0, with room in the
filling tile, which holds no other group (R241, R256, R259, R264). -/
def State.matrixRoom (s : State) (thresher : Nat) (q : Matrix) (rows : Nat) : Bool :=
  let t := s.thresher thresher
  thresherDie thresher == ctxDie q.ctx && s.domainA0 (quadDomain thresher) && decide (rows ≤ (t.freeSlots t.filling).length) &&
    (t.bags.all fun b => b.tile != t.filling) && match q.thresher with
    | some n => n == thresher
    | none => t.bags.isEmpty && t.matrix.isNone

/-- The next row group of a job receives its slots, one for each row (R259). -/
def State.allotMatrix (s : State) (thresher id block row : Nat) : State :=
  match findKey Matrix.id s.dp.matrices id with
  | none => s
  | some q => match matDescOf q.desc with
    | none => s
    | some x =>
      let n := x.group row
      let runs := x.biasRuns row block
      if q.bias ≠ .done || block ≠ q.block || row ≠ q.row || x.blocks ≤ block || !s.matrixRoom thresher q n ||
          (q.thresher.isNone && !s.matrixOk q x) || !s.matrixMay q.bay (ctxDie q.ctx) runs false then s
      else
        let s := s.matrixReads q runs
        let free := (s.thresher thresher).freeSlots (s.thresher thresher).filling
        let new := items n fun i =>
          { newRun (.matrix id block (row + i)) (s.thresher thresher).filling [natAt free i] [⟨s.matrixLanes q.bay x (row + i) block, 0, none⟩] with
            chaffed := x.bias && decide (0 < s.runBad q.bay (ctxDie q.ctx) (x.biasRun (row + i) block)) }
        let s := s.modThresher thresher fun t => { t with matrix := some id, bags := t.bags ++ new }
        s.modMatrix id fun q =>
          { q with thresher := some thresher, row := if row + n < x.m then row + n else 0, block := if row + n < x.m then block else block + 1 }

/-- The chains of the row group of a row in a thresher. -/
def Thresher.groupOf (t : Thresher) (id block row : Nat) : List Chain :=
  (t.bags.filter fun b => match b.work with
    | .matrix i j r => i == id && j == block && r / 64 == row / 64
    | _ => false).flatMap BagRun.chains

/-- The chains of the row groups and column blocks of a job that come before a row's group. -/
def Thresher.groupsBefore (t : Thresher) (id block row : Nat) : List Chain :=
  (t.bags.filter fun b => match b.work with
    | .matrix i j r => i == id && (decide (j < block) || (j == block && decide (r / 64 < row / 64)))
    | _ => false).flatMap BagRun.chains

/-- Values of k that have entered in a chain. -/
def Chain.entered (c : Chain) : Nat := (c.flight.map Prod.snd).getD c.next

/-- The block of W in a thresher's weight registers for a k-group of a row group (R256). -/
def Thresher.weightsOf (t : Thresher) (id block row k : Nat) : Option Weights :=
  t.weights.find? fun w => w.job == id && w.block == block && w.group == row / 64 && w.k == k

/-- The granules that a pass of row `i` over a k-group reads: those of A that the group begins, and, where the weight registers do not
hold it, the block of W that they load (R256). -/
def MatDesc.passRuns (x : MatDesc) (i block k n : Nat) (load : Bool) : List Run :=
  let lo := (k * fmtBits x.fa + 511) / 512
  let hi := ((k + n) * fmtBits x.fa + 511) / 512
  (if lo < hi then [⟨x.aRow i + lo, hi - lo⟩] else []) ++
    (if load then items n fun j => elemRun x.fw (x.wRow (k + j)) (128 * block) (x.cols block) else [])

/-- What the next pass of a row reads, with its job: its next k-group, once every row of its group has entered the one before, and
every row of the groups before all of theirs (R256, R257, R259); none where it has to wait, for that or for its reads. -/
def State.matrixNext (s : State) (thresher id block row : Nat) (c : Chain) : Option (Matrix × MatDesc × List Run) :=
  ((findKey Matrix.id s.dp.matrices id).bind fun q => (matDescOf q.desc).map fun x => (q, x)).bind fun y =>
    let t := s.thresher thresher
    let n := min y.2.kGroup (y.2.k - c.next)
    let runs := y.2.passRuns row block c.next n (t.weightsOf id block row c.next).isNone
    if n = 0 || ((t.groupOf id block row).any fun z => decide (z.entered < c.next)) ||
        ((t.groupsBefore id block row).any fun z => decide (z.entered < y.2.k)) ||
        !s.matrixMay y.1.bay (thresherDie thresher) runs false then none
    else some (y.1, y.2, runs)

/-- The block of W of a k-group as the weight registers load it; a granule that cannot be read makes it bad. -/
def State.weightBlock (s : State) (q : Matrix) (x : MatDesc) (block row k n : Nat) : Weights :=
  { job := q.id, block := block, group := row / 64, k := k
    rows := items n fun j => s.matElems q.bay x.fw (x.wRow (k + j)) (128 * block) (x.cols block)
    bad := (List.range n).any fun j => decide (0 < s.runBad q.bay (ctxDie q.ctx) (elemRun x.fw (x.wRow (k + j)) (128 * block) (x.cols block))) }

/-- A pass of a row of a group over its next k-group, with the weights of the registers (R256, R257, R259). -/
def State.passMatrix (s : State) (thresher i slice id block row : Nat) (c : Chain) : State :=
  match s.matrixNext thresher id block row c with
  | none => s
  | some (q, x, runs) =>
    let n := min x.kGroup (x.k - c.next)
    let s := s.matrixReads q runs
    let w := ((s.thresher thresher).weightsOf id block row c.next).getD (s.weightBlock q x block row c.next n)
    let s := s.modThresher thresher fun t =>
      { t with weights := if (t.weightsOf id block row c.next).isSome then t.weights else (w :: t.weights).take 2 }
    let a := s.matElems q.bay x.fa (x.aRow row) c.next n
    let bad := w.bad || decide (0 < s.runBad q.bay (ctxDie q.ctx) (elemRun x.fa (x.aRow row) c.next n))
    let out := c.lanes.zipIdx.map fun l => matAcc x a (w.rows.map fun r => natAt r l.2) l.1
    let held := (out.zipIdx.filter fun z => z.1.2).map Prod.snd
    s.enterPass thresher i slice q.bay (out.map Prod.fst) (c.next + n) fun r =>
      { r with chaffed := r.chaffed || bad, clamped := r.clamped ++ held.filter fun j => !r.clamped.contains j }

/-! ### Output (R247, R259 to R261, R265, R266) -/

/-- The granules of C that a row's column block fills; the last block fills the row's padding. -/
def MatDesc.outRun (x : MatDesc) (row block : Nat) : Run :=
  let r := elemRun x.fo (x.oRow row) (128 * block) (x.cols block)
  if block + 1 = x.blocks then ⟨r.first, x.oRow (row + 1) - r.first⟩ else r

/-- The granules of the fused operand that it takes. -/
def MatDesc.operandRuns (x : MatDesc) (row block : Nat) : List Run :=
  if x.fuseOp = 0 then [] else [elemRun .fp32 (x.uRow row) (128 * block) (x.cols block)]

/-- Whether the output stage can take the last slice of a row: its operand read and its granules written. -/
def State.matrixDrainMay (s : State) (id block row : Nat) : Bool :=
  ((findKey Matrix.id s.dp.matrices id).bind fun q => (matDescOf q.desc).map fun x => (q, x)).all fun y =>
    s.matrixMay y.1.bay (ctxDie y.1.ctx) (y.2.operandRuns row block) false &&
      s.matrixMay y.1.bay (ctxDie y.1.ctx) [y.2.outRun row block] true

/-- The fused operand of a row's column block: +0.0 in the columns of a granule that cannot be read (R248). -/
def State.matrixOperand (s : State) (q : Matrix) (x : MatDesc) (row block : Nat) : List Nat :=
  if x.fuseOp = 0 then []
  else (s.matElems q.bay .fp32 (x.uRow row) (128 * block) (x.cols block)).zipIdx.map fun v =>
    if (s.granuleAt q.bay (ctxDie q.ctx) 1 (x.uRow row + (128 * block + v.2) / 16) 0).isNone then 0 else v.1

/-- A row of a column block leaves the output stage. A row with an element in a slot that could not be corrected, or that a bad weight
register or a granule of A, W or the bias that cannot be read has reached, is written as zeros, whole (R264 to R266; DEDUCED, log
175). -/
def State.drainMatrix (s : State) (n : Nat) (r : BagRun) (id block row : Nat) : State :=
  match findKey Matrix.id s.dp.matrices id with
  | none => s
  | some q => match matDescOf q.desc with
    | none => s
    | some x =>
      let b := q.bay
      let die := ctxDie q.ctx
      let s := match r.broken with
        | some slot => s.raise 0x0501 2 (some b) (some die) (leBytes 1 n ++ leBytes 1 r.tile ++ leBytes 1 slot)
        | none => s
      let s := s.matrixReads q (x.operandRuns row block)
      let zero := r.broken.isSome || r.storeBad || r.chaffed || q.bad.contains row
      let cols := s.matrixCols q x
      let u := s.matrixOperand q x row block
      let es := (r.chains.flatMap Chain.lanes).zipIdx.map fun l =>
        let (code, sat) := matOut x (matColOf (cols.getD (128 * block + l.2) [])) l.1 (natAt u l.2)
        (code, sat || r.clamped.contains l.2)
      let out : Run := if zero && !q.bad.contains row then ⟨x.oRow row, matRow x.fo x.n⟩ else x.outRun row block
      let data := fit (64 * out.len) (if zero then [] else packElems x.fo (es.map Prod.fst))
      let s := ((s.write .silo b 0 (64 * out.first) data).heal .silo b 0 out.first out.len).matrixAccess b die [out] true
      s.modMatrix id fun q =>
        { q with
          written := q.written + 1
          sat := q.sat + (if zero then 0 else (es.filter Prod.snd).length)
          bad := if zero && !q.bad.contains row then q.bad ++ [row] else q.bad }

/-! ### The end of a job (R260) -/

/-- A job ends: its status is written, and its thresher is free. -/
def State.endMatrix (s : State) (q : Matrix) (at_ : Nat) (st : List Byte) : State :=
  let s := if at_ + 16 ≤ 0xF0000 then State.write s .store q.crew 0 at_ st else s
  let s := match q.thresher with
    | some n => s.modThresher n fun t => { t with matrix := none, weights := [] }
    | none => s
  let s : State := { s with dp.matrices := dropKey Matrix.id s.dp.matrices q.id }
  s.ctxSettle q.ctx

/-- MATRIX_JOB_DONE (R260): a job that fails a check ends before it has a thresher; another, on its thresher, once the last
element of C is written. -/
def execMatrixJobDone (id : Nat) (thresher : Option Nat) (s : State) : Out :=
  .next <| match (findKey Matrix.id s.dp.matrices id).filter fun q => q.thresher == thresher with
  | none => s
  | some q => match matDescOf q.desc with
    | none => s.endMatrix q (u32At q.desc 60) (matStatus .range 0 0)
    | some x =>
      if q.thresher.isNone && !s.matrixOk q x then s.endMatrix q x.status (matStatus .range 0 0)
      else if q.written = x.m * x.blocks then s.endMatrix q x.status (matStatus .ok q.sat q.bad.length)
      else s

end Sys2Proof.Machine
end

