-- ==== Sys2Proof/Machine/Results.lean ====
section
/-! DEFINITION. The layout of results (R220 to R224), their placement (R225, R495, R564 to R566), the completion record
(R227, R229, R389) and what leaves with a completed sheaf (R41, R391 to R393, R424, R427). -/

namespace Sys2Proof.Machine

/-! ### The layout of a section's results (R220 to R224) -/

/-- The format a section is placed in: that of the output policy, or, widened, BF16 (R224). -/
def Section.outFmt (g : Section) (wide : Bool) : Fmt := if wide then .bf16 else (g.tab.point 4).policy.format

/-- Bytes from one vector to the next (R222). -/
def vectorStride (f : Fmt) (d : Nat) : Nat := 16 * ((d * fmtBits f + 127) / 128)

/-- The scale block of a narrow section (R223): the scales and zero points it was converted with (R130), in the policy's storage form. -/
def Section.scaleBlock (g : Section) : List Byte :=
  scaleData (g.tab.point 4).policy g.tab.desc.dim (g.tab.withExplicitZp g.scales)

/-- Bytes of a section's layout, narrow or widened (R220). -/
def Section.layoutBytes (g : Section) (wide : Bool) : Nat :=
  let n := g.bags
  let d := g.tab.desc.dim
  if n = 0 then 16
  else 16 + roundUp n 16 + (if wide then 0 else roundUp g.scaleBlock.length 16) + roundUp (n * vectorStride (g.outFmt wide) d) 16 +
    (if 3 ≤ g.tab.desc.mode then roundUp (n * d * 8) 16 else 0)

/-- The allotment of a section (R224): the larger of its two layouts under the policy REDO, else the narrow one. -/
def Section.allotment (g : Section) : Nat :=
  if (g.tab.point 4).policy.satPolicy = 1 then max (g.layoutBytes false) (g.layoutBytes true) else g.layoutBytes false

/-- A section's results as placed (R220); a widened one has no scale block (R224). -/
def Section.placedBytes (g : Section) : List Byte :=
  let outs := sortBy BagOut.bag g.outs
  let d := g.tab.desc.dim
  let f := g.outFmt g.widened
  let block := if g.widened || g.bags = 0 then [] else g.scaleBlock
  let wins := 3 ≤ g.tab.desc.mode && g.bags ≠ 0
  let header := leBytes 2 g.table ++ leBytes 1 (codeOfFmt f) ++ leBytes 1 (flag g.widened + 2 * flag (!block.isEmpty) + 4 * flag wins) ++
    leBytes 4 g.bags ++ leBytes 4 g.allotment ++ zeros 4
  header ++ padTo 16 (outs.flatMap fun o => leBytes 1 o.status) ++ padTo 16 block ++
    padTo 16 (outs.flatMap fun o => fit (vectorStride f d) (packElems f o.codes)) ++
    (if wins then padTo 16 (outs.flatMap fun o => o.wins.flatMap (leBytes 8)) else [])

/-- Offset of a section's results behind result_offset: the allotments of the sections before it (R224). -/
def Sheaf.sectionOff (x : Sheaf) (k : Nat) : Nat := sumBy Section.allotment (x.sections.take k)

/-! ### Sheaf header fields of placement (R200) -/

def Sheaf.resultKey (x : Sheaf) : Nat := u32At x.head 16
def Sheaf.completionKey (x : Sheaf) : Nat := u32At x.head 20
def Sheaf.resultOff (x : Sheaf) : Nat := u64At x.head 24
def Sheaf.completionOff (x : Sheaf) : Nat := u64At x.head 32

/-! ### Moderated vectors (R565, R566) -/

/-- Records that signal a vector, and its time bound in µs. -/
def Vec.count (v : Vec) : Nat := min 256 (max 1 (bits v.reg 0 9))
def Vec.time (v : Vec) : Nat := bits v.reg 10 10

def State.vec (s : State) (n : Nat) : Vec := (findKey Vec.no s.tth.vecs n).getD ⟨n, 1, 0, 0⟩

def State.putVec (s : State) (v : Vec) : State :=
  { s with tth.vecs := if v.reg = 1 && v.pending = 0 then dropKey Vec.no s.tth.vecs v.no else putKey Vec.no v s.tth.vecs }

/-- A moderated vector signals, and its count and time restart. -/
def State.signalVec (s : State) (n : Nat) : State := (s.putVec { s.vec n with pending := 0, since := 0 }).emit (.msix n)

/-- A record counted towards a vector. -/
def State.countVec (s : State) (n : Nat) : State :=
  let v := s.vec n
  if v.count ≤ v.pending + 1 then s.signalVec n
  else s.putVec { v with pending := v.pending + 1, since := if v.pending = 0 then s.dev.now else v.since }

/-- The vector that a region names for its bay (R565). -/
def Region.msix (r : Region) : Option Nat := r.vector.map fun k => 64 + 64 * r.bay + k

/-! ### A sheaf leaves (R229, R391 to R393, R396, R424, R427) -/

/-- Sheafs that wait as duplicates of a number whose sheaf has ended: DUPLICATE if it was consumed; else the first takes its
place, accepted now (R427), unless its session has ended. -/
def State.freeDuplicates (s : State) (h seq : Nat) (consumed : Bool) : State :=
  let dups := s.dp.sheafs.filter fun y => y.phase == .duplicate && y.session == h && y.seq == seq
  if consumed then
    dups.foldl (fun s y => State.modSheaf s y.no fun y => { y with phase := .finished Status.duplicate.code }) s
  else match leastBy Sheaf.no dups with
    | none => s
    | some y =>
      if (s.session h).any fun z => z.state != .ended then
        (s.modSheaf y.no fun y => { y with phase := .held, ledger := true }).noteEpoch y.bay (s.tablesOf y) y.epoch
      else dups.foldl (fun s y => s.dropSheaf y.no) s

/-- The ranges of a completed lookup sheaf become a step of each of its tables' outputs (R124, R126). The history is kept whatever
the output's discovery is (DEDUCED, log 143). -/
def State.outputStep (s : State) (x : Sheaf) : State :=
  (distinct (x.sections.map Section.table)).foldl (fun s id =>
    let l := (x.sections.filter fun g => g.table == id).map Section.ranges
    s.modTable x.bay id fun t => t.setPoint 4 ((t.point 4).step t.desc.dim (joinRanges t.desc.dim l))) s

/-- The sheafs that wait for an update sheaf which is acknowledged now note, for the tables it names, the reads put before this instant
(R377). -/
def State.clearBarriers (s : State) (no : Nat) (tables : List Nat) : State :=
  { s with dp.sheafs := s.dp.sheafs.map fun y =>
      if y.u.any fun z => z.1 == no then
        { y with cleared := tables.foldl (fun l t => putKey Prod.fst (t, s.dp.nextRead) l) y.cleared }
      else y }

/-- What follows when a sheaf has completed: it is no longer in flight. -/
def State.leaveSheaf (s : State) (no : Nat) : State :=
  match s.sheaf no with
  | none => s
  | some x =>
    let tables := s.tablesOf x
    let good := x.phase == .working || x.phase == .finished 0
    let s := if x.isUpdate then s.clearBarriers no tables else s
    let s : State := { s.dropSheaf no with dp.scans := s.dp.scans.filter fun y => y.sheaf != no }
    let s := (s.count x.bay 1 1).count x.bay 3 (flag (x.isUpdate && good))
    let s := if !x.isUpdate && good then s.outputStep x else s
    let s := if x.isUpdate then tables.foldl (fun s t => State.closeEpochs s x.bay t) s else s
    let s :=
      if x.ledger then
        let s := if x.consumes then s.modSession x.session fun y => { y with ledger := y.ledger.consume x.seq } else s
        (s.freeDuplicates x.session x.seq x.consumes).releaseAll x.session
      else s
    if (s.session x.session).any fun y => y.state == .ended then s.retireQps x.session else s

/-! ### Placement (R225, R495, R564) -/

/-- A tether placement whose region check failed (R564). -/
def State.tetherFail (s : State) (b id key : Nat) : State :=
  (((s.tthCount 2).tthEvent 0).placeFail b).raise 0x0901 1 (some b) none (leBytes 8 id ++ leBytes 4 key)

/-- The queue pair on which a sheaf's placement goes, chosen when it begins (R495). -/
def State.placeQp (s : State) (x : Sheaf) : Option Qp :=
  if x.placing then (x.qpn.bind s.qp).filter fun q => q.error.isNone
  else match x.origin with
    | .net n => match (s.qp n).filter fun q => q.error.isNone with
      | some q => some q
      | none => s.lowestRts x.session
    | _ => none

/-- The key whose region check fails at the start of a tether placement (R564): that of the results, if there are any, then
the completion record's. -/
def State.keyBad (s : State) (x : Sheaf) (results : Bool) : Option Nat :=
  let n := sumBy Section.allotment x.sections
  if results && !s.regionHolds x.bay x.resultKey x.resultOff n true then some x.resultKey
  else if !s.regionHolds x.bay x.completionKey x.completionOff 32 true then some x.completionKey
  else none

/-- What a placement finds. -/
inductive PlaceAt where
  /-- The cap of the port holds it back for now (R64). -/
  | wait
  | failed (s : State)
  | net (q : Qp)
  | host
  | nowhere

/-- Where the next write of a sheaf goes. -/
def State.placeAt (s : State) (x : Sheaf) (results : Bool) : PlaceAt :=
  match x.origin with
  | .lost => .nowhere
  | .net _ => match s.placeQp x with
    | none => .failed (s.placeFail x.bay)
    | some q => if s.mayServe x.bay (26 + q.port) then .net q else .wait
  | .tether =>
    if s.ridgeLost && x.crew / 16 = 1 then .failed (s.placeFail x.bay)
    else match s.keyBad x results with
      | some k => .failed (s.tetherFail x.bay x.id k)
      | none => .host

/-- Whether a section has been pooled and converted, and pooled again if it had to be. -/
def Section.final (g : Section) : Bool := g.whole && !g.needsRedo

/-- A section as it is placed: under first-pass discovery with the scales of its whole range (R127), also where no bag was held. -/
def Section.scaled (g : Section) : Section := if (g.tab.point 4).policy.discovery = 2 && g.final then g.findScales else g

/-- RESULT_PLACEMENT (R220, R224, R226, R495, R565): the next section of a pooled sheaf is placed. -/
def execResultPlacement (sheaf : Nat) (s : State) : Out :=
  .next <| match s.sheaf sheaf with
  | none => s
  | some x0 =>
    if x0.isUpdate || x0.phase ≠ .working then s
    else
      let k := x0.sections.findIdx fun g => !g.placed
      let s' := s.modSection sheaf k Section.scaled
      match s'.sheaf sheaf with
      | none => s
      | some x => match x.sections[k]? with
        | none => s
        | some g =>
          if !g.final then s
          else
            let off := x.resultOff + x.sectionOff k
            let mark := fun (s : State) (qpn : Option Nat) =>
              (s.modSheaf sheaf fun x => { x with placing := true, qpn := qpn }).modSection sheaf k fun g => { g with placed := true }
            match s'.placeAt x true with
            | .wait => s
            | .failed s => s.leaveSheaf sheaf
            | .net q => mark (s'.rdmaSend q off x.resultKey g.placedBytes (work := some x.no) (die := x.crew / 16)) (some q.qpn)
            | .host =>
              if !s.hostMay x.bay (x.crew / 16) g.placedBytes.length then s
              else mark (s'.hostPlace x.resultKey off g.placedBytes s.tth.resultRo (x.crew / 16)) none
            | .nowhere => mark s' none

/-! ### The completion record (R227, R389) -/

/-- The status with which a sheaf is ready to complete. -/
def Sheaf.readyStatus (x : Sheaf) : Option Nat :=
  match x.phase with
  | .finished st => some st
  | .working => if !x.isUpdate && x.sections.all Section.placed then some 0 else none
  | _ => none

/-- The flags of a completion record. -/
def Sheaf.flags (x : Sheaf) : Nat :=
  if x.isUpdate then 8
  else flag (x.sections.any Section.widened) + 2 * flag (x.sections.any fun g => (List.range g.bags).any fun b => g.bagLen b == 0) +
    4 * flag (x.sections.any fun g => g.tab.desc.relaxed)

/-- A field of `w` bits that stops at its all-ones value. -/
def capped (w n : Nat) : Nat := min n (2 ^ w - 1)

/-- The 32 bytes of a completion record issued at an instant. A lookup that places nothing reports no counts. -/
def Sheaf.record (x : Sheaf) (status now : Nat) : List Byte :=
  let counts := x.isUpdate || status = 0
  let n := fun (w k : Nat) => if counts then capped w k else 0
  leBytes 8 x.id ++ leBytes 2 status ++ leBytes 1 x.flags ++ zeros 1 ++ leBytes 4 (n 32 x.chaffed) ++ leBytes 4 (n 32 x.defaulted) ++
    leBytes 4 (n 32 x.saturated) ++ timeBytes now ++ leBytes 2 (if bit x.flags 2 then n 16 x.stale else 0)

/-- A sheaf with the sections its flags speak of, which one that ended before its job has not read (R227); those of an unknown version
cannot be. -/
def State.withSections (s : State) (x : Sheaf) : Sheaf :=
  if x.sections.isEmpty && !x.isUpdate && x.phase != .finished Status.version.code then x.loaded (s.sectionsOf x).1 else x

/-- Whether the contexts of a faulted GLEAN job still fetch what it has emitted (R299): its sheaf stays until they are done. -/
def State.stillFetches (s : State) (no : Nat) : Bool :=
  ((s.sheaf no).any fun x => !x.isUpdate) && s.dp.contexts.any fun y => y.sheaf == no && y.faulted

/-- COMPLETION_RECORD (R229, R41): the record follows the sheaf's last result, and the sheaf has completed. -/
def execCompletionRecord (sheaf : Nat) (s : State) : Out :=
  .next <| match s.sheaf sheaf with
  | none => s
  | some x => match x.readyStatus.filter fun _ => !s.stillFetches sheaf with
    | none => s
    | some st =>
      let rec_ := (s.withSections x).record st s.dev.now
      match s.placeAt x false with
      | .wait => s
      | .failed s => s.leaveSheaf sheaf
      | .net q => (s.rdmaSend q x.completionOff x.completionKey rec_ (work := some x.no) (die := x.crew / 16)).leaveSheaf sheaf
      | .host =>
        if !s.hostMay x.bay (x.crew / 16) 32 then s
        else
        let s' := s.hostPlace x.completionKey x.completionOff rec_ false (x.crew / 16)
        let s' := match (s.region x.completionKey).bind Region.msix with
          | some v => s'.countVec v
          | none => s'
        s'.leaveSheaf sheaf
      | .nowhere => s.leaveSheaf sheaf

end Sys2Proof.Machine
end

