-- ==== Sys2Proof/Machine/Tally.lean ====
section
/-! DEFINITION. The tally (R402 to R405), the acknowledgement of update sheafs (R46, R422), and the ledger channels between
packages, at the sender and at the owner (R419 to R423). -/

namespace Sys2Proof.Machine

/-! ### What a contribution is aimed at (R171, R403, R535) -/

/-- Where an entry sends an update, by itself. -/
def Entry.resolved (e : Entry) : Resolved :=
  if !e.valid then .default
  else if e.isAlias then .aliasTo
  else if e.home = 3 then .forward (bits e.addr 32 16)
  else .place e.home e.tier e.addr

/-- The resolution of an update's row: as R171, always at the first candidate, by the row's entry as it was where the work began
before the entry changed (R403). -/
def State.aimAt (s : State) (b die gen : Nat) (t : Tab) (m : ShardMap) (row : Nat) (was : Option Nat) : Resolved :=
  if t.desc.rows ≤ row then .default
  else match candidates m row with
    | [] => .default
    | e :: _ =>
      if !s.isSelf e.owner then .forward e.owner
      else match was with
        | some w => (entryOf w).resolved
        | none => s.resolve [] b die gen t { m with entries := [e] } (some row)

/-- Where a contribution goes: a row or the default row here, an owner, or nowhere; and whether it counts as defaulted or as
alias. -/
inductive Target where
  | row (r : Nat)
  | default
  | node (n r : Nat)
  | none
deriving DecidableEq, Repr

/-- The target of a contribution, with its defaulted and alias counts (R176, R398, R403). -/
def State.target (s : State) (b die gen : Nat) (t : Tab) (m : ShardMap) (row : Nat) (was : Option Nat) (toDefault : Bool) :
    Target × Nat × Nat :=
  let dflt : Target := if t.desc.gradAccumulate && t.desc.defaultConfigured then .default else .none
  if toDefault then (dflt, 1, 0)
  else match s.aimAt b die gen t m row was with
    | .default => (dflt, 1, 0)
    | .aliasTo => (dflt, 0, 1)
    | .forward n => (.node n row, 0, 0)
    | _ => (.row row, 0, 0)

def State.countTable (s : State) (b table : Nat) (f : TabCounters → TabCounters) : State :=
  s.modTable b table fun t => { t with counters := f t.counters }

/-! ### Grouping and coalescing (R263, R399, R403, R404) -/

/-- The section whose table a contribution names. -/
def Sheaf.sectionFor (x : Sheaf) (table : Nat) : Option Section := x.sections.find? fun g => g.table == table

/-- Whether a table's entries mix ops (R401). -/
def mixedOps (l : List Contrib) : Bool := l.any fun c => l.any fun d => d.table == c.table && d.op != c.op

/-- Elements of CONTRIB entries that are not finite, by table. -/
def nonFinite (l : List Contrib) (table : Nat) : Nat :=
  sumBy (fun (c : Contrib) => if c.table = table && c.op = 0 then (c.vals.filter fun v => !isFinite32 v).length else 0) l

/-- A group's contributions in ascending order_key, then in order of emission (R403, R404). -/
def inOrderOf (l : List Contrib) : List Contrib := sortBy Contrib.key (sortBy Contrib.seq l)

/-- The groups of a sheaf's contributions, in the order of their first entries: a WRITE group yields its last values at once (R404), the
others are chains whose elements that are not finite count as +0.0 (R399). -/
def talliesOf (aimed : List (Contrib × Target)) : List Tallied :=
  let good := aimed.filter fun a => a.2 != .none
  (distinctKeys (good.map fun a => (a.1.table, a.2))).map fun k =>
    let mine := inOrderOf ((good.filter fun a => a.1.table == k.1 && a.2 == k.2).map Prod.fst)
    let w := mine.any fun c => c.op == 1
    let (row, node) : Option Nat × Option Nat := match k.2 with
      | .row r => (some r, none)
      | .node n r => (some r, some n)
      | _ => (none, none)
    let last := ((mine.getLast?).map Contrib.vals).getD []
    { group := ⟨k.1, row, node, w, last⟩
      parts := if w then [] else mine.map fun c => c.vals.map fun v => if isFinite32 v then v else 0
      out := w }

/-! ### Ledger messages (R420, R422) -/

/-- The header of a ledger message. -/
def ledgerHead (kind flags bay origin owner seq records table op epoch dim last : Nat) : List Byte :=
  leBytes 1 kind ++ leBytes 1 flags ++ leBytes 2 bay ++ leBytes 2 origin ++ leBytes 2 owner ++ leBytes 4 seq ++ leBytes 4 records ++
    leBytes 2 table ++ leBytes 2 op ++ leBytes 4 epoch ++ leBytes 4 dim ++ leBytes 4 last

/-- Records that a message of a table can carry. -/
def recordsFit (d : Nat) : Nat := (65536 - 32) / (8 + 4 * d)

def State.channel (s : State) (b node : Nat) : Channel :=
  (s.fab.channels.find? fun c => c.bay == b && c.node == node).getD ⟨b, node, 0, []⟩

def State.putChannel (s : State) (c : Channel) : State :=
  { s with fab.channels := c :: s.fab.channels.filter fun x => !(x.bay == c.bay && x.node == c.node) }

/-- The retention area's traffic (R423). -/
def State.chargeRetention (s : State) (b die n : Nat) (isWrite : Bool) : State :=
  match ((s.bay b).space.retention.getD die []).head? with
  | some r => s.chargeAccess b die 1 r.first (granulesOf n) isWrite
  | none => s

/-- Whether a message of `n` bytes can be retained and numbered (R422). -/
def State.canRetain (s : State) (b die node n : Nat) : Bool :=
  decide ((s.channel b node).sent.length < 4096) && decide (s.retained b die + n ≤ (s.bay b).core.retentionMiB * 2 ^ 20)

/-- Groups of one table, op and owner as one message: sent, retained and counted against its sheaf. -/
def State.sendContrib (s : State) (x : Sheaf) (node : Nat) (l : List Group) : State :=
  match l.head? with
  | none => s
  | some g =>
    let b := x.bay
    let die := x.crew / 16
    let c := s.channel b node
    let seq := c.nextSeq % 2 ^ 32
    let msg := ledgerHead 1 0 b s.selfNumber node seq l.length g.table (flag g.isWrite) x.epoch g.vals.length 0 ++
      l.flatMap fun g => leBytes 8 (g.row.getD 0) ++ g.vals.flatMap (leBytes 4)
    let path := s.pathTo node seq []
    let s := s.putChannel { c with nextSeq := (seq + 1) % 2 ^ 32, sent := c.sent ++ [⟨seq, x.no, die, msg, s.dev.now, 0, path, none⟩] }
    let s := s.modSheaf x.no fun x => { x with messages := x.messages + 1 }
    (s.chargeRetention b die msg.length true).sendFabric (some b) die node path msg

/-- The leading groups that go into one message with the first. -/
def takeMessage (g : Group) (l : List Group) : List Group × List Group :=
  let same := fun (h : Group) => h.table == g.table && h.node == g.node && h.isWrite == g.isWrite
  let mine := (l.filter same).take (recordsFit g.vals.length)
  (mine, l.filter fun h => !mine.contains h)

/-- The remote groups of a sheaf submitted in messages until one finds no room (R422). The first argument bounds the
messages. -/
def State.submitRemote : Nat → Nat → State → State
  | 0, _, s => s
  | f + 1, no, s =>
    match s.sheaf no with
    | none => s
    | some x => match x.groups with
      | [] => s
      | g :: _ =>
        let node := g.node.getD 0
        let (mine, rest) := takeMessage g x.groups
        let n := 32 + mine.length * (8 + 4 * g.vals.length)
        if s.canRetain x.bay (x.crew / 16) node n then
          let s := s.sendContrib x node mine
          State.submitRemote f no (s.modSheaf no fun x => { x with groups := rest })
        else if (s.bay x.bay).work.retainStall then s  -- the stall goes on
        else (s.modBay x.bay fun y => { y with work := { y.work with retainStall := true } }).raise 0x0603 1 (some x.bay) none
          (leBytes 2 node ++ zeros 2 ++ leBytes 4 (s.channel x.bay node).sent.length)

/-- Whether a sheaf of a bay has groups that have still to be submitted. -/
def State.unsent (s : State) (b : Nat) : Option Sheaf := s.dp.sheafs.find? fun x => x.bay == b && x.phase == .applying && !x.groups.isEmpty

/-- Sheafs of a bay with groups that have still to be submitted go on in order, up to one that finds no room. -/
def State.submitRest (b : Nat) : Nat → State → State
  | 0, s => s
  | n + 1, s => match s.unsent b with
    | none => s
    | some x =>
      let s := State.submitRemote (x.groups.length + 1) x.no s
      if (s.sheaf x.no).any fun y => !y.groups.isEmpty then s else State.submitRest b n s

/-- Submission goes on when a message is acknowledged; the stall is over when nothing waits any more (R422). -/
def State.submitMore (s : State) (b : Nat) : State :=
  let s := State.submitRest b s.dp.sheafs.length s
  if (s.unsent b).isSome then s else s.modBay b fun y => { y with work := { y.work with retainStall := false } }

/-! ### TALLY -/

/-- Whether a sheaf has an operation whose submission to a flail is stalled (R407). -/
def State.stalledFor (s : State) (no : Nat) : Bool :=
  s.dp.flails.any fun f => f.stalled.any fun op => match op with
    | .update (some n) .. => n == no
    | _ => false

/-- Whether every contribution of the session's earlier sheafs has been submitted (R405). -/
def State.turnOf (s : State) (x : Sheaf) : Bool :=
  match s.session x.session with
  | none => true
  | some y => (s.ledgerSheafs x.session).all fun z =>
      decide (y.ledger.ahead x.seq ≤ y.ledger.ahead z.seq) || (match z.phase with
        | .finished _ => true
        | .applying => z.groups.isEmpty && !s.stalledFor z.no
        | _ => false)

/-- Whether every entry of an update sheaf's job has been executed. -/
def State.expanded (s : State) (x : Sheaf) : Bool := !s.dp.contexts.any fun y => y.sheaf == x.no && y.crew.isSome

/-- The entry of a row as it was when the sheaf was dispatched, where it has changed since. -/
def Sheaf.before (x : Sheaf) (table row : Nat) : Option Nat := (x.was.find? fun w => w.1 == table && w.2.1 == row).map fun w => w.2.2

/-- The contributions of a sheaf aimed, with their counts. -/
def State.aimAll (s : State) (x : Sheaf) : List (Contrib × Target) × State :=
  x.contribs.foldl (fun (acc : List (Contrib × Target) × State) c =>
    match x.sectionFor c.table with
    | none => acc
    | some g =>
      let die := x.crew / 16
      let (t, d, al) := State.target acc.2 x.bay die (natAt x.gens die) g.tab g.tab.map c.row (x.before c.table c.row) c.toDefault
      let s := acc.2.countTable x.bay c.table fun k =>
        { k with
          defaulted := satAdd 64 k.defaulted d
          aliased := satAdd 64 k.aliased al
          discarded := satAdd 64 k.discarded (flag (t == .none)) }
      (acc.1 ++ [(c, t)], s.modSheaf x.no fun x => { x with defaulted := x.defaulted + d })) ([], s)

/-- Coalesced contributions of this package's rows handed to their flails (R406, R407). -/
def State.submitLocal (s : State) (x : Sheaf) (l : List Group) : State :=
  l.foldl (fun s g =>
    match State.table s x.bay g.table, x.sectionFor g.table with
    | some t, some sec => s.toFlail (State.flailFor s x.bay t g.row)
        (.update (some x.no) none x.bay g.table g.row g.isWrite g.vals x.epoch sec.tab.opt)
    | _, _ => s.modSheaf x.no fun x => { x with ops := x.ops - 1 }) s

/-- A sheaf whose groups have all been coalesced is submitted (R405): this package's to their flails, the others in ledger messages. -/
def State.submitSheaf (s : State) (x : Sheaf) : State :=
  let groups := x.tally.map Tallied.group
  let here := groups.filter fun g => g.node.isNone
  let away := groups.filter fun g => g.node.isSome
  let s := s.modSheaf x.no fun x => { x with phase := .applying, tally := [], ops := here.length, groups := away }
  let s := s.submitLocal x here
  if (s.bay x.bay).work.retainStall then s else State.submitRemote (away.length + 1) x.no s

/-- Sheafs of a bay that have been tallied are submitted as their turn comes (R405). The first argument bounds them. -/
def State.submitTallied : Nat → Nat → State → State
  | 0, _, s => s
  | n + 1, b, s =>
    match s.dp.sheafs.find? fun x => x.bay == b && x.phase == .tallying && x.tally.all Tallied.out && s.turnOf x with
    | none => s
    | some x => State.submitTallied n b (s.submitSheaf x)

def State.submitDue (s : State) (b : Nat) : State := State.submitTallied s.dp.sheafs.length b s

/-- TALLY (R402 to R405): the contributions of an update sheaf whose entries have all been executed are grouped for coalescing. One that
has been coalesced is submitted if its turn has come meanwhile. -/
def execTally (sheaf : Nat) (s : State) : Out :=
  .next <| match s.sheaf sheaf with
  | none => s
  | some x =>
    if x.phase = .tallying then s.submitDue x.bay
    else if !x.isUpdate || x.phase ≠ .working || !s.expanded x then s
    else if x.bad || mixedOps x.contribs then
      (s.modSheaf sheaf fun x => { x with phase := .finished Status.range.code, contribs := [], bad := false }).submitDue x.bay
    else
      let s := (distinct (x.contribs.map Contrib.table)).foldl (fun s t => State.countNonFinite s x.bay t (nonFinite x.contribs t)) s
      let (aimed, s) := s.aimAll x
      (s.modSheaf sheaf fun y => { y with phase := .tallying, contribs := [], was := [], tally := talliesOf aimed }).submitDue x.bay

/-! ### Groups in the threshers (R263) -/

def State.tallyAt (s : State) (no i : Nat) : Option (Sheaf × Tallied) :=
  (s.sheaf no).bind fun x => (x.tally[i]?).map fun t => (x, t)

/-- A group receives its slots in the filling tile of a thresher of its die. -/
def State.allotGroup (s : State) (thresher no i : Nat) : State :=
  match s.tallyAt no i with
  | none => s
  | some (x, y) =>
    let t := s.thresher thresher
    let free := t.freeSlots t.filling
    let d := y.group.vals.length
    if x.phase ≠ .tallying || y.out || s.allotted (.tally no i) || x.crew / 16 ≠ thresherDie thresher || t.matrix.isSome ||
        !s.domainA0 (quadDomain thresher) || free.length < slicesOf d then s
    else (s.modThresher thresher fun t =>
      { t with bags := t.bags ++ [newRun (.tally no i) t.filling (free.take (slicesOf d)) (newChains d)] }).noteReady thresher

/-- A pass of a group's chain: up to 16 of its contributions, with weight 1.0 (R208, R209). -/
def State.passGroup (s : State) (thresher k slice no i : Nat) (c : Chain) : State :=
  match s.tallyAt no i with
  | none => s
  | some (x, y) =>
    let now := (y.parts.drop c.next).take 16
    if now.isEmpty then s
    else
      let comp := ((x.sectionFor y.group.table).map fun g => g.tab.pool.compensated).getD false
      let ls := now.foldl (fun ls v => ls.zipIdx.map fun l => foldSum comp l.1 f32One (natAt v (128 * slice + l.2))) c.lanes
      s.enterPass thresher k slice x.bay ls (c.next + now.length) id

/-- The coalesced contribution of a drained group: an element whose sum is not finite is +0.0 and counted as in R399 (R413); with an
uncorrectable slot error all are zeros (R265). -/
def State.drainGroup (s : State) (n : Nat) (r : BagRun) (no i : Nat) : State :=
  match s.tallyAt no i with
  | none => s
  | some (x, y) =>
    let comp := ((x.sectionFor y.group.table).map fun g => g.tab.pool.compensated).getD false
    let sums := if r.broken.isSome then List.replicate y.group.vals.length 0 else (r.chains.flatMap Chain.lanes).map fun l => Lane.sum comp l
    let vals := sums.map fun v => if isFinite32 v then v else 0
    let s := s.countNonFinite x.bay y.group.table (sums.filter fun v => !isFinite32 v).length
    let s := match r.broken with
      | some slot => s.raise 0x0501 2 (some x.bay) (some (thresherDie n)) (leBytes 1 n ++ leBytes 1 r.tile ++ leBytes 1 slot)
      | none => s
    (s.modSheaf no fun x => { x with
      tally := x.tally.modify i fun t => { t with group := { t.group with vals := vals }, out := true } }).submitDue x.bay

/-- UPDATE_ACKNOWLEDGE (R46, R422): every operation has ended and every message has been acknowledged. -/
def execUpdateAcknowledge (sheaf : Nat) (s : State) : Out :=
  .next <| match s.sheaf sheaf with
  | none => s
  | some x =>
    if x.phase = .applying && x.ops = 0 && x.messages = 0 && x.groups.isEmpty then
      s.modSheaf sheaf fun x => { x with phase := .finished Status.ok.code }
    else s

/-! ### The owner (R420, R421) -/

/-- A node of the roster other than this one (R87). -/
def State.admitted (s : State) (node : Nat) : Bool := !s.isSelf node && s.net.muster.roster.any fun m => m.number == node

/-- A message of a kind between two packages whose bytes 0 to 7 are good; `origin` says which of them this package is. -/
def State.envelopeOk (s : State) (msg : List Byte) (kind flags : Nat) (origin : Bool) : Bool :=
  decide (32 ≤ msg.length) && decide (msg.length ≤ 65536) && u8At msg 0 == kind && u8At msg 1 &&& (255 - flags) == 0 &&
    decide (u16At msg 2 ≤ 15) && (if origin then s.isSelf (u16At msg 4) && s.admitted (u16At msg 6)
      else s.admitted (u16At msg 4) && s.isSelf (u16At msg 6))

/-- The checks of a CONTRIB message (R420). -/
def State.contribOk (s : State) (m : List Byte) : Bool :=
  let n := u32At m 12
  let d := u32At m 24
  s.envelopeOk m 1 1 false && decide (u16At m 16 < 4096) &&
    (s.table (u16At m 2) (u16At m 16)).all (fun t => t.desc.dim == d) && decide (u16At m 18 ≤ 1) && zeroAt m 28 4 &&
    m.length == 32 + n * (8 + 4 * d) && (List.range n).all fun i => bits (u64At m (32 + i * (8 + 4 * d))) 40 24 == 0

/-- The checks of an ACK (R420). -/
def State.ackOk (s : State) (m : List Byte) : Bool :=
  s.envelopeOk m 2 3 true && m.length == 32 && zeroAt m 12 4 && zeroAt m 16 2 && decide (u16At m 18 ≤ 0x000D)

def State.owner (s : State) (b node : Nat) : OwnerChannel :=
  (s.fab.owners.find? fun c => c.bay == b && c.node == node).getD ⟨b, node, 0, []⟩

def State.putOwner (s : State) (c : OwnerChannel) : State :=
  { s with fab.owners := c :: s.fab.owners.filter fun x => !(x.bay == c.bay && x.node == c.node) }

def State.modInbound (s : State) (b node seq : Nat) (f : Inbound → Inbound) : State :=
  let c := s.owner b node
  s.putOwner { c with msgs := c.msgs.map fun m => if m.seq = seq then f m else m }

/-- An ACK sent to the sender of a message (R421). -/
def State.sendAck (s : State) (b node seq flags status defaulted failed saturated : Nat) : State :=
  let path := s.pathTo node seq []
  s.sendFabric (some b) path.die node path
    (ledgerHead 2 flags b node s.selfNumber seq 0 0 status (capped 32 defaulted) (capped 32 failed) (capped 32 saturated))

/-- One record of a message applied: the operations it becomes, and its defaulted count (R171, R176, R537). -/
def State.applyRecord (s : State) (b node seq : Nat) (t : Tab) (isWrite : Bool) (epoch row : Nat) (vals : List Nat) : State :=
  let owns := decide (t.desc.rows ≤ row) || s.owns t.map row
  let s := if owns then s else s.raise 0x0808 1 (some b) none (leBytes 2 t.id ++ leBytes 2 node ++ leBytes 8 row)
  let mine : ShardMap := { t.map with entries := t.map.entries.filter fun e => s.isSelf e.owner }
  let (tg, d, al) := s.target b 0 (s.hotDie b 0).gen t mine row none false
  let (tg, d) := match tg with
    | .node .. => ((if t.desc.gradAccumulate && t.desc.defaultConfigured then Target.default else .none), 1)
    | x => (x, d)
  let s := s.countTable b t.id fun k =>
    { k with
      defaulted := satAdd 64 k.defaulted d
      aliased := satAdd 64 k.aliased al
      discarded := satAdd 64 k.discarded (flag (tg == .none)) }
  let s := s.modInbound b node seq fun m => { m with defaulted := m.defaulted + d, left := m.left + flag (tg != .none) }
  let sub := fun (r : Option Nat) => s.toFlail (s.flailFor b t r) (.update none (some (node, seq)) b t.id r isWrite vals epoch t.opt)
  match tg with
  | .row r => sub (some r)
  | .default => sub none
  | _ => s

/-- A message whose turn has come is applied (R421): every record to its row's flail; one for a table that the bay does not
hold here is refused (R88). -/
def State.applyMessage (s : State) (b node : Nat) (m : Inbound) : State :=
  let s := s.modInbound b node m.seq fun m => { m with applying := true }
  let n := u32At m.data 12
  let d := u32At m.data 24
  let id := u16At m.data 16
  match (s.table b id).filter fun t => t.desc.dim == d with
  | none =>
    let st := if s.bayState b = .absent then Status.noBay else .range
    (s.modInbound b node m.seq fun m => { m with status := st.code, failed := n }).raise 0x0C01 1 (some b) none
      (leBytes 1 5 ++ zeros 3 ++ leBytes 8 id)
  | some t =>
    (List.range n).foldl (fun s i =>
      let o := 32 + i * (8 + 4 * d)
      State.applyRecord s b node m.seq t (u16At m.data 18 == 1) (u32At m.data 20) (bits (u64At m.data o) 0 40)
        (items d fun j => u32At m.data (o + 8 + 4 * j))) s

/-- Held messages that every lower number has reached are applied, in order. The first argument bounds them. -/
def State.applyReady : Nat → Nat → Nat → Nat → State → State
  | 0, _, _, _, s => s
  | f + 1, b, node, k, s =>
    let c := s.owner b node
    match c.msgs.find? fun m => m.seq == (c.next + k) % 2 ^ 32 with
    | none => s
    | some m => State.applyReady f b node (k + 1) (if m.applying then s else s.applyMessage b node m)

/-- A ledger CONTRIB message received (R421). -/
def State.ledgerContrib (s : State) (m : List Byte) : State :=
  if !s.contribOk m then { s with fab.malformedLedger := s.fab.malformedLedger + 1 }
  else
    let b := u16At m 2
    let node := u16At m 4
    let seq := u32At m 8
    let c := s.owner b node
    let ahead := (seq + 2 ^ 32 - c.next) % 2 ^ 32
    match c.msgs.find? fun x => x.seq == seq with
    | some x => if x.done then s.sendAck b node seq 2 0 0 0 0 else s.modInbound b node seq fun x => { x with duplicates := x.duplicates + 1 }
    | none =>
      if 2 ^ 31 ≤ ahead then s.sendAck b node seq 2 0 0 0 0
      else if 4096 ≤ ahead then s
      else
        let s := s.putOwner { c with msgs := c.msgs ++ [⟨seq, m, false, false, 0, 0, 0, 0, 0, 0⟩] }
        State.applyReady 4096 b node 0 s

/-- The read of this package that an answer is for. -/
def State.answerRead (s : State) (m : List Byte) : Option Read :=
  if u8At m 0 == 4 || u8At m 0 == 6 || u8At m 0 == 7 then
    s.dp.reads.find? fun r => r.space == 3 && r.id % 2 ^ 32 == u32At m 8 && r.bay == u16At m 2 % 16
  else none

/-- A message received on a yoke (1 to 4): charged to the carried bay and counted (R62, R512, R660), as debt on the wicket path (R66);
an answer to a read of the other die crosses the ridge (R23). -/
def State.yokeIn (s : State) (link : Nat) (m : List Byte) (mine : Bool) : State :=
  let b := u16At m 2 % 16
  let r := if mine then s.answerRead m else none
  let wicket := r.any Read.isWicket
  let s := (s.chargeFor (some b) wicket (17 + 2 * link) (flitBytes m.length)).count (0x400 + link) 1 (flitBytes m.length / 256)
  match r.bind fun r => crossing (linkDie link) r.die with
  | some p => s.cross (some b) wicket p 1 m.length
  | none => s

/-- Credit for a message taken from a yoke goes back to its sender (R513). -/
def State.creditBack (s : State) (link : Nat) (m : List Byte) : State :=
  if m.isEmpty then s else s.emit (.linkCredit link (fabricClass (u8At m 0)) (flitsOf m.length))

/-- Whether a message waits in the incoming queue of a die (R530), which decides when its credit goes back. -/
def isRequest (m : List Byte) : Bool := u8At m 0 == 3 || u8At m 0 == 5

/-- Whether a kind of message goes to the origin: responses, acknowledgements and errors (R420, R521). -/
def toOrigin (kind : Nat) : Bool := kind == 2 || kind == 4 || kind == 6 || kind == 7

/-- A message for another member of the rick passed on unchanged, over the ridge if needed, charged to its bay at each link
(R526, R529); one that no yoke leads to is discarded. -/
def State.relayOn (s : State) (link dst : Nat) (m : List Byte) : State :=
  match s.yokesTo dst with
  | [] => s
  | y :: _ => s.sendFabric (some (u16At m 2 % 16)) (linkDie link) dst (.yoke y) m

/-- A fabric message that arrived on a yoke link which carries messages from an admitted partner (R518), handled by `f` where
it is for this package, which settles the credit of a request for itself (R513, R530). -/
def State.onYoke (s : State) (link : Nat) (m : List Byte) (f : State → State) : Out :=
  if link = 0 || 4 < link then .fault .noSuchUnit
  else .next (
    let l := s.link link
    if l.state.carries && (s.numberOf l.partner).isSome then
      let dst := u16At m (if toOrigin (u8At m 0) then 4 else 6)
      let mine := s.isSelf dst || !s.net.muster.roster.any fun x => x.number == dst
      let s := s.yokeIn link m mine
      if mine then f (if isRequest m then s else s.creditBack link m)
      else (s.creditBack link m).relayOn link dst m
    else s)

/-- LEDGER_CONTRIB (R421): a CONTRIB message on a yoke. -/
def execLedgerContrib (link : Nat) (msg : List Byte) (s : State) : Out := s.onYoke link msg fun s => s.ledgerContrib msg

/-- The lowest number past every message that has been acknowledged. -/
def OwnerChannel.advance : Nat → OwnerChannel → OwnerChannel
  | 0, c => c
  | f + 1, c =>
    if c.msgs.any fun m => m.seq == c.next && m.done then
      OwnerChannel.advance f { c with next := (c.next + 1) % 2 ^ 32, msgs := c.msgs.filter fun m => m.seq != c.next }
    else c

/-- LEDGER_ACK_SEND (R421): every record of a message has committed or been handled. -/
def execLedgerAckSend (bay node seq : Nat) (s : State) : Out :=
  .next <|
    let c := s.owner bay node
    match c.msgs.find? fun m => m.seq == seq with
    | none => s
    | some m =>
      if !m.applying || m.done || m.left ≠ 0 then s
      else
        let s := s.sendAck bay node seq 0 m.status m.defaulted m.failed m.saturated
        let s := (List.range m.duplicates).foldl (fun s _ => State.sendAck s bay node seq 2 0 0 0 0) s
        let s := s.modInbound bay node seq fun x => { x with done := true }
        s.putOwner ((s.owner bay node).advance 4097)

/-! ### The sender (R422, R423) -/

/-- An ACK received: retention of its message ends, its counts go to the message's sheaf, and staged copies of its rows are
invalidated (R380, R422). -/
def State.ledgerAck (s : State) (m : List Byte) : State :=
  if !s.ackOk m then { s with fab.malformedLedger := s.fab.malformedLedger + 1 }
  else
    let b := u16At m 2
    let c := s.channel b (u16At m 6)
    match c.sent.find? fun x => x.seq == u32At m 8 with
    | none => s
    | some x =>
      let s := s.putChannel { c with sent := c.sent.filter fun y => y.seq != x.seq }
      let rec_ := 8 + 4 * u32At x.data 24
      let s := (List.range (u32At x.data 12)).foldl (fun s i => s.dropStaged b (u16At x.data 16) (u64At x.data (32 + i * rec_))) s
      let s := s.modSheaf x.sheaf fun y =>
        { y with
          messages := y.messages - 1
          defaulted := y.defaulted + u32At m 20
          chaffed := y.chaffed + u32At m 24
          saturated := y.saturated + u32At m 28 }
      (s.submitMore b).submitDue b

/-- LEDGER_ACK (R422): an ACK on a yoke. -/
def execLedgerAck (link : Nat) (msg : List Byte) (s : State) : Out := s.onYoke link msg fun s => s.ledgerAck msg

/-- LEDGER_RETRANSMIT (R423): a message whose timeout has passed is sent again to its owner. -/
def execLedgerRetransmit (bay node seq : Nat) (s : State) : Out :=
  .next <|
    let c := s.channel bay node
    match c.sent.find? fun x => x.seq == seq with
    | none => s
    | some x =>
      if x.pausedAt.isSome || s.dev.now < x.sentAt + 1000 * (s.bay bay).work.e2eUs then s
      else
        let msg := x.data.set 1 (BitVec.ofNat 8 1)
        let path := s.pathTo node seq []
        let s := s.putChannel { c with sent := c.sent.map fun y =>
          if y.seq = seq then { y with data := msg, sentAt := s.dev.now, retries := y.retries + 1, path := path } else y }
        let s := (s.chargeRetention bay x.die msg.length false).sendFabric (some bay) x.die node path msg
        if x.retries + 1 = 8 then s.raise 0x0604 1 (some bay) none (leBytes 2 node ++ zeros 2 ++ leBytes 4 seq) else s

end Sys2Proof.Machine
end

