-- ==== Sys2Proof/Machine/Arrays.lean ====
section
/-! DEFINITION. The array of a thresher, whatever its work: allotment, passes, write-back and draining of bags, of groups of the tally
and of the rows of a matrix job (R234, R241 to R245, R249, R259, R263 to R266). -/

namespace Sys2Proof.Machine

/-- ALLOT (R241, R243, R259, R263): work receives its slots in the filling tile of a thresher. -/
def execAllot (thresher : Nat) (kind : WorkKind) (id : Nat) (part : Nat × Nat) (s : State) : Out :=
  if 31 < thresher then .fault .noSuchUnit
  else .next <| match kind.of id part with
  | .bag no k bag => s.allotBag thresher no k bag
  | .tally no i => s.allotGroup thresher no i
  | .matrix id block row => s.allotMatrix thresher id block row

/-- The bay that work is for. -/
def State.workBay (s : State) (w : Work) : Option Nat :=
  match w with
  | .bag no _ _ | .tally no _ => (s.sheaf no).map Sheaf.bay
  | .matrix id _ _ => (findKey Matrix.id s.dp.matrices id).map Matrix.bay

/-- Whether a chain has a pass to enter: the data of its next position, its next contributions, or its next k-group. -/
def State.chainWaits (s : State) (thresher : Nat) (w : Work) (slice : Nat) (c : Chain) : Bool :=
  c.flight.isNone && match w with
  | .bag no k bag => (s.sectionAt no k).any fun g => (s.passAux g.1 k g.2 bag slice 1 c.lanes c.next false 0).2.1 != c.next
  | .tally no i => (s.tallyAt no i).any fun y => decide (c.next < y.2.parts.length)
  | .matrix id block row => (s.matrixNext thresher id block row c).isSome

/-- The bays with a pass to enter, or a slice to read back, on a die: they compete for its thresher time (R62, R64, R262). -/
def State.passBays (s : State) (die : Nat) : List Nat :=
  ((List.range 32).filter fun n => thresherDie n == die).flatMap (fun n => (s.thresher n).bags.filterMap fun r =>
    if r.chains.zipIdx.any fun c => s.chainWaits n r.work c.2 c.1 then s.workBay r.work else none) ++
  ((s.dp.sheafs.filter fun x => x.crew / 16 == die && x.sections.any fun g => g.pooled && g.outs.any BagOut.isHeld).map Sheaf.bay)

/-- Whether the next pass of a die is one of a bay's (R64). -/
def State.mayPass (s : State) (die b : Nat) : Bool :=
  s.nextBay (34 + die) ((b :: s.passBays die).map fun k => (k, false)) == some b

/-- Errors that the read-back of a slice of a bag's held values meets in the crib (R318): granules of its row. The columns of an
uncorrectable one read as +0.0, the bag is chaffed, and the granule is counted for the section's context (R328). -/
def State.heldErrors (s : State) (x : Sheaf) (k : Nat) (g : Section) (o : BagOut) (fixed bad : List Nat) : State :=
  let inSlice := fun (l : List Nat) => l.filter fun i => decide (i < g.tab.heldGranules) && i / 8 == g.back
  let bad := inSlice bad
  let s := (inSlice fixed).foldl (fun s _ => State.dieCorrected s (x.crew / 16) 2) s
  if bad.isEmpty then s
  else
    let o := { o with vals := o.vals.zipIdx.map (fun v => if bad.contains (v.2 / 16) then 0 else v.1), status := o.status / 2 * 2 + 1 }
    (s.modSection x.no k fun g => { g with outs := putKey BagOut.bag o g.outs }).countChaff (some g.ctx) x.bay bad.length

/-- The slice read back; with a bag's last one the bag is converted. -/
def State.readSlice (s : State) (no k : Nat) (fixed bad : List Nat) : State :=
  let s := s.modSection no k Section.findScales
  match s.sectionAt no k with
  | none => s
  | some (x, g) =>
    let s := match g.outs.find? BagOut.isHeld with
      | some o => s.heldErrors x k g o fixed bad
      | none => s
    match s.sectionAt no k with
    | none => s
    | some (x, g) => match (g.outs.find? BagOut.isHeld).filter fun _ => slicesOf g.tab.desc.dim ≤ g.back + 1 with
      | none => s.modSection no k fun g => { g with back := g.back + 1 }
      | some o => (s.convertOut x k g o).modSection no k fun g => { g with back := 0 }

/-- A slice of held values read back, which counts as a pass (R249, R262), if the die's threshers take one of its bay next (R64). -/
def State.readBack (s : State) (thresher no k : Nat) (fixed bad : List Nat) : State :=
  match s.sectionAt no k with
  | none => s
  | some (x, g) =>
    let die := thresherDie thresher
    if !(g.outs.any BagOut.isHeld) || !g.pooled || x.crew / 16 ≠ die || !s.mayPass die x.bay then s
    else ((s.charge x.bay (34 + die) 1).count (0x500 + die) 0 1).readSlice no k fixed bad

/-- PASS (R234, R262): the next pass of a chain enters, if the regulator of its die's thresher time takes one of its bay next (R64). -/
def execPass (thresher bag : Nat) (p : PassSlice) (s : State) : Out :=
  if 31 < thresher then .fault .noSuchUnit
  else .next <| match (s.thresher thresher).bags[bag]? with
  | none => s
  | some r => match (r.chains[p.slice]?).filter fun c => c.flight.isNone with
    | none => s
    | some c => if !(s.workBay r.work).any (s.mayPass (thresherDie thresher)) then s else match r.work with
      | .bag no k n => s.passBag thresher bag p.slice no k n c p.fixed p.bad
      | .tally no i => s.passGroup thresher bag p.slice no i c
      | .matrix id block row => s.passMatrix thresher bag p.slice id block row c

/-- A pass leaves stage 15: its result goes back into the chain's slots. -/
def Chain.back (c : Chain) : Chain :=
  match c.flight with
  | some (ls, p) => ⟨ls, p, none⟩
  | none => c

/-- PASS_WRITEBACK (R234): a pass leaves stage 15. `fault` is 1 for a slot error that was corrected, 2 for one in slot `entry` that was not
(R265), 3 for a parity error of the decode store and 4 for one of a weight register at `entry`, which the `readers` have read too
(R266): the register is loaded again for the next pass that uses it. -/
def execPassWriteback (thresher bag slice fault : Nat) (e : StoreEntry) (s : State) : Out :=
  if 31 < thresher then .fault .noSuchUnit
  else .next <| match (s.thresher thresher).bags[bag]? with
  | none => s
  | some r => match (r.chains[slice]?).bind Chain.flight with
    | none => s
    | some _ =>
      let from_ := ((r.chains[slice]?).map Chain.next).getD 0
      let die := thresherDie thresher
      let s := s.modBag thresher bag fun r => { r with chains := r.chains.modify slice Chain.back }
      let parity := fun (store : Nat) =>
        ((bag :: e.readers).foldl (fun s i => State.modBag s thresher i fun r => { r with storeBad := true }) s).raise 0x0502 2
          (s.workBay r.work) (some die) (leBytes 1 thresher ++ leBytes 1 store ++ leBytes 2 e.entry)
      let s := match fault with
        | 1 => s.dieCorrected die 0
        | 2 => s.modBag thresher bag fun r => { r with broken := some e.entry }
        | 3 => parity 0
        | 4 => match r.work with
          | .matrix id block row => (parity 1).modThresher thresher fun t =>
              { t with weights := t.weights.filter fun w => !(w.job == id && w.block == block && w.group == row / 64 && w.k == from_) }
          | _ => parity 1
        | _ => s
      (match r.work with
        | .bag no k _ => s.releaseSlots no k false
        | _ => s).noteReady thresher

/-- The ready work of the draining tile whose turn it is (R245), with its place. -/
def Thresher.drains (t : Thresher) : Option (BagRun × Nat) :=
  leastBy (fun (b : BagRun × Nat) => b.1.ready.getD 0) (t.bags.zipIdx.filter fun b => b.1.tile != t.filling && b.1.ready.isSome)

/-- Some granules of a row replaced by zeros (R328). -/
def zeroGranules (bad : List Nat) (row : List Byte) : List Byte :=
  (chunks 64 row).zipIdx.flatMap fun c => if bad.contains c.2 then zeros c.1.length else c.1

/-- Errors that the read of a bag's fused operand meets in the crib (R318): granules of its row. An uncorrectable one reads as zeros
(R248) and is counted for the section's context (R328). -/
def State.operandErrors (s : State) (no k bag : Nat) (fixed bad : List Nat) : State :=
  match s.sectionAt no k with
  | none => s
  | some (x, g) =>
    if g.tab.pool.fuseOp = 0 then s
    else
      let inRow := fun (l : List Nat) => l.filter fun i => decide (i < g.tab.fuseGranules)
      let s := (inRow fixed).foldl (fun s _ => State.dieCorrected s (x.crew / 16) 2) s
      if (inRow bad).isEmpty then s
      else (s.modSection no k fun g => { g with
        fused := g.fused.map fun y => if y.1 = x.fuseRow k bag then (y.1, zeroGranules bad y.2.1, true) else y }).countChaff
        (some g.ctx) x.bay (inRow bad).length

/-- DRAIN_SLICE (R245, R249): the output stage takes one slice of the ready work whose turn it is, or one slice of a section's
held values; with the last slice of a bag its slots are free. -/
def execDrainSlice (d : Drain) (s : State) : Out :=
  if 31 < d.thresher then .fault .noSuchUnit
  else .next <| match d.back with
  | some (no, k) => s.readBack d.thresher no k d.fixed d.bad
  | none => match (s.thresher d.thresher).drains with
    | none => s
    | some (r, i) =>
      if r.drained + 1 < r.chains.length then s.modBag d.thresher i fun r => { r with drained := r.drained + 1 }
      else
        let free := fun (s : State) => s.modThresher d.thresher fun t => { t with bags := t.bags.eraseIdx i }
        match r.work with
        | .bag no k bag => ((free s).operandErrors no k bag d.fixed d.bad).drainBag d.thresher r no k bag
        | .tally no g => (free s).drainGroup d.thresher r no g
        | .matrix id block row => if s.matrixDrainMay id block row then (free s).drainMatrix d.thresher r id block row else s

end Sys2Proof.Machine
end

