-- ==== Sys2Proof/Machine/Links.lean ====
section
/-! DEFINITION. The ridge and the yoke links: groups, replay and retraining (R514 to R516), the loss of the ridge (R517), the
states of a yoke link (R518, R520), the pause of timers (R531), and the link commands. -/

namespace Sys2Proof.Machine

/-- Link 0 is the ridge and 1 to 4 are the yokes. -/
def hasLink (link : Nat) : Bool := decide (link < 5)

/-! ### Timers that a link pauses (R531) -/

/-- Whether a message that left a die on a path depends on a link: the yoke it left on, or the ridge it crossed. -/
def FabPath.dependsOn (p : FabPath) (die link : Nat) : Bool :=
  match p with
  | .yoke y | .via y _ => if link = 0 then linkDie y != die else y == link
  | .ether port _ => link == 0 && port / 4 != die
  | _ => false

/-- The timeouts of requests and the timers of ledger messages that left over a link pause (R531). -/
def State.pauseLink (s : State) (link : Nat) : State :=
  let stop := fun (m : LedgerMsg) =>
    if m.path.dependsOn m.die link && m.pausedAt.isNone then { m with pausedAt := some s.dev.now } else m
  { s with
    fab.requests := s.fab.requests.map fun r => if r.path.dependsOn r.die link && r.pausedAt.isNone then { r with pausedAt := some s.dev.now } else r
    fab.channels := s.fab.channels.map fun c => { c with sent := c.sent.map stop } }

/-- They go on where the link is no longer in retry. -/
def State.resumeLink (s : State) (link : Nat) : State :=
  let back := s.fab.requests.filter fun r => r.path.dependsOn r.die link && r.pausedAt.isSome
  let go := fun (m : LedgerMsg) =>
    if m.path.dependsOn m.die link then { m with sentAt := m.sentAt + (s.dev.now - m.pausedAt.getD s.dev.now), pausedAt := none } else m
  { s with
    fab.requests := s.fab.requests.map fun r => if r.path.dependsOn r.die link then { r with pausedAt := none } else r
    dp.reads := s.dp.reads.map fun x => match back.find? fun r => r.id == x.id with
      | some r => { x with timeout := x.timeout.map fun t => t + (s.dev.now - r.pausedAt.getD s.dev.now) }
      | none => x
    fab.channels := s.fab.channels.map fun c => { c with sent := c.sent.map go } }

/-! ### Link-level retry (R514, R515) -/

/-- A link in a state that the retry protocol runs in. -/
def State.inService (s : State) (link : Nat) : Bool :=
  match (s.link link).state with
  | .up | .retry | .replay => true
  | _ => false

/-- A link enters Retry. -/
def State.enterRetry (s : State) (link : Nat) : State :=
  if (s.link link).state = .up then (s.modLink link fun l => { l with state := .retry, since := s.dev.now }).pauseLink link else s

/-- A link is UP again. -/
def State.backUp (s : State) (link : Nat) : State :=
  (s.modLink link fun l => { l with state := .up, since := s.dev.now, replaysRun := 0, attempts := 0 }).resumeLink link

/-- Messages and frames that wait for a yoke or a port go on. -/
def State.portsGoOn (s : State) : State :=
  let s := [1, 2, 3, 4].foldl (fun s i => State.serveLink s i) s
  (List.range 32).foldl (fun s k => State.egress s (k / 4) (k % 4)) s

/-- What waits for a link goes on: on the ridge the waiting reads, and the messages and frames that cross it; on a yoke its messages
(R513, R514). -/
def State.linkGoesOn (s : State) (link : Nat) : State := if link = 0 then s.pump.portsGoOn else s.serveLink link

/-- Credit that the partner returns for each class (R513). -/
def State.creditsIn (s : State) (link : Nat) (credits : List Nat) : State :=
  s.modLink link fun l => { l with credits := l.credits.zipIdx.map fun c => c.1 + natAt credits c.2 }

/-- The partner's vote for a yoke's domain, placed or withdrawn by a control flit (R621); none: no such flit. -/
def State.partnerVote (s : State) (link : Nat) (vote : Option Bool) : State :=
  if link = 0 then s
  else match vote with
    | none => s
    | some on => s.modDomain (53 + link) fun d => { d with
        votes := (let rest := dropVote d.votes (19 + link); if on then rest + 2 ^ (19 + link) else rest), idleSince := s.dev.now }

/-- FLIT_GROUP_RECEIVE (R514, R515): a group arrives with its sequence number; `ok` says whether every CRC is right, `ack` is
the number of the next group that the partner expects. A failing group and those after it are discarded, and a NAK names the
group expected. A group that is taken may carry the partner's vote, and credit returned for each class (R513). -/
def execFlitGroupReceive (link seq : Nat) (ok : Bool) (ack : Nat) (carried : Carried) (s : State) : Out :=
  if !hasLink link then .fault .noSuchUnit
  else .next <|
    if !s.inService link then s
    else
      let l := s.link link
      let held := (l.sendNext + 256 - l.sendBase) % 256
      let d := (ack % 256 + 256 - l.sendBase) % 256
      let freed := decide (0 < d) && decide (d ≤ held)
      let s := if freed then s.modLink link fun l => { l with sendBase := ack % 256, sentAt := s.dev.now, replaysRun := 0 } else s
      let s := if freed && (l.state == .retry || (l.state == .replay && d == held)) then s.backUp link else s
      let here := seq % 256 == l.expected
      if !ok then
        let s := (s.modLink link fun l => { l with crcErrors := satAdd 64 l.crcErrors 1 }).count (0x400 + link) 3 1
        if here then (s.enterRetry link).emit (.linkNak link l.expected) else s.linkGoesOn link
      else if !here then s.linkGoesOn link
      else
        let s := (((s.modLink link fun l => { l with expected := (l.expected + 1) % 256 }).partnerVote link carried.vote).creditsIn link carried.credits)
        (if (s.link link).state = .retry && !freed && l.replaysRun = 0 then s.backUp link else s).linkGoesOn link

/-- A replay from a group of the buffer (R514). -/
def State.replay (s : State) (link : Nat) : State :=
  let l := s.link link
  let s := (s.modLink link fun l => { l with replays := satAdd 64 l.replays 1, replaysRun := l.replaysRun + 1, sentAt := s.dev.now })
  ((s.enterRetry link).count (0x400 + link) 2 1).emit (.linkReplay link l.sendBase)

/-- LINK_NAK (R514): the groups before the named one have been accepted, and the sender replays from it. -/
def execLinkNak (link group : Nat) (s : State) : Out :=
  if !hasLink link then .fault .noSuchUnit
  else .next <|
    let l := s.link link
    let held := (l.sendNext + 256 - l.sendBase) % 256
    let d := (group % 256 + 256 - l.sendBase) % 256
    if !s.inService link || held ≤ d || 16 ≤ l.replaysRun then s
    else
      let s := if d = 0 then s else s.modLink link fun l => { l with sendBase := group % 256, replaysRun := 0 }
      s.replay link

/-- The replay timeout: 200 ns on the ridge, 1.25 µs on a yoke (R514). -/
def replayNs (link : Nat) : Nat := if link = 0 then 200 else 1250

/-- REPLAY_TIMEOUT (R514): the oldest unacknowledged group has waited. -/
def execReplayTimeout (link : Nat) (s : State) : Out :=
  if !hasLink link then .fault .noSuchUnit
  else .next <|
    let l := s.link link
    if s.inService link && l.sendBase ≠ l.sendNext && l.replaysRun < 16 && l.sentAt + replayNs link ≤ s.dev.now then s.replay link else s

/-! ### Retraining (R516 to R518) -/

/-- A retrain attempt begins (R516). -/
def State.startRetrain (s : State) (link : Nat) : State :=
  let n := (s.link link).attempts + 1
  let s := s.modLink link fun l => { l with state := .retrain, since := s.dev.now, retrains := satAdd 64 l.retrains 1 }
  ((s.count (0x400 + link) 4 1).raise 0x0801 1 none (if link = 0 then none else some (linkDie link)) (leBytes 1 link ++ leBytes 1 n)).emit
    (.linkRetrain link)

/-- RETRY_BUDGET_EXHAUSTED (R515): 16 consecutive replays of the same group. -/
def execRetryBudgetExhausted (link : Nat) (s : State) : Out :=
  if !hasLink link then .fault .noSuchUnit
  else .next <|
    let l := s.link link
    if (l.state = .retry || l.state = .replay) && 16 ≤ l.replaysRun && l.sentAt + replayNs link ≤ s.dev.now then s.startRetrain link else s

/-- YOKE_MESH_INCOMPLETE (R520): an admitted package to which no yoke leads any more, while the rick still has links. -/
def State.meshCheck (s : State) (partner : Nat) : State :=
  match s.numberOf partner with
  | none => s
  | some n =>
    if (s.yokesTo n).isEmpty && [1, 2, 3, 4].any fun i => (s.link i).state.carries && (s.numberOf (s.link i).partner).isSome then
      s.raise 0x0806 1 none none (leBytes 2 n)
    else s

/-- A yoke link that carries nothing any more: its groups, its credit and the messages that wait for it are gone (R518). -/
def Link.cleared (l : Link) : Link :=
  { l with sendNext := 0, sendBase := 0, expected := 0, replaysRun := 0, attempts := 0, credits := [0, 0, 0], owed := 0, queue := [] }

/-- A yoke link goes DOWN (R518). Requests out on it are reissued under R532. -/
def State.yokeDown (s : State) (link : Nat) : State :=
  let p := (s.link link).partner
  let s := (s.modLink link fun l => { l.cleared with state := .down, since := s.dev.now }).resumeLink link
  let s := (s.withdrawVotes (19 + link)).abortMargins 1 (link - 1) 0
  (s.raise 0x0804 1 none (some (linkDie link)) (leBytes 1 (link - 1))).meshCheck p

/-- RETRAIN_DONE (R516): the held groups are replayed; a failed attempt of the ridge is followed by another, up to three, and a
yoke goes DOWN. -/
def execRetrainDone (link : Nat) (ok : Bool) (s : State) : Out :=
  if !hasLink link then .fault .noSuchUnit
  else .next <|
    let l := s.link link
    if l.state ≠ .retrain || 3 ≤ l.attempts then s
    else if ok then
      if l.sendBase = l.sendNext then (s.backUp link).linkGoesOn link
      else (s.modLink link fun l => { l with state := .replay, since := s.dev.now, sentAt := s.dev.now, replaysRun := 0, attempts := 0 }).emit
        (.linkReplay link l.sendBase)
    else if link ≠ 0 then s.yokeDown link
    else
      let s := s.modLink 0 fun l => { l with attempts := l.attempts + 1 }
      if l.attempts + 1 < 3 then s.startRetrain 0 else s

/-- RIDGE_LOST (R517): three successive attempts have failed. -/
def execRidgeLost (s : State) : Out :=
  .next <|
    let l := s.link 0
    if l.state = .retrain && 3 ≤ l.attempts then
      (((s.modLink 0 fun l => { l with state := .down, since := s.dev.now }).resumeLink 0).raise 0x0802 3 none none []).goFatal
    else s

/-- YOKE_TRAIN (R518): training of a yoke link that is not held down ends: it fails, or names the partner and its field, and the room of the
partner's credit pools (R513). -/
def execYokeTrain (yoke : Nat) (ok : Bool) (partner : Nat) (offer : Offer) (s : State) : Out :=
  if 3 < yoke then .fault .noSuchUnit
  else .next <|
    let i := yoke + 1
    let l := s.link i
    if l.state = .disabled || l.state.carries || s.dev.phase ≠ .running then s
    else if !ok then s.modLink i fun l => { l with state := .down, since := s.dev.now }
    else
      let m := s.net.muster.config
      let args := leBytes 1 yoke ++ zeros 3 ++ leBytes 8 partner
      let s := s.modLink i fun l => { l.cleared with
        partner := partner, since := s.dev.now, credits := items 3 (natAt offer.credits) }
      if offer.field ≠ m.fieldId || partner = m.nodeId then
        (s.modLink i fun l => { l with state := .foreign }).raise 0x0805 1 none (some (linkDie i)) args
      else (s.modLink i fun l => { l with state := .up }).raise 0x0803 0 none (some (linkDie i)) args

/-- YOKE_DOWN (R518): an UP link is lost. -/
def execYokeDown (yoke : Nat) (s : State) : Out :=
  if 3 < yoke then .fault .noSuchUnit
  else .next (if (s.link (yoke + 1)).state.carries then s.yokeDown (yoke + 1) else s)

/-! ### YOKE_SET, LINK_QUERY (R541) -/

def specYokeSet : CmdSpec := { op := 0x0B10, d := true, lens := exactly 8 }

/-- Disables or enables a yoke link: one that is enabled trains. -/
def doYokeSet (c : Ctx) (s : State) : Result :=
  let i := u8At c.p 0 + 1
  c.fields s [(0, decide (u8At c.p 0 < 4)), (1, decide (u8At c.p 1 ≤ 1)), (2, zeroAt c.p 2 6)] <|
    if u8At c.p 1 = 0 then
      okWith [] ((s.modLink i fun l => { l.cleared with state := .disabled, since := s.dev.now }).resumeLink i
        |>.withdrawVotes (19 + i) |>.abortMargins 1 (u8At c.p 0) 0)
    else if (s.link i).state = .disabled then okWith [] (s.modLink i fun l => { l with state := .training, since := s.dev.now })
    else okWith [] s

def execYokeSet (r : Req) (s : State) : Out := runCommand specYokeSet doYokeSet r s

def specLinkQuery : CmdSpec := { op := 0x0A13, b := true, d := true, m := true, lens := exactly 0 }

/-- The state of a link as LINK_QUERY reports it: the rows of R518 in order (DEDUCED, log 41). -/
def linkCode : LinkState → Nat
  | .disabled => 0 | .down => 1 | .training => 2 | .retrain => 2 | .foreign => 3 | .up => 4 | .retry => 4 | .replay => 4

def doLinkQuery (c : Ctx) (s : State) : Result :=
  c.fields s [] <|
    okWith ((s.fab.links.flatMap fun l => leBytes 1 (linkCode l.state) ++ zeros 7 ++ leBytes 8 l.partner ++ leBytes 8 l.replays ++
      leBytes 8 l.crcErrors ++ leBytes 8 l.retrains ++ leBytes 8 l.malformed) ++ leBytes 8 s.fab.reasmDrops) s

def execLinkQuery (r : Req) (s : State) : Out := runCommand specLinkQuery doLinkQuery r s

end Sys2Proof.Machine
end

