-- ==== Sys2Proof/Machine/MemEvents.lean ====
section
/-! DEFINITION. The memories (chapter 11): temperature and throttle steps (R447 to R449), errors and scrub (R442, R443, R446),
the loss of a silo (R452, R453), the loft ports (R459 to R465), and the memory commands (R466). -/

namespace Sys2Proof.Machine

/-! ### Temperature and throttle steps (R447, R448) -/

/-- Temperature at or above which a reading enters a step, and below which readings leave it: steps 1 to 4. -/
def enterTemps : List Int := [95, 98, 101, 105]
def leaveTemps : List Int := [92, 95, 98, 102]

/-- The step that a reading enters. -/
def stepFor (t : Int) : Nat := (enterTemps.filter fun x => decide (x ≤ t)).length

/-- SILO_TEMPERATURE (R447, R448): a controller reads its stack's temperature; a higher step waits for the next window. -/
def execSiloTemperature (silo : Nat) (temp : Int) (s : State) : Out :=
  if 11 < silo then .fault .noSuchUnit
  else .next <| match s.memsys.silos[silo]? with
  | none => s
  | some x =>
    if x.lost then s
    else
      let below := x.below.zipIdx.map fun b => if temp < leaveTemps.getD b.2 0 then b.1.orElse fun _ => some s.dev.now else none
      let cur := x.nextStep.getD x.step
      let s := s.modSilo silo fun x =>
        { x with temp := temp, below := below, nextStep := if cur < stepFor temp then some (stepFor temp) else x.nextStep }
      let up := fun (l : List (Option Int)) => l.modify silo fun h => some ((h.map (max · temp)).getD temp)
      { s with
        net.sessions := s.net.sessions.map fun y => { y with highTemp := up y.highTemp }
        mgmt.high := up s.mgmt.high }

/-- THROTTLE_FALL (R448): 10 ms below the leave threshold of the step, and after its last change, the step falls by one. -/
def execThrottleFall (silo : Nat) (s : State) : Out :=
  if 11 < silo then .fault .noSuchUnit
  else .next <| match s.memsys.silos[silo]? with
  | none => s
  | some x =>
    if x.lost || x.step = 0 || 4 < x.step || x.nextStep.isSome then s
    else match x.below.getD (x.step - 1) none with
      | some t => if max t x.stepAt + 10000000 ≤ s.dev.now then s.modSilo silo fun x => { x with nextStep := some (x.step - 1) } else s
      | none => s

/-- A silo's waiting step taken at a window boundary (R448, R449); one that is in force already is no change. -/
def State.takeStep (s : State) (silo : Nat) : State :=
  match s.memsys.silos[silo]? with
  | none => s
  | some x => match x.nextStep with
    | none => s
    | some k =>
      if k = x.step then s.modSilo silo fun x => { x with nextStep := none } else
      let s := s.modSilo silo fun x =>
        { x with step := k, nextStep := none, stepAt := s.dev.now, haltedAt := if k = 4 then some s.dev.now else none }
      let t := leBytes 2 (unsignedOf 16 x.temp)
      let s := s.raise 0x0205 1 none (some (siloDie silo)) (leBytes 1 silo ++ leBytes 1 k ++ t)
      if k = 4 then s.raise 0x0206 2 none (some (siloDie silo)) (leBytes 1 silo ++ zeros 1 ++ t) else s

/-! ### Loss of a silo (R452, R453) -/

/-- The silo in which a place of a bay's spill area on a die lies, and that of the first granule of its retention area. -/
def State.spillSilo (s : State) (b die at_ : Nat) : Option Nat := (s.bay b).space.siloOf (s.spillBase b die + at_)
def State.retentionSilo (s : State) (b die : Nat) : Option Nat :=
  (((s.bay b).space.retention.getD die []).head?).bind fun r => (s.bay b).space.siloOf r.first

/-- The silo a read takes its granules from. -/
def State.readSilo (s : State) (r : Read) : Option Nat :=
  match r.space with
  | 1 => (s.bay r.bay).space.siloOf r.addr
  | 5 => (s.bay r.bay).space.siloOf (s.stageBase r.bay r.die + r.addr)
  | _ => none

/-- A read whose granules come chaffed at once. -/
def State.chaffRead (s : State) (r : Read) : State := s.deliver' r (List.replicate r.granules none)

/-- Spilled data in a lost silo: its slots are chaffed (R453). -/
def State.loseSpilled (s : State) (silo : Nat) : State :=
  let gone := fun (x : Sheaf) (r : RowSlot) => r.spilled.any fun a =>
    (List.range r.granules).any fun i => s.spillSilo x.bay (x.crew / 16) (a + i) == some silo
  let chaff := fun (r : RowSlot) => ({ r with data := some (zeros (64 * r.granules)), chaffed := true, spilled := none } : RowSlot)
  { s with dp.sheafs := s.dp.sheafs.map fun x =>
      { x with sections := x.sections.map fun g => { g with slots := g.slots.map fun r => if gone x r then chaff r else r } } }

/-- Retained messages in a lost silo: each sheaf with one completes FAULTED and consumes its number (R394, R453). -/
def State.loseRetained (s : State) (silo : Nat) : State :=
  let hit := fun (c : Channel) (m : LedgerMsg) => s.retentionSilo c.bay m.die == some silo
  let lost := s.fab.channels.flatMap fun c => c.sent.filter (hit c)
  let s : State := { s with fab.channels := s.fab.channels.map fun c => { c with sent := c.sent.filter fun m => !hit c m } }
  lost.foldl (fun s m => State.modSheaf s m.sheaf fun x =>
    { x with phase := .finished Status.faulted.code, bad := true, groups := [], chaffed := x.chaffed + u32At m.data 12 }) s

/-- A silo is lost: the device enters FATAL and every read of the silo is chaffed. -/
def State.loseSilo (s : State) (silo cond : Nat) : State :=
  let s := s.modSilo silo fun x => { x with lost := true, step := 5, nextStep := none, haltedAt := none }
  let s := (s.raise 0x0209 3 none (some (siloDie silo)) (leBytes 1 silo ++ leBytes 1 cond)).goFatal
  let s := (s.dp.reads.filter fun r => s.readSilo r == some silo).foldl (fun s r => State.chaffRead s r) s
  (s.loseSpilled silo).loseRetained silo

/-- SILO_LOST (R452): a halt of 1 s (0), a persistent interface error (1), more than 256 uncorrectable granules within 1 ms
(2), a stack fault (3). -/
def execSiloLost (silo cond : Nat) (s : State) : Out :=
  if 11 < silo then .fault .noSuchUnit
  else .next <| match s.memsys.silos[silo]? with
  | none => s
  | some x =>
    let holds := match cond with
      | 0 => x.haltedAt.any fun t => decide (t + 1000000000 ≤ s.dev.now)
      | 2 => (x.ue[256]?).any fun t => decide (s.dev.now ≤ t + 1000000)
      | c => c == 1 || c == 3
    if x.lost || !holds then s else s.loseSilo silo cond

/-! ### Errors and scrub (R443, R446) -/

/-- An uncorrectable granule of a silo: one of a bay's, or of a reserved unit (bay 16). -/
def State.siloUe (s : State) (silo pc b g : Nat) : State :=
  if b ≤ 15 then
    if (s.bay b).space.siloOf g = some silo then (s.addPoison .silo b 0 g).siloBad b g else s
  else ((s.siloError silo pc 16 0 1).raise 0x0202 2 none (some (siloDie silo)) (leBytes 1 silo ++ leBytes 1 pc ++ zeros 2 ++ leBytes 8 g)
    |>.retirePage silo 16 (g / 64)).2

/-- SILO_UE (R443): a granule of a bay (or, for bay 16, of a reserved unit) is found uncorrectable. -/
def execSiloUe (silo pc bay granule : Nat) (s : State) : Out :=
  if 11 < silo || 31 < pc then .fault .noSuchUnit
  else .next <| if (s.memsys.silos[silo]?).any Silo.lost then s else s.siloUe silo pc bay granule

/-- Granules of a silo (R433). -/
def State.siloGranules (s : State) : Nat := (if s.ident.variant = 0 then 134 else 89) * unitGranules

/-- Nanoseconds of a scrub pass from its beginning to the read of a granule: the reads are spread evenly over the period (DESIGN CHOICE,
log 189). -/
def State.scrubTime (s : State) (n : Nat) : Nat := n * (s.memsys.scrubHours * 3600000000000) / s.siloGranules

/-- Whether a granule is the one that a silo's scrub pass reads next, in ascending order of the silo's granules: of a bay, by its unit and
the granule in it, or, for bay 16, of a unit that is no bay's, by its number in the silo. -/
def State.scrubNext (s : State) (silo pc bay granule : Nat) (x : Silo) : Bool :=
  if bay ≤ 15 then
    let sp := (s.bay bay).space
    sp.siloOf granule == some silo && pc == pseudoChannel granule &&
      natAt sp.siloUnit (granule / unitGranules) * unitGranules + granule % unitGranules == x.scrubAt
  else granule == x.scrubAt && !s.bays.any fun y =>
    (y.space.siloExt.zip y.space.siloUnit).any fun u => u.1 == silo && u.2 == granule / unitGranules

/-- SCRUB (R446): the controller reads the next granule of its pass, when its time has come, in the device-scope share (R437): no error
(0), corrected and written back (1), or uncorrectable (2). -/
def execScrub (silo pc bay granule result : Nat) (s : State) : Out :=
  if 11 < silo || 31 < pc then .fault .noSuchUnit
  else .next <| match s.memsys.silos[silo]? with
  | none => s
  | some x =>
    let claimed := (s.wants ++ s.heads).any fun w => w.points.contains silo
    if x.lost || x.step = 4 || s.memsys.scrubHours = 0 || !s.scrubNext silo pc bay granule x ||
        s.dev.now < x.scrubFrom + s.scrubTime x.scrubAt || !s.deviceMay silo claimed then s
    else
      let g := if result = 1 then 2 else 1
      let s := (s.chargeFor none false silo (64 * (g + 3))).takeSlots silo g
      let s := match result with
        | 1 => s.siloCorrected silo pc (min bay 16)
        | 2 => s.siloUe silo pc bay granule
        | _ => s
      let n := x.scrubAt + 1
      if s.siloGranules ≤ n then (s.modSilo silo fun y => { y with scrubAt := 0, scrubFrom := x.scrubFrom + s.scrubTime n }).count (0x100 + silo) 7 1
      else s.modSilo silo fun x => { x with scrubAt := n }

/-! ### Loft ports (R459 to R465) -/

def State.modLoft (s : State) (k : Nat) (f : Loft → Loft) : State := { s with memsys.lofts := s.memsys.lofts.modify k f }

/-- Whether a write to a loft port is outstanding: a write in flight, or a flail's write of a row there (R463). -/
def State.loftWriting (s : State) (port : Nat) : Bool :=
  (s.dp.writes.any fun w => w.space == 2 && (s.bay w.bay).space.portOf w.addr == some port) ||
  s.dp.flails.any fun f => f.entries.any fun e => e.computed.isSome && match e.row with
    | some r => ((s.table e.bay e.table).bind fun t => s.entry e.bay t r).any fun y =>
        y.home == 2 && (s.bay e.bay).space.portOf y.addr == some port
    | none => false

/-- A read's tag held back for twice the timeout (R331). -/
def State.quarantine (s : State) (r : Read) : State :=
  if r.outside then s else
  let q : Quarantine :=
    { id := r.id, bay := r.bay, ctx := r.ctx, die := r.die, space := r.space, until_ := s.dev.now + 2000 * (s.bay r.bay).work.e2eUs,
      granules := r.granules, port := ((s.bay r.bay).space.portOf r.addr).getD 0, late := false, staging := r.isStaging }
  { s with dp.quarantines := s.dp.quarantines ++ [q] }

/-- A new label of a port's expander (R462). -/
def State.newLabel (s : State) (port : Nat) : LoftLabel × State := let (n, s) := s.fresh; (⟨s.ident.serial, port, n⟩, s)

/-- The link of a loft port is lost (R463, R606): cause 0 link, 1 viral. -/
def State.loftDown (s : State) (port cause : Nat) : State :=
  let out := s.loftWriting port
  let s := (s.modLoft port fun x => { x with state := .down, downAt := s.dev.now, writesOut := out }).abortMargins 2 port 0
  let s := (s.count (0x200 + port) 4 1).raise 0x0304 2 none (some (loftDie port)) (leBytes 1 port ++ leBytes 1 cause)
  (s.dp.reads.filter fun r => r.started && r.space == 2 && (s.bay r.bay).space.portOf r.addr == some port).foldl
    (fun s r => (State.quarantine s r).chaffRead r) s

def State.loft (s : State) (port : Nat) : Loft := s.memsys.lofts.getD port Loft.initial

/-- LOFT_DOWN (R463). -/
def execLoftDown (port cause : Nat) (s : State) : Out :=
  if 3 < port then .fault .noSuchUnit
  else .next <| if (s.loft port).state = .up || (s.loft port).state = .lost then s.loftDown port cause else s

/-- Whether a loft unit of a bay holds data of it: granules that a row takes or has taken, or any byte that is not zero. -/
def State.unitHolds (s : State) (b x : Nat) : Bool :=
  let unit : Run := ⟨unitGranules * x, unitGranules⟩
  let sp := (s.bay b).space
  sp.loftUsed.any (runsMeet · unit) || (sp.loftFreed.any fun r => runsMeet r.1 unit) ||
    s.mem.any fun c => decide (memKey .loft b 0 (64 * unit.first) ≤ c.1) && decide (c.1 < memKey .loft b 0 (64 * unit.first) + 64 * unitGranules)

/-- Every unit on a port that held a bay's data marked lost. -/
def State.loseUnits (s : State) (port : Nat) : State :=
  { s with bays := s.bays.zipIdx.map fun y =>
      let sp := y.1.space
      let mine := (sp.loftExt.zipIdx.filter fun e => e.1 == port && !sp.lostLoft.contains e.2 && s.unitHolds y.2 e.2).map Prod.snd
      { y.1 with space := { sp with lostLoft := sp.lostLoft ++ mine } } }

/-- Lost units of a port, of one bay or of all. -/
def State.lostUnits (s : State) (port : Nat) (bay : Option Nat) : Nat :=
  sumBy (fun (y : Bay × Nat) =>
    if bay.all fun b => b == y.2 then (y.1.space.lostLoft.filter fun e => y.1.space.loftExt[e]? == some port).length else 0) s.bays.zipIdx

/-- LOFT_RETRAIN (R463): a DOWN port tries again, once a second. `trained` says whether the link came up, and `label`
whether the expander's label is the one written. -/
def execLoftRetrain (port trained label : Nat) (s : State) : Out :=
  if 3 < port then .fault .noSuchUnit
  else .next <|
    let x := s.loft port
    if x.state ≠ .down || s.dev.now < x.downAt + 1000000000 || !s.domainA0 (58 + port) then s
    else if trained = 0 then s.modLoft port fun x => { x with downAt := s.dev.now }
    else if label = 1 && !x.writesOut then
      (s.modLoft port fun x => { x with state := .up }).raise 0x0305 0 none (some (loftDie port)) (leBytes 1 port)
    else
      let before := s.lostUnits port none
      let (n, s) := s.newLabel port
      let s := (s.loseUnits port).modLoft port fun x => { x with state := .lost, label := n, writesOut := false }
      s.raise 0x0306 2 none (some (loftDie port)) (leBytes 1 port ++ zeros 1 ++ leBytes 2 (s.lostUnits port none - before))

/-- A DevLoad level in force (R459). -/
def State.setDevload (s : State) (port level : Nat) : State :=
  (s.modLoft port fun x => { x with devload := level, devloadNext := none }).raise 0x0302 0 none (some (loftDie port))
    (leBytes 1 port ++ leBytes 1 level)

/-- Capacity of a port at a DevLoad level, in hundredths. -/
def devloadCap (level : Nat) : Nat := natAt [100, 100, 75, 50] level

/-- The highest level indicated within the last 100 µs, with the one indicated now: a port stays at it (R459). -/
def State.devloadNow (s : State) (port level : Nat) : Nat :=
  ((s.loft port).devloadAt.zipIdx.filter fun t => decide (s.dev.now < t.1 + 100000)).foldl (fun m t => max m t.2) level

/-- LOFT_DEVLOAD (R459): a response carries a DevLoad indication: 0 light, 1 optimal, 2 moderate, 3 severe. -/
def execLoftDevload (port level : Nat) (s : State) : Out :=
  if 3 < port then .fault .noSuchUnit
  else .next <|
    let x := s.loft port
    if 3 < level || !(x.state == .up || x.state == .lost) then s
    else
      let s := s.modLoft port fun x => { x with devloadAt := x.devloadAt.set level s.dev.now }
      if x.devload < level then s.modLoft port fun x => { x with devloadNext := some (max level (x.devloadNext.getD 0)) }
      else
        let to_ := s.devloadNow port level
        if to_ < x.devload && x.devloadNext.isNone then s.setDevload port to_ else s

/-- LOFT_POISON (R460): a loft read completes with poison, or an error, in the listed granules. -/
def execLoftPoison (id : Nat) (bad : List Nat) (s : State) : Out :=
  .next <| match findKey Read.id s.dp.reads id with
  | none => s
  | some r =>
    if r.space ≠ 2 || !r.started then s
    else
      let s := s.badGranules r bad
      s.deliver' r (s.granules r)

/-- LOFT_EVENT_POLL (R460): the expander's event records report corrected errors, of a bay's unit or of none (16). -/
def execLoftEventPoll (port bay corrected : Nat) (s : State) : Out :=
  if 3 < port then .fault .noSuchUnit
  else .next <| if (s.loft port).state = .up || (s.loft port).state = .lost then
      (s.modLoft port fun x => { x with errs := addErrs x.errs (min bay 16) corrected 0 }).count (0x200 + port) 3 corrected
    else s

/-- The number under which a bay's loft unit is reported: unit 0 holds the label, and the bays' units follow in their order
(DEDUCED, log 31). -/
def State.unitNumber (s : State) (b x : Nat) : Nat :=
  match (s.bay b).space.loftExt[x]? with
  | none => 0
  | some port => 1 + sumBy (fun (y : Bay × Nat) => if y.2 < b then (y.1.space.loftExt.filter (· == port)).length else 0) s.bays.zipIdx +
      (((s.bay b).space.loftExt.take x).filter (· == port)).length

/-- LOFT_UNIT_RECLAIMED (R464): a lost unit that no entry names any more, and whose freed granules have been released, is
overwritten with zeros and is no longer lost. -/
def execLoftUnitReclaimed (bay extent : Nat) (s : State) : Out :=
  if 15 < bay then .fault .noSuchUnit
  else .next <|
    let sp := (s.bay bay).space
    let unit : Run := ⟨unitGranules * extent, unitGranules⟩
    match sp.loftExt[extent]? with
    | none => s
    | some port =>
      let up := (s.loft port).state == .up || (s.loft port).state == .lost
      if !sp.lostLoft.contains extent || !up || ((s.rowRuns bay 2).any fun r => runsMeet r unit) ||
          (sp.loftFreed.any fun r => runsMeet r.1 unit) then s
      else
        let n := s.unitNumber bay extent
        let s := (s.zero .loft bay 0 unit.first unit.len).modBay bay fun y =>
          { y with space := { y.space with lostLoft := y.space.lostLoft.filter (· != extent) } }
        s.raise 0x0307 0 none (some (loftDie port)) (leBytes 1 port ++ zeros 1 ++ leBytes 2 n)

/-! ### The memory commands (R466, R601) -/

/-- Errors of a list counted for one bay, or all, by a key's bay. -/
def errsOf (bayOf : Nat → Nat) (l : List (Nat × Nat × Nat)) (bay : Option Nat) : Nat × Nat :=
  l.foldl (fun a e => if bay.all fun b => b == bayOf e.1 then (a.1 + e.2.1, a.2 + e.2.2) else a) (0, 0)

def specSiloQuery : CmdSpec := { op := 0x0A10, b := true, d := true, m := true, lens := exactly 8 }

/-- The highest readings since the caller's last query (R447). -/
def State.highFor (s : State) (c : Caller) : List (Option Int) := if c.mtw then s.mgmt.high else ((s.session c.handle).map Session.highTemp).getD []

/-- The highest reading as it is reported; what a query reports that no reading has preceded is not stated (DESIGN CHOICE, log 189). -/
def highByte (k : Nat) (h : Option Int) : Nat :=
  match h with
  | some t => unsignedOf 8 t
  | none => Config.unstated 13 k % 256

/-- One silo's record. -/
def State.siloRecord (s : State) (c : Caller) (k : Nat) : List Byte :=
  let x := s.memsys.silos.getD k Silo.initial
  let (ce, ue) := errsOf (· / 32) x.errs c.bay
  let pages := match c.bay with
    | some b => ((s.bay b).space.retired.filter fun p => (s.bay b).space.siloOf (64 * p) == some k).length
    | none => (s.flash.retired.filter fun r => r.1 == k).length
  leBytes 1 k ++ leBytes 1 x.step ++ leBytes 1 (unsignedOf 8 x.temp) ++ leBytes 1 (highByte k ((s.highFor c).getD k none)) ++
    leBytes 2 x.sparesUsed ++ leBytes 2 x.sparesLeft ++ leBytes 8 ce ++ leBytes 8 ue ++ leBytes 2 pages ++ zeros 6

def doSiloQuery (c : Ctx) (s : State) : Result :=
  let k := u8At c.p 0
  c.fields s [(0, decide (k ≤ 11) || k == 0xFF), (1, zeroAt c.p 1 7)] <|
    let ks := if k = 0xFF then List.range 12 else [k]
    let fresh := fun (l : List (Option Int)) => l.zipIdx.map fun h => if ks.contains h.2 then none else h.1
    let s' : State := if c.caller.mtw then { s with mgmt.high := fresh s.mgmt.high }
      else s.modSession c.caller.handle fun x => { x with highTemp := fresh x.highTemp }
    okWith (ks.flatMap (s.siloRecord c.caller)) s'

def execSiloQuery (r : Req) (s : State) : Out := runCommand specSiloQuery doSiloQuery r s

def loftCode : LoftState → Nat
  | .absent => 0 | .up => 1 | .down => 2 | .lost => 3 | .disabled => 4

def specLoftQuery : CmdSpec := { op := 0x0A11, b := true, d := true, m := true, lens := exactly 8 }

def State.loftRecord (s : State) (c : Caller) (k : Nat) : List Byte :=
  let x := s.loft k
  let (ce, ue) := errsOf id x.errs c.bay
  leBytes 1 k ++ leBytes 1 (loftCode x.state) ++ leBytes 1 (x.gts / 8) ++ leBytes 1 x.width ++ leBytes 1 x.flit ++ leBytes 1 x.devload ++
    leBytes 2 (s.lostUnits k c.bay) ++ leBytes 8 ce ++ leBytes 8 ue ++ zeros 8

def doLoftQuery (c : Ctx) (s : State) : Result :=
  let k := u8At c.p 0
  c.fields s [(0, decide (k ≤ 3) || k == 0xFF), (1, zeroAt c.p 1 7)] <|
    okWith ((if k = 0xFF then List.range 4 else [k]).flatMap (s.loftRecord c.caller)) s

def execLoftQuery (r : Req) (s : State) : Out := runCommand specLoftQuery doLoftQuery r s

def specMemScrubConfig : CmdSpec := { op := 0x0F20, d := true, lens := exactly 8 }

/-- R446: a new period begins a new pass of every silo (DESIGN CHOICE, log 189). -/
def doMemScrubConfig (c : Ctx) (s : State) : Result :=
  let h := u16At c.p 0
  c.fields s [(0, decide (h ≤ 168)), (2, zeroAt c.p 2 6)] <|
    okWith [] { s with
      memsys.scrubHours := h
      memsys.silos := s.memsys.silos.map fun x => { x with scrubAt := 0, scrubFrom := s.dev.now } }

def execMemScrubConfig (r : Req) (s : State) : Out := runCommand specMemScrubConfig doMemScrubConfig r s

def specLoftPortSet : CmdSpec := { op := 0x0F21, d := true, lens := exactly 8 }

/-- R465: a port is disabled only while no bay holds units on it; enabling it again writes a new label. -/
def doLoftPortSet (c : Ctx) (s : State) : Result :=
  let k := u8At c.p 0
  let held := s.bays.any fun y => y.space.loftExt.contains k
  c.fields s [(0, decide (k ≤ 3)), (1, decide (u8At c.p 1 ≤ 1)), (2, zeroAt c.p 2 6)] <|
  refuseIf (u8At c.p 1 == 0 && held) .state 0 s <|
    let st := (s.loft k).state
    if st = .absent then okWith [] s
    else if u8At c.p 1 = 0 then okWith [] ((s.modLoft k fun x => { x with state := .disabled }).abortMargins 2 k 0)
    else if st = .disabled then
      let (n, s) := s.newLabel k
      okWith [] (s.modLoft k fun x => { x with state := .up, label := n, writesOut := false })
    else okWith [] s

def execLoftPortSet (r : Req) (s : State) : Out := runCommand specLoftPortSet doLoftPortSet r s

end Sys2Proof.Machine
end

