-- ==== Sys2Proof/Machine/Wicket.lean ====
section
/-! DEFINITION. The wicket path: acceptance into a level of a die's queue (R342, R345, R499, R596, R597), the parser (R344,
R346, R723), the fetches (R347, R66), the bypass unit (R254, R255, R724), the result (R349), and urgent messages (R350). -/

namespace Sys2Proof.Machine

/-! ### The queue of a die (R345) -/

/-- The die that takes what comes by a carrier (R342, R467): D0 for the tether. -/
def State.dieOf (s : State) : Via → Nat
  | .udp port _ _ _ => port / 4
  | .send qpn => ((s.qp qpn).map fun q => q.port / 4).getD 0
  | _ => 0

/-- Messages and lookups in a level of a die's queue, by bay: a lookup stays in it until it has its bypass unit (R255). -/
def State.levelHeld (s : State) (die level : Nat) : List (Option Nat) :=
  (s.dp.messages.filter fun m => m.die == die && m.level == level).map WicketMsg.bay ++
    (s.dp.lookups.filter fun x => x.die == die && x.level == level && (x.phase == .waiting || x.phase == .fetching)).map fun x => some x.bay

/-- Whether a level takes another message of a bay. -/
def State.levelTakes (s : State) (die level : Nat) (bay : Option Nat) : Bool :=
  let l := s.levelHeld die level
  let (total, each) := if level = 0 then (9, 4) else (64, 16)
  decide (l.length < total) && (bay.isNone || decide ((l.filter (· == bay)).length < each))

/-- The opcodes of the commands marked U (R596): HEARTBEAT, SHEAF_CANCEL, LEDGER_QUERY, POWER_VOTE, POWER_RELEASE, EVENT_READ. -/
def urgentOps : List Nat := [0x0104, 0x0601, 0x0701, 0x0901, 0x0902, 0x0A01]

/-- Whether a message with the urgent flag set is one that the flag puts ahead (R345, R350, R596). -/
def isUrgent (r : Req) : Bool :=
  r.msg.length == 64 && bit (u8At r.msg 1) 0 && ((headerOf r.msg).op == 0x0610 || urgentOps.contains (headerOf r.msg).op)

/-- The level that a wicket message takes. -/
def levelOf (r : Req) : Nat := if isUrgent r then 0 else 1

/-- A wicket message that finds its level full (R345). -/
def State.wicketBusy (s : State) (r : Req) : State := (s.count (0x500 + s.dieOf r.via) 9 1).respond r false ⟨.busy, 0, []⟩

/-- A 64-byte message other than a lookup joins its level (R596). -/
def State.queueMessage (s : State) (r : Req) (bay : Option Nat) : State :=
  let die := s.dieOf r.via
  let level := levelOf r
  if !s.levelTakes die level bay then s.wicketBusy r
  else
    let m : WicketMsg := ⟨s.dp.nextRead, die, level, bay, r⟩
    let s : State := { s with dp.nextRead := s.dp.nextRead + 1, dp.messages := s.dp.messages ++ [m] }
    s.count (0x500 + die) (7 + level) 1

/-! ### WICKET_LOOKUP (R343, R597) -/

def specWicketLookup : CmdSpec := { op := 0x0610, b := true, states := [.opened], lens := exactly 48 }

/-- A lookup that has passed steps 1 to 11 of R586. -/
def State.acceptLookup (s : State) (r : Req) (b h : Nat) : State :=
  let die := s.dieOf r.via
  let level := levelOf r
  let isUdp := match r.via with
    | .udp .. => true
    | _ => false
  if isUdp && (s.lowestRts h).isNone then s.respond r true ⟨.state, 0, []⟩
  else if !s.levelTakes die level (some b) then s.wicketBusy r
  else
    let x : Lookup :=
      { id := s.dp.nextRead, die := die, level := level, req := r, bay := b, session := h, no := s.dev.accepted,
        gens := [(s.hotDie b 0).gen, (s.hotDie b 1).gen],
        bound := (s.bay b).tables.filter fun t => t.life != .destroying,
        u := uOf (s.outstanding b) (u16At r.msg 16), acceptedAt := s.dev.now, gaveUp := false, phase := .waiting,
        sect := none, unit := none, status := 0, bagStatus := 0, sat := 0, widened := false, result := [], lost := false }
    let s : State := { s with
      dev.accepted := s.dev.accepted + 1
      dp.nextRead := s.dp.nextRead + 1
      dp.lookups := s.dp.lookups ++ [x] }
    (s.count b 4 1).count (0x500 + die) (7 + level) 1

/-- Whether lookups are taken: not during boot nor while parked, but during a steward reset (R612). -/
def State.takesLookups (s : State) : Bool := s.dev.phase == .running

/-- A WICKET_LOOKUP that has arrived: the checks of R586, then its level. -/
def State.lookupIn (s : State) (r : Req) : State :=
  if !s.takesLookups then s
  else if isResponse r then s.countMalformed
  else if s.lan.failsafe then s.wicketBusy r
  else match s.repeated r with
  | some s => s
  | none => match checkHead (fun op => op == 0x0610) r with
    | some (.fail reply) => s.respond r true reply
    | some _ => s
    | none => match checkKnown s specWicketLookup r with
      | .discard w => s.countDiscard w
      | .fail reply => s.respond r true reply
      | .pass c =>
        if s.bayState (c.bay.getD 0) ≠ .opened then s.respond r true ⟨.state, 0, []⟩
        else s.acceptLookup r (c.bay.getD 0) c.handle

/-- WICKET_LOOKUP (R343, R345, R499, R597). -/
def execWicketLookup (r : Req) (s : State) : Out :=
  .next (if (headerOf r.msg).op ≠ 0x0610 || r.msg.length ≠ 64 then s else s.lookupIn r)

/-! ### The parser (R344) -/

/-- Fields of a lookup. -/
def Lookup.tag (x : Lookup) : Nat := u32At x.req.msg 8
def Lookup.count (x : Lookup) : Nat := u8At x.req.msg 18
def Lookup.index64 (x : Lookup) : Bool := bit (u8At x.req.msg 19) 0
def Lookup.weights (x : Lookup) : Bool := bit (u8At x.req.msg 19) 1
def Lookup.key (x : Lookup) : Nat := u32At x.req.msg 20
def Lookup.off (x : Lookup) : Nat := u64At x.req.msg 24
def Lookup.width (x : Lookup) : Nat := if x.index64 then 64 else 32
def Lookup.tab (x : Lookup) : Option Tab := findKey Tab.id x.bound (u16At x.req.msg 16)

/-- The largest count (R343). -/
def Lookup.limit (x : Lookup) : Nat := if x.index64 then (if x.weights then 3 else 4) else if x.weights then 5 else 8

/-- Bytes of a vector with its winning block, in a format. -/
def Tab.wicketBytes (t : Tab) (f : Fmt) : Nat := elemBytes f t.desc.dim + (if 3 ≤ t.desc.mode then 8 * t.desc.dim else 0)

/-- The checks of R344, and that the offset of the result is a multiple of 16 (R343). -/
def Lookup.ok (x : Lookup) (t : Tab) : Bool :=
  let used := x.count * (x.width / 8) + (if x.weights then 2 * x.count else 0)
  let p := (t.point 4).policy
  decide (u8At x.req.msg 19 < 4) && x.off % 16 == 0 && decide (1 ≤ x.count) && decide (x.count ≤ x.limit) &&
    zeroAt x.req.msg (32 + used) (32 - used) &&
    x.weights == (t.desc.mode == 2) && t.pool.fuseOp == 0 && p.discovery != 2 && decide (x.count * t.maxGranules ≤ 4) &&
    decide (t.wicketBytes p.format ≤ 256) && (p.satPolicy != 1 || decide (t.wicketBytes .bf16 ≤ 256))

/-- The single bag of a lookup. -/
def Lookup.section (x : Lookup) (t : Tab) : Section :=
  let n := x.count
  { newSection t 0 with
    weightFmt := flag x.weights
    width := x.width
    offsets := [0, n]
    indices := valuesAt x.req.msg 32 n (x.width / 8)
    weights := if x.weights then valuesAt x.req.msg (32 + n * (x.width / 8)) n 2 else []
    u := x.u
    barrierAt := x.acceptedAt
    scales := t.scalesNow 4 }

/-- A lookup as a sheaf of one section, for the shared rules of pooling. -/
def Lookup.asSheaf (x : Lookup) (g : Section) : Sheaf :=
  { no := x.no, bay := x.bay, session := x.session, phase := .working, origin := .lost, off := 0, head := zeros 64, gens := x.gens,
    bound := x.bound, bases := [], bindings := [], u := [], acceptedAt := x.acceptedAt, firstRead := 0, cleared := [], crew := 16 * x.die,
      sections := [g],
    contribs := [], tally := [], groups := [], ops := 0, messages := 0, placing := false, qpn := none, chaffed := 0, defaulted := 0,
    saturated := 0, stale := 0, bad := false, ledger := false, released := false, was := [] }

/-- Whether a barrier (R348, R424) or a rebuild (R231) holds a lookup back. -/
def State.lookupHeld (s : State) (x : Lookup) : Bool :=
  match x.tab with
  | none => false
  | some t => (!x.gaveUp && !s.barrierMet t x.u) ||
      (s.table x.bay t.id).any fun t => t.rebuild.any fun r => decide (r.before ≤ x.no)

/-- One slot of a lookup's bag: the row, where it lies and how many granules it takes. -/
def Tab.wicketSlot (t : Tab) (s : State) (x : Lookup) (found : List Found) (key : Option Nat) (i : Nat) : Option RowSlot :=
  let slot := fun (row tier home half addr n : Nat) => some (
    { slot := i, row := row, tier := tier, home := home, half := half, addr := addr, granules := n, data := none,
      chaffed := false, released := false, heated := false, ctx := noCtx, took := 0, spilled := none } : RowSlot)
  let half := (s.indexFor x.bay x.die (natAt x.gens x.die)).1
  match key with
  | none => t.defRow.bind fun r => slot defaultMark 0 1 0 r.first (t.rowGranules 0)
  | some raw => match found.find? fun f => f.1 == raw with
    | some (_, .copy h off tier) => slot (raw % 2 ^ x.width) tier 0 h off (t.rowGranules tier)
    | some (_, .place home tier addr) => slot (raw % 2 ^ x.width) tier home half addr (t.rowGranules tier)
    | some (_, .forward n) => slot (raw % 2 ^ x.width) 0 3 0 (n * 2 ^ 32) (t.rowGranules 0)
    | _ => none

/-- A row of a lookup asked for (R347): a granary row is read in place. -/
def State.wicketFetch (s : State) (x : Lookup) (t : Tab) (r : RowSlot) : State :=
  let b := x.bay
  let purpose := Purpose.wicket x.id r.slot
  if r.home = 0 then s
  else if r.home = 3 then s.putReadReq b x.die none 0 purpose (bits r.addr 32 16) t.id t.map.version r.row r.granules
  else if s.spaceIn b x.die r.home r.addr r.granules then s.putRead b x.die none 0 false purpose r.home r.addr r.granules 0 false
  else
    let r' : RowSlot := { r with data := some (zeros (64 * r.granules)), chaffed := true, home := 4 }
    ((s.boundsEvent b x.die 0 r.addr).count b 14 r.granules).modLookup x.id fun y => { y with sect := y.sect.map fun g => g.setSlot r' }

/-- The side tensor of a tier asked for, once, for a lookup (R327, R347); a tier without any has it at once. -/
def State.wicketSide (s : State) (b die no : Nat) (t : Tab) (tier : Nat) : State :=
  let have_ := s.dp.lookups.any fun y => y.no == no && y.sect.any fun g => g.sides.any fun z => z.1 == tier
  if have_ || s.dp.reads.any fun r => r.purpose == .wicketSide no tier then s
  else match (t.point tier).side with
    | [] => { s with dp.lookups := s.dp.lookups.map fun y =>
        if y.no = no then { y with sect := y.sect.map fun g => { g with sides := g.sides ++ [(tier, true)] } } else y }
    | l => l.foldl (fun s r => State.putRead s b die none 0 false (.wicketSide no tier) 1 r.first r.len 0 false) s

/-- A lookup ends with a status record alone. -/
def State.wicketStatus (s : State) (id status : Nat) : State :=
  s.modLookup id fun y => { y with phase := .placing, status := status }

/-- A lookup parsed (R344, R346 to R348): RANGE or STATE, or its rows resolved and asked for, and its positions that other owners pool;
unchanged while the reads of its entries may not be made (R64, R66, R314). -/
def State.parseLookup (s : State) (x : Lookup) : State :=
  if s.bayState x.bay ≠ .opened then s.wicketStatus x.id Status.state.code
  else match x.tab with
    | none => s.wicketStatus x.id Status.range.code
    | some t =>
      if !x.ok t then s.wicketStatus x.id Status.range.code
      else
        let g := x.section t
        let raws := distinct g.indices
        let idx := fun (r : Nat) => indexOf t.desc.indexSigned g.width r
        let bad := s.refused x.bay
        let found : List Found := raws.map fun r => (r, s.resolve bad x.bay x.die (natAt x.gens x.die) t t.map (idx r))
        let keys := distinctKeys (g.indices.filterMap fun i => (found.find? fun f => f.1 == i).bind (slotKey t))
        let slots := keys.zipIdx.filterMap fun k => t.wicketSlot s x found k.1 k.2
        let walked := raws.foldl (fun s r => State.withDebt s x.bay (State.walkCharge s x.bay x.die t (idx r))) s
        if !s.within walked x.bay true true then s
        else
          let s := walked
          let stale := x.gaveUp || !(s.unacked x.u).isEmpty
          let map := gleanMap t found g.indices keys
          let g : Section := { g with barrier := some stale, window := some map, distinct := keys.length, slots := slots }
          let s := s.modLookup x.id fun y => { y with phase := .fetching, sect := some g }
          let s := (Sys2Proof.Machine.distinct (slots.map RowSlot.tier)).foldl (fun s k => State.wicketSide s x.bay x.die x.no t k) s
          let s := slots.foldl (fun s r => State.wicketFetch s x t r) s
          (s.putPools x.bay x.die none 0 g map fun key _ => .wicketPool x.id key).pump

/-- What the parser of a die takes next (R345): the oldest of level 0, then of level 1, past lookups that are held (R348). -/
inductive WicketNext where
  | lookup (x : Lookup)
  | message (m : WicketMsg)

def State.wicketNext (s : State) (die : Nat) : Option WicketNext :=
  let pick := fun (level : Nat) =>
    let x := leastBy Lookup.id (s.dp.lookups.filter fun x => x.die == die && x.level == level && x.phase == .waiting && !s.lookupHeld x)
    let m := leastBy WicketMsg.id (s.dp.messages.filter fun m => m.die == die && m.level == level)
    match x, m with
    | some x, some m => some (if x.id < m.id then WicketNext.lookup x else .message m)
    | some x, none => some (.lookup x)
    | none, some m => some (.message m)
    | none, none => none
  (pick 0).orElse fun _ => pick 1

/-- Messages waiting in a session's command queue (R488, R592). -/
def State.queued (s : State) (h : Nat) : Nat := (s.net.stewardQueue.filter fun q => (headerOf q.msg).handle == h).length

/-- Whether the command queue of a message's session is full (R488, R592): a message without a session is in none. -/
def State.queueFull (s : State) (r : Req) : Bool :=
  (headerOf r.msg).handle != 0 && decide (64 ≤ s.queued (headerOf r.msg).handle)

/-- A level-1 message joins its session's command queue (R596). -/
def State.joinQueue (s : State) (r : Req) : State :=
  if s.queueFull r then s.respond r false ⟨.busy, 0, []⟩
  else { s with net.stewardQueue := s.net.stewardQueue ++ [r] }

/-- WICKET_PARSE (R723): the parser of a die takes the next message. -/
def execWicketParse (die : Nat) (s : State) : Out :=
  if 1 < die then .fault .noSuchUnit
  else .next <| match s.wicketNext die with
  | some (.lookup x) => s.parseLookup x
  | some (.message m) =>
    if m.level = 0 then s
    else ({ s with dp.messages := s.dp.messages.filter fun y => y.id != m.id }).joinQueue m.req
  | none => s

/-- URGENT_MESSAGE (R350): the urgent message whose turn it is goes to the stewards ahead of every standard message. -/
def execUrgentMessage (die : Nat) (s : State) : Out :=
  if 1 < die then .fault .noSuchUnit
  else .next <| match s.wicketNext die with
  | some (.message m) =>
    if m.level ≠ 0 then s
    else
      let (a, z) := (s.net.stewardQueue.takeWhile isUrgent, s.net.stewardQueue.dropWhile isUrgent)
      { s with dp.messages := s.dp.messages.filter fun y => y.id != m.id, net.stewardQueue := a ++ m.req :: z }
  | _ => s

/-! ### The bypass unit (R254, R255, R724) -/

/-- The bypass unit that a lookup of a level may take: of a quad in A0 (R264). -/
def State.freeBypass (s : State) (die level : Nat) : Option Nat :=
  let free := (List.range 16).filter fun i =>
    (s.thresher (16 * die + i)).bypass.isNone && s.domainA0 (quadDomain (16 * die + i))
  if level = 1 && free.length < 10 then none else free.head?.map fun i => 16 * die + i

/-- Whether every position of a lookup presents something, and every partial of another owner is there. -/
def State.lookupReady (s : State) (x : Lookup) (g : Section) : Bool :=
  ((List.range g.indices.length).all fun i => s.position (x.asSheaf g) 0 g i != .wait) &&
    (bagNodes g 0).all fun n => g.partials.any fun p => p.node == n

/-- Errors that a bypass unit's reads of the granary meet (R353, R371); rows of other homes do not pass the crib. -/
def State.bypassErrors (s : State) (x : Lookup) (g : Section) (fixed bad : List (Nat × Nat)) : State :=
  let here := fun (l : List (Nat × Nat)) => l.filter fun e => (g.slotOf e.1).any fun r => r.home == 0
  s.rowErrors x.bay x.die 0 g.indices.length g (fun s _ => s) (here fixed) (here bad)

/-- The bag of a lookup folded and put through the output stage, in BF16 too where its policy is REDO (R138, R254). Its rows count in the
heat sketch (DESIGN CHOICE, log 165). -/
def State.bypass (s : State) (x : Lookup) (g : Section) : State :=
  let t := g.tab
  let f := x.asSheaf g
  let n := g.indices.length
  let runs := items (slicesOf t.desc.dim) fun j =>
    s.passAux f 0 g 0 j n (List.replicate (min 128 (t.desc.dim - 128 * j)) Lane.initial) 0 false 0
  let (more, ch) := g.partialMarks 0
  let (o, sat) := outputBag f 0 g 0 (s.mergedLanes g 0 (runs.flatMap fun r => r.1)) ((runs.any fun r => r.2.2.1) || ch) more
  let wide := (t.point 4).policy.satPolicy == 1 && !sat.isEmpty
  let conv := if wide then o.vals.map convertWide else []
  let sat2 := (conv.zipIdx.filter fun z => z.1.2).map Prod.snd
  let codes := if wide then conv.map Prod.fst else o.codes
  let nsat := sat.length + sat2.length
  let status := o.status % 16 + 16 * flag (!(if wide then sat2 else sat).isEmpty)
  let (d, al, _) := g.kinds 0
  let fmt := if wide then Fmt.bf16 else (t.point 4).policy.format
  let data := fit (vectorStride fmt t.desc.dim) (packElems fmt codes) ++ o.wins.flatMap (leBytes 8)
  let s := s.withDebt x.bay (s.charge x.bay (34 + x.die) (n * slicesOf t.desc.dim * (if wide then 2 else 1)))
  let s := ((s.count (0x500 + x.die) 1 1).count x.bay 2 1).count x.bay 13 (o.status % 2)
  let s := s.modTable x.bay t.id fun t => { t with counters := { t.counters with
    defaulted := satAdd 64 t.counters.defaulted (d - (g.awayKinds 0).1), aliased := satAdd 64 t.counters.aliased (al - (g.awayKinds 0).2) } }
  let s := (s.countSat x.bay t.id 4 sat).countSat x.bay t.id 4 sat2
  let rows := distinct (((g.window.getD []).filter fun p => p.kind == 0).map Pos.slot)
  let s := (g.slots.filter fun r => rows.contains r.slot && r.home != 3).foldl (fun s r => State.heatRow s x.bay t.id r.row) s
  s.modLookup x.id fun y =>
    { y with phase := .placing, unit := none, bagStatus := status, sat := nsat, widened := wide, result := data, sect := none }

/-- BYPASS_FOLD (R254, R255): a lookup whose rows have arrived takes a bypass unit of its die; a lookup in its unit is folded
and leaves through the output stage; no cap and no debt holds it back (R262). -/
def execBypassFold (f : FoldReads) (s : State) : Out :=
  .next <| match findKey Lookup.id s.dp.lookups f.id with
  | none => s
  | some x => match x.phase, x.sect with
    | .fetching, some g =>
      if !s.lookupReady x g then s
      else match s.freeBypass x.die x.level with
        | none => s
        | some n => (s.modThresher n fun t => { t with bypass := some f.id }).modLookup f.id fun y => { y with phase := .folding, unit := some n }
    | .folding, some g =>
      let s := match x.unit with
        | some n => s.modThresher n fun t => { t with bypass := none }
        | none => s
      (s.bypassErrors x g f.fixed f.bad).bypass x g
    | _, _ => s

/-! ### The result (R349) -/

/-- The status and vector of a lookup as placed at an instant. -/
def Lookup.record (x : Lookup) (now : Nat) : List Byte :=
  leBytes 4 x.tag ++ leBytes 2 x.status ++ leBytes 1 x.bagStatus ++ leBytes 1 (flag x.widened) ++ leBytes 2 (capped 16 x.sat) ++
    timeBytes now ++ x.result

def State.dropLookup (s : State) (id : Nat) : State := { s with dp.lookups := dropKey Lookup.id s.dp.lookups id }

/-- WICKET_RESULT (R349): a lookup's status record, and its vector, are placed in a single write. -/
def execWicketResult (id : Nat) (s : State) : Out :=
  .next <| match findKey Lookup.id s.dp.lookups id with
  | none => s
  | some x =>
    if x.phase ≠ .placing then s
    else
      let data := x.record s.dev.now
      let onNet := fun (q : Option Qp) => match q with
        | none => (s.placeFail x.bay).dropLookup id
        | some q => (s.rdmaSend q x.off x.key data 0 (x.level == 0) true (some x.no) x.die).dropLookup id
      if x.lost then s.dropLookup id
      else match x.req.via with
        | .send n => onNet (((s.qp n).filter fun q => q.error.isNone && q.session == x.session).orElse fun _ => s.lowestRts x.session)
        | .udp .. => onNet (s.lowestRts x.session)
        | _ =>
          if s.regionHolds x.bay x.key x.off data.length true then (s.hostPlace x.key x.off data s.tth.resultRo x.die true).dropLookup id
          else (s.tetherFail x.bay x.tag x.key).dropLookup id

/-! ### BARRIER_TIMEOUT (R348, R426) -/

/-- A wicket lookup whose STRICT barrier has not been satisfied in time goes on. -/
def State.lookupTimeout (s : State) (no : Nat) : State :=
  match s.dp.lookups.find? fun x => x.no == no && x.phase == .waiting with
  | none => s
  | some x => match x.tab with
    | none => s
    | some t =>
      let us := (s.bay x.bay).work.barrierUs
      if us = 0 || x.gaveUp || t.desc.relaxed || s.barrierMet t x.u || s.dev.now < x.acceptedAt + 1000 * us then s
      else (s.modLookup x.id fun y => { y with gaveUp := true }).giveUp x.bay t x.u

/-- BARRIER_TIMEOUT (R426): a section of a lookup sheaf, or a wicket lookup, whose STRICT barrier has not been satisfied in
time gleans: counted from the doorbell, or from the wicket lookup, also while a fence or a rebuild holds the work (DESIGN CHOICE, log 194). -/
def execBarrierTimeout (sheaf sect : Nat) (s : State) : Out :=
  .next <| match s.sheaf sheaf with
  | none => s.lookupTimeout sheaf
  | some x =>
    let us := (s.bay x.bay).work.barrierUs
    if x.isUpdate || x.phase ≠ .accepted || us = 0 || !s.sheafOk x then s
    else
      let s := s.loadSections sheaf
      match (s.sheaf sheaf).bind fun x => x.sections[sect]? with
      | none => s
      | some g =>
        if g.barrier.isSome || g.tab.desc.relaxed || s.barrierMet g.tab g.u || s.dev.now < g.barrierAt + 1000 * us then s
        else (s.modSection sheaf sect fun g => { g with barrier := some true }).giveUp x.bay g.tab g.u

end Sys2Proof.Machine
end

