-- ==== Sys2Proof/Machine/Serve.lean ====
section
/-! DEFINITION. Forwarded requests: how an owner serves them (R521 to R525, R530, R537), what the requester does with the
answers (R217 to R219, R533), errors, path failures and reissue (R532), and timeouts and late completions (R331). -/

namespace Sys2Proof.Machine

/-! ### Messages and their checks -/

/-- A malformed fabric message discarded and counted for the link it came on (R521). -/
def State.malformedFabric (s : State) (link : Nat) : State :=
  (s.modLink link fun l => { l with malformed := satAdd 64 l.malformed 1 }).count (0x400 + link) 5 1

/-- Requests in the incoming queue of a die. -/
def State.incomingOn (s : State) (die : Nat) : Nat := (s.fab.incoming.filter fun i => i.die == die).length

/-- The credit of a request goes back, or is withheld while the queue of its die is full (R530). -/
def State.requestCredit (s : State) (link die : Nat) (m : List Byte) : State :=
  if link = 0 then s
  else if 4096 ≤ s.incomingOn die then s.modLink link fun l => { l with owed := l.owed + flitsOf m.length }
  else s.creditBack link m

/-- A message on a yoke whose kind is not that of the command. -/
def State.wrongKind (s : State) (link : Nat) (m : List Byte) : State :=
  let s := s.malformedFabric link
  if isRequest m then s.requestCredit link (linkDie link) m else s

/-- Whether the answer to a request fits in one message (R521, R522, R524), where this package holds the table. -/
def State.answerFits (s : State) (m : List Byte) (kind : Nat) : Bool :=
  match s.table (u16At m 2) (u16At m 16) with
  | none => true
  | some t =>
    if kind = 3 then decide (u32At m 12 * (8 + 64 * t.maxGranules) ≤ 65504)
    else decide (32 + u32At m 24 * (16 + (if 3 ≤ t.desc.mode then 12 else 8) * t.desc.dim) ≤ 65536)

/-- The rules of the header, the records and the sizes of a request (R521 to R524). A reserved bit that is set breaks them (DESIGN CHOICE, log
158). -/
def State.requestOk (s : State) (m : List Byte) (kind : Nat) : Bool :=
  let n := u32At m 12
  s.envelopeOk m kind (if kind = 5 then 3 else 1) false && decide (u16At m 16 < 4096) && u16At m 18 == 0 && zeroAt m 28 4 && decide (1 ≤ n) &&
    s.answerFits m kind &&
    (if kind = 3 then decide (n ≤ 256) && u32At m 24 == 0 && m.length == 32 + 8 * n &&
        (List.range n).all fun i => bits (u64At m (32 + 8 * i)) 40 24 == 0
      else decide (1 ≤ u32At m 24) && m.length == 32 + 16 * n &&
        (List.range n).all fun i => decide (u32At m (40 + 16 * i) < u32At m 24) &&
          (i == 0 || decide (u32At m (40 + 16 * (i - 1)) < u32At m (40 + 16 * i)) ||
            (u32At m (40 + 16 * (i - 1)) == u32At m (40 + 16 * i) &&
              decide (bits (u64At m (32 + 16 * (i - 1))) 40 24 < bits (u64At m (32 + 16 * i)) 40 24))))

/-- The map of a table by version: the current one or the one before (R537). -/
def Tab.mapOf (t : Tab) (version : Nat) : Option ShardMap :=
  if t.map.version = version then some t.map else (t.prevMap.map Prod.fst).filter fun m => m.version == version

/-- Lanes of a row folded over contributions: weight, winning index, position. -/
def Tab.foldAll (t : Tab) (comp : Bool) (l : List (Nat × Contr × Nat × Nat)) : List Lane :=
  l.foldl (fun ls x => t.foldLanes comp 0 x.1 x.2.1 x.2.2.1 x.2.2.2 ls) (List.replicate t.desc.dim Lane.initial)

/-! ### Timeouts and late completions (R331) -/

/-- A completion that comes too late: counted once and discarded. -/
def State.lateCompletion (s : State) (id : Nat) : State :=
  match s.dp.quarantines.find? fun q => q.id == id && !q.late with
  | none => s
  | some q =>
    let s : State := { s with dp.quarantines := s.dp.quarantines.map fun x => if x.id = id then { x with late := true } else x }
    let s := (s.modCounters q.bay fun c => { c with late := satAdd 32 c.late 1 }).count q.bay 11 1
    match q.ctx with
    | some c => s.modCtx c fun x => x.bump 5 1
    | none => s

/-- LATE_COMPLETION (R331): a completion after its timeout. -/
def execLateCompletion (id : Nat) (s : State) : Out := .next (s.lateCompletion id)

/-- QUARANTINE_END (R331): twice the timeout has passed. -/
def execQuarantineEnd (id : Nat) (s : State) : Out :=
  .next { s with dp.quarantines := s.dp.quarantines.filter fun q => !(q.id == id && decide (q.until_ ≤ s.dev.now)) }

/-! ### The requester -/

/-- Positions of a section that a partial key covers, with their places. -/
def Section.poolPositions (g : Section) (key : Nat) (bags : List Nat) : List (Pos × Nat) :=
  (g.window.getD []).zipIdx.filter fun p => p.1.kind == 3 && p.1.slot == key && bags.contains (g.bagOf p.2)

/-- The partial of chaffed rows that stands for one that has not come (R219). -/
def Section.chaffedPartial (g : Section) (key bag : Nat) : Partial :=
  let mine := g.poolPositions key [bag]
  Partial.ofLanes key bag 0 true (g.tab.foldAll g.tab.pool.compensated
    (mine.map fun p => (g.weight p.2, g.tab.zeroContr true, g.winIndex p.2, p.2 - g.bagStart bag)))

/-- The section whose positions a request pools, and its change: of a sheaf, or of a wicket lookup (R348). -/
def State.poolSection (s : State) (p : Purpose) : Option Section :=
  match p with
  | .pool no k _ _ => (s.sheaf no).bind fun f => f.sections[k]?
  | .wicketPool id _ => (findKey Lookup.id s.dp.lookups id).bind Lookup.sect
  | _ => none

def State.modPool (s : State) (p : Purpose) (f : Section → Section) : State :=
  match p with
  | .pool no k _ _ => s.modSection no k f
  | .wicketPool id _ => s.modLookup id fun y => { y with sect := y.sect.map f }
  | _ => s

/-- The key and the bags of a request for partials. -/
def Purpose.partials : Purpose → Option (Nat × List Nat)
  | .pool _ _ key bags => some (key, bags)
  | .wicketPool _ key => some (key, [0])
  | _ => none

/-- The purpose of the same positions under another key, for some of the bags. -/
def Purpose.under (p : Purpose) (key : Nat) (bags : List Nat) : Purpose :=
  match p with
  | .pool no k _ _ => .pool no k key bags
  | .wicketPool id _ => .wicketPool id key
  | p => p

/-- Partials that reach their section: the bags that wait for them may have become ready (R218, R245). -/
def State.takePartials (s : State) (r : Read) (f : Section → List Partial) : State :=
  ((if r.dropped then s else s.modPool r.purpose fun g => { g with partials := g.partials ++ f g }).deliver' r []).noteAll

/-- A request is no longer out. -/
def State.dropRequest (s : State) (id : Nat) : State := { s with fab.requests := s.fab.requests.filter fun q => q.id != id }

/-- A read's positions contribute as chaffed rows (R219, R331). -/
def State.chaffAll (s : State) (r : Read) : State :=
  let s := s.dropRequest r.id
  match r.purpose.partials with
  | some (key, bags) => s.takePartials r fun g => bags.map (g.chaffedPartial key)
  | none => s.deliver' r (List.replicate (max 1 r.granules) none)

/-- A remote row's answer put where its slot is: its tier and granules, or the default row for DEFAULT (1) and ALIAS (2). -/
def Section.answered (g : Section) (slot result tier : Nat) : Section :=
  { g with
    window := if result = 0 then g.window else g.window.map fun l => l.map fun p =>
      if p.slot = slot && p.kind = 0 then { p with kind := result } else p
    slots := g.slots.map fun r => if r.slot = slot then { r with tier := tier, granules := g.tab.rowGranules tier } else r }

/-- Granules of bytes that arrived. -/
def granulesIn (data : List Byte) : List (Option (List Byte)) := (chunks 64 data).map some

/-- A table's default row as this package holds it (R522), as granules: none where it cannot be read. -/
def State.defaultGranules (s : State) (b : Nat) (t : Tab) : List (Option (List Byte)) :=
  match t.defRow with
  | some r => if s.rowBad b 0 1 r.first r.len then [none] else granulesIn (padTo 64 (s.defaultBytes b t))
  | none => [some (zeros 64)]

/-- The table under whose settings an answer is taken: as bound by the work that asked (R147, R536). -/
def State.answerTab (s : State) (r : Read) (table : Nat) : Option Tab :=
  match r.purpose with
  | .row no k _ | .pool no k _ _ => ((s.sheaf no).bind fun f => f.sections[k]?).map Section.tab
  | .wicket id _ | .wicketPool id _ => ((findKey Lookup.id s.dp.lookups id).bind Lookup.sect).map Section.tab
  | _ => s.table r.bay table

/-- The answer to a READ_REQ reaches what its read was made for, with the side tensor of the row's tier (R217, R327). A staged copy takes
the tier and the length of the row that came (R376). -/
def State.rowAnswered (s : State) (r : Read) (t : Tab) (result tier : Nat) (data : List Byte) : State :=
  let l := if result = 0 then granulesIn data else if result = 3 then [none] else s.defaultGranules r.bay t
  let tier := if result = 0 then tier else 0
  if r.dropped || result = 3 then s.deliver' r (if result = 3 then [none] else l)
  else match r.purpose with
    | .row no k slot =>
      let s := s.modSection no k fun g => g.answered slot result tier
      let s := match (s.sheaf no).bind fun f => f.sections[k]? with
        | some g => s.fetchSide no k g r.bay r.die r.ctx r.queue tier
        | none => s
      s.deliver' r l
    | .wicket id slot =>
      let s := s.modLookup id fun x => { x with sect := x.sect.map fun g => g.answered slot result tier }
      let s := match findKey Lookup.id s.dp.lookups id with
        | some x => s.wicketSide r.bay r.die x.no t tier
        | none => s
      s.deliver' r l
    | .stage .. =>
      let s := if result = 0 then s.modStage r.bay r.die fun d =>
          { d with copies := d.copies.map fun c => if c.read = r.id then { c with tier := tier, granules := t.rowGranules tier } else c }
        else s
      s.deliver' r (if result = 0 then l else [none])
    | _ => s.deliver' r l

/-- Partials of a POOL_RESP: one record a bag (R524); none where it breaks the format. -/
def Tab.partialsOf (t : Tab) (key : Nat) (m : List Byte) (bags : List Nat) : Option (List Partial) :=
  let d := t.desc.dim
  let size := 16 + (if 3 ≤ t.desc.mode then 12 else 8) * d
  if m.length ≠ 32 + size * bags.length || u32At m 12 ≠ bags.length || u32At m 24 ≠ bags.length then none
  else if !(List.range bags.length).all fun i =>
      u32At m (32 + size * i) == i && decide (u8At m (32 + size * i + 12) ≤ 1) && zeroAt m (32 + size * i + 13) 3 then none
  else some <| bags.zipIdx.map fun x =>
    let o := 32 + size * x.2
    let p := o + 16
    let ls : List Lane := items d fun c =>
      if 3 ≤ t.desc.mode then
        let w := u64At m (p + 4 * d + 8 * c)
        { Lane.initial with s := u32At m (p + 4 * c), idx := bits w 0 40, pos := bits w 40 24 }
      else if t.intCol c then { Lane.initial with acc := signedOf 64 (u64At m (p + 8 * c)) }
      else { Lane.initial with s := u32At m (p + 8 * c), c := u32At m (p + 8 * c + 4) }
    Partial.ofLanes key x.1 (u32At m (o + 8)) (u8At m (o + 12) == 1) ls

/-- The request that an answer is for: by its own number, or by that of the original it reissues (R533). -/
def State.requestFor (s : State) (m : List Byte) : Option FabRequest :=
  let id := u32At m 8
  s.fab.requests.find? fun q => (q.id % 2 ^ 32 == id || (q.original.map (· % 2 ^ 32)) == some id) && q.bay == u16At m 2

/-- The outcome of a request decided by an answer: the other of an original and its reissue becomes a late completion
(R533). -/
def State.settle (s : State) (q : FabRequest) (id : Nat) : State :=
  let s := s.dropRequest q.id
  if q.id % 2 ^ 32 = id then s
  else
    let s : State := { s with dp.quarantines := s.dp.quarantines.filter fun x => x.id % 2 ^ 32 != id }
    match (findKey Read.id s.dp.reads q.id).filter Read.started with
    | some r => s.quarantine r
    | none => s

/-- The checks of a response (R521): an ERROR carries a status of R21. -/
def State.responseOk (s : State) (m : List Byte) (kind : Nat) : Bool :=
  s.envelopeOk m kind 0 true && zeroAt m 28 4 && (if kind = 7 then decide (u16At m 18 ≤ 0x000D) else u16At m 18 == 0)

/-- A READ_RESP or POOL_RESP received (R217, R218, R522, R524). -/
def State.answerIn (s : State) (link : Nat) (m : List Byte) : State :=
  let kind := u8At m 0
  if !s.responseOk m kind then s.malformedFabric link
  else match (s.requestFor m).filter fun q => q.kind + 1 == kind with
    | none => s.lateCompletion (u32At m 8)
    | some q => match findKey Read.id s.dp.reads q.id with
      | none => s.dropRequest q.id
      | some r => match s.answerTab r q.table with
        | none => (s.settle q (u32At m 8)).chaffAll r
        | some t => match r.purpose.partials with
          | some (key, bags) => match t.partialsOf key m bags with
            | some l => (s.settle q (u32At m 8)).takePartials r fun _ => l
            | none => s.malformedFabric link
          | none =>
            let w := u64At m 32
            let result := bits w 42 2
            let tier := bits w 40 2
            let n := if result = 0 then 64 * t.rowGranules tier else 0
            if u32At m 12 ≠ 1 || m.length ≠ 40 + n || bits w 44 20 ≠ 0 || bits w 0 40 ≠ natAt q.rows 0 then s.malformedFabric link
            else (s.settle q (u32At m 8)).rowAnswered r t result tier (m.drop 40)

/-- READ_RESP on a yoke. -/
def execReadResp (link : Nat) (msg : List Byte) (s : State) : Out :=
  s.onYoke link msg fun s => if u8At msg 0 = 4 then s.answerIn link msg else s.wrongKind link msg

/-- POOL_RESP on a yoke. -/
def execPoolResp (link : Nat) (msg : List Byte) (s : State) : Out :=
  s.onYoke link msg fun s => if u8At msg 0 = 6 then s.answerIn link msg else s.wrongKind link msg

/-! ### Reissue (R532) -/

/-- A request put again with a new number, to be issued at once if it may (R532): the original's number is quarantined from now
(R533). One whose next owner is this package is served here. -/
def State.reissueTo (s : State) (q : FabRequest) (r : Read) (node : Nat) (purpose : Purpose) (rows : List Nat) (bags : Nat)
    (body : List Byte) (original : Option Nat) : State :=
  (s.putRequest q.bay q.die r.ctx r.queue purpose q.kind (u8At q.msg 1 % 4 ||| 1) node q.table q.version bags rows body r.granules
    original).pump

/-- A request and its read taken back, its number quarantined. -/
def State.withdraw (s : State) (q : FabRequest) (r : Read) : State :=
  let s := if r.started then (s.dropRequest q.id).quarantine r else s.dropRequest q.id
  { s with dp.reads := dropKey Read.id s.dp.reads r.id }

/-- A request whose path has failed takes the next one; a second failure chaffs its positions. -/
def State.pathFailed (s : State) (q : FabRequest) (r : Read) : State :=
  if q.reissued then (s.quarantine r).chaffAll r
  else (s.withdraw q r).reissueTo q r q.node r.purpose q.rows (u32At q.msg 24) (q.msg.drop 32) (some q.id)

/-- The next owner of a row under the map of a request (R535). -/
def State.nextOwner (s : State) (q : FabRequest) (row : Nat) : Option Nat :=
  ((s.table q.bay q.table).bind fun t => t.mapOf q.version).bind fun m =>
    ((candidates m row).find? fun e => s.available (s.refused q.bay) e.owner).map MapEntry.owner

/-- The positions of a pool request that its owner refused go to their next owners, each owner's partials under a key of its
own; a position with none contributes as a chaffed row. -/
def State.repool (s : State) (q : FabRequest) (r : Read) (key : Nat) (bags : List Nat) : State :=
  match s.poolSection r.purpose with
  | none => s
  | some g =>
    let mine := g.poolPositions key bags
    let place := fun (p : Pos × Nat) => s.nextOwner q (natAt g.indices p.2 % 2 ^ 40)
    let used := Sys2Proof.Machine.distinct ((g.window.getD []).filterMap fun p => if p.kind = 3 then some p.slot else none)
    let keyOf := fun (n : Nat) => n + 65536 * (((List.range used.length).find? fun k => !used.contains (n + 65536 * k)).getD used.length)
    let s := s.modPool r.purpose fun g => { g with
      window := g.window.map fun l => l.zipIdx.map fun p =>
        if mine.any fun x => x.2 == p.2 then (match place p with
          | some n => { p.1 with slot := keyOf n }
          | none => { p.1 with kind := 4 }) else p.1 }
    (Sys2Proof.Machine.distinct (mine.filterMap place)).foldl (fun s n =>
      let these := mine.filter fun p => place p == some n
      let bs := Sys2Proof.Machine.distinct (these.map fun p => g.bagOf p.2)
      let body := these.flatMap fun p =>
        let bag := g.bagOf p.2
        leBytes 8 (natAt g.indices p.2 % 2 ^ 40 + (p.2 - g.bagStart bag) * 2 ^ 40) ++ leBytes 4 (bs.findIdx (· == bag)) ++
          leBytes 4 (g.weight p.2)
      State.reissueTo s q r n (r.purpose.under (keyOf n) bs) (these.map fun p => natAt g.indices p.2 % 2 ^ 40) bs.length body none) s

/-- FABRIC_ERROR (R525, R532, R535): an owner that answers FAULTED, NO_BAY or STATE is not available for a second, and the
request goes to the next owner; any other error chaffs its positions. -/
def State.errorIn (s : State) (link : Nat) (m : List Byte) : State :=
  if !s.responseOk m 7 || m.length ≠ 32 || u32At m 12 ≠ 0 || u32At m 24 ≠ 0 then s.malformedFabric link
  else match s.requestFor m with
    | none => s.lateCompletion (u32At m 8)
    | some q => match findKey Read.id s.dp.reads q.id with
      | none => s.dropRequest q.id
      | some r =>
        let st := u16At m 18
        if st = 12 || st = 4 || st = 10 then
          let node := u16At m 6
          let s : State := { s with fab.refusals := (node, q.bay, s.dev.now) :: s.fab.refusals.filter fun x => !(x.1 == node && x.2.1 == q.bay) }
          if q.reissued then s.chaffAll r
          else match r.purpose.partials with
            | some (key, bags) =>
              let s := s.dropRequest q.id
              let s : State := { s with dp.reads := dropKey Read.id s.dp.reads r.id }
              if r.dropped then s else s.repool q r key bags
            | none => match s.nextOwner q (natAt q.rows 0) with
              | some n =>
                let s := s.dropRequest q.id
                let s : State := { s with dp.reads := dropKey Read.id s.dp.reads r.id }
                s.reissueTo q r n r.purpose q.rows 0 (q.msg.drop 32) none
              | none => s.chaffAll r
        else s.chaffAll r

def execFabricError (link : Nat) (msg : List Byte) (s : State) : Out :=
  s.onYoke link msg fun s => if u8At msg 0 = 7 then s.errorIn link msg else s.wrongKind link msg

/-- Whether the path of a request has failed (R532): its yoke is not UP, its relay package has left the roster, its sub-port is
down, or its host relay is gone. -/
def State.pathDead (s : State) (p : FabPath) : Bool :=
  match p with
  | .yoke y => !(s.link y).state.carries
  | .via y n => !(s.link y).state.carries || !s.net.muster.roster.any fun m => m.number == n
  | .ether port sub => !s.linkUp port sub
  | .host i => !(s.fab.relays[i]?).any fun r => r.enabled && r.peerAliveAt.any fun t => decide (s.dev.now ≤ t + 10000000)
  | .none => false

/-- PATH_FAILURE (R532): the path of a request fails while it is out. -/
def execPathFailure (id : Nat) (s : State) : Out :=
  .next <| match s.fab.requests.find? fun q => q.id == id with
  | none => s
  | some q => match findKey Read.id s.dp.reads id with
    | none => s.dropRequest id
    | some r => if s.pathDead q.path then s.pathFailed q r else s

/-! ### The owner -/

/-- A row as an owner reads it for a request: the tier and its bytes, or why there are none: 1 DEFAULT, 2 ALIAS, 3 CHAFFED
(R522). -/
inductive Served where
  | row (tier : Nat) (bytes : List Byte)
  | other (result : Nat)
deriving DecidableEq, Repr

/-- What a row resolves to under a map, among the entries of the map that name this package (R530, R537). -/
def State.servedAs (s : State) (b die : Nat) (t : Tab) (m : ShardMap) (row : Nat) : Resolved :=
  if row < t.desc.rows && !s.owns m row then .default
  else s.resolve [] b die (s.hotDie b die).gen t { m with entries := m.entries.filter fun e => s.isSelf e.owner } (some row)

/-- Where the bytes of a row that a request asks for lie: home, half, granule and tier. -/
def State.servedAt (s : State) (b die : Nat) (t : Tab) (m : ShardMap) (row : Nat) : Option (Nat × Nat × Nat × Nat) :=
  match s.servedAs b die t m row with
  | .copy half off tier => some (0, half, off, tier)
  | .place home tier addr => some (home, (s.hotDie b die).live, addr, tier)
  | _ => none

/-- One row served under a map for a bay on a die (R530, R537): an index that the map assigns to another package is DEFAULT and
reported. DEFAULT and ALIAS count in the table's counters here (R173). -/
def State.serveRow (s : State) (b die node : Nat) (t : Tab) (m : ShardMap) (row : Nat) : Served × State :=
  let away := row < t.desc.rows && !s.owns m row
  let mine := { t with map := { m with entries := m.entries.filter fun e => s.isSelf e.owner } }
  match s.servedAs b die t m row, s.servedAt b die t m row with
  | _, some (home, half, addr, tier) =>
    let g := t.rowGranules tier
    let s := ((s.walkCharge b die mine (some row)).access b die 2 home addr g false).reportBad b home addr g
    let l := items g fun i => s.granuleAt b die home (addr + i) half
    (if l.any Option.isNone then .other 3 else .row tier (granBytes l), s)
  | r, none =>
    let s := s.walkCharge b die mine (some row)
    match r with
    | .aliasTo => (.other 2, s.countTable b t.id fun k => { k with aliased := satAdd 64 k.aliased 1 })
    | .noOwner | .unreadable => (.other 3, s)
    | _ =>
      let s := s.countTable b t.id fun k => { k with defaulted := satAdd 64 k.defaulted 1 }
      let elsewhere := match r with
        | .forward _ => true
        | _ => away
      (.other 1, if elsewhere then s.raise 0x0808 1 (some b) none (leBytes 2 t.id ++ leBytes 2 node ++ leBytes 8 row) else s)

/-- Each row of a request served in order. -/
def State.serveRows (b die node : Nat) (t : Tab) (m : ShardMap) : List Nat → State → List Served × State
  | [], s => ([], s)
  | r :: l, s =>
    let (x, s) := s.serveRow b die node t m r
    let (xs, s) := State.serveRows b die node t m l s
    (x :: xs, s)

/-- The rows of a request in the heat sketch: each distinct one that lies here, once (R193, R194). One whose entry cannot be read, and which
is answered CHAFFED, is not counted (DESIGN CHOICE, log 194). -/
def State.heatServed (s : State) (b die : Nat) (t : Tab) (m : ShardMap) (rows : List Nat) : State :=
  ((distinct rows).filter fun r => (s.servedAt b die t m r).isSome).foldl (fun s r => State.heatRow s b t.id r) s

/-- One answer of a READ_RESP (R522). -/
def readAnswer (row : Nat) (x : Served) : List Byte :=
  match x with
  | .row tier bytes => leBytes 8 (row + tier * 2 ^ 40) ++ bytes
  | .other result => leBytes 8 (row + result * 2 ^ 42)

/-- What a served row contributes to a partial (R218): the default row of this package for DEFAULT and ALIAS. -/
def State.servedContr (s : State) (b : Nat) (t : Tab) (x : Served) : Contr :=
  match x with
  | .row tier bytes => t.contr tier bytes
  | .other 3 => t.zeroContr true
  | .other _ => match t.defRow with
    | some r => if s.rowBad b 0 1 r.first r.len then t.zeroContr true else t.contr 0 (s.defaultBytes b t)
    | none => t.zeroContr false

/-- A partial's values (R524). -/
def Tab.partialData (t : Tab) (ls : List Lane) : List Byte :=
  if 3 ≤ t.desc.mode then ls.flatMap (fun l => leBytes 4 l.s) ++ ls.flatMap fun l => leBytes 8 (l.idx + l.pos * 2 ^ 40)
  else ls.zipIdx.flatMap fun l => if t.intCol l.2 then leBytes 8 (unsignedOf 64 l.1.acc) else leBytes 4 l.1.s ++ leBytes 4 l.1.c

/-- The record of one bag of a POOL_RESP (R524): its served positions as (weight, row, position, what was served). Where the table is not
weighted the weight is 1.0 (R208), whatever the request carries (R523). -/
def State.bagRecord (s : State) (b : Nat) (t : Tab) (comp : Bool) (bag : Nat) (l : List (Nat × Nat × Nat × Served)) : List Byte :=
  let xs := l.map fun x => (if t.desc.mode = 2 then x.1 else f32One, s.servedContr b t x.2.2.2,
    (if x.2.2.2 = .other 1 then defaultMark else x.2.1), x.2.2.1)
  leBytes 4 bag ++ leBytes 4 l.length ++ leBytes 4 (l.filter fun x => x.2.2.2 == .other 1).length ++
    leBytes 1 (flag (xs.any fun x => x.2.1.chaffed)) ++ zeros 3 ++ t.partialData (t.foldAll comp xs)

/-- The rows that a request asks for. -/
def requestRows (m : List Byte) : List Nat :=
  items (u32At m 12) fun i => bits (u64At m (32 + (if u8At m 0 = 3 then 8 else 16) * i)) 0 40

/-- Passes that pooling the bags of a POOL_REQ takes (R234). -/
def poolPasses (m : List Byte) (d : Nat) : Nat :=
  if u8At m 0 = 3 then 0
  else
    let bags := items (u32At m 12) fun i => u32At m (40 + 16 * i)
    slicesOf d * sumBy (fun bag => ((bags.filter (· == bag)).length + 15) / 16) (List.range (u32At m 24))

/-- The table and the map under which a request is resolved, where its bay can serve it. -/
def State.requestTab (s : State) (m : List Byte) : Option (Tab × ShardMap) :=
  if s.dev.fatal || s.bayState (u16At m 2) ≠ .opened then none
  else ((s.table (u16At m 2) (u16At m 16)).filter fun t => t.life != .destroying).bind fun t => (t.mapOf (u32At m 20)).map fun p => (t, p)

/-- The answer of an owner to a request in the queue of a die (R522 to R525): its message, and the state after. -/
def State.ownerAnswer (s : State) (die : Nat) (m : List Byte) : List Byte × State :=
  let kind := u8At m 0
  let b := u16At m 2
  let node := u16At m 4
  let n := u32At m 12
  let table := u16At m 16
  let head := fun (kind records status bags : Nat) =>
    forwardHead kind 0 b node s.selfNumber (u32At m 8) records table status (u32At m 20) bags
  let error := fun (st : Status) => head 7 0 st.code 0
  match s.requestTab m with
  | none =>
    if s.dev.fatal then (error .faulted, s)
    else if s.bayState b = .absent then (error .noBay, s)
    else if s.bayState b ≠ .opened then (error .state, s)
    else if (s.table b table).any fun t => t.life != .destroying then (error .state, s)
    else (error .range, s.raise 0x0C01 1 (some b) (some die) (leBytes 1 5 ++ zeros 3 ++ leBytes 8 table))
  | some (t, map) =>
    let rows := requestRows m
    let (xs, s) := State.serveRows b die node t map rows s
    let s := s.heatServed b die t map rows
    if kind = 3 then (head 4 n 0 0 ++ (rows.zip xs).flatMap fun x => readAnswer x.1 x.2, s)
    else
      let all := xs.zipIdx.map fun x =>
        let o := 32 + 16 * x.2
        (u32At m (o + 8), u32At m (o + 12), bits (u64At m o) 0 40, bits (u64At m o) 40 24, x.1)
      let bags := u32At m 24
      let mine := fun (bag : Nat) => (all.filter fun x => x.1 == bag).map Prod.snd
      let passes := poolPasses m t.desc.dim
      let s := (s.charge b (34 + die) passes).count (0x500 + die) 0 passes
      (head 6 bags 0 bags ++ (List.range bags).flatMap fun bag => s.bagRecord b t (bit (u8At m 1) 1) bag (mine bag), s)

/-- Whether the regulators, the bounds and its turn let a request be served now: for the bay it names, on its die, in queue 2 (R530). -/
def State.incomingMay (s : State) (i : Incoming) : Bool :=
  match s.requestTab i.msg with
  | none => true
  | some (t, map) =>
    let b := u16At i.msg 2
    ((u8At i.msg 0 == 3 || s.mayServe b (34 + i.die)) && (distinct (requestRows i.msg)).all fun row =>
      match s.servedAt b i.die t map row with
      | some (home, _, addr, tier) =>
        let g := t.rowGranules tier
        s.mayAccess b i.die 2 home addr g false && s.boundsMay b i.die none home addr g
      | none => true) && s.within (s.ownerAnswer i.die i.msg).2 b true false

/-- The credit withheld on the yokes of a die goes back once its queue has room (R530). -/
def State.returnOwed (s : State) (die : Nat) : State :=
  if 4096 ≤ s.incomingOn die then s
  else [1, 2, 3, 4].foldl (fun s i =>
    let n := (State.link s i).owed
    if linkDie i ≠ die || n = 0 then s else (s.modLink i fun l => { l with owed := 0 }).emit (.linkCredit i 2 n)) s

/-- A request of the queue served: its answer leaves on the first path to the requester, or reaches this package itself. -/
def State.serveOne (s : State) (i : Incoming) : State :=
  let s : State := { s with fab.incoming := s.fab.incoming.erase i }
  let (answer, s) := s.ownerAnswer i.die i.msg
  let node := u16At i.msg 4
  let s := if s.isSelf node then (if u8At answer 0 = 7 then s.errorIn 0 answer else s.answerIn 0 answer)
    else s.sendFabric (some (u16At i.msg 2)) i.die node (s.pathTo node (u32At i.msg 8) []) answer
  s.returnOwed i.die

/-- Requests served as long as one may be; the first argument bounds them. -/
def State.serveAll : Nat → State → State
  | 0, s => s
  | n + 1, s => match s.fab.incoming.find? s.incomingMay with
    | none => s
    | some i => State.serveAll n (s.serveOne i)

def State.serveIncoming (s : State) : State := State.serveAll s.fab.incoming.length s

/-- A READ_REQ or POOL_REQ received (R530): it joins the queue of its die. A node that muster has stopped serves no forwarded
traffic (R509). -/
def State.ownerServe (s : State) (link die : Nat) (m : List Byte) : State :=
  if s.net.muster.phase = .stopped then s.requestCredit link die m
  else if !s.requestOk m (u8At m 0) then (s.malformedFabric link).requestCredit link die m
  else (({ s with
    fab.incoming := s.fab.incoming ++ [⟨die, if link = 0 then none else some link, m⟩] } : State).requestCredit link die m).serveIncoming

/-- READ_REQ on a yoke (R530). -/
def execReadReq (link : Nat) (msg : List Byte) (s : State) : Out :=
  s.onYoke link msg fun s => if u8At msg 0 = 3 then s.ownerServe link (linkDie link) msg else s.wrongKind link msg

/-- POOL_REQ on a yoke (R523, R530). -/
def execPoolReq (link : Nat) (msg : List Byte) (s : State) : Out :=
  s.onYoke link msg fun s => if u8At msg 0 = 5 then s.ownerServe link (linkDie link) msg else s.wrongKind link msg

/-! ### Arrival by any carrier -/

/-- A fabric message that has arrived whole (R420, R521, R527, R573): `die` is the die it came in on. -/
def State.fabricIn (s : State) (link die : Nat) (m : List Byte) : State :=
  match u8At m 0 with
  | 1 => if s.net.muster.phase = .stopped then s else s.ledgerContrib m
  | 2 => s.ledgerAck m
  | 3 | 5 => s.ownerServe link die m
  | 4 | 6 => s.answerIn link m
  | 7 => s.errorIn link m
  | _ => s.malformedFabric link

end Sys2Proof.Machine
end

