-- ==== Sys2Proof/Machine/Shard.lean ====
section
/-! DEFINITION. Shard maps (R534 to R537, R540) and the commands carried out on several packages (R538, R539). -/

namespace Sys2Proof.Machine

/-! ### Maps as bytes (R534) -/

def mapHead (table entries version : Nat) : List Byte := leBytes 2 table ++ leBytes 2 entries ++ leBytes 4 version ++ zeros 8

def ShardMap.bytes (table : Nat) (m : ShardMap) : List Byte :=
  mapHead table m.entries.length m.version ++ m.entries.flatMap fun e =>
    leBytes 8 e.first ++ leBytes 8 e.last ++ leBytes 2 e.owner ++ leBytes 1 e.priority ++ zeros 5

def mapEntryAt (d : List Byte) (i : Nat) : MapEntry :=
  let o := 16 + 24 * i
  ⟨u64At d o, u64At d (o + 8), u16At d (o + 16), u8At d (o + 18)⟩

def mapFrom (d : List Byte) : ShardMap := ⟨u32At d 4, items (u16At d 2) (mapEntryAt d)⟩

def entriesMeet (a b : MapEntry) : Bool := decide (a.first ≤ b.last) && decide (b.first ≤ a.last)

/-- The checks of a map for a table of `rows` rows (R534), by offset in its bytes. -/
def State.mapChecks (s : State) (d : List Byte) (rows : Nat) : List (Nat × Bool) :=
  let n := u16At d 2
  let l := items n (mapEntryAt d)
  [(2, decide (1 ≤ n) && decide (n ≤ 4096) && d.length == 16 + 24 * n), (8, zeroAt d 8 8)] ++
    (l.zipIdx.flatMap fun e =>
      let o := 16 + 24 * e.2
      [(o, decide (e.1.first < 2 ^ 40) && decide (e.1.first ≤ e.1.last)), (o + 8, decide (e.1.last < rows)),
       (o + 16, (s.isSelf e.1.owner || s.admitted e.1.owner) &&
         (l.take e.2).all fun x => !(x.owner == e.1.owner && entriesMeet x e.1)),
       (o + 18, decide (e.1.priority ≤ 7)), (o + 19, zeroAt d (o + 19) 5)])

/-! ### Segments (R163, R537, R538) -/

/-- The parts of a range that no segment covers. -/
def uncovered (segs : List Segment) (first last : Nat) : List (Nat × Nat) :=
  segs.foldl (fun l g => l.flatMap fun r =>
    let e := r.1 + r.2
    let ge := g.start + g.rows
    if ge ≤ r.1 || e ≤ g.start then [r]
    else (if r.1 < g.start then [(r.1, g.start - r.1)] else []) ++ (if ge < e then [(ge, e - ge)] else [])) [(first, last + 1 - first)]

/-- Segments for the rows of a map that the package owns and holds none for; none is NO_SPACE. A range that an older segment covers in part
keeps it and gets further ones for the rest (DESIGN CHOICE, log 194). -/
def State.newSegments (s : State) (b : Nat) (t : Tab) (m : ShardMap) : Option (List Segment × State) :=
  let ranges := (m.entries.filter fun e => s.isSelf e.owner).flatMap fun e => uncovered t.segments e.first e.last
  ranges.foldl (fun acc r => match acc with
    | none => none
    | some ((l : List Segment), s) => match State.allocSegment s b t.desc t.opt r.1 r.2 with
      | some (g, s) => some (l ++ [g], s)
      | none => none) (some ([], s))

/-- The package switches to a map (R537): the one before is kept, and staged copies of the table are invalidated (R380). -/
def State.install (s : State) (b table : Nat) (m : ShardMap) (segs : List Segment) : State :=
  (s.modTable b table fun t =>
    { t with segments := t.segments ++ segs, map := m, prevMap := some (t.map, s.dev.accepted, s.dev.now) }).dropStagedTable b table

/-- Blocks of segments given back. -/
def State.freeSegments (s : State) (b : Nat) (segs : List Segment) : State :=
  s.modBay b fun y => { y with space := { y.space with
    siloUsed := (segs.flatMap fun g => g.dir ++ g.state).foldl (fun l r => cutRun r l) y.space.siloUsed } }

/-- MAP_VERSION_RETIRE (R537): a previous version is dropped once its sheafs have completed and twice the end-to-end timeout
has passed; the rows that the package no longer owns are freed, and with them each segment of which it owns no row. -/
def execMapVersionRetire (bay table : Nat) (s : State) : Out :=
  if 15 < bay then .fault .noSuchUnit
  else .next <| match s.table bay table with
  | none => s
  | some t => match t.prevMap with
    | none => s
    | some (_, before, since) =>
      if !s.doneBefore bay before || s.dev.now < since + 2000 * (s.bay bay).work.e2eUs then s
      else
        let s := ((s.entries bay t).filter fun e => !s.owns t.map e.1).foldl (fun s e =>
          ((State.freeEntry s bay t e.2).setEntry bay t e.1 (entryOf 0)).dropCopies bay table e.1) s
        let owned := fun (g : Segment) => t.map.entries.any fun e => s.isSelf e.owner && decide (e.first < g.start + g.rows) &&
          decide (g.start ≤ e.last)
        let gone := t.segments.filter fun g => !owned g
        let s := s.modTable bay table fun t => { t with prevMap := none, segments := t.segments.filter owned }
        let runs := gone.flatMap fun g => g.dir ++ g.state
        s.modBay bay fun y => { y with space := runs.foldl (fun sp r => sp.freeSilo r s.dev.accepted) y.space }

/-- A renumbering rewrites every entry that names a renumbered node, as a new version (R540); the staged copies of such a table are
invalidated (R380). -/
def State.renumberMaps (s : State) (new : List (Nat × Nat)) : State :=
  let fix := fun (n : Nat) => ((findKey Prod.fst new n).map Prod.snd).getD n
  let changed := (List.range 16).flatMap fun b => ((s.bay b).tables.filter fun t => t.map.entries.any fun e => fix e.owner != e.owner).map
    fun t => (b, t.id)
  let s := changed.foldl (fun s t => State.dropStagedTable s t.1 t.2) s
  { s with bays := s.bays.map fun y => { y with
      tables := y.tables.map fun t =>
        if t.map.entries.any fun e => fix e.owner != e.owner then
          let m : ShardMap := ⟨(t.map.version + 1) % 2 ^ 32, t.map.entries.map fun e => { e with owner := fix e.owner }⟩
          { t with map := m, prevMap := some (t.map, s.dev.accepted, s.dev.now) }
        else t } }

/-! ### What Span copies (R539) -/

/-- A message that a package makes for another: a request without a session. -/
def innerMsg (op b : Nat) (payload : List Byte) : List Byte :=
  (Header.bytes ⟨2, 0, op, b, payload.length % 65536, 0, 0⟩) ++ payload

def Policy.bytes (target : Nat) (p : Policy) : List Byte :=
  leBytes 1 target ++ leBytes 1 (codeOfFmt p.format) ++ leBytes 1 p.storage ++ leBytes 1 p.discovery ++ leBytes 1 p.history ++
    leBytes 1 p.margin ++ leBytes 1 p.outlier ++ leBytes 1 p.splitCount ++ leBytes 1 p.satPolicy ++ leBytes 1 (flag p.symmetric) ++
    zeros 2 ++ leBytes 4 p.satThreshold ++ zeros 16

/-- A payload with its bulk data inline. -/
def bulkPayload (head data : List Byte) : List Byte :=
  fit 8 head ++ leBytes 4 1 ++ zeros 12 ++ leBytes 4 data.length ++ zeros 4 ++ data

/-- The messages that set up one point of a table. -/
def setupPoint (b : Nat) (t : Tab) (k : Nat) : List (List Byte) :=
  let p := t.point k
  let id := leBytes 2 t.id
  [innerMsg 0x0801 b (fit 8 id ++ p.policy.bytes k)] ++
    (if isScaled p.policy.format then
      [innerMsg 0x0802 b (bulkPayload (id ++ leBytes 1 k ++ leBytes 1 p.policy.storage) (scaleData p.policy t.desc.dim p.scales))] else []) ++
    (if p.explicit.isEmpty then [] else
      [innerMsg 0x0802 b (bulkPayload (id ++ leBytes 1 k ++ leBytes 1 2) (p.explicit.flatMap rescaleBytes))]) ++
    (if p.codebooks.isEmpty then [] else
      [innerMsg 0x0803 b (bulkPayload (id ++ leBytes 1 k) (p.codebooks.flatMap fun g => g.flatMap (leBytes 2)))]) ++
    (if p.splits.isEmpty then [] else
      [innerMsg 0x0804 b (fit 8 (id ++ leBytes 1 k ++ leBytes 1 p.splits.length) ++ padTo 8 (p.splits.flatMap (leBytes 2)))])

/-- The number under which the configured default row travels as it is stored. -/
def rawDefault : Nat := 0xFFFF

/-- The descriptor, the points, the pooling configuration, the optimiser record and the configured default row of a table. -/
def State.setupOf (s : State) (b : Nat) (t : Tab) : List (List Byte) :=
  [innerMsg 0x0301 b t.desc.bytes] ++ ((List.range t.desc.tiers ++ [4]).flatMap (setupPoint b t)) ++
    [innerMsg 0x0602 b (t.pool.bytes t.id), innerMsg 0x0704 b (t.opt.bytes t.id)] ++
    (match t.defRow with
      | some r => [innerMsg rawDefault b (leBytes 8 t.id ++ s.read .silo b 0 (64 * r.first) (t.rowBytes 0))]
      | none => [])

/-- The commands of R539 but TIER_REBUILD, by opcode. -/
def spannedOps : List (Nat × (Ctx → State → Result)) :=
  [(0x0801, doQuantSetPolicy), (0x0802, doQuantSetScales), (0x0803, doQuantSetCodebook), (0x0804, doQuantSetSplit), (0x0602, doPoolSet),
   (0x0704, doOptSet), (0x0308, doDefaultRowSet), (0x0302, doTableDestroy)]

/-- A spanned command carried out here for another package. -/
def State.runSpanned (s : State) (b : Nat) (msg : List Byte) : Result :=
  match findKey Prod.fst spannedOps (headerOf msg).op with
  | some x => x.2 ⟨⟨some b, 0, false⟩, ⟨.mtw, msg⟩, msg.drop 16, b, none, true⟩ s
  | none => fail .badOpcode 0 s

/-- One message of Span carried out; none where it does not fit. -/
def State.setupOne (s : State) (b : Nat) (msg : List Byte) : Option State :=
  let p := msg.drop 16
  let op := (headerOf msg).op
  if op = 0x0301 then s.createTable b (descAt p) ⟨0, []⟩ []
  else if op = rawDefault then match (s.table b (u16At p 0)).bind Tab.defRow with
    | some r => some (s.setRow b 1 r.first (p.drop 8))
    | none => some s
  else match s.runSpanned b msg with
    | (some r, s) => if r.status = .ok then some s else none
    | (none, _) => none

def State.setupAll (b : Nat) : List (List Byte) → State → Option State
  | [], s => some s
  | m :: l, s => match s.setupOne b m with
    | some s => State.setupAll b l s
    | none => none

/-! ### The two phases at a named package -/

def State.putPrepared (s : State) (p : Prepared) : State :=
  { s with fab.prepared := (s.fab.prepared.filter fun x => !(x.node == p.node && x.tag == p.tag)) ++ [p] }

def State.preparedFor (s : State) (node tag : Nat) : Option Prepared := s.fab.prepared.find? fun x => x.node == node && x.tag == tag

/-- What was prepared is taken back: nothing has changed. -/
def State.unprepare (s : State) (node tag : Nat) : State :=
  match s.preparedFor node tag with
  | none => s
  | some p =>
    let s : State := { s with fab.prepared := s.fab.prepared.filter fun x => !(x.node == node && x.tag == tag) }
    let s := s.freeSegments p.bay p.segments
    if p.created then
      match s.table p.bay p.table with
      | some t =>
        let s := s.freeSegments p.bay t.segments
        (s.forgetEntries p.bay p.table).modBay p.bay fun y => { y with
          tables := dropKey Tab.id y.tables p.table
          space := { y.space with siloUsed := (t.defRow.toList ++ t.defState.toList).foldl (fun l r => cutRun r l) y.space.siloUsed } }
      | none => s
    else s

/-- The status with which a package answers for its bay (R538): none where the bay is OPEN. -/
def State.bayStatus (s : State) (b : Nat) : Option Status :=
  if s.bayState b = .absent then some .noBay else if s.bayState b ≠ .opened then some .state else none

/-- Span here: the table is created where it is missing. -/
def State.spanHere (s : State) (node tag : Nat) (msgs : List (List Byte)) : Status × State :=
  let m := msgs.headD []
  let b := (headerOf m).bay
  let id := u16At m 16
  match s.bayStatus b with
  | some st => (st, s)
  | none => match s.table b id with
    | some t => if t.prevMap.isSome then (.busy, s) else if t.life = .live then (.ok, s) else (.state, s)
    | none => match State.setupAll b msgs s with
      | some s => (.ok, s.putPrepared ⟨node, tag, b, id, [], true, m, false⟩)
      | none => (.noSpace, s)

/-- Prepare of a rebuild led by another package (R539): it starts here too. -/
def State.prepareRebuild (s : State) (node tag b : Nat) (m : List Byte) : Status × State :=
  let p := m.drop 16
  match (s.table b (u16At p 0)).filter fun t => t.life == .live with
  | none => (.busy, s)
  | some t =>
    let tier := u8At p 2
    let (sc, books) := rebuildSettings (t.point tier) t.desc.dim (slice 32 (bulkAt p 8).length p)
    (.ok, s.beginRebuild b t tier sc books (2 ^ 64) [] (some (node, tag)))

/-- Prepare here: segments for a map's new entries, or the trial of a spanned command. -/
def State.prepareHere (s : State) (node tag : Nat) (m : List Byte) : Status × State :=
  let h := headerOf m
  let b := h.bay
  match s.bayStatus b with
  | some st => (st, s)
  | none =>
    if h.op = 0x0B01 then
      let d := m.drop 16
      match s.table b (u16At d 0) with
      | none => (.range, s)
      | some t =>
        if t.prevMap.isSome then (.busy, s)
        else match s.newSegments b t (mapFrom d) with
          | none => (.noSpace, s)
          | some (l, s) =>
            let made := (s.preparedFor node tag).any Prepared.created
            (.ok, s.putPrepared ⟨node, tag, b, t.id, l, made, m, false⟩)
    else if h.op = 0x030A then s.prepareRebuild node tag b m
    else
      let held := s.putPrepared ⟨node, tag, b, u16At m 16, [], false, m, false⟩
      match s.runSpanned b m with
      | (some r, _) => (r.status, if r.status = .ok then held else s)
      | (none, _) => (.ok, held)

def State.dropPrepared (s : State) (node tag : Nat) : State :=
  { s with fab.prepared := s.fab.prepared.filter fun x => !(x.node == node && x.tag == tag) }

/-- Commit here, at an instant of the package's own; none where what is under way on the table comes first. Where the command's own
conditions no longer hold, it changes nothing here (DESIGN CHOICE, log 192). -/
def State.commitHere (s : State) (node tag : Nat) (m : List Byte) : Option State :=
  let h := headerOf m
  if h.op = 0x0B01 then
    let d := m.drop 16
    let segs := ((s.preparedFor node tag).map Prepared.segments).getD []
    let s := s.dropPrepared node tag
    some (if (s.table h.bay (u16At d 0)).isSome then s.install h.bay (u16At d 0) (mapFrom d) segs else s)
  else match (s.dropPrepared node tag).runSpanned h.bay m with
    | (none, _) => none
    | (some r, s') => if r.status = .busy then none else some s'

/-- A Commit that has to wait. -/
def State.commitLater (s : State) (node tag : Nat) (m : List Byte) : State :=
  s.putPrepared ⟨node, tag, (headerOf m).bay, u16At m 16, [], false, m, true⟩

/-! ### The issuing package -/

def State.span (s : State) (tag : Nat) : Option Span := s.fab.spans.find? fun x => x.tag == tag

def State.modSpan (s : State) (tag : Nat) (f : Span → Span) : State :=
  { s with fab.spans := s.fab.spans.map fun x => if x.tag = tag then f x else x }

def State.dropSpan (s : State) (tag : Nat) : State := { s with fab.spans := s.fab.spans.filter fun x => x.tag != tag }

/-- The table that a rebuild of this package's own is on. -/
def State.rebuildOf (s : State) (tag : Nat) : Option (Nat × Tab) :=
  (s.bays.zipIdx.flatMap fun y => (y.1.tables.filter fun t => t.rebuild.any fun r => r.cmd == tag).map fun t => (y.2, t)).head?

/-- A command on several packages fails before its Commit: nothing changes anywhere, and it is answered. -/
def State.failSpan (s : State) (x : Span) (st : Status) : State :=
  let s := (s.dropSpan x.tag).emits (x.nodes.map fun n => .span n 6 x.tag [])
  match s.rebuildOf x.tag with
  | some (b, t) =>
    (s.putTable b { t with life := .live, rebuild := none }).endJob x.tag ⟨st, 0, []⟩
  | none => (s.unprepare selfNode x.tag).answer x.req ⟨st, 0, []⟩

/-- The packages that the Commit of a map concerns: those of the new map and of the one before. -/
def State.commitNodes (s : State) (x : Span) : List Nat :=
  if (headerOf x.req.msg).op = 0x0B01 then
    let d := x.req.msg.drop 16
    let old := ((s.table x.bay (u16At d 0)).map fun t => t.map.entries.map MapEntry.owner).getD []
    s.otherNodes (x.nodes ++ old)
  else x.nodes

/-- The next phase, once every package has answered the one under way. -/
def State.spanNext (s : State) (x : Span) : State :=
  match x.phase with
  | .span =>
    (s.modSpan x.tag fun y => { y with phase := .prepare, replied := [], since := s.dev.now }).emits
      (x.nodes.map fun n => .span n 1 x.tag [x.req.msg])
  | .prepare =>
    if (headerOf x.req.msg).op = 0x030A then s.dropSpan x.tag
    else
      let others := s.commitNodes x
      let (nodes, s) := match s.commitHere selfNode x.tag x.req.msg with
        | some s => (others, s)
        | none => (others ++ [selfNode], s.commitLater selfNode x.tag x.req.msg)
      (s.modSpan x.tag fun y => { y with phase := .commit, nodes := nodes, replied := [], since := s.dev.now }).emits
        (others.map fun n => .span n 4 x.tag [x.req.msg])
  | .commit => (s.dropSpan x.tag).answer x.req ⟨.ok, 0, x.body⟩

/-- A reply of a package to the phase under way. One whose status is none of R21's is malformed and discarded. -/
def State.spanReply (s : State) (node tag status : Nat) : State :=
  match s.span tag with
  | none => s
  | some x =>
    if 0x000D < status || !x.nodes.contains node || x.replied.contains node then s
    else if status ≠ 0 && x.phase ≠ .commit then
      s.failSpan x (([Status.busy, .noBay, .noSpace, .range, .state, .faulted].find? fun st => st.code == status).getD .state)
    else
      let x := { x with replied := x.replied ++ [node] }
      let s := s.modSpan tag fun _ => x
      if x.nodes.all fun n => x.replied.contains n then s.spanNext x else s

/-- A Commit carried out here: the issuing package is told. -/
def State.committed (s : State) (node tag : Nat) : State :=
  if node = selfNode then s.spanReply selfNode tag 0 else s.emit (.span node 5 tag [leBytes 2 0])

/-- A Commit of another package, or one that waited, carried out if it can be. -/
def State.commitIn (s : State) (node tag : Nat) (m : List Byte) : State :=
  match s.commitHere node tag m with
  | some s => s.committed node tag
  | none => s.commitLater node tag m

/-- Commits that waited go on in the order in which they came. -/
def State.runCommits (s : State) : State :=
  (s.fab.prepared.filter Prepared.due).foldl (fun s p => State.commitIn s p.node p.tag p.msg) s

/-- Commands whose packages have not all answered within 1 s are answered TIMEOUT (R590). -/
def State.spanTimeouts (s : State) : State :=
  (s.fab.spans.filter fun x => x.phase != .commit && decide (x.since + 1000000000 ≤ s.dev.now)).foldl
    (fun s x => State.failSpan s x .timeout) s

/-- The ranges another package found, joined to those of the rebuild it takes part in (R539). -/
def State.rangesIn (s : State) (node tag : Nat) (d : List Byte) : State :=
  match s.rebuildOf tag with
  | none => s
  | some (b, t) =>
    let l : List Range := items (d.length / 9) fun i => if u8At d (9 * i) = 0 then none else some (u32At d (9 * i + 1), u32At d (9 * i + 5))
    s.putTable b { t with rebuild := t.rebuild.map fun r => { r with
      peers := r.peers.filter (· != node)
      ranges := if l.isEmpty then r.ranges else items t.desc.dim fun i => joinRange (r.ranges.getD i none) (l.getD i none) } }

/-- The settings of a rebuild that another package leads: the tier is re-encoded with them (R539). -/
def State.settingsIn (s : State) (node tag : Nat) (d : List Byte) : State :=
  match (s.bays.zipIdx.flatMap fun y =>
    (y.1.tables.filter fun t => t.rebuild.any fun r => r.lead == some (node, tag)).map fun t => (y.2, t)).head? with
  | none => s
  | some (b, t) => match t.rebuild with
    | none => s
    | some r =>
      let p := t.point r.tier
      let n := if isScaled p.policy.format then scaleBytes p.policy t.desc.dim p.policy.storage else 0
      let p' := { p with
        scales := if n = 0 then p.scales else scalesFrom p.policy t.desc.dim p.policy.storage d
        codebooks := if isCodebook p.policy.format then booksFrom p.policy.format t.desc.dim (d.drop n) else p.codebooks }
      s.finishRebuild b t r p'

/-- A rebuild led by another package that has failed there ends here. -/
def State.endLed (s : State) (node tag : Nat) : State :=
  let led := fun (t : Tab) => t.rebuild.any fun r => r.lead == some (node, tag)
  { s with bays := s.bays.map fun y => { y with tables := y.tables.map fun t => if led t then { t with life := .live, rebuild := none } else t } }

/-- SPAN_MESSAGE (R538, R539): a message of a command on several packages from an admitted node, of the kinds of
`Output.span`; a reply carries a status. -/
def execSpanMessage (node kind tag status : Nat) (msgs : List (List Byte)) (s : State) : Out :=
  .next <|
    if !s.admitted node then s
    else
      let m := msgs.headD []
      let reply := fun (x : Status × State) => x.2.emit (.span node 5 tag [leBytes 2 x.1.code])
      match kind with
      | 0 => reply (s.spanHere node tag msgs)
      | 1 => reply (s.prepareHere node tag m)
      | 2 => s.rangesIn node tag m
      | 3 => s.settingsIn node tag m
      | 4 => s.commitIn node tag m
      | 5 => s.spanReply node tag status
      | 6 => (s.unprepare node tag).endLed node tag
      | _ => s

/-! ### SHARD_MAP_LOAD, SHARD_MAP_GET -/

def specShardMapLoad : CmdSpec := openSpec 0x0B01 fun _ p => withBulk 24 0 0 p

/-- Overlapping entries of different owners at equal priority are reported (R534). -/
def State.overlaps (s : State) (b table : Nat) (m : ShardMap) : State :=
  m.entries.zipIdx.foldl (fun s e =>
    ((m.entries.zipIdx.take e.2).filter fun x => x.1.priority == e.1.priority && x.1.owner != e.1.owner && entriesMeet x.1 e.1).foldl
      (fun s x => State.raise s 0x0807 1 (some b) none (leBytes 2 table ++ leBytes 2 x.2 ++ leBytes 2 e.2)) s) s

/-- R534, R538: checked; then the other packages named get the table, prepare, and switch with this one. -/
def doShardMapLoad (c : Ctx) (s : State) : Result :=
  let b := c.bay
  c.fields s (bulkChecks c.p 0 [1, 2] (s.ringBytes b) ++ [(16, decide (16 ≤ (bulkAt c.p 0).length))]) <|
    let id := u16At (bulkSource s b c.p 0 24) 0
    inOrder c s id ((s.table b id).any fun t => t.life == .rebuilding) <|
    let (d, s) := takeSource c s 0 24
    let det := fun (o : Nat) => dataDetail c.p 0 24 o
    match (s.table b id).filter fun t => t.life != .destroying with
    | none => fail .range (det 0) s
    | some t => match firstBad (s.mapChecks d t.desc.rows) with
      | some o => fail .range (det o) s
      | none =>
        if t.prevMap.isSome then fail .busy 0 s
        else
          let raw := mapFrom d
          let own := fun (e : MapEntry) => if s.isSelf e.owner then { e with owner := s.selfNumber } else e
          let m : ShardMap := ⟨(t.map.version + 1) % 2 ^ 32, raw.entries.map own⟩
          match s.newSegments b t m with
          | none => fail .noSpace 0 s
          | some (segs, s) =>
            let s := s.overlaps b t.id m
            let nodes := s.otherNodes (m.entries.map MapEntry.owner)
            let old := s.otherNodes (t.map.entries.map MapEntry.owner)
            let body := leBytes 4 m.version ++ zeros 4
            if nodes.isEmpty && old.isEmpty then okWith body (s.install b t.id m segs)
            else
              let tag := s.dev.commands
              let msg := c.req.msg.take 16 ++ m.bytes t.id
              let s := s.putPrepared ⟨selfNode, tag, b, t.id, segs, false, msg, false⟩
              let x : Span := ⟨tag, { c.req with msg := msg }, b, nodes, [], .span, s.dev.now, s.setupOf b t, body⟩
              let s : State := { s with dev.commands := tag + 1, fab.spans := s.fab.spans ++ [x] }
              if nodes.isEmpty then (none, s.spanNext { x with phase := .prepare })
              else (none, s.emits (nodes.map fun n => .span n 0 tag x.setup))

def execShardMapLoad (r : Req) (s : State) : Out := runCommand specShardMapLoad (paced true doShardMapLoad) r s

def specShardMapGet : CmdSpec := openSpec 0x0B02 (exactly 32)

def doShardMapGet (c : Ctx) (s : State) : Result :=
  onTable c s 0 (fun _ => [(2, zeroAt c.p 2 6)] ++ bulkChecks c.p 8 [1, 3] 0) fun t =>
    let data := t.map.bytes t.id ++ t.map.entries.flatMap fun e => leBytes 1 (flag (s.available (s.refused c.bay) e.owner))
    match destBad c s 8 8 data.length with
    | some o => fail .range o s
    | none =>
      let (inl, s) := placeDest c s 8 data
      okWith (leBytes 4 t.map.version ++ leBytes 1 (flag t.prevMap.isSome) ++ zeros 3 ++ inl) s

def execShardMapGet (r : Req) (s : State) : Out := runCommand specShardMapGet doShardMapGet r s

end Sys2Proof.Machine
end

