-- ==== Sys2Proof/Machine/Muster.lean ====
section
/-! DEFINITION. Muster: the election of a field's coordinator, the roster and node numbers (R505 to R510, R419, R540), and its
commands. -/

namespace Sys2Proof.Machine

/-! ### Messages (R505) -/

/-- An IP address in 17 bytes: its family and its bits. -/
def addrBytes (a : NetAddr) : List Byte := leBytes 1 (flag a.v6) ++ beBytes 16 a.bits

/-- The bytes a muster message's MAC covers, in a layout of the model's own (DESIGN CHOICE, log 44). -/
def musterBody (m : MusterMsg) : List Byte :=
  leBytes 1 m.kind ++ leBytes 8 m.field ++ leBytes 8 m.sender ++ leBytes 8 m.coordinator ++ leBytes 4 m.epoch ++ leBytes 8 m.target ++
    leBytes 2 m.number ++ (m.part.map fun p => leBytes 2 p.1 ++ leBytes 2 p.2).getD [] ++ leBytes 4 m.roster.length ++ m.roster.flatMap fun r =>
      leBytes 8 r.1 ++ leBytes 2 r.2.1 ++ leBytes 1 (flag r.2.2.isSome) ++ (match r.2.2 with
        | some a => addrBytes a
        | none => [])

def musterBytes (key : List Byte) (m : MusterMsg) : List Byte := musterBody m ++ hmac key (musterBody m)

def State.modMuster (s : State) (f : Muster → Muster) : State := { s with net.muster := f s.net.muster }

/-- The first address of the lowest-numbered UP sub-port that has one: this package's roster address (R527). -/
def State.ownAddr (s : State) : Option NetAddr :=
  s.fabricPort.bind fun p => (s.subPort p.1 p.2).bind fun x => (x.addrs.head?).map PortAddr.addr

/-- A seed's address: IPv4 as IPv4-mapped IPv6 (R601). -/
def seedAddr (n : Nat) : NetAddr := if n / 2 ^ 32 = 0xFFFF then ⟨false, n % 2 ^ 32⟩ else ⟨true, n⟩

/-- A muster message sent: to the muster port of each seed, in the fabric class, unless the field id is 0, and over every
trained yoke link, in its Control class (R505, R513). -/
def State.sendMusterPart (s : State) (kind target number : Nat) (roster : List (Nat × Nat × Option NetAddr))
    (part : Option (Nat × Nat)) : State :=
  let m := s.net.muster
  let c := m.config
  let msg : MusterMsg := ⟨kind, c.fieldId, c.nodeId, m.coordinator.getD c.nodeId, m.epoch, target, number, roster, part, []⟩
  let data := musterBytes c.fieldKey msg
  let s := match s.fabricPort with
    | some (p, k) =>
      if c.fieldId = 0 then s
      else c.seeds.foldl (fun s a =>
        let a := seedAddr a
        State.sendUdp s p k 2 a c.port data none) s
    | none => s
  ([1, 2, 3, 4].filter fun i => (s.link i).state.carries).foldl
    (fun s i => State.linkSend s i ⟨0, none, false, flitsOf data.length, none, .muster i data⟩) s

/-- A muster message that is not a part of a roster. -/
def State.sendMuster (s : State) (kind target number : Nat) (roster : List (Nat × Nat × Option NetAddr)) : State :=
  s.sendMusterPart kind target number roster none

def State.ownNumber (s : State) : Nat := s.net.muster.number.getD 0xFFFF

/-- The roster as a ROSTER carries it. -/
def State.rosterList (s : State) : List (Nat × Nat × Option NetAddr) :=
  s.net.muster.roster.map fun m => (m.nodeId, m.number, if m.nodeId = s.net.muster.config.nodeId then s.ownAddr else m.addr)

/-- Entries that a ROSTER of 512 bytes surely holds. -/
def rosterPart : Nat := 12

/-- Pieces of a roster in ascending order of the numbers, each with its range: the ranges follow one on another (R731, DESIGN CHOICE,
log 183). -/
def rosterRanges : Nat → List (List (Nat × Nat × Option NetAddr)) → List (List (Nat × Nat × Option NetAddr) × Option (Nat × Nat))
  | _, [] => []
  | lo, [c] => [(c, some (lo, 65534))]
  | lo, c :: d :: rest =>
    let next := ((d.head?).map fun r => r.2.1).getD 65535
    (c, some (lo, next - 1)) :: rosterRanges next (d :: rest)

/-- The messages that a roster takes: one, or, where its frame would be longer than 512 bytes, several (R731). -/
def rosterParts (l : List (Nat × Nat × Option NetAddr)) : List (List (Nat × Nat × Option NetAddr) × Option (Nat × Nat)) :=
  if udpFrame true ((musterBody ⟨3, 0, 0, 0, 0, 0, 0, l, none, []⟩).length + 32) ≤ 512 then [(l, none)]
  else
    let l := sortBy (fun r => r.2.1) l
    rosterRanges 0 (items ((l.length + rosterPart - 1) / rosterPart) fun i => (l.drop (rosterPart * i)).take rosterPart)

/-- A ROSTER sent by the coordinator, in one message or several of the same epoch (R731). -/
def State.sendRoster (s : State) : State :=
  ((rosterParts s.rosterList).foldl (fun t x => State.sendMusterPart t 3 0 s.ownNumber x.1 x.2) s).modMuster fun m =>
    { m with rosterAt := s.dev.now }

/-! ### The roster (R508) -/

/-- The lowest number that no member has. The first argument bounds the search. -/
def freeNumber (used : List Nat) : Nat → Nat → Nat
  | 0, n => n
  | f + 1, n => if used.contains n then freeNumber used f (n + 1) else n

/-- A coordinator that has changed (R510). -/
def State.setCoordinator (s : State) (id : Nat) : State :=
  if s.net.muster.coordinator = some id then s
  else (s.modMuster fun m => { m with coordinator := some id }).raise 0x080C 0 none none (zeros 4 ++ leBytes 8 id)

/-- The channels of a node that is admitted start again (R419): the owner side is dropped, and the messages retained for it are
numbered from 0. -/
def State.restartChannels (s : State) (node : Nat) : State :=
  let again := fun (c : Channel) =>
    { c with
      nextSeq := c.sent.length
      sent := c.sent.zipIdx.map fun x => { x.1 with seq := x.2, data := x.1.data.take 8 ++ leBytes 4 x.2 ++ x.1.data.drop 12 } }
  { s with
    fab.channels := s.fab.channels.map fun c => if c.node = node then again c else c
    fab.owners := s.fab.owners.filter fun c => c.node != node }

/-- The channels of renumbered nodes go on under their new numbers (R419, R508). -/
def State.renumberChannels (s : State) (new : List (Nat × Nat)) : State :=
  let fix := fun (n : Nat) => ((findKey Prod.fst new n).map Prod.snd).getD n
  { s with
    fab.channels := s.fab.channels.map fun c => { c with node := fix c.node }
    fab.owners := s.fab.owners.map fun c => { c with node := fix c.node } }

/-- A roster taken over: kept in boot flash; map entries that name a renumbered node are rewritten (R540), and the channels of
nodes that have been admitted anew restart. -/
def State.adoptRoster (s : State) (l : List Member) : State :=
  let old := s.net.muster.roster
  let numOf := fun (r : List Member) (id : Nat) => (r.find? fun m => m.nodeId == id).map Member.number
  let changed := old.filterMap fun m => match numOf l m.nodeId with
    | some n => if n = m.number then none else some (m.number, n)
    | none => none
  let arrived := l.filter fun m => m.nodeId != s.net.muster.config.nodeId && (numOf old m.nodeId).isNone
  let s : State := { s with net.muster.roster := l, flash.roster := l }
  let s := if changed.isEmpty then s else (s.renumberChannels changed).renumberMaps changed
  arrived.foldl (fun s m => State.restartChannels s m.number) s

/-- The roster with a node in it: its recorded number; else the one it claims, where that is free; else the lowest free one,
which is reported if it had another (R508). -/
def State.enrol (s : State) (id claimed : Nat) (addr : Option NetAddr) : Nat × State :=
  let l := s.net.muster.roster
  let now := s.dev.now
  match l.find? fun m => m.nodeId == id with
  | some m =>
    (m.number, s.adoptRoster (l.map fun x => if x.nodeId = id then { x with heardAt := now, addr := if addr.isSome then addr else x.addr } else x))
  | none =>
    let used := l.map Member.number
    let n := if claimed < 0xFFFF && !used.contains claimed then claimed else freeNumber used (used.length + 1) 0
    let s := s.adoptRoster (l ++ [⟨id, n, now, addr⟩])
    (n, if claimed < 0xFFFF && claimed ≠ n then s.raise 0x080A 1 none none (leBytes 2 claimed ++ leBytes 2 n ++ leBytes 8 id) else s)

/-- A node admitted by the coordinator: ADMIT to it, then a ROSTER with the epoch increased by 1 (R506). Its ledger channels start again
(R419; where this node was admitted itself, all do; DESIGN CHOICE, log 191). -/
def State.admitNode (s : State) (id claimed : Nat) (addr : Option NetAddr) : State :=
  let (n, s) := s.enrol id claimed addr
  let s := s.restartChannels n
  let s := s.sendMuster 1 id n []
  (s.modMuster fun m => { m with epoch := m.epoch + 1 }).sendRoster

/-! ### Phases (R506) -/

/-- Announce begins: a configuration that waits takes effect, and what was heard is forgotten. -/
def State.startAnnounce (s : State) (delay : Nat) : State :=
  let t := s.dev.now + delay
  s.modMuster fun m =>
    { m with
      config := m.next.getD m.config, next := none, phase := .announce, phaseSince := t, announceAt := t, heard := [], rosterHeard := none,
      backoffUntil := if delay = 0 then none else some t }

/-- Whether an ID has been heard from two sources within the last collection window (R509). -/
def State.isDuplicated (s : State) (id : Nat) : Bool :=
  let l := s.net.muster.heard.filter fun h => h.1 == id && decide (s.dev.now ≤ h.2.2 + 20000000)
  l.any fun a => l.any fun b => a.2.1 != b.2.1

/-- ANNOUNCE (R506): every 2 ms in the Announce phase, once a backoff has ended. -/
def execAnnounce (s : State) : Out :=
  .next <|
    let m := s.net.muster
    if m.phase ≠ .announce || m.backoffUntil.isSome || s.dev.now < m.announceAt then s
    else (s.sendMuster 0 0 s.ownNumber []).modMuster fun m => { m with announceAt := s.dev.now + 2000000 }

/-- This node becomes coordinator: it numbers the nodes heard, admits each and sends the ROSTER (R506, R508). -/
def State.becomeCoordinator (s : State) : State :=
  let m := s.net.muster
  let own := m.config.nodeId
  let s := s.setCoordinator own
  let (n, s) := s.enrol own (m.number.getD 0xFFFF) s.ownAddr
  let s := s.modMuster fun m => { m with number := some n }
  let others := distinct ((m.heard.map Prod.fst).filter fun id => id != own && !s.isDuplicated id)
  let s := others.foldl (fun s id =>
    let (k, s) := State.enrol s id 0xFFFF none
    s.sendMuster 1 id k []) s
  let s := s.modMuster fun m => { m with epoch := m.epoch + 1, phase := .stable, phaseSince := s.dev.now, detections := 0,
                                         roster := m.roster.map fun x => { x with heardAt := s.dev.now } }
  s.sendRoster

/-- DECIDE (R506): the collection window has ended. A node that heard a ROSTER joins its coordinator; else the lowest ID heard,
its own included, is the coordinator. -/
def execDecide (s : State) : Out :=
  .next <|
    let m := s.net.muster
    if m.phase ≠ .announce || m.backoffUntil.isSome || s.dev.now < m.phaseSince + 20000000 then s
    else
      let wait := fun (s : State) (id : Nat) =>
        (s.setCoordinator id).modMuster fun m => { m with phase := .admitting, phaseSince := s.dev.now }
      match m.rosterHeard with
      | some c => (wait s c).sendMuster 2 c s.ownNumber []
      | none =>
        let ids := (m.heard.map Prod.fst).filter fun id => !s.isDuplicated id
        let low := ids.foldl min m.config.nodeId
        if low = m.config.nodeId then s.becomeCoordinator else wait s low

/-- ADMIT_TIMEOUT (R506): no ROSTER listing the node within 50 ms. -/
def execAdmitTimeout (s : State) : Out :=
  .next (if s.net.muster.phase = .admitting && decide (s.net.muster.phaseSince + 50000000 ≤ s.dev.now) then s.startAnnounce 0 else s)

def State.isCoordinator (s : State) : Bool :=
  s.net.muster.phase == .stable && s.net.muster.coordinator == some s.net.muster.config.nodeId

/-- ROSTER_PERIOD (R510): every 100 ms. -/
def execRosterPeriod (s : State) : Out :=
  .next (if s.isCoordinator && decide (s.net.muster.rosterAt + 100000000 ≤ s.dev.now) then s.sendRoster else s)

/-- MUSTER_NODE_LOST (R510): a member that has not been heard for 1 s. -/
def execMusterNodeLost (nodeId : Nat) (s : State) : Out :=
  .next <| match s.net.muster.roster.find? fun m => m.nodeId == nodeId with
  | none => s
  | some x =>
    if !s.isCoordinator || nodeId = s.net.muster.config.nodeId || s.dev.now < x.heardAt + 1000000000 then s
    else
      let s := s.adoptRoster (s.net.muster.roster.filter fun m => m.nodeId != nodeId)
      (s.modMuster fun m => { m with epoch := m.epoch + 1 }).raise 0x080B 1 none none (leBytes 2 x.number ++ zeros 2 ++ leBytes 8 nodeId)

/-- ROSTER_SILENCE (R510): a member that hears no ROSTER for 1 s returns to Announce, keeping its number. -/
def execRosterSilence (s : State) : Out :=
  .next (if s.net.muster.phase = .stable && !s.isCoordinator && decide (s.net.muster.heardRosterAt + 1000000000 ≤ s.dev.now) then
    s.startAnnounce 0 else s)

/-! ### Duplicate IDs (R509) -/

/-- Whether a message is of this field and its MAC is right. -/
def State.musterOk (s : State) (m : MusterMsg) : Bool :=
  let c := s.net.muster.config
  m.field == c.fieldId && m.mac == hmac c.fieldKey (musterBody m)

/-- A message discarded and counted. -/
def State.dropMuster (s : State) : State := s.modMuster fun m => { m with discarded := satAdd 32 m.discarded 1 }

/-- The credit of a message that came over a yoke goes back (R513): sources 1 to 4 are the yoke links. -/
def State.musterCredit (s : State) (source : Nat) (m : MusterMsg) : State :=
  if 1 ≤ source && source ≤ 4 then s.emit (.linkCredit source 0 (flitsOf ((musterBody m).length + 32))) else s

/-- MUSTER_DUP_ID (R509): an ANNOUNCE bearing this node's ID from another source. After three in succession the node stops. -/
def execMusterDupId (source : Nat) (m : MusterMsg) (s : State) : Out :=
  .next <|
    let s := s.musterCredit source m
    let x := s.net.muster
    if x.phase = .stopped then s
    else if !s.musterOk m then s.dropMuster
    else if m.kind ≠ 0 || m.sender ≠ x.config.nodeId || source = 0 then s
    else
      let n := x.detections + 1
      let s := (s.modMuster fun y => { y with detections := n }).raise 0x0809 2 none none (leBytes 1 n ++ zeros 3 ++ leBytes 8 m.sender)
      if 3 ≤ n then s.modMuster fun y => { y with phase := .stopped }
      else
        let (r, s) := s.fresh
        s.startAnnounce (1000000 + 125000 * (r % 57))

/-- DUP_ID_BACKOFF (R509): the random wait ends. -/
def execDupIdBackoff (s : State) : Out :=
  .next (if s.net.muster.backoffUntil.any fun t => decide (t ≤ s.dev.now) then s.modMuster fun m => { m with backoffUntil := none } else s)

/-! ### Messages received (R505 to R508) -/

/-- Whether a ROSTER lists the members of a number: each does, but for one of several (R731). -/
def rosterCovers (m : MusterMsg) (n : Nat) : Bool := m.part.all fun p => decide (p.1 ≤ n) && decide (n ≤ p.2)

/-- A ROSTER taken over in place of what the roster had of the numbers that it covers. -/
def State.mergeRoster (s : State) (m : MusterMsg) : State :=
  let l := m.roster.map fun r => (⟨r.1, r.2.1, s.dev.now, r.2.2⟩ : Member)
  let rest := s.net.muster.roster.filter fun x => !rosterCovers m x.number && !l.any fun y => y.nodeId == x.nodeId
  (s.adoptRoster (rest ++ l)).modMuster fun y => { y with epoch := m.epoch, heardRosterAt := s.dev.now }

/-- A ROSTER heard from a coordinator. One that covers this node's number and does not list it, sends a node in Stable back to
Announce. -/
def State.rosterHeard (s : State) (m : MusterMsg) : State :=
  let x := s.net.muster
  let own := x.config.nodeId
  let take := fun (s : State) =>
    let mine := (m.roster.find? fun r => r.1 == own).map fun r => r.2.1
    ((s.mergeRoster m).setCoordinator m.sender).modMuster fun y =>
      { y with number := mine, phase := .stable, detections := 0, phaseSince := if y.phase = .stable then y.phaseSince else s.dev.now }
  let lists := m.roster.any fun r => r.1 == own
  match x.phase with
  | .announce => s.modMuster fun y => { y with rosterHeard := some (min (y.rosterHeard.getD m.sender) m.sender) }
  | .admitting =>
    if lists then take s
    else if x.coordinator = some m.sender && !rosterCovers m s.ownNumber then s.mergeRoster m else s
  | .stable =>
    if x.coordinator = some m.sender then
      (if lists then take s else if rosterCovers m s.ownNumber then s.startAnnounce 0 else s.mergeRoster m)
    else if m.sender < x.coordinator.getD own then
      ((s.setCoordinator m.sender).modMuster fun y => { y with phase := .admitting, phaseSince := s.dev.now }).sendMuster 2 m.sender s.ownNumber []
    else s
  | .decide | .stopped => s

/-- MUSTER_MESSAGE (R505 to R508): a message from a source, checked and acted on. A message that bears this node's own ID from
another source is MUSTER_DUP_ID's. -/
def execMusterMessage (source : Nat) (m : MusterMsg) (s : State) : Out :=
  .next <|
    let s := s.musterCredit source m
    let x := s.net.muster
    let own := x.config.nodeId
    if x.phase = .stopped then s
    else if !s.musterOk m then s.dropMuster
    else if m.sender = own then s
    else
      let s := s.modMuster fun y => { y with
        heard := (m.sender, source, s.dev.now) :: y.heard.filter fun h => !(h.1 == m.sender && h.2.1 == source)
        roster := y.roster.map fun r => if r.nodeId = m.sender then { r with heardAt := s.dev.now } else r }
      let addr := ((m.roster.find? fun r => r.1 == m.sender).bind fun r => r.2.2)
      match m.kind with
      | 0 => if s.isCoordinator && !s.isDuplicated m.sender then s.admitNode m.sender m.number addr else s
      | 1 =>
        if m.target = own && x.phase = .admitting && x.coordinator = some m.sender then
          (s.net.muster.roster.foldl (fun s x => State.restartChannels s x.number) s).modMuster fun y => { y with number := some m.number }
        else s
      | 2 => if m.target = own && s.isCoordinator && !s.isDuplicated m.sender then s.admitNode m.sender m.number addr else s
      | 3 => s.rosterHeard m
      | _ => s.dropMuster

/-! ### MUSTER_CONFIG, MUSTER_QUERY -/

def specMusterConfig : CmdSpec := { op := 0x0B30, d := true, lens := counted 56 16 50 1 }

/-- R505, R511: kept in boot flash; it takes effect at the next Announce, at once for a node that has stopped on a duplicate
ID. -/
def doMusterConfig (c : Ctx) (s : State) : Result :=
  let p := c.p
  c.fields s [(50, decide (u8At p 50 ≤ 64)), (51, zeroAt p 51 5)] <|
    let x : MusterConfig :=
      { nodeId := if u64At p 0 = 0 then s.ident.serial else u64At p 0, fieldId := u64At p 8, fieldKey := slice 16 32 p,
        port := if u16At p 48 = 0 then 7412 else u16At p 48, seeds := items (u8At p 50) fun i => beNat (slice (56 + 16 * i) 16 p) }
    let changed := x.nodeId ≠ s.net.muster.config.nodeId
    let s : State := { s with flash.muster := x, net.muster.next := some x }
    okWith [] (if s.net.muster.phase = .stopped && changed then
      (s.modMuster fun m => { m with detections := 0 }).startAnnounce 0 else s)

def execMusterConfig (r : Req) (s : State) : Out := runCommand specMusterConfig doMusterConfig r s

def specMusterQuery : CmdSpec := { op := 0x0B31, d := true, m := true, lens := exactly 8 }

def phaseCode : MusterPhase → Nat
  | .announce => 0 | .decide => 1 | .admitting => 2 | .stable => 3 | .stopped => 0

/-- Whether a member can be reached: it is this package, or some path leads to it (R529). -/
def State.reachable (s : State) (n : Nat) : Bool := s.isSelf n || s.pathTo n 0 [] != .none

def doMusterQuery (c : Ctx) (s : State) : Result :=
  c.fields s [(2, zeroAt c.p 2 6)] <|
    let m := s.net.muster
    let all := (sortBy Member.number m.roster).filter fun x => decide (u16At c.p 0 ≤ x.number)
    let cap := 250
    let l := all.take cap
    okWith (leBytes 1 (phaseCode m.phase) ++ zeros 3 ++ leBytes 4 m.epoch ++ leBytes 8 (m.coordinator.getD 0) ++ leBytes 2 s.ownNumber ++
      leBytes 2 l.length ++ leBytes 2 (((all[cap]?).map Member.number).getD 0xFFFF) ++ zeros 2 ++
      l.flatMap fun x => leBytes 8 x.nodeId ++ leBytes 2 x.number ++ leBytes 1 (flag (s.reachable x.number)) ++ zeros 5) s

def execMusterQuery (r : Req) (s : State) : Out := runCommand specMusterQuery doMusterQuery r s

end Sys2Proof.Machine
end

