-- ==== Sys2Proof/Machine/Tether.lean ====
section
/-! DEFINITION. The tether (chapter 14): BAR registers, hatch windows and doorbells (R545 to R557), mailboxes (R558 to R562),
host regions, bias and copies (R563 to R571), the host-memory relay (R572 to R574), detach and attach (R575 to R577), and the
tether commands (R578). -/

namespace Sys2Proof.Machine

/-! ### Hatch windows and doorbells (R555 to R557) -/

/-- H of a bay as the tether shows it: 0 unless the bay is OPEN (R553). -/
def State.hatchSize (s : State) (b : Nat) : Nat := if s.bayState b = .opened then s.ringBytes b else 0

/-- BAR2_WRITE (R555): bytes into the ring of the window's bay, or dropped whole and counted. -/
def execBar2Write (bay off : Nat) (data : List Byte) (s : State) : Out :=
  if 15 < bay then .fault .noSuchUnit
  else .next <|
    if !s.tth.attached then s
    else if s.hatchSize bay < off + data.length then (s.tthCount 0).tthEvent 3
    else s.placeRing bay off data

/-- TTH_DOORBELL (R553, R556, R557): a doorbell word for a bay, or discarded and counted. -/
def execTthDoorbell (bay value : Nat) (s : State) : Out :=
  if 15 < bay then .fault .noSuchUnit
  else .next <|
    if !s.tth.attached then s
    else if s.doorbellFull bay then ((s.countFull bay).tthCount 1).tthEvent 1
    else if bits value 43 21 ≠ 0 then s.badDoorbell bay (bits value 0 32) (bits value 32 11 + 1) 0
    else s.ring bay 0 .tether none (bits value 0 32) (bits value 32 11 + 1)

/-! ### Registers (R547 to R554, R558, R566) -/

/-- Whether Varlet accepts mailbox messages (R549). -/
def State.tthReady (s : State) : Bool := s.tth.ready && s.serving (.mailbox 0)

/-- TTH_STATUS (R549). -/
def State.tthStatus (s : State) : Nat :=
  flag s.tthReady + 2 * flag s.dev.fatal + 4 * s.tth.protocol + 16 * s.tth.gen + 256 * s.tth.width

/-- A mailbox register (R558). -/
def Mailbox.reg (m : Mailbox) (off : Nat) : Nat :=
  match off with
  | 0x08 => m.consumed % 2 ^ 32
  | 0x10 => m.ring
  | 0x18 => m.slots
  | 0x20 => flag m.session.isSome + 2 * flag m.overrun + 4 * flag m.ringFault
  | 0x28 => m.session.getD 0
  | _ => 0

/-- The value a read of a BAR0 register returns, by its offset (R547). -/
def State.tthReg (s : State) (off : Nat) : Nat :=
  if off = 0x0 then 0xC212 + 65536 * s.ident.stepping + 2 ^ 24
  else if off = 0x8 then s.tthStatus
  else if off = 0x10 then flag s.tth.resultRo
  else if off = 0x18 then s.tth.event
  else if off = 0x20 then s.dev.now % 2 ^ 48
  else if 0x200 ≤ off && off < 0x280 then 4096 - (s.doorbellsHeld ((off - 0x200) / 8)).length
  else if 0x300 ≤ off && off < 0x380 then s.hatchSize ((off - 0x300) / 8)
  else if 0x400 ≤ off && off < 0x430 then natAt s.tth.counters ((off - 0x400) / 8)
  else if 0x1000 ≤ off && off < 0x1800 then ((s.box ((off - 0x1000) / 64)).map fun m => m.reg ((off - 0x1000) % 64)).getD 0
  else if 0x4000 ≤ off && off < 0x6000 then (s.vec ((off - 0x4000) / 4)).reg
  else 0

/-- TTH_COUNTER_READ (R15, R18, R554): a read of a BAR0 register of the right size returns its value; an RC counter is cleared
by it. -/
def execTthCounterRead (off : Nat) (s : State) : Out :=
  .next <|
    if !s.tth.attached then s
    else
      let v := s.tthReg off
      let s' : State := if 0x400 ≤ off && off < 0x430 then { s with tth.counters := s.tth.counters.set ((off - 0x400) / 8) 0 } else s
      s'.emit (.readData v)

/-- TTH_BAD_ACCESS (R547): an access of the wrong size does nothing; its read returns zero. -/
def execTthBadAccess (_off : Nat) (isRead : Bool) (s : State) : Out :=
  .next <|
    if !s.tth.attached then s
    else
      let s := s.tthCount 5
      if isRead then s.emit (.readData 0) else s

/-- BAR2_READ (R545): a read of BAR2, or of a mailbox slot in BAR0, returns zero and is counted. -/
def execBar2Read (bar off : Nat) (s : State) : Out :=
  .next <|
    if !s.tth.attached || !(bar = 2 || (bar = 0 && 0x80000 ≤ off && off < 0x100000)) then s
    else (s.tthCount 4).emit (.readData 0)

/-- TTH_EVENT (R551): a write clears the bits written as ones. -/
def execTthEvent (value : Nat) (s : State) : Out :=
  .next <| if s.tth.attached then { s with tth.event := s.tth.event - (s.tth.event &&& value) } else s

/-- A BAR0 write that has no behaviour of its own (R15, R547): an RW field is set, a mailbox slot takes its bytes, and any other
write is ignored; one of the wrong size is counted. -/
def State.tthWrite (s : State) (off : Nat) (data : List Byte) : State :=
  let v := leNat data
  if 0x80000 ≤ off && off + data.length ≤ 0x100000 then s.write .slots ((off - 0x80000) / 0x4000) 0 ((off - 0x80000) % 0x4000) data
  else
    let isVec := decide (0x4000 ≤ off) && decide (off < 0x6000)
    let size := if isVec then 4 else 8
    if data.length ≠ size || off % size ≠ 0 then s.tthCount 5
    else if off = 0x10 then { s with tth.resultRo := bit v 0 }
    else if isVec then s.putVec { s.vec ((off - 0x4000) / 4) with reg := bits v 0 9 + 1024 * bits v 10 10 }
    else if 0x1000 ≤ off && off < 0x1800 then
      let m := (off - 0x1000) / 64
      if (off - 0x1000) % 64 = 0x10 then s.modBox m fun x => { x with ring := v / 4096 * 4096 }
      else if (off - 0x1000) % 64 = 0x18 then s.modBox m fun x => { x with slots := v % 8192 }
      else s
    else s

/-- VECTOR_MODERATION_TIMER (R566): the time bound of a vector with counted records runs out. -/
def execVectorModerationTimer (vector : Nat) (s : State) : Out :=
  if 2047 < vector then .fault .noSuchUnit
  else .next <|
    let v := s.vec vector
    if 0 < v.pending && 0 < v.time && v.since + 1000 * v.time ≤ s.dev.now then s.signalVec vector else s

/-! ### Mailboxes (R558 to R562) -/

/-- TTH_MBOX_SUBMIT (R559): a message is submitted from a slot, or the submit is ignored and counted. -/
def execTthMboxSubmit (box value : Nat) (s : State) : Out :=
  if 31 < box then .fault .noSuchUnit
  else match s.box box with
  | none => .next s
  | some m => .next <|
    if !s.tth.attached then s
    else
      let len := bits value 0 16
      let slot := bits value 16 2
      if len < 16 || 4096 < len || m.submitted.any fun x => x.1 == slot then
        ((s.modBox box fun m => { m with overrun := true }).tthCount 3).tthEvent 2
      else s.modBox box fun m => { m with submitted := m.submitted ++ [(slot, len)] }

/-- TTH_MBOX_STATUS (R558): overrun and ring_fault are cleared by ones. -/
def execTthMboxStatus (box value : Nat) (s : State) : Out :=
  if 31 < box then .fault .noSuchUnit
  else match s.box box with
  | none => .next s
  | some _ => .next <|
    if !s.tth.attached then s
    else s.modBox box fun m => { m with overrun := m.overrun && !bit value 1, ringFault := m.ringFault && !bit value 2 }

/-- MAILBOX_RESPONSE (R562): the oldest response is written to the ring, then the count, and the vector signals; `failed`: the
host reports an error for the write. -/
def execMailboxResponse (box : Nat) (failed : Bool) (s : State) : Out :=
  if 31 < box then .fault .noSuchUnit
  else match s.box box with
  | none => .next s
  | some m => .next <| match m.toWrite with
    | [] => s
    | msg :: rest =>
      let s := s.modBox box fun m => { m with toWrite := rest }
      if m.slots = 0 then s.modBox box fun m => { m with ringFault := true }
      else
        let s := (s.emit (.hostWrite (m.ring + 4096 * (m.count % m.slots)) msg false)).count 0x0600 6 msg.length
        if failed then s.modBox box fun m => { m with ringFault := true }
        else
          let s := s.modBox box fun m => { m with count := m.count + 1 }
          (s.emit (.hostWrite (m.ring + 4096 * m.slots) (leBytes 8 (m.count + 1)) false)).emit (.msix (box + 1))

/-! ### Host reads and snoops (R543, R568, R571) -/

/-- HOST_SNOOP (R543): every H2D snoop of a CXL link is answered RspIHitI. -/
def execHostSnoop (_addr : Nat) (s : State) : Out :=
  .next <| if s.tth.attached && s.tth.protocol ≠ 0 then s.emit .snoopResponse else s

/-- A read of host memory that has failed or timed out (R571). -/
def State.hostReadFailed (s : State) (r : Read) : State := ((s.tthEvent 4).quarantine r).chaffRead r

/-- HOST_READ_COMPLETION (R568, R571): a read of host memory completes with its bytes, or fails. -/
def execHostReadCompletion (id : Nat) (failed : Bool) (data : List Byte) (s : State) : Out :=
  .next <| match findKey Read.id s.dp.reads id with
  | none => s
  | some r =>
    if r.space ≠ 8 then s
    else if failed then s.hostReadFailed r
    else (s.count 0x0600 7 (64 * r.granules)).deliver' r (items r.granules fun i => some (fit 64 (slice (64 * i) 64 data)))

/-- END_TO_END_TIMEOUT (R331, R531, R571): a loft, remote or host read has waited its bay's timeout. -/
def execEndToEndTimeout (id : Nat) (s : State) : Out :=
  .next <| match findKey Read.id s.dp.reads id with
  | none => s
  | some r =>
    let paused := s.fab.requests.any fun q => q.id == id && q.pausedAt.isSome
    if paused || !r.started || !(r.timeout.any fun t => decide (t ≤ s.dev.now)) then s
    else if r.space = 8 then s.hostReadFailed r
    else (s.quarantine r).chaffAll r

/-- CLFLUSH_COMPLETE (R570): the flush of a bias change ends, and the change commits. -/
def execClflushComplete (id : Nat) (s : State) : Out :=
  .next <| match s.job id with
  | some w => if w.kind = .bias && w.at_ = 1 then (s.biasCommit w).tetherRun else s
  | none => s

/-! ### The relay (R572 to R574) -/

def State.modRelay (s : State) (i : Nat) (f : Relay → Relay) : State := { s with fab.relays := s.fab.relays.modify i f }

/-- The relay on which something can happen. -/
def State.relayOn' (s : State) (i : Nat) : Option Relay := if s.tth.attached then (s.fab.relays[i]?).filter Relay.enabled else none

/-- RELAY_SEND (R574): a slot that waited is written once there is room. -/
def execRelaySend (relay : Nat) (s : State) : Out :=
  .next <| match s.relayOn' relay with
  | none => s
  | some r => match r.queue with
    | [] => s
    | x :: rest => if r.produced - r.peerConsumed < 256 then s.relayPut relay { r with queue := rest } x else s

/-- RELAY_ALIVE (R574): the alive count is increased every 1 ms. -/
def execRelayAlive (relay : Nat) (s : State) : Out :=
  .next <| match s.relayOn' relay with
  | none => s
  | some r =>
    if s.dev.now < r.aliveAt + 1000000 then s
    else (s.modRelay relay fun r => { r with alive := r.alive + 1, aliveAt := s.dev.now }).relayCount r (relayAlive (s.relayDir r)) (r.alive + 1)

/-! ### Fabric segments (R527, R528, R573) -/

/-- A segment discarded and counted. -/
def State.dropSegment (s : State) : State := { s with fab.segmentDrops := s.fab.segmentDrops + 1 }

/-- Whether a segment's header is sound (R527). One whose bytes 10 to 15 are not zero is not: R527 names no outcome for it, and it is
discarded and counted like the two causes it does name (DESIGN CHOICE, log 194). -/
def segmentOk (p : List Byte) : Bool :=
  let i := u16At p 0
  let n := u16At p 2
  let len := u32At p 4
  decide (16 ≤ p.length) && decide (1 ≤ n) && decide (n ≤ 17) && decide (i < n) && zeroAt p 10 6 && n == (len + 4063) / 4064 &&
    p.length == 16 + (if i + 1 = n then len - 4064 * (n - 1) else 4064)

/-- Bytes of reassembly space that a die's messages take (R528). -/
def State.reasmUsed (s : State) (die : Nat) : Nat := sumBy (fun (r : Reasm) => if r.die = die then r.len else 0) s.fab.reasm

/-- Whether a segment belongs to a message under reassembly. -/
def Reasm.isFor (r : Reasm) (die id : Nat) (p : List Byte) : Bool := r.die == die && r.sender == u16At p 8 && r.id == id

/-- A sound segment of an admitted sender joins its message; one that completes it hands it on (R528). -/
def State.segmentTake (s : State) (die id : Nat) (p : List Byte) : State :=
  let i := u16At p 0
  let n := u16At p 2
  let len := u32At p 4
  let mine := fun (r : Reasm) => r.isFor die id p
  let old := s.fab.reasm.find? mine
  if old.any fun r => r.count != n || r.len != len || r.segs.any fun x => x.1 == i then s.dropSegment
  else
    let r := old.getD ⟨die, u16At p 8, id, n, len, [], s.dev.now⟩
    let segs := insertBy Prod.fst (i, p.drop 16) r.segs
    let rest := s.fab.reasm.filter fun x => !mine x
    if segs.length = n then ({ s with fab.reasm := rest }).fabricIn 0 die (segs.flatMap Prod.snd)
    else { s with fab.reasm := rest ++ [{ r with segs := segs }] }

/-- Whether a die takes a segment in now: its reassembly space has room for the message, and its incoming request queue is not
full (R528, R530). -/
def State.intakeOpen (s : State) (die id : Nat) (p : List Byte) : Bool :=
  decide (s.incomingOn die < 4096) &&
    ((s.fab.reasm.any fun r => r.isFor die id p) || decide (s.reasmUsed die + u32At p 4 ≤ 8388608))

/-- Waiting segments taken in order as long as there is room, die by die; the list bounds them. -/
def State.intakeRun : List (Nat × Nat × List Byte) → State → State
  | [], s => s
  | x :: l, s =>
    State.intakeRun l <|
      if (s.fab.intake.find? fun y => y.1 == x.1) == some x && s.intakeOpen x.1 x.2.1 x.2.2 then
        State.segmentTake { s with fab.intake := s.fab.intake.erase x } x.1 x.2.1 x.2.2
      else s

def State.serveIntake (s : State) : State := State.intakeRun s.fab.intake s

/-- A sound segment of an admitted sender waits for its intake and is not dropped for want of room (R528). -/
def State.segmentIn (s : State) (die id : Nat) (p : List Byte) : State :=
  State.serveIntake { s with fab.intake := s.fab.intake ++ [(die, id, p)] }

/-- Whether a node number is an admitted one that a carrier's sender may use (R527, R573). -/
def State.senderOk (s : State) (via : Via) (sender : Nat) : Bool :=
  match via with
  | .udp _ _ src _ => (s.net.muster.roster.any fun m => m.number == sender) && s.rosterAddr sender == some src
  | .relay i => (s.relayOn' i).any fun r => s.numberOf r.peer == some sender
  | _ => false

/-- A FABRIC_SEGMENT message received (R527, R600). -/
def State.fabricSegment (s : State) (r : Req) : State :=
  let h := headerOf r.msg
  let p := r.msg.drop 16
  if h.version ≠ 2 || h.flags ≠ 0 || h.bay ≠ 0xFFFF || h.handle ≠ 0 || r.msg.length ≠ 16 + h.len || !segmentOk p ||
      !s.senderOk r.via (u16At p 8) then s.dropSegment
  else match r.via with
    | .udp port .. => s.segmentIn (port / 4) h.tag p
    | _ => s.segmentIn 0 h.tag p

/-- FABRIC_SEGMENT: a datagram of the network; it is never answered. -/
def execFabricSegment (r : Req) (s : State) : Out :=
  .next <| match r.via with
  | .udp port sub .. =>
    if (headerOf r.msg).op ≠ 0x0B40 || !s.linkUp port sub || !s.portOn port then s
    else if !s.serving r.via then s
    else s.fabricSegment r
  | _ => s

/-- REASSEMBLY_TIMEOUT (R528): a message is not whole 1 ms after its first segment. -/
def execReassemblyTimeout (die sender id : Nat) (s : State) : Out :=
  if 1 < die then .fault .noSuchUnit
  else .next <|
    let late := fun (r : Reasm) => r.die == die && r.sender == sender && r.id == id && decide (r.startedAt + 1000000 ≤ s.dev.now)
    if s.fab.reasm.any late then
      ({ s with fab.reasm := s.fab.reasm.filter fun r => !late r, fab.reasmDrops := satAdd 64 s.fab.reasmDrops 1 }).count 0x400 6 1
    else s

/-- One slot of a relay as it was read (R573). One whose bytes 4 to 15 are not zero is dropped (DESIGN CHOICE, log 159). -/
def State.relaySlot (s : State) (i : Nat) (slot : List Byte) : State :=
  let len := u32At slot 0
  let p := slice 16 len slot
  if len < 16 || 4080 < len || p.length ≠ len || !zeroAt slot 4 12 || !segmentOk p || !s.senderOk (.relay i) (u16At p 8) then s.dropSegment
  else s.segmentIn 0 (2 ^ 32 + i) p

/-- RELAY_POLL (R574): every 2 µs the peer's counts are read; its new slots are copied out, and the consumer count is written. -/
def execRelayPoll (relay produced consumed alive : Nat) (slots : List (List Byte)) (s : State) : Out :=
  .next <| match s.relayOn' relay with
  | none => s
  | some r =>
    if s.dev.now < r.polledAt + 2000 then s
    else
      let n := min (produced - r.consumed) 256
      let s := s.modRelay relay fun r => { r with
        polledAt := s.dev.now, peerProduced := produced, peerConsumed := max r.peerConsumed (min consumed r.produced), peerAlive := alive,
        peerAliveAt := if alive = r.peerAlive then r.peerAliveAt else some s.dev.now }
      if n = 0 then s
      else
        let s := (slots.take n).foldl (fun s x => State.relaySlot s relay x) s
        (s.modRelay relay fun r => { r with consumed := r.consumed + n }).relayCount r (relayConsumer (1 - s.relayDir r)) (r.consumed + n)

/-! ### Detach and attach (R575 to R577) -/

/-- Writes for the host that wait are dropped: each tether sheaf and lookup not placed counts as a placement failure (R576). -/
def State.loseTether (s : State) : State :=
  let mine := s.dp.sheafs.filter fun x => x.origin == .tether
  let looks := s.dp.lookups.filter fun x => onTether x.req.via && !x.lost
  let s := (mine.map Sheaf.bay ++ looks.map Lookup.bay).foldl (fun s b => State.placeFail s b) s
  { s with
    dp.sheafs := s.dp.sheafs.map fun x => (if x.origin = .tether then { x with origin := .lost } else x)
    dp.lookups := s.dp.lookups.map fun x => (if onTether x.req.via then { x with lost := true } else x) }

/-- Every region key and page-table entry revoked, and every read of host memory ended with chaffed granules (R576). -/
def State.revokeRegions (s : State) : State :=
  let s := s.tth.regions.foldl (fun s r => match r.closing with
    | some id => State.endJob s id ⟨.ok, 0, []⟩
    | none => s) s
  let s : State := { s with
    tth.regions := []
    dp.waiting := s.dp.waiting.map fun w => (if w.kind = .bias then { w with at_ := 0 } else w) }
  ((s.dp.reads.filter fun r => r.space == 8).foldl (fun s r => (State.quarantine s r).chaffRead r) s).tetherRun

/-- A tether reset (R576). -/
def State.tetherReset (s : State) (cause : Nat) : State :=
  let s := s.loseTether.revokeRegions
  let s : State := { s with
    tth := { Tether.initial with nextKey := s.tth.nextKey }
    fab.relays := s.fab.relays.map fun r => { r with enabled := false, queue := [] } }
  ((s.withdrawVotes 18).abortMargins 4 0 0).raise 0x0902 1 none (some 0) (leBytes 1 cause)

/-- TETHER_RESET (R575, R576): PERST# (0), hot reset (1), FLR (2), link down (3), D3hot (4). -/
def execTetherReset (cause : Nat) (s : State) : Out :=
  .next <| if s.tth.attached && cause ≤ 4 then s.tetherReset cause else s

/-- Whether a link is one the port takes (R542): the protocol, the generation, the width. -/
def linkTaken (protocol gen width : Nat) : Bool :=
  [4, 8, 16].contains width && match protocol with
  | 0 => decide (4 ≤ gen) && decide (gen ≤ 6)
  | 1 => gen == 5
  | 2 => gen == 5 || gen == 6
  | _ => false

/-- TETHER_ATTACH (R575, R577): the link has trained, the function is in D0 with memory space enabled, and ready becomes 1. With
TTH_DISABLE low the lanes are unused (R684). -/
def execTetherAttach (protocol gen width : Nat) (s : State) : Out :=
  .next <|
    if s.tth.attached || s.lan.tthDisable = 0 || !s.serving (.mailbox 0) || !s.domainA0 62 || !linkTaken protocol gen width then s
    else
      let s : State := { s with tth.attached := true, tth.ready := true, tth.protocol := protocol, tth.gen := gen, tth.width := width }
      s.raise 0x0903 0 none (some 0) (leBytes 1 protocol ++ leBytes 1 gen ++ leBytes 1 width)

/-! ### Commands (R563, R567, R570, R571, R578, R601) -/

def tetherSpec (op n : Nat) : CmdSpec := { op := op, b := true, t := true, states := [.opened], lens := exactly n }

/-- The region of the caller's bay that a key names. -/
def State.ownRegion (s : State) (b key : Nat) : Option Region := (s.region key).filter fun r => r.bay == b

/-- Page-table entries in use: one a page of every readable region (R563). -/
def Region.pages (r : Region) : Nat := if r.read then r.len / pageBytes r.pageSize else 0
def State.pageEntries (s : State) : Nat := sumBy Region.pages s.tth.regions

def specTetherRegionReg : CmdSpec := tetherSpec 0x020E 24

/-- TETHER_REGION_REG (R563). -/
def doTetherRegionReg (c : Ctx) (s : State) : Result :=
  let p := c.p
  let base := u64At p 0
  let len := u64At p 8
  let size := u8At p 16
  let access := u8At p 17
  let pg := pageBytes size
  c.fields s [(0, base % pg == 0), (8, len % pg == 0 && decide (len ≤ 2 ^ 40) && decide (base + len ≤ 2 ^ 64)), (16, decide (size ≤ 1)),
      (17, decide (access ≤ 3)), (18, u8At p 18 == 0 || (u8At p 18 == 1 && bit access 1)),
      (19, decide (u8At p 19 ≤ 63) || u8At p 19 == 0xFF), (20, zeroAt p 20 4)] <|
    let r : Region :=
      { key := s.tth.nextKey, bay := c.bay, base := base, len := len, pageSize := size, write := bit access 0, read := bit access 1,
        vector := if u8At p 19 = 0xFF then none else some (u8At p 19),
        owned := if u8At p 18 = 1 then List.range (len / pg) else [], closing := none }
    refuseIf (!s.tth.attached) .state 0 s <|
    refuseIf (decide (1024 ≤ (s.tth.regions.filter fun x => x.bay == c.bay).length) || decide (4096 ≤ s.tth.regions.length) ||
        decide (262144 < s.pageEntries + r.pages)) .noSpace 0 s <|
      okWith (leBytes 4 r.key ++ zeros 4) { s with
        tth.regions := s.tth.regions ++ [r]
        tth.nextKey := if s.tth.nextKey + 1 = 2 ^ 32 then 1 else s.tth.nextKey + 1 }

def execTetherRegionReg (r : Req) (s : State) : Out := runCommand specTetherRegionReg doTetherRegionReg r s

def specTetherRegionDereg : CmdSpec := tetherSpec 0x020F 8

/-- TETHER_REGION_DEREG (R567): the key is revoked at once; the answer follows what has already been issued. -/
def doTetherRegionDereg (c : Ctx) (s : State) : Result :=
  let key := u32At c.p 0
  c.fields s [(0, (s.ownRegion c.bay key).isSome), (4, zeroAt c.p 4 4)] <|
    let (id, s) := s.startJob c .dereg [] [] [key]
    let close := fun (r : Region) => (if r.key = key then { r with closing := some id } else r)
    (none, ({ s with tth.regions := s.tth.regions.map close }).tetherRun)

def execTetherRegionDereg (r : Req) (s : State) : Out := runCommand specTetherRegionDereg doTetherRegionDereg r s

def specTetherBiasSet : CmdSpec := tetherSpec 0x0210 24

/-- TETHER_BIAS_SET (R570). -/
def doTetherBiasSet (c : Ctx) (s : State) : Result :=
  let p := c.p
  let key := u32At p 0
  let r := (s.ownRegion c.bay key).filter Region.read
  let pg := pageBytes ((r.map Region.pageSize).getD 0)
  let off := u64At p 8
  let len := u64At p 16
  c.fields s [(0, r.isSome), (4, decide (u8At p 4 ≤ 1)), (5, zeroAt p 5 3), (8, off % pg == 0),
      (16, len % pg == 0 && r.any fun r => decide (off + len ≤ r.len))] <|
    let (_, s) := s.startJob c .bias [] [] [key, off / 64, len / 64, u8At p 4]
    (none, s.tetherRun)

def execTetherBiasSet (r : Req) (s : State) : Out := runCommand specTetherBiasSet doTetherBiasSet r s

/-- A copy: its region open to an access, and its span of the bay's space (R88, R273, R571). -/
def doCopy (kind : JobKind) (c : Ctx) (s : State) : Result :=
  let p := c.p
  let key := u32At p 0
  let isIn := decide (kind = .copyIn)
  let r := (s.ownRegion c.bay key).filter fun r => if isIn then r.read else r.write
  let space := u8At p 4
  let off := u64At p 8
  let addr := u64At p 16
  let n := u32At p 24
  c.fields s [(0, r.isSome), (4, space == 1 || space == 2), (5, zeroAt p 5 3),
      (8, off % 64 == 0 && r.any fun r => decide (off ≤ r.len)),
      (16, if isIn then s.dstOk c.bay 0 space addr n else s.spaceIn c.bay 0 space addr n),
      (24, decide (1 ≤ n) && decide (n ≤ 1048576) && r.any fun r => decide (off + 64 * n ≤ r.len)), (28, zeroAt p 28 4)] <|
    refuseIf (!s.tth.attached) .state 0 s <|
      let (_, s) := s.startJob c kind [] [0, 0] [space, addr, key, off, n]
      (none, s.tetherRun)

def specTetherCopyIn : CmdSpec := tetherSpec 0x0508 32
def execTetherCopyIn (r : Req) (s : State) : Out := runCommand specTetherCopyIn (doCopy .copyIn) r s

def specTetherCopyOut : CmdSpec := tetherSpec 0x0509 32
def execTetherCopyOut (r : Req) (s : State) : Out := runCommand specTetherCopyOut (doCopy .copyOut) r s

def specTetherQuery : CmdSpec := { op := 0x0A14, d := true, m := true, lens := exactly 0 }

/-- TETHER_QUERY: the link, the regions and page-table entries in use, and the counters of R554. -/
def doTetherQuery (_ : Ctx) (s : State) : Result :=
  okWith (leBytes 1 (flag s.tth.attached) ++ leBytes 1 s.tth.protocol ++ leBytes 1 s.tth.gen ++ leBytes 1 s.tth.width ++
    leBytes 4 s.tth.regions.length ++ leBytes 4 s.pageEntries ++ s.tth.counters.flatMap (leBytes 4)) s

def execTetherQuery (r : Req) (s : State) : Out := runCommand specTetherQuery doTetherQuery r s

def specTetherRelaySet : CmdSpec := { op := 0x0B41, d := true, t := true, lens := exactly 24 }

/-- Where a relay for a peer goes: its own entry, one that is disabled, or a new one while there are fewer than 4 (R572). -/
def State.relayPlace (s : State) (peer : Nat) : Option Nat :=
  let l := s.fab.relays
  match l.findIdx? fun r => r.peer == peer with
  | some i => some i
  | none => match l.findIdx? fun r => !r.enabled with
    | some i => some i
    | none => if l.length < 4 then some l.length else none

/-- TETHER_RELAY_SET (R572): a relay is configured and enabled, its own counts written as zero; or disabled. -/
def doTetherRelaySet (c : Ctx) (s : State) : Result :=
  let p := c.p
  let peer := u64At p 0
  let on := u8At p 16
  c.fields s [(0, peer != s.net.muster.config.nodeId), (8, u64At p 8 % 2097152 == 0), (16, decide (on ≤ 1)), (17, zeroAt p 17 7)] <|
    match s.relayPlace peer with
    | none => fail .noSpace 0 s
    | some i =>
      let r : Relay :=
        { peer := peer, base := u64At p 8, enabled := on == 1, produced := 0, consumed := 0, alive := 0, peerProduced := 0, peerConsumed := 0,
          peerAlive := 0, peerAliveAt := none, polledAt := s.dev.now, aliveAt := s.dev.now, queue := [] }
      let s : State := { s with fab.relays := if i < s.fab.relays.length then s.fab.relays.set i r else s.fab.relays ++ [r] }
      let dir := s.relayDir r
      if on = 1 then
        okWith [] (((s.relayCount r (relayProducer dir) 0).relayCount r (relayConsumer (1 - dir)) 0).relayCount r (relayAlive dir) 0)
      else okWith [] s

def execTetherRelaySet (r : Req) (s : State) : Out := runCommand specTetherRelaySet doTetherRelaySet r s

end Sys2Proof.Machine
end

