-- ==== Sys2Proof/Machine/Power.lean ====
section
/-! DEFINITION. Power domains, votes, fallow entry and exit, wake sources, the knock frame (R615 to R639), the reference clocks
and the operating point of CCLK (R605 to R608). -/

namespace Sys2Proof.Machine

/-! ### Domains (R615) -/

/-- The index in the order of R615 of a domain number. -/
def domainIndex (n : Nat) : Option Nat :=
  if n < 2 then some n
  else if 0x10 ≤ n && n < 0x30 then some (n - 0x10 + 2)
  else if 0x30 ≤ n && n < 0x38 then some (n - 0x30 + 34)
  else if 0x40 ≤ n && n < 0x44 then some (n - 0x40 + 42)
  else if 0x50 ≤ n && n < 0x60 then some (n - 0x50 + 46)
  else if n = 0x60 then some 62
  else if 0x70 ≤ n && n < 0x7C then some (n - 0x70 + 63)
  else none

/-- The die of a domain. -/
def domainDie (i : Nat) : Nat :=
  if i < 2 then i else if i < 34 then (i - 2) / 16 else if i < 42 then (i - 34) / 4 else if i < 46 then i % 2
  else if i < 54 then (i - 46) / 4 else if i < 58 then linkDie (i - 53) else if i < 62 then loftDie (i - 58) else if i = 62 then 0
  else siloDie (i - 63)

def State.domain (s : State) (i : Nat) : Domain := s.lan.domains.getD i Domain.initial

/-- Code of a state (R639). -/
def domCode : DomState → Nat
  | .a0 => 0 | .fallow f => f | .entering .. => 4 | .exiting .. => 5

def isFallow : DomState → Bool
  | .fallow _ => true
  | _ => false

/-- Whether every domain but the listed ones is in fallow. -/
def State.othersFallow (s : State) (die : Nat) (all : Bool) (self : Nat) : Bool :=
  (List.range 75).all fun k => k == self || (!all && domainDie k != die) || isFallow (s.domain k).state

/-- Whether a read or a write of a space on a die is in progress. -/
def State.accessing (s : State) (p : Nat → Nat → Nat → Nat → Bool) : Bool :=
  (s.dp.reads.any fun r => p r.bay r.die r.space r.addr) || s.dp.writes.any fun w => p w.bay w.die w.space w.addr

/-- Whether a domain is busy (R623). `low` says whether the tether's link is in L1.2. -/
def State.domainBusy (s : State) (i : Nat) (low : Bool) : Bool :=
  let die := domainDie i
  if i < 2 then
    !s.othersFallow die false i || (i == 0 && (!isFallow (s.domain 1).state || !s.net.stewardQueue.isEmpty || !s.net.parked.isEmpty ||
      !s.dp.messages.isEmpty || !s.dp.waiting.isEmpty || !s.lan.buffered.isEmpty))
  else if i < 34 then (s.dp.crews[i - 2]?).any fun c => !c.queue.isEmpty || c.job.isSome || !c.runs.isEmpty || decide (s.dev.now < c.resetUntil)
  else if i < 42 then (List.range 4).any fun k => (s.dp.threshers[4 * (i - 34) + k]?).any fun t =>
    !t.bags.isEmpty || t.matrix.isSome || t.bypass.isSome
  else if i < 46 then
    (s.dp.contexts.any fun c => c.running && ctxDie c.no == die) || !s.dp.sheafs.isEmpty || (s.dp.lookups.any fun x => x.die == die) ||
      s.accessing fun _ d space _ => d == die && (if i < 44 then space == 0 || space == 6 else space == 4)
  else if i < 54 then
    (((s.net.ports[i - 46]?).map Port.subs).getD []).any (fun x => x.prios.any fun p => !p.waiting.isEmpty) ||
      s.net.qps.any fun q => q.port == i - 46 && (!q.unacked.isEmpty || decide (0 < q.rxUnacked))
  else if i < 58 then (s.link (i - 53)).sendBase != (s.link (i - 53)).sendNext || bit (s.domain i).votes (i - 34)
  else if i < 62 then s.accessing fun b _ space addr => space == 2 && (s.bay b).space.portOf addr == some (i - 58)
  else if i = 62 then (s.tth.attached && !low) || (s.dp.reads.any fun r => r.space == 8) || s.tth.boxes.any fun m => !m.toWrite.isEmpty
  else (s.accessing fun b _ space addr => (space == 1 || space == 5) && (s.bay b).space.siloOf addr == some (i - 63)) ||
    s.dp.flails.any fun f => f.no / 32 == i - 63

/-- At each ACLK edge the hysteresis timer of every busy domain, and of every one with a vote, restarts (R624). -/
def State.restartIdle (s : State) : State :=
  { s with lan.domains := s.lan.domains.zipIdx.map fun d =>
      (if d.1.state == .a0 && (d.1.votes != 0 || s.domainBusy d.2 true) then { d.1 with idleSince := s.dev.now } else d.1) }

/-! ### Wakes (R627, R628, R631, R637) -/

/-- A bit of LAN_WAKE_CAUSE set. -/
def State.wakeCause (s : State) (i : Nat) : State := { s with lan.wakeCause := s.lan.wakeCause ||| 2 ^ i }

/-- Exit from a fallow state begins: from F1 the domain is at once in A0. -/
def State.startExit (s : State) (i f : Nat) : State :=
  let s := s.count (0x800 + i) 2 1
  s.modDomain i fun d => { d with state := (if f = 1 then .a0 else .exiting f .regulator), wakePending := false, idleSince := s.dev.now }

/-- A wake event of a domain latched (R627): a cause of R637. -/
def State.latchWake (s : State) (i cause : Nat) : State :=
  match (s.domain i).state with
  | .fallow f => (s.startExit i f).wakeCause cause
  | .entering _ .quiesce =>
    (s.count (0x800 + i) 1 1).modDomain i fun d => { d with state := .a0, aborted := satAdd 8 d.aborted 1, idleSince := s.dev.now }
  | .entering _ .gate =>
    if (s.domain i).wakePending then s
    else ((s.modDomain i fun d => { d with wakePending := true }).wakeCause cause).wakeCause 8
  | _ => s

/-- A domain woken: waking the steward domain of D1 also wakes that of D0 (R631). -/
def State.wakeDomain (s : State) (i cause : Nat) : State :=
  let s := s.latchWake i cause
  if i = 1 then s.latchWake 0 cause else s

/-- A domain, its die's steward domain and that of D0 woken (R631). -/
def State.wakeUp (s : State) (i cause : Nat) : State := ((s.wakeDomain i cause).wakeDomain (domainDie i) cause).wakeDomain 0 cause

/-- Whether a wake of a kind is one of a domain's: 0 vote and 1 demand of any, 2 a frame and 3 a knock or signal energy of a network
port, 4 of the tether, 6 the training pattern of a yoke, 5 MTW and 7 the timer of the D0 steward domain (R631). -/
def wakeFits (dom cause : Nat) : Bool :=
  match cause with
  | 0 | 1 => true
  | 2 | 3 => decide (46 ≤ dom) && decide (dom < 54)
  | 4 => dom == 62
  | 6 => decide (54 ≤ dom) && decide (dom < 58)
  | 5 | 7 => dom == 0
  | _ => false

/-- The domains that a wake latched for one wakes: a vote or a demand wakes that domain (R622), with the steward domain whose clock it
takes where it has none of its own (R628); the other kinds wake those of R631. -/
def State.wakeOf (s : State) (dom cause : Nat) : State :=
  if cause ≤ 1 && decide (46 ≤ dom) then s.wakeDomain dom cause else s.wakeUp dom cause

/-- WAKE_LATCH (R627): a wake event of a domain: 0 vote, 1 demand, 2 frame, 3 knock or signal energy, 4 tether, 5 MTW, 6 yoke,
7 timer. -/
def execWakeLatch (dom cause : Nat) (s : State) : Out :=
  if 74 < dom then .fault .noSuchUnit
  else .next <|
    if !wakeFits dom cause || (cause = 0 && (s.domain dom).votes = 0) || s.dev.phase = .parked || s.dev.phase = .tripped then s
    else
      let energy := cause = 3 && 46 ≤ dom && dom < 54 && (s.domain dom).state == .fallow 3
      let s : State := if energy then { s with lan.energyAt := s.lan.energyAt.set (dom - 46) (some s.dev.now) } else s
      s.wakeOf dom cause

/-! ### Entry (R618, R619, R624 to R626) -/

/-- Whether device F3 may be entered (R619). -/
def State.deviceF3 (s : State) : Bool :=
  (List.range 16).all (fun b => s.bayState b == .absent) && (List.range 63).all fun i => (s.domain i).fallow == 3

/-- The fallow state that a domain enters (R618). -/
def State.entryTarget (s : State) (i : Nat) : Nat :=
  let f := (s.domain i).fallow
  let d := domainDie i
  let ok := if i < 2 then i == 0 && s.deviceF3 && s.othersFallow 0 true 0
    else if i = 42 || i = 43 then s.bays.all fun y => natAt y.core.shares.granary d == 0 || y.core.life.state == .absent
    else if i = 62 then !s.tth.attached
    else decide (i < 63)
  if f = 3 && !ok then 2 else f

/-- The earliest pending action of Varlet that depends on time: the end of a lease or of an orphan hold, or a refresh (R631). -/
def State.nextTimer (s : State) : Nat :=
  let leases := (s.net.sessions.filter fun x => x.state != .ended).map Session.expiry
  match leastBy id leases with
  | some t => t % 2 ^ 48
  | none => s.lan.timer

/-- HYSTERESIS_EXPIRY (R624, R626): an idle domain with no vote begins entry. `low`: its link is in its low-power state, or its
partner has agreed, where that is a condition (R618, R623). -/
def execHysteresisExpiry (dom : Nat) (low : Bool) (s : State) : Out :=
  if 74 < dom then .fault .noSuchUnit
  else .next <|
    let d := s.domain dom
    let t := s.entryTarget dom
    let link := (54 ≤ dom && dom < 58) || dom = 62
    if d.state ≠ .a0 || d.votes ≠ 0 || s.domainBusy dom low || s.dev.now < d.idleSince + 1000 * d.hysteresis || s.dev.phase ≠ .running ||
        (link && t = 2 && !low && !(dom = 62 && !s.tth.attached)) then s
    else
      let s : State := if dom = 0 then { s with lan.timer := s.nextTimer } else s
      s.modDomain dom fun d => { d with state := .entering t .quiesce, wakePending := false }

/-- A link comes down because its domain enters F3 (R618). -/
def State.portDown (s : State) (port : Nat) : State :=
  (List.range 4).foldl (fun s k => if State.linkUp s port k then State.setLink s port k false else s) s

/-- What a domain loses at its entry into F3 (R618). -/
def State.loseF3 (s : State) (i : Nat) : State :=
  if 2 ≤ i && i < 34 then { s with mem := memClear (memClear s.mem (memKey .store (i - 2) 0 0) (2 ^ 60)) (memKey .scratch (i - 2) 0 0) (2 ^ 60) }
  else if 44 ≤ i && i < 46 then
    let drop := fun (d : StageDie) =>
      let n := (d.copies.filter Staged.inCrib).length
      ({ copies := d.copies.filter fun c => !c.inCrib, counters := addAt d.counters 2 n } : StageDie)
    { s with
      bays := s.bays.map fun y => { y with granary := { y.granary with stage := y.granary.stage.modify (i - 44) drop } }
      mem := (List.range 16).foldl (fun m b => memClear m (memKey .crib b (i - 44) 0) (2 ^ 60)) s.mem }
  else if 46 ≤ i && i < 54 then s.portDown (i - 46)
  else if 54 ≤ i && i < 58 then if (s.link (i - 53)).state.carries then s.yokeDown (i - 53) else s
  else if 58 ≤ i && i < 62 then
    (s.modLoft (i - 58) fun x => if x.state = .up || x.state = .lost then { x with state := .down, downAt := 0, writesOut := false }
      else x).abortMargins
      2 (i - 58) 0
  else s

/-- ENTRY_COMMIT (R626): the commit point; Gate follows. -/
def execEntryCommit (dom : Nat) (s : State) : Out :=
  if 74 < dom then .fault .noSuchUnit
  else .next <| match (s.domain dom).state with
    | .entering t .quiesce =>
      let s := (s.count (0x800 + dom) 0 1).modDomain dom fun d => { d with state := .entering t .gate }
      if t = 3 then s.loseF3 dom else s
    | _ => s

/-- GATE_END (R626, R627): the domain is in fallow, or its exit begins if a wake was latched meanwhile. With the steward domain
of D0 in F3 the device is in F3, and every domain with it (R619). -/
def execGateEnd (dom : Nat) (s : State) : Out :=
  if 74 < dom then .fault .noSuchUnit
  else .next <| match (s.domain dom).state with
    | .entering t .gate =>
      if (s.domain dom).wakePending then s.startExit dom t
      else
        let s := s.modDomain dom fun d => { d with state := .fallow t }
        if dom = 0 && t = 3 then { s with lan.domains := s.lan.domains.map fun d => { d with state := .fallow 3 } } else s
    | _ => s

/-! ### Exit (R628, R630) -/

/-- A phase of an exit ends with its ready signal. -/
def State.exitPhase (s : State) (i : Nat) (p q : ExitPhase) (ready : Bool) : State :=
  match (s.domain i).state with
  | .exiting f x => if x = p && ready then s.modDomain i fun d => { d with state := .exiting f q } else s
  | _ => s

/-- PWR_OK (R628). -/
def execPwrOk (dom : Nat) (s : State) : Out :=
  if 74 < dom then .fault .noSuchUnit else .next (s.exitPhase dom .regulator .oscillator true)

/-- PLL_LOCK (R628): crews, quads, granaries and cribs wait for the steward domain that holds their PLL. -/
def execPllLock (dom : Nat) (s : State) : Out :=
  if 74 < dom then .fault .noSuchUnit
  else .next (s.exitPhase dom .oscillator .memory (!(2 ≤ dom && dom < 46) || s.domainA0 (domainDie dom)))

/-- MEM_OK (R628). -/
def execMemOk (dom : Nat) (s : State) : Out :=
  if 74 < dom then .fault .noSuchUnit else .next (s.exitPhase dom .memory .logic true)

/-! ### Ports in listen (R632 to R634) -/

/-- Bytes of the listen buffer in use by a port. -/
def State.listenUsed (s : State) (port : Nat) : Nat := sumBy (fun (h : Held) => if h.port = port then h.data.length else 0) s.lan.listen

/-- LISTEN_FRAME (R632): a frame addressed to a port in F2 wakes it, pauses its senders, and is held. -/
def execListenFrame (port sub : Nat) (data : List Byte) (s : State) : Out :=
  if !hasSub port sub then .fault .noSuchUnit
  else .next <|
    let st := (s.domain (46 + port)).state
    if !s.linkUp port sub || !(st == .fallow 2 || st == .entering 2 .gate || match st with | .exiting .. => true | _ => false) then s
    else
      let first := s.listenUsed port = 0
      let s := s.wakeUp (46 + port) 2
      let s := if first then ((List.range 8).filter fun k => bit (s.settings port).pfcMask k).foldl (fun s k => State.sendPfc s port sub k 0xFFFF) s else s
      if 65536 < s.listenUsed port + data.length then
        ({ s with lan.listenDrops := s.lan.listenDrops + 1 }).discardFrame port sub
      else { s with lan.listen := s.lan.listen ++ [⟨port, sub, data⟩] }

/-- A knock reply (R633, R634). -/
def State.knockReply (s : State) (port sub counter sender : Nat) : State :=
  let c := s.net.muster.config
  let head := leBytes 2 0x4B57 ++ leBytes 1 1 ++ leBytes 1 0x80 ++ leBytes 8 sender ++ leBytes 8 c.fieldId ++ leBytes 8 counter ++ leBytes 8 c.nodeId
  s.sendFrames port sub 0 1 64 (.frame port sub 3 (head ++ (hmac c.fieldKey head).take 8 ++ zeros 2))

/-- What becomes of a port's frames and replies when it is in A0 again (R476, R632, R634): what waited is sent, the frames held
are handed to the MAC in order and their senders resumed, and the replies owed go out. -/
def State.portAwake (s : State) (port : Nat) : State :=
  let subs := distinct ((s.lan.listen.filter fun h => h.port == port).map Held.sub)
  let s : State := { s with lan.listen := s.lan.listen.filter fun h => h.port != port }
  let s := subs.foldl (fun s sub => ((List.range 8).filter fun k => bit (State.settings s port).pfcMask k).foldl
    (fun s k => State.sendPfc s port sub k 0) s) s
  let s := (List.range 4).foldl (fun s sub => (List.range 8).foldl (fun s k =>
    if (State.prio s port sub k).any fun p => p.pausedSince.isNone then State.resumePrio s port sub k else s) s) s
  let mine := s.lan.knockReplies.filter fun r => r.1 == port
  let s : State := { s with lan.knockReplies := s.lan.knockReplies.filter fun r => r.1 != port }
  mine.foldl (fun s r => State.knockReply s port r.2.1 r.2.2.1 r.2.2.2) s

/-- Why a knock frame is not accepted (R633, R634, R666). -/
def State.knockBad (s : State) (p : List Byte) : Option Nat :=
  let c := s.net.muster.config
  if p.length < 46 || u16At p 0 ≠ 0x4B57 || u8At p 2 ≠ 1 || bits (u8At p 3) 2 6 ≠ 0 || u16At p 44 ≠ 0 then some 0
  else if u64At p 4 ≠ 0 && u64At p 4 ≠ c.nodeId then some 4
  else if u64At p 12 ≠ c.fieldId then some 3
  else if slice 36 8 p ≠ (hmac c.fieldKey (p.take 36)).take 8 then some 1
  else if u64At p 20 ≤ s.lan.knockHigh then some 2
  else none

/-- KNOCK (R633, R634): a knock frame reaches a port. A reply is never taken as a knock. -/
def execKnock (port sub : Nat) (data : List Byte) (s : State) : Out :=
  if !hasSub port sub then .fault .noSuchUnit
  else .next <|
    if !s.linkUp port sub || (s.domain (46 + port)).state == .fallow 3 || bit (u8At data 3) 7 then s
    else match s.knockBad data with
      | some why =>
        let s : State := { s with lan.knockRejects := satAdd 32 s.lan.knockRejects 1 }
        if s.lan.knockRejectAt.any fun t => decide (s.dev.now < t + 1000000000) then s
        else ({ s with lan.knockRejectAt := some s.dev.now }).raise 0x0109 1 none none
          (leBytes 1 port ++ leBytes 1 sub ++ leBytes 1 why ++ zeros 1 ++ leBytes 4 s.lan.knockRejects)
      | none =>
        let s : State := { s with lan.knockHigh := u64At data 20, lan.energyAt := s.lan.energyAt.set port none }
        let s := s.wakeUp (46 + port) 3
        let s := if bit (u8At data 3) 1 then (List.range 75).foldl (fun s i => State.wakeDomain s i 3) s else s
        if !bit (u8At data 3) 0 then s
        else if s.domainA0 (46 + port) then s.knockReply port sub (u64At data 20) (u64At data 28)
        else { s with lan.knockReplies := s.lan.knockReplies ++ [(port, sub, u64At data 20, u64At data 28)] }

/-- FALSE_WAKE (R634): 20 ms after link-up by signal energy no knock has come, and the port returns to F3. -/
def execFalseWake (port : Nat) (s : State) : Out :=
  if 7 < port then .fault .noSuchUnit
  else .next <| match s.lan.energyAt.getD port none with
    | none => s
    | some t =>
      if 0 < s.upSubs port && t + 20000000 ≤ s.dev.now then
        let s : State := { s with lan.energyAt := s.lan.energyAt.set port none, lan.falseWakes := addAt s.lan.falseWakes port 1 }
        ((s.modDomain (46 + port) fun d => { d with state := .fallow 3 }).count (0x800 + 46 + port) 0 1).portDown port
      else s

/-- LANTERN_TIMER (R631): device time reaches the timer's compare value. -/
def execLanternTimer (s : State) : Out :=
  .next <| if s.lan.timer ≠ 0 && s.lan.timer ≤ s.dev.now % 2 ^ 48 then s.wakeDomain 0 7 else s

/-! ### The operating point (R33, R607, R608, R675) -/

/-- The point that the command and the ceilings allow. -/
def State.cclkTarget (s : State) : Nat := min s.dev.cclkSet (min s.dev.thermCeil s.dev.powerCeil)

/-- A change to a point begins (R607): Raise for a higher one, Lock for a lower one. -/
def State.startCclk (s : State) (target cause : Nat) (cmd : Option Nat) : State :=
  { s with dev.cclkChange := some ⟨if s.dev.cclk < target then .raise else .lock, target, cause, cmd⟩ }

/-- A ceiling has changed: the phases of R607 run unless a change already does. -/
def State.followCeiling (s : State) : State :=
  if s.dev.cclkChange.isNone && s.cclkTarget ≠ s.dev.cclk then s.startCclk s.cclkTarget 1 none else s

/-- A change has ended; a ceiling that has moved meanwhile starts the next. -/
def State.endCclk (s : State) : State := ({ s with dev.cclkChange := none }).followCeiling

/-- CCLK_PHASE_END (R607): the rails have reached the new point's voltage (Raise, Lower), or the idle PLLs have locked (Lock).
Switch ends at a window boundary. -/
def execCclkPhaseEnd (s : State) : Out :=
  .next <| match s.dev.cclkChange with
  | none => s
  | some c => match c.phase with
    | .raise => { s with dev.cclkChange := some { c with phase := .lock } }
    | .lock => { s with dev.cclkChange := some { c with phase := .switch } }
    | .switch => s
    | .lower => s.endCclk

/-- Switch at a window boundary (R607): both dies run at the new point; CCLK_CHANGE reports it. -/
def State.switchCclk (s : State) : State :=
  match s.dev.cclkChange with
  | none => s
  | some c =>
    if c.phase ≠ .switch then s
    else
      let down := decide (c.target < s.dev.cclk)
      let s := ({ s with dev.cclk := c.target }).raise 0x0103 0 none none (leBytes 1 c.target ++ leBytes 1 c.cause)
      if down then { s with dev.cclkChange := some { c with phase := .lower } } else s.endCclk

def specCclkSet : CmdSpec := { op := 0x0905, d := true, m := true, lens := exactly 8 }

/-- CCLK_SET (R607): answered when the change has been accepted (DEDUCED, log 47). -/
def doCclkSet (c : Ctx) (s : State) : Result :=
  let p := u8At c.p 0
  c.fields s [(0, decide (p ≤ 2)), (1, zeroAt c.p 1 7)] <|
  refuseIf s.dev.cclkChange.isSome .busy 0 s <|
    let s : State := { s with dev.cclkSet := p }
    if s.cclkTarget = s.dev.cclk then okWith [] s else okWith [] (s.startCclk s.cclkTarget 0 none)

def execCclkSet (r : Req) (s : State) : Out := runCommand specCclkSet doCclkSet r s

/-- The thermal ceiling moves: DIE_THERMAL reports it (R608). -/
def State.setThermal (s : State) (tj : Int) (ceil : Nat) : State :=
  (({ s with dev.thermCeil := ceil }).raise 0x0104 1 none none (leBytes 2 (unsignedOf 16 tj) ++ leBytes 1 ceil)).followCeiling

/-- Thermal trip (R608): every rail but the lantern's is opened, and the package is held off. -/
def State.thermTrip (s : State) (tj : Int) : State :=
  ({ s with dev.phase := .tripped }).raise 0x0105 3 none none (leBytes 2 (unsignedOf 16 tj))

/-- The hotter junction temperature. -/
def State.hotTj (s : State) : Int := s.dev.tj.foldl max (s.dev.tj.getD 0 0)

/-- DIE_TEMPERATURE (R608): a reading of a die in 1/16 °C. -/
def execDieTemperature (die : Nat) (tj : Int) (s : State) : Out :=
  if 1 < die then .fault .noSuchUnit
  else .next <|
    let s : State := { s with dev.tj := s.dev.tj.set die tj }
    let hot := s.hotTj
    let s : State := { s with dev.coolSince := if hot < 95 * 16 then some (s.dev.coolSince.getD s.dev.now) else none }
    if s.dev.phase ≠ .running && s.dev.phase ≠ .booting && s.dev.phase ≠ .recovery then s
    else if 105 * 16 ≤ hot then s.thermTrip hot
    else if 103 * 16 ≤ hot then (if 0 < s.dev.thermCeil then s.setThermal hot 0 else s)
    else if 100 * 16 ≤ hot then (if 1 < s.dev.thermCeil then s.setThermal hot 1 else s)
    else if s.dev.thermCeil < s.dev.cclkSet && s.dev.coolSince.any fun t => decide (t + 100000000 ≤ s.dev.now) then
      ({ s with dev.coolSince := some s.dev.now }).setThermal hot (s.dev.thermCeil + 1)
    else s

/-- DIE_THERMTRIP (R608): a die is at 105 °C. -/
def execDieThermtrip (die : Nat) (s : State) : Out :=
  if 1 < die then .fault .noSuchUnit
  else .next <|
    let on := s.dev.phase == .running || s.dev.phase == .booting || s.dev.phase == .recovery
    if !on || s.dev.tj.getD die 0 < 105 * 16 then s else s.thermTrip (s.dev.tj.getD die 0)

/-! ### Reference clocks (R606) -/

/-- CLOCK_REF_LOST (R606): 0 the 25 MHz crystal, 1 the 100 MHz reference, 2 the 156.25 MHz reference. -/
def execClockRefLost (ref : Nat) (s : State) : Out :=
  if 2 < ref then .fault .noSuchUnit
  else .next <|
    if (s.dev.refLost.getD ref none).isSome then s
    else
      let s : State := { s with dev.refLost := s.dev.refLost.set ref (some s.dev.now) }
      let s := s.raise 0x0101 2 none none (leBytes 1 ref)
      if ref = 1 then
        let s := (List.range 4).foldl (fun s k =>
          if (State.loft s k).state = .up || (State.loft s k).state = .lost then State.loftDown s k 0 else s) s
        if s.tth.attached then s.tetherReset 3 else s
      else if ref = 2 then (List.range 8).foldl (fun s k => State.portDown s k) s
      else s

/-- CLOCK_REF_OK (R606). -/
def execClockRefOk (ref : Nat) (s : State) : Out :=
  if 2 < ref then .fault .noSuchUnit
  else .next <|
    if (s.dev.refLost.getD ref none).isNone then s
    else ({ s with dev.refLost := s.dev.refLost.set ref none }).raise 0x0102 0 none none (leBytes 1 ref)

/-- REF_HOLDOVER_EXPIRY (R606): the 100 MHz reference has stayed lost for 1 ms. -/
def execRefHoldoverExpiry (s : State) : Out :=
  .next <|
    if s.dev.fatal || !((s.dev.refLost.getD 1 none).any fun t => decide (t + 1000000 ≤ s.dev.now)) then s
    else (s.raise 0x0101 3 none none (leBytes 1 1)).goFatal

/-! ### The power commands (R621, R622, R625, R639) -/

/-- The caller's voter number (R621). -/
def voterOf (c : Ctx) : Nat :=
  match c.caller.bay with
  | some b => b
  | none => if onTether c.req.via then 18 else 19

/-- The state byte of a domain's answer. -/
def State.domainAnswer (s : State) (i : Nat) : List Byte := leBytes 1 (domCode (s.domain i).state) ++ zeros 7

def specPowerVote : CmdSpec := { op := 0x0901, b := true, d := true, m := true, u := true, states := [.opened], lens := exactly 8 }

/-- POWER_VOTE (R622): a vote keeps its domain out of fallow and wakes it. -/
def doPowerVote (c : Ctx) (s : State) : Result :=
  match domainIndex (u16At c.p 0) with
  | none => fail .range 0 s
  | some i => c.fields s [(2, zeroAt c.p 2 6)] <|
    refuseIf (bit (s.domain i).votes (voterOf c)) .duplicate 0 s <|
      let s := s.modDomain i fun d => { d with votes := d.votes + 2 ^ voterOf c, idleSince := s.dev.now }
      let s := s.wakeDomain i 0
      okWith (s.domainAnswer i) s

def execPowerVote (r : Req) (s : State) : Out := runCommand specPowerVote doPowerVote r s

def specPowerRelease : CmdSpec := { op := 0x0902, b := true, d := true, m := true, u := true, lens := exactly 8 }

/-- POWER_RELEASE (R622): the hysteresis timer starts where the domain has no vote left. -/
def doPowerRelease (c : Ctx) (s : State) : Result :=
  match domainIndex (u16At c.p 0) with
  | none => fail .range 0 s
  | some i => c.fields s [(2, zeroAt c.p 2 6)] <|
    refuseIf (!bit (s.domain i).votes (voterOf c)) .state 0 s <|
      let s := s.modDomain i fun d => { d with votes := dropVote d.votes (voterOf c), idleSince := s.dev.now }
      okWith (s.domainAnswer i) s

def execPowerRelease (r : Req) (s : State) : Out := runCommand specPowerRelease doPowerRelease r s

def specPowerQuery : CmdSpec := { op := 0x0903, b := true, d := true, m := true, lens := exactly 8 }

def doPowerQuery (c : Ctx) (s : State) : Result :=
  match domainIndex (u16At c.p 0) with
  | none => fail .range 0 s
  | some i => c.fields s [(2, zeroAt c.p 2 6)] <|
    let d := s.domain i
    okWith (leBytes 1 (domCode d.state) ++ leBytes 1 d.fallow ++ zeros 2 ++ leBytes 4 d.votes ++ leBytes 4 d.hysteresis) s

def execPowerQuery (r : Req) (s : State) : Out := runCommand specPowerQuery doPowerQuery r s

def specPowerConfig : CmdSpec := { op := 0x0904, d := true, m := true, lens := exactly 8 }

/-- POWER_CONFIG (R625): kept in boot flash before it answers; it takes effect at the next entry. -/
def doPowerConfig (c : Ctx) (s : State) : Result :=
  let f := u8At c.p 2
  let us := u32At c.p 4
  match domainIndex (u16At c.p 0) with
  | none => fail .range 0 s
  | some i =>
    c.fields s [(2, decide (1 ≤ f) && decide (f ≤ 3) && !(f == 3 && decide (63 ≤ i))), (3, zeroAt c.p 3 1),
        (4, us == 0 || (decide (10 ≤ us) && decide (us ≤ 10000000)))] <|
      let h := if us = 0 then 100 else us
      let s := s.modDomain i fun d => { d with fallow := f, hysteresis := h }
      okWith [] { s with flash.domCfg := putKey Prod.fst (i, f, h) s.flash.domCfg }

def execPowerConfig (r : Req) (s : State) : Out := runCommand specPowerConfig doPowerConfig r s

end Sys2Proof.Machine
end

