-- ==== Sys2Proof/Machine/BayCmd.lean ====
section
/-! DEFINITION. The bay commands and the lifecycle of a bay (R53 to R61, R76 to R86, R602, R603). -/

namespace Sys2Proof.Machine

/-! ### The share block (R55, R602) -/

def sharesAt (p : List Byte) : Shares :=
  { crews := [u8At p 1, u8At p 2]
    granary := [u16At p 4, u16At p 6]
    crib := [u16At p 8, u16At p 10]
    contexts := [u16At p 12, u16At p 14]
    silo := items 12 fun i => u16At p (16 + 2 * i)
    loft := items 4 fun i => u16At p (40 + 2 * i)
    stageMiB := [u16At p 48, u16At p 50]
    spillMiB := [u16At p 52, u16At p 54]
    hatchLog := if u8At p 56 = 0 then 22 else u8At p 56
    drainMs := if u32At p 60 = 0 then 5000 else u32At p 60 }

/-- Range checks of a share block at the start of a payload (R55, R58, R602). -/
def shareChecks (p : List Byte) : List (Nat × Bool) :=
  [(1, decide (1 ≤ u8At p 1 + u8At p 2)), (3, zeroAt p 3 1), (8, decide (4 ≤ u16At p 8)), (10, decide (4 ≤ u16At p 10)),
   (12, decide (2 ≤ u16At p 12)), (14, decide (2 ≤ u16At p 14)), (52, decide (u16At p 8 ≤ 4 * u16At p 52)),
   (54, decide (u16At p 10 ≤ 4 * u16At p 54)),
   (56, u8At p 56 == 0 || (decide (16 ≤ u8At p 56) && decide (u8At p 56 ≤ 24))), (57, zeroAt p 57 3),
   (60, u32At p 60 == 0 || (decide (100 ≤ u32At p 60) && decide (u32At p 60 ≤ 600000)))]

def sharesBytes (b : Nat) (sh : Shares) : List Byte :=
  leBytes 1 b ++ leBytes 1 (natAt sh.crews 0) ++ leBytes 1 (natAt sh.crews 1) ++ zeros 1 ++
    (sh.granary ++ sh.crib ++ sh.contexts ++ sh.silo ++ sh.loft ++ sh.stageMiB ++ sh.spillMiB).flatMap (leBytes 2) ++
    leBytes 1 sh.hatchLog ++ zeros 3 ++ leBytes 4 sh.drainMs

/-- Units for bays in a silo (R433): 132, or 87 on M212-288. -/
def State.siloUnits (s : State) : Nat := if s.ident.variant = 1 then 87 else 132

/-- The sum of an owned share over the other bays that exist, with `mine` for bay `b`. -/
def shareSum (s : State) (b : Nat) (f : Shares → Nat) (mine : Shares) : Nat :=
  f mine + sumBy (fun (y : Bay × Nat) => if y.2 = b || y.1.core.life.state = .absent then 0 else f y.1.core.shares) s.bays.zipIdx

/-- Whether every owned resource's shares fit its capacity (R55, R56, R433, R456). -/
def sharesFit (s : State) (b : Nat) (sh : Shares) : Bool :=
  let fits := fun (f : Shares → Nat) (cap : Nat) => decide (shareSum s b f sh ≤ cap)
  ((List.range 2).all fun d =>
    fits (fun x => natAt x.crews d) 16 && fits (fun x => natAt x.granary d) 64 && fits (fun x => natAt x.crib d) 128 &&
      fits (fun x => natAt x.contexts d) 64) &&
  ((List.range 12).all fun i => fits (fun x => natAt x.silo i) s.siloUnits) &&
  ((List.range 4).all fun i => fits (fun x => natAt x.loft i) (((s.memsys.lofts[i]?).map Loft.units).getD 0))

/-- The lowest `n` crews of a die that no bay owns. -/
def freeCrews (s : State) (b die n : Nat) : List Nat :=
  let taken := s.bays.zipIdx.flatMap fun y => if y.2 = b then [] else y.1.crews
  ((items 16 fun c => 16 * die + c).filter fun c => !taken.contains c).take n

/-- The lowest `n` groups of 16 contexts of a die that no bay owns. -/
def freeGroups (s : State) (b die n : Nat) : List Nat :=
  let taken := s.bays.zipIdx.flatMap fun y => if y.2 = b then [] else y.1.groups
  ((items 64 fun c => 64 * die + c).filter fun c => !taken.contains c).take n

/-- The loft units recorded in flash as assigned (R611): bay and port for each unit. -/
def loftRecords (b : Nat) (sh : Shares) : List (Nat × Nat) :=
  sh.loft.zipIdx.flatMap fun u => List.replicate u.1 (b, u.2)

/-- The lowest-numbered units of each silo that no other bay owns, past the two reserved ones (DESIGN CHOICE, log 189), as a bay's silo
extents take them. -/
def State.freeUnits (s : State) (b : Nat) (sh : Shares) : List Nat :=
  let taken := fun (k : Nat) => s.bays.zipIdx.flatMap fun y =>
    if y.2 = b then [] else ((y.1.space.siloExt.zip y.1.space.siloUnit).filter fun u => u.1 == k).map Prod.snd
  sh.silo.zipIdx.flatMap fun n =>
    let gone := taken n.2
    ((items s.siloUnits (2 + ·)).filter fun u => !gone.contains u).take n.1

/-- The space of a bay as it is carved: its units, with their retired pages (R443). -/
def State.carve (s : State) (b : Nat) (sh : Shares) (retention : Nat) : Space :=
  let sp := initialSpace sh retention
  let units := s.freeUnits b sh
  let place := fun (r : Nat × Nat × Nat) => ((sp.siloExt.zip units).findIdx? fun u => u.1 == r.1 && u.2 == r.2.2 / 65536).map fun x =>
    65536 * x + r.2.2 % 65536
  { sp with siloUnit := units, retired := s.flash.retired.filterMap place }

def State.recordLoft (s : State) (b : Nat) (sh : Shares) : State :=
  { s with flash.loftUnits := (s.flash.loftUnits.filter fun x => x.1 != b) ++ loftRecords b sh }

/-- Whether a silo that the bay would hold units in is under a margin run (R715). -/
def marginHolds (s : State) (sh : Shares) : Bool :=
  s.mgmt.margins.any fun m => m.state == 0 && m.kind == 0 && decide (0 < natAt sh.silo m.index)

/-! ### BAY_CREATE, BAY_SET_SHARES, BAY_SET_REGULATORS -/

def specBayCreate : CmdSpec :=
  { op := 0x0201, d := true, states := [.absent], bayField := .byte0, lens := exactly 424 }

/-- Whether a self-test that keeps bays from being created runs (R713): tests 1 to 6. -/
def selftestHolds (s : State) : Bool := s.mgmt.selftests.any fun t => t.state == 0 && decide (0 < bits t.mask 1 6)

/-- R77: owned shares, keys, regulators and areas; the bay enters FORMING. From the request of parking on it is answered
STATE (R690). -/
def doBayCreate (c : Ctx) (s : State) : Result :=
  let p := c.p
  let sh := sharesAt p
  let regs := regsAt p 136
  refuseIf (s.dev.parking != .none) .state 0 s <|
  c.fields s (shareChecks p ++ [(100, zeroAt p 100 4)] ++ regChecks s p 136) <|
  refuseIf (!s.flash.loftToZero.isEmpty || selftestHolds s || marginHolds s sh) .busy 0 s <|
  refuseIf (!sharesFit s c.bay sh || !areasFit sh 64 || !minsFit s c.bay regs) .noSpace 0 s <|
    let crews := freeCrews s c.bay 0 (natAt sh.crews 0) ++ freeCrews s c.bay 1 (natAt sh.crews 1)
    let core : BayCore :=
      { BayCore.absent with
        life := { BayCore.absent.life with state := .forming }
        shares := sh
        retentionMiB := 64
        keys := ⟨slice 64 32 p, u32At p 96, slice 104 32 p⟩
        regs := regs }
    let groups := freeGroups s c.bay 0 (natAt sh.contexts 0) ++ freeGroups s c.bay 1 (natAt sh.contexts 1)
    let y : Bay := { Bay.absent with core := core, crews := crews, groups := groups, space := s.carve c.bay sh 64 }
    okWith [] ((s.modBay c.bay fun _ => y).recordLoft c.bay sh)

def execBayCreate (r : Req) (s : State) : Out := runCommand specBayCreate doBayCreate r s

def specBaySetShares : CmdSpec :=
  { op := 0x0202, d := true, states := [.forming], bayField := .byte0, lens := exactly 64 }

/-- R77: other owned shares for a FORMING bay. -/
def doBaySetShares (c : Ctx) (s : State) : Result :=
  let sh := sharesAt c.p
  c.fields s (shareChecks c.p) <|
  refuseIf (marginHolds s sh) .busy 0 s <|
  refuseIf (!sharesFit s c.bay sh || !areasFit sh (s.bay c.bay).core.retentionMiB) .noSpace 0 s <|
    let crews := freeCrews s c.bay 0 (natAt sh.crews 0) ++ freeCrews s c.bay 1 (natAt sh.crews 1)
    let s := s.modBay c.bay fun y =>
      { y with core := { y.core with shares := sh }, crews := crews,
               groups := freeGroups s c.bay 0 (natAt sh.contexts 0) ++ freeGroups s c.bay 1 (natAt sh.contexts 1),
               space := s.carve c.bay sh y.core.retentionMiB }
    okWith [] (s.recordLoft c.bay sh)

def execBaySetShares (r : Req) (s : State) : Out := runCommand specBaySetShares doBaySetShares r s

def specBaySetRegulators : CmdSpec :=
  { op := 0x0203, d := true, states := [.forming, .opened], bayField := .byte0, lens := exactly 296 }

/-- R70: the change waits for the next window boundary. -/
def doBaySetRegulators (c : Ctx) (s : State) : Result :=
  let regs := regsAt c.p 8
  c.fields s ([(1, zeroAt c.p 1 7)] ++ regChecks s c.p 8) <|
  refuseIf (!minsFit s c.bay regs) .noSpace 0 s <|
    okWith [] (s.modBay c.bay fun y => { y with core := { y.core with regsNext := some regs } })

def execBaySetRegulators (r : Req) (s : State) : Out := runCommand specBaySetRegulators doBaySetRegulators r s

/-! ### BAY_OPEN, BAY_DRAIN, BAY_DESTROY -/

/-- Payload of a command that names a bay and nothing else. -/
def bayOnly (c : Ctx) (s : State) (k : Result) : Result := c.fields s [(1, zeroAt c.p 1 7)] k

def specBayOpen : CmdSpec := { op := 0x0204, d := true, states := [.forming], bayField := .byte0, lens := exactly 8 }

/-- A bay OPEN: its refresh of the hot set begins, whose first interval R370 does not date (DESIGN CHOICE, log 194), and the first OPEN
bay has Varlet's votes placed, which wake the quads (R264). -/
def State.openBay (s : State) (b : Nat) : State :=
  let first := !s.bays.any fun y => y.core.life.state == .opened
  let s := ((s.modLife b fun l => { l with state := .opened }).modBay b fun y =>
    { y with granary := { y.granary with refreshAt := some (s.dev.now + 1000000 * y.granary.refreshMs) } }).quadVotes
  if first then (s.wakeUp 34 0).wakeUp 38 0 else s

/-- R77: the bay's hatch, BAR2 window and sessions are enabled. -/
def doBayOpen (c : Ctx) (s : State) : Result :=
  refuseIf (s.dev.parking != .none) .state 0 s <| bayOnly c s <| okWith [] (s.openBay c.bay)

def execBayOpen (r : Req) (s : State) : Out := runCommand specBayOpen doBayOpen r s

def specBayDrain : CmdSpec :=
  { op := 0x0205, d := true, m := true, states := [.opened], bayField := .byte0, lens := exactly 8 }

/-- A bay stops its intake and starts its drain (R78, R79). -/
def State.startDrain (s : State) (b : Nat) : State :=
  (s.modLife b fun l => { l with state := .draining, drainStart := some s.dev.now, destroyWanted := false }).quadVotes

def doBayDrain (c : Ctx) (s : State) : Result := bayOnly c s <| okWith [] (s.startDrain c.bay)

def execBayDrain (r : Req) (s : State) : Out := runCommand specBayDrain doBayDrain r s

/-- The sheafs of a bay that satisfy `p` are dropped: their jobs end, their contexts and tile slots are freed, their reads complete
and are dropped, and nothing of them is placed (R79). -/
def State.dropSheafs (s : State) (b : Nat) (p : Sheaf → Bool) : State :=
  let gone := (s.dp.sheafs.filter fun x => x.bay == b && p x).map Sheaf.no
  let ofSheaf := fun (j : Job) => (j.role == 1 || j.role == 2) && gone.contains j.sheaf
  let busy := (List.range 32).filter fun k => ((s.dp.crews[k]?).bind Crew.job).any ofSheaf
  let reads := fun (r : Read) => (match r.purpose with
    | .row n _ _ | .update n _ | .side n _ _ | .fuse n _ _ | .pool n _ _ _ | .map n _ _ | .reload n _ _ =>
      if gone.contains n then { r with dropped := true } else r
    | _ => r)
  { s with
    dp.sheafs := s.dp.sheafs.filter fun x => !gone.contains x.no
    dp.crews := s.dp.crews.zipIdx.map fun c =>
      { c.1 with queue := c.1.queue.filter fun n => !gone.contains n, job := if busy.contains c.2 then none else c.1.job }
    dp.walks := s.dp.walks.filter fun w => !busy.contains w.crew
    dp.contexts := s.dp.contexts.filter fun x => !(x.crew.isSome && x.bay == b && gone.contains x.sheaf)
    dp.reads := s.dp.reads.map reads
    dp.threshers := s.dp.threshers.map fun t => { t with bags := t.bags.filter fun r => !(workSheaf r.work).any gone.contains }
    dp.scans := s.dp.scans.filter fun y => !gone.contains y.sheaf }

/-- Everything a bay has under way is dropped as it enters ZEROING. -/
def State.dropBay (s : State) (b : Nat) : State :=
  let s := s.dropSheafs b fun _ => true
  let crews := (s.bay b).crews
  let units := (s.dp.lookups.filter fun x => x.bay == b).map Lookup.id
  let mats := (s.dp.matrices.filter fun m => m.bay == b).map Matrix.id
  let clean := fun (f : Flail) =>
    let mine := fun (o : FlailOp) => (match o with
      | .update _ _ c _ _ _ _ _ _ => c == b
      | .move _ c _ _ => c == b)
    Flail.fill { f with
      queue := f.queue.filter fun o => !mine o
      stalled := f.stalled.filter fun o => !mine o
      entries := f.entries.filter fun e => e.bay != b }
  { s with
    dp.crews := s.dp.crews.zipIdx.map fun c => if crews.contains c.2 then { c.1 with queue := [], job := none, runs := [] } else c.1
    dp.walks := s.dp.walks.filter fun w => !crews.contains w.crew
    dp.contexts := s.dp.contexts.filter fun x => x.bay != b
    dp.reads := s.dp.reads.map fun r => if r.bay = b then { r with dropped := true } else r
    dp.writes := s.dp.writes.filter fun w => w.bay != b
    dp.lookups := s.dp.lookups.filter fun x => x.bay != b
    dp.messages := s.dp.messages.filter fun m => m.bay != some b
    dp.matrices := s.dp.matrices.filter fun m => m.bay != b
    dp.threshers := s.dp.threshers.map fun t =>
      { t with bypass := t.bypass.filter fun i => !units.contains i, matrix := t.matrix.filter fun i => !mats.contains i,
               bags := t.bags.filter fun r => match r.work with
                 | .matrix id _ _ => !mats.contains id
                 | _ => true }
    dp.walkCache := s.dp.walkCache.filter fun k => k.2.1 != b
    dp.flails := (s.dp.flails.map clean).filter fun f => !(f.queue.isEmpty && f.entries.isEmpty)
    dp.waiting := s.dp.waiting.filter fun w => w.bay != b
    net.parked := s.net.parked.filter fun r => (headerOf r.msg).bay != b
    fab.channels := s.fab.channels.map fun c => if c.bay = b then { c with sent := [] } else c
    fab.owners := s.fab.owners.map fun c => if c.bay = b then { c with msgs := [] } else c
    fab.prepared := s.fab.prepared.filter fun p => p.bay != b
    fab.spans := s.fab.spans.filter fun x => x.bay != b
    tth.regions := s.tth.regions.filter fun r => r.bay != b }

/-- A bay enters ZEROING (R80, R83, R86): every session of it ends, the entry is recorded in flash, and every owned
resource is to be written with zeros. -/
def State.enterZeroing (s : State) (b : Nat) : State :=
  let s := (s.baySessions (some b)).foldl (fun s x => s.endSession x.handle) s
  let sh := (s.bay b).core.shares
  let s := s.modLife b fun l =>
    { l with state := .zeroing, zeroStart := s.dev.now, drainStart := none, destroyWanted := false,
             zeroSilo := sh.silo.map (· * 2 ^ 22), zeroLoft := sh.loft.map (· * 2 ^ 22) }
  let s : State := { s with flash.zeroing := b :: s.flash.zeroing.filter (· != b) }
  s.dropBay b

def specBayDestroy : CmdSpec :=
  { op := 0x0206, d := true, states := [.forming, .draining], bayField := .byte0, lens := exactly 8 }

/-- R80: from FORMING zeroisation starts at once; from DRAINING once the drain has ended. -/
def doBayDestroy (c : Ctx) (s : State) : Result :=
  bayOnly c s <|
    let l := (s.bay c.bay).core.life
    if l.state = .draining && l.drainStart.isSome then okWith [] (s.modLife c.bay fun l => { l with destroyWanted := true })
    else okWith [] (s.enterZeroing c.bay)

def execBayDestroy (r : Req) (s : State) : Out := runCommand specBayDestroy doBayDestroy r s

/-! ### BAY_REKEY, BAY_QUERY -/

def specBayRekey : CmdSpec :=
  { op := 0x0207, d := true, states := [.forming, .opened], bayField := .byte0, lens := exactly 80 }

/-- R61: the keys the mask selects are replaced; a key outside it must be zero. -/
def doBayRekey (c : Ctx) (s : State) : Result :=
  let m := u8At c.p 1
  c.fields s [(1, decide (m < 8)), (2, zeroAt c.p 2 6), (8, bit m 0 || zeroAt c.p 8 32), (40, bit m 1 || zeroAt c.p 40 4),
    (44, zeroAt c.p 44 4), (48, bit m 2 || zeroAt c.p 48 32)] <|
    okWith [] <| s.modBay c.bay fun y =>
      let k := y.core.keys
      { y with core := { y.core with keys :=
        { admission := if bit m 0 then slice 8 32 c.p else k.admission
          hatch := if bit m 1 then u32At c.p 40 else k.hatch
          hand := if bit m 2 then slice 48 32 c.p else k.hand } } }

def execBayRekey (r : Req) (s : State) : Out := runCommand specBayRekey doBayRekey r s

def specBayQuery : CmdSpec :=
  { op := 0x0208, b := true, d := true, m := true, bayField := .byte0, lens := exactly 8 }

def bayCode : BayState → Nat
  | .absent => 0 | .forming => 1 | .opened => 2 | .draining => 3 | .zeroing => 4

def doBayQuery (c : Ctx) (s : State) : Result :=
  bayOnly c s <|
    let y := s.bay c.bay
    let k := y.core.counters
    okWith (leBytes 1 (bayCode y.core.life.state) ++ zeros 7 ++ sharesBytes c.bay y.core.shares ++ regsBytes y.core.regs ++
      leBytes 4 (s.baySessions (some c.bay)).length ++ leBytes 4 (s.bayWork c.bay).length ++
      [k.rejected, k.malformed, k.placement, k.handFaults, k.doorbellFull, k.badDoorbells, k.late].flatMap (leBytes 4)) s

def execBayQuery (r : Req) (s : State) : Out := runCommand specBayQuery doBayQuery r s

end Sys2Proof.Machine
end

