-- ==== Sys2Proof/Machine/Bus.lean ====
section
/-! DEFINITION. The management two-wire slave (R640 to R651), the lantern's registers (R635 to R639), and writes to registers
without behaviour of their own (R15). -/

namespace Sys2Proof.Machine

/-! ### The lantern's registers (R635 to R639) -/

/-- The value of the lantern register at an offset, zero where there is none; nothing is cleared by this read (R649). -/
def State.lanReg (s : State) (off : Nat) : Nat :=
  let i := off % 0x200 / 4
  let dom := fun (base : Nat) (f : Nat → Domain → Nat) =>
    if base ≤ off && (off - base) / 4 < 75 then f ((off - base) / 4) (s.domain ((off - base) / 4)) else 0
  if off % 4 ≠ 0 then 0
  else if off < 0x100 then match i with
    | 0 => s.lan.resetCause
    | 1 => s.lan.wakeCause
    | 2 => flag s.lan.held + 2 * flag s.lan.failsafe + 4 * (s.lan.resets % 4)
    | 3 => s.lan.timer % 2 ^ 32
    | 4 => s.lan.timer / 2 ^ 32 % 2 ^ 16
    | _ => 0
  else if off < 0x300 then dom 0x100 fun k d =>
    domCode d.state + 8 * flag d.wakePending + 16 * flag (s.domainBusy k true) + 256 * (d.aborted % 256)
  else if off < 0x500 then dom 0x300 fun _ d => d.votes
  else dom 0x500 fun _ d => d.fallow + 256 * d.hysteresis

/-- A write of a lantern register by Varlet (R15, R631, R636 to R639). -/
def State.lanWrite (s : State) (off v : Nat) : State :=
  if off = 0x004 then { s with lan.wakeCause := s.lan.wakeCause &&& (2 ^ 32 - 1 - v % 2 ^ 32) }
  else if off = 0x00C then { s with lan.timer := s.lan.timer / 2 ^ 32 * 2 ^ 32 + v % 2 ^ 32 }
  else if off = 0x010 then { s with lan.timer := s.lan.timer % 2 ^ 32 + v % 2 ^ 16 * 2 ^ 32 }
  else if off = 0x014 then { s with lan.wdogAt := s.dev.now }
  else if 0x500 ≤ off && off % 4 = 0 && off < 0x500 + 4 * 75 then
    s.modDomain ((off - 0x500) / 4) fun d =>
      { d with fallow := if v % 4 = 0 then d.fallow else v % 4, hysteresis := v / 256 % 2 ^ 24 }
  else s

/-! ### The registers of MTW (R646 to R649) -/

/-- Whether the stewards take requests over MTW: not during boot, while parked, or in a steward reset; recovery mode does
(R642, R706). -/
def State.mtwReady (s : State) : Bool := s.serving .mtw

/-- The alert condition of R650. -/
def State.mtwAlert (s : State) : Bool := s.alertCondition s.mgmt.mtw.cursor

/-- The level of the alert output (R650): released by an answer until a further record meets the condition. -/
def State.alertOut (s : State) : Bool :=
  s.mgmt.mtw.alertEn && s.alertCondition (max s.mgmt.mtw.cursor (s.mgmt.mtw.releasedAt.getD 0))

def State.isFatal (s : State) : Bool := s.dev.fatal || s.dev.phase == .recovery

/-- MTW_STATUS (R647). -/
def State.mtwStatus (s : State) : List Byte :=
  leBytes 1 (flag s.mtwReady + 2 * flag s.isFatal + 4 * flag s.mgmt.mtw.busy + 8 * flag s.mgmt.mtw.response.isSome +
      16 * flag s.lan.held + 32 * flag s.lan.failsafe + 64 * flag s.mtwAlert + 128 * flag (!s.domainA0 0)) ++
    leBytes 1 s.lan.resetCause ++ leBytes 2 (unsignedOf 16 (s.dev.tj.getD 0 0)) ++ leBytes 2 (unsignedOf 16 (s.dev.tj.getD 1 0)) ++
    leBytes 6 s.dev.now ++ leBytes 4 s.lan.nextSeq

/-- The bytes of a register, none for a register byte that names none (R646). MTW_REQ is write-only. -/
def State.mtwReg (s : State) (r : Nat) : Option (List Byte) :=
  match r with
  | 0x00 => some s.mtwStatus
  | 0x01 => some (leBytes 2 0xC212 ++ leBytes 1 s.ident.stepping ++ leBytes 1 1)
  | 0x02 => some (leBytes 1 (flag s.mgmt.mtw.pec + 2 * flag s.mgmt.mtw.alertEn + 4 * s.mgmt.mtw.alertLevel))
  | 0x03 => some (leBytes 2 s.mgmt.mtw.lanAddr)
  | 0x04 => some (leBytes 4 (s.lanReg s.mgmt.mtw.lanAddr))
  | 0x20 => some []
  | 0x21 =>
    let m := if s.mgmt.mtw.busy then [] else s.mgmt.mtw.response.getD []
    some (leBytes 2 m.length ++ m)
  | _ => none

/-! ### Transactions (R640 to R645) -/

/-- The device's 7-bit address (R640). -/
def State.mtwAddr (s : State) : Nat := 0x58 + s.lan.addrSel % 4

/-- One step of the CRC-8 with polynomial x^8 + x^2 + x + 1 (R644). -/
def crcBit (c : Nat) : Nat := if 128 ≤ c then ((2 * c) % 256) ^^^ 7 else 2 * c

def crcByte (c b : Nat) : Nat := crcBit (crcBit (crcBit (crcBit (crcBit (crcBit (crcBit (crcBit (c ^^^ b))))))))

/-- The packet error code over bytes. -/
def crc8 (l : List Nat) : Nat := l.foldl crcByte 0

def nats (l : List Byte) : List Nat := l.map BitVec.toNat

def State.ackMtw (s : State) (ok : Bool) : State := s.emit (.mtwAck ok)

/-- A write that is not acknowledged (R660). -/
def State.nackWrite (s : State) : State := (s.count 0x700 1 1).ackMtw false

/-- Bytes that a master reads from the pointer's register, with the packet error code directly after it (R643, R644);
`before` are the bytes of the transaction so far. -/
def State.mtwReadBytes (s : State) (before : List Nat) (n : Nat) : State :=
  let data := (s.mtwReg s.mgmt.mtw.pointer).getD []
  let all := before ++ [2 * s.mtwAddr + 1] ++ nats data
  let data := if s.mgmt.mtw.pec then data ++ leBytes 1 (crc8 all) else data
  s.emit (.mtwRead (fit n data))

/-- MTW_ADDRESS (R640, R642): an address byte. A write is acknowledged unless a request executes; a read always is, and the
master then reads `n` bytes of the pointer's register. Another address is not acknowledged. -/
def execMtwAddress (addr : Nat) (read : Bool) (n : Nat) (s : State) : Out :=
  .next <|
    if s.dev.phase = .off then s
    else if addr ≠ s.mtwAddr then s.ackMtw false
    else
      let s := s.count 0x700 0 1
      if read then (s.ackMtw true).mtwReadBytes [] n
      else if s.mgmt.mtw.busy then s.nackWrite else s.ackMtw true

/-- The start of a write transaction to a register: whether its address and register bytes are acknowledged, and the state
after (R642, R643). A refusal only because the D0 stewards are in fallow wakes them (R631). -/
def State.mtwBegin (s : State) (reg : Nat) : Bool × State :=
  let s := s.count 0x700 0 1
  if s.mgmt.mtw.busy || (s.mtwReg reg).isNone then (false, s.nackWrite)
  else if reg = 0x20 && !s.mtwReady then (false, s.nackWrite)
  else if reg = 0x20 && !s.domainA0 0 then (false, (s.nackWrite).wakeDomain 0 5)
  else (true, (({ s with mgmt.mtw.pointer := reg }).ackMtw true))

/-- The data of a write without its packet error code, none where that is wrong: then it is not acknowledged, counted and
reported (R644). -/
def State.mtwData (s : State) (reg : Nat) (data : List Byte) : Option (List Byte) × State :=
  if !s.mgmt.mtw.pec then (some data, s)
  else
    let body := data.dropLast
    if leBytes 1 (crc8 ([2 * s.mtwAddr, reg] ++ nats body)) = data.drop body.length then (some body, s)
    else
      let fails := (s.dev.now :: s.mgmt.mtw.pecFails).filter fun t => decide (s.dev.now < t + 1000000000)
      let s := (({ s with mgmt.mtw.pecFails := fails }).count 0x700 2 1).ackMtw false
      (none, s.raise 0x0A05 1 none none (leBytes 4 fails.length))

/-- MTW_QUICK_WRITE (R643): acknowledged, unless a request executes, and ignored. -/
def execMtwQuickWrite (s : State) : Out :=
  .next <|
    if s.dev.phase = .off then s
    else if s.mgmt.mtw.busy then (s.count 0x700 0 1).nackWrite else (s.count 0x700 0 1).ackMtw true

/-- MTW_SET_POINTER (R643): a write of the register byte alone sets the pointer; with a repeated start the register is read,
`n` bytes of it. -/
def execMtwSetPointer (reg : Nat) (readLen : Option Nat) (s : State) : Out :=
  .next <|
    if s.dev.phase = .off then s
    else match s.mtwBegin reg with
      | (false, s) => s
      | (true, s) => match readLen with
        | none => s
        | some n => s.mtwReadBytes [2 * s.mtwAddr, reg] n

/-- A write of an MTW register served by the lantern (R643, R648, R649). -/
def State.mtwWrite (s : State) (reg : Nat) (data : List Byte) : State :=
  match s.mtwBegin reg with
  | (false, s) => s
  | (true, s) => match s.mtwData reg data with
    | (none, s) => s
    | (some d, s) =>
      let v := u8At d 0
      if reg = 0x02 && !d.isEmpty then
        { s with mgmt.mtw.pec := bit v 0, mgmt.mtw.alertEn := bit v 1, mgmt.mtw.alertLevel := bits v 2 2 }
      else if reg = 0x03 && !d.isEmpty then
        { s with mgmt.mtw.lanAddr := (leNat (d.take 2) + (if d.length = 1 then s.mgmt.mtw.lanAddr / 256 * 256 else 0)) % 0x1000 }
      else s

/-- SMBUS_TIMEOUT (R645): the transaction in progress is discarded, and the timeout counted. -/
def execSmbusTimeout (s : State) : Out := .next (if s.dev.phase = .off then s else s.count 0x700 4 1)

/-- ALERT_RESPONSE (R650): while the device drives its alert output it answers with its own address and releases it. -/
def execAlertResponse (s : State) : Out :=
  .next <|
    if s.dev.phase = .off || !s.alertOut then s
    else ({ s with mgmt.mtw.releasedAt := some s.lan.nextSeq }).emit (.mtwRead (leBytes 1 (2 * s.mtwAddr)))

/-- MTW_RESPONSE (R651): Varlet places the response in MTW_RSP. -/
def execMtwResponse (s : State) : Out :=
  .next <| match s.mgmt.mtw.ready with
  | none => s
  | some m => { s with mgmt.mtw.response := some m, mgmt.mtw.ready := none, mgmt.mtw.busy := false }

/-- REGISTER_WRITE (R15, R550, R637, R639, R648, R649): a write that sets RW fields or is ignored. -/
def execRegisterWrite (block : RegBlock) (off : Nat) (data : List Byte) (s : State) : Out :=
  .next <|
    if s.dev.phase = .off then s
    else match block with
    | .tth => s.tthWrite off data
    | .mtw => if off = 0x20 then s else s.mtwWrite off data
    | .lan => s.lanWrite off (leNat (data.take 4))

end Sys2Proof.Machine
end

