-- ==== Sys2Proof/Machine/Console.lean ====
section
/-! DEFINITION. The local two-wire master (R652 to R654), the UART and the console (R655 to R658), the sensors, fans and power
ceiling (R659, R675, R695, R696), and the end of a suppression window (R665). -/

namespace Sys2Proof.Machine

/-! ### The local two-wire master (R652 to R654) -/

/-- The transfer under way ends in failure (R653, R654): one that sets a regulator is started again. -/
def State.ltwFail (s : State) (target : Nat) (data : List Byte) (kind : Nat) : State :=
  ({ s with mgmt.ltw := { s.mgmt.ltw with
      transfer := if kind = 1 then some (target, data, kind) else none, retries := 0, nacks := 0, notBefore := s.dev.now + 20000 } }).count 0x700 8 1

/-- LTW_NACK, at most once per target per minute (R653). -/
def State.ltwNack (s : State) (target : Nat) : State :=
  if s.mgmt.ltw.lastNack.any fun t => t.1 == target && decide (s.dev.now < t.2 + 60000000000) then s
  else ({ s with mgmt.ltw.lastNack := putKey Prod.fst (target, s.dev.now) s.mgmt.ltw.lastNack }).raise 0x0A02 1 none none (leBytes 1 target)

/-- LTW_TRANSFER (R652, R653): one transaction of a transfer, which goes on with the one under way if there is one. The result:
0 done, 1 arbitration lost in a bit, 2 the target does not acknowledge its address, 3 the deadline or a stretch has passed. -/
def execLtwTransfer (target : Nat) (data : List Byte) (kind result : Nat) (s : State) : Out :=
  .next <|
    if !s.varletRuns || s.mgmt.ltw.stuckScl.isSome || s.dev.now < s.mgmt.ltw.notBefore then s
    else
      let (target, data, kind) := s.mgmt.ltw.transfer.getD (target, data, kind)
      let fresh := s.mgmt.ltw.transfer.isNone
      let s := if fresh then s.count 0x700 5 1 else s
      let s : State := { s with mgmt.ltw.transfer := some (target, data, kind) }
      match result with
      | 0 =>
        ({ s with mgmt.ltw := { s.mgmt.ltw with transfer := none, retries := 0, nacks := 0, notBefore := s.dev.now + 20000 } }).emit
          (.ltw target data)
      | 1 => s.count 0x700 6 1
      | 2 =>
        if s.mgmt.ltw.nacks = 0 then { s with mgmt.ltw.nacks := 1, mgmt.ltw.notBefore := s.dev.now + 1000000 }
        else (s.ltwNack target).ltwFail target data kind
      | _ => (s.raise 0x0A03 2 none none (leBytes 1 target)).ltwFail target data kind

/-- LTW_ARB_STOP (R653): arbitration lost at a stop or a repeated start of the transfer under way: at most 3 retries, each
after 50 µs of a free bus. -/
def execLtwArbStop (s : State) : Out :=
  .next <| match s.mgmt.ltw.transfer with
  | none => s
  | some (target, data, kind) =>
    if !s.varletRuns then s
    else if s.mgmt.ltw.retries < 3 then
      ({ s with mgmt.ltw.retries := s.mgmt.ltw.retries + 1, mgmt.ltw.notBefore := s.dev.now + 50000 }).count 0x700 7 1
    else (s.raise 0x0A01 2 none none (leBytes 1 target ++ leBytes 1 (1 + s.mgmt.ltw.retries))).ltwFail target data kind

/-- LTW_BUS_STUCK (R653): SDA (line 1) or SCL (line 0) has been low for 35 ms, or a check, once per second, finds SCL
released. -/
def execLtwBusStuck (line : Nat) (held : Bool) (s : State) : Out :=
  if 1 < line then .fault .noSuchUnit
  else .next <|
    if !s.varletRuns then s
    else if line = 1 then (if held then (s.emit .ltwRecover).raise 0x0A04 2 none none (leBytes 1 1) else s)
    else match s.mgmt.ltw.stuckScl, held with
      | none, true => ({ s with mgmt.ltw.stuckScl := some s.dev.now }).raise 0x0A04 2 none none (leBytes 1 0)
      | some t, h =>
        if s.dev.now < t + 1000000000 then s else { s with mgmt.ltw.stuckScl := if h then some s.dev.now else none }
      | none, false => s

/-! ### The UART (R655 to R658) -/

/-- The rates of R655. -/
def baudRates : List Nat := [115200, 230400, 460800, 921600, 1000000, 1500000, 2000000, 3000000]

def lineEnd (b : Byte) : Bool := b == 13 || b == 10

/-- A number written in decimal, none for other text. -/
def parseDec (l : List Byte) : Option Nat :=
  if l.isEmpty || 20 < l.length then none
  else l.foldl (fun n b => n.bind fun n => if 48 ≤ b.toNat && b.toNat ≤ 57 then some (10 * n + (b.toNat - 48)) else none) (some 0)

/-- A command of the console (R658). -/
inductive ConsoleCmd where
  | status
  | events (n : Nat)
  | level (l : Nat)
  | baud (i : Nat)
deriving DecidableEq, Repr

/-- The command that a line is, none for any other line. -/
def consoleCmd (l : List Byte) : Option ConsoleCmd :=
  if l = ascii "status" then some .status
  else if l.take 7 = ascii "events " then (parseDec (l.drop 7)).map .events
  else if l = ascii "level info" then some (.level 0)
  else if l = ascii "level warn" then some (.level 1)
  else if l = ascii "level error" then some (.level 2)
  else if l = ascii "level fatal" then some (.level 3)
  else if l.take 5 = ascii "baud " then
    (parseDec (l.drop 5)).bind fun r => (baudRates.zipIdx.find? fun x => x.1 == r).map fun x => .baud x.2
  else none

/-- The line received in full, without its end. -/
def State.uartLine (s : State) : Option (List Byte) :=
  match s.mgmt.uart.line.getLast? with
  | some b => if lineEnd b then some s.mgmt.uart.line.dropLast else none
  | none => none

/-- The command that waits on the console. -/
def State.consoleWaits (s : State) : Option ConsoleCmd := s.uartLine.bind consoleCmd

/-- Varlet takes a received byte into its line; a line that is no command is answered at once, and a command waits for its
row. Characters past the 128th only make the line one that is no command. -/
def State.takeUart (s : State) (b : Byte) : State :=
  let l := s.mgmt.uart.line
  let s : State := { s with mgmt.uart.line := if l.length < 129 || lineEnd b then l ++ [b] else l }
  match s.uartLine with
  | some t => if (consoleCmd t).isNone then ({ s with mgmt.uart.line := [] }).console (ascii "?" ++ crlf) else s
  | none => s

/-- Varlet empties the receive FIFO while no command waits. -/
def State.drainUart (s : State) : State :=
  s.mgmt.uart.rx.foldl (fun s _ => match s.mgmt.uart.rx with
    | b :: rest => if !s.varletRuns || s.uartLine.isSome then s else State.takeUart { s with mgmt.uart.rx := rest } b
    | [] => s) s

/-- UART_BYTE (R656, R657): a frame received; with a low stop bit it is a framing error, and with a full FIFO an overrun. -/
def execUartByte (b : Byte) (stop : Bool) (s : State) : Out :=
  .next <|
    if s.dev.phase = .off then s
    else if !stop then s.count 0x700 9 1
    else
      let s := s.drainUart
      if 64 ≤ s.mgmt.uart.rx.length then s.count 0x700 10 1
      else State.drainUart { s with mgmt.uart.rx := s.mgmt.uart.rx ++ [b] }

/-- UART_BREAK (R656). -/
def execUartBreak (s : State) : Out := .next (if s.dev.phase = .off then s else s.count 0x700 11 1)

/-- UART_TRANSMIT (R658): a byte of the output FIFO has been sent; a pending rate takes effect after the reply. -/
def execUartTransmit (s : State) : Out :=
  .next <| match s.mgmt.uart.tx with
  | [] => s
  | b :: rest =>
    let s := ({ s with mgmt.uart.tx := rest }).emit (.uart [b])
    match s.mgmt.uart.pendingBaud with
    | some (i, n) =>
      if n ≤ 1 then { s with mgmt.uart.baud := i, mgmt.uart.pendingBaud := none }
      else { s with mgmt.uart.pendingBaud := some (i, n - 1) }
    | none => s

/-- The command in hand is done: the next bytes are taken. -/
def State.nextLine (s : State) : State := State.drainUart { s with mgmt.uart.line := [] }

/-- A console command's row: it acts on the line that waits, while Varlet runs. -/
def onConsole (s : State) (f : ConsoleCmd → Option State) : Out :=
  .next <|
    let s := s.drainUart
    if !s.varletRuns then s
    else match (s.consoleWaits).bind f with
      | some s' => s'.nextLine
      | none => s

/-- CONSOLE_STATUS (R658): the fields of MTW_STATUS, as the register's 16 bytes in hexadecimal. -/
def execConsoleStatus (s : State) : Out :=
  onConsole s fun c => match c with
    | .status => some (s.drainUart.console (hexBytes s.drainUart.mtwStatus ++ crlf))
    | _ => none

/-- The last `n` records of a list. -/
def lastN {α : Type} (n : Nat) (l : List α) : List α := l.drop (l.length - n)

/-- CONSOLE_EVENTS (R658): the last n records, up to 64, at or above the console level. -/
def execConsoleEvents (s : State) : Out :=
  onConsole s fun c => match c with
    | .events n =>
      let s := s.drainUart
      some ((lastN (min n 64) (s.mgmt.log.filter fun r => decide (s.mgmt.uart.level ≤ r.ev.severity))).foldl
        (fun s r => State.console s (consoleRecord r)) s)
    | _ => none

/-- CONSOLE_LEVEL (R658). -/
def execConsoleLevel (s : State) : Out :=
  onConsole s fun c => match c with
    | .level l => some { s.drainUart with mgmt.uart.level := l }
    | _ => none

/-- CONSOLE_BAUD (R658): the rate takes effect after the reply `ok` has been sent. -/
def execConsoleBaud (s : State) : Out :=
  onConsole s fun c => match c with
    | .baud i =>
      let s := s.drainUart.console (ascii "ok" ++ crlf)
      let n := s.mgmt.uart.tx.length
      some (if n = 0 then { s with mgmt.uart.baud := i } else { s with mgmt.uart.pendingBaud := some (i, n) })
    | _ => none

/-! ### Fans (R695) -/

/-- Percent of its limit that a temperature uses, in thousandths of a degree. -/
def marginUsed (milli : Int) (limit : Nat) : Nat := milli.toNat / (10 * limit)

def State.sensor (s : State) (n : Nat) : Sensor := s.mgmt.sensors.getD n ⟨3, 0⟩

/-- The duty that the temperatures ask for: in proportion to the largest margin used, between 30 and 100 %. -/
def State.fanDuty (s : State) : Nat :=
  let stack := s.memsys.silos.foldl (fun m (x : Silo) => max m x.temp) 0
  let used := max (max (marginUsed (s.hotTj * 1000 / 16) 95) (marginUsed (stack * 1000) 90)) (marginUsed (s.sensor 15).value 65)
  let critical := (s.sensor 14).status == 2 || (s.sensor 15).status == 2
  if critical then 100 else min 100 (max 30 used)

/-- Varlet drives the fans: an absent one at 0 %, and every other present one at 100 % while one is faulty. -/
def State.driveFans (s : State) : State :=
  let duty := s.fanDuty
  { s with board.fans := s.board.fans.zipIdx.map fun f =>
      { f.1 with duty := if !f.1.present then 0
                         else if (s.board.fans.zipIdx.any fun g => g.1.faulty && g.2 != f.2) then 100 else duty } }

/-- A reading of a fan: none while FAN_PRES_N is high. -/
def Fan.take (f : Fan) (now : Nat) (rpm : Option Nat) : Fan :=
  match rpm with
  | none => { f with present := false, rpm := 0, slowSince := none, fastSince := none, faulty := false }
  | some n =>
    let slow := if n < 1000 && 30 ≤ f.duty then some (f.slowSince.getD now) else none
    let fast := if 1000 < n then some (f.fastSince.getD now) else none
    { f with present := true, rpm := n, slowSince := slow, fastSince := fast,
             faulty := f.faulty && !(fast.any fun t => decide (t + 10000000000 ≤ now)) }

/-- FAN_FAULT (R695): a present fan has reported below 1,000 rpm for 3 s. -/
def execFanFault (fan : Nat) (s : State) : Out :=
  if 3 < fan then .fault .noSuchUnit
  else match s.board.fans[fan]? with
  | none => .next s
  | some f => .next <|
    if !s.varletRuns || !f.present || f.faulty || !(f.slowSince.any fun t => decide (t + 3000000000 ≤ s.dev.now)) then s
    else
      let s : State := { s with board.fans := s.board.fans.modify fan fun f => { f with faulty := true } }
      (s.raise 0x010B 1 none none (leBytes 1 fan ++ zeros 3 ++ leBytes 4 f.rpm)).driveFans

/-! ### Sensors (R659, R696) -/

/-- A voltage's setpoint in mV (R671, R696): a regulator's stored default, or what CCLK_SET has made of it; the specification
states none. -/
def State.setpoint (s : State) (n : Nat) : Nat := Config.unstated 6 (4 * n + s.dev.cclk)

/-- A status by two rising thresholds. -/
def above (v warn crit : Int) : Nat := if crit ≤ v then 2 else if warn ≤ v then 1 else 0

/-- A status outside bounds on either side. -/
def outside (v wl wh cl ch : Int) : Nat := if v < cl || ch < v then 2 else if v < wl || wh < v then 1 else 0

/-- The status of a reading in milli-units (R659, R696). -/
def State.sensorStatus (s : State) (n : Nat) (v : Int) : Nat :=
  let near := fun (mv : Int) => outside (100 * v) (95 * mv) (105 * mv) (92 * mv) (108 * mv)
  if n < 2 then above v 100000 105000
  else if n < 14 then above v 95000 105000
  else match n with
    | 14 => above v 40000 45000
    | 15 => above v 70000 80000
    | 16 => outside v 47000 57000 46000 58000
    | 17 => above v 27000 29000
    | 18 => above v 1200000 1260000
    | 19 => above v 950000 1000000
    | 20 | 21 | 24 | 25 => near (s.setpoint n)
    | 22 | 23 => above v 520000 560000
    | 26 => above v 110000 125000
    | _ => 0

/-- The value of a sensor that the device reads itself: the temperatures of dies and stacks. -/
def State.ownReading (s : State) (n : Nat) (given : Option Int) : Option Int :=
  if n < 2 then some (s.dev.tj.getD n 0 * 1000 / 16)
  else if n < 14 then (s.memsys.silos[n - 2]?).map fun x => x.temp * 1000
  else given

/-- A sensor's new status and value; a change of status is reported (R659). -/
def State.setSensor (s : State) (n : Nat) (st : Nat) (v : Int) : State :=
  let old := s.sensor n
  let s : State := { s with mgmt.sensors := s.mgmt.sensors.set n ⟨st, v⟩ }
  if old.status = st then s
  else s.raise 0x010A (natAt [0, 1, 2, 1] st) none none (leBytes 2 n ++ leBytes 1 st ++ zeros 1 ++ leBytes 4 (unsignedOf 32 v))

/-- Package power (R675, R696): how long it has been below 900 W; at critical the ceiling is set at once to 1.0 GHz. -/
def State.packagePower (s : State) (mw : Int) : State :=
  let low := if mw < 900000 then some (s.dev.lowPowerSince.getD s.dev.now) else none
  let s : State := { s with dev.lowPowerSince := low }
  if 1000000 ≤ mw then ({ s with dev.powerCeil := 0 }).followCeiling else s

/-- SENSOR_POLL (R659, R654, R695): a sensor is read, in milli-units; a failed reading makes it unavailable. The local bus is
read only while Varlet runs (R652). -/
def execSensorPoll (n : Nat) (reading : Option Int) (s : State) : Out :=
  if 30 < n then .fault .noSuchUnit
  else .next <|
    let ltw := 14 ≤ n && n < 27
    if s.dev.phase = .off || (ltw && !s.varletRuns) then s
    else
      let r := s.ownReading n reading
      let s : State := if 27 ≤ n then
          { s with board.fans := s.board.fans.modify (n - 27) fun f => f.take s.dev.now (r.map fun v => v.toNat / 1000) }
        else s
      let s := match r with
        | none => s.setSensor n 3 0
        | some v => s.setSensor n (s.sensorStatus n v) v
      let s := match n, r with
        | 19, some v => s.packagePower v
        | _, _ => s
      if s.varletRuns then s.driveFans else s

/-! ### The power ceiling (R675) -/

/-- PACKAGE_POWER_LIMIT (R675): package power reads above 950 W: the ceiling falls by one point. -/
def execPackagePowerLimit (s : State) : Out :=
  .next <|
    let x := s.sensor 19
    if !s.varletRuns || x.status = 3 || x.value ≤ 950000 then s
    else
      let s : State := { s with dev.powerCeil := min s.dev.powerCeil s.dev.cclkSet - 1 }
      (s.raise 0x010E 1 none none (leBytes 4 x.value.toNat)).followCeiling

/-- POWER_CEILING_RAISE (R675): package power has read below 900 W for 1 s. -/
def execPowerCeilingRaise (s : State) : Out :=
  .next <|
    if s.varletRuns && decide (s.dev.powerCeil < s.dev.cclkSet) && s.dev.lowPowerSince.any fun t => decide (t + 1000000000 ≤ s.dev.now) then
      ({ s with dev.powerCeil := s.dev.powerCeil + 1, dev.lowPowerSince := some s.dev.now }).followCeiling
    else s

/-! ### The event log (R665) -/

/-- EVENT_SUPPRESSED (R665): a window closes one second after it opened. -/
def execEventSuppressed (code : Nat) (bay die : Option Nat) (s : State) : Out :=
  .next <|
    if s.dev.steward ≠ .running then s
    else match s.mgmt.windows.find? fun w => w.code == code && w.bay == bay && w.die == die with
      | some w => if w.opened + 1000000000 ≤ s.dev.now then s.closeWindow w else s
      | none => s

end Sys2Proof.Machine
end

