-- ==== Sys2Proof/Machine/Telemetry.lean ====
section
/-! DEFINITION. The commands that read the event log, the counters, the sensors and the device's identity (R601, R659, R660,
R664). -/

namespace Sys2Proof.Machine

def specEventRead : CmdSpec := { op := 0x0A01, b := true, d := true, m := true, u := true, lens := exactly 16 }

/-- Records examined in ascending sequence until the count is reached (R664): those returned, and the sequence after the last one
examined. -/
def takeRecords (keep : LogRecord → Bool) : Nat → Nat → List LogRecord → List LogRecord × Nat
  | _, next, [] => ([], next)
  | 0, next, _ => ([], next)
  | n + 1, _, r :: rest =>
    if keep r then
      let (l, next) := takeRecords keep n (r.seq + 1) rest
      (r :: l, next)
    else takeRecords keep (n + 1) (r.seq + 1) rest

/-- EVENT_READ (R664): a bay session sees its own bay's records. Over MTW the event cursor follows (R650). -/
def doEventRead (c : Ctx) (s : State) : Result :=
  let fromSeq := u64At c.p 0
  let low := u8At c.p 10
  c.fields s [(10, decide (low ≤ 3)), (11, zeroAt c.p 11 5)] <|
    let room := if c.caller.mtw then 14 else 126
    let n := if u16At c.p 8 = 0 then room else min room (u16At c.p 8)
    let start := max fromSeq (((s.mgmt.log.head?).map LogRecord.seq).getD 0)
    let keep := fun (r : LogRecord) => decide (low ≤ r.ev.severity) && (c.caller.bay.isNone || r.ev.bay == c.caller.bay)
    let (l, next) := takeRecords keep n start (s.mgmt.log.filter fun r => decide (start ≤ r.seq))
    let more := s.mgmt.log.any fun r => decide (next ≤ r.seq)
    let lost := s.mgmt.log.head?.any fun r => decide (fromSeq < r.seq)
    let s : State := if c.caller.mtw then { s with mgmt.mtw.cursor := next } else s
    okWith (leBytes 8 next ++ leBytes 2 l.length ++ leBytes 1 (flag more + 2 * flag lost) ++ zeros 5 ++ l.flatMap recordBytes) s

def execEventRead (r : Req) (s : State) : Out := runCommand specEventRead doEventRead r s

def specCounterRead : CmdSpec := { op := 0x0A03, b := true, d := true, m := true, lens := exactly 8 }

/-- Counters of a block, none for a block that is not listed (R660). -/
def blockLen (k : Nat) : Option Nat :=
  if k < 16 then some 53
  else if 0x100 ≤ k && k < 0x10C then some 8
  else if 0x200 ≤ k && k < 0x204 then some 6
  else if 0x300 ≤ k && k < 0x308 then some 64
  else if 0x400 ≤ k && k < 0x405 then some 7
  else if 0x500 ≤ k && k < 0x502 then some 10
  else if k = 0x600 then some 8
  else if k = 0x700 then some 13
  else if 0x800 ≤ k && k < 0x84B then some 6
  else none

/-- A counter as read: the indices of a sub-port that a port's mode does not have read zero (R660). -/
def State.counter (s : State) (k i : Nat) : Nat :=
  let v := natAt (((findKey PerfBlock.block s.mgmt.perf k).map PerfBlock.counts).getD []) i
  if 0x300 ≤ k && k < 0x308 && (12 < i % 16 || decide (modeSubs (s.portMode (k - 0x300)) ≤ i / 16)) then 0 else v

/-- The counters `[first, first + n)` of a block set to zero. -/
def State.clearCounters (s : State) (k first n : Nat) : State :=
  { s with mgmt.perf := s.mgmt.perf.map fun b =>
      if b.block = k then { b with counts := b.counts.zipIdx.map fun x => if decide (first ≤ x.2) && decide (x.2 < first + n) then 0 else x.1 }
      else b }

/-- COUNTER_READ (R660): another block than its own is DENIED to a bay session, whatever its span; a span beyond the block, or a
block not listed, is RANGE. -/
def doCounterRead (c : Ctx) (s : State) : Result :=
  let k := u16At c.p 0
  let first := u16At c.p 2
  let n := u16At c.p 4
  refuseIf (c.caller.bay.any fun b => b != k) .denied 0 s <|
  c.fields s [(0, (blockLen k).isSome), (2, decide (first + n ≤ (blockLen k).getD 0)), (4, decide (1 ≤ n) && decide (n ≤ 500)),
      (6, decide (u8At c.p 6 < 2)), (7, zeroAt c.p 7 1)] <|
    let body := (items n fun i => s.counter k (first + i)).flatMap (leBytes 8)
    okWith body (if bit (u8At c.p 6) 0 then s.clearCounters k first n else s)

def execCounterRead (r : Req) (s : State) : Out := runCommand specCounterRead doCounterRead r s

def specSensorRead : CmdSpec := { op := 0x0A04, d := true, m := true, lens := exactly 0 }

/-- Unit code of a sensor (R659). -/
def sensorUnit (n : Nat) : Nat :=
  if n < 16 || n = 26 then 0 else match n with
  | 16 | 20 | 21 | 24 | 25 => 1
  | 17 | 22 | 23 => 2
  | 18 | 19 => 3
  | _ => 4

/-- SENSOR_READ (R659). -/
def doSensorRead (c : Ctx) (s : State) : Result :=
  c.fields s [] <|
    okWith (leBytes 1 31 ++ zeros 7 ++ (List.range 31).flatMap fun n =>
      leBytes 2 n ++ leBytes 1 (sensorUnit n) ++ leBytes 1 (s.sensor n).status ++ leBytes 4 (unsignedOf 32 (s.sensor n).value)) s

def execSensorRead (r : Req) (s : State) : Out := runCommand specSensorRead doSensorRead r s

def specDeviceQuery : CmdSpec := { op := 0x0A05, b := true, d := true, m := true, lens := exactly 0 }

/-- The slot whose image runs; none in recovery mode (R706). -/
def State.runningSlot (s : State) : Slot := (s.dev.slot.bind fun i => s.flash.slots[i]?).getD Slot.none

/-- DEVICE_QUERY (R601, R706). -/
def doDeviceQuery (c : Ctx) (s : State) : Result :=
  c.fields s [] <|
    okWith (leBytes 2 0xC212 ++ leBytes 1 s.ident.stepping ++ leBytes 1 s.ident.variant ++ leBytes 1 1 ++ leBytes 1 2 ++
      leBytes 1 (if s.isFatal then 2 else if s.dev.phase = .running then 1 else 0) ++ zeros 1 ++ leBytes 8 s.ident.serial ++
      leBytes 8 s.net.muster.config.nodeId ++ leBytes 4 s.runningSlot.version ++ leBytes 4 s.runningSlot.build ++ timeBytes s.dev.now ++ zeros 2) s

def execDeviceQuery (r : Req) (s : State) : Out := runCommand specDeviceQuery doDeviceQuery r s

end Sys2Proof.Machine
end

