-- ==== Sys2Proof/Machine/Resets.lean ====
section
/-! DEFINITION. Resets (R609 to R614): what each keeps, the steward reset with its watchdog, Failsafe and retries, and the choice of
the firmware slot (R701 to R706). -/

namespace Sys2Proof.Machine

/-! ### The device reset (R609, R611) -/

/-- The votes that a device reset keeps: those of voters 19 to 23 (R621). -/
def keptVotes (v : Nat) : Nat := bits v 19 5 * 2 ^ 19

/-- Everything outside the lantern, the boot flash and the board at its reset value (R609, R611): every bay, session, table and
sheaf is gone; a silo that was lost stays so (R454); loft units assigned to bays are to be zeroed. Numbers that must not be reused go on
(R501, R563). -/
def State.wipe (s : State) : State :=
  let z := State.reset
  { z with
    pending := s.pending
    memsys.silos := z.memsys.silos.zipIdx.map fun x =>
      if (s.memsys.silos[x.2]?).any Silo.lost then { x.1 with lost := true, step := 5 } else x.1
    out := s.out
    freeCount := s.freeCount
    ident := s.ident
    board := s.board
    flash := { s.flash with loftToZero := s.flash.loftToZero ++ s.flash.loftUnits, loftUnits := [] }
    lan := { s.lan with
      listen := [], knockReplies := [], energyAt := List.replicate 8 none
      domains := s.lan.domains.map fun d =>
        { d with state := .a0, votes := keptVotes d.votes, wakePending := false, idleSince := s.dev.now } }
    mgmt := { z.mgmt with
      mtw := { s.mgmt.mtw with busy := false, ready := none }
      sensors := s.mgmt.sensors }
    net := { z.net with
      nextHandle := s.net.nextHandle, nextQpn := s.net.nextQpn, nextKey := s.net.nextKey
      ports := z.net.ports.zipIdx.map fun p => { p.1 with cage := ((s.net.ports[p.2]?).map Port.cage).getD 0 } }
    tth := { z.tth with nextKey := s.tth.nextKey }
    dev := { z.dev with now := s.dev.now, windowStart := s.dev.now, tj := s.dev.tj, refLost := s.dev.refLost, phase := s.dev.phase } }

/-- Boot begins for a cause of LAN_RESET_CAUSE, in a reset of a kind (R636, R707). -/
def State.beginBoot (s : State) (kind cause : Nat) : State :=
  { s with lan.resetCause := kind + 8 * cause, dev.phase := .booting, dev.boot := .rom }

/-- A device reset (R609, R611). -/
def State.deviceReset (s : State) (cause : Nat) : State := s.wipe.beginBoot 1 cause

/-! ### The steward reset (R609, R612 to R614) -/

/-- What an item of a move in hand has taken is given back: the migration bit, the destination (R612). -/
def State.undoItem (s : State) (w : Waiting) : State :=
  match w.items with
  | [] => s
  | i :: _ => match s.table w.bay i.table with
    | none => s
    | some t => match s.entry w.bay t i.row with
      | none => s
      | some e =>
        if w.at_ < 2 then s
        else if w.kind = .migrate then
          let s := s.commitEntry w.bay t i.row { e with migrating := false }
          let r : Run := ⟨w.dest, t.rowGranules i.a⟩
          s.modBay w.bay fun y => { y with space :=
            if i.b = 2 then { y.space with loftUsed := cutRun r y.space.loftUsed } else { y.space with siloUsed := cutRun r y.space.siloUsed } }
        else if w.kind = .hotHome && i.a = 1 then
          let r : Run := ⟨w.dest, t.rowGranules e.tier⟩
          s.modBay w.bay fun y => { y with space := { y.space with siloUsed := cutRun r y.space.siloUsed } }
        else s

def FlailOp.isMove : FlailOp → Bool
  | .move .. => true
  | _ => false

/-- Moves leave the flails: their queues, their waiting lists, and the rows they hold (R408). -/
def State.dropMoves (s : State) : State :=
  let keys := s.dp.flails.flatMap fun f => (f.entries.filter fun e => e.op.isMove).map fun e => (f.no, e.key)
  let clean := fun (f : Flail) =>
    ({ f with
      queue := f.queue.filter fun o => !o.isMove
      entries := f.entries.map fun e => { e with waiters := e.waiters.filter fun o => !o.isMove } } : Flail)
  let s : State := { s with dp.flails := s.dp.flails.map clean }
  keys.foldl (fun s k => State.releaseRow s k.1 k.2) s

/-- A command not completed has no effect: rebuilds end, held starts and revocations are taken back, and the crews' waiting runs
go (R612). -/
def State.dropCommands (s : State) : State :=
  let started := s.dp.crews.filterMap fun c => c.job.map Job.cmd
  let s := s.dp.waiting.foldl (fun s w => State.undoItem s w) s
  let s := s.fab.spans.foldl (fun s x => State.unprepare s selfNode x.tag) s
  let s : State := { s with
    dp.waiting := []
    dp.messages := []
    dp.contexts := s.dp.contexts.map fun x => { x with heldCmd := none }
    dp.crews := s.dp.crews.map fun c => { c with runs := c.runs.filter fun r => started.contains r }
    tth.regions := s.tth.regions.map fun r => { r with closing := none }
    fab.spans := []
    net.stewardQueue := []
    net.parked := []
    net.sessions := s.net.sessions.map fun x => { x with uploads := [] }
    mgmt.uploads := []
    bays := s.bays.map fun y => { y with tables := y.tables.map fun t =>
      (if t.life = .rebuilding then { t with life := .live, rebuild := none } else t) } }
  s.dropMoves

/-- A steward reset begins for a cause (R609, R612 to R614, R636): the datapath runs on. -/
def State.stewardReset (s : State) (cause : Nat) : State :=
  let since := match s.dev.steward with
    | .inReset t _ _ => t
    | _ => s.dev.now
  let s := s.dropCommands
  let n := min 3 (s.lan.resets + 1)
  let s : State := { s with
    lan.held := true, lan.resets := n, lan.resetCause := 2 + 8 * cause
    dev.steward := .inReset since cause n, dev.slot := none, dev.trialSince := none
    mgmt.mtw.busy := false, mgmt.mtw.ready := none
    mgmt.ltw.transfer := none, mgmt.ltw.retries := 0, mgmt.ltw.nacks := 0
    mgmt.uart.baud := 0, mgmt.uart.pendingBaud := none, mgmt.uart.line := [] }
  s.raise 0x0106 2 none none (leBytes 1 cause ++ leBytes 1 n)

/-- Whether the stewards run their firmware. -/
def State.stewardsUp (s : State) : Bool := s.dev.phase == .running && s.dev.steward == .running

/-- LAN_WDOG (R613): Varlet restarts the watchdog. -/
def execLanWdog (s : State) : Out := .next { s with lan.wdogAt := s.dev.now }

/-- STEWARD_WATCHDOG (R613): the watchdog has not been restarted for 500 ms. -/
def execStewardWatchdog (s : State) : Out :=
  .next <| if s.stewardsUp && decide (s.lan.wdogAt + 500000000 ≤ s.dev.now) then s.stewardReset 2 else s

/-- STEWARD_EXCEPTION (R609): a fatal exception in a primary steward. -/
def execStewardException (s : State) : Out := .next (if s.stewardsUp then s.stewardReset 3 else s)

/-- LANTERN_FAILSAFE (R614): 2 s have passed without resumption: fans at 100 %, and intake stops on every path. -/
def execLanternFailsafe (s : State) : Out :=
  .next <| match s.dev.steward with
  | .inReset since _ _ =>
    if s.lan.failsafe || s.dev.now < since + 2000000000 then s
    else
      let s : State := { s with lan.failsafe := true, board.fans := s.board.fans.map fun f => { f with duty := 100 } }
      s.raise 0x0108 2 none none []
  | _ => s

/-- FAILSAFE_RETRY (R614): a further 2 s without resumption: another steward reset, or, after the third, a device reset. -/
def execFailsafeRetry (s : State) : Out :=
  .next <| match s.dev.steward with
  | .inReset since cause n =>
    if !s.lan.failsafe || s.dev.now < since + 2000000000 * (n + 1) then s
    else if n < 3 then s.stewardReset cause
    else s.deviceReset 4
  | _ => s

/-! ### The choice of a slot (R699 to R701) -/

def State.slotIn (s : State) (st : SlotState) : Option Nat := (s.flash.slots.zipIdx.find? fun x => x.1.state == st).map Prod.snd

def State.fwSlot (s : State) (i : Nat) : Slot := s.flash.slots.getD i Slot.none

def State.modFw (s : State) (i : Nat) (f : Slot → Slot) : State := { s with flash.slots := s.flash.slots.modify i f }

/-- Whether an image verifies (R698, R699); `bad` names slots whose image the flash no longer holds intact. -/
def State.verifies (s : State) (bad : List Nat) (i : Nat) : Bool :=
  (s.fwSlot i).good && decide (s.lan.floor ≤ (s.fwSlot i).security) && !bad.contains i

/-- FW_ROLLBACK, reporting both slots (R666, R701, R704). -/
def rollbackEvent (a b : Nat) : Event := ⟨0x0C09, 1, none, none, leBytes 1 a ++ leBytes 1 b⟩

/-- The slots tried one after the other; each that fails is marked, and noted (R701). -/
def State.tryslots (s : State) (bad : List Nat) : List Nat → State
  | [] => { s with dev.slot := none }
  | i :: rest =>
    if s.verifies bad i then { s with dev.slot := some i }
    else
      let trial := (s.fwSlot i).state == .trial
      let s := if trial then s.modFw i fun x => { x with state := .valid } else s.modFw i fun _ => Slot.none
      let sig : List Event := if trial then [] else [⟨0x0C07, 2, none, none, leBytes 1 i⟩]
      let back : List Event := match rest with
        | j :: _ => [rollbackEvent i j]
        | [] => []
      State.tryslots { s with dev.notes := s.dev.notes ++ sig ++ back } bad rest

/-- Whether the trial slot is tried now (R701): not again, and in a steward reset only with the journal format of the active
image. -/
def State.trialNow (s : State) (steward : Bool) : Option Nat :=
  match s.slotIn .trial with
  | none => none
  | some i =>
    let same := match s.slotIn .active with
      | some j => (s.fwSlot i).journal == (s.fwSlot j).journal
      | none => false
    if !s.flash.trialAttempted && (!steward || same) then some i else none

/-- The boot ROM's choice (R701): none is recovery mode. -/
def State.choose (s : State) (steward : Bool) (bad : List Nat) : State :=
  let trial := s.trialNow steward
  let s : State := if trial.isSome then { s with flash.trialAttempted := true } else s
  s.tryslots bad (trial.toList ++ (s.slotIn .active).toList ++ (s.slotIn .valid).toList)

/-- Recovery mode (R706): no port or link comes up, and the console prints the result of each slot's check. -/
def State.enterRecovery (s : State) : State :=
  let s := s.wipe
  let s : State := { s with dev.phase := .recovery, dev.slot := none, dev.notes := [] }
  (List.range 2).foldl (fun s i => State.console s (ascii "slot " ++ decimal i ++ ascii " invalid" ++ crlf)) s

/-- Whether the image that runs, or ran until the stewards' reset, is a trial that has failed (R704). -/
def State.trialFailed (s : State) : Bool :=
  match s.slotIn .trial with
  | none => false
  | some i =>
    s.flash.trialAttempted && match s.dev.steward with
      | .inReset _ cause _ => s.dev.slot.isNone && s.dev.trialRan == some i && (cause == 2 || cause == 3)
      | _ => s.dev.bootFailed && s.dev.slot == some i && s.dev.phase == .running

/-- BOOT_ROM (R701): the boot ROM on the primary steward chooses an image, at boot or in a steward reset; `bad` names the slots
whose image is found damaged. -/
def execBootRom (bad : List Nat) (s : State) : Out :=
  .next <|
    let steward := match s.dev.steward with
      | .inReset _ _ _ => true
      | _ => false
    let due := if steward then s.dev.phase == .running && s.dev.slot.isNone && !s.trialFailed
      else s.dev.phase == .booting && s.dev.boot == .rom && !s.board.resetLow
    if !due then s
    else
      let s := s.choose steward bad
      if s.dev.slot.isNone then s.enterRecovery
      else if steward then s else { s with dev.boot := .verify }

/-- TRIAL_FAILED (R704): the previously active image is started: by a steward reset where the journal formats are equal, else by a
device reset. -/
def execTrialFailed (s : State) : Out :=
  .next <| match s.slotIn .trial with
  | none => s
  | some i =>
    if !s.trialFailed then s
    else
      let back := s.slotIn .active
      let same := back.any fun j => (s.fwSlot i).journal == (s.fwSlot j).journal
      let s := s.modFw i fun x => { x with state := .valid }
      let s : State := { s with dev.notes := s.dev.notes ++ [rollbackEvent i (back.getD i)] }
      let during := match s.dev.steward with
        | .inReset _ c _ => some c
        | _ => none
      let cause := during.getD (Config.unstated 8 0 % 7)
      if same then (if during.isSome then s else s.stewardReset cause)
      else
        let notes := s.dev.notes
        { s.deviceReset cause with dev.notes := notes }

/-- Varlet raises the noted events (R701). -/
def State.raiseNotes (s : State) : State :=
  let l := s.dev.notes
  l.foldl (fun s e => State.raiseMore s e []) { s with dev.notes := [] }

/-- The trial's 60 s start where a trial image runs (R704). -/
def State.startTrial (s : State) : State :=
  if s.dev.slot.isSome && s.dev.slot == s.slotIn .trial then { s with dev.trialSince := some s.dev.now, dev.trialRan := s.dev.slot }
  else { s with dev.trialRan := none }

/-- Parking begins (R690): every OPEN bay is in DRAINING. -/
def State.startParking (s : State) : State := ({ s with dev.parking := .draining, board.parkAtBoot := false }).drainOpen

/-- STEWARD_RESUME (R612, R614): Varlet resumes on the image chosen: every lease and hold is extended by the length of the reset,
buffered events are written, and the latches, the fans and intake are taken back. -/
def execStewardResume (s : State) : Out :=
  .next <| match s.dev.steward with
  | .inReset since _ _ =>
    if s.dev.slot.isNone || s.dev.phase ≠ .running then s
    else
      let d := s.dev.now - since
      let longer := fun (x : Session) => (if x.state = .ended then x else { x with expiry := x.expiry + d })
      let s : State := { s with
        dev.steward := .running
        lan.held := false, lan.failsafe := false, lan.resets := 0, lan.wdogAt := s.dev.now
        net.sessions := s.net.sessions.map longer }
      let s := s.flushBuffered.raiseNotes
      let s := s.raise 0x0107 0 none none (leBytes 4 (d / 1000))
      let s := s.startTrial.driveFans
      if s.board.parkAtBoot then s.startParking else s
  | _ => s

/-- A reset that waits for its response to be sent (R610, R703): 0 a device reset, 1 a steward reset. -/
def State.runPendingReset (s : State) : State :=
  match s.dev.pendingReset with
  | none => s
  | some k =>
    if s.mgmt.mtw.ready.isSome || s.tth.boxes.any fun m => !m.toWrite.isEmpty then s
    else
      let s : State := { s with dev.pendingReset := none }
      if k = 1 && s.dev.phase = .running then s.stewardReset 0 else s.deviceReset 0

/-- POWER_ON_RESET (R609, R684): the lantern supply has risen: everything but the boot flash, the fuses and what is fitted takes
its reset value, and the straps are sampled. -/
def execPowerOnReset (addrSel clkSel tthDisable : Nat) (s : State) : Out :=
  .next <|
    let z := State.reset
    { z with
      pending := s.pending
      out := s.out
      freeCount := s.freeCount
      ident := s.ident
      flash := { s.flash with loftToZero := s.flash.loftToZero ++ s.flash.loftUnits, loftUnits := [] }
      lan := { z.lan with addrSel := addrSel % 4, clkSel := clkSel % 2, tthDisable := tthDisable % 2, floor := s.lan.floor }
      board := { z.board with resetLow := s.board.resetLow } }

end Sys2Proof.Machine
end

