-- ==== Sys2Proof/Machine/Module.lean ====
section
/-! DEFINITION. The module as a board (chapter 18): insertion, the hot-swap controller and its faults, the rails, parking and
removal, the reset and attention inputs, the cages and the LEDs; the last phase of a domain's exit from fallow (R628). -/

namespace Sys2Proof.Machine

/-- Whether the main path conducts. -/
def State.mainOn (s : State) : Bool :=
  match s.dev.phase with
  | .ramp | .rails | .booting | .running | .recovery => true
  | .parked => decide (0 < s.board.rails)
  | _ => false

/-- Everything on the main path is without power (R692): the lantern, on standby, keeps what a device reset keeps. -/
def State.powerDown (s : State) (phase : Phase) (rails : Nat) : State :=
  { s.wipe with dev.phase := phase, board.rails := rails }

/-- MATED_N_DEBOUNCE (R669, R689): MATED_N has been low for 100 ms: the ramp starts unless a fault is latched. -/
def execMatedNDebounce (s : State) : Out :=
  .next <|
    if s.dev.phase = .off then s
    else
      let s : State := { s with board.mated := true }
      if s.dev.phase = .standby && s.board.fault.isNone && s.board.rails = 0 then { s with dev.phase := .ramp } else s

/-- RAMP_COMPLETE (R669, R672): hot-swap power-good: the first rail is enabled. -/
def execRampComplete (s : State) : Out :=
  .next <| if s.dev.phase = .ramp then { s with dev.phase := .rails, board.rails := 0 } else s

/-- RAIL_POWER_GOOD (R672): rail 1 to 7, in the order of the table, asserts power-good: the next is enabled, and after the last
boot begins. -/
def execRailPowerGood (rail : Nat) (s : State) : Out :=
  if rail = 0 || 7 < rail then .fault .noSuchUnit
  else .next <|
    if s.dev.phase ≠ .rails || rail ≠ s.board.rails + 1 then s
    else if rail < 7 then { s with board.rails := rail }
    else { s with board.rails := 7, dev.phase := .booting, dev.boot := .rom }

/-- RAIL_DOWN (R672, R690): a rail has fallen below 10 % of its setpoint: the next one down is disabled; after the last the main
path opens, and the module is parked. -/
def execRailDown (rail : Nat) (s : State) : Out :=
  if rail = 0 || 7 < rail then .fault .noSuchUnit
  else .next <|
    let down := s.dev.phase == .parked || s.dev.phase == .standby
    if !down || rail ≠ s.board.rails then s
    else
      let s : State := { s with board.rails := rail - 1 }
      if rail = 1 && s.dev.phase = .parked then { s with dev.parking := .parked } else s

/-- HOTSWAP_FAULT (R670, R673): cause 0 overcurrent or short circuit, 1 undervoltage, 2 overvoltage, 3 the FET's limits, 4 a rail
lost or late, 5 a slow ramp: the main path opens at once, and the fault latches. -/
def execHotswapFault (cause : Nat) (s : State) : Out :=
  if 5 < cause then .fault .noSuchUnit
  else .next <|
    if !s.mainOn then s
    else
      let s := s.powerDown .standby (if cause = 4 then s.board.rails else 0)
      ({ s with board.fault := some cause }).raise 0x010D 3 none none (leBytes 1 cause)

/-- MODULE_INPUT_FAULT (R670): the input has been below 46 V for 1 ms; the main path stays on. -/
def execModuleInputFault (mv : Nat) (s : State) : Out :=
  .next <| if s.dev.phase = .off || 46000 ≤ mv then s else s.raise 0x010C 2 none none (leBytes 4 mv)

/-- STANDBY_LOSS (R668, R670): the 54 V input is gone: the whole module stops, and a latched fault clears. -/
def execStandbyLoss (s : State) : Out :=
  .next <|
    let s := s.powerDown .off 0
    { s with board.fault := none, lan.buffered := [], lan.overflow := 0 }

/-- SURPRISE_REMOVAL (R692): MATED_N has been high for 10 µs: every rail and the main path open, and nothing is written. -/
def execSurpriseRemoval (s : State) : Out :=
  .next <|
    let s : State := { s with board.mated := false }
    if s.mainOn || s.dev.phase = .tripped then s.powerDown .standby 0 else s

/-- MOD_RESET_N (R687, R608, R690): assertion and release of the module reset input. -/
def execModResetN (low : Bool) (s : State) : Out :=
  .next <|
    let was := s.board.resetLow
    let s : State := { s with board.resetLow := low }
    match s.dev.phase, low with
    | .off, _ => s
    | .standby, true => { s with board.fault := none }
    | .standby, false =>
      if was && s.board.mated && s.board.fault.isNone && s.board.rails = 0 then { s with dev.phase := .ramp } else s
    | .parked, true => if s.board.rails = 0 then { s with dev.phase := .standby, dev.parking := .none } else s
    | .tripped, true =>
      if s.hotTj < 85 * 16 then { (s.powerDown .rails 0) with lan.resetCause := 1 + 8 * 5 } else s
    | .booting, true | .running, true | .recovery, true => s.deviceReset 1
    | _, _ => s

/-- ATTN_N (R688, R690): a debounced falling edge requests parking; during boot, or while Varlet does not run, it waits. -/
def execAttnN (s : State) : Out :=
  .next <|
    if s.dev.parking ≠ .none then s
    else if s.stewardsUp then s.startParking
    else match s.dev.phase with
      | .booting | .running => { s with board.parkAtBoot := true }
      | _ => s

/-- PARK_WAIT_END (R690): every drain has ended: the rails go down. -/
def execParkWaitEnd (s : State) : Out :=
  .next <|
    let open_ := s.bays.any fun y => y.core.life.state == .draining && y.core.life.drainStart.isSome
    if s.dev.parking ≠ .draining || open_ || s.dev.phase ≠ .running then s
    else { (s.powerDown .parked s.board.rails) with dev.parking := .rails }

/-- PLUGGABLE_INSERTION (R676, R680): the port reads the power class of a module put into its cage, in mW: one above 12 W is held
in low power, and none of its sub-ports comes up. -/
def execPluggableInsertion (port mw : Nat) (s : State) : Out :=
  if 7 < port then .fault .noSuchUnit
  else .next <|
    if !s.mainOn then s
    else
      let low := decide (12000 < mw)
      let s : State := { s with net.ports := s.net.ports.modify port fun p => { p with cage := if low then 2 else 1 } }
      if low then s.portDown port else s

/-! ### The LEDs (R691) -/

inductive Led where
  | off | greenBlink | green | amber | amberBlink | blueBlink | blue
deriving DecidableEq, Repr

/-- The status LED. -/
def State.statusLed (s : State) : Led :=
  if s.dev.phase = .off then .off
  else if s.lan.failsafe then .amberBlink
  else if s.isFatal || s.board.fault.isSome || s.dev.phase = .tripped then .amber
  else match s.dev.phase with
    | .running => .green
    | .ramp | .rails | .booting => .greenBlink
    | _ => .off

/-- The attention LED. -/
def State.attentionLed (s : State) : Led :=
  match s.dev.parking with
  | .none => .off
  | .draining | .rails => .blueBlink
  | .parked => .blue

/-! ### LOGIC_OK (R619, R628, R630) -/

/-- The bay programs' code in a crew's store again, from the verified images (R298, R618, R630). -/
def State.reloadCrew (s : State) (k : Nat) : State :=
  match s.bays.find? fun y => y.crews.contains k with
  | none => s
  | some y => y.work.programs.foldl (fun s p =>
      State.write (State.write s .store k 0 p.codeAddr (slice 64 p.codeSize p.image)) .store k 0 p.dataAddr
        (slice (64 + p.codeSize) p.dataSize p.image)) s

/-- LOGIC_OK (R628): the domain is in A0 again. With it from F3 a crew's code is reloaded, and the exit of the D0 steward domain
from device F3 is a boot (R619). -/
def execLogicOk (dom : Nat) (s : State) : Out :=
  if 74 < dom then .fault .noSuchUnit
  else .next <| match (s.domain dom).state with
    | .exiting f .logic =>
      if dom = 0 && f = 3 then s.deviceReset 6
      else
        let s := s.modDomain dom fun d => { d with state := .a0, idleSince := s.dev.now }
        if f = 3 && 2 ≤ dom && dom < 34 then s.reloadCrew (dom - 2)
        else if 46 ≤ dom && dom < 54 then s.portAwake (dom - 46)
        else s
    | _ => s

end Sys2Proof.Machine
end

