-- ==== Sys2Proof/Machine/Boot.lean ====
section
/-! DEFINITION. Boot (R685, R707 to R711), the firmware commands (R702 to R705), self-test and margining (R712 to R716), and the
reset and rekey commands (R610, R719). -/

namespace Sys2Proof.Machine

/-! ### The boot phases (R707) -/

/-- A line of boot progress (R658). -/
def State.bootLine (s : State) (n : Nat) : State := s.console (ascii "boot " ++ decimal n ++ crlf)

/-- Boot has failed in some phase (R709): the others run on. -/
def State.failBoot (s : State) : State := { s with dev.bootFailed := true }

/-- The boot-flash records read (R693, R471, R505, R508, R625). -/
def State.loadRecords (s : State) : State :=
  let s := s.flash.domCfg.foldl (fun s d => State.modDomain s d.1 fun x => { x with fallow := d.2.1, hysteresis := d.2.2 }) s
  let s := s.flash.addrs.foldl (fun s a => State.modSub s a.1 a.2.1 fun x => { x with addrs := a.2.2 }) s
  { s with net.muster.config := s.flash.muster, net.muster.roster := s.flash.roster }

/-- Repairs of a silo recorded so far. -/
def State.sparesUsed (s : State) (k : Nat) : Nat := (s.flash.repairs.filter fun r => r.silo == k).length

/-- Spares that a stack has left: how many the HBM standard gives it the specification does not state. -/
def State.sparesLeft (s : State) (k : Nat) : Nat := Config.unstated 7 k - s.sparesUsed k

/-- Every stack trained (R450, R451, R709, R711); one that has been lost fails (R454). -/
def State.trainSilos (s : State) (repairs : List (Nat × Nat × Nat)) (failed : List (Nat × Nat)) (capacity : List Nat) : State :=
  let s := repairs.foldl (fun s r =>
    let s : State := { s with flash.repairs := s.flash.repairs ++ [⟨r.1, r.2.1, r.2.2⟩] }
    s.raise 0x0207 0 none (some (siloDie r.1)) (leBytes 1 r.1 ++ leBytes 1 r.2.1 ++ leBytes 1 r.2.2 ++ leBytes 1 (s.sparesLeft r.1))) s
  let s : State := { s with memsys.silos := s.memsys.silos.zipIdx.map fun x =>
    { x.1 with sparesUsed := s.sparesUsed x.2, sparesLeft := s.sparesLeft x.2 } }
  let want := if s.ident.variant = 0 then 36 else 24
  let wrong := (capacity.zipIdx.find? fun c => c.1 != want).map fun c => (c.2, 0)
  let again := (s.memsys.silos.zipIdx.filter fun x => x.1.lost && !failed.any fun f => f.1 == x.2).map fun x => (x.2, 1)
  (failed ++ wrong.toList ++ again).foldl (fun s f =>
    (State.raise s 0x0208 3 none (some (siloDie f.1)) (leBytes 1 f.1 ++ leBytes 1 f.2)).failBoot) s

/-- Whether an expander is one that a loft port uses (R455, R456): a single logical device of CXL 2.0 or later, attached directly, with a
rate, width and flit form that the port supports. -/
def offerUsable (x : LoftOffer) : Bool :=
  (x.gts == 32 || x.gts == 64) && (x.width == 4 || x.width == 8) && (x.flit == 1 || (x.flit == 0 && x.gts == 32)) && decide (2 ≤ x.units) &&
    x.kind == 0 && decide (2 ≤ x.cxl.1)

/-- A loft port trained, or with no expander that it can use (R455, R456, R462): a new label is written. -/
def State.trainLoft (s : State) (port : Nat) (x : LoftOffer) : State :=
  if !offerUsable x then s
  else
    let (label, s) := s.newLabel port
    let s := if 4096 < x.units then s.raise 0x0301 0 none (some (loftDie port)) (leBytes 1 port ++ zeros 3 ++ leBytes 4 (x.units / 4)) else s
    s.modLoft port fun l =>
      { l with state := .up, gts := x.gts, width := x.width, flit := x.flit, units := min 4096 x.units - 1, label := label }

/-- BOOT_PHASE (R707): the phase under way ends as the command says, and the next begins. -/
def execBootPhase (r : BootResult) (s : State) : Out :=
  .next <|
    if s.dev.phase ≠ .booting then s
    else match s.dev.boot, r with
    | .verify, .verify => ((({ s with dev.boot := .records }).flushBuffered).raiseNotes).bootLine 1
    | .records, .records eeprom variant =>
      let s := ({ s with dev.boot := .domains, ident.variant := if eeprom then variant % 2 else s.ident.variant }).loadRecords
      (if eeprom then s else s.failBoot).bootLine 2
    | .domains, .domains => ({ s with dev.boot := .silos }).bootLine 3
    | .silos, .silos repairs failed capacity => (({ s with dev.boot := .init }).trainSilos repairs failed capacity).bootLine 4
    | .init, .init => ({ s with dev.boot := .selftest, mem := [], poison := [] }).bootLine 5
    | .selftest, .selftest failed _ =>
      let m := failed &&& 0x3F
      let s : State := { s with dev.boot := .ports }
      (if m = 0 then s else (s.raise 0x0C0A 2 none none (zeros 4 ++ leBytes 4 m)).failBoot).bootLine 6
    | .ports, .ports loft =>
      ((loft.take 4).zipIdx.foldl (fun s x => State.trainLoft s x.2 x.1) { s with dev.boot := .ready }).bootLine 7
    | _, _ => s

/-- The bays recorded as ZEROING whose loft units have all been zeroed again after a reset: the record is cleared, and reported (R86). -/
def State.zeroedAgain (s : State) : State :=
  let done := s.flash.zeroing.filter fun b => s.bayState b == .absent && !s.flash.loftToZero.any fun u => u.1 == b
  let s : State := { s with flash.zeroing := s.flash.zeroing.filter fun b => !done.contains b }
  done.foldl (fun s b => State.raise s 0x0C03 0 (some b) none (leBytes 4 ((s.dev.now - s.dev.readyAt) / 1000000))) s

/-- BOOT_COMPLETE (R708, R709): Ready: Varlet serves, muster begins, and what has failed makes the device FATAL. -/
def execBootComplete (s : State) : Out :=
  .next <|
    if s.dev.phase ≠ .booting || s.dev.boot ≠ .ready then s
    else
      let kept := s.flash.fatal.reverse
      let s : State := { s with
        dev.phase := .running, dev.windowStart := s.dev.now, dev.readyAt := s.dev.now
        mgmt.high := List.replicate 12 none
        memsys.silos := s.memsys.silos.map fun x => { x with scrubFrom := s.dev.now }
        lan.held := false, lan.failsafe := false, lan.resets := 0, lan.wdogAt := s.dev.now }
      let s := s.raise 0x0C06 0 none none (leBytes 1 (s.dev.slot.getD 0) ++ zeros 3 ++ leBytes 4 s.runningSlot.version)
      let s := s.console (ascii "ready slot " ++ decimal (s.dev.slot.getD 0) ++ ascii " version " ++ decimal s.runningSlot.version ++ crlf)
      let s := kept.foldl (fun s r => State.console s (consoleRecord r)) s
      let s := (s.startAnnounce 0).startTrial.driveFans.zeroedAgain
      let s := if s.dev.bootFailed then s.goFatal else s
      if s.board.parkAtBoot then s.startParking else s

/-- LOFT_UNIT_ZEROED (R86, R710): the loft units of a port recorded as assigned to bays have been zeroed. -/
def execLoftUnitZeroed (port : Nat) (s : State) : Out :=
  if 3 < port then .fault .noSuchUnit
  else .next <|
    if !s.stewardsUp || (s.loft port).state ≠ .up then s
    else ({ s with flash.loftToZero := s.flash.loftToZero.filter fun u => u.2 != port } : State).zeroedAgain

/-- TRIAL_CONFIRMED (R704): a trial image has run for 60 s. -/
def execTrialConfirmed (s : State) : Out :=
  .next <| match s.slotIn .trial, s.dev.trialSince with
  | some i, some t =>
    if !s.stewardsUp || s.dev.bootFailed || s.dev.now < t + 60000000000 then s
    else
      let x := s.fwSlot i
      let done := fun (y : Slot) => (if y.state = .active then { y with state := .valid } else y)
      let s : State := { s with
        flash.slots := (s.flash.slots.map done).modify i fun y => { y with state := .active }
        dev.trialSince := none
        lan.floor := if x.raiseFloor then max s.lan.floor x.security else s.lan.floor }
      s.raise 0x0C08 0 none none (leBytes 1 i ++ zeros 3 ++ leBytes 4 x.version)
  | _, _ => s

/-! ### Firmware (R698 to R706) -/

/-- A maintenance command: device scope and MTW. -/
def maintSpec (op n : Nat) : CmdSpec := { op := op, d := true, m := true, lens := exactly n }

/-- The caller's partial upload of a command (R595, R599). -/
def State.uploadOf (s : State) (c : Ctx) (op : Nat) : Option Upload :=
  if c.caller.mtw then (s.mgmt.uploads.find? fun u => u.1 == op).map fun u => ⟨u.1, u.2.1, u.2.2⟩
  else (s.session c.caller.handle).bind fun x => x.uploads.find? fun u => u.op == op

/-- The partial upload replaced, or dropped. -/
def State.setUpload (s : State) (c : Ctx) (op : Nat) (u : Option (Nat × List Byte)) : State :=
  if c.caller.mtw then
    { s with mgmt.uploads := (u.map fun x => (op, x.1, x.2)).toList ++ s.mgmt.uploads.filter fun x => x.1 != op }
  else s.modSession c.caller.handle fun y => { y with uploads := (u.map fun x => ⟨op, x.1, x.2⟩).toList ++ y.uploads.filter fun x => x.op != op }

/-- The slot that FW_STAGE writes (R702, R706): in recovery mode slot 0 unless it is valid; else one that is neither active nor
trial, an image that runs from a slot that is only valid being left alone. -/
def State.stageSlot (s : State) : Nat :=
  if s.dev.phase = .recovery then (if (s.fwSlot 0).state = .valid then 1 else 0)
  else
    let free := (List.range 2).filter fun i => (s.fwSlot i).state != .active && (s.fwSlot i).state != .trial
    ((free.find? fun i => s.dev.slot != some i).orElse fun _ => free.head?).getD 0

/-- The header of a complete image against R698. -/
def imageOk (m : List Byte) : Bool :=
  u32At m 0 == 0x5641524C && u8At m 4 == 1 && decide (u8At m 5 < 2) && u32At m 24 == m.length && decide (8192 ≤ m.length) &&
    decide (m.length ≤ 2 ^ 24) && m.length % 4096 == 0 && zeroAt m 28 36

def specFwStage : CmdSpec :=
  { op := 0x0F01, d := true, m := true, lens := fun _ p => if 16 ≤ p.length then none else some badLen }

/-- A complete image checked (R702): a slot that fails is left empty. -/
def State.stageImage (s : State) (k : Nat) (m : List Byte) : Result :=
  if !imageOk m then fail .range 0 s
  else if u32At m 20 < s.lan.floor then fail .denied 0 s
  else if !Config.ed25519 Config.romKey (m.take (m.length - 64)) (m.drop (m.length - 64)) then
    fail .denied 0 (s.raise 0x0C07 2 none none (leBytes 1 k))
  else
    let x : Slot := ⟨.valid, u32At m 8, u64At m 12, u32At m 20, u16At m 6, bit (u8At m 5) 0, true⟩
    okWith (leBytes 1 k ++ zeros 7) (s.modFw k fun _ => x)

/-- FW_STAGE (R595, R702). -/
def doFwStage (c : Ctx) (s : State) : Result :=
  let p := c.p
  let off := u32At p 0
  let total := u32At p 4
  let chunk := p.drop 16
  c.fields s [(8, zeroAt p 8 8)] <|
  refuseIf (s.slotIn .trial).isSome .busy 0 s <|
    let k := s.stageSlot
    let old := if off = 0 then some ⟨0x0F01, total, []⟩ else s.uploadOf c 0x0F01
    match old with
    | none => fail .range 0 s
    | some u =>
      if u.data.length ≠ off || u.total ≠ total || total < off + chunk.length then fail .range 0 (s.setUpload c 0x0F01 none)
      else
        let s := if off = 0 then s.modFw k fun _ => Slot.none else s
        let all := u.data ++ chunk
        if all.length < total then okWith [] (s.setUpload c 0x0F01 (some (total, all)))
        else (s.setUpload c 0x0F01 none).stageImage k all

def execFwStage (r : Req) (s : State) : Out := runCommand specFwStage doFwStage r s

/-- Whether two slots hold images of one journal format. -/
def State.sameJournal (s : State) (i : Nat) : Bool :=
  (s.slotIn .active).any fun j => (s.fwSlot i).journal == (s.fwSlot j).journal

/-- A valid slot becomes the trial slot (R703); with a restart, the reset that the journal formats ask for follows. -/
def State.activate (s : State) (i : Nat) (restart : Bool) : State :=
  let same := s.sameJournal i
  let s := s.modFw i fun x => { x with state := .trial }
  let kind := if same && s.dev.phase != .recovery then 1 else 0
  { s with flash.trialAttempted := false
           dev.pendingReset := if restart || s.dev.phase = .recovery then some kind else s.dev.pendingReset }

/-- The state FW_QUERY gives of a slot: one below the security floor is empty (R699, R700). -/
def State.slotShown (s : State) (i : Nat) : Slot :=
  if (s.fwSlot i).security < s.lan.floor then Slot.none else s.fwSlot i

/-- FW_ACTIVATE (R703, R706). -/
def doFwActivate (c : Ctx) (s : State) : Result :=
  let i := u8At c.p 0
  c.fields s [(0, decide (i < 2)), (1, decide (u8At c.p 1 < 2)), (2, zeroAt c.p 2 6)] <|
  refuseIf ((s.slotShown i).state != .valid) .state 0 s <|
    okWith [] (s.activate i (bit (u8At c.p 1) 0))

def execFwActivate (r : Req) (s : State) : Out := runCommand (maintSpec 0x0F02 8) doFwActivate r s

def slotCode : SlotState → Nat
  | .empty => 0 | .valid => 1 | .active => 2 | .trial => 3

/-- FW_QUERY (R699, R700). -/
def doFwQuery (c : Ctx) (s : State) : Result :=
  c.fields s [] <|
    okWith ((List.range 2).flatMap fun i =>
      let x := s.slotShown i
      leBytes 1 i ++ leBytes 1 (slotCode x.state) ++ zeros 2 ++ leBytes 4 x.version ++ leBytes 8 x.build) s

def execFwQuery (r : Req) (s : State) : Out := runCommand (maintSpec 0x0F03 0) doFwQuery r s

/-- FW_ROLLBACK (R705). -/
def doFwRollback (c : Ctx) (s : State) : Result :=
  c.fields s [] <|
    match (List.range 2).find? fun i => (s.slotShown i).state == .valid with
    | none => fail .state 0 s
    | some i => refuseIf (s.slotIn .trial).isSome .state 0 s <| okWith [] (s.activate i true)

def execFwRollback (r : Req) (s : State) : Out := runCommand (maintSpec 0x0F04 0) doFwRollback r s

/-! ### Self-test (R712, R713) -/

/-- A new run number; the last eight of a list of runs are kept (R713, R716). -/
def keepLast {α : Type} (l : List α) (a : α) : List α := (a :: l).take 8

/-- SELFTEST_RUN (R712, R713): tests 1 to 6 need every bay ABSENT. -/
def doSelftestRun (c : Ctx) (s : State) : Result :=
  let m := u32At c.p 0
  let absent := (List.range 16).all fun b => s.bayState b == .absent
  refuseIf (decide (0 < bits m 1 6) && decide (m < 1024) && zeroAt c.p 4 4 && !absent) .state 0 s <|
  c.fields s [(0, decide (m < 1024)), (4, zeroAt c.p 4 4)] <|
  refuseIf (s.mgmt.selftests.any fun t => t.state == 0) .busy 0 s <|
    let n := s.mgmt.nextRun
    okWith (leBytes 4 n ++ zeros 4)
      { s with mgmt.nextRun := (n + 1) % 2 ^ 32, mgmt.selftests := keepLast s.mgmt.selftests ⟨n, m, 0, 0, 0⟩ }

def execSelftestRun (r : Req) (s : State) : Out := runCommand (maintSpec 0x0F10 8) doSelftestRun r s

/-- SELFTEST_RESULT (R713). -/
def doSelftestResult (c : Ctx) (s : State) : Result :=
  let t := s.mgmt.selftests.find? fun t => t.run == u32At c.p 0
  c.fields s [(0, t.isSome), (4, zeroAt c.p 4 4)] <|
    match t with
    | some t => okWith (leBytes 1 t.state ++ zeros 3 ++ leBytes 4 t.failed ++ leBytes 8 t.failure) s
    | none => fail .range 0 s

def execSelftestResult (r : Req) (s : State) : Out := runCommand (maintSpec 0x0F11 8) doSelftestResult r s

/-- SELFTEST_DONE (R713): a run ends, with the tests of its mask that failed and the code of the first failure. -/
def execSelftestDone (run failed code : Nat) (s : State) : Out :=
  .next <| match s.mgmt.selftests.find? fun t => t.run == run && t.state == 0 with
  | none => s
  | some t =>
    let f := failed &&& t.mask
    let t' : SelfTest := { t with state := if f = 0 then 1 else 2, failed := f, failure := if f = 0 then 0 else code }
    let s : State := { s with mgmt.selftests := s.mgmt.selftests.map fun x => if x.run = run then t' else x }
    if f = 0 then s else s.raise 0x0C0A 2 none none (leBytes 4 run ++ leBytes 4 f)

/-! ### Margining (R714 to R716) -/

/-- Lanes of a sub-port in a mode (R467). -/
def laneCount (mode : Nat) : Nat := natAt [4, 2, 1, 4, 2, 4] mode

/-- Checks of a target's numbers: index, sub-index, and how many lanes it has. -/
def State.marginTarget (s : State) (kind index sub : Nat) : Bool × Bool × Nat :=
  match kind with
  | 0 => (decide (index < 12), decide (sub < 32), 32)
  | 1 => (decide (index < 4), sub == 0, 16)
  | 2 => (decide (index < 4), sub == 0, 8)
  | 3 => (decide (index < 8), decide (sub < modeSubs (s.portMode index)), laneCount (s.portMode index))
  | 4 => (index == 0, sub == 0, 16)
  | _ => (decide (index < 2), decide (sub < 64), 32)

/-- Whether a target is in a state in which it may be margined (R714). -/
def State.marginLegal (s : State) (kind index sub : Nat) : Bool :=
  match kind with
  | 0 => (s.bays.all fun y => y.core.life.state == .absent || natAt y.core.shares.silo index == 0) &&
      !(s.memsys.silos[index]?).any Silo.lost
  | 1 => (s.link (index + 1)).state.carries || (s.link (index + 1)).state == .foreign
  | 2 => (s.loft index).state == .up
  | 3 => s.linkUp index sub
  | 4 => s.tth.attached
  | _ => true

/-- MARGIN_RUN (R714, R716). -/
def doMarginRun (c : Ctx) (s : State) : Result :=
  let p := c.p
  let kind := u8At p 0
  let index := u8At p 1
  let sub := u8At p 2
  let mask := u32At p 4
  let (i, j, lanes) := s.marginTarget kind index sub
  let fieldsOk := decide (kind ≤ 5) && i && j
  refuseIf (fieldsOk && !s.marginLegal kind index sub) .state 0 s <|
  c.fields s [(0, decide (kind ≤ 5)), (1, i), (2, j), (3, decide (u8At p 3 < 2)), (4, mask != 0 && decide (mask < 2 ^ lanes)),
      (8, zeroAt p 8 8)] <|
    let live := s.mgmt.margins.filter fun m => m.state == 0
    refuseIf (decide (4 ≤ live.length) || live.any fun m => m.kind == kind && m.index == index && m.sub == sub) .busy 0 s <|
      let n := s.mgmt.nextRun
      let m : Margin := ⟨n, kind, index, sub, u8At p 3, mask, 0, []⟩
      okWith (leBytes 4 n ++ zeros 4) { s with mgmt.nextRun := (n + 1) % 2 ^ 32, mgmt.margins := keepLast s.mgmt.margins m }

def execMarginRun (r : Req) (s : State) : Out := runCommand (maintSpec 0x0F30 16) doMarginRun r s

/-- MARGIN_RESULT (R716). -/
def doMarginResult (c : Ctx) (s : State) : Result :=
  let m := s.mgmt.margins.find? fun m => m.run == u32At c.p 0
  c.fields s [(0, m.isSome), (4, zeroAt c.p 4 4)] <|
    match m with
    | some m => okWith (leBytes 1 m.state ++ leBytes 1 m.results.length ++ zeros 6 ++ m.results.flatMap fun r =>
        leBytes 1 r.1 ++ zeros 1 ++ leBytes 2 r.2.1 ++ leBytes 2 r.2.2.1 ++ leBytes 2 r.2.2.2) s
    | none => fail .range 0 s

def execMarginResult (r : Req) (s : State) : Out := runCommand (maintSpec 0x0F31 8) doMarginResult r s

/-- MARGIN_DONE (R715, R716): a run ends with the margins of its lanes (lane, left or low, right or high), or is aborted where its
target has left the state that made it legal. A lane with no passing point has none and reports 0. -/
def execMarginDone (run : Nat) (results : List (Nat × Nat × Nat)) (s : State) : Out :=
  .next <| match s.mgmt.margins.find? fun m => m.run == run && m.state == 0 with
  | none => s
  | some m =>
    let lanes := (List.range 32).filter fun k => bit m.lanes k
    let of := fun (k : Nat) => (((results.find? fun r => r.1 == k).map fun r => (r.2.1, r.2.2)).getD (0, 0))
    let m' : Margin :=
      if s.marginLegal m.kind m.index m.sub then
        { m with state := 1, results := lanes.map fun k => (k, (of k).1, (of k).2, m.axis) }
      else { m with state := 2 }
    { s with mgmt.margins := s.mgmt.margins.map fun x => if x.run = run then m' else x }

/-! ### DEVICE_RESET, ADMIN_REKEY (R610, R719) -/

/-- DEVICE_RESET (R610): the response is sent before the reset begins. -/
def doDeviceReset (c : Ctx) (s : State) : Result :=
  c.fields s [(0, decide (u8At c.p 0 < 2)), (1, zeroAt c.p 1 7)] <|
    okWith [] { s with dev.pendingReset := some (u8At c.p 0) }

def execDeviceReset (r : Req) (s : State) : Out := runCommand (maintSpec 0x0F40 8) doDeviceReset r s

def specAdminRekey : CmdSpec := { op := 0x0F41, d := true, lens := exactly 32 }

/-- ADMIN_REKEY (R719): the new secret is kept in boot flash, and every other device-scope session ends. -/
def doAdminRekey (c : Ctx) (s : State) : Result :=
  c.fields s [] <|
    let s := ({ s with flash.adminSecret := c.p }).raise 0x0C0B 0 none none []
    let others := (s.baySessions none).filter fun x => x.handle != c.caller.handle
    okWith [] (others.foldl (fun s x => State.endSession s x.handle) s)

def execAdminRekey (r : Req) (s : State) : Out := runCommand specAdminRekey doAdminRekey r s

end Sys2Proof.Machine
end

