-- ==== Sys2Proof/Machine/Lifecycle.lean ====
section
/-! DEFINITION. Regulator windows (R63 to R70), the end of a drain (R79) and zeroisation (R83, R84). -/

namespace Sys2Proof.Machine

/-! ### Zeroisation traffic (R84) -/

/-- What zeroisation may use of a point: the bay's minimum as a window begins, and as it ends what the point has left, up to the bay's cap;
or, where the cap is 0, the device-scope share (R72, R84). -/
def State.zeroRoom (s : State) (b point : Nat) (late : Bool) : Nat :=
  let cap := s.capNow b point
  if (s.bay b).core.cap point = 0 then s.capacity point / 16 - natAt s.dp.device point
  else min ((if late then cap else s.minNow b point) - natAt (s.bay b).core.served point) (s.capacity point - s.servedAll point)

/-- Bytes of zeroisation charged at a point. -/
def State.zeroCharge (s : State) (b point n : Nat) : State :=
  s.chargeFor (if (s.bay b).core.cap point = 0 then none else some b) false point n

/-- A silo's share of a ZEROING bay written in whole pages, each charged 19 granules for 16 (R84, R437). A lost silo takes
nothing. -/
def State.zeroSiloPages (s : State) (late : Bool) (b k : Nat) : State :=
  let left := natAt (s.bay b).core.life.zeroSilo k
  if left = 0 then s
  else if (s.memsys.silos[k]?).any Silo.lost then s.modLife b fun l => { l with zeroSilo := l.zeroSilo.set k 0 }
  else
    let pages := min ((left + 15) / 16) ((s.zeroRoom b k late + 19 * 64 - 1) / (19 * 64))
    let s := s.modLife b fun l => { l with zeroSilo := l.zeroSilo.set k (left - 16 * pages) }
    ((s.zeroCharge b k (19 * 64 * pages)).count (0x100 + k) 1 (16 * pages)).count (0x100 + k) 2 pages

/-- A loft port's share written in single granules; a port that is not up waits. -/
def State.zeroLoftGranules (s : State) (late : Bool) (b k : Nat) : State :=
  let left := natAt (s.bay b).core.life.zeroLoft k
  if left = 0 || !((s.loft k).state == .up || (s.loft k).state == .lost) then s
  else
    let n := min left ((s.zeroRoom b (12 + k) late + 63) / 64)
    let s := s.modLife b fun l => { l with zeroLoft := l.zeroLoft.set k (left - n) }
    (s.zeroCharge b (12 + k) (64 * n)).count (0x200 + k) 1 n

/-- The zeroisation of a bay goes on in the window under way. -/
def State.zeroWindow (s : State) (late : Bool) (b : Nat) : State :=
  if s.bayState b ≠ .zeroing then s
  else
    let s := (List.range 12).foldl (fun s k => State.zeroSiloPages s late b k) s
    (List.range 4).foldl (fun s k => State.zeroLoftGranules s late b k) s

def State.zeroAll (s : State) (late : Bool) : State := (List.range 16).foldl (fun s b => State.zeroWindow s late b) s

/-! ### WINDOW_BOUNDARY (R63, R66, R70) -/

/-- The window's µs counted where a unit ran reduced (R660). -/
def State.countWindow (s : State) : State :=
  let s := s.memsys.silos.zipIdx.foldl (fun s x =>
    (State.count s (0x100 + x.2) 5 (if x.1.step = 0 then 0 else 1)).count (0x100 + x.2) 6 (if x.1.step = 4 then 1 else 0)) s
  let s := s.memsys.lofts.zipIdx.foldl (fun s x => State.count s (0x200 + x.2) 5 (if 2 ≤ x.1.devload then 1 else 0)) s
  s.lan.domains.zipIdx.foldl (fun s d => match d.1.state with
    | .fallow f => State.count s (0x800 + d.2) (2 + f) 1
    | _ => s) s

/-- Everything that waits for a regulator, a bound, a link or a sub-port goes on as far as it can (R49, R64, R72). -/
def State.goOn (s : State) : State :=
  s.pump.serveIncoming.serveIntake.portsGoOn

/-- A bay's served counts begin at its debt, and a change of its regulators takes effect. -/
def BayCore.newWindow (c : BayCore) : BayCore :=
  { c with served := c.debt, carried := c.debt, debt := List.replicate 36 0, regs := c.regsSet, regsNext := none }

/-- DevLoad levels that waited for the window take effect (R459). -/
def State.takeDevloads (s : State) : State :=
  s.memsys.lofts.zipIdx.foldl (fun s x => match x.1.devloadNext with
    | some l => State.setDevload s x.2 l
    | none => s) s

/-- WINDOW_BOUNDARY (R63): 25 ACLK periods have passed: what waits is served as far as the window lets
it (R72); served counts start again, steps and levels that waited take effect, the clocks switch (R607), and what waits for a cap goes
on. -/
def execWindowBoundary (s : State) : Out :=
  .next <|
    if s.dev.phase ≠ .running || s.dev.now < s.dev.windowStart + 1000 then s
    else
      let s := (s.goOn.zeroAll true).countWindow
      let s : State := { s with
        dev.windowStart := s.dev.windowStart + 1000
        dp.device := List.replicate 36 0
        bays := s.bays.map fun y => { y with core := y.core.newWindow } }
      let s := (List.range 12).foldl (fun s k => State.takeStep s k) s
      let s := s.takeDevloads.switchCclk
      (s.zeroAll false).tetherRun.goOn

/-! ### The end of a drain (R79) -/

/-- The drain of a bay has ended: a BAY_DESTROY that waits for it goes on (R80). -/
def State.endDrain (s : State) (b : Nat) : State :=
  let wanted := (s.bay b).core.life.destroyWanted
  let s := s.modLife b fun l => { l with drainStart := none }
  if wanted then s.enterZeroing b else s

/-- Whether a bay's drain is under way, and since when. -/
def State.drainSince (s : State) (b : Nat) : Option Nat :=
  if s.bayState b = .draining then (s.bay b).core.life.drainStart else none

/-- Update messages of a bay retained for an owner. -/
def State.retainedFor (s : State) (b : Nat) : Nat := sumBy (fun (c : Channel) => if c.bay = b then c.sent.length else 0) s.fab.channels

/-- Whether a session of a bay has a gap outstanding: a number that has not been consumed, below one that has (R79, R390). -/
def State.gapOpen (s : State) (b : Nat) : Bool :=
  s.net.sessions.any fun x => x.bay == some b && x.state != .ended && !x.ledger.consumed.isEmpty

/-- Ledger messages of a bay held at this package, as their owner, behind a gap (R421). -/
def State.heldMessages (s : State) (b : Nat) : Nat :=
  sumBy (fun (c : OwnerChannel) => if c.bay = b then (c.msgs.filter fun m => !m.applying && !m.done).length else 0) s.fab.owners

/-- The wicket lookups of a bay dropped: their reads complete for nobody, and nothing is placed (R79). -/
def State.dropLookups (s : State) (b : Nat) : State :=
  let gone := s.dp.lookups.filter fun x => x.bay == b
  let ids := gone.map Lookup.id
  let nos := gone.map Lookup.no
  let mine := fun (r : Read) => match r.purpose with
    | .wicket id _ | .wicketPool id _ => ids.contains id
    | .wicketSide no _ => nos.contains no
    | _ => false
  { s with
    dp.lookups := s.dp.lookups.filter fun x => x.bay != b
    dp.reads := s.dp.reads.map fun r => if mine r then { r with dropped := true } else r
    dp.threshers := s.dp.threshers.map fun t => { t with bypass := t.bypass.filter fun i => !ids.contains i } }

/-- DRAIN_END (R79): no sheaf in flight, no retained update, no gap. -/
def execDrainEnd (bay : Nat) (s : State) : Out :=
  if 15 < bay then .fault .noSuchUnit
  else .next <|
    if (s.drainSince bay).isSome && (s.bayWork bay).isEmpty && s.retainedFor bay == 0 && !s.gapOpen bay &&
        s.heldMessages bay == 0 then s.endDrain bay else s

/-- DRAIN_TIMEOUT (R79): retained updates and updates held behind gaps are discarded and reported, and the work in flight is
dropped. -/
def execDrainTimeout (bay : Nat) (s : State) : Out :=
  if 15 < bay then .fault .noSuchUnit
  else .next <| match s.drainSince bay with
  | none => s
  | some t =>
    if s.dev.now < t + 1000000 * (s.bay bay).core.shares.drainMs then s
    else
      let kept := s.retainedFor bay
      let held := (s.dp.sheafs.filter fun x => x.bay == bay && x.phase == SheafPhase.held).length + s.heldMessages bay
      let s : State := { s with
        fab.channels := s.fab.channels.map fun c => if c.bay = bay then { c with sent := [] } else c
        fab.owners := s.fab.owners.map fun c => if c.bay = bay then { c with msgs := [] } else c }
      let s := ((s.dropSheafs bay fun _ => true).dropLookups bay).raise 0x0C02 1 (some bay) none (leBytes 4 kept ++ leBytes 4 held)
      s.endDrain bay

/-! ### The end of zeroisation (R81, R83, R84) -/

/-- Every addressed byte that a bay owns is zero, and readable again. -/
def State.eraseBay (s : State) (b : Nat) : State :=
  let areas : List Area := [.silo, .loft, .half0, .half1, .crib, .stage, .spill, .ring]
  let crews := (s.bay b).crews
  let spans := areas.map (fun a => memKey a b 0 0) ++ crews.flatMap fun k => [memKey .store k 0 0, memKey .scratch k 0 0]
  { s with
    mem := spans.foldl (fun m k => memClear m k (2 ^ 64)) s.mem
    poison := s.poison.filter fun g => !spans.any fun k => decide (k ≤ 64 * g) && decide (64 * g < k + 2 ^ 64)
    memsys.chaff := s.memsys.chaff.filter fun g => !spans.any fun k => decide (k ≤ 64 * g) && decide (64 * g < k + 2 ^ 64) }

/-- Errors counted for a bay kept as nobody's, so that their pseudo-channel or port still counts them (R442). -/
def disown (key : Nat → Nat) (l : List (Nat × Nat × Nat)) : List (Nat × Nat × Nat) :=
  l.foldl (fun a e => addErrs a (key e.1) e.2.1 e.2.2) []

/-- ZEROISATION_END (R81, R83, R84): every resource has been written: the shares return, the votes go, and the bay is ABSENT. -/
def execZeroisationEnd (bay : Nat) (s : State) : Out :=
  if 15 < bay then .fault .noSuchUnit
  else .next <|
    let l := (s.bay bay).core.life
    if l.state ≠ .zeroing || !(l.zeroSilo.all (· == 0) && l.zeroLoft.all (· == 0)) then s
    else
      let ms := (s.dev.now - l.zeroStart) / 1000000
      let s := s.eraseBay bay
      let s : State := { s with
        bays := s.bays.set bay Bay.absent
        flash.zeroing := s.flash.zeroing.filter (· != bay)
        flash.loftUnits := s.flash.loftUnits.filter fun u => u.1 != bay
        mgmt.perf := s.mgmt.perf.filter fun p => p.block != bay
        memsys.silos := s.memsys.silos.map fun x => { x with errs := disown (fun k => if k / 32 = bay then 32 * 16 + k % 32 else k) x.errs }
        memsys.lofts := s.memsys.lofts.map fun x => { x with errs := disown (fun k => if k = bay then 16 else k) x.errs } }
      (s.withdrawVotes bay).raise 0x0C03 0 (some bay) none (leBytes 4 ms)

end Sys2Proof.Machine
end

