-- ==== Sys2Proof/Machine/Ingress.lean ====
section
/-! DEFINITION. A VCP message as its carrier delivers it (R487, R488, R497, R559, R560, R592, R651): its first checks (R586),
the copy kept for a repeated tag (R498), and the queue it joins (R589, R596). -/

namespace Sys2Proof.Machine

/-- The command table (R601): one entry for each command but FABRIC_SEGMENT, which is no request. -/
def sessionSpecs : List CmdSpec :=
  [specSessionHello, specSessionOpen, specSessionClose, specHeartbeat, specSessionReattach, specSessionQuery, specQpConnect,
   specQpDestroy, specQpQuery]

def baySpecs : List CmdSpec :=
  [specBayCreate, specBaySetShares, specBaySetRegulators, specBayOpen, specBayDrain, specBayDestroy, specBayRekey, specBayQuery,
   specHandLoad, specHandUnload, specHandBind, specHandRun, specHandQuery]

def tableSpecs : List CmdSpec :=
  [specTableCreate, specTableDestroy, specTableQuery, specDirWrite, specDirRead, specRowWrite, specRowRead, specDefaultRowSet,
   specPoolSet, specPoolGet, specOptSet, specOptGet, specEpochQuery, specQuantSetPolicy, specQuantSetScales, specQuantSetCodebook,
   specQuantSetSplit, specQuantGetScales, specQuantReadSat, specTierMigrate, specTierRebuild, specShardMapLoad, specShardMapGet]

def pathSpecs : List CmdSpec :=
  [specHotsetPut, specHotsetDrop, specHotsetSwap, specHotsetQuery, specHotsetHome, specHotsetConfig, specRunaheadConfig,
   specStageQuery, specHeatSnapshot, specHeatRead, specHeatQuery, specStreamCreate, specStreamAppend, specStreamDestroy,
   specStreamStart, specStreamRearm, specStreamQuery, specStreamConfig, specLedgerQuery, specLedgerSkip, specLedgerConfig,
   specSheafCancel, specWicketLookup]

def unitSpecs : List CmdSpec :=
  [specYokeSet, specLinkQuery, specSiloQuery, specLoftQuery, specMemScrubConfig, specLoftPortSet, specMusterConfig,
   specMusterQuery, specNetPortQuery, specNetPortSet, specNetAddrSet, specTetherRegionReg, specTetherRegionDereg,
   specTetherBiasSet, specTetherCopyIn, specTetherCopyOut, specTetherQuery, specTetherRelaySet]

def deviceSpecs : List CmdSpec :=
  [specCclkSet, specPowerVote, specPowerRelease, specPowerQuery, specPowerConfig, specEventRead, specCounterRead, specSensorRead,
   specDeviceQuery, specFwStage, maintSpec 0x0F02 8, maintSpec 0x0F03 0, maintSpec 0x0F04 0, maintSpec 0x0F10 8,
   maintSpec 0x0F11 8, maintSpec 0x0F30 16, maintSpec 0x0F31 8, maintSpec 0x0F40 8, specAdminRekey]

def commandTable : List CmdSpec := sessionSpecs ++ baySpecs ++ tableSpecs ++ pathSpecs ++ unitSpecs ++ deviceSpecs

def specFor (op : Nat) : Option CmdSpec := commandTable.find? fun x => x.op == op

/-- Whether the boot ROM, which knows no other command, answers DENIED (R706). -/
def State.bootRomDenies (s : State) (op : Nat) : Bool := s.dev.phase == .recovery && !recoveryOps.contains op

def isMtw (r : Req) : Bool := r.via == .mtw

/-- The first checks of a message that the stewards take (R586 steps 1 to 10): an answer at once, or the caller. -/
def State.firstChecks (s : State) (r : Req) : Check :=
  let op := (headerOf r.msg).op
  match checkHead (fun op => s.bootRomDenies op || (specFor op).isSome) r with
  | some x => x
  | none =>
    if s.bootRomDenies op then failWith .denied 0
    else match specFor op with
      | some spec => checkKnown s spec r
      | none => failWith .badOpcode 0

/-- A message that has passed its first checks joins its session's command queue, and wakes the stewards (R589, R622). -/
def State.enqueue (s : State) (r : Req) : State :=
  State.wakeDomain { s with net.stewardQueue := s.net.stewardQueue ++ [r] } 0 1

/-- What becomes of a message that has arrived by a network carrier, a mailbox or the management bus: none where it must
wait because its session's command queue is full (R592). -/
def State.takeIn (s : State) (r : Req) : Option State :=
  let wicket := r.msg.length == 64 && !isMtw r
  if (headerOf r.msg).op = 0x0B40 then
    match r.via with
    | .udp .. => some (if s.serving r.via then s.fabricSegment r else s)
    | _ => some s
  else if wicket && (headerOf r.msg).op == 0x0610 then some (s.lookupIn r)
  else if isResponse r then some s.countMalformed
  else if wicket && s.lan.failsafe then some (s.wicketBusy r)
  else if !s.serving r.via then some s
  else match s.repeated r with
    | some s => some s
    | none => match s.firstChecks r with
      | .discard w => some (s.countDiscard w)
      | .fail reply => some (s.respond r true reply)
      | .pass c =>
        if wicket then some (s.queueMessage r c.bay)
        else if s.queueFull r then none
        else some (s.enqueue r)

/-- VCP_DATAGRAM (R497, R498, R580, R592): a datagram at the VCP port of a sub-port; `badSum`: its UDP checksum is wrong. -/
def execVcpDatagram (port sub : Nat) (src : NetAddr) (srcPort : Nat) (data : List Byte) (badSum : Bool) (s : State) : Out :=
  if !hasSub port sub then .fault .noSuchUnit
  else .next <|
    if !s.alive port sub then s
    else
      let s := (s.count (0x300 + port) (16 * sub) 1).count (0x300 + port) (16 * sub + 2) (udpFrame src.v6 data.length)
      let r : Req := ⟨.udp port sub src srcPort, data⟩
      if data.length < 16 || badSum then s.countDiscard 0
      else if 4096 < data.length then s.countDiscard 1
      else (s.takeIn r).getD (s.respond r false ⟨.busy, 0, []⟩)

/-- VCP_SEND (R484, R488, R592): a SEND on a queue pair; one whose session's command queue is full is answered with an RNR
NAK. -/
def execVcpSend (qpn : Nat) (data : List Byte) (s : State) : Out :=
  .next <| match s.hatchOf qpn with
  | none => s
  | some (q, _) => ((s.received q data.length).takeIn ⟨.send qpn, data⟩).getD (s.sendNak q .rnr)

/-- MAILBOX_TAKE (R559, R560): the oldest submitted message is copied out of its slot, which is free then; while its session's
command queue is full it stays there. -/
def execMailboxTake (box : Nat) (s : State) : Out :=
  if 31 < box then .fault .noSuchUnit
  else match s.box box with
  | none => .next s
  | some m => .next <| match m.submitted with
    | [] => s
    | (slot, len) :: rest =>
      if !s.tth.attached then s
      else
        let msg := s.read .slots box 0 (4096 * slot) len
        let taken := s.modBox box fun m => { m with submitted := rest, consumed := m.consumed + 1 }
        (taken.takeIn ⟨.mailbox box, msg⟩).getD s

/-- A write of MTW_REQ that is no request (R651): one of a bad length is counted. -/
def State.badMtwReq (s : State) : State := s.count 0x700 3 1

/-- A request that MTW_REQ holds at the stop (R651): an earlier response is discarded. -/
def State.mtwSubmit (s : State) (data : List Byte) : State :=
  let r : Req := ⟨.mtw, data⟩
  let s : State := { s with mgmt.mtw.response := none, mgmt.mtw.ready := none }
  if isResponse r || (headerOf data).op = 0x0B40 then (s.takeIn r).getD s
  else (State.takeIn { s with mgmt.mtw.busy := true } r).getD s

/-- MTW_REQ (R642 to R644, R651): a write transaction to MTW_REQ with its data, its packet error code included, ended by a stop
or by a repeated start. -/
def execMtwReq (data : List Byte) (restart : Bool) (s : State) : Out :=
  .next <|
    if s.dev.phase = .off then s
    else match s.mtwBegin 0x20 with
    | (false, s) => s
    | (true, s) =>
      if restart then s
      else
        let s : State := { s with mgmt.mtw.pointer := 0 }
        if 512 + flag s.mgmt.mtw.pec < data.length then (s.ackMtw false).badMtwReq
        else match s.mtwData 0x20 data with
        | (none, s) => s
        | (some d, s) => if d.length < 16 then s.badMtwReq else s.mtwSubmit d

end Sys2Proof.Machine
end

