-- ==== Sys2Proof/Machine/Clock.lean ====
section
/-! DEFINITION. Device time: one period of ACLK (R228), and what happens of itself at its edge. -/

namespace Sys2Proof.Machine

/-- One ACLK period (DESIGN CHOICE, log 2): device time advances by 40 ns; it is kept whole, so that instants compare, and every place that
reports it reports it modulo 2^48. At the edge the hysteresis timers of busy domains restart (R624), spanned commands whose
packages have not answered end (R590), Commits that waited are made, what waits for a regulator, a bound, a link or a sub-port goes on
(R49, R64), and a reset that
waited for its response to leave begins (R610, R703). Without supply nothing moves. -/
def State.tick (s : State) : State :=
  if s.dev.phase = .off then s
  else (State.spanTimeouts (State.restartIdle { s with dev.now := s.dev.now + 40 })).runCommits.goOn.runPendingReset

end Sys2Proof.Machine
end

