-- ==== Sys2Proof/Machine/Flails.lean ====
section
/-! DEFINITION. The flails' reads and writes: Read, Compute, Write, Mark and Release (R410 to R412, R417, R418). -/

namespace Sys2Proof.Machine

/-! ### Read and Compute (R410, R412, R417, R418) -/

/-- The granules of a row's state record that cannot be read. -/
def State.badState (s : State) (b : Nat) (t : Tab) (row : Option Nat) : List Nat := (t.stateGranules row).filter fun g => s.rowBad b 0 1 g 1

/-- Whether the row or state that an update reads cannot be read correctly. -/
def State.updateBad (s : State) (b : Nat) (t : Tab) (row : Option Nat) : Bool :=
  (row.any fun r => s.entryBad b t r) ||
  match s.updatePlace b t row with
  | none => true
  | some (home, addr, tier) => s.rowBad b 0 home addr (t.rowGranules tier) || !(s.badState b t row).isEmpty

/-- Whether an update came over a ridge that is lost (R517): its sheaf's crew is not on the flail's die. -/
def State.updateCut (s : State) (k : Nat) (op : FlailOp) : Bool :=
  s.ridgeLost && match op with
    | .update (some no) _ _ _ _ _ _ _ _ => (s.sheaf no).any fun x => x.crew / 16 != siloDie (k / 32)
    | _ => false

/-- The uncorrectable granules that an update has met, each reported (R443, R445, R460). -/
def State.updateReport (s : State) (b : Nat) (t : Tab) (row : Option Nat) : State :=
  match row.filter fun r => s.entryBad b t r with
  | some r => match t.segmentOf r with
    | some g => s.siloBad b (g.entryByte r / 64)
    | none => s
  | none => match s.updatePlace b t row with
    | none => s
    | some (home, addr, tier) =>
      ((s.badState b t row).foldl (fun s g => State.reportBad s b 1 g 1) s).reportBad b home addr (t.rowGranules tier)

/-- The row of an update reads chaffed until ROW_WRITE rewrites it (R412). -/
def State.updateChaff (s : State) (b : Nat) (t : Tab) (row : Option Nat) : State :=
  match s.updatePlace b t row with
  | some (home, addr, tier) => s.chaffRow b home addr (t.rowGranules tier)
  | none => s

/-- An update that cannot be applied (R412, R463, R517). -/
def State.updateFailed (s : State) (k : Nat) (op : FlailOp) : State :=
  match op with
  | .move .. => s
  | .update _ _ b table row _ _ _ _ =>
    let s := match s.table b table with
      | some t => (if s.updateCut k op then s else s.updateReport b t row).updateChaff b t row
      | none => s
    let s := s.modTable b table fun t => { t with counters := { t.counters with failed := satAdd 64 t.counters.failed 1 } }
    let s := s.raise 0x0601 2 (some b) (some (siloDie (k / 32)))
      (leBytes 1 (k / 32) ++ leBytes 1 (k % 32) ++ leBytes 2 table ++ leBytes 8 (row.getD 0xFFFFFFFFFE))
    s.opDone op 1 0

/-- The new bytes of an update, from the row and state as they stand. -/
def State.compute (s : State) (b : Nat) (t : Tab) (row : Option Nat) (isWrite : Bool) (vals : List Nat) (o : OptRec) :
    Option Computed :=
  match s.updatePlace b t row with
  | none => none
  | some (home, addr, tier) =>
    let p := t.point tier
    let old := s.rowAt b 0 home addr (t.rowBytes tier)
    let n := stateBytes t.desc t.opt
    let state := ((t.stateGranules row).flatMap fun g => s.read .silo b 0 (64 * g) 64).take n
    let (xs, st, msat) := if isWrite then (vals, state, 0) else optRow o t.desc.dim (decodeRow p t.desc.dim old) state vals
    let (bytes, sat) := encodeRow p xs
    some ⟨bytes, st, sat, msat, xs⟩

/-- Whether the reads, or the writes, of an update are let through at a flail (R64, R410): its row's and its state's, in queue 3
(R313); a write waits for the reads of the row under way (R411). -/
def State.updateMay (s : State) (k b : Nat) (t : Tab) (row : Option Nat) (isWrite : Bool) : Bool :=
  match s.updatePlace b t row with
  | none => true
  | some (home, addr, tier) =>
    let die := siloDie (k / 32)
    !(isWrite && s.readBefore b home addr (t.rowGranules tier)) && s.mayAccess b die 3 home addr (t.rowGranules tier) isWrite &&
      (joinGranules (t.stateGranules row)).all fun r => s.accessMay b die 1 r.first r.len isWrite

/-- The row and its state record read, or written, at a flail: charged to the bay. -/
def State.updateAccess (s : State) (k b : Nat) (t : Tab) (row : Option Nat) (isWrite : Bool) : State :=
  match s.updatePlace b t row with
  | none => s
  | some (home, addr, tier) =>
    let die := siloDie (k / 32)
    let s := s.access b die 3 home addr (t.rowGranules tier) isWrite
    (joinGranules (t.stateGranules row)).foldl (fun s r => State.chargeAccess s b die 1 r.first r.len isWrite) s

/-- The reads of an update: its directory entry, its row and its state (R410). -/
def State.updateRead (s : State) (k b : Nat) (t : Tab) (row : Option Nat) : State :=
  (match row with
    | some r => s.chargeEntry b t r false (some (siloDie (k / 32)))
    | none => s).updateAccess k b t row false

/-- FLAIL_READ_DONE (R410): the reads of the `entry`-th conflict-table entry of a flail end, once the regulators have let them
through. -/
def execFlailReadDone (flail entry : Nat) (s : State) : Out :=
  if 384 ≤ flail then .fault .noSuchUnit
  else .next <| match (s.flail flail).entries[entry]? with
  | none => s
  | some e => match e.op, e.computed with
    | .update _ _ b table row isWrite vals _ o, none => match s.table b table with
      | none => ((s.opDone e.op 0 0).releaseRow flail e.key).hotPoll b
      | some t =>
        if s.updateCut flail e.op then ((s.updateFailed flail e.op).releaseRow flail e.key).hotPoll b
        else if !s.updateMay flail b t row false || !s.within (s.updateRead flail b t row) b true false then s
        else
          let s := s.updateRead flail b t row
          if s.updateBad b t row then ((s.updateFailed flail e.op).releaseRow flail e.key).hotPoll b
          else
            let f := s.flail flail
            s.putFlail { f with entries := f.entries.set entry { e with computed := s.compute b t row isWrite vals o } }
    | _, _ => s

/-! ### Write, Mark and Release (R410, R366, R325, R380) -/

/-- Ranges recorded for an epoch of a tier (R124, R144). They are kept whatever the tier's discovery is (DEDUCED, log 143). -/
def Tab.recordEpoch (t : Tab) (epoch tier : Nat) (vals : List Nat) : Tab :=
  { t with epochRanges := (t.epochRanges.filter fun x => !(x.1 == epoch && x.2.1 == tier)) ++
      [(epoch, tier, widenAll (t.epochRange epoch tier) vals)] }

/-- A computed update is written and committed. -/
def State.commitUpdate (s : State) (k b : Nat) (t : Tab) (row : Option Nat) (epoch : Nat) (c : Computed) : State :=
  match s.updatePlace b t row with
  | none => s
  | some (home, addr, tier) =>
    let s := (s.setRow b home addr c.row).updateAccess k b t row true
    let s := s.writeGranules b (t.stateGranules row) c.state
    let s := s.modTable b t.id fun t =>
      { (t.recordEpoch epoch tier c.vals) with counters := { t.counters with momentSat := satAdd 64 t.counters.momentSat c.momentSat } }
    let s := s.countSat b t.id tier c.sat
    match row with
    | none => s.snoopDefault b t.id addr
    | some r =>
      let s := s.writeCopies b t.id r c.row
      let s := match s.entry b t r with
        | some e => (s.setEntry b t r { e with epoch := epoch % 256 }).chargeEntry b t r true (some (siloDie (k / 32)))
        | none => s
      (s.dropStaged b t.id r).snoop b t.id r

/-- Whether a bag has folded a position of a granary-resident row in some of its slices and not yet in others: a read of the row that a
Write must not fall into (R411). -/
def State.rowSplit (s : State) (b table row : Nat) : Bool :=
  s.dp.threshers.any fun t => t.bags.any fun r => match r.work with
    | .bag no k bag => (s.sectionAt no k).any fun x => x.1.bay == b && x.2.table == table &&
      (List.range (x.2.bagLen bag)).any fun p =>
        let past := r.chains.map fun c => decide (p < ((c.flight.map Prod.snd).getD c.next))
        past.contains true && past.contains false && (x.2.slotOf (x.2.bagStart bag + p)).any fun y => y.home == 0 && y.row == row
    | _ => false

/-- Whether the place that an update writes has become one that takes no write (R453, R463, R464). -/
def State.updateDead (s : State) (k b : Nat) (t : Tab) (row : Option Nat) : Bool :=
  (s.updatePlace b t row).any fun p => s.deadAt b (siloDie (k / 32)) p.1 p.2.1

/-- FLAIL_WRITE_DONE (R410, R411): the writes of an entry end, once the regulators have let them through and no read of the row is
under way; Mark commits the update. One whose place takes no write any more fails as in R412 (R463). -/
def execFlailWriteDone (flail entry : Nat) (s : State) : Out :=
  if 384 ≤ flail then .fault .noSuchUnit
  else .next <| match (s.flail flail).entries[entry]? with
  | none => s
  | some e => match e.op, e.computed with
    | .update _ _ b table row _ _ epoch _, some c =>
      let done := fun (s : State) => (s.releaseRow flail e.key).hotPoll b
      match s.table b table with
      | none => done (s.opDone e.op 0 (c.sat.length + c.momentSat))
      | some t =>
        if s.updateDead flail b t row then done (s.updateFailed flail e.op)
        else
          let s' := s.commitUpdate flail b t row epoch c
          if !s.updateMay flail b t row true || !s.within s' b false false || row.any (s.rowSplit b table) then s
          else done (s'.opDone e.op 0 (c.sat.length + c.momentSat))
    | _, _ => s

end Sys2Proof.Machine
end

