-- ==== Sys2Proof/Machine/Dispatch.lean ====
section
/-! DEFINITION. The dispatch of a command to its meaning: one arm per row of the table (R586, R589). -/

namespace Sys2Proof.Machine

/-- The effect of a command on everything but the queue of waiting commands. -/
def exec (i : Instr) (s : State) : Host.Outcome State Fault Refusal :=
  match i with
  | .sessionHello r => Sys2Proof.Machine.execSessionHello r s
  | .sessionOpen r => Sys2Proof.Machine.execSessionOpen r s
  | .sessionClose r => Sys2Proof.Machine.execSessionClose r s
  | .heartbeat r => Sys2Proof.Machine.execHeartbeat r s
  | .sessionReattach r => Sys2Proof.Machine.execSessionReattach r s
  | .sessionQuery r => Sys2Proof.Machine.execSessionQuery r s
  | .qpConnect r => Sys2Proof.Machine.execQpConnect r s
  | .qpDestroy r => Sys2Proof.Machine.execQpDestroy r s
  | .qpQuery r => Sys2Proof.Machine.execQpQuery r s
  | .bayCreate r => Sys2Proof.Machine.execBayCreate r s
  | .baySetShares r => Sys2Proof.Machine.execBaySetShares r s
  | .baySetRegulators r => Sys2Proof.Machine.execBaySetRegulators r s
  | .bayOpen r => Sys2Proof.Machine.execBayOpen r s
  | .bayDrain r => Sys2Proof.Machine.execBayDrain r s
  | .bayDestroy r => Sys2Proof.Machine.execBayDestroy r s
  | .bayRekey r => Sys2Proof.Machine.execBayRekey r s
  | .bayQuery r => Sys2Proof.Machine.execBayQuery r s
  | .handLoad r => Sys2Proof.Machine.execHandLoad r s
  | .handUnload r => Sys2Proof.Machine.execHandUnload r s
  | .handBind r => Sys2Proof.Machine.execHandBind r s
  | .handRun r => Sys2Proof.Machine.execHandRun r s
  | .handQuery r => Sys2Proof.Machine.execHandQuery r s
  | .tetherRegionReg r => Sys2Proof.Machine.execTetherRegionReg r s
  | .tetherRegionDereg r => Sys2Proof.Machine.execTetherRegionDereg r s
  | .tetherBiasSet r => Sys2Proof.Machine.execTetherBiasSet r s
  | .tableCreate r => Sys2Proof.Machine.execTableCreate r s
  | .tableDestroy r => Sys2Proof.Machine.execTableDestroy r s
  | .tableQuery r => Sys2Proof.Machine.execTableQuery r s
  | .dirWrite r => Sys2Proof.Machine.execDirWrite r s
  | .dirRead r => Sys2Proof.Machine.execDirRead r s
  | .rowWrite r => Sys2Proof.Machine.execRowWrite r s
  | .rowRead r => Sys2Proof.Machine.execRowRead r s
  | .defaultRowSet r => Sys2Proof.Machine.execDefaultRowSet r s
  | .tierMigrate r => Sys2Proof.Machine.execTierMigrate r s
  | .tierRebuild r => Sys2Proof.Machine.execTierRebuild r s
  | .heatSnapshot r => Sys2Proof.Machine.execHeatSnapshot r s
  | .heatRead r => Sys2Proof.Machine.execHeatRead r s
  | .heatQuery r => Sys2Proof.Machine.execHeatQuery r s
  | .hotsetPut r => Sys2Proof.Machine.execHotsetPut r s
  | .hotsetDrop r => Sys2Proof.Machine.execHotsetDrop r s
  | .hotsetSwap r => Sys2Proof.Machine.execHotsetSwap r s
  | .hotsetQuery r => Sys2Proof.Machine.execHotsetQuery r s
  | .hotsetHome r => Sys2Proof.Machine.execHotsetHome r s
  | .hotsetConfig r => Sys2Proof.Machine.execHotsetConfig r s
  | .runaheadConfig r => Sys2Proof.Machine.execRunaheadConfig r s
  | .stageQuery r => Sys2Proof.Machine.execStageQuery r s
  | .streamCreate r => Sys2Proof.Machine.execStreamCreate r s
  | .streamAppend r => Sys2Proof.Machine.execStreamAppend r s
  | .streamDestroy r => Sys2Proof.Machine.execStreamDestroy r s
  | .streamStart r => Sys2Proof.Machine.execStreamStart r s
  | .streamRearm r => Sys2Proof.Machine.execStreamRearm r s
  | .streamQuery r => Sys2Proof.Machine.execStreamQuery r s
  | .streamConfig r => Sys2Proof.Machine.execStreamConfig r s
  | .tetherCopyIn r => Sys2Proof.Machine.execTetherCopyIn r s
  | .tetherCopyOut r => Sys2Proof.Machine.execTetherCopyOut r s
  | .sheafCancel r => Sys2Proof.Machine.execSheafCancel r s
  | .poolSet r => Sys2Proof.Machine.execPoolSet r s
  | .poolGet r => Sys2Proof.Machine.execPoolGet r s
  | .wicketLookup r => Sys2Proof.Machine.execWicketLookup r s
  | .ledgerQuery r => Sys2Proof.Machine.execLedgerQuery r s
  | .ledgerSkip r => Sys2Proof.Machine.execLedgerSkip r s
  | .ledgerConfig r => Sys2Proof.Machine.execLedgerConfig r s
  | .optSet r => Sys2Proof.Machine.execOptSet r s
  | .optGet r => Sys2Proof.Machine.execOptGet r s
  | .epochQuery r => Sys2Proof.Machine.execEpochQuery r s
  | .quantSetPolicy r => Sys2Proof.Machine.execQuantSetPolicy r s
  | .quantSetScales r => Sys2Proof.Machine.execQuantSetScales r s
  | .quantSetCodebook r => Sys2Proof.Machine.execQuantSetCodebook r s
  | .quantSetSplit r => Sys2Proof.Machine.execQuantSetSplit r s
  | .quantGetScales r => Sys2Proof.Machine.execQuantGetScales r s
  | .quantReadSat r => Sys2Proof.Machine.execQuantReadSat r s
  | .powerVote r => Sys2Proof.Machine.execPowerVote r s
  | .powerRelease r => Sys2Proof.Machine.execPowerRelease r s
  | .powerQuery r => Sys2Proof.Machine.execPowerQuery r s
  | .powerConfig r => Sys2Proof.Machine.execPowerConfig r s
  | .cclkSet r => Sys2Proof.Machine.execCclkSet r s
  | .eventRead r => Sys2Proof.Machine.execEventRead r s
  | .counterRead r => Sys2Proof.Machine.execCounterRead r s
  | .sensorRead r => Sys2Proof.Machine.execSensorRead r s
  | .deviceQuery r => Sys2Proof.Machine.execDeviceQuery r s
  | .siloQuery r => Sys2Proof.Machine.execSiloQuery r s
  | .loftQuery r => Sys2Proof.Machine.execLoftQuery r s
  | .netPortQuery r => Sys2Proof.Machine.execNetPortQuery r s
  | .linkQuery r => Sys2Proof.Machine.execLinkQuery r s
  | .tetherQuery r => Sys2Proof.Machine.execTetherQuery r s
  | .shardMapLoad r => Sys2Proof.Machine.execShardMapLoad r s
  | .shardMapGet r => Sys2Proof.Machine.execShardMapGet r s
  | .yokeSet r => Sys2Proof.Machine.execYokeSet r s
  | .netPortSet r => Sys2Proof.Machine.execNetPortSet r s
  | .netAddrSet r => Sys2Proof.Machine.execNetAddrSet r s
  | .musterConfig r => Sys2Proof.Machine.execMusterConfig r s
  | .musterQuery r => Sys2Proof.Machine.execMusterQuery r s
  | .fabricSegment r => Sys2Proof.Machine.execFabricSegment r s
  | .tetherRelaySet r => Sys2Proof.Machine.execTetherRelaySet r s
  | .fwStage r => Sys2Proof.Machine.execFwStage r s
  | .fwActivate r => Sys2Proof.Machine.execFwActivate r s
  | .fwQuery r => Sys2Proof.Machine.execFwQuery r s
  | .fwRollback r => Sys2Proof.Machine.execFwRollback r s
  | .selftestRun r => Sys2Proof.Machine.execSelftestRun r s
  | .selftestResult r => Sys2Proof.Machine.execSelftestResult r s
  | .memScrubConfig r => Sys2Proof.Machine.execMemScrubConfig r s
  | .loftPortSet r => Sys2Proof.Machine.execLoftPortSet r s
  | .marginRun r => Sys2Proof.Machine.execMarginRun r s
  | .marginResult r => Sys2Proof.Machine.execMarginResult r s
  | .deviceReset r => Sys2Proof.Machine.execDeviceReset r s
  | .adminRekey r => Sys2Proof.Machine.execAdminRekey r s
  | .hatchRingWrite qpn key va data => Sys2Proof.Machine.execHatchRingWrite qpn key va data s
  | .doorbell d => Sys2Proof.Machine.execDoorbell d s
  | .holdRelease sheaf => Sys2Proof.Machine.execHoldRelease sheaf s
  | .sheafDispatch sheaf => Sys2Proof.Machine.execSheafDispatch sheaf s
  | .jobStart crew => Sys2Proof.Machine.execJobStart crew s
  | .hxHash crew hand pc rd rs1 imm => Sys2Proof.Machine.execHxHash crew hand pc rd rs1 imm s
  | .hxDwq crew hand pc rd rs1 rs2 => Sys2Proof.Machine.execHxDwq crew hand pc rd rs1 rs2 s
  | .hxSwe crew hand pc rd rs1 rs2 => Sys2Proof.Machine.execHxSwe crew hand pc rd rs1 rs2 s
  | .hxDedup crew hand pc vd vs2 => Sys2Proof.Machine.execHxDedup crew hand pc vd vs2 s
  | .walkComplete crew k => Sys2Proof.Machine.execWalkComplete crew k s
  | .ecallExit crew hand pc => Sys2Proof.Machine.execEcallExit crew hand pc s
  | .ecallBarrier crew hand pc => Sys2Proof.Machine.execEcallBarrier crew hand pc s
  | .ecallSectionDone crew hand pc => Sys2Proof.Machine.execEcallSectionDone crew hand pc s
  | .ecallLog crew hand pc => Sys2Proof.Machine.execEcallLog crew hand pc s
  | .handFault crew hand cause pc addr => Sys2Proof.Machine.execHandFault crew hand cause pc addr s
  | .cycleBudgetExhausted crew hand => Sys2Proof.Machine.execCycleBudgetExhausted crew hand s
  | .jobEnd crew => Sys2Proof.Machine.execJobEnd crew s
  | .entryIssue ctx => Sys2Proof.Machine.execEntryIssue ctx s
  | .readCompletion id fixed bad => Sys2Proof.Machine.execReadCompletion id fixed bad s
  | .contextRunning ctx => Sys2Proof.Machine.execContextRunning ctx s
  | .pass thresher bag slice => Sys2Proof.Machine.execPass thresher bag slice s
  | .passWriteback thresher bag slice fault entry => Sys2Proof.Machine.execPassWriteback thresher bag slice fault entry s
  | .allot thresher kind id part => Sys2Proof.Machine.execAllot thresher kind id part s
  | .tileSwap thresher => Sys2Proof.Machine.execTileSwap thresher s
  | .drainSlice d => Sys2Proof.Machine.execDrainSlice d s
  | .redo sheaf sect => Sys2Proof.Machine.execRedo sheaf sect s
  | .resultPlacement sheaf => Sys2Proof.Machine.execResultPlacement sheaf s
  | .completionRecord sheaf => Sys2Proof.Machine.execCompletionRecord sheaf s
  | .matrixJobDone id thresher => Sys2Proof.Machine.execMatrixJobDone id thresher s
  | .tally sheaf => Sys2Proof.Machine.execTally sheaf s
  | .flailTake flail => Sys2Proof.Machine.execFlailTake flail s
  | .flailReadDone flail entry => Sys2Proof.Machine.execFlailReadDone flail entry s
  | .flailWriteDone flail entry => Sys2Proof.Machine.execFlailWriteDone flail entry s
  | .updateAcknowledge sheaf => Sys2Proof.Machine.execUpdateAcknowledge sheaf s
  | .ledgerContrib link msg => Sys2Proof.Machine.execLedgerContrib link msg s
  | .ledgerAckSend bay node seq => Sys2Proof.Machine.execLedgerAckSend bay node seq s
  | .ledgerAck link msg => Sys2Proof.Machine.execLedgerAck link msg s
  | .ledgerRetransmit bay node seq => Sys2Proof.Machine.execLedgerRetransmit bay node seq s
  | .barrierTimeout sheaf sect => Sys2Proof.Machine.execBarrierTimeout sheaf sect s
  | .endToEndTimeout id => Sys2Proof.Machine.execEndToEndTimeout id s
  | .lateCompletion id => Sys2Proof.Machine.execLateCompletion id s
  | .quarantineEnd id => Sys2Proof.Machine.execQuarantineEnd id s
  | .stallWatchdog ctx => Sys2Proof.Machine.execStallWatchdog ctx s
  | .spillReload ctx => Sys2Proof.Machine.execSpillReload ctx s
  | .wicketParse die => Sys2Proof.Machine.execWicketParse die s
  | .bypassFold f => Sys2Proof.Machine.execBypassFold f s
  | .wicketResult id => Sys2Proof.Machine.execWicketResult id s
  | .urgentMessage die => Sys2Proof.Machine.execUrgentMessage die s
  | .vcpDatagram port sub src srcPort data badSum => Sys2Proof.Machine.execVcpDatagram port sub src srcPort data badSum s
  | .vcpSend qpn data => Sys2Proof.Machine.execVcpSend qpn data s
  | .rdmaRead qpn kind => Sys2Proof.Machine.execRdmaRead qpn kind s
  | .rdmaAck qpn kind psn => Sys2Proof.Machine.execRdmaAck qpn kind psn s
  | .qpRetryTimeout qpn => Sys2Proof.Machine.execQpRetryTimeout qpn s
  | .qpError qpn => Sys2Proof.Machine.execQpError qpn s
  | .cnpReceive qpn => Sys2Proof.Machine.execCnpReceive qpn s
  | .rateIncrease qpn => Sys2Proof.Machine.execRateIncrease qpn s
  | .ceMarkedPacket qpn => Sys2Proof.Machine.execCeMarkedPacket qpn s
  | .pfcFrame port sub prio quanta => Sys2Proof.Machine.execPfcFrame port sub prio quanta s
  | .pfcXoff port sub prio occupancy => Sys2Proof.Machine.execPfcXoff port sub prio occupancy s
  | .netPfcStorm port sub prio => Sys2Proof.Machine.execNetPfcStorm port sub prio s
  | .preemptVerify port sub answered fragSize => Sys2Proof.Machine.execPreemptVerify port sub answered fragSize s
  | .frameReceive port sub bytes tags mark corrected f => Sys2Proof.Machine.execFrameReceive port sub bytes tags mark corrected f s
  | .netLinkChange port sub up => Sys2Proof.Machine.execNetLinkChange port sub up s
  | .leaseExpiry handle => Sys2Proof.Machine.execLeaseExpiry handle s
  | .holdExpiry handle => Sys2Proof.Machine.execHoldExpiry handle s
  | .nonceExpiry => Sys2Proof.Machine.execNonceExpiry s
  | .announce => Sys2Proof.Machine.execAnnounce s
  | .decide => Sys2Proof.Machine.execDecide s
  | .musterMessage source m => Sys2Proof.Machine.execMusterMessage source m s
  | .admitTimeout => Sys2Proof.Machine.execAdmitTimeout s
  | .rosterPeriod => Sys2Proof.Machine.execRosterPeriod s
  | .musterNodeLost nodeId => Sys2Proof.Machine.execMusterNodeLost nodeId s
  | .rosterSilence => Sys2Proof.Machine.execRosterSilence s
  | .musterDupId source m => Sys2Proof.Machine.execMusterDupId source m s
  | .dupIdBackoff => Sys2Proof.Machine.execDupIdBackoff s
  | .flitGroupReceive link seq ok ack carried => Sys2Proof.Machine.execFlitGroupReceive link seq ok ack carried s
  | .linkNak link group => Sys2Proof.Machine.execLinkNak link group s
  | .replayTimeout link => Sys2Proof.Machine.execReplayTimeout link s
  | .retryBudgetExhausted link => Sys2Proof.Machine.execRetryBudgetExhausted link s
  | .retrainDone link ok => Sys2Proof.Machine.execRetrainDone link ok s
  | .ridgeLost => Sys2Proof.Machine.execRidgeLost s
  | .yokeTrain yoke ok partner offer => Sys2Proof.Machine.execYokeTrain yoke ok partner offer s
  | .yokeDown yoke => Sys2Proof.Machine.execYokeDown yoke s
  | .readReq link msg => Sys2Proof.Machine.execReadReq link msg s
  | .readResp link msg => Sys2Proof.Machine.execReadResp link msg s
  | .poolReq link msg => Sys2Proof.Machine.execPoolReq link msg s
  | .poolResp link msg => Sys2Proof.Machine.execPoolResp link msg s
  | .fabricError link msg => Sys2Proof.Machine.execFabricError link msg s
  | .pathFailure id => Sys2Proof.Machine.execPathFailure id s
  | .reassemblyTimeout die sender id => Sys2Proof.Machine.execReassemblyTimeout die sender id s
  | .mapVersionRetire bay table => Sys2Proof.Machine.execMapVersionRetire bay table s
  | .bar2Write bay off data => Sys2Proof.Machine.execBar2Write bay off data s
  | .tthDoorbell bay value => Sys2Proof.Machine.execTthDoorbell bay value s
  | .tthEvent value => Sys2Proof.Machine.execTthEvent value s
  | .tthCounterRead off => Sys2Proof.Machine.execTthCounterRead off s
  | .tthBadAccess off isRead => Sys2Proof.Machine.execTthBadAccess off isRead s
  | .bar2Read bar off => Sys2Proof.Machine.execBar2Read bar off s
  | .tthMboxSubmit box value => Sys2Proof.Machine.execTthMboxSubmit box value s
  | .tthMboxStatus box value => Sys2Proof.Machine.execTthMboxStatus box value s
  | .mailboxTake box => Sys2Proof.Machine.execMailboxTake box s
  | .mailboxResponse box failed => Sys2Proof.Machine.execMailboxResponse box failed s
  | .registerWrite block off data => Sys2Proof.Machine.execRegisterWrite block off data s
  | .vectorModerationTimer vector => Sys2Proof.Machine.execVectorModerationTimer vector s
  | .hostReadCompletion id failed data => Sys2Proof.Machine.execHostReadCompletion id failed data s
  | .hostSnoop addr => Sys2Proof.Machine.execHostSnoop addr s
  | .relayPoll relay produced consumed alive slots => Sys2Proof.Machine.execRelayPoll relay produced consumed alive slots s
  | .relaySend relay => Sys2Proof.Machine.execRelaySend relay s
  | .relayAlive relay => Sys2Proof.Machine.execRelayAlive relay s
  | .tetherReset cause => Sys2Proof.Machine.execTetherReset cause s
  | .tetherAttach protocol gen width => Sys2Proof.Machine.execTetherAttach protocol gen width s
  | .windowBoundary => Sys2Proof.Machine.execWindowBoundary s
  | .drainEnd bay => Sys2Proof.Machine.execDrainEnd bay s
  | .drainTimeout bay => Sys2Proof.Machine.execDrainTimeout bay s
  | .zeroisationEnd bay => Sys2Proof.Machine.execZeroisationEnd bay s
  | .tableOverwrite bay table => Sys2Proof.Machine.execTableOverwrite bay table s
  | .granuleRelease bay => Sys2Proof.Machine.execGranuleRelease bay s
  | .rebuildQuiesced bay table => Sys2Proof.Machine.execRebuildQuiesced bay table s
  | .rebuildResume bay table => Sys2Proof.Machine.execRebuildResume bay table s
  | .halfRetired bay die => Sys2Proof.Machine.execHalfRetired bay die s
  | .hotsetRefreshDue bay => Sys2Proof.Machine.execHotsetRefreshDue bay s
  | .runaheadScan die sheaf => Sys2Proof.Machine.execRunaheadScan die sheaf s
  | .stagingComplete id bad => Sys2Proof.Machine.execStagingComplete id bad s
  | .siloTemperature silo temp => Sys2Proof.Machine.execSiloTemperature silo temp s
  | .throttleFall silo => Sys2Proof.Machine.execThrottleFall silo s
  | .siloLost silo cond => Sys2Proof.Machine.execSiloLost silo cond s
  | .siloUe silo pc bay granule => Sys2Proof.Machine.execSiloUe silo pc bay granule s
  | .scrub silo pc bay granule result => Sys2Proof.Machine.execScrub silo pc bay granule result s
  | .loftDown port cause => Sys2Proof.Machine.execLoftDown port cause s
  | .loftRetrain port trained label => Sys2Proof.Machine.execLoftRetrain port trained label s
  | .loftDevload port level => Sys2Proof.Machine.execLoftDevload port level s
  | .loftPoison id bad => Sys2Proof.Machine.execLoftPoison id bad s
  | .loftEventPoll port bay corrected => Sys2Proof.Machine.execLoftEventPoll port bay corrected s
  | .loftUnitReclaimed bay extent => Sys2Proof.Machine.execLoftUnitReclaimed bay extent s
  | .hysteresisExpiry dom low => Sys2Proof.Machine.execHysteresisExpiry dom low s
  | .entryCommit dom => Sys2Proof.Machine.execEntryCommit dom s
  | .wakeLatch dom cause => Sys2Proof.Machine.execWakeLatch dom cause s
  | .pwrOk dom => Sys2Proof.Machine.execPwrOk dom s
  | .pllLock dom => Sys2Proof.Machine.execPllLock dom s
  | .memOk dom => Sys2Proof.Machine.execMemOk dom s
  | .logicOk dom => Sys2Proof.Machine.execLogicOk dom s
  | .knock port sub data => Sys2Proof.Machine.execKnock port sub data s
  | .listenFrame port sub data => Sys2Proof.Machine.execListenFrame port sub data s
  | .falseWake port => Sys2Proof.Machine.execFalseWake port s
  | .lanternTimer => Sys2Proof.Machine.execLanternTimer s
  | .clockRefLost ref => Sys2Proof.Machine.execClockRefLost ref s
  | .clockRefOk ref => Sys2Proof.Machine.execClockRefOk ref s
  | .refHoldoverExpiry => Sys2Proof.Machine.execRefHoldoverExpiry s
  | .dieTemperature die tj => Sys2Proof.Machine.execDieTemperature die tj s
  | .dieThermtrip die => Sys2Proof.Machine.execDieThermtrip die s
  | .powerOnReset addrSel clkSel tthDisable => Sys2Proof.Machine.execPowerOnReset addrSel clkSel tthDisable s
  | .modResetN low => Sys2Proof.Machine.execModResetN low s
  | .lanWdog => Sys2Proof.Machine.execLanWdog s
  | .stewardWatchdog => Sys2Proof.Machine.execStewardWatchdog s
  | .stewardResume => Sys2Proof.Machine.execStewardResume s
  | .lanternFailsafe => Sys2Proof.Machine.execLanternFailsafe s
  | .failsafeRetry => Sys2Proof.Machine.execFailsafeRetry s
  | .mtwAddress addr read n => Sys2Proof.Machine.execMtwAddress addr read n s
  | .mtwReq data restart => Sys2Proof.Machine.execMtwReq data restart s
  | .mtwResponse => Sys2Proof.Machine.execMtwResponse s
  | .mtwQuickWrite => Sys2Proof.Machine.execMtwQuickWrite s
  | .mtwSetPointer reg readLen => Sys2Proof.Machine.execMtwSetPointer reg readLen s
  | .smbusTimeout => Sys2Proof.Machine.execSmbusTimeout s
  | .alertResponse => Sys2Proof.Machine.execAlertResponse s
  | .ltwTransfer target data kind result => Sys2Proof.Machine.execLtwTransfer target data kind result s
  | .ltwArbStop => Sys2Proof.Machine.execLtwArbStop s
  | .ltwBusStuck line held => Sys2Proof.Machine.execLtwBusStuck line held s
  | .uartByte b stop => Sys2Proof.Machine.execUartByte b stop s
  | .uartBreak => Sys2Proof.Machine.execUartBreak s
  | .consoleStatus => Sys2Proof.Machine.execConsoleStatus s
  | .consoleEvents => Sys2Proof.Machine.execConsoleEvents s
  | .consoleLevel => Sys2Proof.Machine.execConsoleLevel s
  | .consoleBaud => Sys2Proof.Machine.execConsoleBaud s
  | .sensorPoll n reading => Sys2Proof.Machine.execSensorPoll n reading s
  | .fanFault fan => Sys2Proof.Machine.execFanFault fan s
  | .packagePowerLimit => Sys2Proof.Machine.execPackagePowerLimit s
  | .powerCeilingRaise => Sys2Proof.Machine.execPowerCeilingRaise s
  | .eventSuppressed code bay die => Sys2Proof.Machine.execEventSuppressed code bay die s
  | .matedNDebounce => Sys2Proof.Machine.execMatedNDebounce s
  | .rampComplete => Sys2Proof.Machine.execRampComplete s
  | .railPowerGood rail => Sys2Proof.Machine.execRailPowerGood rail s
  | .hotswapFault cause => Sys2Proof.Machine.execHotswapFault cause s
  | .moduleInputFault mv => Sys2Proof.Machine.execModuleInputFault mv s
  | .attnN => Sys2Proof.Machine.execAttnN s
  | .parkWaitEnd => Sys2Proof.Machine.execParkWaitEnd s
  | .surpriseRemoval => Sys2Proof.Machine.execSurpriseRemoval s
  | .bootRom bad => Sys2Proof.Machine.execBootRom bad s
  | .bootPhase r => Sys2Proof.Machine.execBootPhase r s
  | .bootComplete => Sys2Proof.Machine.execBootComplete s
  | .loftUnitZeroed port => Sys2Proof.Machine.execLoftUnitZeroed port s
  | .trialConfirmed => Sys2Proof.Machine.execTrialConfirmed s
  | .trialFailed => Sys2Proof.Machine.execTrialFailed s
  | .selftestDone run failed code => Sys2Proof.Machine.execSelftestDone run failed code s
  | .marginDone run results => Sys2Proof.Machine.execMarginDone run results s
  | .pluggableInsertion port mw => Sys2Proof.Machine.execPluggableInsertion port mw s
  | .pfcRepeat port sub prio => Sys2Proof.Machine.execPfcRepeat port sub prio s
  | .pfcPauseExpiry port sub prio => Sys2Proof.Machine.execPfcPauseExpiry port sub prio s
  | .responderAckDeadline qpn => Sys2Proof.Machine.execResponderAckDeadline qpn s
  | .spanMessage node kind tag status msgs => Sys2Proof.Machine.execSpanMessage node kind tag status msgs s
  | .gateEnd dom => Sys2Proof.Machine.execGateEnd dom s
  | .cclkPhaseEnd => Sys2Proof.Machine.execCclkPhaseEnd s
  | .stewardException => Sys2Proof.Machine.execStewardException s
  | .standbyLoss => Sys2Proof.Machine.execStandbyLoss s
  | .railDown rail => Sys2Proof.Machine.execRailDown rail s
  | .uartTransmit => Sys2Proof.Machine.execUartTransmit s
  | .handInstruction crew hand pc x => Sys2Proof.Machine.execHandInstruction crew hand pc x s
  | .clflushComplete id => Sys2Proof.Machine.execClflushComplete id s
  | .writeCompletion d => Sys2Proof.Machine.execWriteCompletion d s

end Sys2Proof.Machine
end

