-- ==== Sys2Proof/WellFormed.lean ====
section
/-! DEFINITION. Well-formed commands: those whose operands name units that the device has. A VCP command is always well formed:
what is wrong with a message is answered by its checks (R586). -/

namespace Sys2Proof

/-- A sub-port of a network port (R467). -/
def isSub (port sub : Nat) : Bool := Decidable.decide (port < 8) && Decidable.decide (sub < 4)

/-- The ridge is link 0, the yokes links 1 to 4 (R513, R518). -/
def isLink (link : Nat) : Bool := Decidable.decide (link ≤ 4)

/-- A yoke link (R518). -/
def isYoke (link : Nat) : Bool := Decidable.decide (1 ≤ link) && Decidable.decide (link ≤ 4)

/-- A hand of a crew (R27). -/
def isHand (crew hand : Nat) : Bool := Decidable.decide (crew ≤ 31) && Decidable.decide (hand ≤ 15)

/-- Whether every unit that a command names exists: a bay (R52), a crew and its hand, a thresher, a silo and its pseudo-channel, a
flail or a loft port of the package's unit table (R27), a network sub-port and its priority (R467, R473), a link, a power domain
(R615), a mailbox (R558), a vector (R566), a rail, a fan or a sensor (R659). -/
def Instr.wf : Instr → Bool
  | .sessionHello _ => true
  | .sessionOpen _ => true
  | .sessionClose _ => true
  | .heartbeat _ => true
  | .sessionReattach _ => true
  | .sessionQuery _ => true
  | .qpConnect _ => true
  | .qpDestroy _ => true
  | .qpQuery _ => true
  | .bayCreate _ => true
  | .baySetShares _ => true
  | .baySetRegulators _ => true
  | .bayOpen _ => true
  | .bayDrain _ => true
  | .bayDestroy _ => true
  | .bayRekey _ => true
  | .bayQuery _ => true
  | .handLoad _ => true
  | .handUnload _ => true
  | .handBind _ => true
  | .handRun _ => true
  | .handQuery _ => true
  | .tetherRegionReg _ => true
  | .tetherRegionDereg _ => true
  | .tetherBiasSet _ => true
  | .tableCreate _ => true
  | .tableDestroy _ => true
  | .tableQuery _ => true
  | .dirWrite _ => true
  | .dirRead _ => true
  | .rowWrite _ => true
  | .rowRead _ => true
  | .defaultRowSet _ => true
  | .tierMigrate _ => true
  | .tierRebuild _ => true
  | .heatSnapshot _ => true
  | .heatRead _ => true
  | .heatQuery _ => true
  | .hotsetPut _ => true
  | .hotsetDrop _ => true
  | .hotsetSwap _ => true
  | .hotsetQuery _ => true
  | .hotsetHome _ => true
  | .hotsetConfig _ => true
  | .runaheadConfig _ => true
  | .stageQuery _ => true
  | .streamCreate _ => true
  | .streamAppend _ => true
  | .streamDestroy _ => true
  | .streamStart _ => true
  | .streamRearm _ => true
  | .streamQuery _ => true
  | .streamConfig _ => true
  | .tetherCopyIn _ => true
  | .tetherCopyOut _ => true
  | .sheafCancel _ => true
  | .poolSet _ => true
  | .poolGet _ => true
  | .wicketLookup _ => true
  | .ledgerQuery _ => true
  | .ledgerSkip _ => true
  | .ledgerConfig _ => true
  | .optSet _ => true
  | .optGet _ => true
  | .epochQuery _ => true
  | .quantSetPolicy _ => true
  | .quantSetScales _ => true
  | .quantSetCodebook _ => true
  | .quantSetSplit _ => true
  | .quantGetScales _ => true
  | .quantReadSat _ => true
  | .powerVote _ => true
  | .powerRelease _ => true
  | .powerQuery _ => true
  | .powerConfig _ => true
  | .cclkSet _ => true
  | .eventRead _ => true
  | .counterRead _ => true
  | .sensorRead _ => true
  | .deviceQuery _ => true
  | .siloQuery _ => true
  | .loftQuery _ => true
  | .netPortQuery _ => true
  | .linkQuery _ => true
  | .tetherQuery _ => true
  | .shardMapLoad _ => true
  | .shardMapGet _ => true
  | .yokeSet _ => true
  | .netPortSet _ => true
  | .netAddrSet _ => true
  | .musterConfig _ => true
  | .musterQuery _ => true
  | .fabricSegment _ => true
  | .tetherRelaySet _ => true
  | .fwStage _ => true
  | .fwActivate _ => true
  | .fwQuery _ => true
  | .fwRollback _ => true
  | .selftestRun _ => true
  | .selftestResult _ => true
  | .memScrubConfig _ => true
  | .loftPortSet _ => true
  | .marginRun _ => true
  | .marginResult _ => true
  | .deviceReset _ => true
  | .adminRekey _ => true
  | .hatchRingWrite _ _ _ _ => true
  | .doorbell _ => true
  | .holdRelease _ => true
  | .sheafDispatch _ => true
  | .jobStart crew => Decidable.decide (crew ≤ 31)
  | .hxHash crew hand _ _ _ _ => isHand crew hand
  | .hxDwq crew hand _ _ _ _ => isHand crew hand
  | .hxSwe crew hand _ _ _ _ => isHand crew hand
  | .hxDedup crew hand _ _ _ => isHand crew hand
  | .walkComplete crew _ => Decidable.decide (crew ≤ 31)
  | .ecallExit crew hand _ => isHand crew hand
  | .ecallBarrier crew hand _ => isHand crew hand
  | .ecallSectionDone crew hand _ => isHand crew hand
  | .ecallLog crew hand _ => isHand crew hand
  | .handFault crew hand _ _ _ => Decidable.decide (crew ≤ 31) && Decidable.decide (hand ≤ 15)
  | .cycleBudgetExhausted crew hand => Decidable.decide (crew ≤ 31) && Decidable.decide (hand ≤ 15)
  | .jobEnd crew => Decidable.decide (crew ≤ 31)
  | .entryIssue _ => true
  | .readCompletion _ _ _ => true
  | .contextRunning _ => true
  | .pass thresher _ _ => Decidable.decide (thresher ≤ 31)
  | .passWriteback thresher _ _ _ _ => Decidable.decide (thresher ≤ 31)
  | .allot thresher _ _ _ => Decidable.decide (thresher ≤ 31)
  | .tileSwap thresher => Decidable.decide (thresher ≤ 31)
  | .drainSlice d => Decidable.decide (d.thresher ≤ 31)
  | .redo _ _ => true
  | .resultPlacement _ => true
  | .completionRecord _ => true
  | .matrixJobDone _ _ => true
  | .tally _ => true
  | .flailTake flail => Decidable.decide (flail < 384)
  | .flailReadDone flail _ => Decidable.decide (flail < 384)
  | .flailWriteDone flail _ => Decidable.decide (flail < 384)
  | .updateAcknowledge _ => true
  | .ledgerContrib link _ => isYoke link
  | .ledgerAckSend _ _ _ => true
  | .ledgerAck link _ => isYoke link
  | .ledgerRetransmit _ _ _ => true
  | .barrierTimeout _ _ => true
  | .endToEndTimeout _ => true
  | .lateCompletion _ => true
  | .quarantineEnd _ => true
  | .stallWatchdog _ => true
  | .spillReload _ => true
  | .wicketParse die => Decidable.decide (die ≤ 1)
  | .bypassFold _ => true
  | .wicketResult _ => true
  | .urgentMessage die => Decidable.decide (die ≤ 1)
  | .vcpDatagram port sub _ _ _ _ => isSub port sub
  | .vcpSend _ _ => true
  | .rdmaRead _ _ => true
  | .rdmaAck _ _ _ => true
  | .qpRetryTimeout _ => true
  | .qpError _ => true
  | .cnpReceive _ => true
  | .rateIncrease _ => true
  | .ceMarkedPacket _ => true
  | .pfcFrame port sub prio _ => isSub port sub && Decidable.decide (prio < 8)
  | .pfcXoff port sub prio _ => isSub port sub && Decidable.decide (prio < 8)
  | .netPfcStorm port sub prio => isSub port sub && Decidable.decide (prio < 8)
  | .preemptVerify port sub _ _ => isSub port sub
  | .frameReceive port sub _ tags mark _ _ => isSub port sub && Decidable.decide (mark < if tags = 0 then 64 else 8)
  | .netLinkChange port sub _ => isSub port sub
  | .leaseExpiry _ => true
  | .holdExpiry _ => true
  | .nonceExpiry => true
  | .announce => true
  | .decide => true
  | .musterMessage _ _ => true
  | .admitTimeout => true
  | .rosterPeriod => true
  | .musterNodeLost _ => true
  | .rosterSilence => true
  | .musterDupId _ _ => true
  | .dupIdBackoff => true
  | .flitGroupReceive link _ _ _ _ => isLink link
  | .linkNak link _ => isLink link
  | .replayTimeout link => isLink link
  | .retryBudgetExhausted link => isLink link
  | .retrainDone link _ => isLink link
  | .ridgeLost => true
  | .yokeTrain yoke _ _ _ => Decidable.decide (yoke ≤ 3)
  | .yokeDown yoke => Decidable.decide (yoke ≤ 3)
  | .readReq link _ => isYoke link
  | .readResp link _ => isYoke link
  | .poolReq link _ => isYoke link
  | .poolResp link _ => isYoke link
  | .fabricError link _ => isYoke link
  | .pathFailure _ => true
  | .reassemblyTimeout die _ _ => Decidable.decide (die ≤ 1)
  | .mapVersionRetire bay _ => Decidable.decide (bay ≤ 15)
  | .bar2Write bay _ _ => Decidable.decide (bay ≤ 15)
  | .tthDoorbell bay _ => Decidable.decide (bay ≤ 15)
  | .tthEvent _ => true
  | .tthCounterRead _ => true
  | .tthBadAccess _ _ => true
  | .bar2Read _ _ => true
  | .tthMboxSubmit box _ => Decidable.decide (box ≤ 31)
  | .tthMboxStatus box _ => Decidable.decide (box ≤ 31)
  | .mailboxTake box => Decidable.decide (box ≤ 31)
  | .mailboxResponse box _ => Decidable.decide (box ≤ 31)
  | .registerWrite _ _ _ => true
  | .vectorModerationTimer vector => Decidable.decide (vector ≤ 2047)
  | .hostReadCompletion _ _ _ => true
  | .hostSnoop _ => true
  | .relayPoll _ _ _ _ _ => true
  | .relaySend _ => true
  | .relayAlive _ => true
  | .tetherReset _ => true
  | .tetherAttach _ _ _ => true
  | .windowBoundary => true
  | .drainEnd bay => Decidable.decide (bay ≤ 15)
  | .drainTimeout bay => Decidable.decide (bay ≤ 15)
  | .zeroisationEnd bay => Decidable.decide (bay ≤ 15)
  | .tableOverwrite bay _ => Decidable.decide (bay ≤ 15)
  | .granuleRelease bay => Decidable.decide (bay ≤ 15)
  | .rebuildQuiesced bay _ => Decidable.decide (bay ≤ 15)
  | .rebuildResume bay _ => Decidable.decide (bay ≤ 15)
  | .halfRetired bay die => Decidable.decide (bay ≤ 15) && Decidable.decide (die ≤ 1)
  | .hotsetRefreshDue bay => Decidable.decide (bay ≤ 15)
  | .runaheadScan die _ => Decidable.decide (die ≤ 1)
  | .stagingComplete _ _ => true
  | .siloTemperature silo _ => Decidable.decide (silo ≤ 11)
  | .throttleFall silo => Decidable.decide (silo ≤ 11)
  | .siloLost silo _ => Decidable.decide (silo ≤ 11)
  | .siloUe silo pc _ _ => Decidable.decide (silo ≤ 11) && Decidable.decide (pc ≤ 31)
  | .scrub silo pc _ _ _ => Decidable.decide (silo ≤ 11) && Decidable.decide (pc ≤ 31)
  | .loftDown port _ => Decidable.decide (port ≤ 3)
  | .loftRetrain port _ _ => Decidable.decide (port ≤ 3)
  | .loftDevload port _ => Decidable.decide (port ≤ 3)
  | .loftPoison _ _ => true
  | .loftEventPoll port _ _ => Decidable.decide (port ≤ 3)
  | .loftUnitReclaimed bay _ => Decidable.decide (bay ≤ 15)
  | .hysteresisExpiry dom _ => Decidable.decide (dom ≤ 74)
  | .entryCommit dom => Decidable.decide (dom ≤ 74)
  | .wakeLatch dom _ => Decidable.decide (dom ≤ 74)
  | .pwrOk dom => Decidable.decide (dom ≤ 74)
  | .pllLock dom => Decidable.decide (dom ≤ 74)
  | .memOk dom => Decidable.decide (dom ≤ 74)
  | .logicOk dom => Decidable.decide (dom ≤ 74)
  | .knock port sub _ => isSub port sub
  | .listenFrame port sub _ => isSub port sub
  | .falseWake port => Decidable.decide (port ≤ 7)
  | .lanternTimer => true
  | .clockRefLost ref => Decidable.decide (ref ≤ 2)
  | .clockRefOk ref => Decidable.decide (ref ≤ 2)
  | .refHoldoverExpiry => true
  | .dieTemperature die _ => Decidable.decide (die ≤ 1)
  | .dieThermtrip die => Decidable.decide (die ≤ 1)
  | .powerOnReset _ _ _ => true
  | .modResetN _ => true
  | .lanWdog => true
  | .stewardWatchdog => true
  | .stewardResume => true
  | .lanternFailsafe => true
  | .failsafeRetry => true
  | .mtwAddress _ _ _ => true
  | .mtwReq _ _ => true
  | .mtwResponse => true
  | .mtwQuickWrite => true
  | .mtwSetPointer _ _ => true
  | .smbusTimeout => true
  | .alertResponse => true
  | .ltwTransfer _ _ _ _ => true
  | .ltwArbStop => true
  | .ltwBusStuck line _ => Decidable.decide (line ≤ 1)
  | .uartByte _ _ => true
  | .uartBreak => true
  | .consoleStatus => true
  | .consoleEvents => true
  | .consoleLevel => true
  | .consoleBaud => true
  | .sensorPoll n _ => Decidable.decide (n ≤ 30)
  | .fanFault fan => Decidable.decide (fan ≤ 3)
  | .packagePowerLimit => true
  | .powerCeilingRaise => true
  | .eventSuppressed _ _ _ => true
  | .matedNDebounce => true
  | .rampComplete => true
  | .railPowerGood rail => Decidable.decide (1 ≤ rail) && Decidable.decide (rail ≤ 7)
  | .hotswapFault cause => Decidable.decide (cause ≤ 5)
  | .moduleInputFault _ => true
  | .attnN => true
  | .parkWaitEnd => true
  | .surpriseRemoval => true
  | .bootRom _ => true
  | .bootPhase _ => true
  | .bootComplete => true
  | .loftUnitZeroed port => Decidable.decide (port ≤ 3)
  | .trialConfirmed => true
  | .trialFailed => true
  | .selftestDone _ _ _ => true
  | .marginDone _ _ => true
  | .pluggableInsertion port _ => Decidable.decide (port ≤ 7)
  | .pfcRepeat port sub prio => isSub port sub && Decidable.decide (prio < 8)
  | .pfcPauseExpiry port sub prio => isSub port sub && Decidable.decide (prio < 8)
  | .responderAckDeadline _ => true
  | .spanMessage _ _ _ _ _ => true
  | .gateEnd dom => Decidable.decide (dom ≤ 74)
  | .cclkPhaseEnd => true
  | .stewardException => true
  | .standbyLoss => true
  | .railDown rail => Decidable.decide (1 ≤ rail) && Decidable.decide (rail ≤ 7)
  | .uartTransmit => true
  | .handInstruction crew hand _ i => isHand crew hand && (i.len == 2 || i.len == 4)
  | .clflushComplete _ => true
  | .writeCompletion _ => true

end Sys2Proof
end

