-- ==== Sys2Proof/Safety.lean ====
section
/-! DEFINITION. The terms in which the statements speak: a VCP command that starts, its answer, and what a step may leave
alone. -/

namespace Sys2Proof.Machine

/-! ### A VCP command that starts -/

/-- The state in which a waiting command has left the stewards' queue. -/
def State.begun (s : State) (r : Req) : State := { s with net.stewardQueue := s.net.stewardQueue.erase r }

/-- Whether a waiting command starts for a caller: it is the first of its session in the stewards' queue (R589), the stewards
serve it (R587, R612, R622, R706), steps 8 to 11 of R586 hold for it, and the padding of a wicket message is zero (R596). -/
def Starts (spec : CmdSpec) (r : Req) (c : Caller) (s : State) : Bool :=
  (headerOf r.msg).op == spec.op && s.serving r.via && s.domainA0 0 &&
    (s.dev.phase != .recovery || recoveryOps.contains spec.op) &&
    !s.net.parked.contains r && s.net.stewardQueue.contains r && s.startsNext r &&
    checkTail (s.begun r) spec r (acceptedCaller (s.begun r) r) == .pass c &&
    (spec.states.isEmpty || decide (15 < actingBay spec c (ownPayload spec r c)) ||
      spec.states.contains (s.bayState (actingBay spec c (ownPayload spec r c)))) &&
    (!isPadded spec r || zeroAt r.msg (16 + ownLength spec.op c) (48 - ownLength spec.op c))

/-- A command starts; `u` is the state it runs in, `p` its payload and `b` the bay it acts on. -/
def Runs (spec : CmdSpec) (r : Req) (c : Caller) (s u : State) (p : List Byte) (b : Nat) : Prop :=
  Starts spec r c s = true ∧ u = s.begun r ∧ p = ownPayload spec r c ∧ b = actingBay spec c p

/-- The context of a command that starts. -/
abbrev ctxOf (c : Caller) (r : Req) (p : List Byte) (b : Nat) : Ctx := ⟨c, r, p, b, none, false⟩

/-- Whether an answer fits the carrier: one over the management bus holds at most 488 bytes of body (R598). -/
abbrev Fits (c : Caller) (body : List Byte) : Prop := c.mtw = true → body.length ≤ 488

/-- A table that a command can change at once: live, and no earlier command on it waits or is prepared (R589). -/
abbrev TableFree (s : State) (b n : Nat) (t : Tab) : Prop :=
  s.table b n = some t ∧ t.life = .live ∧ s.net.parked.any (s.changesTable b t.id) = false ∧ s.preparedOn b t.id = false

/-- A table that a command can read. -/
abbrev TableThere (s : State) (b n : Nat) (t : Tab) : Prop := s.table b n = some t ∧ t.life ≠ .destroying

/-- Every field of a list of checks passes (R584). -/
abbrev Good (checks : List (Nat × Bool)) : Prop := ∀ f ∈ checks, f.2 = true

/-- The state after a command has been answered OK with a body (R582). -/
def State.answerOk (s : State) (r : Req) (body : List Byte) : State := s.respond r true ⟨.ok, 0, body⟩

/-- The state after a command has been answered with another status and a detail (R583). -/
def State.answerNo (s : State) (r : Req) (st : Status) (detail : Nat) : State := s.respond r true ⟨st, detail, []⟩

/-- The state `v` in which a command on a table has been carried out, answered; where other packages hold parts of the table,
the state in which they are asked to prepare it first (R538, R539). -/
def State.carriedOut (u : State) (c : Ctx) (t : Tab) (v : State) : State :=
  let nodes := u.otherNodes (t.map.entries.map MapEntry.owner)
  if nodes.isEmpty then v.answerOk c.req [] else (u.startSpan c t.id .prepare nodes [] []).2

/-- What a command accesses at once may be accessed now: at each point it is below its cap and its bay's turn has come, and for what it
reads there are tags (R64, R67, R314); else it waits (`paced`, log 188). -/
abbrev AccessesNow (reads : Bool) (run : Ctx → State → Result) (c : Ctx) (s : State) : Prop :=
  s.within (run c s).2 c.bay reads false = true

/-! ### A hand that executes -/

/-- A hand of a bay program's job that can execute an instruction at an address: it neither waits nor has exited, and the fetch
of its `len` bytes is one of code pages (R271, R279). -/
structure CanExecute (s : State) (crew hand pc len b : Nat) (j : Job) (h : Hand) : Prop where
  crewOk : crew ≤ 31
  handOk : hand ≤ 15
  owner : s.crewBay crew = some b
  job : s.jobOf crew = some j
  hand : j.hands[hand]? = some h
  program : j.program ≠ 0
  notExited : h.exited = false
  notWaiting : h.waitingBarrier = false
  notLoading : h.loading = false
  code : (s.codePage b pc && s.codePage b (pc + len - 1)) = true

/-- The state in which a hand executes the instruction at an address. -/
def State.at (s : State) (crew hand pc : Nat) : State := s.modHand crew hand fun h => { h with pc := pc }

/-! ### A fabric message that arrives -/

/-- The package that a fabric message is for: the origin of what it answers, or the owner it asks (R420, R521). -/
def destOf (msg : List Byte) : Nat := u16At msg (if toOrigin (u8At msg 0) then 4 else 6)

/-- Whether a message that arrived is for this package: one that names no other member of the rick is (R526). -/
abbrev ForUs (u : State) (msg : List Byte) : Prop :=
  u.isSelf (destOf msg) = true ∨ (u.net.muster.roster.any fun x => x.number == destOf msg) = false

/-- The state after a message of a yoke has been taken: charged and counted, with its credit given back at once but for a request for
this package, whose credit follows from its queue (R512, R513, R530). -/
def State.takenIn (s : State) (link : Nat) (msg : List Byte) : State :=
  let mine := decide (ForUs s msg)
  let u := s.yokeIn link msg mine
  if isRequest msg && mine then u else u.creditBack link msg

/-- A message arrives on a yoke link that carries messages from an admitted partner; `u` is the state after it has been taken (R512,
R518). -/
structure Carries (s : State) (link : Nat) (msg : List Byte) (u : State) : Prop where
  isYoke : 1 ≤ link
  exists_ : link ≤ 4
  up : (s.link link).state.carries = true
  partner : (s.numberOf (s.link link).partner).isSome = true
  taken : u = s.takenIn link msg

/-! ### What every state keeps -/

/-- A state that is whole: its memory is in canonical form, and it has every unit of the device: 16 bays (R52), 32 crews, 32
threshers, 12 silos, 4 loft ports, 8 network ports, the ridge and 4 yoke links (R27, R30), and 75 power domains (R615). -/
structure Intact (s : State) : Prop where
  mem : Memory.wf s.mem = true
  bays : s.bays.length = 16
  crews : s.dp.crews.length = 32
  threshers : s.dp.threshers.length = 32
  silos : s.memsys.silos.length = 12
  lofts : s.memsys.lofts.length = 4
  ports : s.net.ports.length = 8
  links : s.fab.links.length = 5
  domains : s.lan.domains.length = 75

/-- Whether a row may change a byte of memory: one that stores data (R182, R195, R198, R335, R485), one that gives space back and
overwrites it with zeros (R83, R156), one by which a unit loses its contents (R609) or a copy found bad is dropped (R371), one of a
hand, whose fault may load its code again (R298), and one that carries out what such a row asked for. Every
other row leaves all of memory as it is. -/
def mayStore : Instr → Bool
  | .handLoad .. | .tableCreate .. | .dirWrite .. | .rowWrite .. | .defaultRowSet .. | .streamCreate .. | .streamAppend ..
  | .optSet .. | .quantSetPolicy .. | .quantSetScales .. | .quantSetCodebook .. | .quantSetSplit .. | .shardMapLoad ..
  | .fabricSegment .. | .hatchRingWrite .. | .doorbell .. | .jobStart .. | .walkComplete .. | .readCompletion ..
  | .matrixJobDone .. | .flailTake .. | .flailReadDone .. | .flailWriteDone .. | .endToEndTimeout .. | .vcpDatagram ..
  | .vcpSend .. | .readResp .. | .poolResp .. | .fabricError .. | .pathFailure .. | .mapVersionRetire .. | .bar2Write ..
  | .mailboxTake .. | .registerWrite .. | .hostReadCompletion .. | .relayPoll .. | .tetherReset .. | .zeroisationEnd ..
  | .tableOverwrite .. | .rebuildResume .. | .stagingComplete .. | .siloLost .. | .loftDown .. | .loftPoison ..
  | .loftUnitReclaimed .. | .entryCommit .. | .logicOk .. | .clockRefLost .. | .powerOnReset .. | .modResetN ..
  | .stewardWatchdog .. | .failsafeRetry .. | .mtwReq .. | .hotswapFault .. | .parkWaitEnd .. | .surpriseRemoval ..
  | .bootRom .. | .bootPhase .. | .trialFailed .. | .spanMessage .. | .stewardException .. | .standbyLoss ..
  | .handInstruction .. | .writeCompletion .. | .heatSnapshot .. | .hotsetRefreshDue .. | .stallWatchdog .. | .pass ..
  | .drainSlice .. | .bypassFold .. | .readReq .. | .poolReq .. | .windowBoundary .. | .handFault .. | .cycleBudgetExhausted ..
  | .hxHash .. | .hxDwq .. | .hxSwe .. | .hxDedup .. | .ecallExit .. | .ecallBarrier .. | .ecallSectionDone .. | .ecallLog .. => true
  | _ => false

end Sys2Proof.Machine
end

