-- ==== Sys2Proof/Certificates/Slice0/Obligations.lean ====
section
/-! DEFINITION. The statements: what a step does, what every step keeps, and where every command completes with its effect. -/

open Sys2Proof Sys2Proof.Machine

/-- A step takes the command at the front of the queue and carries it out on the state with the queue's rest; on an empty queue
one clock period passes, which is the model's choice (log 2). -/
def Obligations.StepRunsTheFrontCommand : Prop :=
  (∀ (c : Instr) (rest : List Instr) (s : State), step { s with pending := c :: rest } = exec c { s with pending := rest }) ∧
  (∀ s : State, s.pending = [] → step s = .next s.tick)

/-- Every step from a whole state gives a whole state: its memory stays in canonical form, and it keeps every unit of the
device: 16 bays, 32 crews, 32 threshers, 12 silos, 4 loft ports, 8 network ports, 5 links and 75 power domains. -/
def Obligations.StepKeepsTheDeviceWhole : Prop := ∀ s t : State, Intact s → step s = .next t → Intact t

/-- The state after reset is whole, with no command waiting, and lists no byte of memory. -/
def Obligations.ResetIsWhole : Prop :=
  Intact State.reset ∧ State.reset.pending = [] ∧ ∀ a owner die addr, State.reset.read a owner die addr 1 = [0]

/-- No command touches the queue of the commands that wait. -/
def Obligations.CommandsLeaveTheQueue : Prop := ∀ (c : Instr) (s t : State), exec c s = .next t → t.pending = s.pending

/-- Every command whose operands name units of the device gives a next state; one that names a unit the device does not have
stops with that fault, which is the model's choice (log 8). -/
def Obligations.WellFormedCommandsComplete : Prop :=
  ∀ (c : Instr) (s : State), (c.wf = true → ∃ t, exec c s = .next t) ∧ (c.wf = false → exec c s = .fault .noSuchUnit)

/-- In a memory of canonical form, bytes written to an area read back as written, and every byte outside them, of this area or
another, reads as before (R52, R457, R490). -/
def Obligations.MemoryReadsWhatWasWritten : Prop :=
  ∀ (s : State) (a : Area) (owner die addr : Nat) (data : List Byte), Memory.wf s.mem = true → owner < 256 → die < 2 →
    addr + data.length ≤ 2 ^ 60 →
    (s.write a owner die addr data).read a owner die addr data.length = data ∧
    ∀ a' owner' die' x, owner' < 256 → die' < 2 → x < 2 ^ 60 →
      ¬(a' = a ∧ owner' = owner ∧ die' = die ∧ addr ≤ x ∧ x < addr + data.length) →
      (s.write a owner die addr data).read a' owner' die' x 1 = s.read a' owner' die' x 1

/-- A row that stores nothing leaves every byte of memory as it was; a write into a bay's hatch ring, by RDMA, with immediate or
over the tether, changes no byte but those it stores in that ring (R485, R491, R547). -/
def Obligations.StoresChangeOnlyTheirBytes : Prop :=
  (∀ (c : Instr) (s t : State), mayStore c = false → exec c s = .next t →
    ∀ a owner die x, t.read a owner die x 1 = s.read a owner die x 1) ∧
  (∀ (s t : State) (b off : Nat) (data : List Byte), Memory.wf s.mem = true → b ≤ 15 →
    off + data.length ≤ 2 ^ 60 →
    (exec (.bar2Write b off data) s = .next t ∨
      ∃ qpn key, (∀ q b', s.hatchOf qpn = some (q, b') → b' = b) ∧
        (exec (.hatchRingWrite qpn key off data) s = .next t ∨ ∃ value, exec (.doorbell (.imm qpn key off data value)) s = .next t)) →
    ∀ a owner die x, owner < 256 → die < 2 → x < 2 ^ 60 →
      ¬(a = .ring ∧ owner = b ∧ die = 0 ∧ off ≤ x ∧ x < off + data.length) →
      t.read a owner die x 1 = s.read a owner die x 1)

/-- The first ten checks of a request are made in the order of R586, and the first that fails gives the answer: its length, its
version, its flags, its opcode, its transport, its session, the session's binding, its bay, its payload's length, and a device
that is FATAL (R54, R580, R585 to R587). -/
def Obligations.ChecksAreMadeInOrder : Prop :=
  ∀ (s : State) (r : Req), s.bootRomDenies (headerOf r.msg).op = false →
    let h := headerOf r.msg
    (r.msg.length ≠ 16 + h.len ∨ 4096 < r.msg.length → s.firstChecks r = failWith .badLength 0x8006) ∧
    (r.msg.length = 16 + h.len → r.msg.length ≤ 4096 →
      (h.version ≠ 1 → h.version ≠ 2 → s.firstChecks r = .fail ⟨.version, 0, [1, 2]⟩) ∧
      (h.version = 1 → h.op / 256 = 0x0B → s.firstChecks r = failWith .version 0) ∧
      (h.version = 2 ∨ h.version = 1 ∧ h.op / 256 ≠ 0x0B →
        (8 ≤ h.flags → s.firstChecks r = failWith .range 0x8001) ∧
        (h.flags < 8 →
          (specFor h.op = none → s.firstChecks r = failWith .badOpcode 0) ∧
          (∀ spec, specFor h.op = some spec →
            (transportOk spec r = false → s.firstChecks r = failWith .denied 0) ∧
            (transportOk spec r = true →
              (r.via = .mtw → h.handle ≠ 0 → s.firstChecks r = failWith .stale 0) ∧
              (r.via ≠ .mtw → h.handle = 0 → spec.handle0 = false → s.firstChecks r = failWith .stale 0) ∧
              (r.via ≠ .mtw → h.handle ≠ 0 → (∀ x, s.session h.handle = some x →
                  ¬(x.state = .opened ∧ s.dev.now < x.expiry) ∧ ¬(h.op = 0x0105 ∧ x.state ≠ .ended)) →
                s.firstChecks r = failWith .stale 0) ∧
              (∀ c, checkSession s spec r h = .pass c →
                (∀ qpn, r.via = .send qpn → h.handle ≠ 0 → (∀ q, s.qp qpn = some q → q.session ≠ h.handle) →
                  s.firstChecks r = failWith .denied 0) ∧
                (∀ m, r.via = .mailbox m → h.handle ≠ 0 → (s.box m).bind Mailbox.session ≠ some h.handle →
                  s.firstChecks r = failWith .denied 0) ∧
                (∀ a b src p, r.via = .udp a b src p → h.handle ≠ 0 → (s.session h.handle).bind Session.udp ≠ some (src, p) →
                  s.firstChecks r = .discard 2) ∧
                (checkBinding s r h c = .pass c →
                  let p := ownPayload spec r c
                  (h.bay ≠ 0xFFFF → 15 < h.bay ∨ s.bayState h.bay = .absent → s.firstChecks r = failWith .noBay 0) ∧
                  (h.bay = 0xFFFF ∨ h.bay ≤ 15 ∧ s.bayState h.bay ≠ .absent → h.bay ≠ c.bay.getD 0xFFFF →
                    s.firstChecks r = failWith .denied 0) ∧
                  (checkBay s spec h c p = .pass c →
                    (∀ d, spec.lens c p = some d → s.firstChecks r = failWith .badLength d) ∧
                    (spec.lens c p = none →
                      s.firstChecks r = if s.dev.fatal = true ∧ fatalOk h.op = false then failWith .faulted 0 else .pass c)))))))))

/-- Right after reset every bay is ABSENT, no session or queue pair is there, no table, sheaf or lookup; the tether is detached,
the yokes are down, the loft ports absent, no silo is lost, and the device is not FATAL. The bay served last at every regulated
point reads as 15, after which comes bay 0 (R64). -/
def Obligations.ResetLeavesNothingAllocated : Prop :=
  let s := State.reset
  (∀ b, s.bayState b = .absent) ∧ s.net.sessions = [] ∧ s.net.qps = [] ∧ (∀ b n, s.table b n = none) ∧ s.dp.sheafs = [] ∧
  s.dp.lookups = [] ∧ s.tth.attached = false ∧ (∀ i, 1 ≤ i → i ≤ 4 → (s.link i).state.carries = false) ∧
  (∀ k, k ≤ 3 → (s.loft k).state = .absent) ∧ (∀ x ∈ s.memsys.silos, x.lost = false) ∧ s.dev.fatal = false ∧
  (∀ x ∈ s.dp.rr, x = (15, 15))

/-- hx.hash computes rd = ((rs1 × C_i) mod 2^64) >> (64 − b), where i is imm[7:6] and b − 1 is imm[5:0]; with b = 16 and a
sketch key it gives the key's counter number in sketch row i (R192, R282). -/
def Obligations.HashesNumberTheSketch : Prop :=
  let c := fun (i : Nat) => [0x9E3779B97F4A7C15#64, 0xA24BAED4963EE407#64, 0x9FB21C651E98DF25#64, 0xD1B54A32D192ED03#64].getD i 0
  (∀ (s : State) (crew hand pc bay : Nat) (j : Job) (h : Hand) (rd rs1 i b : Nat), CanExecute s crew hand pc 4 bay j h → i < 4 →
    1 ≤ b → b ≤ 64 → exec (.hxHash crew hand pc rd rs1 (64 * i + (b - 1))) s =
      .next ((s.at crew hand pc).modHand crew hand fun h' =>
        h'.setReg rd ((BitVec.ofNat 64 (h.reg rs1) * c i) >>> (64 - b)).toNat)) ∧
  (∀ table row i, table < 4096 → row < 2 ^ 40 → i < 4 → heatIndex i table row = 65536 * i + hxHash (table * 2 ^ 40 + row) (64 * i + 15)) ∧
  hxHash 1 3 = 9 ∧ hxHash 2 3 = 3 ∧ hxHash 1 15 = 40503

/-- hx.dedup marks the first occurrence of each key in a run of ascending keys, from one step to the next; it requires SEW = 64
and raises an illegal-instruction fault with vill set, another SEW, or a vd that overlaps the vs2 group (R286). -/
def Obligations.DedupMarksFirstOccurrences : Prop :=
  ∀ (s : State) (crew hand pc b : Nat) (j : Job) (h : Hand) (vd vs2 : Nat), CanExecute s crew hand pc 4 b j h →
    let u := s.at crew hand pc
    ((h.vill = true ∨ h.sew ≠ 64 ∨ vs2 ≤ vd ∧ vd < vs2 + h.lmul) →
      exec (.hxDedup crew hand pc vd vs2) s = .next (u.crewFault crew hand 1 pc 0)) ∧
    (h.vill = false → h.sew = 64 → h.lmul ∈ [1, 2, 4, 8] → vs2 % h.lmul = 0 → ¬(vs2 ≤ vd ∧ vd < vs2 + h.lmul) →
      let key := fun (i : Nat) => h.velem vs2 i
      ∃ mask last st, exec (.hxDedup crew hand pc vd vs2) s = .next (u.modHand crew hand fun h' =>
          { h' with v := h'.v.set (vd % 32) (mask % 2 ^ 256), dedupLast := last, dedupState := st }) ∧
        (∀ i, i < h.vl → mask.testBit i = if i = 0 then !(bit h.dedupState 0) || key 0 != h.dedupLast else key i != key (i - 1)) ∧
        (∀ i, h.vl ≤ i → mask.testBit i = false) ∧
        (h.vl = 0 → last = h.dedupLast ∧ st = h.dedupState) ∧
        (0 < h.vl → last = key (h.vl - 1) ∧ bit st 0 = true ∧
          (bit st 1 = true ↔ bit h.dedupState 1 = true ∨ (bit h.dedupState 0 = true ∧ key 0 < h.dedupLast) ∨
            ∃ i, 0 < i ∧ i < h.vl ∧ key i < key (i - 1))))

/-- SESSION_HELLO gives a fresh nonce that is good for one second, for the bay and client nonce it was asked for (R500);
SESSION_OPEN opens a session for a good nonce and a right proof (R501); SESSION_REATTACH gives a session a new token, lease and
carrier (R504). HEARTBEAT starts the lease again (R502), SESSION_CLOSE answers and ends the session (R503), SESSION_QUERY
reports the caller's session or, from device scope, a session of the bay named (R511). -/
def Obligations.SessionsAreOpenedAndKept : Prop :=
  (∀ (r : Req) (c : Caller) (s u : State) (p : List Byte) (b : Nat),
     (Runs specSessionHello r c s u p b →
       (∀ f ∈ u.net.ignored, some f.1 = u.sourceOf r.via → f.2 ≤ u.dev.now) →
       exec (.sessionHello r) s =
         let v := u.fresh.1 % 2 ^ 128
         let kept := u.net.nonces ++ [⟨v, c.bay, p, u.dev.now + 1000000000⟩]
         .next (({ u.fresh.2 with net.nonces := kept.drop (kept.length - 64) } : State).answerOk r (leBytes 16 v))) ∧
     (Runs specSessionOpen r c s u p b → onBoundBox u r.via = false →
       (u32At p 32 = 0 ∨ (100 ≤ u32At p 32 ∧ u32At p 32 ≤ 60000)) → u32At p 36 ≤ 3600 →
       (u.useNonce (leNat (slice 16 16 p))).1 = true →
       hmac (u.secret c.bay) (macInput (slice 16 16 p) (slice 0 16 p) (c.bay.getD 0xFFFF) (u32At p 32) (u32At p 36)) =
         slice 40 32 p →
       (u.net.sessions.filter fun x => x.state != .ended).length < 1024 →
       (c.bay.isSome = true → (u.baySessions c.bay).length < 256) →
       exec (.sessionOpen r) s =
         let lease := if u32At p 32 = 0 then 2000 else u32At p 32
         let hold := if u32At p 36 = 0 then 60 else u32At p 36
         let w := (u.useNonce (leNat (slice 16 16 p))).2
         let token := w.fresh.1 % 2 ^ 64
         let h := w.net.nextHandle
         let v : State := { w.fresh.2 with net.nextHandle := if h + 1 = 2 ^ 32 then 1 else h + 1 }
         .next (((v.putSession (newSession h token c.bay lease hold v.dev.now)).bindCarrier h r.via).answerOk r
           (leBytes 4 h ++ zeros 4 ++ leBytes 8 token ++ leBytes 4 lease ++ leBytes 4 hold))) ∧
     (Runs specSessionReattach r c s u p b → zeroAt p 4 4 = true →
       ∀ x, u.session (u32At p 0) = some x → holdOver x u.dev.now = false → x.bay = c.bay →
       (u.useNonce (leNat (slice 32 16 p))).1 = true → u64At p 8 = x.token →
       hmac (u.secret x.bay) (macInput (slice 32 16 p) (slice 16 16 p) (x.bay.getD 0xFFFF) x.leaseMs x.holdS ++
         leBytes 4 x.handle ++ leBytes 8 (u64At p 8)) = slice 48 32 p →
       exec (.sessionReattach r) s =
         let w := (u.useNonce (leNat (slice 32 16 p))).2
         let token := w.fresh.1 % 2 ^ 64
         .next (((w.fresh.2.modSession x.handle fun y =>
             { y with token := token, state := .opened, expiry := w.dev.now + leaseNs x.leaseMs }).bindCarrier x.handle r.via).answerOk
           r (leBytes 8 token ++ leBytes 4 x.leaseMs ++ leBytes 4 x.holdS)))) ∧
  (∀ (r : Req) (c : Caller) (s u : State) (p : List Byte) (b : Nat),
     (Runs specHeartbeat r c s u p b → ∀ x, u.session c.handle = some x → x.state = .opened → u.dev.now < x.expiry →
       exec (.heartbeat r) s =
         let e := u.dev.now + leaseNs x.leaseMs
         .next ((u.modSession x.handle fun y => { y with expiry := e }).answerOk r (timeBytes e ++ zeros 2))) ∧
     (Runs specSessionClose r c s u p b → exec (.sessionClose r) s = .next ((u.answerOk r []).endSession c.handle)) ∧
     (Runs specSessionQuery r c s u p b → ∀ x, c.bay.isSome = true → u.session c.handle = some x →
       Fits c (sessionBody u x) → exec (.sessionQuery r) s = .next (u.answerOk r (sessionBody u x))) ∧
     (Runs specSessionQuery r c s u p b → ∀ x, c.bay = none → zeroAt p 2 2 = true → u.session (u32At p 4) = some x →
       x.bay = some (u16At p 0) → Fits c (sessionBody u x) →
       exec (.sessionQuery r) s = .next (u.answerOk r (sessionBody u x))))

/-- QP_CONNECT makes a queue pair with a number that none bears and a free start PSN (R486); QP_DESTROY puts one of the caller's
into ERROR and frees it (R489); QP_QUERY reports one (R511). -/
def Obligations.QueuePairCommandsComplete : Prop :=
  ∀ (r : Req) (c : Caller) (s u : State) (p : List Byte) (b : Nat),
    (Runs specQpConnect r c s u p b → u32At p 0 < 2 ^ 24 → u32At p 4 < 2 ^ 24 → (u8At p 8 = 4 ∨ u8At p 8 = 6) →
      1 ≤ u8At p 9 → u8At p 9 ≤ 3 → (u8At p 10 = 0 ∨ (8 ≤ u8At p 10 ∧ u8At p 10 ≤ 20)) → u8At p 11 ≤ 7 → u8At p 12 < 8 →
      u8At p 13 < modeSubs (u.portMode (u8At p 12)) → u8At p 14 ≤ 7 →
      addrNamed (((u.subPort (u8At p 12) (u8At p 13)).map SubPort.addrs).getD []) (u8At p 8 == 6) (u8At p 14) = true →
      zeroAt p 15 1 = true → (u8At p 8 = 6 ∨ zeroAt p 20 12 = true) → 1 ≤ u32At p 44 → u32At p 44 ≤ 4096 →
      (u.net.qps.filter fun q => q.session == c.handle).length < 64 →
      (u.net.qps.filter fun q => q.bay == some b).length < 4096 → u.net.qps.length < 16384 →
      ∃ (q : Qp) (t : State), exec (.qpConnect r) s =
          .next (t.answerOk r (leBytes 4 q.qpn ++ leBytes 4 q.nextPsn ++ leBytes 4 (u.ringBytes b) ++
            leBytes 4 (u.bay b).core.keys.hatch)) ∧
        t = { u.fresh.2 with net.qps := u.net.qps ++ [q], net.nextQpn := (q.qpn + 1) % 2 ^ 24 } ∧
        q.nextPsn = u.fresh.1 % 2 ^ 24 ∧
        q.qpn = freeQpn (u.net.qps.map Qp.qpn) (u.net.qps.length + 1) u.net.nextQpn ∧
        q.session = c.handle ∧ q.bay = some b ∧ q.port = u8At p 12 ∧ q.sub = u8At p 13 ∧ q.clientQpn = u32At p 0 ∧
        q.clientIp = ⟨u8At p 8 == 6, beNat (slice 16 (if u8At p 8 = 6 then 16 else 4) p)⟩ ∧ q.mtu = 512 * 2 ^ u8At p 9 ∧
        q.timeoutExp = (if u8At p 10 = 0 then 10 else u8At p 10) ∧ q.retryMax = (if u8At p 11 = 0 then 7 else u8At p 11) ∧
        q.ring = ⟨u64At p 32, u32At p 40, u32At p 44, 0⟩ ∧ q.error = none ∧ q.unacked = []) ∧
    (Runs specQpDestroy r c s u p b → ∀ q, u.qp (u32At p 0) = some q → q.session = c.handle → zeroAt p 4 4 = true →
      exec (.qpDestroy r) s = .next (((u.qpError (u32At p 0) 2).freeQp (u32At p 0)).answerOk r [])) ∧
    (Runs specQpQuery r c s u p b → ∀ q, u.qp (u32At p 0) = some q → q.session = c.handle → zeroAt p 4 4 = true →
      let body := leBytes 1 (flag q.error.isSome) ++ leBytes 1 (q.error.getD 0) ++ leBytes 1 q.port ++ leBytes 1 q.sub ++
        leBytes 4 (q.rateKb / 1000) ++ leBytes 8 q.sent ++ leBytes 8 q.retransmitted ++ leBytes 8 q.cnps
      Fits c body → exec (.qpQuery r) s = .next (u.answerOk r body))

/-- A lease that has run out makes its session ORPHANED with its hold before it (R503); a hold that has run out ends the session
(R503); nonces older than one second are discarded (R500). -/
def Obligations.SessionsExpire : Prop :=
  ∀ (h : Nat) (s : State) (x : Session),
    (s.session h = some x → x.state = .opened → x.expiry ≤ s.dev.now → s.dev.steward = .running →
      exec (.leaseExpiry h) s =
        .next ((s.modSession h fun y => { y with state := .orphaned, expiry := x.expiry + holdNs x.holdS }).raise 0x0707 1 x.bay
          none (leBytes 4 h))) ∧
    (s.session h = some x → x.state = .orphaned → x.expiry ≤ s.dev.now → s.dev.steward = .running →
      exec (.holdExpiry h) s = .next ((s.raise 0x0708 1 x.bay none (leBytes 4 h)).endSession h)) ∧
    (exec .nonceExpiry s = .next { s with net.nonces := s.net.nonces.filter fun n => decide (s.dev.now < n.expiry) })

/-- BAY_CREATE makes a bay in FORMING with the shares, keys and regulators it carries and the crews, stream contexts and areas
these give it; BAY_SET_SHARES replaces the shares of a FORMING bay; BAY_SET_REGULATORS leaves new minimums and caps for the next
window (R70, R77). -/
def Obligations.BaysAreFormed : Prop :=
  ∀ (r : Req) (c : Caller) (s u : State) (p : List Byte) (b : Nat),
    let sh := sharesAt p
    let crews := freeCrews u b 0 (natAt sh.crews 0) ++ freeCrews u b 1 (natAt sh.crews 1)
    let groups := freeGroups u b 0 (natAt sh.contexts 0) ++ freeGroups u b 1 (natAt sh.contexts 1)
    (Runs specBayCreate r c s u p b → u.dev.parking = .none → Good (shareChecks p) → zeroAt p 100 4 = true →
      Good (regChecks u p 136) → u.flash.loftToZero = [] → selftestHolds u = false → marginHolds u sh = false →
      sharesFit u b sh = true → areasFit sh 64 = true → minsFit u b (regsAt p 136) = true →
      exec (.bayCreate r) s = .next (((u.modBay b fun _ => { Bay.absent with
          core := { BayCore.absent with
            life := { BayCore.absent.life with state := .forming }, shares := sh, retentionMiB := 64,
            keys := ⟨slice 64 32 p, u32At p 96, slice 104 32 p⟩, regs := regsAt p 136 }
          crews := crews, groups := groups, space := u.carve b sh 64 }).recordLoft b sh).answerOk r [])) ∧
    (Runs specBaySetShares r c s u p b → Good (shareChecks p) → marginHolds u sh = false → sharesFit u b sh = true →
      areasFit sh (u.bay b).core.retentionMiB = true →
      exec (.baySetShares r) s = .next (((u.modBay b fun y => { y with
          core := { y.core with shares := sh }, crews := crews, groups := groups,
          space := u.carve b sh y.core.retentionMiB }).recordLoft b sh).answerOk r [])) ∧
    (Runs specBaySetRegulators r c s u p b → zeroAt p 1 7 = true → Good (regChecks u p 8) → minsFit u b (regsAt p 8) = true →
      exec (.baySetRegulators r) s =
        .next ((u.modBay b fun y => { y with core := { y.core with regsNext := some (regsAt p 8) } }).answerOk r []))

/-- BAY_OPEN opens a FORMING bay, the first OPEN one having Varlet's votes placed on quad 0 of each die and the quads woken (R264);
BAY_DRAIN starts the drain of an OPEN one; BAY_DESTROY starts the zeroisation of a bay that is FORMING or has drained, and
leaves it wanted in one that is draining; BAY_REKEY replaces the keys its mask selects; BAY_QUERY reports (R61, R77 to R80,
R602, R603). -/
def Obligations.BayCommandsComplete : Prop :=
  ∀ (r : Req) (c : Caller) (s u : State) (p : List Byte) (b : Nat),
    (Runs specBayOpen r c s u p b → u.dev.parking = .none → zeroAt p 1 7 = true →
      let v := ((u.modLife b fun l => { l with state := .opened }).modBay b fun y =>
        { y with granary := { y.granary with refreshAt := some (u.dev.now + 1000000 * y.granary.refreshMs) } }).quadVotes
      exec (.bayOpen r) s = .next ((if ∀ y ∈ u.bays, y.core.life.state ≠ .opened then (v.wakeUp 34 0).wakeUp 38 0 else v).answerOk r [])) ∧
    (Runs specBayDrain r c s u p b → zeroAt p 1 7 = true →
      exec (.bayDrain r) s = .next ((u.modLife b fun l =>
        { l with state := .draining, drainStart := some u.dev.now, destroyWanted := false }).quadVotes.answerOk r [])) ∧
    (Runs specBayDestroy r c s u p b → zeroAt p 1 7 = true → (u.bay b).core.life.state = .draining →
      (u.bay b).core.life.drainStart.isSome = true →
      exec (.bayDestroy r) s = .next ((u.modLife b fun l => { l with destroyWanted := true }).answerOk r [])) ∧
    (Runs specBayDestroy r c s u p b → zeroAt p 1 7 = true →
      ((u.bay b).core.life.state = .forming ∨ (u.bay b).core.life.drainStart = none) →
      exec (.bayDestroy r) s = .next ((u.enterZeroing b).answerOk r [])) ∧
    (Runs specBayRekey r c s u p b → u8At p 1 < 8 → zeroAt p 2 6 = true → zeroAt p 44 4 = true →
      (bit (u8At p 1) 0 = true ∨ zeroAt p 8 32 = true) → (bit (u8At p 1) 1 = true ∨ zeroAt p 40 4 = true) →
      (bit (u8At p 1) 2 = true ∨ zeroAt p 48 32 = true) →
      exec (.bayRekey r) s = .next ((u.modBay b fun y => { y with core := { y.core with keys :=
        { admission := if bit (u8At p 1) 0 then slice 8 32 p else y.core.keys.admission
          hatch := if bit (u8At p 1) 1 then u32At p 40 else y.core.keys.hatch
          hand := if bit (u8At p 1) 2 then slice 48 32 p else y.core.keys.hand } } }).answerOk r [])) ∧
    (Runs specBayQuery r c s u p b → zeroAt p 1 7 = true →
      let y := u.bay b
      let k := y.core.counters
      let body := leBytes 1 (bayCode y.core.life.state) ++ zeros 7 ++ sharesBytes b y.core.shares ++ regsBytes y.core.regs ++
        leBytes 4 (u.baySessions (some b)).length ++ leBytes 4 (u.bayWork b).length ++
        [k.rejected, k.malformed, k.placement, k.handFaults, k.doorbellFull, k.badDoorbells, k.late].flatMap (leBytes 4)
      Fits c body → exec (.bayQuery r) s = .next (u.answerOk r body))

/-- HAND_LOAD verifies a program image and places it in the bay's store and crews; HAND_UNLOAD removes one nothing names;
HAND_BIND names the program of a table's role; HAND_RUN queues a job on the crews its mask names; HAND_QUERY reports (R291 to
R296). -/
def Obligations.HandCommandsComplete : Prop :=
  ∀ (r : Req) (c : Caller) (s u : State) (p : List Byte) (b : Nat),
    (Runs specHandLoad r c s u p b → AccessesNow true doHandLoad (ctxOf c r p b) u → Good (bulkChecks p 0 [2] (u.ringBytes b)) →
      let m := bulkSource u b p 0 24
      let v := (takeSource (ctxOf c r p b) u 0 24).2
      let g := programOf m
      let old := (u.bay b).work.programs.find? fun q => q.no == g.no
      let others := (u.bay b).work.programs.filter fun q => q.no != g.no
      (imageChecks m).all id = true → Config.ed25519 (u.bay b).core.keys.hand (m.take (m.length - 64)) (m.drop (m.length - 64)) = true →
      u.programRuns b g.no = false → u.programQueued b g.no = false → programFits others g = true →
      ∀ runs t, (v.modBay b fun y => { y with space :=
          ((old.map Program.store).getD []).foldl (fun sp x => sp.freeSilo x 0) y.space }).allocBytes b m.length = some (runs, t) →
      ∀ body, body = leBytes 1 g.no ++ zeros 7 ++ leBytes 8 g.buildId → Fits c body →
        let t' := (State.fillRuns b runs (padTo 64 m) t).modBay b fun y => { y with work := { y.work with
          programs := sortBy Program.no ({ g with store := runs } :: others) } }
        exec (.handLoad r) s = .next (((t'.bay b).crews.foldl (fun s k =>
          State.write (State.write s .store k 0 g.codeAddr (slice 64 g.codeSize m)) .store k 0 g.dataAddr
            (slice (64 + g.codeSize) g.dataSize m)) t').answerOk r body)) ∧
    (Runs specHandUnload r c s u p b → zeroAt p 1 7 = true → 1 ≤ u8At p 0 →
      ((u.bay b).work.programs.any fun g => g.no == u8At p 0) = true →
      ((u.bay b).work.bindings.any fun x => x.program == u8At p 0) = false → u.programRuns b (u8At p 0) = false →
      (∀ x ∈ u.dp.sheafs, x.bay = b → (∃ e ∈ x.bindings, e.program = u8At p 0) →
        x.phase ≠ .accepted ∧ x.phase ≠ .queued ∧ x.phase ≠ .held) →
      exec (.handUnload r) s = .next ((u.modBay b fun y => { y with
        work := { y.work with programs := y.work.programs.filter fun g => g.no != u8At p 0 }
        space := (List.flatMap Program.store ((u.bay b).work.programs.filter fun g => g.no == u8At p 0)).foldl
          (fun sp x => sp.freeSilo x u.dev.accepted) y.space }).answerOk r [])) ∧
    (Runs specHandBind r c s u p b → ∀ t, u.table b (u16At p 0) = some t → t.life = .live →
      (u8At p 2 = 1 ∨ u8At p 2 = 2) →
      (u8At p 3 = 0 ∨ ((u.bay b).work.programs.any fun g => g.no == u8At p 3 && bit g.roles (u8At p 2 - 1)) = true) →
      (u32At p 4 = 0 ∨ (10 ≤ u32At p 4 ∧ u32At p 4 ≤ 100000)) → u.net.parked.any (u.changesTable b t.id) = false → u.preparedOn b t.id = false →
      exec (.handBind r) s = .next ((u.modBay b fun y => { y with work := { y.work with
        bindings := sortBy (fun x => 4 * x.table + x.role)
          (⟨t.id, u8At p 2, u8At p 3, if u32At p 4 = 0 then 1000 else u32At p 4⟩ ::
            y.work.bindings.filter fun x => !(x.table == t.id && x.role == u8At p 2)) } }).answerOk r [])) ∧
    (Runs specHandRun r c s u p b → AccessesNow true doHandRun (ctxOf c r p b) u →
      ((u.bay b).work.programs.any fun g => g.no == u8At p 0 && bit g.roles 2) = true →
      zeroAt p 1 3 = true → 1 ≤ (maskCrews (u32At p 4)).length → (maskCrews (u32At p 4)).length ≤ 16 →
      (∀ k ∈ maskCrews (u32At p 4), k ∈ (u.bay b).crews) → u32At p 8 ≤ 10000 → zeroAt p 12 4 = true →
      Good (bulkChecks p 16 [1, 2] (u.ringBytes b)) → (bulkAt p 16).length ≤ 4096 →
      let v := (takeSource (ctxOf c r p b) u 16 40).2
      let j := v.startJob (ctxOf c r p b) .handRun [] [] [u8At p 0, u32At p 4, if u32At p 8 = 0 then 100 else u32At p 8]
      exec (.handRun r) s = .next ((maskCrews (u32At p 4)).foldl
        (fun s k => State.modCrew s k fun y => { y with runs := y.runs ++ [j.1] })
        (j.2.modJob j.1 fun w => { w with data := bulkSource u b p 16 40 }))) ∧
    (Runs specHandQuery r c s u p b → u16At p 0 ≤ 4095 → zeroAt p 2 6 = true →
      let y := u.bay b
      let later := y.work.bindings.filter fun e => decide (u16At p 0 ≤ e.table)
      let l := if 128 < later.length ∧ (later[128]?).map Binding.table = ((later.take 128).getLast?).map Binding.table
        then later.take 127 else later.take 128
      let body := leBytes 1 y.work.programs.length ++ leBytes 1 l.length ++
        leBytes 2 (((later[l.length]?).map Binding.table).getD 0xFFFF) ++
        leBytes 4 y.core.counters.handFaults ++
        (y.work.programs.flatMap fun q => leBytes 1 q.no ++ leBytes 1 q.roles ++ zeros 6 ++ leBytes 4 q.codeSize ++
          leBytes 4 q.dataSize ++ leBytes 8 q.buildId) ++
        l.flatMap fun e => leBytes 2 e.table ++ leBytes 1 e.role ++ leBytes 1 e.program ++ leBytes 4 e.budgetUs
      Fits c body → exec (.handQuery r) s = .next (u.answerOk r body))

/-- TETHER_REGION_REG gives a span of host memory the next key; TETHER_REGION_DEREG revokes one and answers once its accesses
are out; TETHER_BIAS_SET starts a change of bias, TETHER_COPY_IN and TETHER_COPY_OUT a copy; TETHER_QUERY reports;
TETHER_RELAY_SET writes a relay's entry and zeroes its counts in host memory (R563, R567, R570 to R572, R578). On an attached
tether: a BAR2 write goes into the ring of its window's bay or is counted as dropped; a doorbell word is taken, or counted as
full or bad; TTH_EVENT is cleared by ones; a BAR0 read returns its register and clears an RC counter; an access of the wrong
size and a read of BAR2 are counted and read as zero; a mailbox takes a submit or counts it, and clears its status bits by ones;
a mailbox response is written to its ring; every snoop is answered (R543, R545, R547, R551 to R562). -/
def Obligations.TetherCommandsAndRegistersComplete : Prop :=
  (∀ (r : Req) (c : Caller) (s u : State) (p : List Byte) (b : Nat),
     (Runs specTetherRegionReg r c s u p b → u8At p 16 ≤ 1 →
       let pg := pageBytes (u8At p 16)
       let g : Region :=
         { key := u.tth.nextKey, bay := b, base := u64At p 0, len := u64At p 8, pageSize := u8At p 16, write := bit (u8At p 17) 0,
           read := bit (u8At p 17) 1, vector := if u8At p 19 = 0xFF then none else some (u8At p 19),
           owned := if u8At p 18 = 1 then List.range (u64At p 8 / pg) else [], closing := none }
       u64At p 0 % pg = 0 → u64At p 8 % pg = 0 → u64At p 8 ≤ 2 ^ 40 → u64At p 0 + u64At p 8 ≤ 2 ^ 64 → u8At p 17 ≤ 3 →
       (u8At p 18 = 0 ∨ (u8At p 18 = 1 ∧ g.read = true)) → (u8At p 19 ≤ 63 ∨ u8At p 19 = 0xFF) → zeroAt p 20 4 = true →
       u.tth.attached = true → (u.tth.regions.filter fun x => x.bay == b).length < 1024 → u.tth.regions.length < 4096 →
       u.pageEntries + g.pages ≤ 262144 → ∀ body, body = leBytes 4 g.key ++ zeros 4 → Fits c body →
       exec (.tetherRegionReg r) s = .next (({ u with
         tth.regions := u.tth.regions ++ [g]
         tth.nextKey := if u.tth.nextKey + 1 = 2 ^ 32 then 1 else u.tth.nextKey + 1 }).answerOk r body)) ∧
     (Runs specTetherRegionDereg r c s u p b → (u.ownRegion b (u32At p 0)).isSome = true → zeroAt p 4 4 = true →
       let j := u.startJob (ctxOf c r p b) .dereg [] [] [u32At p 0]
       exec (.tetherRegionDereg r) s = .next ({ j.2 with
         tth.regions := j.2.tth.regions.map fun (x : Region) =>
            if x.key = u32At p 0 then { x with closing := some j.1 } else x } : State).tetherRun) ∧
     (Runs specTetherBiasSet r c s u p b → ∀ g, u.ownRegion b (u32At p 0) = some g → g.read = true → u8At p 4 ≤ 1 →
       zeroAt p 5 3 = true → u64At p 8 % pageBytes g.pageSize = 0 → u64At p 16 % pageBytes g.pageSize = 0 →
       u64At p 8 + u64At p 16 ≤ g.len →
       exec (.tetherBiasSet r) s = .next (u.startJob (ctxOf c r p b) .bias [] []
         [u32At p 0, u64At p 8 / 64, u64At p 16 / 64, u8At p 4]).2.tetherRun) ∧
     (∀ g, u.ownRegion b (u32At p 0) = some g → (u8At p 4 = 1 ∨ u8At p 4 = 2) → zeroAt p 5 3 = true → u64At p 8 % 64 = 0 →
       1 ≤ u32At p 24 → u32At p 24 ≤ 1048576 → u64At p 8 + 64 * u32At p 24 ≤ g.len → zeroAt p 28 4 = true →
       u.tth.attached = true →
       (Runs specTetherCopyIn r c s u p b → g.read = true → u.dstOk b 0 (u8At p 4) (u64At p 16) (u32At p 24) = true →
         exec (.tetherCopyIn r) s = .next (u.startJob (ctxOf c r p b) .copyIn [] [0, 0]
           [u8At p 4, u64At p 16, u32At p 0, u64At p 8, u32At p 24]).2.tetherRun) ∧
       (Runs specTetherCopyOut r c s u p b → g.write = true → u.spaceIn b 0 (u8At p 4) (u64At p 16) (u32At p 24) = true →
         exec (.tetherCopyOut r) s = .next (u.startJob (ctxOf c r p b) .copyOut [] [0, 0]
           [u8At p 4, u64At p 16, u32At p 0, u64At p 8, u32At p 24]).2.tetherRun)) ∧
     (Runs specTetherQuery r c s u p b →
       let body := leBytes 1 (flag u.tth.attached) ++ leBytes 1 u.tth.protocol ++ leBytes 1 u.tth.gen ++ leBytes 1 u.tth.width ++
         leBytes 4 u.tth.regions.length ++ leBytes 4 u.pageEntries ++ u.tth.counters.flatMap (leBytes 4)
       Fits c body → exec (.tetherQuery r) s = .next (u.answerOk r body)) ∧
     (Runs specTetherRelaySet r c s u p b → u64At p 0 ≠ u.net.muster.config.nodeId → u64At p 8 % 2097152 = 0 → u8At p 16 ≤ 1 →
       zeroAt p 17 7 = true → ∀ i, u.relayPlace (u64At p 0) = some i →
       let g : Relay :=
         { peer := u64At p 0, base := u64At p 8, enabled := u8At p 16 == 1, produced := 0, consumed := 0, alive := 0,
           peerProduced := 0, peerConsumed := 0, peerAlive := 0, peerAliveAt := none, polledAt := u.dev.now, aliveAt := u.dev.now,
           queue := [] }
       let v : State := { u with fab.relays := if i < u.fab.relays.length then u.fab.relays.set i g else u.fab.relays ++ [g] }
       exec (.tetherRelaySet r) s = .next ((if u8At p 16 = 1 then
         ((v.relayCount g (relayProducer (v.relayDir g)) 0).relayCount g (relayConsumer (1 - v.relayDir g)) 0).relayCount g
           (relayAlive (v.relayDir g)) 0 else v).answerOk r []))) ∧
  (∀ (s : State), s.tth.attached = true →
     (∀ bay off data, bay ≤ 15 → exec (.bar2Write bay off data) s =
       .next (if s.hatchSize bay < off + data.length then (s.tthCount 0).tthEvent 3 else s.placeRing bay off data)) ∧
     (∀ bay value, bay ≤ 15 → exec (.tthDoorbell bay value) s =
       .next (if s.doorbellFull bay then ((s.countFull bay).tthCount 1).tthEvent 1
         else if bits value 43 21 ≠ 0 then s.badDoorbell bay (bits value 0 32) (bits value 32 11 + 1) 0
         else s.ring bay 0 .tether none (bits value 0 32) (bits value 32 11 + 1))) ∧
     (∀ value, exec (.tthEvent value) s = .next { s with tth.event := s.tth.event - (s.tth.event &&& value) }) ∧
     (∀ off, exec (.tthCounterRead off) s = .next ((if 0x400 ≤ off ∧ off < 0x430
       then { s with tth.counters := s.tth.counters.set ((off - 0x400) / 8) 0 } else s).emit (.readData (s.tthReg off)))) ∧
     (∀ off isRead, exec (.tthBadAccess off isRead) s =
       .next (if isRead then (s.tthCount 5).emit (.readData 0) else s.tthCount 5)) ∧
     (∀ bar off, (bar = 2 ∨ (bar = 0 ∧ 0x80000 ≤ off ∧ off < 0x100000)) →
       exec (.bar2Read bar off) s = .next ((s.tthCount 4).emit (.readData 0))) ∧
     (∀ box value m, box ≤ 31 → s.box box = some m →
       exec (.tthMboxSubmit box value) s =
         .next (if bits value 0 16 < 16 ∨ 4096 < bits value 0 16 ∨ (m.submitted.any fun x => x.1 == bits value 16 2) = true
           then ((s.modBox box fun m => { m with overrun := true }).tthCount 3).tthEvent 2
           else s.modBox box fun m => { m with submitted := m.submitted ++ [(bits value 16 2, bits value 0 16)] })) ∧
     (∀ box value m, box ≤ 31 → s.box box = some m →
       exec (.tthMboxStatus box value) s = .next (s.modBox box fun m =>
         { m with overrun := m.overrun && !bit value 1, ringFault := m.ringFault && !bit value 2 })) ∧
     (∀ addr, s.tth.protocol ≠ 0 → exec (.hostSnoop addr) s = .next (s.emit .snoopResponse)) ∧
     (∀ box failed m msg rest, box ≤ 31 → s.box box = some m → m.toWrite = msg :: rest →
       let s' := s.modBox box fun m => { m with toWrite := rest }
       let w := (s'.emit (.hostWrite (m.ring + 4096 * (m.count % m.slots)) msg false)).count 0x0600 6 msg.length
       exec (.mailboxResponse box failed) s = .next (
         if m.slots = 0 then s'.modBox box fun m => { m with ringFault := true }
         else if failed then w.modBox box fun m => { m with ringFault := true }
         else ((w.modBox box fun m => { m with count := m.count + 1 }).emit
           (.hostWrite (m.ring + 4096 * m.slots) (leBytes 8 (m.count + 1)) false)).emit (.msix (box + 1)))))

/-- A moderated vector signals when its time bound runs out; a read of host memory delivers its granules or is chaffed; a read
of the lofts, a remote node or the host that has waited its bay's timeout is quarantined and chaffed; a flush of host lines lets
the bias change commit; attaching and resetting the tether (R331, R531, R566, R568, R570, R571, R575 to R577). -/
def Obligations.TetherEventsComplete : Prop :=
  ∀ (s : State),
    (∀ n, n ≤ 2047 → 0 < (s.vec n).pending → 0 < (s.vec n).time → (s.vec n).since + 1000 * (s.vec n).time ≤ s.dev.now →
      exec (.vectorModerationTimer n) s = .next (s.signalVec n)) ∧
    (∀ id failed data r, findKey Read.id s.dp.reads id = some r → r.space = 8 →
      exec (.hostReadCompletion id failed data) s = .next (
        if failed then ((s.tthEvent 4).quarantine r).chaffRead r
        else (s.count 0x0600 7 (64 * r.granules)).deliver' r (items r.granules fun i => some (fit 64 (slice (64 * i) 64 data))))) ∧
    (∀ id r t, findKey Read.id s.dp.reads id = some r → r.timeout = some t → t ≤ s.dev.now → r.started = true →
      (∀ q ∈ s.fab.requests, q.id = id → q.pausedAt = none) →
      exec (.endToEndTimeout id) s = .next (
        if r.space = 8 then ((s.tthEvent 4).quarantine r).chaffRead r else (s.quarantine r).chaffAll r)) ∧
    (∀ id w, s.job id = some w → w.kind = .bias → w.at_ = 1 →
      exec (.clflushComplete id) s = .next (s.biasCommit w).tetherRun) ∧
    (∀ cause, s.tth.attached = true → cause ≤ 4 →
      let v := s.loseTether.revokeRegions
      let w : State := { v with
        tth := { Tether.initial with nextKey := v.tth.nextKey }
        fab.relays := v.fab.relays.map fun r => { r with enabled := false, queue := [] } }
      exec (.tetherReset cause) s = .next (((w.withdrawVotes 18).abortMargins 4 0 0).raise 0x0902 1 none (some 0) (leBytes 1 cause))) ∧
    (∀ protocol gen width, s.tth.attached = false → s.lan.tthDisable ≠ 0 → s.serving (.mailbox 0) = true → s.domainA0 62 = true →
      linkTaken protocol gen width = true →
      exec (.tetherAttach protocol gen width) s = .next (({ s with
        tth.attached := true, tth.ready := true, tth.protocol := protocol, tth.gen := gen, tth.width := width } : State).raise
          0x0903 0 none (some 0) (leBytes 1 protocol ++ leBytes 1 gen ++ leBytes 1 width)))

/-- A relay that is enabled, on an attached tether, is polled every 2 µs: its new slots are copied out and its consumer count
written; a slot that waited is written once there is room; its alive count rises every 1 ms (R573, R574). A FABRIC_SEGMENT
datagram joins its message or is counted as discarded, and a message not whole 1 ms after its first segment is dropped (R527,
R528). -/
def Obligations.RelaysAndSegmentsComplete : Prop :=
  ∀ (s : State),
    (∀ i r produced consumed alive slots, s.tth.attached = true → s.fab.relays[i]? = some r → r.enabled = true →
      r.polledAt + 2000 ≤ s.dev.now →
      let n := min (produced - r.consumed) 256
      let v := s.modRelay i fun r => { r with
        polledAt := s.dev.now, peerProduced := produced, peerConsumed := max r.peerConsumed (min consumed r.produced),
        peerAlive := alive, peerAliveAt := if alive = r.peerAlive then r.peerAliveAt else some s.dev.now }
      let w := (slots.take n).foldl (fun s x => State.relaySlot s i x) v
      exec (.relayPoll i produced consumed alive slots) s = .next (if n = 0 then v
        else (w.modRelay i fun r => { r with consumed := r.consumed + n }).relayCount r (relayConsumer (1 - w.relayDir r))
          (r.consumed + n))) ∧
    (∀ i r x rest, s.tth.attached = true → s.fab.relays[i]? = some r → r.enabled = true → r.queue = x :: rest →
      r.produced - r.peerConsumed < 256 →
      exec (.relaySend i) s = .next (s.relayPut i { r with queue := rest } x)) ∧
    (∀ i r, s.tth.attached = true → s.fab.relays[i]? = some r → r.enabled = true → r.aliveAt + 1000000 ≤ s.dev.now →
      exec (.relayAlive i) s = .next ((s.modRelay i fun r => { r with alive := r.alive + 1, aliveAt := s.dev.now }).relayCount r
        (relayAlive (s.relayDir r)) (r.alive + 1))) ∧
    (∀ port sub src srcPort msg, (headerOf msg).op = 0x0B40 → s.linkUp port sub = true → s.portOn port = true →
      let r : Req := ⟨.udp port sub src srcPort, msg⟩
      let h := headerOf msg
      s.serving r.via = true → exec (.fabricSegment r) s = .next (
        if h.version = 2 ∧ h.flags = 0 ∧ h.bay = 0xFFFF ∧ h.handle = 0 ∧ msg.length = 16 + h.len ∧ segmentOk (msg.drop 16) = true ∧
            s.senderOk r.via (u16At (msg.drop 16) 8) = true
        then s.segmentIn (port / 4) h.tag (msg.drop 16) else s.dropSegment)) ∧
    (∀ die sender id, die ≤ 1 →
      let late := fun (r : Reasm) => r.die == die && r.sender == sender && r.id == id && decide (r.startedAt + 1000000 ≤ s.dev.now)
      s.fab.reasm.any late = true →
      exec (.reassemblyTimeout die sender id) s = .next (({ s with
        fab.reasm := s.fab.reasm.filter fun r => !late r
        fab.reasmDrops := satAdd 64 s.fab.reasmDrops 1 }).count 0x400 6 1))

/-- TABLE_CREATE makes the table of its descriptor, TABLE_DESTROY starts its destruction, TABLE_QUERY reports it; DIR_WRITE
changes directory entries and DIR_READ reads them; ROW_WRITE stores rows and ROW_READ reads them; DEFAULT_ROW_SET stores the
default row (R148 to R179, R198, R199). -/
def Obligations.TableCommandsComplete : Prop :=
  ∀ (r : Req) (c : Caller) (s u : State) (p : List Byte) (b : Nat),
    (Runs specTableCreate r c s u p b → AccessesNow false doTableCreate (ctxOf c r p b) u → Good (descChecks p) →
      u.table b (descAt p).id = none → u.net.parked.any (u.changesTable b (descAt p).id) = false → u.preparedOn b (descAt p).id = false →
      ∀ v, u.createTable b (descAt p) ⟨0, [⟨0, (descAt p).rows - 1, selfNode, 0⟩]⟩ [(0, (descAt p).rows)] = some v →
      exec (.tableCreate r) s = .next (v.answerOk r [])) ∧
    (∀ t, TableFree u b (u16At p 0) t →
      (Runs specTableDestroy r c s u p b → zeroAt p 2 6 = true → u.tableMoving b t.id = false →
        exec (.tableDestroy r) s = .next (u.carriedOut (ctxOf c r p b) t
          (u.putTable b { t with life := .destroying, destroyBefore := u.dev.accepted }))) ∧
      (Runs specDirWrite r c s u p b → AccessesNow false doDirWrite (ctxOf c r p b) u → u8At p 2 ≤ 3 → zeroAt p 3 1 = true → 1 ≤ u16At p 4 →
        u16At p 4 ≤ 500 →
        zeroAt p 6 2 = true → anyHeld u b t.id (rowsAt p 8 (u16At p 4)) = false →
        let d := eachItem (fun x s => dirItem b (u8At p 2) x s t) (rowsAt p 8 (u16At p 4)) u
        Fits c (statusBody d.1) → exec (.dirWrite r) s = .next (d.2.answerOk r (statusBody d.1))) ∧
      (∀ its sizes : _, its = (items (u16At p 4) fun i => (u64At p (32 + 16 * i), u8At p (40 + 16 * i), u8At p (41 + 16 * i))) →
        sizes = (its.map fun x => roundUp (if u8At p 2 = 1 then t.rowBytes x.2.1 else 4 * t.desc.dim) 8) →
        Runs specRowWrite r c s u p b → AccessesNow false doRowWrite (ctxOf c r p b) u → u8At p 2 ≤ 1 →
        zeroAt p 3 1 = true → 1 ≤ u16At p 4 → u16At p 4 ≤ 250 →
        zeroAt p 6 2 = true → Good (bulkChecks p 8 [1, 2] (u.ringBytes b)) →
        (∀ i, i < u16At p 4 → zeroAt p (42 + 16 * i) 6 = true ∧ (u8At p 2 = 1 → u8At p (40 + 16 * i) < t.desc.tiers)) →
        (bulkAt p 8).length = sumBy id sizes → anyHeld u b t.id (its.map Prod.fst) = false →
        anyRead u b t (its.map Prod.fst) = false →
        let v := takeSource (ctxOf c r p b) u 8 (32 + 16 * u16At p 4)
        let d := eachItem (fun x s => rowWriteItem b (u8At p 2) x s t)
          ((its.zip (cutSource sizes v.1)).map fun x => (x.1.1, x.1.2.1, x.1.2.2, x.2)) v.2
        Fits c (statusBody d.1) → exec (.rowWrite r) s = .next (d.2.answerOk r (statusBody d.1))) ∧
      (Runs specDefaultRowSet r c s u p b → AccessesNow false doDefaultRowSet (ctxOf c r p b) u →
        t.desc.defaultConfigured = true → zeroAt p 2 6 = true →
        Good (bulkChecks p 8 [1, 2] (u.ringBytes b)) → (bulkAt p 8).length = 4 * t.desc.dim → u.defaultHeld b t.id = false →
        ∀ a, t.defRow = some a → u.readBefore b 1 a.first a.len = false →
        let v := takeSource (ctxOf c r p b) u 8 32
        let e := encodeRow (t.point 0) (items t.desc.dim fun j => u32At v.1 (4 * j))
        let w := v.2.setRow b 1 a.first e.1
        exec (.defaultRowSet r) s = .next (u.carriedOut (ctxOf c r p b) t
          (((w.chargeAccess b (siloDie (((v.2.bay b).space.siloOf a.first).getD 0)) 1 a.first a.len true).snoopDefault b t.id
            a.first).countSat b t.id 0 e.2)))) ∧
    (Runs specTableQuery r c s u p b → ∀ t, u.table b (u16At p 0) = some t → zeroAt p 2 6 = true →
      let rows := items 4 fun k => (u.tierRows b t k).length
      let body := t.desc.bytes ++ rows.flatMap (leBytes 8) ++ (rows.zipIdx.flatMap fun n => leBytes 8 (n.1 * t.rowGranules n.2)) ++
        leBytes 8 t.counters.defaulted ++ leBytes 8 t.counters.aliased ++ leBytes 8 t.counters.discarded ++
        leBytes 1 (lifeCode t.life) ++ zeros 7
      Fits c body → exec (.tableQuery r) s = .next (u.answerOk r body)) ∧
    (∀ t, TableThere u b (u16At p 0) t →
      (Runs specDirRead r c s u p b → AccessesNow true doDirRead (ctxOf c r p b) u → 1 ≤ u16At p 2 → u16At p 2 ≤ 250 → zeroAt p 4 4 = true →
        let d := eachRead (fun x s => dirReadItem b x s t) (rowsAt p 8 (u16At p 2)) u
        let body := statusBody (d.1.map Prod.fst) ++ d.1.flatMap fun x => leBytes 8 x.2
        Fits c body → exec (.dirRead r) s = .next (d.2.answerOk r body)) ∧
      (Runs specRowRead r c s u p b → AccessesNow true doRowRead (ctxOf c r p b) u → u8At p 2 ≤ 1 →
        zeroAt p 3 1 = true → 1 ≤ u16At p 4 → u16At p 4 ≤ 250 →
        zeroAt p 6 2 = true → Good (bulkChecks p 8 [1, 3] 0) →
        let d := eachRead (fun x s => rowReadItem b (u8At p 2) x s t) (rowsAt p 32 (u16At p 4)) u
        let data := d.1.flatMap fun x => padTo 16 x.2.2.2
        destBad (ctxOf c r p b) u 8 (8 * u16At p 4) data.length = none →
        let v := placeDest (ctxOf c r p b) d.2 8 data
        let body := (d.1.flatMap fun x => leBytes 2 x.1.code ++ leBytes 1 x.2.1 ++ leBytes 1 x.2.2.1 ++ leBytes 4 x.2.2.2.length) ++ v.1
        Fits c body → exec (.rowRead r) s = .next (v.2.answerOk r body)))

/-- HEAT_SNAPSHOT copies the sketch and applies its action; HEAT_READ reads the latest snapshot; HEAT_QUERY estimates rows from
the live sketch (R193 to R197). HOTSET_PUT, HOTSET_DROP and HOTSET_SWAP queue their jobs and all that may go on does;
HOTSET_HOME moves rows into and out of home granary; the configuration commands set, and the queries report. A half retires once
the last work bound to its generation has completed; a refresh interval's end is reported (R356 to R370, R385). -/
def Obligations.HeatAndGranaryCommandsComplete : Prop :=
  (∀ (r : Req) (c : Caller) (s u : State) (p : List Byte) (b : Nat),
     (Runs specHeatSnapshot r c s u p b → AccessesNow false doHeatSnapshot (ctxOf c r p b) u → u8At p 0 ≤ 2 → zeroAt p 1 7 = true →
       let v := u.snapshot b (u8At p 0)
       let body := leBytes 4 (v.bay b).heat.snapSeq ++ zeros 4
       Fits c body → exec (.heatSnapshot r) s = .next (v.answerOk r body)) ∧
     (Runs specHeatRead r c s u p b → (u.bay b).heat.snapSeq ≠ 0 → u32At p 0 = (u.bay b).heat.snapSeq → u8At p 4 ≤ 3 →
       zeroAt p 5 3 = true → u32At p 8 < 65536 → 1 ≤ u32At p 12 → u32At p 12 ≤ 1000 → u32At p 8 + u32At p 12 ≤ 65536 →
       let body := leBytes 4 (u.bay b).heat.snapSeq ++ leBytes 4 (u32At p 12) ++
         (items (u32At p 12) fun i => leBytes 4 (heatGet (u.bay b).heat.snap (65536 * u8At p 4 + u32At p 8 + i))).flatten
       Fits c body → exec (.heatRead r) s = .next (u.answerOk r body)) ∧
     (Runs specHeatQuery r c s u p b → 1 ≤ u16At p 0 → u16At p 0 ≤ 256 → zeroAt p 2 6 = true →
       (∀ i, i < u16At p 0 → bits (u64At p (8 + 8 * i)) 52 12 = 0) →
       let body := (items (u16At p 0) fun i =>
         let k := u64At p (8 + 8 * i)
         leBytes 4 ((List.range 4).foldl (fun m j =>
           min m (heatGet (u.bay b).heat.live (heatIndex j (bits k 40 12) (bits k 0 40)))) (2 ^ 32 - 1))).flatten
       Fits c body → exec (.heatQuery r) s = .next (u.answerOk r body))) ∧
  ((∀ (r : Req) (c : Caller) (s u : State) (p : List Byte) (b : Nat),
     (Runs specHotsetPut r c s u p b → 1 ≤ u16At p 0 → u16At p 0 ≤ 250 → zeroAt p 2 6 = true →
       Good (hotItemChecks p (u16At p 0) 0) →
       exec (.hotsetPut r) s =
         .next ((u.startJob (ctxOf c r p b) .hotPut (perDie p (u16At p 0)) (List.replicate 6 0) []).2.hotPoll b)) ∧
     (Runs specHotsetDrop r c s u p b → u8At p 0 ≤ 1 → 1 ≤ u8At p 1 → u8At p 1 ≤ 3 →
       (if bit (u8At p 0) 0 then u16At p 2 = 0 else 1 ≤ u16At p 2 ∧ u16At p 2 ≤ 250) → zeroAt p 4 4 = true →
       Good (hotItemChecks p (u16At p 2) 0) →
       let j := u.startJob (ctxOf c r p b) .hotDrop ((perDie p (u16At p 2)).filter fun i => bit (u8At p 1) i.a) [0] []
       exec (.hotsetDrop r) s = .next
         ((j.2.modJob j.1 fun w => { w with dest := u8At p 1, at_ := flag (bit (u8At p 0) 0) }).hotPoll b)) ∧
     (Runs specHotsetSwap r c s u p b → 1 ≤ u8At p 0 → u8At p 0 ≤ 3 → zeroAt p 1 7 = true →
       let j := u.startJob (ctxOf c r p b) .hotSwap [] [] []
       exec (.hotsetSwap r) s = .next ((j.2.modJob j.1 fun w => { w with dest := u8At p 0 }).hotPoll b)) ∧
     (Runs specHotsetQuery r c s u p b →
       let body := (List.range 2).flatMap fun k =>
         let d := u.hotDie b k
         leBytes 4 d.gen ++ leBytes 1 d.live ++ leBytes 1 (flag d.retiring.isSome) ++ zeros 2 ++ d.inUse d.live ++ d.inUse d.shadow ++
           leBytes 4 (u.indexCapacity b k) ++ zeros 4
       Fits c body → exec (.hotsetQuery r) s = .next (u.answerOk r body)) ∧
     (Runs specHotsetHome r c s u p b → 1 ≤ u16At p 0 → u16At p 0 ≤ 250 → zeroAt p 2 6 = true →
       Good (hotItemChecks p (u16At p 0) 1) →
       let j := u.startJob (ctxOf c r p b) .hotHome (items (u16At p 0) fun i =>
         ⟨u16At p (8 + 16 * i), u64At p (8 + 16 * i + 8), u8At p (8 + 16 * i + 3), u8At p (8 + 16 * i + 2), 0⟩) (List.replicate 5 0) []
       exec (.hotsetHome r) s = .next (j.2.moveNext j.1)) ∧
     (Runs specHotsetConfig r c s u p b → (u32At p 0 = 0 ∨ (100 ≤ u32At p 0 ∧ u32At p 0 ≤ 3600000)) → u8At p 4 ≤ 3 →
       zeroAt p 5 3 = true →
       exec (.hotsetConfig r) s = .next (((u.modBay b fun y => { y with granary := { y.granary with
         refreshMs := u32At p 0, snapAction := u8At p 4 } }).restartRefresh b).answerOk r [])) ∧
     (Runs specRunaheadConfig r c s u p b → u8At p 0 ≤ 1 → u8At p 1 ≤ 1 → u16At p 4 ≤ u.maxCribLimit b → u16At p 6 ≤ 4096 →
       exec (.runaheadConfig r) s = .next ((u.modBay b fun y => { y with granary := { y.granary with
         runahead := ⟨u8At p 0, u8At p 1, u16At p 2, some (u16At p 4), u16At p 6⟩ } }).answerOk r [])) ∧
     (Runs specStageQuery r c s u p b →
       let body := (u.bay b).granary.stage.flatMap fun d => d.counters.flatMap (leBytes 8)
       Fits c body → exec (.stageQuery r) s = .next (u.answerOk r body))) ∧
   (∀ (s : State) (b die : Nat), b ≤ 15 → die ≤ 1 → (s.hotDie b die).retiring ≠ none → s.boundEarlier b die = false →
     exec (.halfRetired b die) s =
       .next ((s.modHot b die fun d => { d with retiring := none, index := d.index.set d.shadow [] }).hotPoll b)) ∧
   (∀ (s : State) (b t : Nat), b ≤ 15 → (s.bay b).granary.refreshAt = some t → t ≤ s.dev.now → s.bayState b = .opened →
     let v := (s.modBay b fun y => { y with granary := { y.granary with refreshAt := none } })
     let w := v.raise 0x0406 0 (some b) none (v.genBytes b)
     exec (.hotsetRefreshDue b) s = .next (if (w.bay b).granary.snapAction = 0 then w
       else w.snapshot b ((w.bay b).granary.snapAction - 1))))

/-- TIER_MIGRATE and TIER_REBUILD start their jobs. A rebuild quiesces, then re-encodes the tier and answers; a destroyed table
is overwritten once the last sheaf that names it has completed; freed granules are free once every sheaf accepted before has
completed (R156, R180, R182 to R190). -/
def Obligations.RebuildsAndMovesComplete : Prop :=
  (∀ (r : Req) (c : Caller) (s u : State) (p : List Byte) (b : Nat) (t : Tab), TableFree u b (u16At p 0) t →
    (Runs specTierMigrate r c s u p b → 1 ≤ u16At p 2 → u16At p 2 ≤ 250 → zeroAt p 4 4 = true →
      (∀ i, i < u16At p 2 → u8At p (8 + 16 * i + 8) < t.desc.tiers ∧ t.tierReady (u8At p (8 + 16 * i + 8)) = true ∧
        (u8At p (8 + 16 * i + 9) = 1 ∨ u8At p (8 + 16 * i + 9) = 2) ∧ u8At p (8 + 16 * i + 10) ≤ 1 ∧
        zeroAt p (8 + 16 * i + 11) 5 = true) →
      exec (.tierMigrate r) s = .next (u.startJob (ctxOf c r p b) .migrate (items (u16At p 2) fun i =>
        ⟨t.id, u64At p (8 + 16 * i), u8At p (8 + 16 * i + 8), u8At p (8 + 16 * i + 9), u8At p (8 + 16 * i + 10)⟩)
        (List.replicate 7 0) []).2) ∧
    (Runs specTierRebuild r c s u p b → AccessesNow true doTierRebuild (ctxOf c r p b) u → ∀ q, q = t.point (u8At p 2) → u8At p 2 < t.desc.tiers →
      rebuildable q.policy.format = true → zeroAt p 3 5 = true → Good (bulkChecks p 8 [0, 1, 2] (u.ringBytes b)) →
      ((bulkAt p 8).kind = 0 ↔ q.policy.discovery ≠ 0) →
      (bulkAt p 8).length = (if q.policy.discovery = 0 then settingsBytes q.policy t.desc.dim else 0) →
      let v := takeSource (ctxOf c r p b) u 8 32
      (q.policy.discovery = 0 → settingsBad q.policy t.desc.dim v.1 = none) →
      v.2.otherNodes (t.map.entries.map MapEntry.owner) = [] →
      let j := v.2.startJob (ctxOf c r p b) .rebuild [] [] []
      let st := rebuildSettings q t.desc.dim v.1
      exec (.tierRebuild r) s = .next (j.2.beginRebuild b t (u8At p 2) st.1 st.2 j.1 [] none))) ∧
  (∀ (s : State) (b n : Nat) (t : Tab), b ≤ 15 → s.table b n = some t →
    (∀ g, t.rebuild = some g → g.phase = .quiesce → (g.lead.isSome = true ∨ s.moverRuns g.cmd = true) → s.namedBefore b n g.before = false →
      s.tableHeld b n = false →
      s.movedBefore b n g = false →
      let d := (t.point g.tier).policy.discovery
      let own := if d = 2 then s.tierRanges b t g.tier else g.ranges
      let ranges := if d = 0 then [] else items t.desc.dim fun i => joinRange (own.getD i none) (g.ranges.getD i none)
      let v := ((if d = 2 then s.chargeTier b t g.tier false else s).putTable b
        { t with rebuild := some { g with phase := .reencode, ranges := ranges } }).dropStagedTable b n
      exec (.rebuildQuiesced b n) s = .next (match g.lead with
        | some (node, tag) => v.emit (.span node 2 tag [ranges.flatMap rangeBytes])
        | none => v)) ∧
    (∀ g, t.rebuild = some g → g.phase = .reencode → s.moverRuns g.cmd = true → g.peers = [] → g.lead = none → s.tableHeld b n = false →
      exec (.rebuildResume b n) s = .next ((s.finishRebuild b t g (rebuiltPoint t g)).emits
        ((s.otherNodes (t.map.entries.map MapEntry.owner)).map fun k => .span k 3 g.cmd [pointBytes t.desc.dim (rebuiltPoint t g)]))) ∧
    (t.life = .destroying → s.namedBefore b n t.destroyBefore = false → s.tableHeld b n = false →
      let v := (s.modBay b fun y => { y with granary := { y.granary with
        dies := y.granary.dies.map fun d => d.dropCopies (fun c => c.table != n) s.dev.accepted } }).dropStagedTable b n
      let runs := t.segments.flatMap (fun g => g.dir ++ g.state) ++ t.defRow.toList ++ t.defState.toList ++ t.points.flatMap Point.side
      let w := ((v.entries b t).foldl (fun s e => State.destroyRow s b t e.2) v).zeroRuns b runs
      exec (.tableOverwrite b n) s = .next (State.modBay { w with
          dp.walkCache := w.dp.walkCache.filter fun k => !(k.2.1 == b && k.2.2.1 == n) } b fun y => { y with
          tables := dropKey Tab.id y.tables n
          space := { y.space with siloUsed := runs.foldl (fun l r => cutRun r l) y.space.siloUsed } }))) ∧
  (∀ (s : State) (b : Nat), b ≤ 15 → exec (.granuleRelease b) s = .next (s.modBay b fun y => { y with
    space := { y.space with
      siloFreed := y.space.siloFreed.filter fun r => !s.doneBefore b r.2
      loftFreed := y.space.loftFreed.filter fun r => !s.doneBefore b r.2 }
    granary := { y.granary with dies := y.granary.dies.map fun d => { d with freed := d.freed.filter fun r => !s.doneBefore b r.2.2 } } }))

/-- LEDGER_QUERY reports a session's window and LEDGER_SKIP consumes its next number; LEDGER_CONFIG resizes the retention area
and sets the barrier timeout; OPT_SET sets a table's optimiser and OPT_GET reports it; EPOCH_QUERY reports the epochs of tables;
POOL_SET and POOL_GET set and report a table's pooling; SHEAF_CANCEL ends a sheaf (R230, R251, R395, R414, R415, R429). -/
def Obligations.TrainingCommandsComplete : Prop :=
  ∀ (r : Req) (c : Caller) (s u : State) (p : List Byte) (b : Nat),
    (Runs specLedgerQuery r c s u p b → ∀ x,
      (c.bay.isSome = true ∧ u.session c.handle = some x ∨
        c.bay = none ∧ zeroAt p 2 2 = true ∧ u.session (u32At p 4) = some x ∧ x.bay = some (u16At p 0)) →
      Fits c (ledgerBody u x) → exec (.ledgerQuery r) s = .next (u.answerOk r (ledgerBody u x))) ∧
    (Runs specLedgerSkip r c s u p b → ∀ x, u.session c.handle = some x → u32At p 0 = x.ledger.next →
      (∀ y ∈ u.ledgerSheafs x.handle, y.seq ≠ u32At p 0) → zeroAt p 4 4 = true →
      let l := x.ledger.consume (u32At p 0)
      ∀ body, body = leBytes 4 l.next ++ zeros 4 → Fits c body →
      exec (.ledgerSkip r) s =
        .next (((u.modSession x.handle fun x => { x with ledger := l }).releaseAll x.handle).answerOk r body)) ∧
    (Runs specLedgerConfig r c s u p b → u8At p 0 < 4 → zeroAt p 1 3 = true →
      (if bit (u8At p 0) 0 then 4 ≤ u32At p 4 ∧ u32At p 4 ≤ 4096 else u32At p 4 = 0) →
      (if bit (u8At p 0) 1 then u32At p 8 = 0 ∨ (1000 ≤ u32At p 8 ∧ u32At p 8 ≤ 10000000) else u32At p 8 = 0) →
      zeroAt p 12 4 = true →
      let v := if bit (u8At p 0) 1 then u.modBay b fun y => { y with work := { y.work with barrierUs := u32At p 8 } } else u
      (bit (u8At p 0) 0 = false → exec (.ledgerConfig r) s = .next (v.answerOk r [])) ∧
      (∀ sp sp', bit (u8At p 0) 0 = true → (∀ d < 2, u.retained b d ≤ u32At p 4 * 2 ^ 20) →
        (u.bay b).space.resizeRetention 0 (u32At p 4) = some sp → sp.resizeRetention 1 (u32At p 4) = some sp' →
        exec (.ledgerConfig r) s = .next ((v.modBay b fun y =>
          { y with space := sp', core := { y.core with retentionMiB := u32At p 4 } }).answerOk r []))) ∧
    (∀ t, TableFree u b (u16At p 0) t →
      (Runs specOptSet r c s u p b → AccessesNow false doOptSet (ctxOf c r p b) u → Good (optChecks p) → (optAt p).kind = t.opt.kind →
        (optAt p).moment = t.opt.moment →
        exec (.optSet r) s = .next (u.carriedOut (ctxOf c r p b) t (u.putTable b { t with opt := optAt p }))) ∧
      (∀ t' v, Runs specOptSet r c s u p b → AccessesNow false doOptSet (ctxOf c r p b) u → Good (optChecks p) →
        ¬ ((optAt p).kind = t.opt.kind ∧ (optAt p).moment = t.opt.moment) →
        (∀ x ∈ u.updates b, u.names x t.id = false) → u.remakeState b t (optAt p) = some (t', v) →
        exec (.optSet r) s = .next (u.carriedOut (ctxOf c r p b) t (v.putTable b t'))) ∧
      (Runs specPoolSet r c s u p b → u8At p 2 ≤ 1 → (poolAt p).fuseOp ≤ 2 → (poolAt p).fuseFormat ≤ 1 → (poolAt p).fuseMode ≤ 1 →
        (if (poolAt p).fuseOp = 0 then (poolAt p).fuseFormat = 0 ∧ (poolAt p).fuseMode = 0 ∧ (poolAt p).fuseStream = 0
          else (u.persistent b (poolAt p).fuseStream).isSome = true) → zeroAt p 8 8 = true →
        exec (.poolSet r) s = .next (u.carriedOut (ctxOf c r p b) t (u.putTable b { t with pool := poolAt p })))) ∧
    (∀ t, TableThere u b (u16At p 0) t → zeroAt p 2 6 = true →
      (Runs specOptGet r c s u p b →
        let body := t.opt.bytes t.id ++ leBytes 8 t.counters.failed ++ leBytes 8 t.counters.nonFinite ++ leBytes 8 t.counters.barrier
        Fits c body → exec (.optGet r) s = .next (u.answerOk r body)) ∧
      (Runs specPoolGet r c s u p b → Fits c (t.pool.bytes t.id) →
        exec (.poolGet r) s = .next (u.answerOk r (t.pool.bytes t.id)))) ∧
    (Runs specEpochQuery r c s u p b → u16At p 0 < 4096 → 1 ≤ u16At p 2 → u16At p 2 ≤ 250 → zeroAt p 4 4 = true →
      let ts := ((sortBy Tab.id (u.bay b).tables).filter fun t => decide (u16At p 0 ≤ t.id) && t.life != .destroying).take (u16At p 2)
      let body := leBytes 2 ts.length ++ zeros 6 ++ ts.flatMap fun t =>
        leBytes 2 t.id ++ zeros 2 ++ leBytes 4 (t.epochHigh.getD (noEpoch 0)) ++ leBytes 4 ((u.epochDone b t).getD (noEpoch 1)) ++
          leBytes 4 (u.openEpochs b t.id).length
      Fits c body → exec (.epochQuery r) s = .next (u.answerOk r body)) ∧
    (Runs specSheafCancel r c s u p b → ∀ x,
      leastBy Sheaf.no (u.dp.sheafs.filter fun x => x.bay == b && x.id == u64At p 0) = some x →
      (x.phase = .held ∨ x.phase = .accepted ∨ x.phase = .queued ∨
        (x.phase = .running ∨ x.phase = .working ∨ x.phase = .applying) ∧ x.isUpdate = false ∧ x.placing = false) →
      exec (.sheafCancel r) s = .next ((u.abortSheaf x.no .state).answerOk r []))

/-- QUANT_SET_POLICY replaces the record of a tier or of the output, QUANT_SET_SCALES its scales, QUANT_SET_CODEBOOK its
codebooks and QUANT_SET_SPLIT its list of split columns; each re-encodes a configured default row where T0 changes.
QUANT_GET_SCALES reports the scales in force and QUANT_READ_SAT reads saturation counters and clears those its flag asks for
(R111, R131, R135, R145 to R147, R175, R604). -/
def Obligations.QuantCommandsComplete : Prop :=
  ∀ (r : Req) (c : Caller) (s u : State) (p : List Byte) (b : Nat) (t : Tab), TableFree u b (u16At p 0) t →
    (∀ g v, Runs specQuantSetPolicy r c s u p b → AccessesNow false doQuantSetPolicy (ctxOf c r p b) u → g = u8At p 8 → u.pointFree b t g = true →
      (g = 4 ∨ u.tableMoving b t.id = false) → zeroAt p 2 6 = true → Good (policyChecks p 8 t.desc.tiers) → (g = 0 → u.defaultHeld b t.id = false) →
      u.changePoint b t g ((t.point g).withPolicy g t.desc.dim (policyAt p 8)) = some v →
      exec (.quantSetPolicy r) s = .next (u.carriedOut (ctxOf c r p b) t v)) ∧
    (∀ g v w, g = u8At p 2 → (g < t.desc.tiers ∨ g = 4) → w = takeSource (ctxOf c r p b) u 8 32 →
      zeroAt p 4 4 = true → Good (bulkChecks p 8 [1, 2] (u.ringBytes b)) → u.pointFree b t g = true → (g = 4 ∨ u.tableMoving b t.id = false) →
      w.2.net.parked.any (w.2.changesTable b t.id) = false → (g = 0 → w.2.defaultHeld b t.id = false) →
      let q := t.point g
      (Runs specQuantSetScales r c s u p b → AccessesNow true doQuantSetScales (ctxOf c r p b) u → isScaled q.policy.format = true →
        formOk q.policy g (u8At p 3) = true →
        (bulkAt p 8).length = scaleBytes q.policy t.desc.dim (u8At p 3) → scaleBad q.policy t.desc.dim (u8At p 3) w.1 = none →
        w.2.changePoint b t g (if u8At p 3 = 2 then { q with explicit := explicitFrom t.desc.dim w.1 }
          else { q with scales := scalesFrom q.policy t.desc.dim (u8At p 3) w.1 }) = some v →
        exec (.quantSetScales r) s = .next (w.2.carriedOut (ctxOf c r p b) t v)) ∧
      (Runs specQuantSetCodebook r c s u p b → AccessesNow true doQuantSetCodebook (ctxOf c r p b) u → g < t.desc.tiers →
        isCodebook q.policy.format = true → zeroAt p 3 5 = true →
        (bulkAt p 8).length = booksBytes q.policy.format t.desc.dim →
        booksBad (booksBytes q.policy.format t.desc.dim / 2) w.1 = none →
        w.2.changePoint b t g { q with codebooks := booksFrom q.policy.format t.desc.dim w.1 } = some v →
        exec (.quantSetCodebook r) s = .next (w.2.carriedOut (ctxOf c r p b) t v))) ∧
    (∀ g n v cols, Runs specQuantSetSplit r c s u p b → AccessesNow false doQuantSetSplit (ctxOf c r p b) u →
      g = u8At p 2 → n = u8At p 3 → cols = (items n fun i => u16At p (8 + 2 * i)) →
      g < t.desc.tiers → u.pointFree b t g = true → u.tableMoving b t.id = false → n ≤ 64 → n = (t.point g).policy.splitCount →
      (n = 0 ∨ (t.point g).policy.outlier = 1) → zeroAt p 4 4 = true →
      (∀ i, i < n → natAt cols i < t.desc.dim ∧ (i = 0 ∨ natAt cols (i - 1) < natAt cols i)) →
      zeroAt p (8 + 2 * n) (roundUp (2 * n) 8 - 2 * n) = true → (g = 0 → u.defaultHeld b t.id = false) →
      u.changePoint b t g { t.point g with splits := cols } = some v →
      exec (.quantSetSplit r) s = .next (u.carriedOut (ctxOf c r p b) t v)) ∧
    (∀ g, g = u8At p 2 → (g < t.desc.tiers ∨ g = 4) →
      (Runs specQuantGetScales r c s u p b → zeroAt p 3 5 = true → Good (bulkChecks p 8 [1, 3] 0) →
        let q := (t.point g).policy
        let sc := if g = 4 then t.withExplicitZp (t.scalesNow 4) else t.scalesNow g
        let ms := g == 4 && t.fedInt48
        let data := scaleData q t.desc.dim sc ++
          (if ms then (items t.desc.dim fun j => rescaleBytes (t.rescaleAt sc j)).flatten else [])
        destBad (ctxOf c r p b) u 8 8 data.length = none →
        let v := placeDest (ctxOf c r p b) u 8 data
        let body := leBytes 1 q.storage ++ leBytes 1 (flag ms) ++ zeros 6 ++ v.1
        Fits c body → exec (.quantGetScales r) s = .next (v.2.answerOk r body)) ∧
      (Runs specQuantReadSat r c s u p b → u8At p 3 ≤ 1 → u16At p 4 < t.desc.dim → 1 ≤ u16At p 6 → u16At p 6 ≤ 1000 →
        u16At p 4 + u16At p 6 ≤ t.desc.dim →
        let q := t.point g
        let body := (items (u16At p 6) fun i => leBytes 4 (natAt q.sat (u16At p 4 + i))).flatten
        Fits c body → exec (.quantReadSat r) s = .next ((if bit (u8At p 3) 0 = true then
          u.putTable b (t.setPoint g { q with
            sat := q.sat.zipIdx.map fun x => if u16At p 4 ≤ x.2 ∧ x.2 < u16At p 4 + u16At p 6 then 0 else x.1 }) else u).answerOk r body)))

/-- STREAM_CREATE takes the lowest free context of a die; STREAM_APPEND lengthens a stopped stream's list; STREAM_DESTROY frees
one that nothing names; STREAM_START runs the list or holds the start behind a run; STREAM_REARM sets the selected bases;
STREAM_QUERY reports; STREAM_CONFIG sets a bay's weights and timeouts; a context enters RUNNING once its reserve is there (R301,
R325, R338 to R341). -/
def Obligations.StreamCommandsComplete : Prop :=
  (∀ (r : Req) (c : Caller) (s u : State) (p : List Byte) (b : Nat),
    (Runs specStreamCreate r c s u p b → u8At p 0 ≤ 1 → (u8At p 1 ≤ 7 ∨ u8At p 1 = 0xFF) → u16At p 2 ≤ 120 → zeroAt p 4 4 = true →
      (∀ i, i < 4 → u64At p (8 + 8 * i) < 2 ^ 48) → ∀ no more runs v, u.freeContexts b (u8At p 0) = no :: more →
      u.allocBytes b (32 * u16At p 2) = some (runs, v) →
      let x : Context := { newContext no b none 0 v.dev.now with
        queue := if u8At p 1 = 0xFF then 4 else u8At p 1, queueSet := true, list := entriesAt p 40 (u16At p 2),
        base := basesAt p 8, store := runs }
      ∀ body, body = leBytes 2 no ++ zeros 6 → Fits c body →
      let w := x.list.zipIdx.foldl (fun s e => State.write s .silo b 0 (runByte runs (32 * e.2)) e.1) v
      exec (.streamCreate r) s = .next (({ w with dp.contexts := putKey Context.no x w.dp.contexts }).answerOk r body)) ∧
    (∀ x, u.persistent b (u16At p 0) = some x →
      (Runs specStreamAppend r c s u p b → x.running = false → 1 ≤ u16At p 2 → u16At p 2 ≤ 120 → zeroAt p 4 4 = true →
        ∀ total runs v, total = x.list.length + u16At p 2 → total ≤ 4096 →
        u.allocBytes b (64 * blockGranules * (blocksFor (32 * total) - sumBy Run.len x.store / blockGranules)) = some (runs, v) →
        ∀ body, body = leBytes 2 total ++ zeros 6 → Fits c body →
        let l := entriesAt p 8 (u16At p 2)
        let w := l.zipIdx.foldl
          (fun s e => State.write s .silo b 0 (runByte (x.store ++ runs) (32 * (x.list.length + e.2))) e.1) v
        exec (.streamAppend r) s = .next ((w.modCtx x.no fun x =>
          { x with list := x.list ++ l, store := x.store ++ runs }).answerOk r body)) ∧
      (Runs specStreamDestroy r c s u p b → x.running = false → u.fuseNamed b x.no = false → zeroAt p 2 6 = true →
        let v := u.modBay b fun y => { y with space := { y.space with
          siloUsed := x.store.foldl (fun l r => cutRun r l) y.space.siloUsed } }
        let w : State := { v with dp.contexts := dropKey Context.no v.dp.contexts x.no }
        exec (.streamDestroy r) s = .next (((x.runCmd.toList ++ x.heldCmd.toList).foldl
          (fun s id => State.endJob s id ⟨.state, 0, []⟩) w).answerOk r [])) ∧
      (Runs specStreamStart r c s u p b → zeroAt p 2 6 = true → ¬ (x.active = true ∧ x.heldCmd.isSome = true) →
        (x.active = true ∨ x.list ≠ []) →
        let j := u.startJob (ctxOf c r p b) .streamRun [] [] []
        exec (.streamStart r) s = .next (if x.active then j.2.modCtx x.no fun x => { x with heldCmd := some j.1 }
          else j.2.startRun x.no j.1)) ∧
      (Runs specStreamStart r c s u p b → zeroAt p 2 6 = true → x.active = false → x.list = [] → Fits c (zeros 16) →
        exec (.streamStart r) s = .next (u.answerOk r (zeros 16))) ∧
      (Runs specStreamRearm r c s u p b → u8At p 2 < 16 → u8At p 3 = 0 → zeroAt p 4 4 = true →
        (∀ i, i < 4 → if bit (u8At p 2) i then u64At p (8 + 8 * i) < 2 ^ 48 else u64At p (8 + 8 * i) = 0) →
        exec (.streamRearm r) s = .next ((u.modCtx x.no fun y => { y with
          base := x.base.zipIdx.map fun e => if bit (u8At p 2) e.2 then u64At p (8 + 8 * e.2) else e.1 }).answerOk r [])) ∧
      (Runs specStreamQuery r c s u p b → zeroAt p 2 6 = true →
        let body := leBytes 1 (if x.running then 2 else 1) ++ leBytes 1 x.queue ++ leBytes 2 x.list.length ++
          leBytes 1 (flag x.heldCmd.isSome) ++ zeros 3 ++ x.base.flatMap (leBytes 8) ++
          [x.malformed, x.zero, x.chaffed, x.spills, x.mapErrors, x.late].flatMap (leBytes 4)
        Fits c body → exec (.streamQuery r) s = .next (u.answerOk r body))) ∧
    (Runs specStreamConfig r c s u p b → zeroAt p 6 2 = true → (u32At p 8 = 0 ∨ (50 ≤ u32At p 8 ∧ u32At p 8 ≤ 100000)) →
      (u32At p 12 = 0 ∨ (10 ≤ u32At p 12 ∧ u32At p 12 ≤ 10000)) →
      exec (.streamConfig r) s = .next ((u.modBay b fun y => { y with work := { y.work with
        weights := y.work.weights.zipIdx.map fun x => if u8At p x.2 = 0 then x.1 else u8At p x.2
        e2eUs := if u32At p 8 = 0 then y.work.e2eUs else u32At p 8
        watchdogUs := if u32At p 12 = 0 then y.work.watchdogUs else u32At p 12 } }).answerOk r []))) ∧
  (∀ (s : State) (n : Nat) (x : Context), s.context n = some x → x.running = false → x.waiting ≠ [] →
    (∀ y ∈ s.dp.contexts, y.bay = x.bay → ctxDie y.no = ctxDie x.no → y.no ≠ n → State.waitsForReserve y = true →
      x.queue ≤ y.queue ∧ (y.queue = x.queue → x.waitSince ≤ y.waitSince)) →
    s.cribHeld x.bay (ctxDie n) + x.reserve ≤ s.cribShare x.bay (ctxDie n) →
    exec (.contextRunning n) s = .next ((s.discardCrib x.bay (ctxDie n) x.reserve).modCtx n fun x =>
      { x with running := true, crib := 0, stalledSince := none }))

/-- A WICKET_LOOKUP of a bay session that passes R586 is accepted into its level; the parser of a die takes the next lookup or
message; a STRICT barrier not satisfied in time is given up; a lookup takes a bypass unit, is folded and leaves; its result is
placed in one write; an urgent message goes ahead of the standard ones (R343 to R350, R426, R596, R723, R724). -/
def Obligations.WicketOperationsComplete : Prop :=
  (∀ (s : State) (r : Req) (c : Caller) (b : Nat), (headerOf r.msg).op = 0x0610 → r.msg.length = 64 → s.takesLookups = true →
    isResponse r = false → s.lan.failsafe = false → s.repeated r = none → checkHead (fun op => op == 0x0610) r = none →
    checkKnown s specWicketLookup r = .pass c → c.bay = some b → s.bayState b = .opened →
    exec (.wicketLookup r) s = .next (s.acceptLookup r b c.handle)) ∧
  (∀ (s : State) (die : Nat), die ≤ 1 →
    (∀ x, s.wicketNext die = some (.lookup x) → exec (.wicketParse die) s = .next (s.parseLookup x)) ∧
    (∀ m, s.wicketNext die = some (.message m) → m.level ≠ 0 → exec (.wicketParse die) s = .next
      (({ s with dp.messages := s.dp.messages.filter fun y => y.id != m.id }).joinQueue m.req)) ∧
    (∀ m, s.wicketNext die = some (.message m) → m.level = 0 → exec (.urgentMessage die) s = .next { s with
      dp.messages := s.dp.messages.filter fun y => y.id != m.id
      net.stewardQueue := s.net.stewardQueue.takeWhile isUrgent ++ m.req :: s.net.stewardQueue.dropWhile isUrgent })) ∧
  (∀ (s : State) (no k : Nat) (x : Lookup) (t : Tab), s.sheaf no = none →
    (s.dp.lookups.find? fun x => x.no == no && x.phase == .waiting) = some x → x.tab = some t →
    (s.bay x.bay).work.barrierUs ≠ 0 → x.gaveUp = false → t.desc.relaxed = false → s.barrierMet t x.u = false →
    x.acceptedAt + 1000 * (s.bay x.bay).work.barrierUs ≤ s.dev.now →
    exec (.barrierTimeout no k) s = .next ((s.modLookup x.id fun y => { y with gaveUp := true }).giveUp x.bay t x.u)) ∧
  (∀ (s v : State) (no k : Nat) (x y : Sheaf) (g : Section), s.sheaf no = some x → x.isUpdate = false → x.phase = .accepted →
    (s.bay x.bay).work.barrierUs ≠ 0 → s.sheafOk x = true → v = s.loadSections no → v.sheaf no = some y →
    y.sections[k]? = some g → g.barrier = none → g.tab.desc.relaxed = false → v.barrierMet g.tab g.u = false →
    g.barrierAt + 1000 * (s.bay x.bay).work.barrierUs ≤ v.dev.now →
    exec (.barrierTimeout no k) s =
      .next ((v.modSection no k fun g => { g with barrier := some true }).giveUp x.bay g.tab g.u)) ∧
  (∀ (s : State) (id : Nat) (x : Lookup), findKey Lookup.id s.dp.lookups id = some x →
    (∀ g n fixed bad, x.phase = .fetching → x.sect = some g → s.lookupReady x g = true → s.freeBypass x.die x.level = some n →
      exec (.bypassFold ⟨id, fixed, bad⟩) s = .next ((s.modThresher n fun t => { t with bypass := some id }).modLookup id fun y =>
        { y with phase := .folding, unit := some n })) ∧
    (∀ g n fixed bad, x.phase = .folding → x.sect = some g → x.unit = some n →
      exec (.bypassFold ⟨id, fixed, bad⟩) s =
        .next (((s.modThresher n fun t => { t with bypass := none }).bypassErrors x g fixed bad).bypass x g)) ∧
    (x.phase = .placing →
      let data := x.record s.dev.now
      (x.lost = true → exec (.wicketResult id) s = .next (s.dropLookup id)) ∧
      (∀ m, x.lost = false → x.req.via = .mailbox m → s.regionHolds x.bay x.key x.off data.length true = true →
        exec (.wicketResult id) s = .next ((s.hostPlace x.key x.off data s.tth.resultRo x.die true).dropLookup id)) ∧
      (∀ q, x.lost = false →
        ((∃ n, x.req.via = .send n ∧ s.qp n = some q ∧ q.error = none ∧ q.session = x.session) ∨
          ∃ a b c d, x.req.via = .udp a b c d ∧ s.lowestRts x.session = some q) →
        exec (.wicketResult id) s = .next ((s.rdmaSend q x.off x.key data 0 (x.level == 0) true (some x.no) x.die).dropLookup id))))

/-- POWER_VOTE adds the caller's vote and wakes its domain, POWER_RELEASE takes it away; POWER_QUERY reports a domain;
POWER_CONFIG sets its fallow state and hysteresis, in flash too; CCLK_SET changes the operating point (R607, R621, R622, R625).
-/
def Obligations.PowerCommandsComplete : Prop :=
  ∀ (r : Req) (c : Caller) (s u : State) (p : List Byte) (b : Nat),
    (∀ i, domainIndex (u16At p 0) = some i →
      let v := voterOf (ctxOf c r p b)
      (Runs specPowerVote r c s u p b → zeroAt p 2 6 = true → bit (u.domain i).votes v = false →
        let w := (u.modDomain i fun d => { d with votes := d.votes + 2 ^ v, idleSince := u.dev.now }).wakeDomain i 0
        Fits c (w.domainAnswer i) → exec (.powerVote r) s = .next (w.answerOk r (w.domainAnswer i))) ∧
      (Runs specPowerRelease r c s u p b → zeroAt p 2 6 = true → bit (u.domain i).votes v = true →
        let w := u.modDomain i fun d => { d with votes := dropVote d.votes v, idleSince := u.dev.now }
        Fits c (w.domainAnswer i) → exec (.powerRelease r) s = .next (w.answerOk r (w.domainAnswer i))) ∧
      (Runs specPowerQuery r c s u p b → zeroAt p 2 6 = true →
        let d := u.domain i
        let body := leBytes 1 (domCode d.state) ++ leBytes 1 d.fallow ++ zeros 2 ++ leBytes 4 d.votes ++ leBytes 4 d.hysteresis
        Fits c body → exec (.powerQuery r) s = .next (u.answerOk r body)) ∧
      (Runs specPowerConfig r c s u p b → 1 ≤ u8At p 2 → u8At p 2 ≤ 3 → (u8At p 2 = 3 → i < 63) → zeroAt p 3 1 = true →
        (u32At p 4 = 0 ∨ (10 ≤ u32At p 4 ∧ u32At p 4 ≤ 10000000)) →
        let h := if u32At p 4 = 0 then 100 else u32At p 4
        let w := u.modDomain i fun d => { d with fallow := u8At p 2, hysteresis := h }
        exec (.powerConfig r) s =
          .next (({ w with flash.domCfg := putKey Prod.fst (i, u8At p 2, h) w.flash.domCfg } : State).answerOk r []))) ∧
    (Runs specCclkSet r c s u p b → u8At p 0 ≤ 2 → zeroAt p 1 7 = true → u.dev.cclkChange = none →
      let v : State := { u with dev.cclkSet := u8At p 0 }
      exec (.cclkSet r) s =
        .next ((if v.cclkTarget = v.dev.cclk then v else v.startCclk v.cclkTarget 0 none).answerOk r []))

/-- An idle domain with no vote begins entry at its hysteresis time, loses its state at the commit point, and is in fallow at
the end of Gate; a wake event that is latched begins its exit, whose phases end one after the other, up to Logic (R618, R624,
R626 to R628, R630). A frame to a port in F2 is held and wakes it; an accepted knock wakes its port, every domain if it asks,
and is answered if it asks, a rejected one is counted and reported once a second; a port that no knock followed returns to F3;
the timer wakes D0 (R631 to R634). -/
def Obligations.DomainsEnterFallowAndWake : Prop :=
  (∀ (s : State) (i : Nat), i ≤ 74 →
     (∀ low, (s.domain i).state = .a0 → (s.domain i).votes = 0 → s.domainBusy i low = false →
       (s.domain i).idleSince + 1000 * (s.domain i).hysteresis ≤ s.dev.now → s.dev.phase = .running →
       (((54 ≤ i ∧ i < 58) ∨ i = 62) → s.entryTarget i = 2 → low = true ∨ (i = 62 ∧ s.tth.attached = false)) →
       exec (.hysteresisExpiry i low) s = .next (({ s with
         lan.timer := if i = 0 then s.nextTimer else s.lan.timer }).modDomain i fun d =>
           { d with state := .entering (s.entryTarget i) .quiesce, wakePending := false })) ∧
     (∀ t, (s.domain i).state = .entering t .quiesce →
       let v := (s.count (0x800 + i) 0 1).modDomain i fun d => { d with state := .entering t .gate }
       exec (.entryCommit i) s = .next (if t = 3 then v.loseF3 i else v)) ∧
     (∀ t, (s.domain i).state = .entering t .gate →
       (((s.domain i).wakePending = true → exec (.gateEnd i) s = .next (s.startExit i t)) ∧
       ((s.domain i).wakePending = false → exec (.gateEnd i) s = .next (if i = 0 ∧ t = 3
         then { s with lan.domains := (s.modDomain i fun d => { d with state := .fallow t }).lan.domains.map fun d =>
           { d with state := .fallow 3 } }
         else s.modDomain i fun d => { d with state := .fallow t })))) ∧
     (∀ cause, (cause ≤ 1 ∨ (cause ≤ 3 ∧ 46 ≤ i ∧ i < 54) ∨ (cause = 4 ∧ i = 62) ∨ ((cause = 5 ∨ cause = 7) ∧ i = 0) ∨
         (cause = 6 ∧ 54 ≤ i ∧ i < 58)) → (cause = 0 → (s.domain i).votes ≠ 0) → s.dev.phase ≠ .parked → s.dev.phase ≠ .tripped →
       let v := if cause = 3 ∧ 46 ≤ i ∧ i < 54 ∧ (s.domain i).state = .fallow 3
         then { s with lan.energyAt := s.lan.energyAt.set (i - 46) (some s.dev.now) } else s
       exec (.wakeLatch i cause) s = .next (if cause ≤ 1 ∧ 46 ≤ i then v.wakeDomain i cause else v.wakeUp i cause)) ∧
     (∀ f, (s.domain i).state = .exiting f .regulator →
       exec (.pwrOk i) s = .next (s.modDomain i fun d => { d with state := .exiting f .oscillator })) ∧
     (∀ f, (s.domain i).state = .exiting f .oscillator → (i < 2 ∨ 46 ≤ i ∨ s.domainA0 (domainDie i) = true) →
       exec (.pllLock i) s = .next (s.modDomain i fun d => { d with state := .exiting f .memory })) ∧
     (∀ f, (s.domain i).state = .exiting f .memory →
       exec (.memOk i) s = .next (s.modDomain i fun d => { d with state := .exiting f .logic }))) ∧
  (∀ (s : State),
     (∀ port sub data, hasSub port sub = true → s.linkUp port sub = true → (s.domain (46 + port)).state = .fallow 2 →
       let v := s.wakeUp (46 + port) 2
       let w := if s.listenUsed port = 0 then ((List.range 8).filter fun k => bit (v.settings port).pfcMask k).foldl
         (fun s k => State.sendPfc s port sub k 0xFFFF) v else v
       exec (.listenFrame port sub data) s = .next (if 65536 < w.listenUsed port + data.length
         then ({ w with lan.listenDrops := w.lan.listenDrops + 1 } : State).discardFrame port sub
         else { w with lan.listen := w.lan.listen ++ [⟨port, sub, data⟩] })) ∧
     (∀ port sub data, hasSub port sub = true → s.linkUp port sub = true → (s.domain (46 + port)).state ≠ .fallow 3 →
       bit (u8At data 3) 7 = false →
       (∀ why, s.knockBad data = some why →
         let v : State := { s with lan.knockRejects := satAdd 32 s.lan.knockRejects 1 }
         exec (.knock port sub data) s = .next (
           if (s.lan.knockRejectAt.any fun t => decide (s.dev.now < t + 1000000000)) = true then v
           else ({ v with lan.knockRejectAt := some s.dev.now } : State).raise 0x0109 1 none none
             (leBytes 1 port ++ leBytes 1 sub ++ leBytes 1 why ++ zeros 1 ++ leBytes 4 v.lan.knockRejects))) ∧
       (s.knockBad data = none →
         let v := ({ s with lan.knockHigh := u64At data 20, lan.energyAt := s.lan.energyAt.set port none } : State).wakeUp (46 + port) 3
         let w := if bit (u8At data 3) 1 then (List.range 75).foldl (fun s i => State.wakeDomain s i 3) v else v
         exec (.knock port sub data) s = .next (if bit (u8At data 3) 0 = false then w
           else if w.domainA0 (46 + port) then w.knockReply port sub (u64At data 20) (u64At data 28)
           else { w with lan.knockReplies := w.lan.knockReplies ++ [(port, sub, u64At data 20, u64At data 28)] }))) ∧
     (∀ port t, port ≤ 7 → s.lan.energyAt.getD port none = some t → 0 < s.upSubs port → t + 20000000 ≤ s.dev.now →
       exec (.falseWake port) s = .next (((({ s with
         lan.energyAt := s.lan.energyAt.set port none, lan.falseWakes := addAt s.lan.falseWakes port 1 } : State).modDomain (46 + port)
           fun d => { d with state := .fallow 3 }).count (0x800 + 46 + port) 0 1).portDown port)) ∧
     (s.lan.timer ≠ 0 → s.lan.timer ≤ s.dev.now % 2 ^ 48 → exec .lanternTimer s = .next (s.wakeDomain 0 7)))

/-- The phases of a change of CCLK; a die's temperature moves the thermal ceiling, and at 105 °C trips the package; a lost
reference clock is reported and takes down what runs from it, its return is reported, and the 100 MHz reference lost for 1 ms
makes the device FATAL (R606 to R608). -/
def Obligations.ClocksAndTemperaturesComplete : Prop :=
  ∀ (s : State),
    (∀ c, s.dev.cclkChange = some c → c.phase ≠ .switch → exec .cclkPhaseEnd s = .next (match c.phase with
      | .raise => { s with dev.cclkChange := some { c with phase := .lock } }
      | .lock => { s with dev.cclkChange := some { c with phase := .switch } }
      | _ => ({ s with dev.cclkChange := none }).followCeiling)) ∧
    (∀ die tj, die ≤ 1 → (s.dev.phase = .running ∨ s.dev.phase = .booting ∨ s.dev.phase = .recovery) →
      let v : State := { s with dev.tj := s.dev.tj.set die tj }
      let w : State := { v with dev.coolSince := if v.hotTj < 95 * 16 then some (s.dev.coolSince.getD s.dev.now) else none }
      (105 * 16 ≤ v.hotTj → exec (.dieTemperature die tj) s = .next (w.thermTrip v.hotTj)) ∧
      (103 * 16 ≤ v.hotTj → v.hotTj < 105 * 16 → exec (.dieTemperature die tj) s =
        .next (if 0 < s.dev.thermCeil then w.setThermal v.hotTj 0 else w)) ∧
      (100 * 16 ≤ v.hotTj → v.hotTj < 103 * 16 → exec (.dieTemperature die tj) s =
        .next (if 1 < s.dev.thermCeil then w.setThermal v.hotTj 1 else w)) ∧
      (v.hotTj < 100 * 16 → exec (.dieTemperature die tj) s =
        .next (if s.dev.thermCeil < s.dev.cclkSet ∧ (w.dev.coolSince.any fun t => decide (t + 100000000 ≤ s.dev.now)) = true
          then ({ w with dev.coolSince := some s.dev.now } : State).setThermal v.hotTj (s.dev.thermCeil + 1) else w))) ∧
    (∀ die, die ≤ 1 → (s.dev.phase = .running ∨ s.dev.phase = .booting ∨ s.dev.phase = .recovery) →
      105 * 16 ≤ s.dev.tj.getD die 0 → exec (.dieThermtrip die) s = .next (s.thermTrip (s.dev.tj.getD die 0))) ∧
    (∀ k, k ≤ 2 → s.dev.refLost.getD k none = none →
      let v := ({ s with dev.refLost := s.dev.refLost.set k (some s.dev.now) } : State).raise 0x0101 2 none none (leBytes 1 k)
      let w := (List.range 4).foldl (fun s k =>
        if (State.loft s k).state = .up ∨ (State.loft s k).state = .lost then State.loftDown s k 0 else s) v
      exec (.clockRefLost k) s = .next (if k = 1 then (if w.tth.attached then w.tetherReset 3 else w)
        else if k = 2 then (List.range 8).foldl (fun s k => State.portDown s k) v else v)) ∧
    (∀ k, k ≤ 2 → (s.dev.refLost.getD k none).isSome = true →
      exec (.clockRefOk k) s =
        .next (({ s with dev.refLost := s.dev.refLost.set k none } : State).raise 0x0102 0 none none (leBytes 1 k))) ∧
    (∀ t, s.dev.fatal = false → s.dev.refLost.getD 1 none = some t → t + 1000000 ≤ s.dev.now →
      exec .refHoldoverExpiry s = .next (s.raise 0x0101 3 none none (leBytes 1 1)).goFatal)

/-- EVENT_READ, COUNTER_READ (which may clear), SENSOR_READ and DEVICE_QUERY report; SILO_QUERY reports and starts the highest
readings anew; LOFT_QUERY reports; MEM_SCRUB_CONFIG sets the scrub interval; LOFT_PORT_SET disables a port that holds no units
and enables one again (R446, R447, R465, R466, R601, R659, R660, R664). -/
def Obligations.TelemetryAndMemoryCommandsComplete : Prop :=
  ∀ (r : Req) (c : Caller) (s u : State) (p : List Byte) (b : Nat),
    (Runs specEventRead r c s u p b → u8At p 10 ≤ 3 → zeroAt p 11 5 = true →
      let room := if c.mtw then 14 else 126
      let n := if u16At p 8 = 0 then room else min room (u16At p 8)
      let start := max (u64At p 0) (((u.mgmt.log.head?).map LogRecord.seq).getD 0)
      let keep := fun (x : LogRecord) => decide (u8At p 10 ≤ x.ev.severity) && (c.bay.isNone || x.ev.bay == c.bay)
      let l := takeRecords keep n start (u.mgmt.log.filter fun x => decide (start ≤ x.seq))
      let more := u.mgmt.log.any fun x => decide (l.2 ≤ x.seq)
      let lost := u.mgmt.log.head?.any fun x => decide (u64At p 0 < x.seq)
      let body := leBytes 8 l.2 ++ leBytes 2 l.1.length ++ leBytes 1 (flag more + 2 * flag lost) ++ zeros 5 ++ l.1.flatMap recordBytes
      Fits c body → exec (.eventRead r) s =
        .next ((if c.mtw then { u with mgmt.mtw.cursor := l.2 } else u : State).answerOk r body)) ∧
    (Runs specCounterRead r c s u p b → (∀ k, c.bay = some k → k = u16At p 0) → ∀ len, blockLen (u16At p 0) = some len →
      u16At p 2 + u16At p 4 ≤ len → 1 ≤ u16At p 4 → u16At p 4 ≤ 500 → u8At p 6 < 2 → zeroAt p 7 1 = true →
      let body := (items (u16At p 4) fun i => u.counter (u16At p 0) (u16At p 2 + i)).flatMap (leBytes 8)
      Fits c body → exec (.counterRead r) s = .next ((if bit (u8At p 6) 0
        then u.clearCounters (u16At p 0) (u16At p 2) (u16At p 4) else u).answerOk r body)) ∧
    (Runs specSensorRead r c s u p b →
      let body := leBytes 1 31 ++ zeros 7 ++ (List.range 31).flatMap fun n =>
        leBytes 2 n ++ leBytes 1 (sensorUnit n) ++ leBytes 1 (u.sensor n).status ++ leBytes 4 (unsignedOf 32 (u.sensor n).value)
      Fits c body → exec (.sensorRead r) s = .next (u.answerOk r body)) ∧
    (Runs specDeviceQuery r c s u p b →
      let body := leBytes 2 0xC212 ++ leBytes 1 u.ident.stepping ++ leBytes 1 u.ident.variant ++ leBytes 1 1 ++ leBytes 1 2 ++
        leBytes 1 (if u.isFatal then 2 else if u.dev.phase = .running then 1 else 0) ++ zeros 1 ++ leBytes 8 u.ident.serial ++
        leBytes 8 u.net.muster.config.nodeId ++ leBytes 4 u.runningSlot.version ++ leBytes 4 u.runningSlot.build ++
        timeBytes u.dev.now ++ zeros 2
      Fits c body → exec (.deviceQuery r) s = .next (u.answerOk r body)) ∧
    (Runs specSiloQuery r c s u p b → (u8At p 0 ≤ 11 ∨ u8At p 0 = 0xFF) → zeroAt p 1 7 = true →
      let ks := if u8At p 0 = 0xFF then List.range 12 else [u8At p 0]
      let fresh := fun (l : List (Option Int)) => l.zipIdx.map fun h =>
        if ks.contains h.2 then none else h.1
      let body := ks.flatMap (u.siloRecord c)
      Fits c body → exec (.siloQuery r) s = .next ((if c.mtw then { u with mgmt.high := fresh u.mgmt.high }
        else u.modSession c.handle fun x => { x with highTemp := fresh x.highTemp } : State).answerOk r body)) ∧
    (Runs specLoftQuery r c s u p b → (u8At p 0 ≤ 3 ∨ u8At p 0 = 0xFF) → zeroAt p 1 7 = true →
      let body := (if u8At p 0 = 0xFF then List.range 4 else [u8At p 0]).flatMap (u.loftRecord c)
      Fits c body → exec (.loftQuery r) s = .next (u.answerOk r body)) ∧
    (Runs specMemScrubConfig r c s u p b → u16At p 0 ≤ 168 → zeroAt p 2 6 = true →
      exec (.memScrubConfig r) s = .next (({ u with
        memsys.scrubHours := u16At p 0
        memsys.silos := u.memsys.silos.map fun x => { x with scrubAt := 0, scrubFrom := u.dev.now } } : State).answerOk r [])) ∧
    (Runs specLoftPortSet r c s u p b → ∀ k, k = u8At p 0 → k ≤ 3 → u8At p 1 ≤ 1 → zeroAt p 2 6 = true →
      (u8At p 1 = 0 → ∀ y ∈ u.bays, k ∉ y.space.loftExt) →
      exec (.loftPortSet r) s = .next ((if (u.loft k).state = .absent then u
        else if u8At p 1 = 0 then (u.modLoft k fun x => { x with state := .disabled }).abortMargins 2 k 0
        else if (u.loft k).state = .disabled
        then (u.newLabel k).2.modLoft k fun x => { x with state := .up, label := (u.newLabel k).1, writesOut := false }
        else u).answerOk r []))

/-- A silo's reading is kept and a higher throttle step waits for the window; after 10 ms below its leave threshold the step falls; a
silo that meets a loss condition is lost; an uncorrectable granule is recorded and reported; the scrub reads its next granule when its
time has come (the even pacing is the model's choice, log 189) (R443, R446 to R449, R452, R453). A loft port that is up goes down with
its reads chaffed; a port that is down comes back with its label, or is lost with every unit; its DevLoad level rises at the next
window and falls after 100 µs; poison is delivered with its read; corrected errors are counted; a lost unit that nothing names is
reclaimed; units recorded for zeroing are zeroed (R86, R459, R460, R463, R464, R710). -/
def Obligations.SilosAndLoftPortsReportAndFail : Prop :=
  (∀ (s : State) (k : Nat) (x : Silo), k ≤ 11 → s.memsys.silos[k]? = some x → x.lost = false →
     (∀ temp, exec (.siloTemperature k temp) s =
       let below := x.below.zipIdx.map fun b => if temp < leaveTemps.getD b.2 0 then b.1.orElse fun _ => some s.dev.now else none
       let v := s.modSilo k fun y => { y with
         temp := temp
         below := below
         nextStep := if x.nextStep.getD x.step < stepFor temp then some (stepFor temp) else y.nextStep }
       let up := fun (l : List (Option Int)) => l.modify k fun h => some ((h.map (max · temp)).getD temp)
       .next { v with
         net.sessions := v.net.sessions.map fun y => { y with highTemp := up y.highTemp }
         mgmt.high := up v.mgmt.high }) ∧
     (∀ t, 1 ≤ x.step → x.step ≤ 4 → x.nextStep = none → x.below.getD (x.step - 1) none = some t →
       max t x.stepAt + 10000000 ≤ s.dev.now →
       exec (.throttleFall k) s = .next (s.modSilo k fun y => { y with nextStep := some (y.step - 1) })) ∧
     (∀ cond, (cond = 0 ∧ (∃ t, x.haltedAt = some t ∧ t + 1000000000 ≤ s.dev.now) ∨ cond = 1 ∨ cond = 3 ∨
         cond = 2 ∧ ∃ t, x.ue[256]? = some t ∧ s.dev.now ≤ t + 1000000) →
       exec (.siloLost k cond) s = .next (s.loseSilo k cond)) ∧
     (∀ pc bay g, pc ≤ 31 → exec (.siloUe k pc bay g) s = .next (s.siloUe k pc bay g)) ∧
     (∀ pc bay g result, pc ≤ 31 → x.step ≠ 4 → s.memsys.scrubHours ≠ 0 → s.scrubNext k pc bay g x = true →
       x.scrubFrom + s.scrubTime x.scrubAt ≤ s.dev.now → s.deviceMay k ((s.wants ++ s.heads).any fun w => w.points.contains k) = true →
       let n := if result = 1 then 2 else 1
       let u := (s.chargeFor none false k (64 * (n + 3))).takeSlots k n
       let v := if result = 1 then u.siloCorrected k pc (min bay 16) else if result = 2 then u.siloUe k pc bay g else u
       exec (.scrub k pc bay g result) s = .next (if v.siloGranules ≤ x.scrubAt + 1
         then (v.modSilo k fun y => { y with scrubAt := 0, scrubFrom := x.scrubFrom + v.scrubTime (x.scrubAt + 1) }).count (0x100 + k) 7 1
         else v.modSilo k fun y => { y with scrubAt := x.scrubAt + 1 }))) ∧
  ((∀ (s : State) (k : Nat), k ≤ 3 →
     (∀ cause, ((s.loft k).state = .up ∨ (s.loft k).state = .lost) → exec (.loftDown k cause) s = .next (s.loftDown k cause)) ∧
     (∀ trained label, (s.loft k).state = .down → (s.loft k).downAt + 1000000000 ≤ s.dev.now → s.domainA0 (58 + k) = true →
       (trained = 0 → exec (.loftRetrain k trained label) s = .next (s.modLoft k fun x => { x with downAt := s.dev.now })) ∧
       (trained ≠ 0 → label = 1 → (s.loft k).writesOut = false → exec (.loftRetrain k trained label) s =
         .next ((s.modLoft k fun x => { x with state := .up }).raise 0x0305 0 none (some (loftDie k)) (leBytes 1 k))) ∧
       (trained ≠ 0 → (label ≠ 1 ∨ (s.loft k).writesOut = true) →
         let v := ((s.newLabel k).2.loseUnits k).modLoft k fun x => { x with state := .lost, label := (s.newLabel k).1, writesOut := false }
         exec (.loftRetrain k trained label) s = .next (v.raise 0x0306 2 none (some (loftDie k))
           (leBytes 1 k ++ zeros 1 ++ leBytes 2 (v.lostUnits k none - s.lostUnits k none))))) ∧
     (∀ level, level ≤ 3 → ((s.loft k).state = .up ∨ (s.loft k).state = .lost) →
       let v := s.modLoft k fun x => { x with devloadAt := x.devloadAt.set level s.dev.now }
       ((s.loft k).devload < level → exec (.loftDevload k level) s =
         .next (v.modLoft k fun x => { x with devloadNext := some (max level (x.devloadNext.getD 0)) })) ∧
       (level ≤ (s.loft k).devload → exec (.loftDevload k level) s = .next (
         if v.devloadNow k level < (s.loft k).devload ∧ (s.loft k).devloadNext = none then v.setDevload k (v.devloadNow k level) else v))) ∧
     (∀ bay n, ((s.loft k).state = .up ∨ (s.loft k).state = .lost) → exec (.loftEventPoll k bay n) s =
       .next ((s.modLoft k fun x => { x with errs := addErrs x.errs (min bay 16) n 0 }).count (0x200 + k) 3 n)) ∧
     (s.stewardsUp = true → (s.loft k).state = .up →
       let left := s.flash.loftToZero.filter fun x => x.2 != k
       let done := s.flash.zeroing.filter fun b => s.bayState b == .absent && !left.any fun x => x.1 == b
       let v : State := { s with flash.loftToZero := left, flash.zeroing := s.flash.zeroing.filter fun b => !done.contains b }
       exec (.loftUnitZeroed k) s = .next (done.foldl (fun s b =>
         State.raise s 0x0C03 0 (some b) none (leBytes 4 ((s.dev.now - s.dev.readyAt) / 1000000))) v))) ∧
   (∀ (s : State) (id : Nat) (bad : List Nat) (r : Read), findKey Read.id s.dp.reads id = some r → r.space = 2 → r.started = true →
     exec (.loftPoison id bad) s = .next ((s.badGranules r bad).deliver' r ((s.badGranules r bad).granules r))) ∧
   (∀ (s : State) (b e k : Nat), b ≤ 15 → (s.bay b).space.loftExt[e]? = some k → e ∈ (s.bay b).space.lostLoft →
     ((s.loft k).state = .up ∨ (s.loft k).state = .lost) →
     let unit : Run := ⟨e * unitGranules, unitGranules⟩
     ((s.rowRuns b 2).any fun x => runsMeet x unit) = false → ((s.bay b).space.loftFreed.any fun x => runsMeet x.1 unit) = false →
     exec (.loftUnitReclaimed b e) s = .next (((s.zero .loft b 0 unit.first unit.len).modBay b fun y =>
       { y with space := { y.space with lostLoft := y.space.lostLoft.filter (· != e) } }).raise 0x0307 0 none (some (loftDie k))
         (leBytes 1 k ++ zeros 1 ++ leBytes 2 (s.unitNumber b e)))))

/-- FW_STAGE takes a chunk of an image and, with the last, the image; FW_ACTIVATE makes a valid slot the trial slot, FW_ROLLBACK
the one to go back to; FW_QUERY reports; SELFTEST_RUN and MARGIN_RUN start runs and their RESULT commands report; DEVICE_RESET
is answered before the reset; ADMIN_REKEY keeps the new secret and ends the other device-scope sessions (R595, R610, R698 to
R706, R712 to R716, R719). -/
def Obligations.MaintenanceCommandsComplete : Prop :=
  ∀ (r : Req) (c : Caller) (s u : State) (p : List Byte) (b : Nat),
    (Runs specFwStage r c s u p b → zeroAt p 8 8 = true → u.slotIn .trial = none →
      ∀ q, (if u32At p 0 = 0 then some ⟨0x0F01, u32At p 4, []⟩ else u.uploadOf (ctxOf c r p b) 0x0F01) = some q →
      q.data.length = u32At p 0 → q.total = u32At p 4 → u32At p 0 + (p.drop 16).length ≤ u32At p 4 →
      let v := if u32At p 0 = 0 then u.modFw u.stageSlot fun _ => Slot.none else u
      let m := q.data ++ p.drop 16
      (m.length < u32At p 4 →
        exec (.fwStage r) s = .next ((v.setUpload (ctxOf c r p b) 0x0F01 (some (u32At p 4, m))).answerOk r [])) ∧
      (m.length = u32At p 4 → imageOk m = true → u.lan.floor ≤ u32At m 20 →
        Config.ed25519 Config.romKey (m.take (m.length - 64)) (m.drop (m.length - 64)) = true →
        let body := leBytes 1 u.stageSlot ++ zeros 7
        Fits c body → exec (.fwStage r) s = .next (((v.setUpload (ctxOf c r p b) 0x0F01 none).modFw u.stageSlot fun _ =>
          ⟨.valid, u32At m 8, u64At m 12, u32At m 20, u16At m 6, bit (u8At m 5) 0, true⟩).answerOk r body))) ∧
    (Runs (maintSpec 0x0F02 8) r c s u p b → u8At p 0 < 2 → u8At p 1 < 2 → zeroAt p 2 6 = true →
      (u.slotShown (u8At p 0)).state = .valid →
      exec (.fwActivate r) s = .next ((u.activate (u8At p 0) (bit (u8At p 1) 0)).answerOk r [])) ∧
    (Runs (maintSpec 0x0F03 0) r c s u p b →
      let body := (List.range 2).flatMap fun i => leBytes 1 i ++ leBytes 1 (slotCode (u.slotShown i).state) ++ zeros 2 ++
        leBytes 4 (u.slotShown i).version ++ leBytes 8 (u.slotShown i).build
      Fits c body → exec (.fwQuery r) s = .next (u.answerOk r body)) ∧
    (Runs (maintSpec 0x0F04 0) r c s u p b → u.slotIn .trial = none → ∀ i,
      ((List.range 2).find? fun i => (u.slotShown i).state == .valid) = some i →
      exec (.fwRollback r) s = .next ((u.activate i true).answerOk r [])) ∧
    (Runs (maintSpec 0x0F10 8) r c s u p b → u32At p 0 < 1024 → zeroAt p 4 4 = true →
      (bits (u32At p 0) 1 6 = 0 ∨ ∀ b, b < 16 → u.bayState b = .absent) → (∀ t ∈ u.mgmt.selftests, t.state ≠ 0) →
      ∀ body, body = leBytes 4 u.mgmt.nextRun ++ zeros 4 → Fits c body →
      exec (.selftestRun r) s = .next (({ u with
        mgmt.nextRun := (u.mgmt.nextRun + 1) % 2 ^ 32
        mgmt.selftests := (⟨u.mgmt.nextRun, u32At p 0, 0, 0, 0⟩ :: u.mgmt.selftests).take 8 } : State).answerOk r body)) ∧
    (Runs (maintSpec 0x0F11 8) r c s u p b → zeroAt p 4 4 = true → ∀ t,
      (u.mgmt.selftests.find? fun t => t.run == u32At p 0) = some t →
      let body := leBytes 1 t.state ++ zeros 3 ++ leBytes 4 t.failed ++ leBytes 8 t.failure
      Fits c body → exec (.selftestResult r) s = .next (u.answerOk r body)) ∧
    (Runs (maintSpec 0x0F30 16) r c s u p b → ∀ kind index sub lanes, kind = u8At p 0 → index = u8At p 1 → sub = u8At p 2 →
      u.marginTarget kind index sub = (true, true, lanes) → u.marginLegal kind index sub = true → kind ≤ 5 → u8At p 3 < 2 →
      u32At p 4 ≠ 0 → u32At p 4 < 2 ^ lanes → zeroAt p 8 8 = true → (u.mgmt.margins.filter fun m => m.state == 0).length < 4 →
      (∀ m ∈ u.mgmt.margins, m.state = 0 → ¬ (m.kind = kind ∧ m.index = index ∧ m.sub = sub)) →
      ∀ body, body = leBytes 4 u.mgmt.nextRun ++ zeros 4 → Fits c body →
      exec (.marginRun r) s = .next (({ u with
        mgmt.nextRun := (u.mgmt.nextRun + 1) % 2 ^ 32
        mgmt.margins := (⟨u.mgmt.nextRun, kind, index, sub, u8At p 3, u32At p 4, 0, []⟩ :: u.mgmt.margins).take 8 } :
          State).answerOk r body)) ∧
    (Runs (maintSpec 0x0F31 8) r c s u p b → zeroAt p 4 4 = true → ∀ m,
      (u.mgmt.margins.find? fun m => m.run == u32At p 0) = some m →
      let body := leBytes 1 m.state ++ leBytes 1 m.results.length ++ zeros 6 ++ m.results.flatMap fun r =>
        leBytes 1 r.1 ++ zeros 1 ++ leBytes 2 r.2.1 ++ leBytes 2 r.2.2.1 ++ leBytes 2 r.2.2.2
      Fits c body → exec (.marginResult r) s = .next (u.answerOk r body)) ∧
    (Runs (maintSpec 0x0F40 8) r c s u p b → u8At p 0 < 2 → zeroAt p 1 7 = true →
      exec (.deviceReset r) s = .next (({ u with dev.pendingReset := some (u8At p 0) } : State).answerOk r [])) ∧
    (Runs specAdminRekey r c s u p b →
      let v := ({ u with flash.adminSecret := p } : State).raise 0x0C0B 0 none none []
      exec (.adminRekey r) s = .next ((((v.baySessions none).filter fun x => x.handle != c.handle).foldl
        (fun s x => State.endSession s x.handle) v).answerOk r []))

/-- Each boot phase ends with its result and the next begins; Ready makes the device run; a trial image is confirmed after 60 s;
a self-test and a margining run end with their results (R704, R707 to R713, R715, R716). -/
def Obligations.BootPhasesComplete : Prop :=
  ∀ (s : State),
    (s.dev.phase = .booting →
      (s.dev.boot = .verify → exec (.bootPhase .verify) s =
        .next (((({ s with dev.boot := .records } : State).flushBuffered).raiseNotes).bootLine 1)) ∧
      (∀ eeprom variant, s.dev.boot = .records →
        let v := ({ s with dev.boot := .domains, ident.variant := if eeprom then variant % 2 else s.ident.variant } : State).loadRecords
        exec (.bootPhase (.records eeprom variant)) s = .next ((if eeprom then v else v.failBoot).bootLine 2)) ∧
      (s.dev.boot = .domains → exec (.bootPhase .domains) s = .next (({ s with dev.boot := .silos } : State).bootLine 3)) ∧
      (∀ a b c, s.dev.boot = .silos → exec (.bootPhase (.silos a b c)) s =
        .next ((({ s with dev.boot := .init } : State).trainSilos a b c).bootLine 4)) ∧
      (s.dev.boot = .init → exec (.bootPhase .init) s =
        .next (({ s with dev.boot := .selftest, mem := [], poison := [] } : State).bootLine 5)) ∧
      (∀ failed code, s.dev.boot = .selftest →
        let v : State := { s with dev.boot := .ports }
        exec (.bootPhase (.selftest failed code)) s = .next ((if failed &&& 0x3F = 0 then v
          else (v.raise 0x0C0A 2 none none (zeros 4 ++ leBytes 4 (failed &&& 0x3F))).failBoot).bootLine 6)) ∧
      (∀ loft, s.dev.boot = .ports → exec (.bootPhase (.ports loft)) s = .next (((loft.take 4).zipIdx.foldl
        (fun s x => State.trainLoft s x.2 x.1) ({ s with dev.boot := .ready } : State)).bootLine 7)) ∧
      (s.dev.boot = .ready →
        let a := ({ s with
          dev.phase := .running, dev.windowStart := s.dev.now, dev.readyAt := s.dev.now
          mgmt.high := List.replicate 12 none
          memsys.silos := s.memsys.silos.map fun x => { x with scrubFrom := s.dev.now }
          lan.held := false, lan.failsafe := false, lan.resets := 0, lan.wdogAt := s.dev.now } : State).raise 0x0C06 0 none none
            (leBytes 1 (s.dev.slot.getD 0) ++ zeros 3 ++ leBytes 4 s.runningSlot.version)
        let d := a.console
          (ascii "ready slot " ++ decimal (a.dev.slot.getD 0) ++ ascii " version " ++ decimal a.runningSlot.version ++ crlf)
        let e := ((s.flash.fatal.reverse.foldl (fun s r => State.console s (consoleRecord r)) d).startAnnounce 0).startTrial.driveFans.zeroedAgain
        let f := if e.dev.bootFailed then e.goFatal else e
        exec .bootComplete s = .next (if f.board.parkAtBoot then f.startParking else f))) ∧
    (∀ i t, s.slotIn .trial = some i → s.dev.trialSince = some t → s.stewardsUp = true → s.dev.bootFailed = false →
      t + 60000000000 ≤ s.dev.now →
      let x := s.fwSlot i
      exec .trialConfirmed s = .next (({ s with
        flash.slots := (s.flash.slots.map fun y => if y.state = .active then { y with state := .valid } else y).modify i
          fun y => { y with state := .active }
        dev.trialSince := none
        lan.floor := if x.raiseFloor then max s.lan.floor x.security else s.lan.floor } : State).raise 0x0C08 0 none none
          (leBytes 1 i ++ zeros 3 ++ leBytes 4 x.version))) ∧
    (∀ run failed code t, (s.mgmt.selftests.find? fun t => t.run == run && t.state == 0) = some t →
      let f := failed &&& t.mask
      let t' : SelfTest := { t with state := if f = 0 then 1 else 2, failed := f, failure := if f = 0 then 0 else code }
      let v : State := { s with mgmt.selftests := s.mgmt.selftests.map fun x => if x.run = run then t' else x }
      exec (.selftestDone run failed code) s =
        .next (if f = 0 then v else v.raise 0x0C0A 2 none none (leBytes 4 run ++ leBytes 4 f))) ∧
    (∀ run results m, (s.mgmt.margins.find? fun m => m.run == run && m.state == 0) = some m →
      let of := fun (k : Nat) => (((results.find? fun r => r.1 == k).map fun r => (r.2.1, r.2.2)).getD (0, 0))
      let m' : Margin := if s.marginLegal m.kind m.index m.sub
        then { m with state := 1, results := ((List.range 32).filter fun k => bit m.lanes k).map fun k => (k, (of k).1, (of k).2, m.axis) }
        else { m with state := 2 }
      exec (.marginDone run results) s =
        .next { s with mgmt.margins := s.mgmt.margins.map fun x => if x.run = run then m' else x })

/-- NET_PORT_QUERY reports a port; NET_PORT_SET applies a port's settings after its answer; NET_ADDR_SET replaces a sub-port's
addresses, in flash too (R467, R471, R473 to R475, R478, R479, R497). A PFC frame pauses or resumes its priority, whose pause ends in
its time; one paused for 100 ms is reported; ingress at XOFF pauses the sender, is repeated every 20 µs, and below XON resumes it;
preemption is verified; a link that changes is reported; a frame's mark gives its priority, and it is counted, taken, answered or
discarded; the fragments of one are held until the last makes it whole, or discarded where they do not follow (R467 to R476, R479,
R481, R482). -/
def Obligations.PortCommandsAndEventsComplete : Prop :=
  (∀ (r : Req) (c : Caller) (s u : State) (p : List Byte) (b : Nat),
     (Runs specNetPortQuery r c s u p b → u8At p 0 < 8 → zeroAt p 1 7 = true →
       let cage := ((u.net.ports[u8At p 0]?).map Port.cage).getD 0
       let subs := (((u.net.ports[u8At p 0]?).map Port.subs).getD []).take (modeSubs (u.portMode (u8At p 0)))
       let body := portBytes (u8At p 0) (u.settings (u8At p 0)) ++ subs.zipIdx.flatMap fun x =>
         leBytes 1 x.2 ++ leBytes 1 (linkByte cage x.1) ++ leBytes 1 (verifyCode x.1.verify) ++ zeros 5 ++
           (items 5 fun i => natAt x.1.counters i).flatMap fun n => leBytes 8 n
       Fits c body → exec (.netPortQuery r) s = .next (u.answerOk r body)) ∧
     (Runs specNetPortSet r c s u p b → ∀ x, x = settingsOf p → u8At p 0 < 8 → x.mode ≤ 5 → x.preempt ≤ 1 →
       (∀ i, i < 3 → u8At p (5 + i) ≤ 7 ∧ u8At p (8 + i) ≤ 63) → zeroAt p 11 1 = true → x.xoff ≤ sharedBytes x.mode x.pfcMask →
       x.xon < x.xoff → 1 ≤ x.stepDen → zeroAt p 25 3 = true → 1024 ≤ x.vcpPort → zeroAt p 34 2 = true →
       (∀ i, i < 64 → u8At p (36 + i) ≤ 7) → headroom x.mode x.pfcMask ≤ 3145728 →
       exec (.netPortSet r) s = .next ((u.answerOk r []).setPort (u8At p 0) x)) ∧
     (Runs specNetAddrSet r c s u p b → u8At p 0 < 8 → u8At p 1 < modeSubs (u.portMode (u8At p 0)) → u8At p 2 ≤ 8 →
       zeroAt p 3 5 = true → ∀ l, l = items (u8At p 2) (addrItem p) → (∀ i, i < u8At p 2 → addrItemOk p i = true ∧
         ((l.take (i + 1)).filter fun a => a.addr.v6 == (addrItem p i).addr.v6).length ≤ 4) →
       let v := u.modSub (u8At p 0) (u8At p 1) fun x => { x with addrs := l }
       exec (.netAddrSet r) s = .next (({ v with flash.addrs :=
         (v.flash.addrs.filter fun a => !(a.1 == u8At p 0 && a.2.1 == u8At p 1)) ++ [(u8At p 0, u8At p 1, l)] } : State).answerOk r []))) ∧
  (∀ (s : State) (port sub : Nat), hasSub port sub = true →
     (∀ prio, prio < 8 →
       (s.alive port sub = true → ∀ quanta,
         let v := s.count (0x300 + port) (16 * sub + 9) 1
         exec (.pfcFrame port sub prio quanta) s = .next (if v.pfcOn port prio = false then v
           else if quanta = 0 then v.resumePrio port sub prio
           else v.modPrio port sub prio fun p => { p with
             pausedSince := some (p.pausedSince.getD v.dev.now)
             pausedUntil := v.dev.now + (quanta % 65536) * 512 * 1000000 / modeRateKb (v.portMode port) })) ∧
       (∀ p, s.prio port sub prio = some p → p.pausedSince.isSome = true → p.pausedUntil ≤ s.dev.now →
         exec (.pfcPauseExpiry port sub prio) s = .next (s.resumePrio port sub prio)) ∧
       (∀ p t, s.prio port sub prio = some p → p.pausedSince = some t → s.dev.now < p.pausedUntil → t + 100000000 ≤ s.dev.now →
         (∀ a, p.stormAt = some a → a + 10000000000 ≤ s.dev.now) →
         exec (.netPfcStorm port sub prio) s = .next ((s.modPrio port sub prio fun p => { p with stormAt := some s.dev.now }).raise
           0x0703 1 none (some (port / 4)) (leBytes 1 port ++ leBytes 1 sub ++ leBytes 1 prio ++ zeros 1 ++
             leBytes 4 ((s.dev.now - t) / 1000000)))) ∧
       (s.alive port sub = true → ∀ n,
         let paused := (s.prio port sub prio).any fun p => p.xoffAt.isSome
         let v := s.modPrio port sub prio fun p => { p with occupancy := n }
         exec (.pfcXoff port sub prio n) s = .next (
           if v.pfcOn port prio = true ∧ paused = false ∧ (v.settings port).xoff ≤ n
           then (v.modPrio port sub prio fun p => { p with xoffAt := some s.dev.now }).sendPfc port sub prio 0xFFFF
           else if paused = true ∧ n < (v.settings port).xon
           then (v.modPrio port sub prio fun p => { p with xoffAt := none }).sendPfc port sub prio 0 else v)) ∧
       (∀ p t, s.alive port sub = true → s.prio port sub prio = some p → (s.settings port).xon ≤ p.occupancy → p.xoffAt = some t →
         t + 20000 ≤ s.dev.now → exec (.pfcRepeat port sub prio) s =
           .next ((s.modPrio port sub prio fun p => { p with xoffAt := some s.dev.now }).sendPfc port sub prio 0xFFFF))) ∧
     (∀ x n answered frag, s.subPort port sub = some x → x.verify = .verifying n → x.link = true →
       (0 < answered ∨ x.verifyAt + 10000000 ≤ s.dev.now) →
       exec (.preemptVerify port sub answered frag) s = .next (
         if 0 < answered then s.modSub port sub fun x => { x with verify := .active, fragSize := frag % 4 }
         else if n < 3 then (s.modSub port sub fun x => { x with verify := .verifying (n + 1), verifyAt := s.dev.now }).emit
           (.preemptVerify port sub 0)
         else (s.modSub port sub fun x => { x with verify := .failed }).raise 0x0704 1 none (some (port / 4))
           (leBytes 1 port ++ leBytes 1 sub))) ∧
     (∀ up p, sub < modeSubs (s.portMode port) → s.linkUp port sub ≠ up → s.net.ports[port]? = some p →
       (up = true → s.dev.phase = .running ∧ p.cage ≠ 2) →
       exec (.netLinkChange port sub up) s = .next (({ s with
         net.ports := s.net.ports.modify port fun p => if up = true ∧ p.cage = 0 then { p with cage := 1 } else p } : State).setLink
           port sub up)) ∧
     (∀ n tags mark fixed f, mark < 64 → (tags = 0 ∨ mark < 8) → s.alive port sub = true → s.portOn port = true →
       let prio := if tags = 0 then natAt (s.settings port).dscpMap mark else mark
       let u := s.countSub port sub 0 fixed
       let held := (u.subPort port sub).bind SubPort.fragment
       let cut := if held.isSome then (u.discardFrame port sub).modSub port sub fun x => { x with fragment := none } else u
       (f = .firstPart → exec (.frameReceive port sub n tags mark fixed f) s =
         .next (cut.modSub port sub fun x => { x with fragment := some n })) ∧
       (∀ inOrder last whole, f = .nextPart inOrder last whole →
         (held = none → exec (.frameReceive port sub n tags mark fixed f) s = .next (u.discardFrame port sub)) ∧
         (∀ m, held = some m → exec (.frameReceive port sub n tags mark fixed f) s = .next (
           if inOrder = false then cut
           else if last then ((u.modSub port sub fun x => { x with fragment := none }).count (0x300 + port) (16 * sub + 12) 1).frameIn
             port sub (m + n) tags prio whole
           else u.modSub port sub fun x => { x with fragment := some (m + n) }))) ∧
       (f ≠ .firstPart → (∀ inOrder last whole, f ≠ .nextPart inOrder last whole) → exec (.frameReceive port sub n tags mark fixed f) s =
         .next ((if bit (u.settings port).expressMask prio then u else cut).frameIn port sub n tags prio f))) ∧
     (∀ n tags prio f,
       let v := (s.count (0x300 + port) (16 * sub) 1).count (0x300 + port) (16 * sub + 2) n
       let drop := v.discardFrame port sub
       (∀ cw, f = .badFcs cw → s.frameIn port sub n tags prio f =
         ((if cw then v.countSub port sub 1 1 else v).countSub port sub 2 1).discardFrame port sub) ∧
       ((∀ cw, f ≠ .badFcs cw) → (9216 < n ∨ 1 < tags ∨ (s.pfcOn port prio = false ∧ s.sharedFull port = true)) →
         s.frameIn port sub n tags prio f = drop) ∧
       (n ≤ 9216 → tags ≤ 1 → (s.pfcOn port prio = true ∨ s.sharedFull port = false) →
         (f = .ours → s.frameIn port sub n tags prio f = s) ∧
         (f = .badIcrc → s.frameIn port sub n tags prio f = drop.countDiscard 3) ∧
         (f = .fragment → s.frameIn port sub n tags prio f = drop.countDiscard 4) ∧
         (f = .lldp ∨ f = .other → s.frameIn port sub n tags prio f = drop) ∧
         (∀ a, f = .resolve a → s.frameIn port sub n tags prio f = if (s.answersOn port sub).contains a
           then v.sendFrames port sub 1 1 ((if a.v6 then 90 else 64) + tagBytes (s.vlanOf port sub a))
             (.frame port sub (if a.v6 then 1 else 0) (beBytes 6 (s.macOf port sub))) (vlan := s.vlanOf port sub a)
           else drop) ∧
         (∀ a d, f = .echo a d → s.frameIn port sub n tags prio f = if (s.answersOn port sub).contains a = true ∧ n ≤ 4200
           then v.sendFrames port sub 1 1 n (.frame port sub 2 d) (vlan := s.vlanOf port sub a) else drop))))

/-- A queue pair in RTS: an acknowledgement frees what it covers, and a NAK resends the rest or ends the pair; a timeout
resends, or ends the pair when no retry is left; a READ is answered by a NAK; acknowledgements are coalesced for 2 µs; a CNP
cuts the rate, an interval without one raises it, and a marked packet is answered by a CNP once in 50 µs. A pair whose session
has ended is freed (R477, R478, R484, R489). -/
def Obligations.QueuePairEventsComplete : Prop :=
  ∀ (s : State) (n : Nat) (q : Qp), s.qp n = some q →
    (q.error = none → ∀ kind psn,
      let left := afterAck q.mtu (if kind = 0 then psn + 1 else psn) q.unacked
      let v := s.modQp n fun q => if left = q.unacked then q else { q with unacked := left, sentAt := s.dev.now, retriesLeft := q.retryMax }
      exec (.rdmaAck n kind psn) s = .next (if kind = 0 then v else if kind ≤ 2 then v.resend n else v.qpError n 1)) ∧
    (q.error = none → q.unacked ≠ [] → q.sentAt + q.timeout ≤ s.dev.now →
      exec (.qpRetryTimeout n) s = .next (if q.retriesLeft = 0 then s.qpError n 0
        else (s.modQp n fun q => { q with retriesLeft := q.retriesLeft - 1 }).resend n)) ∧
    ((∀ x, s.session q.session = some x → x.state = .ended) → s.sessionWork q.session = [] → q.unacked = [] →
      exec (.qpError n) s = .next ((s.qpError n 3).freeQp n)) ∧
    (q.error = none → s.linkUp q.port q.sub = true → ∀ kind,
      exec (.rdmaRead n kind) s = .next (s.sendNak q (if kind = 0 then .remoteAccess else .invalidRequest))) ∧
    (q.error = none → 0 < q.rxUnacked → q.rxLast + 2000 ≤ s.dev.now →
      exec (.responderAckDeadline n) s = .next (s.rcAck q (.ack n))) ∧
    (q.error = none →
      let p := s.settings q.port
      let cut := q.cutAt.all fun t => decide (t + 1000 * p.intervalUs ≤ s.dev.now)
      exec (.cnpReceive n) s = .next (s.modQp n fun q => { q with
        cnps := satAdd 64 q.cnps 1
        quietSince := s.dev.now
        rateKb := if cut then max (min q.rateKb (1000 * p.floorMb)) (q.rateKb / 2) else q.rateKb
        cutAt := if cut then some s.dev.now else q.cutAt })) ∧
    (q.error = none →
      let p := s.settings q.port
      q.quietSince + 1000 * p.intervalUs ≤ s.dev.now →
      exec (.rateIncrease n) s = .next (s.modQp n fun q => { q with
        quietSince := s.dev.now, rateKb := min (modeRateKb p.mode) (q.rateKb + modeRateKb p.mode / p.stepDen) })) ∧
    (q.error = none → s.linkUp q.port q.sub = true → (∀ t, q.cnpAt = some t → t + 50000 ≤ s.dev.now) →
      let k := udpFrame q.clientIp.v6 (12 + 16 + 4) + tagBytes (s.qpVlan q)
      let v := (s.modQp n fun q => { q with cnpAt := some s.dev.now }).count (0x300 + q.port) (16 * q.sub + 10) 1
      exec (.ceMarkedPacket n) s = .next (v.sendFrames q.port q.sub 0 1 k (.cnp n) q.bay (vlan := s.qpVlan q)))

/-- YOKE_SET disables a yoke link or lets it train; LINK_QUERY reports the links (R518, R541). A link of the ridge or a yoke takes a
group with the credit it returns, and what waits for the link goes on (R513), or discards it with a NAK; it replays at a NAK and
at its timeout, retrains after 16 replays, and comes up, retries, goes down or, for the ridge after three failures, is lost; a
yoke trains and is lost (R514 to R518). -/
def Obligations.LinksRetryAndRetrain : Prop :=
  (∀ (r : Req) (c : Caller) (s u : State) (p : List Byte) (b : Nat),
    (Runs specYokeSet r c s u p b → u8At p 0 < 4 → u8At p 1 ≤ 1 → zeroAt p 2 6 = true → ∀ i, i = u8At p 0 + 1 →
      exec (.yokeSet r) s = .next ((if u8At p 1 = 0
        then (((u.modLink i fun l => { l with
          state := .disabled, since := u.dev.now, sendNext := 0, sendBase := 0, expected := 0, replaysRun := 0, attempts := 0,
          credits := [0, 0, 0], owed := 0, queue := [] }).resumeLink i).withdrawVotes (19 + i)).abortMargins 1 (u8At p 0) 0
        else if (u.link i).state = .disabled then u.modLink i fun l => { l with state := .training, since := u.dev.now }
        else u).answerOk r [])) ∧
    (Runs specLinkQuery r c s u p b →
      let body := (u.fab.links.flatMap fun l => leBytes 1 (linkCode l.state) ++ zeros 7 ++ leBytes 8 l.partner ++ leBytes 8 l.replays ++
        leBytes 8 l.crcErrors ++ leBytes 8 l.retrains ++ leBytes 8 l.malformed) ++ leBytes 8 u.fab.reasmDrops
      Fits c body → exec (.linkQuery r) s = .next (u.answerOk r body))) ∧
  (∀ (s : State) (k : Nat), k < 5 →
    let l := s.link k
    let held := (l.sendNext + 256 - l.sendBase) % 256
    (s.inService k = true →
      (∀ seq ok ack vote credits,
        let d := (ack % 256 + 256 - l.sendBase) % 256
        let freed := decide (0 < d) && decide (d ≤ held)
        let a := if freed then s.modLink k fun l => { l with sendBase := ack % 256, sentAt := s.dev.now, replaysRun := 0 } else s
        let v := if freed && (l.state == .retry || (l.state == .replay && d == held)) then a.backUp k else a
        let goesOn := fun (z : State) => if k = 0 then z.pump else z.serveLink k
        (ok = false →
          let w := (v.modLink k fun l => { l with crcErrors := satAdd 64 l.crcErrors 1 }).count (0x400 + k) 3 1
          exec (.flitGroupReceive k seq ok ack ⟨vote, credits⟩) s =
            .next (if seq % 256 = l.expected then (w.enterRetry k).emit (.linkNak k l.expected) else goesOn w)) ∧
        (ok = true → seq % 256 ≠ l.expected → exec (.flitGroupReceive k seq ok ack ⟨vote, credits⟩) s = .next (goesOn v)) ∧
        (ok = true → seq % 256 = l.expected →
          let w := ((v.modLink k fun l => { l with expected := (l.expected + 1) % 256 }).partnerVote k vote).modLink k fun l =>
            { l with credits := l.credits.zipIdx.map fun c => c.1 + natAt credits c.2 }
          exec (.flitGroupReceive k seq ok ack ⟨vote, credits⟩) s =
            .next (goesOn (if (w.link k).state = .retry ∧ freed = false ∧ l.replaysRun = 0 then w.backUp k else w)))) ∧
      (∀ g, (g % 256 + 256 - l.sendBase) % 256 < held → l.replaysRun < 16 → exec (.linkNak k g) s =
        .next ((if (g % 256 + 256 - l.sendBase) % 256 = 0 then s
          else s.modLink k fun l => { l with sendBase := g % 256, replaysRun := 0 }).replay k)) ∧
      (l.sendBase ≠ l.sendNext → l.replaysRun < 16 → l.sentAt + replayNs k ≤ s.dev.now →
        exec (.replayTimeout k) s = .next (s.replay k))) ∧
    ((l.state = .retry ∨ l.state = .replay) → 16 ≤ l.replaysRun → l.sentAt + replayNs k ≤ s.dev.now →
      exec (.retryBudgetExhausted k) s = .next (s.startRetrain k)) ∧
    (∀ ok, l.state = .retrain → l.attempts < 3 → exec (.retrainDone k ok) s = .next (
      if ok then (if l.sendBase = l.sendNext then (if k = 0 then (s.backUp k).pump else (s.backUp k).serveLink k)
        else (s.modLink k fun l => { l with state := .replay, since := s.dev.now, sentAt := s.dev.now, replaysRun := 0, attempts := 0 }).emit
          (.linkReplay k l.sendBase))
      else if k ≠ 0 then s.yokeDown k
      else
        let v := s.modLink 0 fun l => { l with attempts := l.attempts + 1 }
        if l.attempts + 1 < 3 then v.startRetrain 0 else v))) ∧
  (∀ (s : State), (s.link 0).state = .retrain → 3 ≤ (s.link 0).attempts → exec .ridgeLost s =
    .next (((s.modLink 0 fun l => { l with state := .down, since := s.dev.now }).resumeLink 0).raise 0x0802 3 none none []).goFatal) ∧
  (∀ (s : State) (y : Nat), y ≤ 3 →
    ((s.link (y + 1)).state.carries = true → exec (.yokeDown y) s = .next (s.yokeDown (y + 1))) ∧
    (∀ ok partner field credits, (s.link (y + 1)).state ≠ .disabled → (s.link (y + 1)).state.carries = false → s.dev.phase = .running →
      let v := s.modLink (y + 1) fun l => { l with
        partner := partner, since := s.dev.now, sendNext := 0, sendBase := 0, expected := 0, replaysRun := 0, attempts := 0,
        credits := items 3 (natAt credits), owed := 0, queue := [] }
      let args := leBytes 1 y ++ zeros 3 ++ leBytes 8 partner
      exec (.yokeTrain y ok partner ⟨field, credits⟩) s = .next (
        if ok = false then s.modLink (y + 1) fun l => { l with state := .down, since := s.dev.now }
        else if field ≠ s.net.muster.config.fieldId ∨ partner = s.net.muster.config.nodeId
        then (v.modLink (y + 1) fun l => { l with state := .foreign }).raise 0x0805 1 none (some (linkDie (y + 1))) args
        else (v.modLink (y + 1) fun l => { l with state := .up }).raise 0x0803 0 none (some (linkDie (y + 1))) args)))

/-- SHARD_MAP_LOAD installs a checked map where no other package holds a part of the table before or after, and asks the others
to prepare it where one does; SHARD_MAP_GET reports the map; a message of a command on several packages is acted on and
answered; a map that no work in flight is bound to any more is retired (R534, R535, R538, R539). -/
def Obligations.ShardMapsAreLoadedAndRetired : Prop :=
  (∀ (r : Req) (c : Caller) (s u : State) (p : List Byte) (b : Nat),
    (Runs specShardMapLoad r c s u p b → AccessesNow true doShardMapLoad (ctxOf c r p b) u → Good (bulkChecks p 0 [1, 2] (u.ringBytes b)) →
      16 ≤ (bulkAt p 0).length →
      ∀ n t, n = u16At (bulkSource u b p 0 24) 0 → TableFree u b n t →
      let v := takeSource (ctxOf c r p b) u 0 24
      v.2.table b (u16At v.1 0) = some t → firstBad (v.2.mapChecks v.1 t.desc.rows) = none → t.prevMap = none →
      let raw := mapFrom v.1
      let own := fun (e : MapEntry) => if v.2.isSelf e.owner then { e with owner := v.2.selfNumber } else e
      let m : ShardMap := ⟨(t.map.version + 1) % 2 ^ 32, raw.entries.map own⟩
      ∀ segs w, v.2.newSegments b t m = some (segs, w) →
      let z := w.overlaps b t.id m
      let body := leBytes 4 m.version ++ zeros 4
      let nodes := z.otherNodes (m.entries.map MapEntry.owner)
      let msg := r.msg.take 16 ++ m.bytes t.id
      let y := z.putPrepared ⟨selfNode, z.dev.commands, b, t.id, segs, false, msg, false⟩
      let x : Span := ⟨z.dev.commands, ⟨r.via, msg⟩, b, nodes, [], .span, z.dev.now, y.setupOf b t, body⟩
      let q : State := { y with dev.commands := z.dev.commands + 1, fab.spans := y.fab.spans ++ [x] }
      (nodes = [] → z.otherNodes (t.map.entries.map MapEntry.owner) = [] → Fits c body →
        exec (.shardMapLoad r) s = .next ((z.install b t.id m segs).answerOk r body)) ∧
      (nodes = [] → z.otherNodes (t.map.entries.map MapEntry.owner) ≠ [] →
        exec (.shardMapLoad r) s = .next (q.spanNext { x with phase := .prepare })) ∧
      (nodes ≠ [] → exec (.shardMapLoad r) s = .next (q.emits (nodes.map fun n => .span n 0 z.dev.commands x.setup)))) ∧
    (Runs specShardMapGet r c s u p b → ∀ t, TableThere u b (u16At p 0) t → zeroAt p 2 6 = true →
      Good (bulkChecks p 8 [1, 3] 0) →
      let data := t.map.bytes t.id ++ t.map.entries.flatMap fun e => leBytes 1 (flag (u.available (u.refused b) e.owner))
      destBad (ctxOf c r p b) u 8 8 data.length = none →
      let v := placeDest (ctxOf c r p b) u 8 data
      let body := leBytes 4 t.map.version ++ leBytes 1 (flag t.prevMap.isSome) ++ zeros 3 ++ v.1
      Fits c body → exec (.shardMapGet r) s = .next (v.2.answerOk r body))) ∧
  (∀ (s : State) (node tag status : Nat) (msgs : List (List Byte)), s.admitted node = true →
    let m := msgs.headD []
    let reply := fun (x : Status × State) => x.2.emit (.span node 5 tag [leBytes 2 x.1.code])
    exec (.spanMessage node 0 tag status msgs) s = .next (reply (s.spanHere node tag msgs)) ∧
    exec (.spanMessage node 1 tag status msgs) s = .next (reply (s.prepareHere node tag m)) ∧
    exec (.spanMessage node 2 tag status msgs) s = .next (s.rangesIn node tag m) ∧
    exec (.spanMessage node 3 tag status msgs) s = .next (s.settingsIn node tag m) ∧
    exec (.spanMessage node 4 tag status msgs) s = .next (s.commitIn node tag m) ∧
    exec (.spanMessage node 5 tag status msgs) s = .next (s.spanReply node tag status) ∧
    exec (.spanMessage node 6 tag status msgs) s = .next ((s.unprepare node tag).endLed node tag)) ∧
  (∀ (s : State) (b n before since : Nat) (t : Tab) (m : ShardMap), b ≤ 15 → s.table b n = some t →
    t.prevMap = some (m, before, since) → s.doneBefore b before = true → since + 2000 * (s.bay b).work.e2eUs ≤ s.dev.now →
    let v := ((s.entries b t).filter fun e => !s.owns t.map e.1).foldl (fun s e =>
      ((State.freeEntry s b t e.2).setEntry b t e.1 (entryOf 0)).dropCopies b n e.1) s
    let owned := fun (g : Segment) => t.map.entries.any fun e =>
      v.isSelf e.owner && decide (e.first < g.start + g.rows) && decide (g.start ≤ e.last)
    let gone := t.segments.filter fun g => !owned g
    let w := v.modTable b n fun t => { t with prevMap := none, segments := t.segments.filter owned }
    exec (.mapVersionRetire b n) s = .next (w.modBay b fun y => { y with
      space := (gone.flatMap fun g => g.dir ++ g.state).foldl (fun sp r => sp.freeSilo r w.dev.accepted) y.space }))

/-- MUSTER_CONFIG keeps a configuration in flash for the next Announce; MUSTER_QUERY reports the roster. A node announces every
2 ms, decides after the collection window, gives up an admission after 50 ms; the coordinator sends its roster every 100 ms and
drops a member not heard for 1 s; a member that hears none for 1 s announces anew; a message of the field is acted on, another
is discarded; a duplicate of the node's own ID makes it wait, and stop at the third (R505 to R511). -/
def Obligations.MusterElectsAndAdmits : Prop :=
  (∀ (r : Req) (c : Caller) (s u : State) (p : List Byte) (b : Nat),
    (Runs specMusterConfig r c s u p b → u8At p 50 ≤ 64 → zeroAt p 51 5 = true →
      let x : MusterConfig :=
        { nodeId := if u64At p 0 = 0 then u.ident.serial else u64At p 0, fieldId := u64At p 8, fieldKey := slice 16 32 p,
          port := if u16At p 48 = 0 then 7412 else u16At p 48, seeds := items (u8At p 50) fun i => beNat (slice (56 + 16 * i) 16 p) }
      let v : State := { u with flash.muster := x, net.muster.next := some x }
      exec (.musterConfig r) s = .next ((if u.net.muster.phase = .stopped ∧ x.nodeId ≠ u.net.muster.config.nodeId
        then (v.modMuster fun m => { m with detections := 0 }).startAnnounce 0 else v).answerOk r [])) ∧
    (Runs specMusterQuery r c s u p b → zeroAt p 2 6 = true →
      let m := u.net.muster
      let all := (sortBy Member.number m.roster).filter fun x => decide (u16At p 0 ≤ x.number)
      let body := leBytes 1 (phaseCode m.phase) ++ zeros 3 ++ leBytes 4 m.epoch ++ leBytes 8 (m.coordinator.getD 0) ++
        leBytes 2 u.ownNumber ++ leBytes 2 (all.take 250).length ++ leBytes 2 (((all[250]?).map Member.number).getD 0xFFFF) ++ zeros 2 ++
        (all.take 250).flatMap fun x => leBytes 8 x.nodeId ++ leBytes 2 x.number ++ leBytes 1 (flag (u.reachable x.number)) ++ zeros 5
      Fits c body → exec (.musterQuery r) s = .next (u.answerOk r body))) ∧
  (∀ (s : State),
    (s.net.muster.phase = .announce → s.net.muster.backoffUntil = none → s.net.muster.announceAt ≤ s.dev.now →
      exec .announce s = .next ((s.sendMuster 0 0 s.ownNumber []).modMuster fun m => { m with
        announceAt := s.dev.now + 2000000 })) ∧
    (s.net.muster.phase = .announce → s.net.muster.backoffUntil = none → s.net.muster.phaseSince + 20000000 ≤ s.dev.now →
      let wait := fun (id : Nat) => (s.setCoordinator id).modMuster fun m => { m with phase := .admitting, phaseSince := s.dev.now }
      let low := ((s.net.muster.heard.map Prod.fst).filter fun id => !s.isDuplicated id).foldl min s.net.muster.config.nodeId
      (∀ k, s.net.muster.rosterHeard = some k → exec .decide s = .next ((wait k).sendMuster 2 k s.ownNumber [])) ∧
      (s.net.muster.rosterHeard = none → exec .decide s =
        .next (if low = s.net.muster.config.nodeId then s.becomeCoordinator else wait low))) ∧
    (s.net.muster.phase = .admitting → s.net.muster.phaseSince + 50000000 ≤ s.dev.now →
      exec .admitTimeout s = .next (s.startAnnounce 0)) ∧
    (s.isCoordinator = true → s.net.muster.rosterAt + 100000000 ≤ s.dev.now → exec .rosterPeriod s = .next s.sendRoster) ∧
    (∀ id x, (s.net.muster.roster.find? fun m => m.nodeId == id) = some x → s.isCoordinator = true →
      id ≠ s.net.muster.config.nodeId → x.heardAt + 1000000000 ≤ s.dev.now →
      exec (.musterNodeLost id) s = .next (((s.adoptRoster (s.net.muster.roster.filter fun m => m.nodeId != id)).modMuster fun m =>
        { m with epoch := m.epoch + 1 }).raise 0x080B 1 none none (leBytes 2 x.number ++ zeros 2 ++ leBytes 8 id))) ∧
    (s.net.muster.phase = .stable → s.isCoordinator = false → s.net.muster.heardRosterAt + 1000000000 ≤ s.dev.now →
      exec .rosterSilence s = .next (s.startAnnounce 0)) ∧
    (∀ t, s.net.muster.backoffUntil = some t → t ≤ s.dev.now →
      exec .dupIdBackoff s = .next (s.modMuster fun m => { m with backoffUntil := none })) ∧
    (∀ source m, s.net.muster.phase ≠ .stopped →
      let u := if 1 ≤ source ∧ source ≤ 4 then s.emit (.linkCredit source 0 (flitsOf ((musterBody m).length + 32))) else s
      (s.musterOk m = false → exec (.musterMessage source m) s = .next u.dropMuster ∧
        exec (.musterDupId source m) s = .next u.dropMuster) ∧
      (s.musterOk m = true → m.kind = 0 → m.sender = s.net.muster.config.nodeId → source ≠ 0 →
        let n := s.net.muster.detections + 1
        let v := (u.modMuster fun y => { y with detections := n }).raise 0x0809 2 none none (leBytes 1 n ++ zeros 3 ++ leBytes 8 m.sender)
        exec (.musterDupId source m) s = .next (if 3 ≤ n then v.modMuster fun y => { y with phase := .stopped }
          else v.fresh.2.startAnnounce (1000000 + 125000 * (v.fresh.1 % 57)))) ∧
      (s.musterOk m = true → m.sender ≠ s.net.muster.config.nodeId →
        let v := u.modMuster fun y => { y with
          heard := (m.sender, source, s.dev.now) :: y.heard.filter fun h => !(h.1 == m.sender && h.2.1 == source)
          roster := y.roster.map fun r => if r.nodeId = m.sender then { r with heardAt := s.dev.now } else r }
        let addr := (m.roster.find? fun r => r.1 == m.sender).bind fun r => r.2.2
        (m.kind = 0 → exec (.musterMessage source m) s = .next (if v.isCoordinator = true ∧ v.isDuplicated m.sender = false
          then v.admitNode m.sender m.number addr else v)) ∧
        (m.kind = 1 → exec (.musterMessage source m) s = .next (if m.target = s.net.muster.config.nodeId ∧
            s.net.muster.phase = .admitting ∧ s.net.muster.coordinator = some m.sender
          then (v.net.muster.roster.foldl (fun s x => State.restartChannels s x.number) v).modMuster fun y => { y with number := some m.number }
          else v)) ∧
        (m.kind = 2 → exec (.musterMessage source m) s = .next (if m.target = s.net.muster.config.nodeId ∧ v.isCoordinator = true ∧
            v.isDuplicated m.sender = false then v.admitNode m.sender m.number addr else v)) ∧
        (m.kind = 3 → exec (.musterMessage source m) s = .next (v.rosterHeard m)))))

/-- A WRITE into the ring part of a bay's hatch region is placed and acknowledged; the 8 bytes at the ring's end are the
doorbell word; any other place or key is a remote access error (R485). A doorbell, by immediate or by word, accepts its run of
sheafs, or is counted where the queue is full, which the immediate form answers with an RNR NAK (R491 to R494). A held update
sheaf is released when its session's order allows it (R391), and an accepted sheaf that nothing keeps back joins the queue of
the crew with the fewest (R274). -/
def Obligations.HatchWritesRingDoorbells : Prop :=
  (∀ (s : State) (qpn b : Nat) (q : Qp), s.hatchOf qpn = some (q, b) →
    let key := (s.bay b).core.keys.hatch
    (∀ va data, va + data.length ≤ s.ringBytes b →
      exec (.hatchRingWrite qpn key va data) s = .next ((s.placeRing b va data).received q data.length) ∧
      ∀ value, exec (.doorbell (.imm qpn key va data value)) s = .next (if s.doorbellFull b then (s.countFull b).sendNak q .rnr
        else ((s.placeRing b va data).received q data.length).ring b q.session (.net qpn) (some q.session)
          (8 * bits value 0 21) (bits value 21 11 + 1))) ∧
    (∀ (data : List Byte), data.length = 8 →
      exec (.hatchRingWrite qpn key (s.ringBytes b) data) s = exec (.doorbell (.word qpn key (leNat data))) s) ∧
    (∀ key' va data, ¬(key' = key ∧ va + data.length ≤ s.ringBytes b) →
      (¬(key' = key ∧ va = s.ringBytes b ∧ data.length = 8) →
        exec (.hatchRingWrite qpn key' va data) s = .next (s.sendNak q .remoteAccess)) ∧
      ∀ value, exec (.doorbell (.imm qpn key' va data value)) s = .next (s.sendNak q .remoteAccess)) ∧
    (∀ key' value, exec (.doorbell (.word qpn key' value)) s = .next (
      if key' ≠ key then s.sendNak q .remoteAccess
      else if s.doorbellFull b then s.countFull b
      else if bits value 43 21 ≠ 0 then (s.received q 8).badDoorbell b (bits value 0 32) (bits value 32 11 + 1) 0
      else (s.received q 8).ring b q.session (.net q.qpn) (some q.session) (bits value 0 32) (bits value 32 11 + 1)))) ∧
  (∀ (s : State) (no : Nat) (x : Sheaf), s.sheaf no = some x →
    (x.phase = .held → s.mayRelease x = true →
      exec (.holdRelease no) s = .next (s.modSheaf no fun x => { x with phase := .accepted })) ∧
    (∀ c, x.phase = .accepted → s.barred x = false →
      (x.fence = true → ∀ y ∈ s.dp.sheafs, y.bay = x.bay → x.no ≤ y.no) →
      (∀ t ∈ (s.bay x.bay).tables, (∀ r, t.rebuild = some r → r.before ≤ x.no → s.names x t.id = false)) →
      (∀ y ∈ s.dp.sheafs, y.bay = x.bay → y.phase = .accepted → y.no < x.no → s.kept y = false →
        ∀ t ∈ s.tablesOf x, s.names y t = false) →
      s.nextCrew x.bay = some c →
      exec (.sheafDispatch no) s = .next
        { s.modSheaf no (fun x => { x with
            phase := .queued, crew := c, bound := if x.isUpdate then x.bound.map (s.mapNow x.bay) else x.bound }) with
          dp.crews := s.dp.crews.modify c fun y => { y with queue := y.queue ++ [no] }
          dp.scans := if x.isUpdate then s.dp.scans else s.dp.scans ++ [⟨no, 0, false⟩] }))

/-- A crew without a job takes the next sheaf of its queue: its remaining bytes are read, and it ends there with RANGE where it is
malformed; else its job starts (R204, R275, R277). With an empty queue, once every crew named is idle, the job of a HAND_RUN
starts with its argument block in the crew store (R296); a crew with neither takes a ZPSUM job whose descriptor its store holds,
or a MIGRATE job (R289, R290; which one is the model's choice, log 154). A hand's fault raises HAND_FAULT, is counted, ends its
job and resets the crew; what becomes of the sheaf or the command follows from the job's role (R296 to R299). A job ends when
every hand has exited and every entry has been taken (R280). -/
def Obligations.CrewJobsStartFaultAndEnd : Prop :=
  (∀ (s : State) (crew b : Nat) (c : Crew), crew ≤ 31 → s.dp.crews[crew]? = some c → s.crewBay crew = some b → c.job = none →
    c.resetUntil ≤ s.dev.now →
    (∀ no rest x, c.queue = no :: rest → s.sheaf no = some x → s.freeContexts b (crew / 16) ≠ [] →
      let v := s.chargeRing x.bay (x.off + 64) (x.bytes - 64) false (some (crew / 16))
      exec (.jobStart crew) s = .next (if s.within (s.startSheaf crew x) b true false then s.startSheaf crew x else s) ∧
      (v.sheafOk x = false → s.startSheaf crew x = v.endAtStart crew x.no Status.range.code)) ∧
    (∀ id rest w, c.queue = [] → s.runsOn c = false → c.runs = id :: rest → s.job id = some w →
      (∀ k ∈ maskCrews (natAt w.args 1), ∃ y, s.dp.crews[k]? = some y ∧ y.queue = [] ∧ y.job = none ∧ y.resetUntil ≤ s.dev.now ∧
        y.runs.head? = some id ∧ s.freeContexts b (k / 16) ≠ []) →
      exec (.jobStart crew) s = .next ((maskCrews (natAt w.args 1)).foldl (fun s' k =>
        (State.write s' .store k 0 (s.argPage b) w.data).beginJob k b 3 (natAt w.args 0) (2 ^ 64) (0x100000 + s.argPage b) 0
          (1000 * natAt w.args 2) id) (s.modJob id fun w => { w with at_ := 1 }))) ∧
    (c.queue = [] → c.runs = [] → s.freeContexts b (crew / 16) ≠ [] →
      let bias := s.dp.matrices.find? fun q => q.crew == crew && q.bias == .wait && s.zpsumMay b q
      (∀ q, bias = some q → exec (.jobStart crew) s = .next (s.runZpsum b q)) ∧
      (∀ w, bias = none → s.nextMove b = some w →
        let v := s.beginJob crew b 5 0 (2 ^ 64) (0x100000 + s.argPage b) 0 (looseBudget 5) w.id
        exec (.jobStart crew) s = .next (if w.kind = .migrate then v.moveNext w.id else v)))) ∧
  (∀ (s : State) (crew hand b : Nat) (j : Job), crew ≤ 31 → hand ≤ 15 → s.crewBay crew = some b → s.jobOf crew = some j →
    let fault := fun (cause pc addr : Nat) =>
      let v := ((((s.raise 0x0408 2 (some b) (some (crew / 16))
        (leBytes 1 (16 * (crew % 16) + hand) ++ leBytes 1 cause ++ leBytes 4 (pc % 2 ^ 32) ++ leBytes 6 addr)).modCounters b
          fun c => { c with handFaults := satAdd 32 c.handFaults 1 }).count b 8 1).stopContexts crew (j.role == 1)).dropReads fun r =>
          match r.purpose with
          | .hand c .. => c == crew
          | _ => false
      let v' := if cause = 9 ∧ v.codePage b addr = true then v.reloadCode b crew else v
      let z := v'.modCrew crew fun c => { c with job := none, resetUntil := v'.dev.now + 2000 }
      let w := j.contexts.foldl (fun s n => State.ctxSettle s n)
        (if j.role = 1 then (z.dropUnbound j.sheaf j.contexts).gleanFaulted j.sheaf else z)
      if j.role = 1 then w
      else if j.role = 2 then w.modSheaf j.sheaf fun x => { x with phase := .finished Status.faulted.code, contribs := [], bad := false }
      else if j.role = 4 then w.modMatrix j.cmd fun q => { q with bias := .failed }
      else if j.role = 5 then w.moveFaulted j.cmd
      else State.endJob { w with dp.crews := w.dp.crews.map fun c => { c with runs := c.runs.filter (· != j.cmd) } } j.cmd
        ⟨.faulted, 0, leBytes 1 crew ++ leBytes 1 hand ++ leBytes 1 cause ++ zeros 1 ++ leBytes 4 (pc % 2 ^ 32)⟩
    (∀ cause pc addr, 1 ≤ cause → cause ≤ 9 → cause ≠ 8 → exec (.handFault crew hand cause pc addr) s = .next (fault cause pc addr)) ∧
    (j.role ≤ 3 → j.until_ ≤ s.dev.now →
      exec (.cycleBudgetExhausted crew hand) s = .next (fault 8 ((j.hands[hand]?.map Hand.pc).getD 0) 0))) ∧
  (∀ (s : State) (crew : Nat) (j : Job), crew ≤ 31 → s.jobOf crew = some j → (∀ h ∈ j.hands, h.exited = true) → j.backlog = [] →
    exec (.jobEnd crew) s = .next (s.endCrewJob crew j))

/-- A hand executes the custom instructions hx.hash, hx.dwq, hx.swe and hx.dedup, the runtime's services and the instructions of the
standard profile, each with its effect, or faults with the cause its operands give (R267 to R272, R279 to R286, R297); a load reads
the region its address names, from silo and loft space by a read of one granule for which the hand waits (R271, R272); a walk
completes with its record written to the hand's scratch (R284). What the standard instructions, the vector ones among them, compute is
the RISC-V standards', which the specification names (PRESUMED, log 156). -/
def Obligations.HandsExecute : Prop :=
  (∀ (s : State) (crew hand pc b : Nat) (j : Job) (h : Hand), CanExecute s crew hand pc 4 b j h →
    let u := s.at crew hand pc
    let set := fun (rd v : Nat) => u.modHand crew hand fun h => h.setReg rd v
    let fault := fun (cause addr : Nat) => u.crewFault crew hand cause pc addr
    (∀ rd rs1 imm, exec (.hxHash crew hand pc rd rs1 imm) s =
      .next (if 256 ≤ imm then fault 1 0 else u.modHand crew hand fun h' => h'.setReg rd (hxHash (h.reg rs1) imm))) ∧
    (∀ rd rs1 rs2,
      let w := h.reg rs2
      let out := h.walkBase + 16 * bits w 16 16
      exec (.hxDwq crew hand pc rd rs1 rs2) s = .next (
        if bits w 12 4 ≠ 0 ∨ bits w 32 32 ≠ 0 then fault 1 0
        else if 0xF000 < out + 16 then fault 4 out
        else if 256 ≤ (u.dp.walks.filter fun x => x.crew == crew).length then set rd 1
        else State.modHand { u with dp.walks := u.dp.walks ++ [⟨crew, hand, bits w 0 12, h.reg rs1, out⟩] } crew hand
          fun h => h.setReg rd 0)) ∧
    (∀ rd rs1 rs2,
      let a := h.reg rs1
      let n := h.reg rs2
      let e := u.read .scratch crew 0 (65536 * hand + a) 32
      let v : State := { u with dp.nextRead := u.dp.nextRead + 1 }
      exec (.hxSwe crew hand pc rd rs1 rs2) s = .next (
        if a % 32 ≠ 0 then fault 5 a
        else if 0xF000 < a + 32 then fault 3 a
        else if n ∉ j.contexts then fault 4 a
        else if (u.context n).any fun x => decide (64 ≤ x.waiting.length) then set rd 1
        else (v.modCtx n fun x => { (x.setQueue e) with
          waiting := x.waiting ++ [⟨e, [], none, 0, u.dp.nextRead⟩]
          waitSince := if x.waiting.isEmpty then u.dev.now else x.waitSince }).modHand crew hand fun h => h.setReg rd 0)) ∧
    (∀ vd vs2,
      let d := hxDedup (items h.vl (h.velem vs2)) h.dedupLast h.dedupState
      exec (.hxDedup crew hand pc vd vs2) s = .next (
        if h.vill = true ∨ h.sew ≠ 64 ∨ h.lmul ∉ [1, 2, 4, 8] ∨ vs2 % h.lmul ≠ 0 ∨ (vs2 ≤ vd ∧ vd < vs2 + h.lmul) then fault 1 0
        else u.modHand crew hand fun h => { h with
          v := h.v.set (vd % 32) (d.1 % 2 ^ 256), dedupLast := d.2.1, dedupState := d.2.2 })) ∧
    (h.reg 17 = 0 → exec (.ecallExit crew hand pc) s = .next (if h.reg 10 ≠ 0 then fault 6 0
      else u.modHand crew hand fun h => { h with exited := true })) ∧
    (h.reg 17 = 1 →
      let n := h.barriers + 1
      exec (.ecallBarrier crew hand pc) s = .next (
        (u.modHand crew hand fun h => { h with barriers := n, waitingBarrier := true }).modJobOf crew fun j =>
          if (j.hands.all fun y => decide (n ≤ y.barriers)) = true then
            { j with hands := j.hands.map fun y => if y.barriers = n then { y with waitingBarrier := false } else y }
          else j)) ∧
    (h.reg 17 = 2 →
      let v := u.modJobOf crew fun j => { j with sectionsDone := j.sectionsDone ++ [h.reg 10] }
      exec (.ecallSectionDone crew hand pc) s = .next (
        if j.role = 1 then v.modSection j.sheaf (h.reg 10) fun g => { g with done := true } else v)) ∧
    (h.reg 17 = 3 →
      let a := fun (r : Nat) => zeros 4 ++ leBytes 8 (h.reg r)
      let last := (((u.dp.crews[crew]?).map Crew.logs).getD []).getD hand (none, 0)
      let put := fun (x : Option Nat × Nat) => u.modCrew crew fun c => { c with logs := c.logs.set hand x }
      exec (.ecallLog crew hand pc) s = .next (
        if last.1.any fun t => decide (u.dev.now < t + 1000000) then put (last.1, last.2 + 1)
        else (put (some u.dev.now, last.2)).raiseMore
          ⟨0x0409, 0, some b, some (crew / 16), leBytes 1 (16 * (crew % 16) + hand) ++ zeros 3 ++ leBytes 8 (h.reg 10)⟩ [a 11, a 12]))) ∧
  (∀ (s : State) (crew hand pc b : Nat) (j : Job) (h : Hand) (i : Fetched), CanExecute s crew hand pc i.len b j h →
    let u := ((s.at crew hand pc).storeCorrected (crew / 16) i.fixed).cribCorrected (crew / 16) i.cribFixed
    let runs := fun (op : HandOp) (t : State) => i.op = op → exec (.handInstruction crew hand pc i) s = .next t
    let set := fun (f : Hand → Hand) => u.modHand crew hand f
    let setF := fun (fd v : Nat) => set fun y => { y with f := y.f.set (fd % 32) (v % 2 ^ 32) }
    let fault := fun (cause addr : Nat) => u.crewFault crew hand cause pc addr
    let addr := fun (rs1 imm : Nat) => (h.reg rs1 + imm) % 2 ^ 64
    let fr := fun (r : Nat) => natAt h.f (r % 32)
    (∀ rd w sgn rs1 imm, runs (.load rd w sgn rs1 imm) (if w ∈ [1, 2, 4, 8]
      then (u.handLoad b j.role crew hand pc (.int rd sgn) w (addr rs1 imm) i.bad).2 else fault 1 0)) ∧
    (∀ w rs1 imm rs2, runs (.store w rs1 imm rs2) (if w ∈ [1, 2, 4, 8]
      then (u.handStore b crew hand pc w (addr rs1 imm) (h.reg rs2)).2 else fault 1 0)) ∧
    (∀ fd rs1 imm, runs (.floatLoad fd rs1 imm) (u.handLoad b j.role crew hand pc (.float fd) 4 (addr rs1 imm) i.bad).2) ∧
    (∀ rs1 imm fs, runs (.floatStore rs1 imm fs) (u.handStore b crew hand pc 4 (addr rs1 imm) (fr fs)).2) ∧
    (∀ rd w rs1, runs (.loadReserved rd w rs1) (if w ∉ [4, 8] then fault 1 0
      else if h.reg rs1 % w ≠ 0 then fault 5 (h.reg rs1)
      else ((set fun y => { y with reserved := some (h.reg rs1, w) }).handLoad b j.role crew hand pc (.int rd true) w (h.reg rs1) i.bad).2)) ∧
    (∀ rd w rs1 rs2, runs (.storeConditional rd w rs1 rs2) (
      if w ∈ [4, 8] then u.handConditional b crew hand pc rd w (h.reg rs1) (h.reg rs2) else fault 1 0)) ∧
    (∀ o rd w rs1 rs2, runs (.atomic o rd w rs1 rs2) (
      if w ∈ [4, 8] then u.handAtomic b crew hand pc o rd w (h.reg rs1) (h.reg rs2) i.bad else fault 1 0)) ∧
    (∀ o n rd src imm,
      let x := if imm then src % 32 else h.reg src
      let writes := o = .write ∨ src % 32 ≠ 0
      (u.csrValue b crew hand h n = none ∨ (writes ∧ n / 1024 = 3 ∧ n ≠ 0xCC0) → runs (.csr o n rd src imm) (fault 1 0)) ∧
      (∀ old, u.csrValue b crew hand h n = some old → ¬(writes ∧ n / 1024 = 3 ∧ n ≠ 0xCC0) →
        let new := match o with
          | .write => x
          | .set => old ||| x
          | .clear => old - (old &&& x)
        runs (.csr o n rd src imm) (set fun y => (if writes then y.setCsr n new else y).setReg rd old))) ∧
    (∀ o word rd rs1 rs2, runs (.int o word rd rs1 rs2) (if word = false ∨ hasWord o = true
      then set fun y => y.setReg rd (intOp o word (h.reg rs1) (h.reg rs2)) else fault 1 0)) ∧
    (∀ o word rd rs1 imm, runs (.intImm o word rd rs1 imm) (if hasImm o = true ∧ (word = false ∨ hasWord o = true)
      then set fun y => y.setReg rd (intOp o word (h.reg rs1) imm) else fault 1 0)) ∧
    (∀ rd imm pcRel, runs (.upper rd imm pcRel) (set fun y => y.setReg rd ((if pcRel then pc else 0) + imm))) ∧
    (∀ rd, runs (.jump rd) (set fun y => y.setReg rd (pc + i.len))) ∧
    runs .nothing u ∧
    (∀ o rm fd x y z, runs (.float o rm fd x y z) (if floatRounds o = false ∨ rm = 0 ∨ rm = 7
      then setF fd (floatOp o (fr x) (fr y) (fr z)) else fault 1 0)) ∧
    (∀ o rm rd x y, runs (.floatInt o rm rd x y) (if floatIntRounds o = false ∨ rm = 0 ∨ rm = 7
      then set fun g => g.setReg rd (floatIntOp o (fr x) (fr y)) else fault 1 0)) ∧
    (∀ rm fd rs1 w sgn, runs (.intFloat rm fd rs1 w sgn) (if (rm = 0 ∨ rm = 7) ∧ (w = 32 ∨ w = 64)
      then setF fd (intToFloat w sgn (h.reg rs1)) else fault 1 0)) ∧
    (∀ fd rs1, runs (.mvFloat fd rs1) (setF fd (h.reg rs1))) ∧
    (∀ rd rs1 length vtype rs2, runs (.vset rd rs1 length vtype rs2) (set fun y =>
      y.setVtype rd (length.getD (if rs1 % 32 ≠ 0 then h.reg rs1 else if rd % 32 ≠ 0 then 2 ^ 64 - 1 else h.vl))
        (vtype.getD (h.reg rs2)))) ∧
    let vload := fun (vd regs eew : Nat) (a : Nat → Nat) (l : List (Nat × Nat)) =>
      State.vloadRun b j.role crew hand pc vd regs eew i.bad a l u
    let vstore := fun (vs regs eew : Nat) (a : Nat → Nat) (l : List (Nat × Nat)) => State.vstoreRun b crew hand pc vs regs eew h a l u
    let upTo := fun (n : Nat) => ((List.range n).filter fun i => decide (h.vstart ≤ i)).map fun i => (i, 0)
    (∀ vd eew rs1 mode fields masked, runs (.vload vd eew rs1 mode fields masked) (
      if h.groupOk eew vd fields = true ∧ h.modeOk eew vd fields true mode = true ∧ ¬(masked = true ∧ vd % 32 = 0)
      then vload vd (groupRegs (h.eighths eew)) eew (h.elemAddr eew fields rs1 mode) (h.fieldsOf fields (h.active masked))
      else fault 1 0)) ∧
    (∀ vd eew rs1 fields masked, runs (.vloadFirst vd eew rs1 fields masked) (
      if h.groupOk eew vd fields = true ∧ ¬(masked = true ∧ vd % 32 = 0)
      then u.vloadFirst b j.role crew hand pc vd eew fields i.bad h (h.elemAddr eew fields rs1 .unit) masked else fault 1 0)) ∧
    (∀ vs eew rs1 mode fields masked, runs (.vstore vs eew rs1 mode fields masked) (
      if h.groupOk eew vs fields = true ∧ h.modeOk eew vs fields false mode = true
      then vstore vs (groupRegs (h.eighths eew)) eew (h.elemAddr eew fields rs1 mode) (h.fieldsOf fields (h.active masked))
      else fault 1 0)) ∧
    (∀ vd rs1, runs (.vloadMask vd rs1) (if h.vill then fault 1 0
      else vload vd 1 8 (h.elemAddr 8 1 rs1 .unit) (upTo ((h.vl + 7) / 8)))) ∧
    (∀ vs rs1, runs (.vstoreMask vs rs1) (if h.vill then fault 1 0
      else vstore vs 1 8 (h.elemAddr 8 1 rs1 .unit) (upTo ((h.vl + 7) / 8)))) ∧
    (∀ n vd eew rs1, runs (.vloadWhole n vd eew rs1) (if n ∈ [1, 2, 4, 8] ∧ eew ∈ [8, 16, 32, 64] ∧ vd % n = 0
      then vload vd 1 eew (h.elemAddr eew 1 rs1 .unit) (upTo (256 * n / eew)) else fault 1 0)) ∧
    (∀ n vs rs1, runs (.vstoreWhole n vs rs1) (if n ∈ [1, 2, 4, 8] ∧ vs % n = 0
      then vstore vs 1 8 (h.elemAddr 8 1 rs1 .unit) (upTo (32 * n)) else fault 1 0)) ∧
    (∀ o, (h.runVector o = none → runs (.vector o) (fault 1 0)) ∧
      ∀ h', h.runVector o = some h' → runs (.vector o) (set fun y => { h' with pc := y.pc })) ∧
    (∀ w,
      (decodeCustom w = none → runs (.custom w) (fault 1 0)) ∧
      (∀ rd rs1 imm, decodeCustom w = some (.hash rd rs1 imm) → runs (.custom w) (u.runHash crew hand pc h rd rs1 imm)) ∧
      (∀ rd rs1 rs2, decodeCustom w = some (.dwq rd rs1 rs2) → runs (.custom w) (u.runDwq crew hand pc h rd rs1 rs2)) ∧
      (∀ rd rs1 rs2, decodeCustom w = some (.swe rd rs1 rs2) → runs (.custom w) (u.runSwe crew hand pc j h rd rs1 rs2)) ∧
      (∀ vd vs2, decodeCustom w = some (.dedup vd vs2) → runs (.custom w) (u.runDedup crew hand pc h vd vs2))) ∧
    (3 < h.reg 17 → runs .ecall (fault 6 0)) ∧ runs .ebreak (fault 7 0) ∧ runs .illegal (fault 1 0)) ∧
  (∀ (s : State) (crew hand pc b rd width addr : Nat) (sgn : Bool) (bad : List Nat) (j : Job), crew ≤ 31 → s.crewBay crew = some b →
    width ∈ [1, 2, 4, 8] →
    let die := crew / 16
    let load := (s.handLoad b j.role crew hand pc (.int rd sgn) width addr bad).2
    let got := fun (v : State) (l : List Byte) => v.modHand crew hand fun y => y.put (.int rd sgn) width l
    let far := fun (space off : Nat) => if addr % width ≠ 0 then s.crewFault crew hand 5 pc addr
      else ((s.modHand crew hand fun y => { y with loading := true }).putRead b die none (handQueue j.role) false
        (.hand crew hand (.int rd sgn) width (off % 64)) space (off / 64) 1 0 false).pump
    (addr + width ≤ 0xF060 → (addr + width ≤ 0xF000 ∨ 0xF000 ≤ addr) →
      load = got s (s.read .scratch crew 0 (65536 * hand + addr) width)) ∧
    (∀ off, addr = 0x100000 + off → off + width ≤ 960 * 1024 → load = got s (s.read .store crew 0 off width)) ∧
    (∀ off, addr = 0x100000000 + off → off + width ≤ s.ringBytes b → s.ringBytes b ≤ 2 ^ 32 →
      let g := s.ringGranule b off
      let c := s.chargeRing b off width false (some die)
      let v := if off / 64 ∈ bad then (c.addPoison .ring b 0 (off / 64)).siloBad b g else c
      (addr % width ≠ 0 → load = s.crewFault crew hand 5 pc addr) ∧
      (addr % width = 0 → s.mayAccess b die (handQueue j.role) 1 g 1 false = false → load = s) ∧
      (addr % width = 0 → s.mayAccess b die (handQueue j.role) 1 g 1 false = true →
        load = got v (if v.poisoned .ring b 0 (off / 64) 1 || v.siloLost b g || v.cutOff b die 1 g then zeros width
          else v.read .ring b 0 off width))) ∧
    (s.ringBytes b ≤ 2 ^ 32 → ∀ off, addr = 0x1000000000 + off → off + width ≤ 64 * s.cribShare b die →
      load = got s ((s.read .crib b die off width).zipIdx.map fun x => if (off + x.2) / 64 ∈ bad then 0 else x.1)) ∧
    (s.ringBytes b ≤ 2 ^ 32 → 64 * s.cribShare b die ≤ 2 ^ 32 →
      (∀ off, addr = 0x10000000000 + off → off + width ≤ 64 * unitGranules * (s.bay b).space.siloExt.length → off < 2 ^ 40 →
        load = far 1 off) ∧
      (64 * unitGranules * (s.bay b).space.siloExt.length ≤ 2 ^ 40 →
        ∀ off, addr = 0x20000000000 + off → off + width ≤ 64 * unitGranules * (s.bay b).space.loftExt.length → load = far 2 off))) ∧
  (∀ (s : State) (crew k b : Nat) (w : Walk) (j : Job), crew ≤ 31 → (s.dp.walks.filter fun w => w.crew == crew)[k]? = some w →
    s.jobOf crew = some j → s.crewBay crew = some b →
    let die := crew / 16
    let u : State := { s with dp.walks := s.dp.walks.erase w }
    let gen := match u.sheaf j.sheaf with
      | some x => natAt x.gens die
      | none => (u.hotDie b die).gen
    let done := fun (v : State) (r : List Byte) => (State.write v .scratch crew 0 (65536 * w.hand + w.at_) r).modHand crew w.hand
      fun h => { h with walkDone := h.walkDone + 1 }
    let once := fun (v : State) => if s.within v b true false then v else s
    (u.walkTable b j w.table = none →
      exec (.walkComplete crew k) s = .next (once (done (u.count (0x500 + die) 6 1) (walkRecord 0 5 0 0)))) ∧
    (∀ t, u.walkTable b j w.table = some t →
      let idx := if t.desc.indexSigned && bit w.index 63 then none else some w.index
      exec (.walkComplete crew k) s = .next (once (done (u.walkCharge b die t idx) (u.walkResult b die gen t idx))))) ∧
  (∀ a b : Nat,
    let x := BitVec.ofNat 64 a
    let y := BitVec.ofNat 64 b
    let is := fun (op : IntOp) (z : BitVec 64) => intOp op false a b = z.toNat
    is .add (x + y) ∧ is .sub (x - y) ∧ is .mul (x * y) ∧ is .and (x &&& y) ∧ is .or (x ||| y) ∧ is .xor (x ^^^ y) ∧
    is .sll (x <<< (b % 64)) ∧ is .srl (x >>> (b % 64)) ∧ is .sra (x.sshiftRight (b % 64)) ∧
    is .slt (if x.slt y then 1#64 else 0#64) ∧ is .sltu (if x.ult y then 1#64 else 0#64) ∧
    is .divu (if y = 0#64 then BitVec.allOnes 64 else x / y) ∧ is .remu (x % y) ∧
    is .div (if y = 0#64 then BitVec.allOnes 64 else x.sdiv y) ∧ is .rem (x.srem y) ∧
    intOp .add true a b = ((BitVec.ofNat 32 a + BitVec.ofNat 32 b).signExtend 64).toNat ∧
    intOp .sub true a b = ((BitVec.ofNat 32 a - BitVec.ofNat 32 b).signExtend 64).toNat ∧
    intOp .mul true a b = ((BitVec.ofNat 32 a * BitVec.ofNat 32 b).signExtend 64).toNat)

/-- The engine takes the next entry of a RUNNING context: a malformed one is counted and dropped, one of length 0 is dropped, and any
other is issued and counted once everything it needs is available and its turn has come; one that waits for crib space alone stalls,
and one that reads what an earlier COPY has still to write waits (R304 to R312, R334). A context that has stalled for its limit makes
the engine write a victim's data to its spill area through queue 1, or report that there is no victim; the data comes back by reads in
queue 1 when the next positions need it (R313, R334 to R336). One that is no longer stalled is not counted as stalled. -/
def Obligations.SwathEntriesAreIssued : Prop :=
  (∀ (s v : State) (n : Nat) (x : Context) (w : Swath) (rest : List Swath), v = s.pump → v.context n = some x → x.running = true →
    x.waiting = w :: rest →
    let e := w.bytes
    let bad := swMalformed x (if x.crew.isSome then ((v.sheaf x.sheaf).map Sheaf.sections).getD [] else [])
      ((v.sheaf x.sheaf).any Sheaf.isUpdate && x.crew.isSome) e
    let c := v.modCtx n fun x => { x with stalledSince := none }
    let held := swKind e == 4 && v.jobRuns x
    (bad = true → held = false → exec (.entryIssue n) s = .next ((v.malformedEntry x e).ctxPop n).pump) ∧
    (bad = false ∨ held = true →
      (((v.entryReads x w).any fun r => v.copyWaits x r.1 r.2) = true → exec (.entryIssue n) s = .next c) ∧
      (v.availEntry x w = .wait → exec (.entryIssue n) s = .next c) ∧
      (v.availEntry x w = .stall → exec (.entryIssue n) s = .next (v.modCtx n fun x =>
        { x with stalledSince := some (x.stalledSince.getD v.dev.now) })) ∧
      (∀ want, v.availEntry x w = .go (some want) → v.turn want (v.wants ++ v.heads) = false → exec (.entryIssue n) s = .next c) ∧
      (∀ rivals, (v.availEntry x w = .go none ∧ rivals = []) ∨
          (∃ want, v.availEntry x w = .go (some want) ∧ rivals = v.wants ++ v.heads ∧ v.turn want rivals = true) →
        (swKind e = 0 → exec (.entryIssue n) s = .next (((c.issueBind x w).countExec n).ctxPop n).pump) ∧
        (swKind e = 1 ∨ swKind e = 2 → swLen e = 0 →
          exec (.entryIssue n) s = .next ((c.modCtx n fun x => x.bump 1 1).ctxPop n).pump) ∧
        (swKind e = 1 → swLen e ≠ 0 → exec (.entryIssue n) s = .next (((let y := c.issueRow x e rivals
            if x.faulted then y.giveRow x.sheaf (swSect e) (u32At e 16) else y).countExec n).ctxPop n).pump) ∧
        (∀ w' t, swKind e = 2 → swLen e ≠ 0 → c.issueCopy x w rivals = (w', t) → exec (.entryIssue n) s = .next (
          if w'.issued < swLen e then t.modCtx n fun x => { x with waiting := w' :: x.waiting.drop 1 }
          else (t.countExec n).ctxPop n).pump) ∧
        (swKind e = 3 → exec (.entryIssue n) s = .next (((c.issueJob x e).countExec n).ctxPop n).pump) ∧
        (4 ≤ swKind e → exec (.entryIssue n) s = .next (((c.issueUpdate x w rivals).countExec n).ctxPop n).pump)))) ∧
  (∀ (s : State) (n : Nat) (x : Context), s.context n = some x →
    let die := ctxDie n
    (∀ t, x.stalledSince = some t → s.cribStalled x = false →
      exec (.stallWatchdog n) s = .next (s.modCtx n fun x => { x with stalledSince := none })) ∧
    (∀ t, x.stalledSince = some t → s.cribStalled x = true → t + 1000 * (s.bay x.bay).work.watchdogUs ≤ s.dev.now →
      let u := s.modCtx n fun x => { x with stalledSince := some s.dev.now }
      let tell := fun (victim size : Nat) =>
        u.raise 0x0402 1 (some x.bay) (some die) (leBytes 2 n ++ leBytes 2 victim ++ leBytes 4 size)
      (u.victim x = none → exec (.stallWatchdog n) s = .next (tell (noVictim n) 0)) ∧
      (∀ v, u.victim x = some v →
        let slots := u.spillSlots v
        let pieces := u.spillWrites v
        let size := sumBy (fun (r : Nat × Nat × RowSlot) => r.2.2.granules) slots + sumBy (fun (w : Write) => w.data.length) pieces
        let a := slots.foldl (fun s r => State.sendSpill s v (.spillRow r.1 r.2.1 r.2.2.slot) r.2.2.granuleList) (tell v.no size)
        exec (.stallWatchdog n) s = .next ((pieces.foldl (fun s w => State.sendSpill s v (.spillPiece w.id) w.data) a).count x.bay 15 1).pump)) ∧
    (let v := (s.spilledNext x).foldl (fun s r =>
       State.putReload s x (.reload r.1 r.2.1 r.2.2.slot) (r.2.2.spilled.getD 0) r.2.2.granules) s
     exec (.spillReload n) s = .next ((v.dp.writes.filter fun w => w.for_ == .copy n && w.spilled.isSome).foldl
      (fun s w => State.putReload s x (.reloadPiece w.id) (w.spilled.getD 0) w.data.length) v).pump)) ∧
  (∀ (s : State) (x : Context) (l : List (Option (List Byte))),
    let die := ctxDie x.no
    (∀ for_, s.sendSpill x for_ l = match s.spillPlace x.bay die l.length with
      | some a => s.issueWrite x.bay die for_ 1 (s.spillBase x.bay die + a) l 0
      | none => s) ∧
    (∀ p a n, (∀ q ∈ s.dp.reads, q.purpose = p → q.dropped = true) →
      s.putReload x p a n = s.putRead x.bay die (some x.no) 1 false p 1 (s.spillBase x.bay die + a) n 0 false))

/-- Granules read from this package's own memories reach what they were read for, each corrected error counted and each
uncorrectable one reported and chaffed (R318, R322, R441 to R443); a staged row is recorded when it arrives (R376). A write
lands granule by granule, and a granule without data keeps its contents (R304, R329). The run-ahead scanner goes on with the first
queued lookup sheaf it has not scanned, in dispatch order, and stages what it will read until it must pause (R373 to R375). -/
def Obligations.ReadsAndWritesLand : Prop :=
  (∀ (s : State) (id : Nat) (r : Read), findKey Read.id s.dp.reads id = some r → r.space ≠ 3 →
    (∀ fixed bad, r.started = true → (match r.purpose with | .stage .. | .hostIn _ | .copyStatus _ | .pool .. => False | _ => True) →
      let v := (s.fixedGranules r fixed).badGranules r bad
      exec (.readCompletion id fixed bad) s = .next (v.deliver' r (v.granules r))) ∧
    (∀ bad table row, r.started = true → r.purpose = .stage table row →
      let v := s.badGranules r bad
      exec (.stagingComplete id bad) s = .next (v.deliver' r (v.granules r)))) ∧
  (∀ (w : Write) (s : State) (i : Nat), State.landGranule w s (none, i) = s ∧
    ∀ bytes, s.cutOff w.bay w.die w.space (w.addr + i) = false →
      let a := spaceArea w.space w.half w.bay w.die
      State.landGranule w s (some bytes, i) =
        (s.write a.1 a.2.1 a.2.2 (64 * (w.addr + i)) bytes).heal a.1 a.2.1 a.2.2 (w.addr + i) 1) ∧
  (∀ (s : State) (id : Nat) (w : Write), findKey Write.id s.dp.writes id = some w → w.spilled = none →
    let q := s.writeQueue w
    let h := s.homeOf w.bay w.die w.space w.addr
    let first := h.1 ≠ 9 ∧ s.readBefore w.bay h.1 h.2 w.data.length = true
    (∀ fixed bad, (s.mayAccess w.bay w.die q h.1 h.2 w.data.length true = false ∨ first) →
      exec (.writeCompletion ⟨id, fixed, bad⟩) s = .next s) ∧
    (∀ fixed bad, s.mayAccess w.bay w.die q h.1 h.2 w.data.length true = true → ¬first →
      let u := ({ s with dp.writes := dropKey Write.id s.dp.writes id } : State).access w.bay w.die q h.1 h.2 w.data.length true
      let v := w.data.zipIdx.foldl (State.landGranule w) u
      (∀ cmd j i l, w.for_ = .move cmd → u.job cmd = some j → j.items = i :: l →
        exec (.writeCompletion ⟨id, fixed, bad⟩) s = .next ((u.moveWritten cmd).releaseMove j.bay i.table i.row).pump) ∧
      (∀ ctx, w.for_ = .copy ctx →
        let p := u.passageErrors w fixed bad
        let data := w.data.zipIdx.map fun d => if d.2 ∈ bad then none else d.1
        exec (.writeCompletion ⟨id, fixed, bad⟩) s =
          .next (((data.zipIdx.foldl (State.landGranule p.1) p.2).cribFree ctx w.took).ctxSettle ctx).pump) ∧
      (∀ cmd, w.for_ = .copyIn cmd → exec (.writeCompletion ⟨id, fixed, bad⟩) s =
        .next (v.copyWritten cmd (w.data.filter Option.isSome).length).pump) ∧
      (∀ no k slot, w.for_ = .spillRow no k slot →
        exec (.writeCompletion ⟨id, fixed, bad⟩) s =
          .next (v.spillLanded no k slot (w.addr - u.spillBase w.bay w.die) w.data.length).pump) ∧
      (∀ copy, w.for_ = .spillPiece copy →
        exec (.writeCompletion ⟨id, fixed, bad⟩) s =
          .next (v.pieceLanded copy (w.addr - u.spillBase w.bay w.die) w.data.length).pump))) ∧
  (∀ (s : State) (die no : Nat) (x : Sheaf) (before : List Scan) (y : Scan) (after : List Scan), die ≤ 1 → s.sheaf no = some x →
    (s.scansOf x.bay die) = before ++ y :: after → (∀ z ∈ before, z.done = true) → y.done = false → y.sheaf = no →
    (s.bay x.bay).granary.runahead.enable ≠ 0 → s.bayState x.bay = .opened →
    ((s.bay x.bay).granary.runahead.depth = 0 ∨ before.length < (s.bay x.bay).granary.runahead.depth) →
    let work := (s.scanWork x).drop y.at_
    let t := State.scanAll x die work s
    exec (.runaheadScan die no) s = .next { t.2 with dp.scans := t.2.dp.scans.map fun z =>
      if z.sheaf = no then { z with at_ := y.at_ + t.1, done := t.1 == work.length } else z })

/-- A bag whose first position is there, or that has none, and a group of contributions take their slots in the filling tile of a
thresher of their die (R239 to R243, R263); a pass folds up to 16 ready positions of a slice, or contributions of a group, and is
charged (R234, R235, R262); its writeback ends it, with the error it met (R234, R265, R266). The tiles swap when nothing of the
draining one is ready (R244); the ready work whose turn it is drains slice by slice and then goes through the output stage (R245 to
R248); held values are read back slice by slice (R249). A section that saturated under the widening policy is pooled again to be
converted to BF16 (R138, R250). -/
def Obligations.ThreshersPool : Prop :=
  (∀ (s : State) (n no k bag : Nat) (x : Sheaf) (g : Section), n ≤ 31 → s.sheaf no = some x → x.sections[k]? = some g →
    x.isUpdate = false → (x.phase = .running ∨ x.phase = .working) → x.crew / 16 = thresherDie n → s.bagWaits x k bag g = true →
    (s.thresher n).matrix = none → s.domainA0 (quadDomain n) = true → (s.thresher n).bankFor no k = true →
    let need := if g.bagLen bag = 0 then 0 else g.tab.slotsNeeded
    let free := (s.thresher n).freeSlots (s.thresher n).filling
    need ≤ free.length →
    exec (.allot n .bag no (k, bag)) s = .next ((s.modThresher n fun t => { t with bags := t.bags ++
      [{ work := .bag no k bag, tile := t.filling, slots := free.take need, chains := newChains g.tab.desc.dim
         ready := none, drained := 0, broken := none, storeBad := false, chaffed := false, clamped := [] }] }).noteReady n)) ∧
  (∀ (s : State) (n no i m : Nat) (x : Sheaf) (y : Tallied), n ≤ 31 → s.sheaf no = some x → x.tally[i]? = some y →
    x.phase = .tallying → y.out = false → s.allotted (.tally no i) = false → x.crew / 16 = thresherDie n →
    (s.thresher n).matrix = none → s.domainA0 (quadDomain n) = true →
    let d := y.group.vals.length
    let free := (s.thresher n).freeSlots (s.thresher n).filling
    (d + 127) / 128 ≤ free.length →
    exec (.allot n .tally no (i, m)) s = .next ((s.modThresher n fun t => { t with bags := t.bags ++
      [{ work := .tally no i, tile := t.filling, slots := free.take ((d + 127) / 128), chains := newChains d
         ready := none, drained := 0, broken := none, storeBad := false, chaffed := false, clamped := [] }] }).noteReady n)) ∧
  (∀ (s : State) (n i j : Nat) (r : BagRun) (c : Chain), n ≤ 31 → (s.thresher n).bags[i]? = some r → r.chains[j]? = some c →
    c.flight = none →
    let die := thresherDie n
    let enters := fun (v : State) (b : Nat) (ls : List Lane) (p : Nat) (ch : Bool) =>
      ((v.charge b (34 + die) 1).count (0x500 + die) 0 1).modBag n i fun r => { r with
        chaffed := r.chaffed || ch, chains := r.chains.modify j fun c => { c with flight := some (ls, p) } }
    (∀ no k bag x g x' g' ls p ls' p' ch ch' e e' fixed bad, r.work = .bag no k bag → s.sectionAt no k = some (x, g) →
      s.passAux x k g bag j 16 c.lanes c.next false 0 = (ls, p, ch, e) → p ≠ c.next → s.workBay r.work = some x.bay → s.mayPass die x.bay = true →
      let lo := g.bagStart bag + c.next
      let u := s.rowErrors x.bay die lo (p - c.next) g (fun s r => State.chaffSlot s x k r) fixed bad
      u.sectionAt no k = some (x', g') → u.passAux x' k g' bag j (p - c.next) c.lanes c.next false 0 = (ls', p', ch', e') →
      let v := u.heatSlots x' k g' lo (g'.bagStart bag + p')
      exec (.pass n i ⟨j, fixed, bad⟩) s =
        .next (enters (if e' = 0 ∨ j ≠ 0 then v else v.modCtx g'.ctx fun y => y.bump 4 e') x'.bay ls' p' ch')) ∧
    (∀ no m x y fixed bad, r.work = .tally no m → s.tallyAt no m = some (x, y) →
      let now := (y.parts.drop c.next).take 16
      now ≠ [] → s.workBay r.work = some x.bay → s.mayPass die x.bay = true →
      let comp := ((x.sectionFor y.group.table).map fun g => g.tab.pool.compensated).getD false
      exec (.pass n i ⟨j, fixed, bad⟩) s = .next (enters s x.bay
        (now.foldl (fun ls v => ls.zipIdx.map fun l => foldSum comp l.1 f32One (natAt v (128 * j + l.2))) c.lanes)
        (c.next + now.length) false))) ∧
  (∀ (s : State) (n i j fault entry : Nat) (readers : List Nat) (r : BagRun) (ls : List Lane) (p : Nat), n ≤ 31 →
    (s.thresher n).bags[i]? = some r → (r.chains[j]?).bind Chain.flight = some (ls, p) →
    let die := thresherDie n
    let u := s.modBag n i fun r => { r with chains := r.chains.modify j Chain.back }
    let mark := fun (store : Nat) => ((i :: readers).foldl (fun s i => State.modBag s n i fun r => { r with storeBad := true }) u).raise
      0x0502 2 (u.workBay r.work) (some die) (leBytes 1 n ++ leBytes 1 store ++ leBytes 2 entry)
    let v := if fault = 1 then State.count { u with dp.corrected := addAt u.dp.corrected (4 * die) 1 } (0x500 + die) 2 1
      else if fault = 2 then u.modBag n i fun r => { r with broken := some entry }
      else if fault = 3 then mark 0 else if fault = 4 then mark 1 else u
    let from_ := ((r.chains[j]?).map Chain.next).getD 0
    (∀ no k bag, r.work = .bag no k bag →
      exec (.passWriteback n i j fault ⟨entry, readers⟩) s = .next ((v.releaseSlots no k false).noteReady n)) ∧
    (∀ no m, r.work = .tally no m → exec (.passWriteback n i j fault ⟨entry, readers⟩) s = .next (v.noteReady n)) ∧
    (∀ id block row, r.work = .matrix id block row → exec (.passWriteback n i j fault ⟨entry, readers⟩) s = .next ((if fault = 4
      then v.modThresher n fun t =>
        { t with weights := t.weights.filter fun w => !(w.job == id && w.block == block && w.group == row / 64 && w.k == from_) }
      else v).noteReady n))) ∧
  (∀ (s : State) (n : Nat), n ≤ 31 →
    (let u := s.noteReady n
     let t := u.thresher n
     exec (.tileSwap n) s = .next (
      if (∀ b ∈ t.bags, b.tile ≠ t.filling → b.ready = none) ∧
          ((∃ b ∈ t.bags, b.tile = t.filling ∧ b.complete u = true) ∨ u.lacksSlots n = true)
      then u.modThresher n fun t => { t with filling := 1 - t.filling } else u)) ∧
    (∀ r i fixed bad, leastBy (fun (b : BagRun × Nat) => b.1.ready.getD 0)
        ((s.thresher n).bags.zipIdx.filter fun b => b.1.tile != (s.thresher n).filling && b.1.ready.isSome) = some (r, i) →
      let u := s.modThresher n fun t => { t with bags := t.bags.eraseIdx i }
      (r.drained + 1 < r.chains.length → exec (.drainSlice ⟨n, none, fixed, bad⟩) s =
        .next (s.modBag n i fun r => { r with drained := r.drained + 1 })) ∧
      (r.chains.length ≤ r.drained + 1 →
        (∀ no k bag, r.work = .bag no k bag →
          exec (.drainSlice ⟨n, none, fixed, bad⟩) s = .next ((u.operandErrors no k bag fixed bad).drainBag n r no k bag)) ∧
        (∀ no m x y, r.work = .tally no m → u.tallyAt no m = some (x, y) →
          let comp := ((x.sectionFor y.group.table).map fun g => g.tab.pool.compensated).getD false
          let sums := if r.broken.isSome then List.replicate y.group.vals.length 0
            else (r.chains.flatMap Chain.lanes).map fun l => Lane.sum comp l
          let vals := sums.map fun v => if isFinite32 v then v else 0
          let c := u.countNonFinite x.bay y.group.table (sums.filter fun v => !isFinite32 v).length
          let v := match r.broken with
            | some slot => c.raise 0x0501 2 (some x.bay) (some (thresherDie n)) (leBytes 1 n ++ leBytes 1 r.tile ++ leBytes 1 slot)
            | none => c
          exec (.drainSlice ⟨n, none, fixed, bad⟩) s = .next ((v.modSheaf no fun x => { x with
            tally := x.tally.modify m fun t => { t with group := { t.group with vals := vals }, out := true } }).submitDue x.bay)))) ∧
    (∀ no k x g o fixed bad, s.sectionAt no k = some (x, g) → g.outs.find? BagOut.isHeld = some o → g.pooled = true →
      x.crew / 16 = thresherDie n → s.mayPass (thresherDie n) x.bay = true →
      let u := ((s.charge x.bay (34 + thresherDie n) 1).count (0x500 + thresherDie n) 0 1).modSection no k Section.findScales
      ∀ x' g' o', u.sectionAt no k = some (x', g') → g'.outs.find? BagOut.isHeld = some o' →
      let v := u.heldErrors x' k g' o' fixed bad
      ∀ x'' g'' o'', v.sectionAt no k = some (x'', g'') → g''.outs.find? BagOut.isHeld = some o'' →
      exec (.drainSlice ⟨n, some (no, k), fixed, bad⟩) s = .next (
        if g''.back + 1 < slicesOf g''.tab.desc.dim then v.modSection no k fun g => { g with back := g.back + 1 }
        else (v.convertOut x'' k g'' o'').modSection no k fun g => { g with back := 0 }))) ∧
  (∀ (s : State) (no k : Nat) (x : Sheaf) (g : Section), s.sectionAt no k = some (x, g) → x.phase = .working → g.whole = true →
    g.needsRedo = true → s.cribFits x.bay (x.crew / 16) (2 * g.tab.maxGranules) = true →
    exec (.redo no k) s = .next ((((s.discardCrib x.bay (x.crew / 16) (2 * g.tab.maxGranules)).modSection no k Section.again).modSheaf no
      fun x => { x with chaffed := x.chaffed - sumBy (fun (o : BagOut) => o.status % 2) g.outs }).fetchAgain x k g.again).pump)

/-- A matrix job is checked, takes a thresher of its die whole, and its row groups take a slot for each row, initialised with the bias
(R256 to R260); a pass folds a k-group of a row, charged to its bay and its memory points, once every row of the group has entered the
one before and every earlier row group is through, on a block of W that is read once into the weight registers (R256, R257, R259,
R262); a drained row's elements are converted and written, or its row of C is zeros where a slot, a weight register or a granule of A,
W or the bias was bad (R261, R264 to R266); the status is written when the last element has been (R260). A job's accumulator of an
integer product is the exact sum held at 48 bits (R115, R117). -/
def Obligations.MatrixJobsRun : Prop :=
  (∀ (s : State) (n id block row : Nat) (q : Matrix) (x : MatDesc), n ≤ 31 → findKey Matrix.id s.dp.matrices id = some q →
    matDescOf q.desc = some x → q.bias = .done → block = q.block → row = q.row → 128 * block < x.n →
    let rows := min 64 (x.m - row)
    let runs := x.biasRuns row block
    let die := ctxDie q.ctx
    s.matrixRoom n q rows = true → (q.thresher = none → s.matrixOk q x = true) → s.matrixMay q.bay die runs false = true →
    let u := s.matrixReads q runs
    let free := (u.thresher n).freeSlots (u.thresher n).filling
    exec (.allot n .matrix id (block, row)) s = .next ((u.modThresher n fun t => { t with
      matrix := some id
      bags := t.bags ++ items rows fun i =>
        { work := .matrix id block (row + i), tile := (u.thresher n).filling, slots := [natAt free i]
          chains := [⟨u.matrixLanes q.bay x (row + i) block, 0, none⟩], ready := none, drained := 0, broken := none, storeBad := false
          chaffed := x.bias && decide (0 < u.runBad q.bay die (x.biasRun (row + i) block)), clamped := [] } }).modMatrix id fun q =>
      { q with
        thresher := some n, row := if row + rows < x.m then row + rows else 0
        block := if row + rows < x.m then block else block + 1 })) ∧
  (∀ (s : State) (n i j id block row : Nat) (r : BagRun) (c : Chain) (q : Matrix) (x : MatDesc) (fixed bad : List (Nat × Nat)), n ≤ 31 →
    (s.thresher n).bags[i]? = some r → r.chains[j]? = some c → c.flight = none → r.work = .matrix id block row →
    findKey Matrix.id s.dp.matrices id = some q → matDescOf q.desc = some x →
    let die := thresherDie n
    let k := min x.kGroup (x.k - c.next)
    let group := (s.thresher n).groupOf id block row
    let loaded := fun (t : Thresher) => t.weightsOf id block row c.next
    let runs := x.passRuns row block c.next k (loaded (s.thresher n)).isNone
    0 < k → (∀ y ∈ group, c.next ≤ y.entered) → (∀ y ∈ (s.thresher n).groupsBefore id block row, x.k ≤ y.entered) →
    s.workBay r.work = some q.bay → s.mayPass die q.bay = true → s.matrixMay q.bay die runs false = true →
    let u := s.matrixReads q runs
    let weights : Weights := (loaded (u.thresher n)).getD
      { job := q.id, block := block, group := row / 64, k := c.next
        rows := items k fun m => u.matElems q.bay x.fw (x.wRow (c.next + m)) (128 * block) (x.cols block)
        bad := (List.range k).any fun m =>
          decide (0 < u.runBad q.bay (ctxDie q.ctx) (elemRun x.fw (x.wRow (c.next + m)) (128 * block) (x.cols block))) }
    let v := u.modThresher n fun t => { t with weights := if (loaded t).isSome then t.weights else (weights :: t.weights).take 2 }
    let a := v.matElems q.bay x.fa (x.aRow row) c.next k
    let out := c.lanes.zipIdx.map fun l => matAcc x a (weights.rows.map fun r => natAt r l.2) l.1
    ∃ ch, exec (.pass n i ⟨j, fixed, bad⟩) s = .next (((v.charge q.bay (34 + die) 1).count (0x500 + die) 0 1).modBag n i fun y => { y with
      chaffed := y.chaffed || ch
      clamped := y.clamped ++ ((out.zipIdx.filter fun z => z.1.2).map Prod.snd).filter fun j => !y.clamped.contains j
      chains := y.chains.modify j fun z => { z with flight := some (out.map Prod.fst, c.next + k) } }) ∧
      (ch = true ↔ 0 < v.runBad q.bay (ctxDie q.ctx) (elemRun x.fa (x.aRow row) c.next k) ∨ weights.bad = true)) ∧
  (∀ (s : State) (n i id block row : Nat) (r : BagRun) (fixed bad : List Nat), n ≤ 31 → (s.thresher n).drains = some (r, i) →
    r.chains.length ≤ r.drained + 1 → r.work = .matrix id block row →
    exec (.drainSlice ⟨n, none, fixed, bad⟩) s = .next (if s.matrixDrainMay id block row
      then (s.modThresher n fun t => { t with bags := t.bags.eraseIdx i }).drainMatrix n r id block row else s)) ∧
  (∀ (s : State) (id : Nat) (q : Matrix), findKey Matrix.id s.dp.matrices id = some q →
    let fin := fun (at_ : Nat) (st : List Byte) =>
      let u : State := if at_ + 16 ≤ 0xF0000 then State.write s .store q.crew 0 at_ st else s
      let v := match q.thresher with
        | some n => u.modThresher n fun t => { t with matrix := none }
        | none => u
      ({ v with dp.matrices := dropKey Matrix.id v.dp.matrices q.id } : State).ctxSettle q.ctx
    (matDescOf q.desc = none → exec (.matrixJobDone id q.thresher) s = .next (fin (u32At q.desc 60) (matStatus .range 0 0))) ∧
    (∀ x, matDescOf q.desc = some x →
      (q.thresher = none →
        (s.matrixIn q.bay (ctxDie q.ctx) x = false ∨ (s.matrixCols q x).all (matColOk x) = false ∨ q.bias = .failed) →
        exec (.matrixJobDone id none) s = .next (fin x.status (matStatus .range 0 0))) ∧
      (q.thresher.isSome = true → q.written = x.m * ((x.n + 127) / 128) →
        exec (.matrixJobDone id q.thresher) s = .next (fin x.status (matStatus .ok q.sat q.bad.length))))) ∧
  (∀ (x : MatDesc) (l : List (Nat × Nat)) (z : Lane), x.isInt = true → -(2 : Int) ^ 47 ≤ z.acc → z.acc < 2 ^ 47 →
    let prod := fun (p : Nat × Nat) => signedOf (fmtBits x.fa) p.1 * signedOf (fmtBits x.fw) p.2
    let sums := fun (i : Nat) => z.acc + ((l.take i).map prod).foldl (· + ·) 0
    (∀ i, i ≤ l.length → -(2 : Int) ^ 47 ≤ sums i ∧ sums i < 2 ^ 47) →
    matAcc x (l.map Prod.fst) (l.map Prod.snd) z = ({ z with acc := sums l.length }, false))

/-- The next section of a pooled sheaf is placed at its offset behind result_offset, on the queue pair of its doorbell or over the
tether; then its completion record is placed, and the sheaf has completed; a write waits while its regulators or the ridge are used
up, and the record while the job's contexts still fetch (R64, R299); a placement that fails is counted and completes the sheaf without
a record (R220 to R229, R389, R495, R564 to R566). -/
def Obligations.ResultsArePlaced : Prop :=
  (∀ (s : State) (no : Nat) (x0 x : Sheaf) (g : Section), s.sheaf no = some x0 → x0.isUpdate = false → x0.phase = .working →
    let k := x0.sections.findIdx fun g => !g.placed
    let u := s.modSection no k Section.scaled
    u.sheaf no = some x → x.sections[k]? = some g → g.whole = true → g.needsRedo = false →
    let off := x.resultOff + x.sectionOff k
    let mark := fun (s : State) (qpn : Option Nat) =>
      (s.modSheaf no fun x => { x with placing := true, qpn := qpn }).modSection no k fun g => { g with placed := true }
    (∀ q, u.placeAt x true = .net q →
      exec (.resultPlacement no) s = .next (mark (u.rdmaSend q off x.resultKey g.placedBytes (work := some x.no) (die := x.crew / 16)) (some q.qpn))) ∧
    (u.placeAt x true = .host → exec (.resultPlacement no) s = .next (if s.hostMay x.bay (x.crew / 16) g.placedBytes.length
      then mark (u.hostPlace x.resultKey off g.placedBytes s.tth.resultRo (x.crew / 16)) none else s)) ∧
    (u.placeAt x true = .wait → exec (.resultPlacement no) s = .next s) ∧
    (u.placeAt x true = .nowhere → exec (.resultPlacement no) s = .next (mark u none)) ∧
    (∀ v, u.placeAt x true = .failed v → exec (.resultPlacement no) s = .next (v.leaveSheaf no))) ∧
  (∀ (s : State) (no st : Nat) (x : Sheaf), s.sheaf no = some x → x.readyStatus = some st →
    (s.stillFetches no = true → exec (.completionRecord no) s = .next s) ∧
    (s.stillFetches no = false →
    let r := (s.withSections x).record st s.dev.now
    (∀ q, s.placeAt x false = .net q →
      exec (.completionRecord no) s = .next ((s.rdmaSend q x.completionOff x.completionKey r (work := some x.no) (die := x.crew / 16)).leaveSheaf no)) ∧
    (s.placeAt x false = .host →
      let u := s.hostPlace x.completionKey x.completionOff r false (x.crew / 16)
      exec (.completionRecord no) s = .next (if s.hostMay x.bay (x.crew / 16) 32 then (match (s.region x.completionKey).bind Region.msix with
        | some v => u.countVec v
        | none => u).leaveSheaf no else s)) ∧
    (s.placeAt x false = .wait → exec (.completionRecord no) s = .next s) ∧
    (s.placeAt x false = .nowhere → exec (.completionRecord no) s = .next (s.leaveSheaf no)) ∧
    (∀ v, s.placeAt x false = .failed v → exec (.completionRecord no) s = .next (v.leaveSheaf no))))

/-- An update sheaf whose entries have all been executed is RANGE where an entry was malformed or a table's ops mix; else its
contributions are aimed and grouped for coalescing; once all groups are coalesced and its session's turn has come, it is submitted to
flails and owners (R401 to R408, R422); it ends when all of them have (R46). An owner takes a CONTRIB of its bay in order and
acknowledges it when its records have ended; the sender counts the acknowledgement and retransmits a message whose time has passed
(R419 to R423). -/
def Obligations.UpdatesAreTalliedAndAcknowledged : Prop :=
  (∀ (s : State) (no : Nat) (x : Sheaf), s.sheaf no = some x → x.isUpdate = true → x.phase = .working → s.expanded x = true →
    ((x.bad = true ∨ mixedOps x.contribs = true) → exec (.tally no) s =
      .next ((s.modSheaf no fun x => { x with phase := .finished Status.range.code, contribs := [], bad := false }).submitDue x.bay)) ∧
    (x.bad = false → mixedOps x.contribs = false →
      let u := (distinct (x.contribs.map Contrib.table)).foldl (fun s t =>
        let n := nonFinite x.contribs t
        if n = 0 then s
        else (State.modTable s x.bay t fun t => { t with counters := { t.counters with nonFinite := satAdd 64 t.counters.nonFinite n } }).raise
          0x0B02 1 (some x.bay) none (leBytes 2 t ++ zeros 2 ++ leBytes 4 n)) s
      exec (.tally no) s = .next (((u.aimAll x).2.modSheaf no fun y =>
        { y with phase := .tallying, contribs := [], was := [], tally := talliesOf (u.aimAll x).1 }).submitDue x.bay))) ∧
  (∀ (s : State) (no : Nat) (x : Sheaf), s.sheaf no = some x → x.phase = .tallying → exec (.tally no) s = .next (s.submitDue x.bay)) ∧
  (∀ (s : State) (b : Nat) (x : Sheaf),
    (s.dp.sheafs.find? fun x => x.bay == b && x.phase == .tallying && x.tally.all Tallied.out && s.turnOf x) = some x →
    let groups := x.tally.map Tallied.group
    let here := groups.filter fun g => g.node.isNone
    let away := groups.filter fun g => g.node.isSome
    let v := (s.modSheaf x.no fun x => { x with phase := .applying, tally := [], ops := here.length, groups := away }).submitLocal x here
    ∀ n, State.submitTallied (n + 1) b s = State.submitTallied n b
      (if (v.bay x.bay).work.retainStall then v else State.submitRemote (away.length + 1) x.no v)) ∧
  (∀ (s : State) (no : Nat) (x : Sheaf), s.sheaf no = some x → x.phase = .applying → x.ops = 0 → x.messages = 0 → x.groups = [] →
    exec (.updateAcknowledge no) s = .next (s.modSheaf no fun x => { x with phase := .finished Status.ok.code })) ∧
  (∀ (s u : State) (link : Nat) (msg : List Byte), Carries s link msg u →
    (ForUs s msg → exec (.ledgerContrib link msg) s = .next (u.ledgerContrib msg) ∧
      exec (.ledgerAck link msg) s = .next (u.ledgerAck msg)) ∧
    (¬ForUs s msg → exec (.ledgerContrib link msg) s = .next (u.relayOn link (destOf msg) msg) ∧
      exec (.ledgerAck link msg) s = .next (u.relayOn link (destOf msg) msg))) ∧
  (∀ (s : State) (b node seq : Nat),
    (∀ m, (s.owner b node).msgs.find? (fun m => m.seq == seq) = some m → m.applying = true → m.done = false → m.left = 0 →
      let v := ((List.range m.duplicates).foldl (fun s _ => State.sendAck s b node seq 2 0 0 0 0)
        (s.sendAck b node seq 0 m.status m.defaulted m.failed m.saturated)).modInbound b node seq fun x => { x with done := true }
      exec (.ledgerAckSend b node seq) s = .next (v.putOwner ((v.owner b node).advance 4097))) ∧
    (∀ x, (s.channel b node).sent.find? (fun x => x.seq == seq) = some x → x.pausedAt = none →
      x.sentAt + 1000 * (s.bay b).work.e2eUs ≤ s.dev.now →
      let msg := x.data.set 1 (BitVec.ofNat 8 1)
      let path := s.pathTo node seq []
      let v := ((s.putChannel { s.channel b node with sent := (s.channel b node).sent.map fun y =>
        if y.seq = seq then { y with data := msg, sentAt := s.dev.now, retries := y.retries + 1, path := path } else y }).chargeRetention
          b x.die msg.length false).sendFabric (some b) x.die node path msg
      exec (.ledgerRetransmit b node seq) s = .next (if x.retries + 1 = 8
        then v.raise 0x0604 1 (some b) none (leBytes 2 node ++ zeros 2 ++ leBytes 4 seq) else v)))

/-- A flail takes the operation at the head of its queue: it waits behind an operation on the same row, or takes a free entry and
reads the row (R406 to R410). An update whose row or state can be read is computed by its optimiser; one whose row cannot is counted
and reported (R412, R414 to R418). Both wait for the regulators, the links and the tags their accesses need (R64, R314). When its
writes have ended the row, its record, its copies and its entry are committed, and the row is released to its first waiter (R366,
R409, R410). -/
def Obligations.FlailsApplyUpdates : Prop :=
  (∀ (s : State) (k : Nat), k < 384 →
    (∀ op rest, (s.flail k).queue = op :: rest →
      let f := s.flail k
      ((f.entries.any fun e => e.key == op.key) = true → exec (.flailTake k) s =
        .next (s.putFlail { f with
          queue := rest
          entries := f.entries.map fun e => if e.key == op.key then { e with waiters := e.waiters ++ [op] } else e })) ∧
      ((f.entries.any fun e => e.key == op.key) = false → f.entries.length < 64 →
        let u := s.putFlail { f with
          queue := rest, entries := f.entries ++ [⟨op.key.1, op.key.2.1, op.key.2.2, op, none, []⟩] }
        exec (.flailTake k) s = .next ((if (u.beginOp k op).1 then (u.beginOp k op).2 else (u.beginOp k op).2.releaseRow k op.key).hotPoll
          op.key.1))) ∧
    (∀ i e no m b table row isWrite vals epoch o, (s.flail k).entries[i]? = some e →
      e.op = .update no m b table row isWrite vals epoch o →
      (e.computed = none →
        (s.table b table = none →
          exec (.flailReadDone k i) s = .next (((s.opDone e.op 0 0).releaseRow k e.key).hotPoll b)) ∧
        (∀ t, s.table b table = some t →
          (s.updateCut k e.op = true →
            exec (.flailReadDone k i) s = .next (((s.updateFailed k e.op).releaseRow k e.key).hotPoll b)) ∧
          (s.updateCut k e.op = false → (s.updateMay k b t row false = false ∨ s.within (s.updateRead k b t row) b true false = false) →
            exec (.flailReadDone k i) s = .next s) ∧
          (s.updateCut k e.op = false → s.updateMay k b t row false = true → s.within (s.updateRead k b t row) b true false = true →
            let u := s.updateRead k b t row
            exec (.flailReadDone k i) s = .next (
              if u.updateBad b t row then ((u.updateFailed k e.op).releaseRow k e.key).hotPoll b
              else u.putFlail { u.flail k with
                entries := (u.flail k).entries.set i { e with computed := u.compute b t row isWrite vals o } })))) ∧
      (∀ c, e.computed = some c →
        let done := fun (v : State) => (v.releaseRow k e.key).hotPoll b
        (s.table b table = none → exec (.flailWriteDone k i) s = .next (done (s.opDone e.op 0 (c.sat.length + c.momentSat)))) ∧
        (∀ t, s.table b table = some t →
          let v := s.commitUpdate k b t row epoch c
          (s.updateDead k b t row = true → exec (.flailWriteDone k i) s = .next (done (s.updateFailed k e.op))) ∧
          (s.updateDead k b t row = false →
            exec (.flailWriteDone k i) s = .next (
              if s.updateMay k b t row true = false ∨ s.within v b false false = false ∨ (∃ r, row = some r ∧ s.rowSplit b table r = true)
              then s else done (v.opDone e.op 0 (c.sat.length + c.momentSat))))))))

/-- An owner queues a forwarded READ_REQ or POOL_REQ, gives its credit back or withholds it while the queue is full, serves the
queue as the regulators allow and answers on the first path to the requester; it discards a malformed one, and serves nothing
while muster has stopped it (R509, R521 to R525, R530). The requester puts an answer where its request was made for, or counts
it as late (R217 to R219, R331, R533). A FABRIC_ERROR sends the request to the next owner once, else chaffs its positions (R532,
R535); a failed path has the request reissued once (R532). A message for another package is passed on (R526). -/
def Obligations.ForwardedRequestsAreServed : Prop :=
  (∀ (s u : State) (link : Nat) (msg : List Byte), Carries s link msg u →
    (ForUs s msg →
      (∀ (k : Nat) (i : Instr), (k = 3 ∧ i = .readReq link msg) ∨ (k = 5 ∧ i = .poolReq link msg) →
        (u8At msg 0 ≠ k → exec i s = .next (u.wrongKind link msg)) ∧
        (u8At msg 0 = k → exec i s = .next (
          let die := linkDie link
          if u.net.muster.phase = .stopped then u.requestCredit link die msg
          else if u.requestOk msg k = false then (u.malformedFabric link).requestCredit link die msg
          else (({ u with fab.incoming := u.fab.incoming ++ [⟨die, some link, msg⟩] } : State).requestCredit link die msg).serveIncoming))) ∧
      (∀ (k : Nat) (i : Instr), (k = 4 ∧ i = .readResp link msg) ∨ (k = 6 ∧ i = .poolResp link msg) →
        (u8At msg 0 ≠ k → exec i s = .next (u.wrongKind link msg)) ∧
        (u8At msg 0 = k → exec i s = .next (u.answerIn link msg) ∧
          (u.responseOk msg k = false → exec i s = .next (u.malformedFabric link)) ∧
          (u.responseOk msg k = true → (∀ q, u.requestFor msg = some q → q.kind + 1 ≠ k) →
            exec i s = .next (u.lateCompletion (u32At msg 8))))) ∧
      (u8At msg 0 ≠ 7 → exec (.fabricError link msg) s = .next (u.wrongKind link msg)) ∧
      (u8At msg 0 = 7 → exec (.fabricError link msg) s = .next (u.errorIn link msg) ∧
        (u.responseOk msg 7 = true → msg.length = 32 → u32At msg 12 = 0 → u32At msg 24 = 0 →
          (u.requestFor msg = none → exec (.fabricError link msg) s = .next (u.lateCompletion (u32At msg 8))) ∧
          (∀ q r, u.requestFor msg = some q → findKey Read.id u.dp.reads q.id = some r → u16At msg 18 ∉ [4, 10, 12] →
            exec (.fabricError link msg) s = .next (u.chaffAll r))))) ∧
    (¬ForUs s msg → ∀ i, i ∈ [Instr.readReq link msg, .poolReq link msg, .readResp link msg, .poolResp link msg,
        .fabricError link msg] → exec i s = .next (u.relayOn link (destOf msg) msg))) ∧
  (∀ (s : State) (link die : Nat) (msg : List Byte), 1 ≤ link →
    let v := s.malformedFabric link
    s.wrongKind link msg = (if u8At msg 0 = 3 ∨ u8At msg 0 = 5 then v.requestCredit link (linkDie link) msg else v) ∧
    s.requestCredit link die msg = (if 4096 ≤ (s.fab.incoming.filter fun i => i.die == die).length
      then s.modLink link fun l => { l with owed := l.owed + flitsOf msg.length } else s.creditBack link msg)) ∧
  (∀ (s : State) (i : Incoming) (n : Nat), s.fab.incoming.find? s.incomingMay = some i →
    let u : State := { s with fab.incoming := s.fab.incoming.erase i }
    let a := u.ownerAnswer i.die i.msg
    let node := u16At i.msg 4
    (u.isSelf node = false → State.serveAll (n + 1) s = State.serveAll n
      ((a.2.sendFabric (some (u16At i.msg 2)) i.die node (a.2.pathTo node (u32At i.msg 8) []) a.1).returnOwed i.die))) ∧
  (∀ (s : State) (id : Nat),
    (∀ q, s.dp.quarantines.find? (fun q => q.id == id && !q.late) = some q →
      let v := (State.modCounters { s with
          dp.quarantines := s.dp.quarantines.map fun x => if x.id = id then { x with late := true } else x } q.bay fun c =>
        { c with late := satAdd 32 c.late 1 }).count q.bay 11 1
      exec (.lateCompletion id) s = .next (match q.ctx with
        | some c => v.modCtx c fun x => x.bump 5 1
        | none => v)) ∧
    exec (.quarantineEnd id) s =
      .next { s with dp.quarantines := s.dp.quarantines.filter fun q => !(q.id == id && decide (q.until_ ≤ s.dev.now)) } ∧
    (∀ q r, s.fab.requests.find? (fun q => q.id == id) = some q → findKey Read.id s.dp.reads id = some r → s.pathDead q.path = true →
      exec (.pathFailure id) s = .next (if q.reissued then (s.quarantine r).chaffAll r
        else (s.withdraw q r).reissueTo q r q.node r.purpose q.rows (u32At q.msg 24) (q.msg.drop 32) (some q.id))))

/-- A VCP message is taken from every carrier: a datagram at a sub-port that is up, where one shorter than a header or with a
wrong checksum, or longer than 4,096 bytes, is discarded and counted; a SEND on a queue pair; the oldest submitted message of a
mailbox, whose slot is free then; a request written to MTW_REQ. Where its session's command queue is full a datagram is answered
BUSY, a SEND with an RNR NAK, and a mailbox message stays (R484, R497, R559, R560, R580, R592, R651). -/
def Obligations.CarriersDeliverMessages : Prop :=
  (∀ (s : State) (port sub : Nat) (src : NetAddr) (srcPort : Nat) (data : List Byte) (badSum : Bool), hasSub port sub = true →
    s.alive port sub = true →
    let u := (s.count (0x300 + port) (16 * sub) 1).count (0x300 + port) (16 * sub + 2) (udpFrame src.v6 data.length)
    let r : Req := ⟨.udp port sub src srcPort, data⟩
    exec (.vcpDatagram port sub src srcPort data badSum) s = .next (
      if data.length < 16 ∨ badSum = true then u.countDiscard 0
      else if 4096 < data.length then u.countDiscard 1
      else (u.takeIn r).getD (u.respond r false ⟨.busy, 0, []⟩))) ∧
  (∀ (s : State) (qpn b : Nat) (q : Qp) (data : List Byte), s.hatchOf qpn = some (q, b) →
    exec (.vcpSend qpn data) s = .next (((s.received q data.length).takeIn ⟨.send qpn, data⟩).getD (s.sendNak q .rnr))) ∧
  (∀ (s : State) (box slot len : Nat) (rest : List (Nat × Nat)) (m : Mailbox), box ≤ 31 → s.box box = some m →
    m.submitted = (slot, len) :: rest → s.tth.attached = true →
    exec (.mailboxTake box) s = .next (((s.modBox box fun m => { m with submitted := rest, consumed := m.consumed + 1 }).takeIn
      ⟨.mailbox box, s.read .slots box 0 (4096 * slot) len⟩).getD s)) ∧
  (∀ (s v : State) (data : List Byte) (restart : Bool), s.dev.phase ≠ .off → s.mtwBegin 0x20 = (true, v) →
    let w : State := { v with mgmt.mtw.pointer := 0 }
    (restart = true → exec (.mtwReq data restart) s = .next v) ∧
    (restart = false → 512 + flag w.mgmt.mtw.pec < data.length →
      exec (.mtwReq data restart) s = .next (w.ackMtw false).badMtwReq) ∧
    (∀ d x, restart = false → data.length ≤ 512 + flag w.mgmt.mtw.pec → w.mtwData 0x20 data = (some d, x) →
      exec (.mtwReq data restart) s = .next (if d.length < 16 then x.badMtwReq else x.mtwSubmit d)) ∧
    (∀ x, restart = false → data.length ≤ 512 + flag w.mgmt.mtw.pec → w.mtwData 0x20 data = (none, x) →
      exec (.mtwReq data restart) s = .next x))

/-- A request that arrives at stewards that serve, and is no repeat, is checked in the order of R586: a discarded one is
counted, a failing one is answered with the first failure, and one that passes joins its session's command queue, or, a
wicket-shaped message, the wicket's, unless that queue is full (R589, R592, R596). A response is discarded; while the stewards
do not serve, nothing changes (R498, R612). -/
def Obligations.RequestsAreCheckedAndQueued : Prop :=
  ∀ (s : State) (r : Req), (headerOf r.msg).op ≠ 0x0B40 → (headerOf r.msg).op ≠ 0x0610 →
    let wicket := r.msg.length = 64 ∧ r.via ≠ .mtw
    (isResponse r = true → s.takeIn r = some s.countMalformed) ∧
    (isResponse r = false → (wicket → s.lan.failsafe = false) →
      (s.serving r.via = false → s.takeIn r = some s) ∧
      (s.serving r.via = true →
        (∀ v, s.repeated r = some v → s.takeIn r = some v) ∧
        (s.repeated r = none →
          (∀ w, s.firstChecks r = .discard w → s.takeIn r = some (s.countDiscard w)) ∧
          (∀ reply, s.firstChecks r = .fail reply → s.takeIn r = some (s.respond r true reply)) ∧
          (∀ c, s.firstChecks r = .pass c →
            (wicket → s.takeIn r = some (s.queueMessage r c.bay)) ∧
            (¬wicket → s.takeIn r = if s.queueFull r then none else some (s.enqueue r))))))

/-- A management bus master is answered at the device's own address alone: an address byte of a read is always acknowledged and
the pointer's register read, one of a write unless a request executes; a register byte sets the pointer, alone or with a
repeated start; a quick write is acknowledged and ignored; a timeout is counted; an alert response is answered while the alert
output is driven, and releases it (R640 to R645, R650). Varlet's response appears in MTW_RSP (R651). -/
def Obligations.ManagementBusAnswers : Prop :=
  ∀ (s : State), s.dev.phase ≠ .off →
    (∀ addr read n, exec (.mtwAddress addr read n) s = .next (
      let u := s.count 0x700 0 1
      if addr ≠ s.mtwAddr then s.ackMtw false
      else if read = true then (u.ackMtw true).mtwReadBytes [] n
      else if s.mgmt.mtw.busy then u.nackWrite else u.ackMtw true)) ∧
    (∀ reg readLen,
      let u := s.count 0x700 0 1
      let good := (({ u with mgmt.mtw.pointer := reg } : State).ackMtw true)
      exec (.mtwSetPointer reg readLen) s = .next (
        if u.mgmt.mtw.busy = true ∨ u.mtwReg reg = none then u.nackWrite
        else if reg = 0x20 ∧ u.mtwReady = false then u.nackWrite
        else if reg = 0x20 ∧ u.domainA0 0 = false then (u.nackWrite).wakeDomain 0 5
        else match readLen with
          | none => good
          | some n => good.mtwReadBytes [2 * good.mtwAddr, reg] n)) ∧
    exec .mtwQuickWrite s = .next (if s.mgmt.mtw.busy then (s.count 0x700 0 1).nackWrite else (s.count 0x700 0 1).ackMtw true) ∧
    exec .smbusTimeout s = .next (s.count 0x700 4 1) ∧
    (s.alertOut = true → exec .alertResponse s =
      .next (({ s with mgmt.mtw.releasedAt := some s.lan.nextSeq } : State).emit (.mtwRead (leBytes 1 (2 * s.mtwAddr))))) ∧
    (∀ m, s.mgmt.mtw.ready = some m → exec .mtwResponse s =
      .next { s with mgmt.mtw.response := some m, mgmt.mtw.ready := none, mgmt.mtw.busy := false })

/-- A register write sets the fields that can be written, of the tether's block (R550), of MTW over the bus with its packet
error code checked (R643, R644, R648, R649), and of the lantern, where LAN_WAKE_CAUSE clears the bits written as 1, the timer
and the watchdog are set, and LAN_DOM_CFG takes its fallow state and hysteresis (R15, R631, R636 to R639); any other write is
ignored. -/
def Obligations.RegisterWritesSetTheirFields : Prop :=
  ∀ (s : State) (data : List Byte), s.dev.phase ≠ .off →
    (∀ off, exec (.registerWrite .tth off data) s = .next (s.tthWrite off data)) ∧
    (exec (.registerWrite .mtw 0x20 data) s = .next s) ∧
    (∀ off v, s.mtwBegin off = (false, v) → off ≠ 0x20 → exec (.registerWrite .mtw off data) s = .next v) ∧
    (∀ off v w, s.mtwBegin off = (true, v) → off ≠ 0x20 → v.mtwData off data = (none, w) →
      exec (.registerWrite .mtw off data) s = .next w) ∧
    (∀ off d v w, s.mtwBegin off = (true, v) → off ≠ 0x20 → v.mtwData off data = (some d, w) →
      exec (.registerWrite .mtw off data) s = .next (
        if off = 0x02 ∧ d ≠ [] then { w with
          mgmt.mtw.pec := bit (u8At d 0) 0, mgmt.mtw.alertEn := bit (u8At d 0) 1, mgmt.mtw.alertLevel := bits (u8At d 0) 2 2 }
        else if off = 0x03 ∧ d ≠ [] then { w with mgmt.mtw.lanAddr :=
          (leNat (d.take 2) + (if d.length = 1 then w.mgmt.mtw.lanAddr / 256 * 256 else 0)) % 0x1000 }
        else w)) ∧
    (let v := leNat (data.take 4)
     exec (.registerWrite .lan 0x004 data) s = .next { s with lan.wakeCause := s.lan.wakeCause &&& (2 ^ 32 - 1 - v % 2 ^ 32) } ∧
     exec (.registerWrite .lan 0x00C data) s = .next { s with lan.timer := s.lan.timer / 2 ^ 32 * 2 ^ 32 + v % 2 ^ 32 } ∧
     exec (.registerWrite .lan 0x010 data) s = .next { s with lan.timer := s.lan.timer % 2 ^ 32 + v % 2 ^ 16 * 2 ^ 32 } ∧
     exec (.registerWrite .lan 0x014 data) s = .next { s with lan.wdogAt := s.dev.now } ∧
     (∀ k, k < 75 → exec (.registerWrite .lan (0x500 + 4 * k) data) s = .next (s.modDomain k fun d =>
        { d with fallow := if v % 4 = 0 then d.fallow else v % 4, hysteresis := v / 256 % 2 ^ 24 })) ∧
     (∀ off, off ∉ [0x004, 0x00C, 0x010, 0x014] → (off < 0x500 ∨ off % 4 ≠ 0 ∨ 0x500 + 4 * 75 ≤ off) →
        exec (.registerWrite .lan off data) s = .next s))

/-- At the end of a window of 25 ACLK periods what waits is served as far as it may be (R72), served counts start at their debts,
changed regulators, steps and levels take effect, the clocks switch, zeroisation goes on, and what waited for a cap does (R63,
R66, R70, R84, R607). A drain ends when no work, no retained update, no gap and no held message is left, or at its timeout, when
they are dropped and reported; a destroy that waited goes on (R79, R80). When every resource of a ZEROING bay has been written,
its bytes are zero and it is ABSENT (R81, R83, R84). -/
def Obligations.WindowsAndBayLifecycle : Prop :=
  (∀ c : BayCore, c.newWindow = { c with
    served := c.debt, carried := c.debt, debt := List.replicate 36 0, regs := c.regsNext.getD c.regs, regsNext := none }) ∧
  (∀ (s : State), s.dev.phase = .running → s.dev.windowStart + 1000 ≤ s.dev.now →
    let all := fun (late : Bool) (v : State) => (List.range 16).foldl (fun s k => State.zeroWindow s late k) v
    let u := (all true s.goOn).countWindow
    let a : State := { u with
      dev.windowStart := u.dev.windowStart + 1000
      dp.device := List.replicate 36 0
      bays := u.bays.map fun y => { y with core := y.core.newWindow } }
    let b := (List.range 12).foldl (fun s k => State.takeStep s k) a
    let c := b.takeDevloads.switchCclk
    exec .windowBoundary s = .next (all false c).tetherRun.goOn) ∧
  (∀ (s : State) (b t : Nat), b ≤ 15 → s.bayState b = .draining → (s.bay b).core.life.drainStart = some t →
    let over_ := fun (v : State) =>
      let w := v.modLife b fun l => { l with drainStart := none }
      if (v.bay b).core.life.destroyWanted then w.enterZeroing b else w
    (s.bayWork b = [] → s.retainedFor b = 0 → s.gapOpen b = false → s.heldMessages b = 0 → exec (.drainEnd b) s = .next (over_ s)) ∧
    (t + 1000000 * (s.bay b).core.shares.drainMs ≤ s.dev.now →
      exec (.drainTimeout b) s = .next (over_ (((State.dropSheafs { s with
        fab.channels := s.fab.channels.map fun c => if c.bay = b then { c with sent := [] } else c
        fab.owners := s.fab.owners.map fun c => if c.bay = b then { c with msgs := [] } else c } b fun _ => true).dropLookups b).raise
          0x0C02 1 (some b) none (leBytes 4 (s.retainedFor b) ++
            leBytes 4 ((s.dp.sheafs.filter fun x => x.bay == b && x.phase == SheafPhase.held).length + s.heldMessages b)))))) ∧
  (∀ (s : State) (b : Nat), b ≤ 15 →
    let l := (s.bay b).core.life
    l.state = .zeroing → (∀ n ∈ l.zeroSilo, n = 0) → (∀ n ∈ l.zeroLoft, n = 0) →
    let u := s.eraseBay b
    let v : State := { u with
      bays := u.bays.set b Bay.absent
      flash.zeroing := u.flash.zeroing.filter (· != b)
      flash.loftUnits := u.flash.loftUnits.filter fun u => u.1 != b
      mgmt.perf := u.mgmt.perf.filter fun p => p.block != b
      memsys.silos := u.memsys.silos.map fun x => { x with errs := disown (fun k => if k / 32 = b then 32 * 16 + k % 32 else k) x.errs }
      memsys.lofts := u.memsys.lofts.map fun x => { x with errs := disown (fun k => if k = b then 16 else k) x.errs } }
    exec (.zeroisationEnd b) s =
      .next ((v.withdrawVotes b).raise 0x0C03 0 (some b) none (leBytes 4 ((s.dev.now - l.zeroStart) / 1000000))))

/-- The module's insertion, power and parking: MATED_N low starts the ramp unless a fault is latched (R669, R689); the ramp
enables the rails, each in turn, and after the seventh boot begins (R672); a fault of the hot-swap controller opens the main
path and latches (R670, R673); an input below 46 V is reported (R670); the attention input requests parking, which waits while
Varlet does not run (R688, R690), and when every drain has ended the rails go down one by one until the module is parked (R672,
R690); removal and the loss of standby stop everything on the main path (R668, R692). -/
def Obligations.ModuleInsertsAndParks : Prop :=
  ∀ (s : State),
    (s.dev.phase ≠ .off →
      let u : State := { s with board.mated := true }
      exec .matedNDebounce s = .next (if s.dev.phase = .standby ∧ s.board.fault = none ∧ s.board.rails = 0
        then { u with dev.phase := .ramp } else u)) ∧
    (s.dev.phase = .ramp → exec .rampComplete s = .next { s with dev.phase := .rails, board.rails := 0 }) ∧
    (∀ k, s.dev.phase = .rails → k = s.board.rails + 1 → k ≤ 7 →
      exec (.railPowerGood k) s = .next (if k < 7 then { s with board.rails := k }
        else { s with board.rails := 7, dev.phase := .booting, dev.boot := .rom })) ∧
    (∀ k, (s.dev.phase = .parked ∨ s.dev.phase = .standby) → k = s.board.rails → 1 ≤ k → k ≤ 7 →
      exec (.railDown k) s = .next (
        let u : State := { s with board.rails := k - 1 }
        if k = 1 ∧ s.dev.phase = .parked then { u with dev.parking := .parked } else u)) ∧
    (∀ cause, cause ≤ 5 → s.mainOn = true → exec (.hotswapFault cause) s =
      .next (({ s.powerDown .standby (if cause = 4 then s.board.rails else 0) with board.fault := some cause } : State).raise
        0x010D 3 none none (leBytes 1 cause))) ∧
    (∀ mv, s.dev.phase ≠ .off → mv < 46000 → exec (.moduleInputFault mv) s = .next (s.raise 0x010C 2 none none (leBytes 4 mv))) ∧
    exec .standbyLoss s = .next { s.powerDown .off 0 with board.fault := none, lan.buffered := [], lan.overflow := 0 } ∧
    (let u : State := { s with board.mated := false }
     exec .surpriseRemoval s = .next (if u.mainOn = true ∨ s.dev.phase = .tripped then u.powerDown .standby 0 else u)) ∧
    (s.dev.parking = .none →
      (s.stewardsUp = true →
        exec .attnN s = .next (State.drainOpen { s with dev.parking := .draining, board.parkAtBoot := false })) ∧
      (s.stewardsUp = false → (s.dev.phase = .booting ∨ s.dev.phase = .running) →
        exec .attnN s = .next { s with board.parkAtBoot := true })) ∧
    (s.dev.parking = .draining → s.dev.phase = .running →
      (∀ y ∈ s.bays, y.core.life.state = .draining → y.core.life.drainStart = none) →
      exec .parkWaitEnd s = .next { s.powerDown .parked s.board.rails with dev.parking := .rails }) ∧
    (∀ port mw, port ≤ 7 → s.mainOn = true →
      let low := decide (12000 < mw)
      let u : State := { s with net.ports := s.net.ports.modify port fun p => { p with cage := if low then 2 else 1 } }
      exec (.pluggableInsertion port mw) s = .next (if low then u.portDown port else u)) ∧
    (∀ dom f, dom ≤ 74 → (s.domain dom).state = .exiting f .logic →
      let u := s.modDomain dom fun d => { d with state := .a0, idleSince := s.dev.now }
      exec (.logicOk dom) s = .next (if dom = 0 ∧ f = 3 then s.deviceReset 6
        else if f = 3 ∧ 2 ≤ dom ∧ dom < 34 then u.reloadCrew (dom - 2)
        else if 46 ≤ dom ∧ dom < 54 then u.portAwake (dom - 46) else u))

/-- Resets: the lantern's power-on reset keeps the boot flash, the fuses and what is fitted and samples the straps (R609, R684);
the module reset input, the watchdog and an exception of a steward reset what R609 gives them (R608 to R613, R687); two seconds
without resumption are Failsafe, and further ones a retry, then a device reset (R614); the boot ROM chooses an image, a failed
trial gives way to the image before it (R701, R704), and Varlet resumes with every lease extended (R612, R614). -/
def Obligations.ResetsKeepAndRestore : Prop :=
  (∀ (s : State) (a k t : Nat),
    exec (.powerOnReset a k t) s = .next { State.reset with
      pending := s.pending, out := s.out, freeCount := s.freeCount, ident := s.ident
      flash := { s.flash with loftToZero := s.flash.loftToZero ++ s.flash.loftUnits, loftUnits := [] }
      lan := { State.reset.lan with addrSel := a % 4, clkSel := k % 2, tthDisable := t % 2, floor := s.lan.floor }
      board := { State.reset.board with resetLow := s.board.resetLow } }) ∧
  (∀ (s : State),
    exec .lanWdog s = .next { s with lan.wdogAt := s.dev.now } ∧
    (s.stewardsUp = true →
      (s.lan.wdogAt + 500000000 ≤ s.dev.now → exec .stewardWatchdog s = .next (s.stewardReset 2)) ∧
      exec .stewardException s = .next (s.stewardReset 3)) ∧
    ((s.dev.phase = .booting ∨ s.dev.phase = .running ∨ s.dev.phase = .recovery) →
      exec (.modResetN true) s = .next (({ s with board.resetLow := true } : State).deviceReset 1)) ∧
    (s.dev.phase = .standby →
      exec (.modResetN true) s = .next { s with board.resetLow := true, board.fault := none } ∧
      let u : State := { s with board.resetLow := false }
      exec (.modResetN false) s = .next (if s.board.resetLow = true ∧ s.board.mated = true ∧ s.board.fault = none ∧ s.board.rails = 0
        then { u with dev.phase := .ramp } else u)) ∧
    (∀ since cause n, s.dev.steward = .inReset since cause n →
      (s.lan.failsafe = false → since + 2000000000 ≤ s.dev.now →
        exec .lanternFailsafe s = .next (({ s with
          lan.failsafe := true
          board.fans := s.board.fans.map fun f => { f with duty := 100 } } : State).raise 0x0108 2 none none [])) ∧
      (s.lan.failsafe = true → since + 2000000000 * (n + 1) ≤ s.dev.now →
        exec .failsafeRetry s = .next (if n < 3 then s.stewardReset cause else s.deviceReset 4)) ∧
      (∀ bad, s.dev.phase = .running → s.dev.slot = none → s.trialFailed = false →
        exec (.bootRom bad) s = .next (let u := s.choose true bad
          if u.dev.slot = none then u.enterRecovery else u)) ∧
      (s.dev.phase = .running → s.dev.slot ≠ none →
        let d := s.dev.now - since
        let u : State := { s with
          dev.steward := .running
          lan.held := false, lan.failsafe := false, lan.resets := 0, lan.wdogAt := s.dev.now
          net.sessions := s.net.sessions.map fun x => (if x.state = .ended then x else { x with expiry := x.expiry + d }) }
        let v := ((u.flushBuffered.raiseNotes.raise 0x0107 0 none none (leBytes 4 (d / 1000))).startTrial).driveFans
        exec .stewardResume s = .next (if v.board.parkAtBoot then v.startParking else v))) ∧
    (∀ bad, s.dev.phase = .booting → s.dev.boot = .rom → s.board.resetLow = false → s.dev.steward = .running →
      exec (.bootRom bad) s = .next (let u := s.choose false bad
        if u.dev.slot = none then u.enterRecovery else { u with dev.boot := .verify })) ∧
    (∀ i, s.slotIn .trial = some i → s.trialFailed = true → s.dev.steward = .running →
      let back := s.slotIn .active
      let cause := Config.unstated 8 0 % 7
      let u := s.modFw i fun x => { x with state := .valid }
      let v : State := { u with dev.notes := u.dev.notes ++ [rollbackEvent i (back.getD i)] }
      exec .trialFailed s = .next (
        if back.any fun j => (s.fwSlot i).journal == (s.fwSlot j).journal then v.stewardReset cause
        else { v.deviceReset cause with dev.notes := v.dev.notes })))

/-- The local two-wire master, while Varlet runs, goes on with its transfer: done, arbitration lost, not acknowledged once and
again after 1 ms, or past its deadline, each counted or reported; arbitration lost at a stop is retried 3 times; a bus held low
is reported, and a released one taken back at the check each second (R652 to R654). -/
def Obligations.LocalBusMasterTransfers : Prop :=
  ∀ (s : State), s.varletRuns = true →
    (∀ (target kind : Nat) (data : List Byte), s.mgmt.ltw.stuckScl = none → s.mgmt.ltw.notBefore ≤ s.dev.now →
      let x := s.mgmt.ltw.transfer.getD (target, data, kind)
      let a := if s.mgmt.ltw.transfer.isNone then s.count 0x700 5 1 else s
      let u : State := { a with mgmt.ltw.transfer := some x }
      exec (.ltwTransfer target data kind 0) s = .next (({ u with mgmt.ltw := { u.mgmt.ltw with
        transfer := none, retries := 0, nacks := 0, notBefore := u.dev.now + 20000 } } : State).emit (.ltw x.1 x.2.1)) ∧
      exec (.ltwTransfer target data kind 1) s = .next (u.count 0x700 6 1) ∧
      exec (.ltwTransfer target data kind 2) s = .next (if u.mgmt.ltw.nacks = 0
        then { u with mgmt.ltw.nacks := 1, mgmt.ltw.notBefore := u.dev.now + 1000000 }
        else (u.ltwNack x.1).ltwFail x.1 x.2.1 x.2.2) ∧
      ∀ n, exec (.ltwTransfer target data kind (3 + n)) s =
        .next ((u.raise 0x0A03 2 none none (leBytes 1 x.1)).ltwFail x.1 x.2.1 x.2.2)) ∧
    (∀ target data kind, s.mgmt.ltw.transfer = some (target, data, kind) →
      exec .ltwArbStop s = .next (if s.mgmt.ltw.retries < 3
        then ({ s with mgmt.ltw.retries := s.mgmt.ltw.retries + 1, mgmt.ltw.notBefore := s.dev.now + 50000 } : State).count 0x700 7 1
        else (s.raise 0x0A01 2 none none (leBytes 1 target ++ leBytes 1 (1 + s.mgmt.ltw.retries))).ltwFail target data kind)) ∧
    exec (.ltwBusStuck 1 true) s = .next ((s.emit .ltwRecover).raise 0x0A04 2 none none (leBytes 1 1)) ∧
    (s.mgmt.ltw.stuckScl = none →
      exec (.ltwBusStuck 0 true) s =
        .next (({ s with mgmt.ltw.stuckScl := some s.dev.now } : State).raise 0x0A04 2 none none (leBytes 1 0))) ∧
    (∀ t held, s.mgmt.ltw.stuckScl = some t → t + 1000000000 ≤ s.dev.now →
      exec (.ltwBusStuck 0 held) s = .next { s with mgmt.ltw.stuckScl := if held then some s.dev.now else none })

/-- The UART takes a frame into its FIFO, or counts a framing error, an overrun or a break (R656, R657); it sends its output
byte by byte, and a pending rate takes effect after the reply (R658). The console acts on the line that waits: status, events,
level and baud, each answered as R658 says, and goes on with the next line. -/
def Obligations.ConsoleAnswersItsLines : Prop :=
  (∀ (s : State), s.dev.phase ≠ .off →
    (∀ b, exec (.uartByte b false) s = .next (s.count 0x700 9 1)) ∧
    (∀ b,
      let u := s.drainUart
      exec (.uartByte b true) s = .next (if 64 ≤ u.mgmt.uart.rx.length then u.count 0x700 10 1
        else State.drainUart { u with mgmt.uart.rx := u.mgmt.uart.rx ++ [b] })) ∧
    exec .uartBreak s = .next (s.count 0x700 11 1)) ∧
  (∀ (s : State) (b : Byte) (rest : List Byte), s.mgmt.uart.tx = b :: rest →
    let u := ({ s with mgmt.uart.tx := rest } : State).emit (.uart [b])
    exec .uartTransmit s = .next (match s.mgmt.uart.pendingBaud with
      | some (i, n) => if n ≤ 1 then { u with mgmt.uart.baud := i, mgmt.uart.pendingBaud := none }
          else { u with mgmt.uart.pendingBaud := some (i, n - 1) }
      | none => u)) ∧
  (∀ (s : State),
    let u := s.drainUart
    u.varletRuns = true →
    (u.consoleWaits = some .status →
      exec .consoleStatus s = .next (u.console (hexBytes u.mtwStatus ++ crlf)).nextLine) ∧
    (∀ n, u.consoleWaits = some (.events n) →
      let v := u
      exec .consoleEvents s = .next ((lastN (min n 64) (v.mgmt.log.filter fun r => decide (v.mgmt.uart.level ≤ r.ev.severity))).foldl
        (fun s r => State.console s (consoleRecord r)) v).nextLine) ∧
    (∀ l, u.consoleWaits = some (.level l) →
      exec .consoleLevel s = .next (State.nextLine { u with mgmt.uart.level := l })) ∧
    (∀ i, u.consoleWaits = some (.baud i) →
      let v := u.console (ascii "ok" ++ crlf)
      exec .consoleBaud s = .next (State.nextLine (if v.mgmt.uart.tx.length = 0 then { v with mgmt.uart.baud := i }
        else { v with mgmt.uart.pendingBaud := some (i, v.mgmt.uart.tx.length) }))))

/-- A sensor is read, its status follows its thresholds and a change is reported (R659, R696), with the fans driven to the
largest margin used (R695); a fan below 1,000 rpm for 3 s is faulty (R695). Package power above 950 W lowers the ceiling by one
point and 1 s below 900 W raises it (R675); a suppression window closes after a second (R665). -/
def Obligations.SensorsFansAndCeilings : Prop :=
  (∀ (s : State) (n : Nat) (reading : Option Int), n ≤ 30 → s.dev.phase ≠ .off → (n < 14 ∨ 27 ≤ n ∨ s.varletRuns = true) →
    let r := s.ownReading n reading
    let u : State := if 27 ≤ n then
        { s with board.fans := s.board.fans.modify (n - 27) fun f => f.take s.dev.now (r.map fun v => v.toNat / 1000) }
      else s
    let v := match r with
      | none => u.setSensor n 3 0
      | some x => u.setSensor n (u.sensorStatus n x) x
    let w := if n = 19 then (match r with
        | some x => v.packagePower x
        | none => v) else v
    exec (.sensorPoll n reading) s = .next (if w.varletRuns then w.driveFans else w)) ∧
  (∀ (s : State), s.varletRuns = true →
    (∀ k f t, k ≤ 3 → s.board.fans[k]? = some f → f.present = true → f.faulty = false → f.slowSince = some t →
      t + 3000000000 ≤ s.dev.now →
      exec (.fanFault k) s = .next ((({ s with board.fans := s.board.fans.modify k fun f => { f with faulty := true } } : State).raise
        0x010B 1 none none (leBytes 1 k ++ zeros 3 ++ leBytes 4 f.rpm)).driveFans)) ∧
    ((s.sensor 19).status ≠ 3 → 950000 < (s.sensor 19).value →
      exec .packagePowerLimit s = .next ((({ s with dev.powerCeil := min s.dev.powerCeil s.dev.cclkSet - 1 } : State).raise
        0x010E 1 none none (leBytes 4 (s.sensor 19).value.toNat)).followCeiling)) ∧
    (∀ t, s.dev.powerCeil < s.dev.cclkSet → s.dev.lowPowerSince = some t → t + 1000000000 ≤ s.dev.now →
      exec .powerCeilingRaise s =
        .next (({ s with dev.powerCeil := s.dev.powerCeil + 1, dev.lowPowerSince := some s.dev.now } : State).followCeiling))) ∧
  (∀ (s : State) (code : Nat) (bay die : Option Nat) (w : LogWindow), s.dev.steward = .running →
    s.mgmt.windows.find? (fun w => w.code == code && w.bay == bay && w.die == die) = some w → w.opened + 1000000000 ≤ s.dev.now →
    exec (.eventSuppressed code bay die) s = .next (s.closeWindow w))
end

