-- ==== Sys2Proof/Laws/Memory.lean ====
section
/-! SUPPORT. Memory: every operation keeps the canonical form, a read after a write gives what was written, and a write leaves
every other byte alone. -/

set_option Elab.async false

namespace Sys2Proof.Machine

/-- Whether every key of a memory in canonical form lies above one. -/
def memAbove (k : Nat) : List Host.Cell → Prop
  | [] => True
  | (k', _) :: _ => k < k'

theorem memory_wf_cons (k : Nat) (b : Byte) (m : List Host.Cell) :
    Memory.wf ((k, b) :: m) = true ↔ b ≠ unwritten ∧ memAbove k m ∧ Memory.wf m = true := by
  cases m with
  | nil => simp [Memory.wf, memAbove]
  | cons c m => simp [Memory.wf, memAbove, and_assoc]

theorem memAbove_le {j k : Nat} {m : List Host.Cell} (h : memAbove k m) (hj : j ≤ k) : memAbove j m := by
  cases m with
  | nil => trivial
  | cons c m => exact Nat.lt_of_le_of_lt hj h

theorem memSet_above {lo k : Nat} {b : Byte} {m : List Host.Cell} (hm : memAbove lo m) (hw : Memory.wf m = true) (hk : lo < k) :
    memAbove lo (memSet m k b) := by
  cases m with
  | nil => by_cases h : b = unwritten <;> simp [memSet, memAbove, h, hk]
  | cons c m =>
    obtain ⟨j, c⟩ := c
    obtain ⟨-, h2, h3⟩ := (memory_wf_cons j c m).mp hw
    simp only [memAbove] at hm
    unfold memSet
    split
    · exact hm
    · split
      · split
        · exact memAbove_le h2 (by omega)
        · exact hk
      · split
        · exact hm
        · exact hk

theorem memSet_wf {m : List Host.Cell} (h : Memory.wf m = true) (k : Nat) (b : Byte) : Memory.wf (memSet m k b) = true := by
  induction m with
  | nil => by_cases h : b = unwritten <;> simp [memSet, Memory.wf, h]
  | cons c m ih =>
    obtain ⟨j, c⟩ := c
    obtain ⟨h1, h2, h3⟩ := (memory_wf_cons j c m).mp h
    unfold memSet
    split
    · next hj => exact (memory_wf_cons _ _ _).mpr ⟨h1, memSet_above h2 h3 hj, ih h3⟩
    · split
      · next hk =>
        subst hk
        split
        · exact h3
        · next hb => exact (memory_wf_cons _ _ _).mpr ⟨hb, h2, h3⟩
      · split
        · exact h
        · next hb => exact (memory_wf_cons _ _ _).mpr ⟨hb, by simp only [memAbove]; omega, h⟩

theorem memSets_wf {m : List Host.Cell} (h : Memory.wf m = true) (k : Nat) (l : List Byte) : Memory.wf (memSets m k l) = true := by
  induction l generalizing m k with
  | nil => exact h
  | cons b l ih => exact ih (memSet_wf h k b) (k + 1)

theorem filter_above {k : Nat} {m : List Host.Cell} (p : Host.Cell → Bool) (h : memAbove k m) (hw : Memory.wf m = true) :
    memAbove k (m.filter p) := by
  induction m with
  | nil => trivial
  | cons c m ih =>
    obtain ⟨j, c⟩ := c
    obtain ⟨-, h2, h3⟩ := (memory_wf_cons j c m).mp hw
    rw [List.filter_cons]
    split
    · exact h
    · exact ih (memAbove_le h2 (Nat.le_of_lt h)) h3

theorem filter_wf {m : List Host.Cell} (p : Host.Cell → Bool) (h : Memory.wf m = true) : Memory.wf (m.filter p) = true := by
  induction m with
  | nil => rfl
  | cons c m ih =>
    obtain ⟨j, c⟩ := c
    obtain ⟨h1, h2, h3⟩ := (memory_wf_cons j c m).mp h
    rw [List.filter_cons]
    split
    · exact (memory_wf_cons _ _ _).mpr ⟨h1, filter_above p h2 h3, ih h3⟩
    · exact ih h3

theorem memClear_wf {m : List Host.Cell} (h : Memory.wf m = true) (k n : Nat) : Memory.wf (memClear m k n) = true :=
  filter_wf _ h

/-! ### Reads -/

theorem memGet_above {k j : Nat} {m : List Host.Cell} (h : memAbove k m) (hj : j ≤ k) : memGet m j = unwritten := by
  cases m with
  | nil => rfl
  | cons c m =>
    obtain ⟨i, c⟩ := c
    simp only [memAbove] at h
    unfold memGet
    rw [if_neg (by omega), if_neg (by omega)]

/-- A read after a write of one byte. -/
theorem memGet_memSet {m : List Host.Cell} (h : Memory.wf m = true) (k j : Nat) (b : Byte) :
    memGet (memSet m k b) j = if j = k then b else memGet m j := by
  induction m with
  | nil =>
    by_cases hb : b = unwritten
    · simp [memSet, memGet, hb]
    · by_cases hj : j = k
      · subst hj; simp [memSet, memGet, hb]
      · have hk : ¬ k = j := fun e => hj e.symm
        by_cases hlt : k < j <;> simp [memSet, memGet, hb, hj, hk, hlt]
  | cons c m ih =>
    obtain ⟨i, c⟩ := c
    obtain ⟨h1, h2, h3⟩ := (memory_wf_cons i c m).mp h
    unfold memSet
    by_cases hik : i < k
    · rw [if_pos hik]
      by_cases hij : i < j
      · simp only [memGet, if_pos hij, ih h3]
      · have hjk : ¬ j = k := by omega
        simp only [memGet, if_neg hij, if_neg hjk]
    · rw [if_neg hik]
      by_cases hk : i = k
      · subst hk
        rw [if_pos rfl]
        by_cases hb : b = unwritten
        · rw [if_pos hb]
          by_cases hij : j = i
          · subst hij
            rw [if_pos rfl, hb]
            exact memGet_above h2 (Nat.le_refl _)
          · rw [if_neg hij]
            by_cases hlt : i < j
            · simp only [memGet, if_pos hlt]
            · have : ¬ i = j := fun e => hij e.symm
              simp only [memGet, if_neg hlt, if_neg this]
              exact memGet_above h2 (by omega)
        · rw [if_neg hb]
          by_cases hij : j = i
          · subst hij; simp [memGet]
          · have : ¬ i = j := fun e => hij e.symm
            by_cases hlt : i < j <;> simp [memGet, hij, this, hlt]
      · rw [if_neg hk]
        by_cases hb : b = unwritten
        · rw [if_pos hb]
          by_cases hj : j = k
          · subst hj
            simp [memGet, hik, hk, hb]
          · rw [if_neg hj]
        · rw [if_neg hb]
          by_cases hj : j = k
          · subst hj; simp [memGet]
          · have hkj : ¬ k = j := fun e => hj e.symm
            by_cases hlt : k < j
            · rw [if_neg hj]; conv_lhs => unfold memGet
              rw [if_pos hlt]
            · have h4 : ¬ i < j := by omega
              have h5 : ¬ i = j := by omega
              simp only [memGet, if_neg hlt, if_neg hkj, if_neg hj, if_neg h4, if_neg h5]

/-- A read after a write of successive bytes. -/
theorem memGet_memSets {m : List Host.Cell} (h : Memory.wf m = true) (k j : Nat) (l : List Byte) :
    memGet (memSets m k l) j = if k ≤ j ∧ j < k + l.length then l.getD (j - k) 0 else memGet m j := by
  induction l generalizing m k with
  | nil => simp [memSets]
  | cons b l ih =>
    simp only [memSets]
    rw [ih (memSet_wf h k b), memGet_memSet h]
    by_cases h1 : k + 1 ≤ j ∧ j < k + 1 + l.length
    · have h2 : k ≤ j ∧ j < k + (b :: l).length := by simp; omega
      rw [if_pos h1, if_pos h2]
      have h3 : j - k = (j - (k + 1)) + 1 := by omega
      rw [h3]; rfl
    · rw [if_neg h1]
      by_cases h2 : j = k
      · subst h2
        rw [if_pos rfl, if_pos (by simp)]
        simp
      · rw [if_neg h2, if_neg (by simp; omega)]

/-- A read after bytes have been cleared. -/
theorem memGet_filter {m : List Host.Cell} (h : Memory.wf m = true) (p : Host.Cell → Bool) (q : Nat → Bool)
    (hp : ∀ c, p c = q c.1) (j : Nat) : memGet (m.filter p) j = if q j then memGet m j else unwritten := by
  induction m with
  | nil => simp [memGet]
  | cons c m ih =>
    obtain ⟨i, c⟩ := c
    obtain ⟨-, h2, h3⟩ := (memory_wf_cons i c m).mp h
    rw [List.filter_cons, hp]
    by_cases hq : q i = true
    · rw [if_pos hq]
      by_cases hij : i < j
      · simp only [memGet, if_pos hij, ih h3]
      · by_cases he : i = j
        · subst he; simp [memGet, hq]
        · simp [memGet, hij, he]
    · rw [if_neg hq, ih h3]
      by_cases hij : i < j
      · simp only [memGet, if_pos hij]
      · by_cases he : i = j
        · subst he; simp [hq]
        · have : memGet m j = unwritten := memGet_above h2 (by omega)
          simp [memGet, hij, he, this]

theorem memGet_memClear {m : List Host.Cell} (h : Memory.wf m = true) (k n j : Nat) :
    memGet (memClear m k n) j = if k ≤ j ∧ j < k + n then unwritten else memGet m j := by
  unfold memClear
  rw [memGet_filter h _ (fun i => !(decide (k ≤ i) && decide (i < k + n))) (fun _ => rfl)]
  by_cases hj : k ≤ j ∧ j < k + n
  · simp [hj]
  · rw [if_neg hj, if_pos]
    simp only [Bool.not_eq_true', Bool.and_eq_false_iff, decide_eq_false_iff_not]
    omega

end Sys2Proof.Machine
end

