-- ==== Sys2Proof/Laws/Bytes.lean ====
section
/-! SUPPORT. Bytes and their keys: lengths of encodings, and that no two bytes of the areas share a key. -/

namespace Sys2Proof.Machine

@[simp] theorem leBytes_length (n x : Nat) : (leBytes n x).length = n := by
  induction n generalizing x with
  | zero => rfl
  | succ n ih => simp [leBytes, ih]

@[simp] theorem zeros_length (n : Nat) : (zeros n).length = n := by simp [zeros]

theorem area_code_inj {a b : Area} (h : a.code = b.code) : a = b := by
  cases a <;> cases b <;> first | rfl | cases h

/-- The key of a byte whose owner, die and address are in range is their sum at fixed places. -/
theorem memKey_eq {a : Area} {owner die addr : Nat} (ho : owner < 256) (hd : die < 2) (hx : addr < 2 ^ 60) :
    memKey a owner die addr = 2 ^ 72 * a.code + 2 ^ 64 * owner + 2 ^ 60 * die + addr := by
  unfold memKey
  rw [Nat.mod_eq_of_lt (show owner < 2 ^ 8 from ho), Nat.mod_eq_of_lt hd, Nat.mod_eq_of_lt hx]

/-- A byte is among `n` bytes of an area exactly if its key is among theirs. -/
theorem memKey_mem {a a' : Area} {o d x o' d' x' n : Nat} (ho : o < 256) (hd : d < 2) (hx : x < 2 ^ 60) (ho' : o' < 256)
    (hd' : d' < 2) (hx' : x' < 2 ^ 60) (hn : x + n ≤ 2 ^ 60) :
    (memKey a o d x ≤ memKey a' o' d' x' ∧ memKey a' o' d' x' < memKey a o d x + n) ↔
      (a' = a ∧ o' = o ∧ d' = d ∧ x ≤ x' ∧ x' < x + n) := by
  rw [memKey_eq ho hd hx, memKey_eq ho' hd' hx']
  constructor
  · intro h
    have hc : a'.code = a.code := by omega
    have e := area_code_inj hc
    subst e
    refine ⟨rfl, ?_⟩
    omega
  · rintro ⟨rfl, rfl, rfl, h1, h2⟩
    omega

/-- Reading one byte is looking its key up. -/
theorem read_one (s : State) (a : Area) (owner die addr : Nat) :
    s.read a owner die addr 1 = [memGet s.mem (memKey a owner die addr)] := by
  simp [State.read, items, List.range_succ]

/-- What is read depends on the memory alone. -/
theorem read_of_mem {s t : State} (h : t.mem = s.mem) (a : Area) (owner die addr n : Nat) :
    t.read a owner die addr n = s.read a owner die addr n := by
  simp [State.read, h]

end Sys2Proof.Machine
end

