-- ==== Sys2Proof/Laws/Command.lean ====
section
/-! SUPPORT. What a VCP command that starts does: one lemma for each kind of answer, none of which needs the check order
again. -/

set_option Elab.async false

namespace Sys2Proof.Machine

/-- The context in which a command that starts runs. -/
theorem mkCtx_of_runs {spec : CmdSpec} {r : Req} {c : Caller} {s u : State} {p : List Byte} {b : Nat}
    (h : Runs spec r c s u p b) : mkCtx spec r c = ⟨c, r, p, b, none, false⟩ := by
  obtain ⟨h, -, rfl, rfl⟩ := h
  simp only [Starts, Bool.and_eq_true] at h
  have hp := h.2
  unfold mkCtx
  cases hi : isPadded spec r <;> simp_all

/-- A command that starts is its own part's result. -/
theorem runCommand_runs {spec : CmdSpec} {run : Ctx → State → Result} {r : Req} {c : Caller} {s u : State}
    {p : List Byte} {b : Nat} (h : Runs spec r c s u p b) :
    runCommand spec run r s = .next (match (run ⟨c, r, p, b, none, false⟩ u).1 with
      | some reply =>
        let reply' := if c.mtw && decide (488 < reply.body.length) then ⟨.range, 0, []⟩ else reply
        (if c.mtw && decide (488 < reply.body.length) then u else (run ⟨c, r, p, b, none, false⟩ u).2).respond r true reply'
      | none => (run ⟨c, r, p, b, none, false⟩ u).2) := by
  have hc := mkCtx_of_runs h
  obtain ⟨hs, rfl, rfl, rfl⟩ := h
  simp only [Starts, Bool.and_eq_true] at hs
  obtain ⟨⟨⟨⟨⟨⟨⟨⟨⟨h1, h2⟩, h3⟩, h4⟩, h5⟩, h6⟩, h7⟩, h8⟩, h9⟩, -⟩ := hs
  have hphase : ¬ ((s.begun r).dev.phase = .recovery ∧ recoveryOps.contains spec.op = false) := by
    have hd : (s.begun r).dev = s.dev := rfl
    rw [hd]
    rintro ⟨ha, hb⟩
    rw [ha, hb] at h4
    simp at h4
  have hstate : ¬ ((!spec.states.isEmpty && decide (actingBay spec c (ownPayload spec r c) ≤ 15) &&
      !spec.states.contains ((s.begun r).bayState (actingBay spec c (ownPayload spec r c)))) = true) := by
    intro hh
    simp only [Bool.and_eq_true, Bool.not_eq_true', decide_eq_true_eq] at hh
    have hb : (s.begun r).bayState (actingBay spec c (ownPayload spec r c)) =
      s.bayState (actingBay spec c (ownPayload spec r c)) := rfl
    rw [hb] at hh
    simp only [Bool.or_eq_true, decide_eq_true_eq] at h9
    rcases h9 with (h9 | h9) | h9
    · rw [h9] at hh; simp at hh
    · omega
    · rw [h9] at hh; simp at hh
  have hbeg : ({ s with net.stewardQueue := s.net.stewardQueue.erase r } : State) = s.begun r := rfl
  unfold runCommand
  rw [if_neg (by simpa using h1), if_neg (by simp [h2, h3]), if_neg (by simpa using h5), if_pos h6, if_pos h7, hbeg]
  unfold resume
  rw [beq_iff_eq.mp h8]
  simp only
  unfold runAccepted
  rw [hc]
  simp only
  rw [if_neg (by simpa using hphase), if_neg hstate]
  cases hr : (run ⟨c, r, ownPayload spec r c, actingBay spec c (ownPayload spec r c), none, false⟩ (s.begun r)).1 <;> simp

/-- A command that starts and is answered OK. -/
theorem runCommand_ok {spec : CmdSpec} {run : Ctx → State → Result} {r : Req} {c : Caller} {s u t : State}
    {p body : List Byte} {b : Nat} (h : Runs spec r c s u p b) (hf : Fits c body)
    (hr : run ⟨c, r, p, b, none, false⟩ u = okWith body t) :
    runCommand spec run r s = .next (t.answerOk r body) := by
  have hm : (c.mtw && decide (488 < body.length)) = false := by
    cases hc : c.mtw
    · rfl
    · have := hf hc; simp; omega
  rw [runCommand_runs h, hr]
  simp [okWith, hm, State.answerOk]

/-- A command that starts and is refused. -/
theorem runCommand_no {spec : CmdSpec} {run : Ctx → State → Result} {r : Req} {c : Caller} {s u t : State}
    {p : List Byte} {b : Nat} {st : Status} {detail : Nat} (h : Runs spec r c s u p b)
    (hr : run ⟨c, r, p, b, none, false⟩ u = fail st detail t) :
    runCommand spec run r s = .next (t.answerNo r st detail) := by
  rw [runCommand_runs h, hr]
  simp [fail, State.answerNo]

/-- A command that starts and answers later, or has answered itself. -/
theorem runCommand_later {spec : CmdSpec} {run : Ctx → State → Result} {r : Req} {c : Caller} {s u t : State}
    {p : List Byte} {b : Nat} (h : Runs spec r c s u p b)
    (hr : run ⟨c, r, p, b, none, false⟩ u = (none, t)) : runCommand spec run r s = .next t := by
  rw [runCommand_runs h, hr]

theorem fits_nil (c : Caller) : Fits c [] := by simp [Fits]

/-- The fields of a command pass when each does and the padding is zero. -/
theorem fields_pass {c : Ctx} {s : State} {l : List (Nat × Bool)} {k : Result} (hp : c.padBad = none)
    (hl : ∀ f ∈ l, f.2 = true) : c.fields s l k = k := by
  have h : firstBad l = none := by
    unfold firstBad
    simp only [Option.map_eq_none_iff, List.find?_eq_none]
    intro x hx
    simp [hl x hx]
  unfold Ctx.fields
  rw [h, hp]

/-- A table that a command can change at once is one it finds. -/
theorem tab_of_free {c : Caller} {r : Req} {p : List Byte} {b off : Nat} {s : State} {t : Tab}
    (h : TableFree s b (u16At p off) t) : (ctxOf c r p b).tab s off = some t := by
  obtain ⟨h1, h2, -⟩ := h
  simp [Ctx.tab, h1, h2, Option.filter]

theorem tab_of_there {c : Caller} {r : Req} {p : List Byte} {b off : Nat} {s : State} {t : Tab}
    (h : TableThere s b (u16At p off) t) : (ctxOf c r p b).tab s off = some t := by
  obtain ⟨h1, h2⟩ := h
  simp [Ctx.tab, h1, h2, Option.filter]

/-- A command on a table whose fields pass is its body on that table. -/
theorem onTable_pass {c : Caller} {r : Req} {p : List Byte} {b off : Nat} {s : State} {t : Tab}
    {more : Tab → List (Nat × Bool)} {k : Tab → Result} (h : (ctxOf c r p b).tab s off = some t)
    (hm : ∀ f ∈ more t, f.2 = true) : onTable (ctxOf c r p b) s off more k = k t := by
  unfold onTable
  rw [h]
  exact fields_pass rfl hm

/-- Nothing earlier waits on the table, so a command on it goes on. -/
theorem inOrder_free {c : Caller} {r : Req} {p : List Byte} {b n : Nat} {s : State} {t : Tab} {k : Result}
    (h : TableFree s b n t) : inOrder (ctxOf c r p b) s t.id (t.life == .rebuilding) k = k := by
  obtain ⟨-, h2, h3, h4⟩ := h
  simp [inOrder, h2, h3, h4]

/-- A command whose accesses may be made now is its own part. -/
theorem paced_now {reads : Bool} {run : Ctx → State → Result} {c : Ctx} {s : State} (h : AccessesNow reads run c s) :
    paced reads run c s = run c s := by
  unfold paced
  rw [if_pos (by simp [h])]

/-- A command on a table that is carried out here, or is prepared elsewhere first. -/
theorem runCommand_spanned {spec : CmdSpec} {run : Ctx → State → Result} {r : Req} {c : Caller} {s u w v : State}
    {p : List Byte} {b : Nat} {t : Tab} (h : Runs spec r c s u p b)
    (hr : run (ctxOf c r p b) u = spanned (ctxOf c r p b) w t (okWith [] v)) :
    runCommand spec run r s = .next (w.carriedOut (ctxOf c r p b) t v) := by
  unfold State.carriedOut
  by_cases hn : (w.otherNodes (t.map.entries.map MapEntry.owner)).isEmpty = true
  · rw [if_pos hn]
    exact runCommand_ok h (fits_nil c) (by rw [hr]; simp [spanned, hn])
  · rw [if_neg hn]
    refine runCommand_later h ?_
    rw [hr]
    simp [spanned, hn, okWith, State.startSpan]

end Sys2Proof.Machine
end

