-- ==== Sys2Proof/Laws/Guards.lean ====
section
/-! SUPPORT. What passes a guard: one lemma for each guard that several commands share (a list of field checks, the hand that
executes, a message of the yokes), so that no proof about a command opens it again. -/

set_option Elab.async false

namespace Sys2Proof.Machine

/-- An entry found by its key has that key. -/
theorem findKey_key {α : Type} {key : α → Nat} {l : List α} {k : Nat} {a : α} (h : findKey key l k = some a) : key a = k := by
  simpa using List.find?_some h

/-- An instant that is there and whose time has passed. The length of the time is a variable here, so that the kernel never counts
it out. -/
theorem any_due {o : Option Nat} {t d now : Nat} (h : o = some t) (h' : t + d ≤ now) : (o.any fun t => decide (t + d ≤ now)) = true := by
  subst h
  exact decide_eq_true h'

/-- No instant is there whose time has not passed. -/
theorem all_due {o : Option Nat} {d now : Nat} (h : ∀ t, o = some t → t + d ≤ now) : (o.all fun t => decide (t + d ≤ now)) = true := by
  cases o with
  | none => rfl
  | some t => exact decide_eq_true (h t rfl)

/-- Two lists of checks that pass make one that passes. -/
theorem good_append {l m : List (Nat × Bool)} (h : ∀ f ∈ l, f.2 = true) (h' : ∀ f ∈ m, f.2 = true) : ∀ f ∈ l ++ m, f.2 = true := by
  intro f hf
  exact (List.mem_append.1 hf).elim (h f) (h' f)

/-- A list of one check per item passes when each does. -/
theorem good_items {n : Nat} {f : Nat → Nat × Bool} (h : ∀ i, i < n → (f i).2 = true) : ∀ x ∈ items n f, x.2 = true := by
  intro x hx
  simp only [items, List.mem_map, List.mem_range] at hx
  obtain ⟨i, hi, rfl⟩ := hx
  exact h i hi

/-- The same for items that carry their index. -/
theorem good_items_index {α : Type} {n : Nat} {g : Nat → α} {f : α × Nat → Nat × Bool} (h : ∀ i, i < n → (f (g i, i)).2 = true) :
    ∀ x ∈ (items n g).zipIdx.map f, x.2 = true := by
  intro x hx
  simp only [List.mem_map] at hx
  obtain ⟨⟨a, i⟩, ha, rfl⟩ := hx
  rw [List.mem_zipIdx_iff_getElem?] at ha
  simp only [items, List.getElem?_map, Option.map_eq_some_iff] at ha
  obtain ⟨j, hj, rfl⟩ := ha
  obtain ⟨hi, rfl⟩ := List.getElem?_eq_some_iff.1 hj
  simp only [List.getElem_range, List.length_range] at hi ⊢
  exact h i hi

/-- A hand that can execute runs its instruction's effect, with the program counter moved to it. -/
theorem onHand_can {s : State} {crew hand pc len b : Nat} {j : Job} {h : Hand} (c : CanExecute s crew hand pc len b j h)
    (f : Nat → Job → Hand → State → State) : s.onHand crew hand pc len f = .next (f b j h (s.at crew hand pc)) := by
  obtain ⟨h1, h2, h3, h4, h5, h6, h7, h8, h9, h10⟩ := c
  have h11 : ¬ 31 < crew := by omega
  have h12 : ¬ 15 < hand := by omega
  simp [State.onHand, h11, h12, h3, h4, h5, h6, h7, h8, h9, h10, State.at]

/-- What a yoke asks of a message, as one test: whether it is for this package. -/
theorem forUs_bool {s : State} {msg : List Byte} :
    (s.isSelf (destOf msg) || !s.net.muster.roster.any fun x => x.number == destOf msg) = decide (ForUs s msg) := by
  rw [Bool.eq_iff_iff, decide_eq_true_iff, Bool.or_eq_true, Bool.not_eq_true']

/-- A message of a yoke that ends here is acted on. -/
theorem onYoke_us {s u : State} {link : Nat} {msg : List Byte} (h : Carries s link msg u) (f : State → State) (hf : ForUs s msg) :
    s.onYoke link msg f = .next (f u) := by
  obtain ⟨h1, h2, h3, h4, h5⟩ := h
  subst h5
  have hb := (forUs_bool (s := s) (msg := msg)).trans (decide_eq_true hf)
  unfold destOf at hb
  unfold State.onYoke State.takenIn
  rw [if_neg (by simp; omega)]
  dsimp only
  rw [if_pos (by simp [h3, h4]), hb, decide_eq_true hf]
  cases isRequest msg <;> rfl

/-- A message of a yoke for another package goes on. -/
theorem onYoke_them {s u : State} {link : Nat} {msg : List Byte} (h : Carries s link msg u) (f : State → State) (hf : ¬ ForUs s msg) :
    s.onYoke link msg f = .next (u.relayOn link (destOf msg) msg) := by
  obtain ⟨h1, h2, h3, h4, h5⟩ := h
  subst h5
  have hb := (forUs_bool (s := s) (msg := msg)).trans (decide_eq_false hf)
  unfold destOf at hb
  unfold State.onYoke State.takenIn
  rw [if_neg (by simp; omega)]
  dsimp only
  rw [if_pos (by simp [h3, h4]), hb, decide_eq_false hf, if_neg Bool.false_ne_true, Bool.and_false]
  rfl

end Sys2Proof.Machine
end

