-- ==== Sys2Proof/Laws/Keeps.lean ====
section
/-! SUPPORT. What every operation leaves as it is: the queue of waiting commands; and that it keeps a whole state whole.
The lemmas of this file compose such operations; the files beside it hold one for each operation. -/

set_option Elab.async false

namespace Sys2Proof.Machine

/-- A state reached from another by the block's own operations; where `km` is true, by operations that leave every byte of
memory as it is. -/
structure Keeps (km : Bool) (s t : State) : Prop where
  pending : t.pending = s.pending
  intact : Intact s → Intact t
  mem : km = true → t.mem = s.mem

/-- The same of a state that may be there. -/
structure KeepsOpt (km : Bool) (s : State) (o : Option State) : Prop where
  some_keeps : ∀ t, o = some t → Keeps km s t

/-- The same of a state that comes with something else, if it is there. -/
structure KeepsOpt2 {α : Type} (km : Bool) (s : State) (o : Option (α × State)) : Prop where
  some_keeps : ∀ a t, o = some (a, t) → Keeps km s t

/-- The same of an outcome that is a next state. -/
structure KeepsOut (km : Bool) (s : State) (o : Out) : Prop where
  next_keeps : ∀ t, o = .next t → Keeps km s t

variable {km : Bool}

theorem Keeps.refl (s : State) : Keeps km s s := ⟨rfl, id, fun _ => rfl⟩

theorem Keeps.trans {s t u : State} (h : Keeps km s t) (k : Keeps km t u) : Keeps km s u :=
  ⟨k.pending.trans h.pending, fun x => k.intact (h.intact x), fun x => (k.mem x).trans (h.mem x)⟩

theorem Keeps.ite {c : Prop} [Decidable c] {s a b : State} (ha : Keeps km s a) (hb : Keeps km s b) : Keeps km s (if c then a else b) := by
  split <;> assumption

theorem Keeps.ite_snd {α : Type} {c : Prop} [Decidable c] {s : State} {a b : α × State} (ha : Keeps km s a.2) (hb : Keeps km s b.2) :
    Keeps km s (if c then a else b).2 := by
  split <;> assumption

theorem Keeps.foldl {α : Type} {s : State} {f : State → α → State} (l : List α) {t : State}
    (hf : ∀ t x, Keeps km s t → Keeps km s (f t x)) (ht : Keeps km s t) : Keeps km s (l.foldl f t) := by
  induction l generalizing t with
  | nil => exact ht
  | cons a l ih => exact ih (hf t a ht)

theorem Keeps.foldl_snd {α β : Type} {s : State} {f : β × State → α → β × State} (l : List α) {t : β × State}
    (hf : ∀ t x, Keeps km s t.2 → Keeps km s (f t x).2) (ht : Keeps km s t.2) : Keeps km s (l.foldl f t).2 := by
  induction l generalizing t with
  | nil => exact ht
  | cons a l ih => exact ih (hf t a ht)

theorem Keeps.pair {α : Type} {s t : State} {a : α} (h : Keeps km s t) : Keeps km s (a, t).2 := h

theorem Keeps.pair2 {α β : Type} {s t : State} {a : α} {b : β} (h : Keeps km s t) : Keeps km s (a, b, t).2.2 := h

theorem Keeps.of_snd {α : Type} {s t : State} {p : α × State} {a : α} (h : Keeps km s p.2) (e : p = (a, t)) : Keeps km s t := by
  subst e; exact h

theorem Keeps.of_snd2 {α β : Type} {s t : State} {p : α × β × State} {a : α} {b : β} (h : Keeps km s p.2.2) (e : p = (a, b, t)) :
    Keeps km s t := by
  subst e; exact h

theorem Keeps.of_opt {s t : State} {o : Option State} (h : KeepsOpt km s o) (e : o = some t) : Keeps km s t := h.some_keeps t e

theorem Keeps.of_opt2 {α : Type} {s t : State} {a : α} {o : Option (α × State)} (h : KeepsOpt2 km s o) (e : o = some (a, t)) :
    Keeps km s t := h.some_keeps a t e

theorem Keeps.getD {s t : State} {o : Option State} (h : KeepsOpt km s o) (k : Keeps km s t) : Keeps km s (o.getD t) := by
  cases o with
  | none => exact k
  | some u => exact h.some_keeps u rfl

theorem KeepsOpt.none (s : State) : KeepsOpt km s none := ⟨fun _ h => by cases h⟩

theorem KeepsOpt.some {s t : State} (h : Keeps km s t) : KeepsOpt km s (some t) := ⟨fun _ e => by cases e; exact h⟩

theorem KeepsOpt.ite {c : Prop} [Decidable c] {s : State} {a b : Option State} (ha : KeepsOpt km s a) (hb : KeepsOpt km s b) :
    KeepsOpt km s (if c then a else b) := by
  split <;> assumption

theorem KeepsOpt2.none {α : Type} (s : State) : KeepsOpt2 km s (none : Option (α × State)) := ⟨fun _ _ h => by cases h⟩

theorem KeepsOpt2.some {α : Type} {s t : State} {a : α} (h : Keeps km s t) : KeepsOpt2 km s (some (a, t)) := ⟨fun _ _ e => by
  cases e; exact h⟩

theorem KeepsOpt2.ite {α : Type} {c : Prop} [Decidable c] {s : State} {a b : Option (α × State)} (ha : KeepsOpt2 km s a)
    (hb : KeepsOpt2 km s b) : KeepsOpt2 km s (if c then a else b) := by
  split <;> assumption

theorem KeepsOpt.foldl {α : Type} {s : State} {f : Option State → α → Option State} (l : List α) {o : Option State}
    (hf : ∀ o x, KeepsOpt km s o → KeepsOpt km s (f o x)) (ho : KeepsOpt km s o) : KeepsOpt km s (l.foldl f o) := by
  induction l generalizing o with
  | nil => exact ho
  | cons a l ih => exact ih (hf o a ho)

theorem KeepsOpt2.foldl {α β : Type} {s : State} {f : Option (β × State) → α → Option (β × State)} (l : List α)
    {o : Option (β × State)} (hf : ∀ o x, KeepsOpt2 km s o → KeepsOpt2 km s (f o x)) (ho : KeepsOpt2 km s o) : KeepsOpt2 km s (l.foldl f o) := by
  induction l generalizing o with
  | nil => exact ho
  | cons a l ih => exact ih (hf o a ho)

theorem Keeps.of_some {s t : State} (h : KeepsOpt km s (some t)) : Keeps km s t := h.some_keeps t rfl

theorem Keeps.of_some2 {α : Type} {s t : State} {a : α} (h : KeepsOpt2 km s (some (a, t))) : Keeps km s t := h.some_keeps a t rfl

theorem KeepsOut.next {s t : State} (h : Keeps km s t) : KeepsOut km s (.next t) := ⟨fun _ e => by cases e; exact h⟩

theorem KeepsOut.fault (s : State) (r : Fault) : KeepsOut km s (.fault r) := ⟨fun _ h => by cases h⟩

theorem KeepsOut.refused (s : State) (r : Refusal) : KeepsOut km s (.refused r) := ⟨fun _ h => by cases h⟩

theorem KeepsOut.ite {c : Prop} [Decidable c] {s : State} {a b : Out} (ha : KeepsOut km s a) (hb : KeepsOut km s b) :
    KeepsOut km s (if c then a else b) := by
  split <;> assumption

/-! ### Parts of the state set -/

theorem Keeps.setWithMem {s t u : State} (h : Keeps false s t) (hp : u.pending = t.pending)
    (hm : Memory.wf t.mem = true → Memory.wf u.mem = true) (hb : u.bays.length = t.bays.length)
    (hc : u.dp.crews.length = t.dp.crews.length) (ht : u.dp.threshers.length = t.dp.threshers.length)
    (hs : u.memsys.silos.length = t.memsys.silos.length) (hl : u.memsys.lofts.length = t.memsys.lofts.length)
    (hn : u.net.ports.length = t.net.ports.length) (hf : u.fab.links.length = t.fab.links.length)
    (hd : u.lan.domains.length = t.lan.domains.length) : Keeps false s u :=
  ⟨hp.trans h.pending, fun x => by
    obtain ⟨a, b, c, d, e, f, g, i, j⟩ := h.intact x
    exact ⟨hm a, hb.trans b, hc.trans c, ht.trans d, hs.trans e, hl.trans f, hn.trans g, hf.trans i, hd.trans j⟩, nofun⟩

theorem Keeps.set {s t u : State} (h : Keeps km s t) (hp : u.pending = t.pending) (hm : u.mem = t.mem)
    (hb : u.bays.length = t.bays.length)
    (hc : u.dp.crews.length = t.dp.crews.length) (ht : u.dp.threshers.length = t.dp.threshers.length)
    (hs : u.memsys.silos.length = t.memsys.silos.length) (hl : u.memsys.lofts.length = t.memsys.lofts.length)
    (hn : u.net.ports.length = t.net.ports.length) (hf : u.fab.links.length = t.fab.links.length)
    (hd : u.lan.domains.length = t.lan.domains.length) : Keeps km s u :=
  ⟨hp.trans h.pending, fun x => by
    obtain ⟨a, b, c, d, e, f, g, i, j⟩ := h.intact x
    exact ⟨hm ▸ a, hb.trans b, hc.trans c, ht.trans d, hs.trans e, hl.trans f, hn.trans g, hf.trans i, hd.trans j⟩,
    fun x => hm.trans (h.mem x)⟩

theorem Keeps.setOut {s t : State} (h : Keeps km s t) (x : List Output) : Keeps km s { t with out := x } :=
  h.set rfl rfl rfl rfl rfl rfl rfl rfl rfl rfl

theorem Keeps.setFree {s t : State} (h : Keeps km s t) (x : Nat) : Keeps km s { t with freeCount := x } :=
  h.set rfl rfl rfl rfl rfl rfl rfl rfl rfl rfl

theorem Keeps.setPoison {s t : State} (h : Keeps km s t) (x : List Nat) : Keeps km s { t with poison := x } :=
  h.set rfl rfl rfl rfl rfl rfl rfl rfl rfl rfl

theorem Keeps.setMem {s t : State} (h : Keeps false s t) (x : List Host.Cell)
    (hx : Memory.wf t.mem = true → Memory.wf x = true) : Keeps false s { t with mem := x } :=
  h.setWithMem rfl hx rfl rfl rfl rfl rfl rfl rfl rfl

theorem Keeps.setDev {s t : State} (h : Keeps km s t) (x : Dev) : Keeps km s { t with dev := x } :=
  h.set rfl rfl rfl rfl rfl rfl rfl rfl rfl rfl

theorem Keeps.setBoard {s t : State} (h : Keeps km s t) (x : Board) : Keeps km s { t with board := x } :=
  h.set rfl rfl rfl rfl rfl rfl rfl rfl rfl rfl

theorem Keeps.setLan {s t : State} (h : Keeps km s t) (x : Lantern) (hx : x.domains.length = t.lan.domains.length) :
    Keeps km s { t with lan := x } :=
  h.set rfl rfl rfl rfl rfl rfl rfl rfl rfl hx

theorem Keeps.setFlash {s t : State} (h : Keeps km s t) (x : Flash) : Keeps km s { t with flash := x } :=
  h.set rfl rfl rfl rfl rfl rfl rfl rfl rfl rfl

theorem Keeps.setMgmt {s t : State} (h : Keeps km s t) (x : Mgmt) : Keeps km s { t with mgmt := x } :=
  h.set rfl rfl rfl rfl rfl rfl rfl rfl rfl rfl

theorem Keeps.setBays {s t : State} (h : Keeps km s t) (x : List Bay) (hx : x.length = t.bays.length) :
    Keeps km s { t with bays := x } :=
  h.set rfl rfl hx rfl rfl rfl rfl rfl rfl rfl

theorem Keeps.setMemsys {s t : State} (h : Keeps km s t) (x : Memsys) (hx : x.silos.length = t.memsys.silos.length)
    (hy : x.lofts.length = t.memsys.lofts.length) : Keeps km s { t with memsys := x } :=
  h.set rfl rfl rfl rfl rfl hx hy rfl rfl rfl

theorem Keeps.setNet {s t : State} (h : Keeps km s t) (x : Net) (hx : x.ports.length = t.net.ports.length) :
    Keeps km s { t with net := x } :=
  h.set rfl rfl rfl rfl rfl rfl rfl hx rfl rfl

theorem Keeps.setTth {s t : State} (h : Keeps km s t) (x : Tether) : Keeps km s { t with tth := x } :=
  h.set rfl rfl rfl rfl rfl rfl rfl rfl rfl rfl

theorem Keeps.setFab {s t : State} (h : Keeps km s t) (x : Fabric) (hx : x.links.length = t.fab.links.length) :
    Keeps km s { t with fab := x } :=
  h.set rfl rfl rfl rfl rfl rfl rfl rfl hx rfl

theorem Keeps.setDp {s t : State} (h : Keeps km s t) (x : Datapath) (hx : x.crews.length = t.dp.crews.length)
    (hy : x.threshers.length = t.dp.threshers.length) : Keeps km s { t with dp := x } :=
  h.set rfl rfl rfl hx hy rfl rfl rfl rfl rfl

end Sys2Proof.Machine
end

