-- ==== Sys2Proof/Laws/KeepsOps.lean ====
section
/-! SUPPORT. What each operation keeps: the shared operations, events, commands, sessions and the directory. -/

set_option maxRecDepth 4000
set_option Elab.async false
set_option linter.unusedSimpArgs false

namespace Sys2Proof.Machine

variable {km : Bool}

theorem State.write_keeps {s₀ s : State} {x1 x2 x3 x4 x5} (h : Keeps false s₀ s) : Keeps false s₀ (State.write s x1 x2 x3 x4 x5) := by
  unfold State.write
  try lift_lets
  repeat' first | (with_reducible refine Keeps.setMem (by assumption) _ ?_) | exact fun hm => memSets_wf hm _ _

theorem State.heal_keeps {s₀ s : State} {x1 x2 x3 x4 x5} (h : Keeps km s₀ s) : Keeps km s₀ (State.heal s x1 x2 x3 x4 x5) := by
  unfold State.heal
  try lift_lets
  repeat' first
    | assumption
    | (with_reducible refine Keeps.setMemsys (by assumption) _ ?_ ?_)
    | (with_reducible refine Keeps.setPoison (by assumption) _)
    | (refine Keeps.set (t := ?tt) ?hh ?_ ?_ ?_ ?_ ?_ ?_ ?_ ?_ ?_ ?_; (case hh => exact (by assumption)); all_goals first | with_reducible rfl | (intro hm; with_reducible assumption))
    | with_reducible rfl
    | simp only [List.length_map, List.length_modify, List.length_set, List.length_mapIdx]

theorem State.markChaff_keeps {s₀ s : State} {x1 x2 x3 x4 x5} (h : Keeps km s₀ s) : Keeps km s₀ (State.markChaff s x1 x2 x3 x4 x5) := by
  unfold State.markChaff
  try lift_lets
  repeat' first
    | assumption
    | (with_reducible refine Keeps.setMemsys (by assumption) _ ?_ ?_)
    | with_reducible rfl
    | simp only [List.length_map, List.length_modify, List.length_set, List.length_mapIdx]
    | dsimp only

theorem State.addPoison_keeps {s₀ s : State} {x1 x2 x3 x4} (h : Keeps km s₀ s) : Keeps km s₀ (State.addPoison s x1 x2 x3 x4) := by
  unfold State.addPoison
  try lift_lets
  repeat' (with_reducible refine Keeps.setPoison (by assumption) _)

theorem State.zero_keeps {s₀ s : State} {x1 x2 x3 x4 x5} (h : Keeps false s₀ s) : Keeps false s₀ (State.zero s x1 x2 x3 x4 x5) := by
  unfold State.zero
  try lift_lets
  repeat' first
    | with_reducible apply State.heal_keeps | (with_reducible refine Keeps.setMem (by assumption) _ ?_)
    | exact fun hm => memClear_wf hm _ _

theorem State.emit_keeps {s₀ s : State} {x1} (h : Keeps km s₀ s) : Keeps km s₀ (State.emit s x1) := by
  unfold State.emit
  try lift_lets
  repeat' (with_reducible refine Keeps.setOut (by assumption) _)

theorem State.emits_keeps {s₀ s : State} {x1} (h : Keeps km s₀ s) : Keeps km s₀ (State.emits s x1) := by
  unfold State.emits
  try lift_lets
  repeat' (with_reducible refine Keeps.setOut (by assumption) _)

theorem State.fresh_keeps {s₀ s : State} (h : Keeps km s₀ s) : Keeps km s₀ (State.fresh s).2 := by
  unfold State.fresh
  try lift_lets
  repeat' (with_reducible refine Keeps.setFree (by assumption) _)

theorem State.count_keeps {s₀ s : State} {x1 x2 x3} (h : Keeps km s₀ s) : Keeps km s₀ (State.count s x1 x2 x3) := by
  unfold State.count
  try lift_lets
  repeat' first
    | assumption | (intro x; subst x) | with_reducible apply Keeps.ite
    | (with_reducible refine Keeps.setMgmt (by assumption) _)

theorem State.modBay_keeps {s₀ s : State} {x1 x2} (h : Keeps km s₀ s) : Keeps km s₀ (State.modBay s x1 x2) := by
  unfold State.modBay
  try lift_lets
  repeat' first
    | (with_reducible refine Keeps.setBays (by assumption) _ ?_)
    | simp only [List.length_map, List.length_modify, List.length_set]

theorem State.modLife_keeps {s₀ s : State} {x1 x2} (h : Keeps km s₀ s) : Keeps km s₀ (State.modLife s x1 x2) := by
  unfold State.modLife
  try lift_lets
  repeat' first | assumption | with_reducible apply State.modBay_keeps

theorem State.modCounters_keeps {s₀ s : State} {x1 x2} (h : Keeps km s₀ s) : Keeps km s₀ (State.modCounters s x1 x2) := by
  unfold State.modCounters
  try lift_lets
  repeat' first | assumption | with_reducible apply State.modBay_keeps

theorem State.modDomain_keeps {s₀ s : State} {x1 x2} (h : Keeps km s₀ s) : Keeps km s₀ (State.modDomain s x1 x2) := by
  unfold State.modDomain
  try lift_lets
  repeat' first
    | (intro x; subst x) | (with_reducible refine Keeps.setLan (by assumption) _ ?_)
    | simp only [List.length_map, List.length_modify, List.length_set]

theorem State.withdrawVotes_keeps {s₀ s : State} {x1} (h : Keeps km s₀ s) : Keeps km s₀ (State.withdrawVotes s x1) := by
  unfold State.withdrawVotes
  try lift_lets
  repeat' first
    | (intro x; subst x) | (with_reducible refine Keeps.setLan (by assumption) _ ?_)
    | simp only [List.length_map, List.length_modify, List.length_set]

theorem State.quadVotes_keeps {s₀ s : State} (h : Keeps km s₀ s) : Keeps km s₀ (State.quadVotes s) := by
  unfold State.quadVotes
  try lift_lets
  repeat' first
    | assumption | with_reducible apply State.modDomain_keeps | (with_reducible refine Keeps.foldl _ (fun t x ht => ?_) ?_)

theorem State.putTable_keeps {s₀ s : State} {x1 x2} (h : Keeps km s₀ s) : Keeps km s₀ (State.putTable s x1 x2) := by
  unfold State.putTable
  try lift_lets
  repeat' first | assumption | with_reducible apply State.modBay_keeps

theorem State.modTable_keeps {s₀ s : State} {x1 x2 x3} (h : Keeps km s₀ s) : Keeps km s₀ (State.modTable s x1 x2 x3) := by
  unfold State.modTable
  try lift_lets
  repeat' first | assumption | with_reducible apply State.modBay_keeps

theorem State.putSession_keeps {s₀ s : State} {x1} (h : Keeps km s₀ s) : Keeps km s₀ (State.putSession s x1) := by
  unfold State.putSession
  try lift_lets
  repeat' first | (intro x; subst x) | (with_reducible refine Keeps.setNet (by assumption) _ ?_) | with_reducible rfl

theorem State.modSession_keeps {s₀ s : State} {x1 x2} (h : Keeps km s₀ s) : Keeps km s₀ (State.modSession s x1 x2) := by
  unfold State.modSession
  try lift_lets
  repeat' first | (intro x; subst x) | (with_reducible refine Keeps.setNet (by assumption) _ ?_) | with_reducible rfl

theorem State.modQp_keeps {s₀ s : State} {x1 x2} (h : Keeps km s₀ s) : Keeps km s₀ (State.modQp s x1 x2) := by
  unfold State.modQp
  try lift_lets
  repeat' first | (intro x; subst x) | (with_reducible refine Keeps.setNet (by assumption) _ ?_) | with_reducible rfl

theorem State.modBox_keeps {s₀ s : State} {x1 x2} (h : Keeps km s₀ s) : Keeps km s₀ (State.modBox s x1 x2) := by
  unfold State.modBox
  try lift_lets
  repeat' first | (intro x; subst x) | (with_reducible refine Keeps.setTth (by assumption) _)

theorem State.console_keeps {s₀ s : State} {x1} (h : Keeps km s₀ s) : Keeps km s₀ (State.console s x1) := by
  unfold State.console
  try lift_lets
  repeat' first
    | assumption | (intro x; subst x) | with_reducible apply State.count_keeps | with_reducible apply Keeps.ite
    | (with_reducible refine Keeps.setMgmt (by assumption) _)

theorem State.logRecord_keeps {s₀ s : State} {t ev f} (h : Keeps km s₀ s) : Keeps km s₀ (State.logRecord s t ev f) := by
  unfold State.logRecord
  extract_lets r l m s1 g s2
  have h1 : Keeps km s₀ s1 := h.set rfl rfl rfl rfl rfl rfl rfl rfl rfl rfl
  clear_value s1
  have h2 : Keeps km s₀ s2 := Keeps.ite (Keeps.setFlash h1 _) h1
  clear_value s2
  exact Keeps.ite (State.console_keeps h2) h2

theorem State.logRecords_keeps {s₀ s : State} {x1 x2 x3 x4} (h : Keeps km s₀ s) : Keeps km s₀ (State.logRecords s x1 x2 x3 x4) := by
  unfold State.logRecords
  try lift_lets
  repeat' first
    | assumption
    | (intro x; (have hx : Keeps km s₀ x := by (subst x; repeat' first | assumption | with_reducible apply State.logRecord_keeps)); clear_value x)
    | with_reducible apply State.logRecord_keeps | (with_reducible refine Keeps.foldl _ (fun t x ht => ?_) ?_) | split

theorem State.closeWindow_keeps {s₀ s : State} {x1} (h : Keeps km s₀ s) : Keeps km s₀ (State.closeWindow s x1) := by
  unfold State.closeWindow
  try lift_lets
  repeat' first
    | assumption
    | (intro x; (have hx : Keeps km s₀ x := by (subst x; repeat' (with_reducible refine Keeps.setMgmt (by assumption) _))); clear_value x)
    | (intro x; subst x) | with_reducible apply State.logRecord_keeps | with_reducible apply Keeps.ite

theorem State.writeEvent_keeps {s₀ s : State} {x1 x2 x3 x4} (h : Keeps km s₀ s) : Keeps km s₀ (State.writeEvent s x1 x2 x3 x4) := by
  unfold State.writeEvent
  try lift_lets
  repeat' first
    | assumption
    | (intro x; (have hx : Keeps km s₀ x := by (subst x; repeat' first | assumption | with_reducible apply State.closeWindow_keeps | with_reducible apply Keeps.ite | (with_reducible refine Keeps.setMgmt (by assumption) _) | split)); clear_value x)
    | (intro x; subst x) | with_reducible apply State.logRecords_keeps | with_reducible apply Keeps.ite | split

theorem State.raiseMore_keeps {s₀ s : State} {x1 x2} (h : Keeps km s₀ s) : Keeps km s₀ (State.raiseMore s x1 x2) := by
  unfold State.raiseMore
  try lift_lets
  repeat' first
    | assumption | (intro x; subst x) | with_reducible apply State.writeEvent_keeps | with_reducible apply Keeps.ite
    | (with_reducible refine Keeps.setLan (by assumption) _ ?_) | with_reducible rfl

theorem State.flushBuffered_keeps {s₀ s : State} (h : Keeps km s₀ s) : Keeps km s₀ (State.flushBuffered s) := by
  unfold State.flushBuffered
  try lift_lets
  repeat' first
    | assumption
    | (intro x; (have hx : Keeps km s₀ x := by (subst x; repeat' first | assumption | with_reducible apply State.writeEvent_keeps | (with_reducible refine Keeps.foldl _ (fun t x ht => ?_) ?_) | (with_reducible refine Keeps.setLan (by assumption) _ ?_) | with_reducible rfl)); clear_value x)
    | (intro x; subst x) | with_reducible apply State.raiseMore_keeps | with_reducible apply Keeps.ite

theorem State.raise_keeps {s₀ s : State} {x1 x2 x3 x4 x5} (h : Keeps km s₀ s) : Keeps km s₀ (State.raise s x1 x2 x3 x4 x5) := by
  unfold State.raise
  repeat' first | assumption | with_reducible apply State.raiseMore_keeps

theorem State.tthEvent_keeps {s₀ s : State} {x1} (h : Keeps km s₀ s) : Keeps km s₀ (State.tthEvent s x1) := by
  unfold State.tthEvent
  try lift_lets
  repeat' first
    | assumption
    | (intro x; (have hx : Keeps km s₀ x := by (subst x; repeat' (with_reducible refine Keeps.setTth (by assumption) _))); clear_value x)
    | (intro x; subst x) | with_reducible apply State.emit_keeps | with_reducible apply Keeps.ite

theorem State.tthCount_keeps {s₀ s : State} {x1} (h : Keeps km s₀ s) : Keeps km s₀ (State.tthCount s x1) := by
  unfold State.tthCount
  try lift_lets
  repeat' first
    | (intro x; subst x) | with_reducible apply State.count_keeps | (with_reducible refine Keeps.setTth (by assumption) _)

theorem State.drainOpen_keeps {s₀ s : State} (h : Keeps km s₀ s) : Keeps km s₀ (State.drainOpen s) := by
  unfold State.drainOpen
  try lift_lets
  repeat' first
    | with_reducible apply State.quadVotes_keeps | (with_reducible refine Keeps.setBays (by assumption) _ ?_)
    | simp only [List.length_map, List.length_modify, List.length_set, List.length_mapIdx]

theorem State.goFatal_keeps {s₀ s : State} (h : Keeps km s₀ s) : Keeps km s₀ (State.goFatal s) := by
  unfold State.goFatal
  try lift_lets
  repeat' first
    | (intro x; subst x) | with_reducible apply State.drainOpen_keeps | (with_reducible refine Keeps.setDev (by assumption) _)

theorem State.modSub_keeps {s₀ s : State} {x1 x2 x3} (h : Keeps km s₀ s) : Keeps km s₀ (State.modSub s x1 x2 x3) := by
  unfold State.modSub
  try lift_lets
  repeat' first
    | (intro x; subst x) | (with_reducible refine Keeps.setNet (by assumption) _ ?_)
    | simp only [List.length_map, List.length_modify, List.length_set]

theorem State.modLink_keeps {s₀ s : State} {x1 x2} (h : Keeps km s₀ s) : Keeps km s₀ (State.modLink s x1 x2) := by
  unfold State.modLink
  try lift_lets
  repeat' first
    | (intro x; subst x) | (with_reducible refine Keeps.setFab (by assumption) _ ?_)
    | simp only [List.length_map, List.length_modify, List.length_set]

theorem State.linkSent_keeps {s₀ s : State} {x1 x2 x3} (h : Keeps km s₀ s) : Keeps km s₀ (State.linkSent s x1 x2 x3) := by
  unfold State.linkSent
  try lift_lets
  repeat' first
    | assumption | with_reducible apply State.modLink_keeps | with_reducible apply State.count_keeps

theorem State.charge_keeps {s₀ s : State} {x1 x2 x3} (h : Keeps km s₀ s) : Keeps km s₀ (State.charge s x1 x2 x3) := by
  unfold State.charge
  try lift_lets
  repeat' first
    | assumption
    | (intro x; (have hx : Keeps km s₀ x := by (subst x; repeat' first | assumption | with_reducible apply State.modBay_keeps | (with_reducible refine Keeps.setDp (by assumption) _ ?_ ?_) | with_reducible rfl)); clear_value x)
    | (intro x; subst x) | with_reducible apply State.count_keeps

theorem State.withDebt_keeps {s₀ s t : State} {b} (h : Keeps km s₀ t) : Keeps km s₀ (State.withDebt s b t) :=
  State.modBay_keeps h

theorem State.chargeDebt_keeps {s₀ s : State} {x1 x2 x3} (h : Keeps km s₀ s) : Keeps km s₀ (State.chargeDebt s x1 x2 x3) := by
  unfold State.chargeDebt
  repeat' first | assumption | with_reducible apply State.withDebt_keeps | with_reducible apply State.charge_keeps

theorem State.chargeFor_keeps {s₀ s : State} {x1 x2 x3 x4} (h : Keeps km s₀ s) : Keeps km s₀ (State.chargeFor s x1 x2 x3 x4) := by
  unfold State.chargeFor
  try lift_lets
  repeat' first
    | assumption
    | with_reducible apply State.chargeDebt_keeps
    | with_reducible apply State.charge_keeps
    | with_reducible apply Keeps.ite
    | (with_reducible refine Keeps.setDp (by assumption) _ ?_ ?_)
    | with_reducible rfl
    | simp only [List.length_map, List.length_modify, List.length_set, List.length_mapIdx]
    | split
    | dsimp only

theorem State.cross_keeps {s₀ s : State} {x1 x2 x3 x4 x5} (h : Keeps km s₀ s) : Keeps km s₀ (State.cross s x1 x2 x3 x4 x5) := by
  unfold State.cross
  try lift_lets
  repeat' first
    | assumption
    | with_reducible apply State.chargeFor_keeps
    | with_reducible apply State.linkSent_keeps

theorem State.abortMargins_keeps {s₀ s : State} {x1 x2 x3} (h : Keeps km s₀ s) : Keeps km s₀ (State.abortMargins s x1 x2 x3) := by
  unfold State.abortMargins
  try lift_lets
  repeat' first
    | assumption
    | with_reducible apply Keeps.ite
    | (with_reducible refine Keeps.setMgmt (by assumption) _)
    | with_reducible rfl
    | simp only [List.length_map, List.length_modify, List.length_set, List.length_mapIdx]
    | split
    | dsimp only

theorem State.framesSent_keeps {s₀ s : State} {x1 x2 x3 x4} (h : Keeps km s₀ s) : Keeps km s₀ (State.framesSent s x1 x2 x3 x4) := by
  unfold State.framesSent
  repeat' first | assumption | with_reducible apply State.count_keeps

theorem State.framesLeave_keeps {s₀ s : State} {x1 x2 x3 x4} (h : Keeps km s₀ s) : Keeps km s₀ (State.framesLeave s x1 x2 x3 x4) := by
  unfold State.framesLeave
  try lift_lets
  repeat' first
    | assumption
    | (intro x; (have hx : Keeps km s₀ x := by (subst x; repeat' first | assumption | (intro y; subst y) | with_reducible apply State.modSub_keeps | with_reducible apply State.chargeFor_keeps | with_reducible apply State.cross_keeps | with_reducible apply State.framesSent_keeps | with_reducible apply State.emit_keeps | split | dsimp only)); clear_value x)
    | (intro x; subst x)
    | with_reducible apply State.modSub_keeps
    | with_reducible apply State.chargeFor_keeps
    | with_reducible apply State.cross_keeps
    | with_reducible apply State.framesSent_keeps
    | with_reducible apply State.emit_keeps
    | split
    | dsimp only

theorem State.egressRun_keeps {s₀ s : State} {x0 x1 x2} (h : Keeps km s₀ s) : Keeps km s₀ (State.egressRun x0 x1 x2 s) := by
  induction x0 generalizing s with
  | zero => exact h
  | succ n ih =>
    unfold State.egressRun
    split
    · exact h
    · exact ih (State.framesLeave_keeps h)

theorem State.egress_keeps {s₀ s : State} {x1 x2} (h : Keeps km s₀ s) : Keeps km s₀ (State.egress s x1 x2) := by
  unfold State.egress
  try lift_lets
  repeat' first
    | assumption | with_reducible apply State.egressRun_keeps

theorem State.sendFrames_keeps {s₀ s : State} {x1 x2 x3 x4 x5 x6 x7 x8 x9 x10 x11} (h : Keeps km s₀ s) : Keeps km s₀ (State.sendFrames s x1 x2 x3 x4 x5 x6 x7 x8 x9 x10 x11) := by
  unfold State.sendFrames
  try lift_lets
  repeat' first
    | assumption
    | (intro x; (have hx : Keeps km s₀ x := by (subst x; repeat' first | assumption | (intro y; subst y) | with_reducible apply State.modSub_keeps | with_reducible apply State.egress_keeps | with_reducible apply Keeps.ite | split | dsimp only)); clear_value x)
    | (intro x; subst x)
    | with_reducible apply State.modSub_keeps
    | with_reducible apply State.egress_keeps
    | with_reducible apply Keeps.ite
    | split
    | dsimp only

theorem State.sendUdp_keeps {s₀ s : State} {x1 x2 x3 x4 x5 x6 x7 x8 x9} (h : Keeps km s₀ s) : Keeps km s₀ (State.sendUdp s x1 x2 x3 x4 x5 x6 x7 x8 x9) := by
  unfold State.sendUdp
  try lift_lets
  repeat' first
    | assumption
    | with_reducible apply State.sendFrames_keeps

theorem State.placeFail_keeps {s₀ s : State} {x1} (h : Keeps km s₀ s) : Keeps km s₀ (State.placeFail s x1) := by
  unfold State.placeFail
  try lift_lets
  repeat' first | assumption | with_reducible apply State.modCounters_keeps | with_reducible apply State.count_keeps

theorem State.rdmaSend_keeps {s₀ s : State} {x1 x2 x3 x4 x5 x6 x7 x8 x9} (h : Keeps km s₀ s) : Keeps km s₀ (State.rdmaSend s x1 x2 x3 x4 x5 x6 x7 x8 x9) := by
  unfold State.rdmaSend
  try lift_lets
  repeat' first
    | assumption
    | (intro x; (have hx : Keeps km s₀ x := by (subst x; repeat' first | assumption | (intro y; subst y) | with_reducible apply State.modQp_keeps | with_reducible apply State.sendFrames_keeps | with_reducible apply Keeps.ite | (with_reducible refine Keeps.setDev (by assumption) _) | with_reducible rfl | simp only [List.length_map, List.length_modify, List.length_set, List.length_mapIdx] | split | dsimp only)); clear_value x)
    | (intro x; subst x)
    | with_reducible apply State.modQp_keeps
    | with_reducible apply State.sendFrames_keeps
    | with_reducible apply Keeps.ite
    | (with_reducible refine Keeps.setDev (by assumption) _)
    | with_reducible rfl
    | simp only [List.length_map, List.length_modify, List.length_set, List.length_mapIdx]
    | split
    | dsimp only

theorem State.ringRespond_keeps {s₀ s : State} {x1 x2} (h : Keeps km s₀ s) : Keeps km s₀ (State.ringRespond s x1 x2) := by
  unfold State.ringRespond
  try lift_lets
  repeat' first
    | assumption
    | (intro x; (have hx : Keeps km s₀ x := by (subst x; repeat' first | assumption | with_reducible apply State.rdmaSend_keeps | with_reducible apply State.modQp_keeps)); clear_value x)
    | (intro x; subst x) | with_reducible apply State.rdmaSend_keeps | split

theorem State.dropResponse_keeps {s₀ s : State} {x1} (h : Keeps km s₀ s) : Keeps km s₀ (State.dropResponse s x1) := by
  unfold State.dropResponse
  try lift_lets
  repeat' first
    | assumption
    | (intro x; (have hx : Keeps km s₀ x := by (subst x; repeat' first | assumption | with_reducible apply State.modSession_keeps)); clear_value x)
    | with_reducible apply State.modCounters_keeps | with_reducible apply State.count_keeps | split

theorem State.deliver_keeps {s₀ s : State} {x1 x2 x3} (h : Keeps km s₀ s) : Keeps km s₀ (State.deliver s x1 x2 x3) := by
  unfold State.deliver
  try lift_lets
  repeat' first
    | assumption
    | (intro x; (have hx : Keeps km s₀ x := by (subst x; repeat' first | assumption | (intro y; subst y) | with_reducible apply State.sendUdp_keeps | with_reducible apply State.ring_keeps | with_reducible apply State.ringRespond_keeps | with_reducible apply State.dropResponse_keeps | with_reducible apply State.modBox_keeps | with_reducible apply Keeps.ite | (with_reducible refine Keeps.setMgmt (by assumption) _) | (with_reducible refine Keeps.setTth (by assumption) _) | (refine Keeps.set (t := ?tt) ?hh ?_ ?_ ?_ ?_ ?_ ?_ ?_ ?_ ?_ ?_; (case hh => exact (by assumption)); all_goals first | with_reducible rfl | (intro hm; with_reducible assumption)) | with_reducible rfl | simp only [List.length_map, List.length_modify, List.length_set, List.length_mapIdx] | split | dsimp only)); clear_value x)
    | (intro x; subst x)
    | with_reducible apply State.sendUdp_keeps
    | with_reducible apply State.ring_keeps
    | with_reducible apply State.ringRespond_keeps
    | with_reducible apply State.dropResponse_keeps
    | with_reducible apply State.modBox_keeps
    | with_reducible apply Keeps.ite
    | (with_reducible refine Keeps.setMgmt (by assumption) _)
    | (with_reducible refine Keeps.setTth (by assumption) _)
    | (refine Keeps.set (t := ?tt) ?hh ?_ ?_ ?_ ?_ ?_ ?_ ?_ ?_ ?_ ?_; (case hh => exact (by assumption)); all_goals first | with_reducible rfl | (intro hm; with_reducible assumption))
    | with_reducible rfl
    | simp only [List.length_map, List.length_modify, List.length_set, List.length_mapIdx]
    | split
    | dsimp only

theorem State.respond_keeps {s₀ s : State} {x1 x2 x3} (h : Keeps km s₀ s) : Keeps km s₀ (State.respond s x1 x2 x3) := by
  unfold State.respond
  try lift_lets
  repeat' first
    | assumption
    | (intro x; (have hx : Keeps km s₀ x := by (subst x; repeat' first | assumption | with_reducible apply State.deliver_keeps)); clear_value x)
    | (intro x; subst x) | with_reducible apply State.modSession_keeps | with_reducible apply Keeps.ite | split

theorem fail_keeps {s₀ s : State} {x0 x1} (h : Keeps km s₀ s) : Keeps km s₀ (fail x0 x1 s).2 := by
  unfold fail
  repeat' assumption

theorem okWith_keeps {s₀ s : State} {x0} (h : Keeps km s₀ s) : Keeps km s₀ (okWith x0 s).2 := by
  unfold okWith
  repeat' assumption

theorem Ctx.fields_keeps {s₀ s : State} {c : Ctx} {l : List (Nat × Bool)} {k : Result} (h : Keeps km s₀ s) (hk : Keeps km s₀ k.2) :
    Keeps km s₀ (Ctx.fields c s l k).2 := by
  unfold Ctx.fields
  split
  · exact h
  · split
    · exact h
    · exact hk

theorem refuseIf_keeps {s₀ s : State} {c : Bool} {st d} {k : Result} (h : Keeps km s₀ s) (hk : Keeps km s₀ k.2) :
    Keeps km s₀ (refuseIf c st d s k).2 := by
  unfold refuseIf
  split
  · exact h
  · exact hk

theorem runAccepted_keeps {s₀ s : State} {spec : CmdSpec} {run : Ctx → State → Result} {r : Req} {c : Caller}
    (hr : ∀ c t, Keeps km s₀ t → Keeps km s₀ (run c t).2) (h : Keeps km s₀ s) : Keeps km s₀ (runAccepted spec run r c s) := by
  unfold runAccepted
  extract_lets ctx res
  have hx : Keeps km s₀ res.2 := Keeps.ite_snd h (Keeps.ite_snd h (hr _ _ h))
  clear_value res
  split
  · exact State.respond_keeps (Keeps.ite h hx)
  · exact hx

theorem State.countDiscard_keeps {s₀ s : State} {x1} (h : Keeps km s₀ s) : Keeps km s₀ (State.countDiscard s x1) := by
  unfold State.countDiscard
  try lift_lets
  repeat' first | (intro x; subst x) | (with_reducible refine Keeps.setNet (by assumption) _ ?_) | with_reducible rfl

theorem resume_keeps {s₀ s : State} {spec : CmdSpec} {run : Ctx → State → Result} {r : Req}
    (hr : ∀ c t, Keeps km s₀ t → Keeps km s₀ (run c t).2) (h : Keeps km s₀ s) : Keeps km s₀ (resume spec run r s) := by
  unfold resume
  split
  · exact runAccepted_keeps hr h
  · exact State.respond_keeps h
  · exact State.countDiscard_keeps h

theorem State.countMalformed_keeps {s₀ s : State} (h : Keeps km s₀ s) : Keeps km s₀ (State.countMalformed s) := by
  unfold State.countMalformed
  try lift_lets
  repeat' first | (intro x; subst x) | (with_reducible refine Keeps.setNet (by assumption) _ ?_) | with_reducible rfl

theorem State.repeated_keeps {s₀ s : State} {x1} (h : Keeps km s₀ s) : KeepsOpt km s₀ (State.repeated s x1) := by
  unfold State.repeated
  try lift_lets
  repeat' first
    | assumption | (intro x; subst x) | with_reducible apply State.deliver_keeps | with_reducible exact KeepsOpt.none _
    | with_reducible apply KeepsOpt.some | with_reducible apply KeepsOpt.ite | split

theorem runCommand_keeps {s₀ s : State} {spec : CmdSpec} {run : Ctx → State → Result} {r : Req}
    (hr : ∀ c t, Keeps km s₀ t → Keeps km s₀ (run c t).2) (h : Keeps km s₀ s) : KeepsOut km s₀ (runCommand spec run r s) := by
  have h1 (x : Net) (hx : x.ports.length = s.net.ports.length) : Keeps km s₀ (resume spec run r { s with net := x }) :=
    resume_keeps hr (Keeps.setNet h x hx)
  have h2 := State.countMalformed_keeps h
  have h3 (t : State) (x : Net) (ht : Keeps km s₀ t) (hx : x.ports.length = t.net.ports.length) : Keeps km s₀ { t with net := x } :=
    Keeps.setNet ht x hx
  unfold runCommand
  refine KeepsOut.next ?_
  split
  · exact h
  · split
    · exact h
    · split
      · dsimp only
        split
        · exact h
        · exact h3 _ _ (h1 _ rfl) rfl
      · split
        · exact Keeps.ite (h1 _ rfl) h
        · split
          · exact h2
          · split
            · next hx => exact Keeps.of_opt (State.repeated_keeps h) hx
            · split
              · exact State.respond_keeps h
              · exact h
              · split
                · exact runAccepted_keeps hr h
                · exact State.respond_keeps h
                · exact State.countDiscard_keeps h

theorem State.answer_keeps {s₀ s : State} {x1 x2} (h : Keeps km s₀ s) : Keeps km s₀ (State.answer s x1 x2) := by
  unfold State.answer
  repeat' first | assumption | with_reducible apply State.respond_keeps

theorem park_keeps {s₀ s : State} {x0} (h : Keeps km s₀ s) : Keeps km s₀ (park x0 s).2 := by
  unfold park
  try lift_lets
  repeat' first | (intro x; subst x) | (with_reducible refine Keeps.setNet (by assumption) _ ?_) | with_reducible rfl

theorem inOrder_keeps {s₀ s : State} {c : Ctx} {n b} {k : Result} (h : Keeps km s₀ s) (hk : Keeps km s₀ k.2) :
    Keeps km s₀ (inOrder c s n b k).2 := by
  unfold inOrder
  exact Keeps.ite_snd (park_keeps h) hk

theorem State.qpError_keeps {s₀ s : State} {x1 x2} (h : Keeps km s₀ s) : Keeps km s₀ (State.qpError s x1 x2) := by
  unfold State.qpError
  try lift_lets
  repeat' first
    | assumption | with_reducible apply State.placeFail_keeps | with_reducible apply State.modQp_keeps
    | with_reducible apply State.raise_keeps | (with_reducible refine Keeps.foldl _ (fun t x ht => ?_) ?_) | split

theorem State.freeQp_keeps {s₀ s : State} {x1} (h : Keeps km s₀ s) : Keeps km s₀ (State.freeQp s x1) := by
  unfold State.freeQp
  try lift_lets
  repeat' first | (intro x; subst x) | (with_reducible refine Keeps.setNet (by assumption) _ ?_) | with_reducible rfl

theorem State.retireQps_keeps {s₀ s : State} {x1} (h : Keeps km s₀ s) : Keeps km s₀ (State.retireQps s x1) := by
  unfold State.retireQps
  repeat' first
    | assumption | with_reducible apply State.freeQp_keeps | with_reducible apply State.qpError_keeps
    | with_reducible apply Keeps.ite | (with_reducible refine Keeps.foldl _ (fun t x ht => ?_) ?_)

theorem State.endSession_keeps {s₀ s : State} {x1} (h : Keeps km s₀ s) : Keeps km s₀ (State.endSession s x1) := by
  unfold State.endSession
  try lift_lets
  repeat' first
    | assumption
    | (intro x; (have hx : Keeps km s₀ x := by (subst x; repeat' first | assumption | with_reducible apply State.modSession_keeps | (with_reducible refine Keeps.setTth (by assumption) _) | (with_reducible refine Keeps.setDp (by assumption) _ ?_ ?_) | with_reducible rfl)); clear_value x)
    | (intro x; subst x) | with_reducible apply State.retireQps_keeps | with_reducible apply State.raise_keeps | split

theorem State.authFail_keeps {s₀ s : State} {x1 x2} (h : Keeps km s₀ s) : Keeps km s₀ (State.authFail s x1 x2) := by
  unfold State.authFail
  try lift_lets
  repeat' first
    | assumption
    | (intro x; (have hx : Keeps km s₀ x := by (subst x; repeat' first | assumption | with_reducible apply State.raise_keeps)); clear_value x)
    | (intro x; subst x) | (with_reducible refine Keeps.setNet (by assumption) _ ?_) | with_reducible rfl | split

theorem State.useNonce_keeps {s₀ s : State} {x1} (h : Keeps km s₀ s) : Keeps km s₀ (State.useNonce s x1).2 := by
  unfold State.useNonce
  try lift_lets
  repeat' first | (intro x; subst x) | (with_reducible refine Keeps.setNet (by assumption) _ ?_) | with_reducible rfl

theorem State.bindCarrier_keeps {s₀ s : State} {x1 x2} (h : Keeps km s₀ s) : Keeps km s₀ (State.bindCarrier s x1 x2) := by
  unfold State.bindCarrier
  try lift_lets
  repeat' first
    | assumption
    | (intro x; (have hx : Keeps km s₀ x := by (subst x; repeat' first | assumption | with_reducible apply State.modSession_keeps | (with_reducible refine Keeps.setTth (by assumption) _))); clear_value x)
    | (intro x; subst x) | with_reducible apply State.modBox_keeps | split

theorem doHello_keeps {s₀ s : State} {x0} (h : Keeps km s₀ s) : Keeps km s₀ (doHello x0 s).2 := by
  unfold doHello
  try lift_lets
  repeat' first
    | assumption | with_reducible apply Ctx.fields_keeps | with_reducible apply okWith_keeps
    | with_reducible apply Keeps.ite_snd
    | (with_reducible refine Keeps.setNet (by with_reducible exact State.fresh_keeps (by assumption)) _ ?_)
    | with_reducible rfl

theorem execSessionHello_keeps {s₀ s : State} {x0} (h : Keeps km s₀ s) : KeepsOut km s₀ (execSessionHello x0 s) := by
  exact runCommand_keeps (fun _ _ ht => doHello_keeps ht) h

theorem doOpen_keeps {s₀ s : State} {x0} (h : Keeps km s₀ s) : Keeps km s₀ (doOpen x0 s).2 := by
  unfold doOpen
  refine refuseIf_keeps h (Ctx.fields_keeps h ?_)
  extract_lets -lift +onlyGivenNames bay client device
  split
  next e =>
  have h1 := Keeps.of_snd (State.useNonce_keeps h) e
  extract_lets -lift +onlyGivenNames proof
  refine Keeps.ite_snd (State.authFail_keeps h1) (Keeps.ite_snd h1 ?_)
  extract_lets -lift +onlyGivenNames lease hold
  split
  next e2 =>
  have h2 := Keeps.of_snd (State.fresh_keeps h1) e2
  extract_lets -lift +onlyGivenNames token hd s3 s4
  exact State.bindCarrier_keeps (State.putSession_keeps (Keeps.setNet h2 _ rfl))

theorem execSessionOpen_keeps {s₀ s : State} {x0} (h : Keeps km s₀ s) : KeepsOut km s₀ (execSessionOpen x0 s) := by
  exact runCommand_keeps (fun _ _ ht => doOpen_keeps ht) h

theorem doReattach_keeps {s₀ s : State} {x0} (h : Keeps km s₀ s) : Keeps km s₀ (doReattach x0 s).2 := by
  unfold doReattach
  try lift_lets
  repeat' first
    | assumption | (intro x; subst x) | with_reducible apply State.bindCarrier_keeps
    | with_reducible apply State.useNonce_keeps | with_reducible apply State.authFail_keeps
    | with_reducible apply Ctx.fields_keeps | with_reducible apply okWith_keeps | with_reducible apply fail_keeps
    | with_reducible apply State.modSession_keeps | with_reducible apply State.fresh_keeps
    | with_reducible apply Keeps.ite_snd | split

theorem execSessionReattach_keeps {s₀ s : State} {x0} (h : Keeps km s₀ s) : KeepsOut km s₀ (execSessionReattach x0 s) := by
  exact runCommand_keeps (fun _ _ ht => doReattach_keeps ht) h

theorem doClose_keeps {s₀ s : State} {x0} (h : Keeps km s₀ s) : Keeps km s₀ (doClose x0 s).2 := by
  unfold doClose
  try lift_lets
  repeat' first
    | assumption
    | (intro x; (have hx : Keeps km s₀ x := by (subst x; repeat' first | assumption | with_reducible apply State.respond_keeps)); clear_value x)
    | with_reducible apply State.endSession_keeps

theorem execSessionClose_keeps {s₀ s : State} {x0} (h : Keeps km s₀ s) : KeepsOut km s₀ (execSessionClose x0 s) := by
  exact runCommand_keeps (fun _ _ ht => doClose_keeps ht) h

theorem doHeartbeat_keeps {s₀ s : State} {x0} (h : Keeps km s₀ s) : Keeps km s₀ (doHeartbeat x0 s).2 := by
  unfold doHeartbeat
  try lift_lets
  repeat' first
    | assumption | with_reducible apply Ctx.fields_keeps | with_reducible apply okWith_keeps
    | with_reducible apply State.modSession_keeps | with_reducible apply Keeps.ite_snd | split

theorem execHeartbeat_keeps {s₀ s : State} {x0} (h : Keeps km s₀ s) : KeepsOut km s₀ (execHeartbeat x0 s) := by
  exact runCommand_keeps (fun _ _ ht => doHeartbeat_keeps ht) h

theorem doSessionQuery_keeps {s₀ s : State} {x0} (h : Keeps km s₀ s) : Keeps km s₀ (doSessionQuery x0 s).2 := by
  unfold doSessionQuery
  try lift_lets
  repeat' first
    | assumption | (intro x; subst x) | with_reducible apply Ctx.fields_keeps | with_reducible apply Keeps.ite_snd | split

theorem execSessionQuery_keeps {s₀ s : State} {x0} (h : Keeps km s₀ s) : KeepsOut km s₀ (execSessionQuery x0 s) := by
  exact runCommand_keeps (fun _ _ ht => doSessionQuery_keeps ht) h

theorem doQpConnect_keeps {s₀ s : State} {x0} (h : Keeps km s₀ s) : Keeps km s₀ (doQpConnect x0 s).2 := by
  unfold doQpConnect
  try lift_lets
  repeat' first
    | assumption | (intro x; subst x) | with_reducible apply Ctx.fields_keeps | with_reducible apply okWith_keeps
    | with_reducible apply Keeps.ite_snd
    | (with_reducible refine Keeps.setNet (by with_reducible exact State.fresh_keeps (by assumption)) _ ?_)
    | with_reducible rfl

theorem execQpConnect_keeps {s₀ s : State} {x0} (h : Keeps km s₀ s) : KeepsOut km s₀ (execQpConnect x0 s) := by
  exact runCommand_keeps (fun _ _ ht => doQpConnect_keeps ht) h

theorem doQpDestroy_keeps {s₀ s : State} {x0} (h : Keeps km s₀ s) : Keeps km s₀ (doQpDestroy x0 s).2 := by
  unfold doQpDestroy
  repeat' first
    | assumption | with_reducible apply State.freeQp_keeps | with_reducible apply State.qpError_keeps
    | with_reducible apply Ctx.fields_keeps | with_reducible apply okWith_keeps

theorem execQpDestroy_keeps {s₀ s : State} {x0} (h : Keeps km s₀ s) : KeepsOut km s₀ (execQpDestroy x0 s) := by
  exact runCommand_keeps (fun _ _ ht => doQpDestroy_keeps ht) h

theorem doQpQuery_keeps {s₀ s : State} {x0} (h : Keeps km s₀ s) : Keeps km s₀ (doQpQuery x0 s).2 := by
  unfold doQpQuery
  try lift_lets
  repeat' first | assumption | with_reducible apply Ctx.fields_keeps | split

theorem execQpQuery_keeps {s₀ s : State} {x0} (h : Keeps km s₀ s) : KeepsOut km s₀ (execQpQuery x0 s) := by
  exact runCommand_keeps (fun _ _ ht => doQpQuery_keeps ht) h

theorem execLeaseExpiry_keeps {s₀ s : State} {x0} (h : Keeps km s₀ s) : KeepsOut km s₀ (execLeaseExpiry x0 s) := by
  unfold execLeaseExpiry
  try lift_lets
  repeat' first
    | assumption | with_reducible apply State.raise_keeps | with_reducible apply State.modSession_keeps
    | with_reducible apply Keeps.ite | with_reducible apply KeepsOut.next | split

theorem execHoldExpiry_keeps {s₀ s : State} {x0} (h : Keeps km s₀ s) : KeepsOut km s₀ (execHoldExpiry x0 s) := by
  unfold execHoldExpiry
  try lift_lets
  repeat' first
    | assumption | with_reducible apply State.endSession_keeps | with_reducible apply State.raise_keeps
    | with_reducible apply Keeps.ite | with_reducible apply KeepsOut.next | split

theorem execNonceExpiry_keeps {s₀ s : State} (h : Keeps km s₀ s) : KeepsOut km s₀ (execNonceExpiry s) := by
  unfold execNonceExpiry
  try lift_lets
  repeat' first
    | (intro x; subst x) | with_reducible apply KeepsOut.next | (with_reducible refine Keeps.setNet (by assumption) _ ?_)
    | with_reducible rfl

theorem State.setEntry_keeps {s₀ s : State} {x1 x2 x3 x4} (h : Keeps false s₀ s) : Keeps false s₀ (State.setEntry s x1 x2 x3 x4) := by
  unfold State.setEntry
  try lift_lets
  repeat' first | assumption | with_reducible apply State.write_keeps | split

theorem State.setRow_keeps {s₀ s : State} {x1 x2 x3 x4} (h : Keeps false s₀ s) : Keeps false s₀ (State.setRow s x1 x2 x3 x4) := by
  unfold State.setRow
  try lift_lets
  repeat' first
    | assumption | (intro x; subst x) | with_reducible apply State.heal_keeps | with_reducible apply State.write_keeps

theorem State.chaffRow_keeps {s₀ s : State} {x1 x2 x3 x4} (h : Keeps km s₀ s) : Keeps km s₀ (State.chaffRow s x1 x2 x3 x4) := by
  unfold State.chaffRow
  try lift_lets
  repeat' first
    | assumption
    | with_reducible apply State.markChaff_keeps
    | split
    | dsimp only

theorem State.forgetEntries_keeps {s₀ s : State} {x1 x2} (h : Keeps km s₀ s) : Keeps km s₀ (State.forgetEntries s x1 x2) := by
  unfold State.forgetEntries
  try lift_lets
  repeat' first
    | (with_reducible refine Keeps.setDp (by assumption) _ ?_ ?_) | with_reducible rfl

theorem State.dropCopies_keeps {s₀ s : State} {x1 x2 x3} (h : Keeps km s₀ s) : Keeps km s₀ (State.dropCopies s x1 x2 x3) := by
  unfold State.dropCopies
  try lift_lets
  repeat' first | assumption | with_reducible apply State.modBay_keeps

theorem State.dropStaged_keeps {s₀ s : State} {x1 x2 x3} (h : Keeps km s₀ s) : Keeps km s₀ (State.dropStaged s x1 x2 x3) := by
  unfold State.dropStaged
  try lift_lets
  repeat' first | assumption | with_reducible apply State.modBay_keeps

theorem State.putRead_keeps {s₀ s : State} {x1 x2 x3 x4 x5 x6 x7 x8 x9 x10 x11} (h : Keeps km s₀ s) : Keeps km s₀ (State.putRead s x1 x2 x3 x4 x5 x6 x7 x8 x9 x10 x11) := by
  unfold State.putRead
  try lift_lets
  repeat' first
    | (with_reducible refine Keeps.setDp (by assumption) _ ?_ ?_) | with_reducible rfl

theorem State.issueWrite_keeps {s₀ s : State} {x1 x2 x3 x4 x5 x6 x7 x8} (h : Keeps km s₀ s) : Keeps km s₀ (State.issueWrite s x1 x2 x3 x4 x5 x6 x7 x8) := by
  unfold State.issueWrite
  try lift_lets
  repeat' first
    | (with_reducible refine Keeps.setDp (by assumption) _ ?_ ?_) | with_reducible rfl

theorem State.countSat_keeps {s₀ s : State} {x1 x2 x3 x4} (h : Keeps km s₀ s) : Keeps km s₀ (State.countSat s x1 x2 x3 x4) := by
  unfold State.countSat
  try lift_lets
  repeat' first
    | assumption | with_reducible apply State.raise_keeps | with_reducible apply State.modTable_keeps
    | with_reducible apply Keeps.ite | (with_reducible refine Keeps.foldl _ (fun t x ht => ?_) ?_) | split

theorem State.heatRow_keeps {s₀ s : State} {x1 x2 x3} (h : Keeps km s₀ s) : Keeps km s₀ (State.heatRow s x1 x2 x3) := by
  unfold State.heatRow
  try lift_lets
  repeat' first | assumption | with_reducible apply State.modBay_keeps

theorem State.takeSlots_keeps {s₀ s : State} {x1 x2} (h : Keeps km s₀ s) : Keeps km s₀ (State.takeSlots s x1 x2) := by
  unfold State.takeSlots
  try lift_lets
  repeat' first
    | assumption
    | with_reducible apply Keeps.ite
    | (with_reducible refine Keeps.setDp (by assumption) _ ?_ ?_)
    | with_reducible rfl
    | simp only [List.length_map, List.length_modify, List.length_set, List.length_mapIdx]
    | split
    | dsimp only

theorem State.chargeAccess_keeps {s₀ s : State} {x1 x2 x3 x4 x5 x6} (h : Keeps km s₀ s) : Keeps km s₀ (State.chargeAccess s x1 x2 x3 x4 x5 x6) := by
  unfold State.chargeAccess
  try lift_lets
  repeat' first
    | assumption
    | (intro x; (have hx : Keeps km s₀ x := by (subst x; repeat' first | assumption | (intro y; subst y) | with_reducible apply State.charge_keeps | with_reducible apply State.takeSlots_keeps | with_reducible apply State.count_keeps | with_reducible apply State.linkSent_keeps | with_reducible apply Keeps.ite | split | dsimp only)); clear_value x)
    | (intro x; subst x)
    | with_reducible apply State.charge_keeps
    | with_reducible apply State.takeSlots_keeps
    | with_reducible apply State.count_keeps
    | with_reducible apply State.linkSent_keeps
    | with_reducible apply Keeps.ite
    | split
    | dsimp only

theorem State.freeEntry_keeps {s₀ s : State} {x1 x2 x3} (h : Keeps km s₀ s) : Keeps km s₀ (State.freeEntry s x1 x2 x3) := by
  unfold State.freeEntry
  try lift_lets
  repeat' first | assumption | (intro x; subst x) | with_reducible apply State.modBay_keeps | with_reducible apply Keeps.ite

theorem State.allocRow_keeps {s₀ s : State} {x1 x2 x3} (h : Keeps km s₀ s) : KeepsOpt2 km s₀ (State.allocRow s x1 x2 x3) := by
  unfold State.allocRow
  try lift_lets
  repeat' first
    | assumption | (intro x; subst x) | with_reducible apply State.modBay_keeps | with_reducible exact KeepsOpt2.none _
    | with_reducible apply KeepsOpt2.some | split

theorem State.keepEntry_keeps {s₀ s : State} {x1 x2 x3 x4} (h : Keeps km s₀ s) : Keeps km s₀ (State.keepEntry s x1 x2 x3 x4) := by
  unfold State.keepEntry
  try lift_lets
  repeat' first
    | assumption
    | (intro x; (have hx : Keeps km s₀ x := by (subst x; repeat' first | assumption | (intro y; subst y) | with_reducible apply Keeps.ite | (with_reducible refine Keeps.setDp (by assumption) _ ?_ ?_) | with_reducible rfl | simp only [List.length_map, List.length_modify, List.length_set, List.length_mapIdx] | split | dsimp only)); clear_value x)
    | (intro x; subst x)
    | with_reducible apply Keeps.ite
    | (with_reducible refine Keeps.setDp (by assumption) _ ?_ ?_)
    | with_reducible rfl
    | simp only [List.length_map, List.length_modify, List.length_set, List.length_mapIdx]
    | split
    | dsimp only

theorem State.commitEntry_keeps {s₀ s : State} {x1 x2 x3 x4} (h : Keeps false s₀ s) : Keeps false s₀ (State.commitEntry s x1 x2 x3 x4) := by
  unfold State.commitEntry
  try lift_lets
  repeat' first
    | assumption | with_reducible apply State.keepEntry_keeps | with_reducible apply State.setEntry_keeps
    | with_reducible apply State.modBay_keeps | with_reducible apply State.heal_keeps | with_reducible apply Keeps.ite
    | split

end Sys2Proof.Machine
end

