-- ==== Sys2Proof/Laws/KeepsTable.lean ====
section
/-! SUPPORT. What each operation keeps: spans and long jobs, requests and tables, scale points, sheaf commands and training. -/

set_option maxRecDepth 4000
set_option Elab.async false
set_option linter.unusedSimpArgs false

namespace Sys2Proof.Machine

variable {km : Bool}

theorem State.startSpan_keeps {s₀ s : State} {x1 x2 x3 x4 x5 x6} (h : Keeps km s₀ s) : Keeps km s₀ (State.startSpan s x1 x2 x3 x4 x5 x6).2 := by
  unfold State.startSpan
  try lift_lets
  repeat' first
    | assumption
    | (intro x; (have hx : Keeps km s₀ x := by (subst x; repeat' first | assumption | (intro y; subst y) | with_reducible apply State.emits_keeps | with_reducible apply Keeps.ite | with_reducible apply Keeps.ite_snd | (with_reducible refine Keeps.setDev (by assumption) _) | (with_reducible refine Keeps.setFab (by assumption) _ ?_) | (refine Keeps.set (t := ?tt) ?hh ?_ ?_ ?_ ?_ ?_ ?_ ?_ ?_ ?_ ?_; (case hh => exact (by assumption)); all_goals first | with_reducible rfl | (intro hm; with_reducible assumption)) | with_reducible rfl | simp only [List.length_map, List.length_modify, List.length_set, List.length_mapIdx] | split | dsimp only)); clear_value x)
    | (intro x; subst x)
    | with_reducible apply State.emits_keeps
    | with_reducible apply Keeps.ite
    | with_reducible apply Keeps.ite_snd
    | (with_reducible refine Keeps.setDev (by assumption) _)
    | (with_reducible refine Keeps.setFab (by assumption) _ ?_)
    | (refine Keeps.set (t := ?tt) ?hh ?_ ?_ ?_ ?_ ?_ ?_ ?_ ?_ ?_ ?_; (case hh => exact (by assumption)); all_goals first | with_reducible rfl | (intro hm; with_reducible assumption))
    | with_reducible rfl
    | simp only [List.length_map, List.length_modify, List.length_set, List.length_mapIdx]
    | split
    | dsimp only

theorem spanned_keeps {s₀ s : State} {c : Ctx} {t : Tab} {k : Result} (h : Keeps km s₀ s) (hk : Keeps km s₀ k.2) :
    Keeps km s₀ (spanned c s t k).2 := by
  unfold spanned
  refine Keeps.ite_snd hk ?_
  split
  · exact Keeps.ite_snd (State.startSpan_keeps h) h
  · exact State.startSpan_keeps h

theorem State.modSilo_keeps {s₀ s : State} {x1 x2} (h : Keeps km s₀ s) : Keeps km s₀ (State.modSilo s x1 x2) := by
  unfold State.modSilo
  try lift_lets
  repeat' first
    | (intro x; subst x) | (with_reducible refine Keeps.setMemsys (by assumption) _ ?_ ?_) | with_reducible rfl
    | simp only [List.length_map, List.length_modify, List.length_set]

theorem State.siloError_keeps {s₀ s : State} {x1 x2 x3 x4 x5} (h : Keeps km s₀ s) : Keeps km s₀ (State.siloError s x1 x2 x3 x4 x5) := by
  unfold State.siloError
  try lift_lets
  repeat' first
    | assumption
    | (intro x; (have hx : Keeps km s₀ x := by (subst x; repeat' first | assumption | with_reducible apply State.modSilo_keeps)); clear_value x)
    | with_reducible apply State.count_keeps

theorem State.siloCorrected_keeps {s₀ s : State} {x1 x2 x3} (h : Keeps km s₀ s) : Keeps km s₀ (State.siloCorrected s x1 x2 x3) := by
  unfold State.siloCorrected
  try lift_lets
  repeat' first
    | assumption
    | (intro x; (have hx : Keeps km s₀ x := by (subst x; repeat' first | assumption | with_reducible apply State.siloError_keeps | with_reducible apply State.modSilo_keeps)); clear_value x)
    | (intro x; subst x) | with_reducible apply State.raise_keeps | with_reducible apply Keeps.ite

theorem State.retirePage_keeps {s₀ s : State} {x1 x2 x3} (h : Keeps km s₀ s) : Keeps km s₀ (State.retirePage s x1 x2 x3).2 := by
  unfold State.retirePage
  try lift_lets
  repeat' first
    | assumption
    | (intro x; (have hx : Keeps km s₀ x := by (subst x; repeat' first | assumption | (intro y; subst y) | with_reducible apply State.modSilo_keeps | with_reducible apply State.raise_keeps | with_reducible apply Keeps.ite | with_reducible apply Keeps.ite_snd | (with_reducible refine Keeps.setFlash (by assumption) _) | with_reducible rfl | simp only [List.length_map, List.length_modify, List.length_set, List.length_mapIdx] | split | dsimp only)); clear_value x)
    | (intro x; subst x)
    | with_reducible apply State.modSilo_keeps
    | with_reducible apply State.raise_keeps
    | with_reducible apply Keeps.ite
    | with_reducible apply Keeps.ite_snd
    | (with_reducible refine Keeps.setFlash (by assumption) _)
    | with_reducible rfl
    | simp only [List.length_map, List.length_modify, List.length_set, List.length_mapIdx]
    | split
    | dsimp only

theorem State.siloBad_keeps {s₀ s : State} {x1 x2} (h : Keeps km s₀ s) : Keeps km s₀ (State.siloBad s x1 x2) := by
  unfold State.siloBad
  try lift_lets
  repeat' first
    | assumption
    | (intro x; (have hx : Keeps km s₀ x := by (subst x; repeat' first | assumption | (intro y; subst y) | with_reducible apply State.siloError_keeps | with_reducible apply State.raise_keeps | with_reducible apply State.retirePage_keeps | with_reducible apply State.modBay_keeps | with_reducible apply Keeps.ite | with_reducible refine Keeps.of_snd ?_ (by assumption) | split | dsimp only)); clear_value x)
    | (intro x; (have hx : Keeps km s₀ x.2 := by (subst x; repeat' first | assumption | (intro y; subst y) | with_reducible apply State.siloError_keeps | with_reducible apply State.raise_keeps | with_reducible apply State.retirePage_keeps | with_reducible apply State.modBay_keeps | with_reducible apply Keeps.ite | with_reducible refine Keeps.of_snd ?_ (by assumption) | split | dsimp only)); clear_value x)
    | (intro x; subst x)
    | with_reducible apply State.siloError_keeps
    | with_reducible apply State.raise_keeps
    | with_reducible apply State.retirePage_keeps
    | with_reducible apply State.modBay_keeps
    | with_reducible apply Keeps.ite
    | with_reducible refine Keeps.of_snd ?_ (by assumption)
    | split
    | dsimp only

theorem State.loftBad_keeps {s₀ s : State} {x1 x2} (h : Keeps km s₀ s) : Keeps km s₀ (State.loftBad s x1 x2) := by
  unfold State.loftBad
  try lift_lets
  repeat' first
    | assumption | (intro x; subst x) | with_reducible apply State.raise_keeps | with_reducible apply State.count_keeps
    | (with_reducible refine Keeps.setMemsys (by assumption) _ ?_ ?_) | with_reducible rfl
    | simp only [List.length_map, List.length_modify, List.length_set] | split

theorem State.reportBad_keeps {s₀ s : State} {x1 x2 x3 x4} (h : Keeps km s₀ s) : Keeps km s₀ (State.reportBad s x1 x2 x3 x4) := by
  unfold State.reportBad
  try lift_lets
  repeat' first
    | assumption
    | with_reducible apply State.siloBad_keeps
    | with_reducible apply State.loftBad_keeps
    | with_reducible apply Keeps.ite
    | (with_reducible refine Keeps.foldl _ (fun t x ht => ?_) ?_)
    | (with_reducible refine Keeps.foldl_snd _ (fun t x ht => ?_) ?_)
    | split
    | dsimp only

theorem State.chargeEntry_keeps {s₀ s : State} {x1 x2 x3 x4 x5} (h : Keeps km s₀ s) : Keeps km s₀ (State.chargeEntry s x1 x2 x3 x4 x5) := by
  unfold State.chargeEntry
  try lift_lets
  repeat' first
    | assumption
    | (intro x; (have hx : Keeps km s₀ x := by (subst x; repeat' first | assumption | (intro y; subst y) | with_reducible apply State.chargeAccess_keeps | split | dsimp only)); clear_value x)
    | (intro x; subst x)
    | with_reducible apply State.chargeAccess_keeps
    | split
    | dsimp only

theorem State.startJob_keeps {s₀ s : State} {x1 x2 x3 x4 x5} (h : Keeps km s₀ s) : Keeps km s₀ (State.startJob s x1 x2 x3 x4 x5).2 := by
  unfold State.startJob
  try lift_lets
  repeat' first
    | (intro x; subst x)
    | (refine Keeps.set (t := ?tt) ?hh ?_ ?_ ?_ ?_ ?_ ?_ ?_ ?_ ?_ ?_; (case hh => exact (by assumption)); all_goals first | with_reducible rfl | (intro hm; with_reducible assumption))

theorem State.modJob_keeps {s₀ s : State} {x1 x2} (h : Keeps km s₀ s) : Keeps km s₀ (State.modJob s x1 x2) := by
  unfold State.modJob
  try lift_lets
  repeat' first | (intro x; subst x) | (with_reducible refine Keeps.setDp (by assumption) _ ?_ ?_) | with_reducible rfl

theorem State.endMover_keeps {s₀ s : State} {x1} (h : Keeps km s₀ s) : Keeps km s₀ (State.endMover s x1) := by
  unfold State.endMover
  try lift_lets
  repeat' first
    | (with_reducible refine Keeps.setDp (by assumption) _ ?_ ?_)
    | simp only [List.length_map, List.length_modify, List.length_set, List.length_mapIdx]

theorem State.endJob_keeps {s₀ s : State} {x1 x2} (h : Keeps km s₀ s) : Keeps km s₀ (State.endJob s x1 x2) := by
  unfold State.endJob
  try lift_lets
  repeat' first
    | with_reducible apply State.endMover_keeps | with_reducible apply State.answer_keeps
    | (with_reducible refine Keeps.setDp (by assumption) _ ?_ ?_) | with_reducible rfl | split

theorem State.putFlail_keeps {s₀ s : State} {x1} (h : Keeps km s₀ s) : Keeps km s₀ (State.putFlail s x1) := by
  unfold State.putFlail
  try lift_lets
  repeat' first | (intro x; subst x) | (with_reducible refine Keeps.setDp (by assumption) _ ?_ ?_) | with_reducible rfl

theorem State.toFlail_keeps {s₀ s : State} {x1 x2} (h : Keeps km s₀ s) : Keeps km s₀ (State.toFlail s x1 x2) := by
  unfold State.toFlail
  try lift_lets
  repeat' first | assumption | (intro x; subst x) | with_reducible apply State.putFlail_keeps

theorem State.hostPlace_keeps {s₀ s : State} {x1 x2 x3 x4 x5 x6} (h : Keeps km s₀ s) : Keeps km s₀ (State.hostPlace s x1 x2 x3 x4 x5 x6) := by
  unfold State.hostPlace
  try lift_lets
  repeat' first
    | assumption
    | (intro x; (have hx : Keeps km s₀ x := by (subst x; repeat' first | assumption | (intro y; subst y) | with_reducible apply State.cross_keeps | with_reducible apply State.emit_keeps | with_reducible apply State.count_keeps | split | dsimp only)); clear_value x)
    | (intro x; subst x)
    | with_reducible apply State.cross_keeps
    | with_reducible apply State.emit_keeps
    | with_reducible apply State.count_keeps
    | split
    | dsimp only

theorem placeDest_keeps {s₀ s : State} {x0 x1 x2} (h : Keeps km s₀ s) : Keeps km s₀ (placeDest x0 s x1 x2).2 := by
  unfold placeDest
  try lift_lets
  repeat' first
    | assumption | (intro x; subst x) | with_reducible apply State.hostPlace_keeps
    | with_reducible apply State.rdmaSend_keeps | with_reducible apply State.placeFail_keeps | split

theorem State.chargeRing_keeps {s₀ s : State} {x1 x2 x3 x4 x5} (h : Keeps km s₀ s) : Keeps km s₀ (State.chargeRing s x1 x2 x3 x4 x5) := by
  unfold State.chargeRing
  try lift_lets
  repeat' first
    | assumption
    | (intro x; (have hx : Keeps km s₀ x := by (subst x; repeat' first | assumption | (intro y; subst y) | with_reducible apply State.chargeAccess_keeps)); clear_value x)
    | (intro x; subst x)
    | with_reducible apply State.chargeAccess_keeps

theorem takeSource_keeps {s₀ s : State} {x0 x2 x3} (h : Keeps km s₀ s) : Keeps km s₀ (takeSource x0 s x2 x3).2 := by
  unfold takeSource
  try lift_lets
  repeat' first
    | assumption | (intro x; subst x) | with_reducible apply State.chargeRing_keeps | with_reducible apply Keeps.ite

theorem State.nextMsgId_keeps {s₀ s : State} {x1} (h : Keeps km s₀ s) : Keeps km s₀ (State.nextMsgId s x1).2 := by
  unfold State.nextMsgId
  try lift_lets
  repeat' first | (intro x; subst x) | (with_reducible refine Keeps.setFab (by assumption) _ ?_) | with_reducible rfl

theorem State.linkLeave_keeps {s₀ s : State} {x1 x2} (h : Keeps km s₀ s) : Keeps km s₀ (State.linkLeave s x1 x2) := by
  unfold State.linkLeave
  try lift_lets
  repeat' first
    | assumption
    | (intro x; (have hx : Keeps km s₀ x := by (subst x; repeat' first | assumption | (intro y; subst y) | with_reducible apply State.modLink_keeps | with_reducible apply State.chargeFor_keeps | with_reducible apply State.cross_keeps | with_reducible apply State.linkSent_keeps | with_reducible apply State.emit_keeps | split | dsimp only)); clear_value x)
    | (intro x; subst x)
    | with_reducible apply State.modLink_keeps
    | with_reducible apply State.chargeFor_keeps
    | with_reducible apply State.cross_keeps
    | with_reducible apply State.linkSent_keeps
    | with_reducible apply State.emit_keeps
    | split
    | dsimp only

theorem State.linkRun_keeps {s₀ s : State} {x0 x1} (h : Keeps km s₀ s) : Keeps km s₀ (State.linkRun x0 x1 s) := by
  induction x0 generalizing s with
  | zero => exact h
  | succ n ih =>
    unfold State.linkRun
    split
    · exact h
    · exact ih (State.linkLeave_keeps h)

theorem State.serveLink_keeps {s₀ s : State} {x1} (h : Keeps km s₀ s) : Keeps km s₀ (State.serveLink s x1) := by
  unfold State.serveLink
  try lift_lets
  repeat' first
    | assumption | with_reducible apply State.linkRun_keeps

theorem State.linkSend_keeps {s₀ s : State} {x1 x2} (h : Keeps km s₀ s) : Keeps km s₀ (State.linkSend s x1 x2) := by
  unfold State.linkSend
  try lift_lets
  repeat' first
    | assumption | with_reducible apply State.modLink_keeps | with_reducible apply State.serveLink_keeps

theorem State.relayCount_keeps {s₀ s : State} {x1 x2 x3} (h : Keeps km s₀ s) : Keeps km s₀ (State.relayCount s x1 x2 x3) := by
  unfold State.relayCount
  repeat' first | assumption | with_reducible apply State.emit_keeps

theorem State.relayPut_keeps {s₀ s : State} {x1 x2 x3} (h : Keeps km s₀ s) : Keeps km s₀ (State.relayPut s x1 x2 x3) := by
  unfold State.relayPut
  try lift_lets
  repeat' first
    | (intro x; (have hx : Keeps km s₀ x := by (subst x; repeat' first | assumption | with_reducible apply State.relayCount_keeps | with_reducible apply State.emit_keeps)); clear_value x)
    | (intro x; subst x) | (with_reducible refine Keeps.setFab (by assumption) _ ?_) | with_reducible rfl

theorem State.relaySend_keeps {s₀ s : State} {x1 x2} (h : Keeps km s₀ s) : Keeps km s₀ (State.relaySend s x1 x2) := by
  unfold State.relaySend
  try lift_lets
  repeat' first
    | assumption | (intro x; subst x) | with_reducible apply State.relayPut_keeps | with_reducible apply Keeps.ite
    | (with_reducible refine Keeps.setFab (by assumption) _ ?_) | with_reducible rfl | split

theorem State.sendFabric_keeps {s₀ s : State} {x1 x2 x3 x4 x5 x6} (h : Keeps km s₀ s) : Keeps km s₀ (State.sendFabric s x1 x2 x3 x4 x5 x6) := by
  unfold State.sendFabric
  try lift_lets
  repeat' first
    | assumption
    | (intro x; (have hx : Keeps km s₀ x := by (subst x; repeat' first | assumption | (intro y; subst y) | with_reducible apply State.linkSend_keeps | with_reducible apply State.nextMsgId_keeps | with_reducible apply State.sendUdp_keeps | with_reducible apply State.cross_keeps | with_reducible apply State.relaySend_keeps | (with_reducible refine Keeps.foldl _ (fun t x ht => ?_) ?_) | (with_reducible refine Keeps.foldl_snd _ (fun t x ht => ?_) ?_) | with_reducible refine Keeps.of_snd ?_ (by assumption) | split | dsimp only)); clear_value x)
    | (intro x; (have hx : Keeps km s₀ x.2 := by (subst x; repeat' first | assumption | (intro y; subst y) | with_reducible apply State.linkSend_keeps | with_reducible apply State.nextMsgId_keeps | with_reducible apply State.sendUdp_keeps | with_reducible apply State.cross_keeps | with_reducible apply State.relaySend_keeps | (with_reducible refine Keeps.foldl _ (fun t x ht => ?_) ?_) | (with_reducible refine Keeps.foldl_snd _ (fun t x ht => ?_) ?_) | with_reducible refine Keeps.of_snd ?_ (by assumption) | split | dsimp only)); clear_value x)
    | (intro x; subst x)
    | with_reducible apply State.linkSend_keeps
    | with_reducible apply State.nextMsgId_keeps
    | with_reducible apply State.sendUdp_keeps
    | with_reducible apply State.cross_keeps
    | with_reducible apply State.relaySend_keeps
    | (with_reducible refine Keeps.foldl _ (fun t x ht => ?_) ?_)
    | (with_reducible refine Keeps.foldl_snd _ (fun t x ht => ?_) ?_)
    | with_reducible refine Keeps.of_snd ?_ (by assumption)
    | split
    | dsimp only

theorem State.putRequest_keeps {s₀ s : State} {x1 x2 x3 x4 x5 x6 x7 x8 x9 x10 x11 x12 x13 x14 x15} (h : Keeps km s₀ s) : Keeps km s₀ (State.putRequest s x1 x2 x3 x4 x5 x6 x7 x8 x9 x10 x11 x12 x13 x14 x15) := by
  unfold State.putRequest
  try lift_lets
  repeat' first
    | (intro x; (have hx : Keeps km s₀ x := by (subst x; repeat' first | assumption | with_reducible apply State.putRead_keeps)); clear_value x)
    | (intro x; subst x) | (with_reducible refine Keeps.setFab (by assumption) _ ?_) | with_reducible rfl

theorem State.putReadReq_keeps {s₀ s : State} {x1 x2 x3 x4 x5 x6 x7 x8 x9 x10} (h : Keeps km s₀ s) : Keeps km s₀ (State.putReadReq s x1 x2 x3 x4 x5 x6 x7 x8 x9 x10) := by
  unfold State.putReadReq
  try lift_lets
  repeat' first
    | assumption | with_reducible apply State.putRequest_keeps

theorem State.putPoolReq_keeps {s₀ s : State} {x1 x2 x3 x4 x5 x6 x7 x8 x9 x10 x11} (h : Keeps km s₀ s) : Keeps km s₀ (State.putPoolReq s x1 x2 x3 x4 x5 x6 x7 x8 x9 x10 x11) := by
  unfold State.putPoolReq
  try lift_lets
  repeat' first
    | assumption | with_reducible apply State.putRequest_keeps

theorem State.sendRequest_keeps {s₀ s : State} {x1 x2} (h : Keeps km s₀ s) : Keeps km s₀ (State.sendRequest s x1 x2) := by
  unfold State.sendRequest
  try lift_lets
  repeat' first
    | with_reducible apply State.sendFabric_keeps | (with_reducible refine Keeps.setFab (by assumption) _ ?_)
    | simp only [List.length_map, List.length_modify, List.length_set, List.length_mapIdx] | split

theorem State.modSheaf_keeps {s₀ s : State} {x1 x2} (h : Keeps km s₀ s) : Keeps km s₀ (State.modSheaf s x1 x2) := by
  unfold State.modSheaf
  try lift_lets
  repeat' first | (intro x; subst x) | (with_reducible refine Keeps.setDp (by assumption) _ ?_ ?_) | with_reducible rfl

theorem State.dropSheaf_keeps {s₀ s : State} {x1} (h : Keeps km s₀ s) : Keeps km s₀ (State.dropSheaf s x1) := by
  unfold State.dropSheaf
  try lift_lets
  repeat' first | (intro x; subst x) | (with_reducible refine Keeps.setDp (by assumption) _ ?_ ?_) | with_reducible rfl

theorem State.modSection_keeps {s₀ s : State} {x1 x2 x3} (h : Keeps km s₀ s) : Keeps km s₀ (State.modSection s x1 x2 x3) := by
  unfold State.modSection
  try lift_lets
  repeat' first | assumption | with_reducible apply State.modSheaf_keeps

theorem State.modSlot_keeps {s₀ s : State} {x1 x2 x3 x4} (h : Keeps km s₀ s) : Keeps km s₀ (State.modSlot s x1 x2 x3 x4) := by
  unfold State.modSlot
  try lift_lets
  repeat' first | assumption | with_reducible apply State.modSection_keeps

theorem State.dropReads_keeps {s₀ s : State} {x1} (h : Keeps km s₀ s) : Keeps km s₀ (State.dropReads s x1) := by
  unfold State.dropReads
  extract_lets gone
  exact h.set rfl rfl rfl rfl rfl rfl rfl rfl rfl rfl

theorem State.modCtx_keeps {s₀ s : State} {x1 x2} (h : Keeps km s₀ s) : Keeps km s₀ (State.modCtx s x1 x2) := by
  unfold State.modCtx
  try lift_lets
  repeat' first | (intro x; subst x) | (with_reducible refine Keeps.setDp (by assumption) _ ?_ ?_) | with_reducible rfl

theorem State.discardCrib_keeps {s₀ s : State} {x1 x2 x3} (h : Keeps km s₀ s) : Keeps km s₀ (State.discardCrib s x1 x2 x3) := by
  unfold State.discardCrib
  try lift_lets
  repeat' first | assumption | with_reducible apply State.modBay_keeps | with_reducible apply Keeps.ite

theorem State.cribTake_keeps {s₀ s : State} {x1 x2} (h : Keeps km s₀ s) : Keeps km s₀ (State.cribTake s x1 x2) := by
  unfold State.cribTake
  try lift_lets
  repeat' first
    | assumption | with_reducible apply State.discardCrib_keeps | with_reducible apply State.modCtx_keeps | split

theorem State.cribFree_keeps {s₀ s : State} {x1 x2} (h : Keeps km s₀ s) : Keeps km s₀ (State.cribFree s x1 x2) := by
  unfold State.cribFree
  try lift_lets
  repeat' first | assumption | with_reducible apply State.modCtx_keeps

theorem State.drrTakeAt_keeps {s₀ s : State} {x1 x2 x3} (h : Keeps km s₀ s) : Keeps km s₀ (State.drrTakeAt s x1 x2 x3) := by
  unfold State.drrTakeAt
  try lift_lets
  repeat' first
    | assumption
    | (intro x; (have hx : Keeps km s₀ x := by (subst x; repeat' first | assumption | (intro y; subst y) | with_reducible apply State.modBay_keeps | with_reducible apply Keeps.ite | split | dsimp only)); clear_value x)
    | (intro x; subst x)
    | with_reducible apply State.modBay_keeps
    | with_reducible apply Keeps.ite
    | split
    | dsimp only

theorem State.drrTake_keeps {s₀ s : State} {x1 x2} (h : Keeps km s₀ s) : Keeps km s₀ (State.drrTake s x1 x2) := by
  unfold State.drrTake
  try lift_lets
  repeat' first
    | assumption
    | with_reducible apply State.drrTakeAt_keeps
    | (with_reducible refine Keeps.foldl _ (fun t x ht => ?_) ?_)
    | (with_reducible refine Keeps.foldl_snd _ (fun t x ht => ?_) ?_)
    | dsimp only

theorem State.inBudget_keeps {s₀ s t : State} {b r} (h : Keeps km s₀ s) (k : Keeps km s₀ t) : Keeps km s₀ (s.inBudget b r t) :=
  Keeps.ite k h

theorem paced_keeps {s₀ s : State} {r c} {run : Ctx → State → Result} (hr : ∀ c t, Keeps km s₀ t → Keeps km s₀ (run c t).2)
    (h : Keeps km s₀ s) : Keeps km s₀ (paced r run c s).2 :=
  Keeps.ite_snd (hr c s h) (park_keeps h)

theorem State.slotTake_keeps {s₀ s : State} {x1} (h : Keeps km s₀ s) : Keeps km s₀ (State.slotTake s x1) := by
  unfold State.slotTake
  split
  · exact State.discardCrib_keeps h
  · split
    · exact Keeps.setDp (State.cribTake_keeps h) _ rfl rfl
    · exact h
  all_goals first
    | exact h
    | (split
       · exact Keeps.ite h (State.modSlot_keeps (State.cribTake_keeps h))
       · exact Keeps.ite h (State.modSlot_keeps (State.discardCrib_keeps h))
       · exact h)

theorem State.startRead_keeps {s₀ s : State} {x1 x2} (h : Keeps km s₀ s) : Keeps km s₀ (State.startRead s x1 x2) := by
  unfold State.startRead
  try lift_lets
  repeat' first
    | assumption
    | (intro x; (have hx : Keeps km s₀ x := by (subst x; repeat' first | with_reducible apply State.drrTake_keeps | with_reducible apply State.slotTake_keeps | with_reducible apply State.chargeAccess_keeps | (with_reducible refine Keeps.setDp (by assumption) _ ?_ ?_) | with_reducible rfl | split)); clear_value x)
    | (intro x; subst x) | with_reducible apply State.sendRequest_keeps | with_reducible apply State.withDebt_keeps
    | with_reducible apply Keeps.ite

theorem State.serveReads_keeps {s₀ s : State} {x0 x1} (h : Keeps km s₀ s) : Keeps km s₀ (State.serveReads x0 x1 s) := by
  induction x1 generalizing s with
  | zero => exact h
  | succ n ih =>
    unfold State.serveReads
    extract_lets ready rivals
    split
    · exact h
    · exact ih (State.startRead_keeps h)

theorem State.refetch_keeps {s₀ s : State} {x1 x2 x3 x4} (h : Keeps km s₀ s) : Keeps km s₀ (State.refetch s x1 x2 x3 x4) := by
  unfold State.refetch
  try lift_lets
  repeat' first
    | assumption
    | (intro x; (have hx : Keeps km s₀ x := by (subst x; repeat' first | assumption | (intro y; subst y) | with_reducible apply State.modSlot_keeps | with_reducible apply State.dropReads_keeps | with_reducible apply State.putRead_keeps | with_reducible apply Keeps.ite | (with_reducible refine Keeps.setDp (by assumption) _ ?_ ?_) | with_reducible rfl | simp only [List.length_map, List.length_modify, List.length_set, List.length_mapIdx] | split | dsimp only)); clear_value x)
    | (intro x; subst x)
    | with_reducible apply State.modSlot_keeps
    | with_reducible apply State.dropReads_keeps
    | with_reducible apply State.putRead_keeps
    | with_reducible apply Keeps.ite
    | (with_reducible refine Keeps.setDp (by assumption) _ ?_ ?_)
    | with_reducible rfl
    | simp only [List.length_map, List.length_modify, List.length_set, List.length_mapIdx]
    | split
    | dsimp only

theorem State.snoopWhere_keeps {s₀ s : State} {x1 x2 x3} (h : Keeps km s₀ s) : Keeps km s₀ (State.snoopWhere s x1 x2 x3) := by
  unfold State.snoopWhere
  try lift_lets
  repeat' first
    | assumption | with_reducible apply State.refetch_keeps | (with_reducible refine Keeps.foldl _ (fun t x ht => ?_) ?_)

theorem State.snoop_keeps {s₀ s : State} {x1 x2 x3} (h : Keeps km s₀ s) : Keeps km s₀ (State.snoop s x1 x2 x3) := by
  unfold State.snoop
  try lift_lets
  repeat' first
    | assumption | with_reducible apply State.snoopWhere_keeps

theorem State.snoopDefault_keeps {s₀ s : State} {x1 x2 x3} (h : Keeps km s₀ s) : Keeps km s₀ (State.snoopDefault s x1 x2 x3) := by
  unfold State.snoopDefault
  try lift_lets
  repeat' first
    | assumption | with_reducible apply State.snoopWhere_keeps

theorem State.rowCommitted_keeps {s₀ s : State} {x1 x2 x3} (h : Keeps km s₀ s) : Keeps km s₀ (State.rowCommitted s x1 x2 x3) := by
  unfold State.rowCommitted
  repeat' first
    | assumption | with_reducible apply State.snoop_keeps | with_reducible apply State.dropStaged_keeps
    | with_reducible apply State.dropCopies_keeps

theorem onTable_keeps {s₀ s : State} {c : Ctx} {off more} {k : Tab → Result} (h : Keeps km s₀ s) (hk : ∀ t, Keeps km s₀ (k t).2) :
    Keeps km s₀ (onTable c s off more k).2 := by
  unfold onTable
  split
  · exact Ctx.fields_keeps h h
  · exact Ctx.fields_keeps h (hk _)

theorem State.zeroRuns_keeps {s₀ s : State} {x1 x2} (h : Keeps false s₀ s) : Keeps false s₀ (State.zeroRuns s x1 x2) := by
  unfold State.zeroRuns
  repeat' first
    | assumption | with_reducible apply State.chargeAccess_keeps | with_reducible apply State.zero_keeps
    | (with_reducible refine Keeps.foldl _ (fun t x ht => ?_) ?_)

theorem State.allocBytes_keeps {s₀ s : State} {x1 x2} (h : Keeps false s₀ s) : KeepsOpt2 false s₀ (State.allocBytes s x1 x2) := by
  unfold State.allocBytes
  try lift_lets
  repeat' first
    | assumption | (intro x; subst x) | with_reducible apply State.zeroRuns_keeps | with_reducible apply State.modBay_keeps
    | with_reducible exact KeepsOpt2.none _ | with_reducible apply KeepsOpt2.some | split

theorem State.writeGranules_keeps {s₀ s : State} {x1 x2 x3} (h : Keeps false s₀ s) : Keeps false s₀ (State.writeGranules s x1 x2 x3) := by
  unfold State.writeGranules
  try lift_lets
  repeat' first
    | assumption
    | with_reducible apply State.write_keeps
    | with_reducible apply State.heal_keeps
    | (with_reducible refine Keeps.foldl _ (fun t x ht => ?_) ?_)
    | (with_reducible refine Keeps.foldl_snd _ (fun t x ht => ?_) ?_)
    | dsimp only

theorem State.allocSegment_keeps {s₀ s : State} {x1 x2 x3 x4 x5} (h : Keeps false s₀ s) : KeepsOpt2 false s₀ (State.allocSegment s x1 x2 x3 x4 x5) := by
  unfold State.allocSegment
  try lift_lets
  repeat' first
    | assumption
    | (intro x; (have hx : Keeps false s₀ x := by (subst x; repeat' first | assumption | (intro y; subst y) | with_reducible apply State.allocBytes_keeps | with_reducible apply State.writeGranules_keeps | with_reducible apply Keeps.ite | (with_reducible refine Keeps.foldl _ (fun t x ht => ?_) ?_) | (with_reducible refine Keeps.foldl_snd _ (fun t x ht => ?_) ?_) | with_reducible exact KeepsOpt2.none _ | with_reducible apply KeepsOpt2.some | with_reducible apply KeepsOpt2.ite | with_reducible refine Keeps.of_opt2 ?_ (by assumption) | split | dsimp only)); clear_value x)
    | (intro x; subst x)
    | with_reducible apply State.allocBytes_keeps
    | with_reducible apply State.writeGranules_keeps
    | with_reducible apply Keeps.ite
    | (with_reducible refine Keeps.foldl _ (fun t x ht => ?_) ?_)
    | (with_reducible refine Keeps.foldl_snd _ (fun t x ht => ?_) ?_)
    | with_reducible exact KeepsOpt2.none _
    | with_reducible apply KeepsOpt2.some
    | with_reducible apply KeepsOpt2.ite
    | with_reducible refine Keeps.of_opt2 ?_ (by assumption)
    | split
    | dsimp only

theorem State.allocDefault_keeps {s₀ s : State} {x1 x2} (h : Keeps false s₀ s) : KeepsOpt2 false s₀ (State.allocDefault s x1 x2) := by
  unfold State.allocDefault
  try lift_lets
  repeat' first
    | assumption | with_reducible apply State.allocRow_keeps | with_reducible apply State.setRow_keeps
    | with_reducible exact KeepsOpt2.none _ | with_reducible apply KeepsOpt2.some | with_reducible apply KeepsOpt2.ite
    | with_reducible refine Keeps.of_opt2 ?_ (by assumption) | split

theorem State.createTable_keeps {s₀ s : State} {x1 x2 x3 x4} (h : Keeps false s₀ s) : KeepsOpt false s₀ (State.createTable s x1 x2 x3 x4) := by
  unfold State.createTable
  try lift_lets
  repeat' first
    | assumption | (intro x; subst x) | with_reducible apply State.allocDefault_keeps
    | with_reducible apply State.allocSegment_keeps | with_reducible apply State.putTable_keeps
    | (with_reducible refine KeepsOpt2.foldl _ (fun t x ht => ?_) ?_) | with_reducible exact Keeps.of_some2 (by assumption)
    | with_reducible exact KeepsOpt.none _ | with_reducible apply KeepsOpt.some | with_reducible exact KeepsOpt2.none _
    | with_reducible apply KeepsOpt2.some | with_reducible refine Keeps.of_opt2 ?_ (by assumption) | split

theorem doTableCreate_keeps {s₀ s : State} {x0} (h : Keeps false s₀ s) : Keeps false s₀ (doTableCreate x0 s).2 := by
  unfold doTableCreate
  try lift_lets
  repeat' first
    | assumption | (intro x; subst x) | with_reducible apply State.createTable_keeps | with_reducible apply inOrder_keeps
    | with_reducible apply refuseIf_keeps | with_reducible apply Ctx.fields_keeps | with_reducible apply okWith_keeps
    | with_reducible refine Keeps.of_opt ?_ (by assumption) | split

theorem execTableCreate_keeps {s₀ s : State} {x0} (h : Keeps false s₀ s) : KeepsOut false s₀ (execTableCreate x0 s) := by
  exact runCommand_keeps (fun _ _ ht => paced_keeps (fun _ _ => doTableCreate_keeps) ht) h

theorem doTableDestroy_keeps {s₀ s : State} {x0} (h : Keeps km s₀ s) : Keeps km s₀ (doTableDestroy x0 s).2 := by
  unfold doTableDestroy
  try lift_lets
  repeat' first
    | assumption | with_reducible apply onTable_keeps | with_reducible apply spanned_keeps
    | with_reducible apply inOrder_keeps | with_reducible apply okWith_keeps | with_reducible apply State.putTable_keeps
    | (guard_target =~ ∀ _, _; intro _)

theorem execTableDestroy_keeps {s₀ s : State} {x0} (h : Keeps km s₀ s) : KeepsOut km s₀ (execTableDestroy x0 s) := by
  exact runCommand_keeps (fun _ _ ht => doTableDestroy_keeps ht) h

theorem doTableQuery_keeps {s₀ s : State} {x0} (h : Keeps km s₀ s) : Keeps km s₀ (doTableQuery x0 s).2 := by
  unfold doTableQuery
  try lift_lets
  repeat' first | assumption | with_reducible apply Ctx.fields_keeps | split

theorem execTableQuery_keeps {s₀ s : State} {x0} (h : Keeps km s₀ s) : KeepsOut km s₀ (execTableQuery x0 s) := by
  exact runCommand_keeps (fun _ _ ht => doTableQuery_keeps ht) h

theorem dirItem_keeps {s₀ s : State} {x0 x1 x2 x4} (h : Keeps false s₀ s) : Keeps false s₀ (dirItem x0 x1 x2 s x4).2 := by
  unfold dirItem
  try lift_lets
  repeat' first
    | assumption | (intro x; subst x) | with_reducible apply State.chargeEntry_keeps
    | with_reducible apply State.commitEntry_keeps | with_reducible apply State.freeEntry_keeps
    | with_reducible apply State.dropCopies_keeps | with_reducible apply Keeps.ite_snd | split

theorem eachItem_keeps {α : Type} {s₀ : State} {f : α → State → Status × State} (hf : ∀ a t, Keeps km s₀ t → Keeps km s₀ (f a t).2)
    (l : List α) {s : State} (h : Keeps km s₀ s) : Keeps km s₀ (eachItem f l s).2 := by
  induction l generalizing s with
  | nil => exact h
  | cons a l ih => exact ih (hf a s h)

theorem doDirWrite_keeps {s₀ s : State} {x0} (h : Keeps false s₀ s) : Keeps false s₀ (doDirWrite x0 s).2 := by
  unfold doDirWrite
  try lift_lets
  repeat' first
    | assumption | (intro x; subst x) | with_reducible apply dirItem_keeps | with_reducible apply onTable_keeps
    | with_reducible apply inOrder_keeps | with_reducible apply park_keeps | with_reducible apply okWith_keeps
    | with_reducible apply Keeps.ite_snd | (with_reducible refine eachItem_keeps (fun a t ht => ?_) _ ?_) | dsimp only
    | (guard_target =~ ∀ _, _; intro _)

theorem execDirWrite_keeps {s₀ s : State} {x0} (h : Keeps false s₀ s) : KeepsOut false s₀ (execDirWrite x0 s) := by
  exact runCommand_keeps (fun _ _ ht => paced_keeps (fun _ _ => doDirWrite_keeps) ht) h

theorem dirReadItem_keeps {s₀ s : State} {x0 x1 x3} (h : Keeps km s₀ s) : Keeps km s₀ (dirReadItem x0 x1 s x3).2 := by
  unfold dirReadItem
  try lift_lets
  repeat' first
    | assumption
    | (intro x; (have hx : Keeps km s₀ x := by (subst x; repeat' first | assumption | with_reducible apply State.chargeEntry_keeps)); clear_value x)
    | with_reducible apply State.siloBad_keeps | with_reducible apply Keeps.ite_snd | split

theorem eachRead_keeps {α β : Type} {s₀ : State} {f : α → State → β × State} (hf : ∀ a t, Keeps km s₀ t → Keeps km s₀ (f a t).2)
    (l : List α) {s : State} (h : Keeps km s₀ s) : Keeps km s₀ (eachRead f l s).2 := by
  induction l generalizing s with
  | nil => exact h
  | cons a l ih => exact ih (hf a s h)

theorem doDirRead_keeps {s₀ s : State} {x0} (h : Keeps km s₀ s) : Keeps km s₀ (doDirRead x0 s).2 := by
  unfold doDirRead
  try lift_lets
  repeat' first
    | assumption | with_reducible apply dirReadItem_keeps | with_reducible apply onTable_keeps
    | with_reducible apply okWith_keeps | (with_reducible refine eachRead_keeps (fun a t ht => ?_) _ ?_) | dsimp only
    | (guard_target =~ ∀ _, _; intro _)

theorem execDirRead_keeps {s₀ s : State} {x0} (h : Keeps km s₀ s) : KeepsOut km s₀ (execDirRead x0 s) := by
  exact runCommand_keeps (fun _ _ ht => paced_keeps (fun _ _ => doDirRead_keeps) ht) h

theorem State.rowWrite_keeps {s₀ s : State} {x1 x2 x3 x4 x5 x6 x7} (h : Keeps false s₀ s) : Keeps false s₀ (State.rowWrite s x1 x2 x3 x4 x5 x6 x7).2 := by
  unfold State.rowWrite
  try lift_lets
  repeat' first
    | assumption | (intro x; subst x) | with_reducible apply State.chargeEntry_keeps
    | with_reducible apply State.commitEntry_keeps | with_reducible apply State.allocRow_keeps
    | with_reducible apply State.freeEntry_keeps | with_reducible apply State.chargeAccess_keeps
    | with_reducible apply State.countSat_keeps | with_reducible apply State.rowCommitted_keeps
    | with_reducible apply State.setRow_keeps | with_reducible apply Keeps.ite | with_reducible apply Keeps.ite_snd
    | with_reducible refine Keeps.of_opt2 ?_ (by assumption) | split

theorem rowWriteItem_keeps {s₀ s : State} {x0 x1 x2 x4} (h : Keeps false s₀ s) : Keeps false s₀ (rowWriteItem x0 x1 x2 s x4).2 := by
  unfold rowWriteItem
  try lift_lets
  repeat' first | assumption | with_reducible apply State.rowWrite_keeps | with_reducible apply Keeps.ite_snd

theorem doRowWrite_keeps {s₀ s : State} {x0} (h : Keeps false s₀ s) : Keeps false s₀ (doRowWrite x0 s).2 := by
  unfold doRowWrite
  try lift_lets
  repeat' first
    | assumption | (intro x; subst x) | with_reducible apply rowWriteItem_keeps | with_reducible apply onTable_keeps
    | with_reducible apply takeSource_keeps | with_reducible apply inOrder_keeps | with_reducible apply park_keeps
    | with_reducible apply okWith_keeps | with_reducible apply Keeps.ite_snd
    | (with_reducible refine eachItem_keeps (fun a t ht => ?_) _ ?_) | with_reducible refine Keeps.of_snd ?_ (by assumption)
    | split | dsimp only | (guard_target =~ ∀ _, _; intro _)

theorem execRowWrite_keeps {s₀ s : State} {x0} (h : Keeps false s₀ s) : KeepsOut false s₀ (execRowWrite x0 s) := by
  exact runCommand_keeps (fun _ _ ht => paced_keeps (fun _ _ => doRowWrite_keeps) ht) h

theorem rowReadItem_keeps {s₀ s : State} {x0 x1 x2 x4} (h : Keeps km s₀ s) : Keeps km s₀ (rowReadItem x0 x1 x2 s x4).2 := by
  unfold rowReadItem
  try lift_lets
  repeat' first
    | assumption
    | (intro x; (have hx : Keeps km s₀ x := by (subst x; repeat' first | assumption | with_reducible apply State.chargeEntry_keeps)); clear_value x)
    | (intro x; subst x) | with_reducible apply State.reportBad_keeps | with_reducible apply State.siloBad_keeps
    | with_reducible apply State.chargeAccess_keeps | with_reducible apply Keeps.ite_snd | split

theorem doRowRead_keeps {s₀ s : State} {x0} (h : Keeps km s₀ s) : Keeps km s₀ (doRowRead x0 s).2 := by
  unfold doRowRead
  try lift_lets
  repeat' first
    | assumption | (intro x; subst x) | with_reducible apply rowReadItem_keeps | with_reducible apply onTable_keeps
    | with_reducible apply placeDest_keeps | with_reducible apply okWith_keeps
    | (with_reducible refine eachRead_keeps (fun a t ht => ?_) _ ?_) | split | dsimp only | (guard_target =~ ∀ _, _; intro _)

theorem execRowRead_keeps {s₀ s : State} {x0} (h : Keeps km s₀ s) : KeepsOut km s₀ (execRowRead x0 s) := by
  exact runCommand_keeps (fun _ _ ht => paced_keeps (fun _ _ => doRowRead_keeps) ht) h

theorem doDefaultRowSet_keeps {s₀ s : State} {x0} (h : Keeps false s₀ s) : Keeps false s₀ (doDefaultRowSet x0 s).2 := by
  unfold doDefaultRowSet
  try lift_lets
  repeat' first
    | assumption | with_reducible apply refuseIf_keeps | with_reducible apply onTable_keeps
    | with_reducible apply inOrder_keeps | with_reducible apply park_keeps | with_reducible apply spanned_keeps
    | with_reducible apply takeSource_keeps | with_reducible apply State.setRow_keeps
    | with_reducible apply State.chargeAccess_keeps | with_reducible apply okWith_keeps
    | with_reducible apply State.snoopDefault_keeps | with_reducible apply State.countSat_keeps
    | with_reducible refine Keeps.of_snd ?_ (by assumption) | split | (guard_target =~ ∀ _, _; intro _)

theorem execDefaultRowSet_keeps {s₀ s : State} {x0} (h : Keeps false s₀ s) : KeepsOut false s₀ (execDefaultRowSet x0 s) := by
  exact runCommand_keeps (fun _ _ ht => paced_keeps (fun _ _ => doDefaultRowSet_keeps) ht) h

theorem State.storeSnapshot_keeps {s₀ s : State} {x1 x2 x3} (h : Keeps false s₀ s) : Keeps false s₀ (State.storeSnapshot s x1 x2 x3) := by
  unfold State.storeSnapshot
  try lift_lets
  repeat' first
    | assumption | with_reducible apply State.write_keeps | with_reducible apply State.zero_keeps
    | (with_reducible refine Keeps.foldl _ (fun t x ht => ?_) ?_)

theorem State.snapshot_keeps {s₀ s : State} {x1 x2} (h : Keeps false s₀ s) : Keeps false s₀ (State.snapshot s x1 x2) := by
  unfold State.snapshot
  try lift_lets
  repeat' first
    | assumption | with_reducible apply State.modBay_keeps | with_reducible apply State.storeSnapshot_keeps
    | with_reducible apply State.chargeAccess_keeps

theorem doHeatSnapshot_keeps {s₀ s : State} {x0} (h : Keeps false s₀ s) : Keeps false s₀ (doHeatSnapshot x0 s).2 := by
  unfold doHeatSnapshot
  try lift_lets
  repeat' first
    | assumption | with_reducible apply Ctx.fields_keeps | with_reducible apply State.snapshot_keeps
    | with_reducible apply okWith_keeps

theorem execHeatSnapshot_keeps {s₀ s : State} {x0} (h : Keeps false s₀ s) : KeepsOut false s₀ (execHeatSnapshot x0 s) := by
  exact runCommand_keeps (fun _ _ ht => paced_keeps (fun _ _ => doHeatSnapshot_keeps) ht) h

theorem doHeatRead_keeps {s₀ s : State} {x0} (h : Keeps km s₀ s) : Keeps km s₀ (doHeatRead x0 s).2 := by
  unfold doHeatRead
  try lift_lets
  repeat' first
    | assumption | (intro x; subst x) | with_reducible apply refuseIf_keeps | with_reducible apply Ctx.fields_keeps

theorem execHeatRead_keeps {s₀ s : State} {x0} (h : Keeps km s₀ s) : KeepsOut km s₀ (execHeatRead x0 s) := by
  exact runCommand_keeps (fun _ _ ht => doHeatRead_keeps ht) h

theorem doHeatQuery_keeps {s₀ s : State} {x0} (h : Keeps km s₀ s) : Keeps km s₀ (doHeatQuery x0 s).2 := by
  unfold doHeatQuery
  try lift_lets
  repeat' first | assumption | (intro x; subst x) | with_reducible apply Ctx.fields_keeps

theorem execHeatQuery_keeps {s₀ s : State} {x0} (h : Keeps km s₀ s) : KeepsOut km s₀ (execHeatQuery x0 s) := by
  exact runCommand_keeps (fun _ _ ht => doHeatQuery_keeps ht) h

theorem State.allocPiece_keeps {s₀ : State} {x0 o x1} (h : KeepsOpt2 km s₀ o) : KeepsOpt2 km s₀ (State.allocPiece x0 o x1) := by
  unfold State.allocPiece
  split
  · exact KeepsOpt2.none _
  · split
    · exact KeepsOpt2.none _
    · next e => exact KeepsOpt2.some (Keeps.of_opt2 (State.allocRow_keeps (Keeps.of_some2 h)) e)

theorem State.allocPieces_keeps {s₀ s : State} {x1 x2} (h : Keeps km s₀ s) : KeepsOpt2 km s₀ (State.allocPieces s x1 x2) :=
  KeepsOpt2.foldl _ (fun _ _ ho => State.allocPiece_keeps ho) (KeepsOpt2.some h)

theorem State.fillRuns_keeps {s₀ s : State} {x0 x1 x2} (h : Keeps false s₀ s) : Keeps false s₀ (State.fillRuns x0 x1 x2 s) := by
  induction x1 generalizing s x2 with
  | nil => exact h
  | cons r rs ih => exact ih (State.chargeAccess_keeps (State.setRow_keeps h))

theorem State.placeSide_keeps {s₀ s : State} {x1 x2 x3 x4} (h : Keeps false s₀ s) : KeepsOpt2 false s₀ (State.placeSide s x1 x2 x3 x4) := by
  unfold State.placeSide
  extract_lets -lift +onlyGivenNames data
  refine KeepsOpt2.ite (KeepsOpt2.some h) ?_
  extract_lets -lift +onlyGivenNames n
  split
  · exact KeepsOpt2.none _
  · next e => exact KeepsOpt2.some (State.fillRuns_keeps (State.modBay_keeps (Keeps.of_opt2 (State.allocPieces_keeps h) e)))

theorem State.changePoint_keeps {s₀ s : State} {x1 x2 x3 x4} (h : Keeps false s₀ s) : KeepsOpt false s₀ (State.changePoint s x1 x2 x3 x4) := by
  unfold State.changePoint
  refine KeepsOpt.ite (KeepsOpt.some (State.putTable_keeps h)) ?_
  split
  · exact KeepsOpt.none _
  · next e =>
    have h1 := Keeps.of_opt2 (State.placeSide_keeps h) e
    extract_lets -lift +onlyGivenNames t'
    split
    · extract_lets -lift +onlyGivenNames vals
      generalize encodeRow _ _ = q
      obtain ⟨data, sat⟩ := q
      dsimp only
      split
      · exact KeepsOpt.none _
      · next e' =>
        exact KeepsOpt.some (State.countSat_keeps (State.putTable_keeps (State.modBay_keeps (State.setRow_keeps
          (Keeps.of_opt2 (State.allocRow_keeps h1) e')))))
    · exact KeepsOpt.some (State.putTable_keeps h1)

theorem putPoint_keeps {s₀ s : State} {x0 x2 x3 x4} (h : Keeps false s₀ s) : Keeps false s₀ (putPoint x0 s x2 x3 x4).2 := by
  unfold putPoint
  try lift_lets
  repeat' first
    | assumption | with_reducible apply State.changePoint_keeps | with_reducible apply spanned_keeps
    | with_reducible apply inOrder_keeps | with_reducible apply park_keeps | with_reducible apply okWith_keeps
    | with_reducible apply Keeps.ite_snd | with_reducible refine Keeps.of_opt ?_ (by assumption) | split

theorem onTarget_keeps {s₀ s : State} {c : Ctx} {n st more} {k : Tab → Result} (h : Keeps km s₀ s) (hk : ∀ t, Keeps km s₀ (k t).2) :
    Keeps km s₀ (onTarget c s n st more k).2 :=
  inOrder_keeps h (refuseIf_keeps h (onTable_keeps h hk))

theorem doQuantSetPolicy_keeps {s₀ s : State} {x0} (h : Keeps false s₀ s) : Keeps false s₀ (doQuantSetPolicy x0 s).2 := by
  unfold doQuantSetPolicy
  try lift_lets
  repeat' first
    | assumption | (intro x; subst x) | with_reducible apply onTarget_keeps | with_reducible apply putPoint_keeps
    | (guard_target =~ ∀ _, _; intro _)

theorem execQuantSetPolicy_keeps {s₀ s : State} {x0} (h : Keeps false s₀ s) : KeepsOut false s₀ (execQuantSetPolicy x0 s) := by
  exact runCommand_keeps (fun _ _ ht => paced_keeps (fun _ _ => doQuantSetPolicy_keeps) ht) h

theorem doQuantSetScales_keeps {s₀ s : State} {x0} (h : Keeps false s₀ s) : Keeps false s₀ (doQuantSetScales x0 s).2 := by
  unfold doQuantSetScales
  try lift_lets
  repeat' first
    | assumption | (intro x; subst x) | with_reducible apply onTarget_keeps | with_reducible apply putPoint_keeps
    | with_reducible apply takeSource_keeps | with_reducible apply fail_keeps
    | with_reducible refine Keeps.of_snd ?_ (by assumption) | split | dsimp only | (guard_target =~ ∀ _, _; intro _)

theorem execQuantSetScales_keeps {s₀ s : State} {x0} (h : Keeps false s₀ s) : KeepsOut false s₀ (execQuantSetScales x0 s) := by
  exact runCommand_keeps (fun _ _ ht => paced_keeps (fun _ _ => doQuantSetScales_keeps) ht) h

theorem doQuantSetCodebook_keeps {s₀ s : State} {x0} (h : Keeps false s₀ s) : Keeps false s₀ (doQuantSetCodebook x0 s).2 := by
  unfold doQuantSetCodebook
  try lift_lets
  repeat' first
    | assumption | (intro x; subst x) | with_reducible apply onTarget_keeps | with_reducible apply putPoint_keeps
    | with_reducible apply takeSource_keeps | with_reducible apply fail_keeps
    | with_reducible refine Keeps.of_snd ?_ (by assumption) | split | dsimp only | (guard_target =~ ∀ _, _; intro _)

theorem execQuantSetCodebook_keeps {s₀ s : State} {x0} (h : Keeps false s₀ s) : KeepsOut false s₀ (execQuantSetCodebook x0 s) := by
  exact runCommand_keeps (fun _ _ ht => paced_keeps (fun _ _ => doQuantSetCodebook_keeps) ht) h

theorem doQuantSetSplit_keeps {s₀ s : State} {x0} (h : Keeps false s₀ s) : Keeps false s₀ (doQuantSetSplit x0 s).2 := by
  unfold doQuantSetSplit
  try lift_lets
  repeat' first
    | assumption | (intro x; subst x) | with_reducible apply onTarget_keeps | with_reducible apply putPoint_keeps | dsimp only
    | (guard_target =~ ∀ _, _; intro _)

theorem execQuantSetSplit_keeps {s₀ s : State} {x0} (h : Keeps false s₀ s) : KeepsOut false s₀ (execQuantSetSplit x0 s) := by
  exact runCommand_keeps (fun _ _ ht => paced_keeps (fun _ _ => doQuantSetSplit_keeps) ht) h

theorem doQuantGetScales_keeps {s₀ s : State} {x0} (h : Keeps km s₀ s) : Keeps km s₀ (doQuantGetScales x0 s).2 := by
  unfold doQuantGetScales
  try lift_lets
  repeat' first
    | assumption | (intro x; subst x) | with_reducible apply onTable_keeps | with_reducible apply placeDest_keeps
    | with_reducible apply okWith_keeps | split | dsimp only | (guard_target =~ ∀ _, _; intro _)

theorem execQuantGetScales_keeps {s₀ s : State} {x0} (h : Keeps km s₀ s) : KeepsOut km s₀ (execQuantGetScales x0 s) := by
  exact runCommand_keeps (fun _ _ ht => doQuantGetScales_keeps ht) h

theorem doQuantReadSat_keeps {s₀ s : State} {x0} (h : Keeps km s₀ s) : Keeps km s₀ (doQuantReadSat x0 s).2 := by
  unfold doQuantReadSat
  try lift_lets
  repeat' first
    | assumption | (intro x; subst x) | with_reducible apply onTable_keeps | with_reducible apply okWith_keeps
    | with_reducible apply State.putTable_keeps | split | dsimp only | (guard_target =~ ∀ _, _; intro _)

theorem execQuantReadSat_keeps {s₀ s : State} {x0} (h : Keeps km s₀ s) : KeepsOut km s₀ (execQuantReadSat x0 s) := by
  exact runCommand_keeps (fun _ _ ht => doQuantReadSat_keeps ht) h

theorem State.closeEpochs_keeps {s₀ s : State} {x1 x2} (h : Keeps km s₀ s) : Keeps km s₀ (State.closeEpochs s x1 x2) := by
  unfold State.closeEpochs
  try lift_lets
  repeat' first | assumption | with_reducible apply State.putTable_keeps | split

theorem State.release_keeps {s₀ s : State} {x1} (h : Keeps km s₀ s) : Keeps km s₀ (State.release s x1) := by
  unfold State.release
  try lift_lets
  repeat' first | assumption | with_reducible apply State.modSheaf_keeps | with_reducible apply Keeps.ite | split

theorem State.releaseAll_keeps {s₀ s : State} {x1} (h : Keeps km s₀ s) : Keeps km s₀ (State.releaseAll s x1) := by
  unfold State.releaseAll
  try lift_lets
  repeat' first
    | assumption | with_reducible apply State.release_keeps | (with_reducible refine Keeps.foldl _ (fun t x ht => ?_) ?_)
    | split

theorem doLedgerQuery_keeps {s₀ s : State} {x0} (h : Keeps km s₀ s) : Keeps km s₀ (doLedgerQuery x0 s).2 := by
  unfold doLedgerQuery
  try lift_lets
  repeat' first
    | assumption | (intro x; subst x) | with_reducible apply Ctx.fields_keeps | with_reducible apply Keeps.ite_snd | split

theorem execLedgerQuery_keeps {s₀ s : State} {x0} (h : Keeps km s₀ s) : KeepsOut km s₀ (execLedgerQuery x0 s) := by
  exact runCommand_keeps (fun _ _ ht => doLedgerQuery_keeps ht) h

theorem doLedgerSkip_keeps {s₀ s : State} {x0} (h : Keeps km s₀ s) : Keeps km s₀ (doLedgerSkip x0 s).2 := by
  unfold doLedgerSkip
  try lift_lets
  repeat' first
    | assumption | (intro x; subst x) | with_reducible apply State.releaseAll_keeps | with_reducible apply refuseIf_keeps
    | with_reducible apply Ctx.fields_keeps | with_reducible apply okWith_keeps | with_reducible apply State.modSession_keeps
    | split

theorem execLedgerSkip_keeps {s₀ s : State} {x0} (h : Keeps km s₀ s) : KeepsOut km s₀ (execLedgerSkip x0 s) := by
  exact runCommand_keeps (fun _ _ ht => doLedgerSkip_keeps ht) h

theorem doLedgerConfig_keeps {s₀ s : State} {x0} (h : Keeps km s₀ s) : Keeps km s₀ (doLedgerConfig x0 s).2 := by
  unfold doLedgerConfig
  try lift_lets
  repeat' first
    | assumption
    | (intro x; (have hx : Keeps km s₀ x := by (subst x; repeat' first | assumption | with_reducible apply State.modBay_keeps | with_reducible apply Keeps.ite)); clear_value x)
    | (intro x; subst x) | with_reducible apply Ctx.fields_keeps | with_reducible apply okWith_keeps
    | with_reducible apply State.modBay_keeps | with_reducible apply Keeps.ite_snd | split

theorem execLedgerConfig_keeps {s₀ s : State} {x0} (h : Keeps km s₀ s) : KeepsOut km s₀ (execLedgerConfig x0 s) := by
  exact runCommand_keeps (fun _ _ ht => doLedgerConfig_keeps ht) h

theorem State.remakeState_keeps {s₀ s : State} {x1 x2 x3} (h : Keeps false s₀ s) : KeepsOpt2 false s₀ (State.remakeState s x1 x2 x3) := by
  unfold State.remakeState
  extract_lets n s1 z segs
  have h1 : Keeps false s₀ s1 := State.modBay_keeps h
  clear_value s1
  have h2 : KeepsOpt2 false s₀ segs := by
    refine KeepsOpt2.foldl _ (fun o g ho => ?_) (KeepsOpt2.some h1)
    split
    · exact KeepsOpt2.none _
    · have k := Keeps.of_some2 ho
      refine KeepsOpt2.ite (KeepsOpt2.some k) ?_
      split
      · exact KeepsOpt2.none _
      · next e =>
        exact KeepsOpt2.some (Keeps.foldl _ (fun _ _ q => State.writeGranules_keeps q) (Keeps.of_opt2 (State.allocBytes_keeps k) e))
  clear_value segs
  split
  · exact KeepsOpt2.none _
  · have k := Keeps.of_some2 h2
    refine KeepsOpt2.ite (KeepsOpt2.some k) ?_
    split
    · exact KeepsOpt2.none _
    · next e => exact KeepsOpt2.some (State.setRow_keeps (Keeps.of_opt2 (State.allocRow_keeps k) e))

theorem doOptSet_keeps {s₀ s : State} {x0} (h : Keeps false s₀ s) : Keeps false s₀ (doOptSet x0 s).2 := by
  unfold doOptSet
  try lift_lets
  repeat' first
    | assumption | (intro x; subst x) | with_reducible apply State.remakeState_keeps | with_reducible apply onTable_keeps
    | with_reducible apply spanned_keeps | with_reducible apply inOrder_keeps | with_reducible apply okWith_keeps
    | with_reducible apply State.putTable_keeps | with_reducible apply Keeps.ite_snd
    | with_reducible refine Keeps.of_opt2 ?_ (by assumption) | split | (guard_target =~ ∀ _, _; intro _)

theorem execOptSet_keeps {s₀ s : State} {x0} (h : Keeps false s₀ s) : KeepsOut false s₀ (execOptSet x0 s) := by
  exact runCommand_keeps (fun _ _ ht => paced_keeps (fun _ _ => doOptSet_keeps) ht) h

theorem doOptGet_keeps {s₀ s : State} {x0} (h : Keeps km s₀ s) : Keeps km s₀ (doOptGet x0 s).2 := by
  unfold doOptGet
  repeat' first | assumption | with_reducible apply onTable_keeps | (guard_target =~ ∀ _, _; intro _)

theorem execOptGet_keeps {s₀ s : State} {x0} (h : Keeps km s₀ s) : KeepsOut km s₀ (execOptGet x0 s) := by
  exact runCommand_keeps (fun _ _ ht => doOptGet_keeps ht) h

theorem doEpochQuery_keeps {s₀ s : State} {x0} (h : Keeps km s₀ s) : Keeps km s₀ (doEpochQuery x0 s).2 := by
  unfold doEpochQuery
  try lift_lets
  repeat' first | assumption | (intro x; subst x) | with_reducible apply Ctx.fields_keeps

theorem execEpochQuery_keeps {s₀ s : State} {x0} (h : Keeps km s₀ s) : KeepsOut km s₀ (execEpochQuery x0 s) := by
  exact runCommand_keeps (fun _ _ ht => doEpochQuery_keeps ht) h

theorem doPoolSet_keeps {s₀ s : State} {x0} (h : Keeps km s₀ s) : Keeps km s₀ (doPoolSet x0 s).2 := by
  unfold doPoolSet
  try lift_lets
  repeat' first
    | assumption | (intro x; subst x) | with_reducible apply onTable_keeps | with_reducible apply spanned_keeps
    | with_reducible apply inOrder_keeps | with_reducible apply okWith_keeps | with_reducible apply State.putTable_keeps
    | (guard_target =~ ∀ _, _; intro _)

theorem execPoolSet_keeps {s₀ s : State} {x0} (h : Keeps km s₀ s) : KeepsOut km s₀ (execPoolSet x0 s) := by
  exact runCommand_keeps (fun _ _ ht => doPoolSet_keeps ht) h

theorem doPoolGet_keeps {s₀ s : State} {x0} (h : Keeps km s₀ s) : Keeps km s₀ (doPoolGet x0 s).2 := by
  unfold doPoolGet
  repeat' first | assumption | with_reducible apply onTable_keeps | (guard_target =~ ∀ _, _; intro _)

theorem execPoolGet_keeps {s₀ s : State} {x0} (h : Keeps km s₀ s) : KeepsOut km s₀ (execPoolGet x0 s) := by
  exact runCommand_keeps (fun _ _ ht => doPoolGet_keeps ht) h

theorem State.stopContexts_keeps {s₀ s : State} {x1 x2} (h : Keeps km s₀ s) : Keeps km s₀ (State.stopContexts s x1 x2) := by
  unfold State.stopContexts
  try lift_lets
  repeat' first
    | with_reducible apply State.dropReads_keeps | with_reducible apply Keeps.ite
    | (with_reducible refine Keeps.setDp (by assumption) _ ?_ ?_) | with_reducible rfl

end Sys2Proof.Machine
end

