-- ==== Sys2Proof/Laws/KeepsMoves.lean ====
section
/-! SUPPORT. What each operation keeps: moves, the hot set, flails and rebuilds. -/

set_option maxRecDepth 4000
set_option Elab.async false
set_option linter.unusedSimpArgs false

namespace Sys2Proof.Machine

variable {km : Bool}

theorem State.modHot_keeps {s₀ s : State} {x1 x2 x3} (h : Keeps km s₀ s) : Keeps km s₀ (State.modHot s x1 x2 x3) := by
  unfold State.modHot
  try lift_lets
  repeat' first | assumption | with_reducible apply State.modBay_keeps

theorem State.countItem_keeps {s₀ s : State} {x1 x2} (h : Keeps km s₀ s) : Keeps km s₀ (State.countItem s x1 x2) := by
  unfold State.countItem
  try lift_lets
  repeat' first | assumption | with_reducible apply State.modJob_keeps

theorem State.moveItems_keeps {s₀ s : State} {x0 x1} (h : Keeps km s₀ s) : Keeps km s₀ (State.moveItems x0 x1 s) := by
  induction x0 generalizing s with
  | zero => exact h
  | succ f ih =>
    unfold State.moveItems
    split
    · exact h
    · split
      · exact State.endJob_keeps h
      · refine Keeps.ite h ?_
        split
        · exact ih (State.countItem_keeps h)
        · split
          · exact h
          · exact State.toFlail_keeps (State.modJob_keeps h)

theorem State.moveNext_keeps {s₀ s : State} {x1} (h : Keeps km s₀ s) : Keeps km s₀ (State.moveNext s x1) := by
  unfold State.moveNext
  try lift_lets
  repeat' first | assumption | with_reducible apply State.moveItems_keeps | split

theorem State.moveTake_keeps {s₀ s : State} {x1} (h : Keeps false s₀ s) : Keeps false s₀ (State.moveTake s x1).2 := by
  have next (k : Nat) : Keeps false s₀ ((s.countItem x1 k).moveNext x1) := State.moveNext_keeps (State.countItem_keeps h)
  unfold State.moveTake
  split
  · exact h
  · split
    · exact h
    · split
      · exact next _
      · exact next _
      · split
        · exact next _
        · extract_lets -lift +onlyGivenNames g read
          have hr (t : State) (die space addr half : Nat) (ht : Keeps false s₀ t) : Keeps false s₀ (read t die space addr half).2 :=
            State.putRead_keeps ht
          clear_value read
          split
          · split
            · exact next _
            · next e =>
              exact hr _ _ _ _ _ (State.modJob_keeps (State.chargeEntry_keeps (State.commitEntry_keeps
                (Keeps.of_opt2 (State.allocRow_keeps h) e))))
          · dsimp only
            split
            · exact next _
            · split <;> exact hr _ _ _ _ _ (State.modJob_keeps h)
          · refine Keeps.ite_snd ?_ ?_
            · split
              · exact next _
              · exact hr _ _ _ _ _ (State.modJob_keeps h)
            · split
              · exact next _
              · next e => exact hr _ _ _ _ _ (State.modJob_keeps (Keeps.of_opt2 (State.allocRow_keeps h) e))

theorem State.moveRead_keeps {s₀ s : State} {x1 x2 x3} (h : Keeps false s₀ s) : Keeps false s₀ (State.moveRead s x1 x2 x3).2 := by
  unfold State.moveRead
  try lift_lets
  repeat' first
    | assumption | with_reducible apply State.moveNext_keeps | with_reducible apply State.countItem_keeps
    | with_reducible apply State.modJob_keeps | with_reducible apply State.chargeEntry_keeps
    | with_reducible apply State.commitEntry_keeps | with_reducible apply State.chargeAccess_keeps
    | with_reducible apply State.issueWrite_keeps | with_reducible apply State.raise_keeps
    | with_reducible apply State.modBay_keeps | with_reducible apply Keeps.ite_snd | split

theorem State.recordCopy_keeps {s₀ s : State} {x1 x2 x3 x4} (h : Keeps km s₀ s) : Keeps km s₀ (State.recordCopy s x1 x2 x3 x4) := by
  unfold State.recordCopy
  try lift_lets
  repeat' first
    | assumption | (intro x; subst x) | with_reducible apply State.modHot_keeps | with_reducible apply State.modJob_keeps
    | split

theorem State.writeHomes_keeps {s₀ s : State} {x1 x2 x3} (h : Keeps false s₀ s) : Keeps false s₀ (State.writeHomes s x1 x2 x3) := by
  unfold State.writeHomes
  repeat' first
    | assumption | with_reducible apply State.heal_keeps | with_reducible apply State.write_keeps
    | (with_reducible refine Keeps.foldl _ (fun t x ht => ?_) ?_)

theorem State.moveWritten_keeps {s₀ s : State} {x1} (h : Keeps false s₀ s) : Keeps false s₀ (State.moveWritten s x1) := by
  unfold State.moveWritten
  try lift_lets
  repeat' first
    | assumption | with_reducible apply State.writeHomes_keeps | with_reducible apply State.recordCopy_keeps
    | with_reducible apply State.moveNext_keeps | with_reducible apply State.countItem_keeps
    | with_reducible apply State.modHot_keeps | with_reducible apply State.chargeEntry_keeps
    | with_reducible apply State.commitEntry_keeps | with_reducible apply State.freeEntry_keeps
    | with_reducible apply State.countSat_keeps | with_reducible apply State.rowCommitted_keeps
    | with_reducible apply State.dropStaged_keeps | with_reducible apply State.setRow_keeps
    | with_reducible apply State.heal_keeps | with_reducible apply State.write_keeps | with_reducible apply Keeps.ite | split
    | dsimp only

theorem State.dropOn_keeps {s₀ s : State} {x1 x2} (h : Keeps km s₀ s) : Keeps km s₀ (State.dropOn s x1 x2) := by
  unfold State.dropOn
  try lift_lets
  repeat' first
    | assumption
    | (intro x; (have hx : Keeps km s₀ x := by (subst x; repeat' first | assumption | with_reducible apply State.modHot_keeps)); clear_value x)
    | (intro x; subst x) | with_reducible apply State.modJob_keeps

theorem State.dropStep_keeps {s₀ s : State} {x1} (h : Keeps km s₀ s) : Keeps km s₀ (State.dropStep s x1) := by
  unfold State.dropStep
  try lift_lets
  repeat' first
    | assumption
    | (intro x; (have hx : Keeps km s₀ x := by (subst x; repeat' first | assumption | with_reducible apply State.dropOn_keeps | with_reducible apply Keeps.ite | (with_reducible refine Keeps.foldl _ (fun t x ht => ?_) ?_) | split)); clear_value x)
    | with_reducible apply State.endJob_keeps | with_reducible apply Keeps.ite | split

theorem State.restartRefresh_keeps {s₀ s : State} {x1} (h : Keeps km s₀ s) : Keeps km s₀ (State.restartRefresh s x1) := by
  unfold State.restartRefresh
  try lift_lets
  repeat' first | assumption | with_reducible apply State.modBay_keeps

theorem State.swapNow_keeps {s₀ s : State} {x1} (h : Keeps km s₀ s) : Keeps km s₀ (State.swapNow s x1) := by
  unfold State.swapNow
  try lift_lets
  repeat' first
    | assumption
    | (intro x; (have hx : Keeps km s₀ x := by (subst x; repeat' first | assumption | with_reducible apply State.restartRefresh_keeps | with_reducible apply State.modHot_keeps | (with_reducible refine Keeps.foldl _ (fun t x ht => ?_) ?_))); clear_value x)
    | (intro x; subst x) | with_reducible apply State.endJob_keeps | with_reducible apply Keeps.ite

theorem State.hotStep_keeps {s₀ s : State} {x1} (h : Keeps km s₀ s) : Keeps km s₀ (State.hotStep s x1) := by
  unfold State.hotStep
  try lift_lets
  repeat' first
    | assumption | with_reducible apply State.swapNow_keeps | with_reducible apply State.dropStep_keeps
    | with_reducible apply State.moveNext_keeps | with_reducible apply Keeps.ite | split

theorem State.hotPoll_keeps {s₀ s : State} {x1} (h : Keeps km s₀ s) : Keeps km s₀ (State.hotPoll s x1) := by
  unfold State.hotPoll
  repeat' first
    | assumption | with_reducible apply State.hotStep_keeps | (with_reducible refine Keeps.foldl _ (fun t x ht => ?_) ?_)

theorem doHotsetPut_keeps {s₀ s : State} {x0} (h : Keeps km s₀ s) : Keeps km s₀ (doHotsetPut x0 s).2 := by
  unfold doHotsetPut
  try lift_lets
  repeat' first
    | assumption | (intro x; subst x) | with_reducible apply State.hotPoll_keeps | with_reducible apply State.startJob_keeps
    | with_reducible apply Ctx.fields_keeps

theorem execHotsetPut_keeps {s₀ s : State} {x0} (h : Keeps km s₀ s) : KeepsOut km s₀ (execHotsetPut x0 s) := by
  exact runCommand_keeps (fun _ _ ht => doHotsetPut_keeps ht) h

theorem doHotsetDrop_keeps {s₀ s : State} {x0} (h : Keeps km s₀ s) : Keeps km s₀ (doHotsetDrop x0 s).2 := by
  unfold doHotsetDrop
  try lift_lets
  repeat' first
    | assumption | (intro x; subst x) | with_reducible apply State.hotPoll_keeps | with_reducible apply State.modJob_keeps
    | with_reducible apply State.startJob_keeps | with_reducible apply Ctx.fields_keeps

theorem execHotsetDrop_keeps {s₀ s : State} {x0} (h : Keeps km s₀ s) : KeepsOut km s₀ (execHotsetDrop x0 s) := by
  exact runCommand_keeps (fun _ _ ht => doHotsetDrop_keeps ht) h

theorem doHotsetSwap_keeps {s₀ s : State} {x0} (h : Keeps km s₀ s) : Keeps km s₀ (doHotsetSwap x0 s).2 := by
  unfold doHotsetSwap
  try lift_lets
  repeat' first
    | assumption | with_reducible apply State.hotPoll_keeps | with_reducible apply State.modJob_keeps
    | with_reducible apply State.startJob_keeps | with_reducible apply Ctx.fields_keeps

theorem execHotsetSwap_keeps {s₀ s : State} {x0} (h : Keeps km s₀ s) : KeepsOut km s₀ (execHotsetSwap x0 s) := by
  exact runCommand_keeps (fun _ _ ht => doHotsetSwap_keeps ht) h

theorem doHotsetQuery_keeps {s₀ s : State} {x0} (h : Keeps km s₀ s) : Keeps km s₀ (doHotsetQuery x0 s).2 := by
  unfold doHotsetQuery
  try lift_lets
  repeat' assumption

theorem execHotsetQuery_keeps {s₀ s : State} {x0} (h : Keeps km s₀ s) : KeepsOut km s₀ (execHotsetQuery x0 s) := by
  exact runCommand_keeps (fun _ _ ht => doHotsetQuery_keeps ht) h

theorem doHotsetHome_keeps {s₀ s : State} {x0} (h : Keeps km s₀ s) : Keeps km s₀ (doHotsetHome x0 s).2 := by
  unfold doHotsetHome
  try lift_lets
  repeat' first
    | assumption | (intro x; subst x) | with_reducible apply State.moveNext_keeps | with_reducible apply State.startJob_keeps
    | with_reducible apply Ctx.fields_keeps

theorem execHotsetHome_keeps {s₀ s : State} {x0} (h : Keeps km s₀ s) : KeepsOut km s₀ (execHotsetHome x0 s) := by
  exact runCommand_keeps (fun _ _ ht => doHotsetHome_keeps ht) h

theorem doHotsetConfig_keeps {s₀ s : State} {x0} (h : Keeps km s₀ s) : Keeps km s₀ (doHotsetConfig x0 s).2 := by
  unfold doHotsetConfig
  try lift_lets
  repeat' first
    | assumption
    | (intro x; (have hx : Keeps km s₀ x := by (subst x; repeat' first | assumption | with_reducible apply State.modBay_keeps)); clear_value x)
    | (intro x; subst x) | with_reducible apply State.restartRefresh_keeps | with_reducible apply Ctx.fields_keeps
    | with_reducible apply okWith_keeps

theorem execHotsetConfig_keeps {s₀ s : State} {x0} (h : Keeps km s₀ s) : KeepsOut km s₀ (execHotsetConfig x0 s) := by
  exact runCommand_keeps (fun _ _ ht => doHotsetConfig_keeps ht) h

theorem doRunaheadConfig_keeps {s₀ s : State} {x0} (h : Keeps km s₀ s) : Keeps km s₀ (doRunaheadConfig x0 s).2 := by
  unfold doRunaheadConfig
  try lift_lets
  repeat' first
    | assumption | (intro x; subst x) | with_reducible apply Ctx.fields_keeps | with_reducible apply okWith_keeps
    | with_reducible apply State.modBay_keeps

theorem execRunaheadConfig_keeps {s₀ s : State} {x0} (h : Keeps km s₀ s) : KeepsOut km s₀ (execRunaheadConfig x0 s) := by
  exact runCommand_keeps (fun _ _ ht => doRunaheadConfig_keeps ht) h

theorem doStageQuery_keeps {s₀ s : State} {x0} (h : Keeps km s₀ s) : Keeps km s₀ (doStageQuery x0 s).2 := by
  unfold doStageQuery
  repeat' assumption

theorem execStageQuery_keeps {s₀ s : State} {x0} (h : Keeps km s₀ s) : KeepsOut km s₀ (execStageQuery x0 s) := by
  exact runCommand_keeps (fun _ _ ht => doStageQuery_keeps ht) h

theorem execHalfRetired_keeps {s₀ s : State} {x0 x1} (h : Keeps km s₀ s) : KeepsOut km s₀ (execHalfRetired x0 x1 s) := by
  unfold execHalfRetired
  try lift_lets
  repeat' first
    | assumption
    | (intro x; (have hx : Keeps km s₀ x := by (subst x; repeat' first | assumption | with_reducible apply State.modHot_keeps)); clear_value x)
    | with_reducible apply State.hotPoll_keeps | with_reducible apply Keeps.ite | with_reducible apply KeepsOut.next
    | with_reducible exact KeepsOut.fault _ _ | with_reducible apply KeepsOut.ite

theorem execHotsetRefreshDue_keeps {s₀ s : State} {x0} (h : Keeps false s₀ s) : KeepsOut false s₀ (execHotsetRefreshDue x0 s) := by
  unfold execHotsetRefreshDue
  try lift_lets
  repeat' first
    | assumption | with_reducible apply State.modBay_keeps | with_reducible apply State.raise_keeps
    | with_reducible apply State.snapshot_keeps | with_reducible apply KeepsOut.next
    | with_reducible exact KeepsOut.fault _ _ | split

theorem State.opDone_keeps {s₀ s : State} {x1 x2 x3} (h : Keeps km s₀ s) : Keeps km s₀ (State.opDone s x1 x2 x3) := by
  unfold State.opDone
  try lift_lets
  repeat' first
    | assumption | with_reducible apply State.modSheaf_keeps
    | (with_reducible refine Keeps.setFab (by first | assumption | with_reducible exact State.modSheaf_keeps (by assumption)) _ ?_)
    | with_reducible rfl | split | dsimp only

theorem State.countDiscarded_keeps {s₀ s : State} {x1 x2 x3} (h : Keeps km s₀ s) : Keeps km s₀ (State.countDiscarded s x1 x2 x3) := by
  unfold State.countDiscarded
  try lift_lets
  repeat' first | assumption | with_reducible apply State.modTable_keeps

theorem State.beginOp_keeps {s₀ s : State} {x1 x2} (h : Keeps false s₀ s) : Keeps false s₀ (State.beginOp s x1 x2).2 := by
  unfold State.beginOp
  try lift_lets
  repeat' first
    | assumption | with_reducible apply State.countDiscarded_keeps | with_reducible apply State.opDone_keeps
    | with_reducible apply State.moveTake_keeps | with_reducible apply State.putFlail_keeps
    | with_reducible apply State.chargeEntry_keeps | with_reducible apply State.chargeAccess_keeps
    | with_reducible apply Keeps.ite | with_reducible apply Keeps.ite_snd | split

theorem releaseAux_keeps {s₀ s : State} {x0 x1 x2} (h : Keeps false s₀ s) : Keeps false s₀ (releaseAux x0 x1 x2 s) := by
  induction x0 generalizing s with
  | zero => exact h
  | succ f ih =>
    unfold releaseAux
    extract_lets -lift +onlyGivenNames fl
    split
    · exact h
    · next e _ =>
      show Keeps false s₀ (match e.waiters with
        | [] => _
        | w :: ws => _)
      cases e.waiters with
      | nil => exact State.putFlail_keeps h
      | cons w ws =>
        dsimp only
        refine Keeps.ite (State.putFlail_keeps (State.putFlail_keeps h)) ?_
        have h4 (g : Flail) := State.beginOp_keeps (x1 := x1) (x2 := w) (State.putFlail_keeps (x1 := g) h)
        exact Keeps.ite (h4 _) (ih (h4 _))

theorem State.releaseRow_keeps {s₀ s : State} {x1 x2} (h : Keeps false s₀ s) : Keeps false s₀ (State.releaseRow s x1 x2) := by
  unfold State.releaseRow
  try lift_lets
  repeat' first | assumption | (intro x; subst x) | with_reducible apply releaseAux_keeps

theorem State.releaseMove_keeps {s₀ s : State} {x1 x2 x3} (h : Keeps false s₀ s) : Keeps false s₀ (State.releaseMove s x1 x2 x3) := by
  unfold State.releaseMove
  try lift_lets
  repeat' first | assumption | with_reducible apply State.releaseRow_keeps | with_reducible apply State.hotPoll_keeps | split

theorem State.takeHead_keeps {s₀ s : State} {x1} (h : Keeps false s₀ s) : Keeps false s₀ (State.takeHead s x1) := by
  unfold State.takeHead
  try lift_lets
  repeat' first
    | assumption | (intro x; subst x) | with_reducible apply State.releaseRow_keeps | with_reducible apply State.beginOp_keeps
    | with_reducible apply State.hotPoll_keeps | with_reducible apply State.putFlail_keeps | with_reducible apply Keeps.ite
    | split | dsimp only

theorem execFlailTake_keeps {s₀ s : State} {x0} (h : Keeps false s₀ s) : KeepsOut false s₀ (execFlailTake x0 s) := by
  unfold execFlailTake
  repeat' first
    | assumption | with_reducible apply State.takeHead_keeps | with_reducible apply KeepsOut.next
    | with_reducible exact KeepsOut.fault _ _ | with_reducible apply KeepsOut.ite

theorem State.writeCopies_keeps {s₀ s : State} {x1 x2 x3 x4} (h : Keeps false s₀ s) : Keeps false s₀ (State.writeCopies s x1 x2 x3 x4) := by
  unfold State.writeCopies
  refine Keeps.foldl _ (fun t x ht => ?_) h
  split
  · exact State.heal_keeps (State.write_keeps ht)
  · exact ht

theorem doTierMigrate_keeps {s₀ s : State} {x0} (h : Keeps km s₀ s) : Keeps km s₀ (doTierMigrate x0 s).2 := by
  unfold doTierMigrate
  try lift_lets
  repeat' first
    | assumption | (intro x; subst x) | with_reducible apply State.moveNext_keeps | with_reducible apply onTable_keeps
    | with_reducible apply State.startJob_keeps | with_reducible apply inOrder_keeps | dsimp only
    | (guard_target =~ ∀ _, _; intro _)

theorem execTierMigrate_keeps {s₀ s : State} {x0} (h : Keeps km s₀ s) : KeepsOut km s₀ (execTierMigrate x0 s) := by
  exact runCommand_keeps (fun _ _ ht => doTierMigrate_keeps ht) h

theorem State.beginRebuild_keeps {s₀ s : State} {x1 x2 x3 x4 x5 x6 x7 x8} (h : Keeps km s₀ s) : Keeps km s₀ (State.beginRebuild s x1 x2 x3 x4 x5 x6 x7 x8) := by
  unfold State.beginRebuild
  try lift_lets
  repeat' first | assumption | (intro x; subst x) | with_reducible apply State.putTable_keeps

theorem doTierRebuild_keeps {s₀ s : State} {x0} (h : Keeps km s₀ s) : Keeps km s₀ (doTierRebuild x0 s).2 := by
  unfold doTierRebuild
  extract_lets tier d
  refine onTable_keeps h fun t => ?_
  extract_lets p
  have hk (k : Result) (hk : Keeps km s₀ k.2) :
      Keeps km s₀ ((fun (k : Result) => if t.life = .rebuilding then k else inOrder x0 s t.id false k) k).2 :=
    Keeps.ite_snd hk (inOrder_keeps h hk)
  refine hk _ ?_
  split
  next e =>
  have h1 := Keeps.of_snd (takeSource_keeps h) e
  split
  · exact h1
  · refine Keeps.ite_snd h1 ?_
    split
    next =>
    extract_lets peers
    split
    next e2 =>
    have h2 := Keeps.of_snd (State.startJob_keeps h1) e2
    extract_lets s3 msg m4 s4
    have h3 : Keeps km s₀ s3 := State.beginRebuild_keeps h2
    clear_value s3
    have h4 : Keeps km s₀ s4 := Keeps.ite h3 (Keeps.setFab h3 _ rfl)
    clear_value s4
    exact State.emits_keeps h4

theorem execTierRebuild_keeps {s₀ s : State} {x0} (h : Keeps km s₀ s) : KeepsOut km s₀ (execTierRebuild x0 s) := by
  exact runCommand_keeps (fun _ _ ht => paced_keeps (fun _ _ => doTierRebuild_keeps) ht) h

theorem State.dropStagedTable_keeps {s₀ s : State} {x1 x2} (h : Keeps km s₀ s) : Keeps km s₀ (State.dropStagedTable s x1 x2) := by
  unfold State.dropStagedTable
  try lift_lets
  repeat' first | assumption | with_reducible apply State.modBay_keeps

theorem State.chargeTier_keeps {s₀ s : State} {x1 x2 x3 x4} (h : Keeps km s₀ s) : Keeps km s₀ (State.chargeTier s x1 x2 x3 x4) := by
  unfold State.chargeTier
  repeat' first
    | assumption | with_reducible apply State.chargeAccess_keeps | (with_reducible refine Keeps.foldl _ (fun t x ht => ?_) ?_)

theorem execRebuildQuiesced_keeps {s₀ s : State} {x0 x1} (h : Keeps km s₀ s) : KeepsOut km s₀ (execRebuildQuiesced x0 x1 s) := by
  unfold execRebuildQuiesced
  try lift_lets
  repeat' first
    | assumption | with_reducible apply State.chargeTier_keeps | with_reducible apply State.dropStagedTable_keeps
    | with_reducible apply State.putTable_keeps | with_reducible apply State.emit_keeps | with_reducible apply Keeps.ite
    | with_reducible apply KeepsOut.next | with_reducible exact KeepsOut.fault _ _ | with_reducible apply KeepsOut.ite | split

theorem State.reencodeCopies_keeps {s₀ s : State} {x1 x2 x3 x4 x5} (h : Keeps false s₀ s) :
    Keeps false s₀ (State.reencodeCopies s x1 x2 x3 x4 x5) := by
  unfold State.reencodeCopies
  refine Keeps.foldl _ (fun t p ht => ?_) h
  dsimp only
  split
  · exact Keeps.ite ht (State.write_keeps ht)
  · exact ht

theorem State.reencode_keeps {s₀ s : State} {x1 x2 x3 x4 x5 x6 x7} (h : Keeps false s₀ s) :
    Keeps false s₀ (State.reencode s x1 x2 x3 x4 x5 x6 x7).2 := by
  unfold State.reencode
  extract_lets -lift +onlyGivenNames g
  split
  · exact State.chaffRow_keeps (State.reportBad_keeps (State.reencodeCopies_keeps h))
  · generalize encodeRow _ _ = p
    obtain ⟨data, sat⟩ := p
    exact State.countSat_keeps (State.writeCopies_keeps (Keeps.ite (State.writeHomes_keeps h) (State.setRow_keeps h)))

theorem State.reencodeDefault_keeps {s₀ s : State} {x1 x2 x3} (h : Keeps false s₀ s) : Keeps false s₀ (State.reencodeDefault s x1 x2 x3).2 := by
  unfold State.reencodeDefault
  try lift_lets
  repeat' first
    | assumption
    | (intro x; (have hx : Keeps false s₀ x := by (subst x; repeat' first | assumption | (intro y; subst y) | with_reducible apply State.chaffRow_keeps | with_reducible apply State.setRow_keeps | with_reducible apply State.countSat_keeps | with_reducible apply Keeps.ite | with_reducible apply Keeps.ite_snd | split | dsimp only)); clear_value x)
    | (intro x; subst x)
    | with_reducible apply State.chaffRow_keeps
    | with_reducible apply State.setRow_keeps
    | with_reducible apply State.countSat_keeps
    | with_reducible apply Keeps.ite
    | with_reducible apply Keeps.ite_snd
    | split
    | dsimp only

theorem State.rebindTier_keeps {s₀ s : State} {x1 x2 x3 x4} (h : Keeps km s₀ s) : Keeps km s₀ (State.rebindTier s x1 x2 x3 x4) := by
  unfold State.rebindTier
  try lift_lets
  repeat' first | (intro x; subst x) | (with_reducible refine Keeps.setDp (by assumption) _ ?_ ?_) | with_reducible rfl

theorem State.finishRebuild_keeps {s₀ s : State} {x1 x2 x3 x4} (h : Keeps false s₀ s) : Keeps false s₀ (State.finishRebuild s x1 x2 x3 x4) := by
  unfold State.finishRebuild
  try lift_lets
  repeat' first
    | assumption | with_reducible apply State.chargeTier_keeps | with_reducible apply State.reencode_keeps
    | with_reducible apply State.reencodeDefault_keeps | with_reducible apply State.fillRuns_keeps
    | with_reducible apply State.modTable_keeps | with_reducible apply State.rebindTier_keeps
    | with_reducible apply State.endJob_keeps | with_reducible apply Keeps.ite_snd
    | (with_reducible refine Keeps.foldl_snd _ (fun t x ht => ?_) ?_)

theorem execRebuildResume_keeps {s₀ s : State} {x0 x1} (h : Keeps false s₀ s) : KeepsOut false s₀ (execRebuildResume x0 x1 s) := by
  unfold execRebuildResume
  try lift_lets
  repeat' first
    | assumption | with_reducible apply State.finishRebuild_keeps | with_reducible apply State.emits_keeps
    | with_reducible apply Keeps.ite | with_reducible apply KeepsOut.next | with_reducible exact KeepsOut.fault _ _
    | with_reducible apply KeepsOut.ite | split

theorem State.zeroLoftRun_keeps {s₀ s : State} {x1 x2} (h : Keeps false s₀ s) : Keeps false s₀ (State.zeroLoftRun s x1 x2) := by
  unfold State.zeroLoftRun
  repeat' first | assumption | with_reducible apply State.chargeAccess_keeps | with_reducible apply State.zero_keeps

theorem State.destroyRow_keeps {s₀ s : State} {x1 x2 x3} (h : Keeps false s₀ s) : Keeps false s₀ (State.destroyRow s x1 x2 x3) := by
  unfold State.destroyRow
  extract_lets r
  refine Keeps.ite h ?_
  split
  · exact State.modBay_keeps (State.zeroRuns_keeps h)
  · exact State.modBay_keeps (State.zeroLoftRun_keeps h)
  · exact State.modBay_keeps (State.writeHomes_keeps h)
  · exact h

theorem execTableOverwrite_keeps {s₀ s : State} {x0 x1} (h : Keeps false s₀ s) : KeepsOut false s₀ (execTableOverwrite x0 x1 s) := by
  unfold execTableOverwrite
  try lift_lets
  repeat' first
    | assumption | with_reducible apply State.modBay_keeps | with_reducible apply State.dropStagedTable_keeps
    | with_reducible apply State.destroyRow_keeps | with_reducible apply State.zeroRuns_keeps
    | with_reducible apply State.forgetEntries_keeps | (with_reducible refine Keeps.foldl _ (fun t x ht => ?_) ?_)
    | with_reducible apply KeepsOut.next | with_reducible exact KeepsOut.fault _ _ | split

theorem execGranuleRelease_keeps {s₀ s : State} {x0} (h : Keeps km s₀ s) : KeepsOut km s₀ (execGranuleRelease x0 s) := by
  unfold execGranuleRelease
  try lift_lets
  repeat' first
    | assumption | with_reducible apply State.modBay_keeps | with_reducible apply KeepsOut.next
    | with_reducible exact KeepsOut.fault _ _ | with_reducible apply KeepsOut.ite

end Sys2Proof.Machine
end

