-- ==== Sys2Proof/Laws/KeepsEngine.lean ====
section
/-! SUPPORT. What each operation keeps: streams, swath engines, copies, arriving data and doorbells. -/

set_option maxRecDepth 4000
set_option Elab.async false
set_option linter.unusedSimpArgs false

namespace Sys2Proof.Machine

variable {km : Bool}

theorem execContextRunning_keeps {s₀ s : State} {x0} (h : Keeps km s₀ s) : KeepsOut km s₀ (execContextRunning x0 s) := by
  unfold execContextRunning
  try lift_lets
  repeat' first
    | assumption | with_reducible apply State.discardCrib_keeps | with_reducible apply State.modCtx_keeps
    | with_reducible apply Keeps.ite | with_reducible apply KeepsOut.next | split

theorem State.startRun_keeps {s₀ s : State} {x1 x2} (h : Keeps km s₀ s) : Keeps km s₀ (State.startRun s x1 x2) := by
  unfold State.startRun
  try lift_lets
  repeat' first | assumption | with_reducible apply State.modCtx_keeps

theorem State.ctxSettle_keeps {s₀ s : State} {x1} (h : Keeps km s₀ s) : Keeps km s₀ (State.ctxSettle s x1) := by
  unfold State.ctxSettle
  try lift_lets
  repeat' first
    | assumption | (intro x; subst x) | with_reducible apply State.startRun_keeps | with_reducible apply State.modCtx_keeps
    | with_reducible apply State.endJob_keeps | with_reducible apply Keeps.ite
    | (with_reducible refine Keeps.setDp (by assumption) _ ?_ ?_) | with_reducible rfl | split

theorem State.storeList_keeps {s₀ s : State} {x1 x2 x3 x4} (h : Keeps false s₀ s) : Keeps false s₀ (State.storeList s x1 x2 x3 x4) := by
  unfold State.storeList
  try lift_lets
  repeat' first
    | assumption | with_reducible apply State.write_keeps | (with_reducible refine Keeps.foldl _ (fun t x ht => ?_) ?_)

theorem doStreamCreate_keeps {s₀ s : State} {x0} (h : Keeps false s₀ s) : Keeps false s₀ (doStreamCreate x0 s).2 := by
  unfold doStreamCreate
  extract_lets -lift +onlyGivenNames p n
  refine Ctx.fields_keeps h ?_
  split
  · exact fail_keeps h
  · split
    · exact fail_keeps h
    · next e =>
      exact okWith_keeps (Keeps.setDp (State.storeList_keeps (Keeps.of_opt2 (State.allocBytes_keeps h) e)) _ rfl rfl)

theorem execStreamCreate_keeps {s₀ s : State} {x0} (h : Keeps false s₀ s) : KeepsOut false s₀ (execStreamCreate x0 s) := by
  exact runCommand_keeps (fun _ _ ht => doStreamCreate_keeps ht) h

theorem doStreamAppend_keeps {s₀ s : State} {x0} (h : Keeps false s₀ s) : Keeps false s₀ (doStreamAppend x0 s).2 := by
  unfold doStreamAppend
  try lift_lets
  repeat' first
    | assumption | with_reducible apply refuseIf_keeps | with_reducible apply Ctx.fields_keeps
    | with_reducible apply State.allocBytes_keeps | with_reducible apply State.storeList_keeps
    | with_reducible apply okWith_keeps | with_reducible apply State.modCtx_keeps | with_reducible apply Keeps.ite_snd
    | with_reducible refine Keeps.of_opt2 ?_ (by assumption) | split

theorem execStreamAppend_keeps {s₀ s : State} {x0} (h : Keeps false s₀ s) : KeepsOut false s₀ (execStreamAppend x0 s) := by
  exact runCommand_keeps (fun _ _ ht => doStreamAppend_keeps ht) h

theorem State.dropStarts_keeps {s₀ s : State} {x1} (h : Keeps km s₀ s) : Keeps km s₀ (State.dropStarts s x1) := by
  unfold State.dropStarts
  try lift_lets
  repeat' first
    | assumption | with_reducible apply State.endJob_keeps | (with_reducible refine Keeps.foldl _ (fun t x ht => ?_) ?_)

theorem doStreamDestroy_keeps {s₀ s : State} {x0} (h : Keeps km s₀ s) : Keeps km s₀ (doStreamDestroy x0 s).2 := by
  unfold doStreamDestroy
  refine refuseIf_keeps h (Ctx.fields_keeps h ?_)
  split
  · exact fail_keeps h
  · exact okWith_keeps (State.dropStarts_keeps (Keeps.setDp (State.modBay_keeps h) _ rfl rfl))

theorem execStreamDestroy_keeps {s₀ s : State} {x0} (h : Keeps km s₀ s) : KeepsOut km s₀ (execStreamDestroy x0 s) := by
  exact runCommand_keeps (fun _ _ ht => doStreamDestroy_keeps ht) h

theorem State.streamStart_keeps {s₀ s : State} {x0 x2} (h : Keeps km s₀ s) : Keeps km s₀ (State.streamStart x0 s x2).2 := by
  unfold State.streamStart
  try lift_lets
  repeat' first
    | assumption | with_reducible apply State.startRun_keeps | with_reducible apply State.modCtx_keeps
    | with_reducible apply State.startJob_keeps | with_reducible apply Keeps.ite_snd

theorem doStreamStart_keeps {s₀ s : State} {x0} (h : Keeps km s₀ s) : Keeps km s₀ (doStreamStart x0 s).2 := by
  unfold doStreamStart
  try lift_lets
  repeat' first | assumption | with_reducible apply State.streamStart_keeps | with_reducible apply Ctx.fields_keeps | split

theorem execStreamStart_keeps {s₀ s : State} {x0} (h : Keeps km s₀ s) : KeepsOut km s₀ (execStreamStart x0 s) := by
  exact runCommand_keeps (fun _ _ ht => doStreamStart_keeps ht) h

theorem doStreamRearm_keeps {s₀ s : State} {x0} (h : Keeps km s₀ s) : Keeps km s₀ (doStreamRearm x0 s).2 := by
  unfold doStreamRearm
  try lift_lets
  repeat' first
    | assumption | (intro x; subst x) | with_reducible apply State.streamStart_keeps | with_reducible apply State.modCtx_keeps
    | with_reducible apply Ctx.fields_keeps | with_reducible apply okWith_keeps | with_reducible apply Keeps.ite_snd | split

theorem execStreamRearm_keeps {s₀ s : State} {x0} (h : Keeps km s₀ s) : KeepsOut km s₀ (execStreamRearm x0 s) := by
  exact runCommand_keeps (fun _ _ ht => doStreamRearm_keeps ht) h

theorem doStreamQuery_keeps {s₀ s : State} {x0} (h : Keeps km s₀ s) : Keeps km s₀ (doStreamQuery x0 s).2 := by
  unfold doStreamQuery
  try lift_lets
  repeat' first | assumption | with_reducible apply Ctx.fields_keeps | split

theorem execStreamQuery_keeps {s₀ s : State} {x0} (h : Keeps km s₀ s) : KeepsOut km s₀ (execStreamQuery x0 s) := by
  exact runCommand_keeps (fun _ _ ht => doStreamQuery_keeps ht) h

theorem doStreamConfig_keeps {s₀ s : State} {x0} (h : Keeps km s₀ s) : Keeps km s₀ (doStreamConfig x0 s).2 := by
  unfold doStreamConfig
  try lift_lets
  repeat' first
    | assumption | (intro x; subst x) | with_reducible apply Ctx.fields_keeps | with_reducible apply okWith_keeps
    | with_reducible apply State.modBay_keeps

theorem execStreamConfig_keeps {s₀ s : State} {x0} (h : Keeps km s₀ s) : KeepsOut km s₀ (execStreamConfig x0 s) := by
  exact runCommand_keeps (fun _ _ ht => doStreamConfig_keeps ht) h

theorem State.boundsEvent_keeps {s₀ s : State} {x1 x2 x3 x4} (h : Keeps km s₀ s) : Keeps km s₀ (State.boundsEvent s x1 x2 x3 x4) := by
  unfold State.boundsEvent
  repeat' first | assumption | with_reducible apply State.raise_keeps

theorem State.modStage_keeps {s₀ s : State} {x1 x2 x3} (h : Keeps km s₀ s) : Keeps km s₀ (State.modStage s x1 x2 x3) := by
  unfold State.modStage
  try lift_lets
  repeat' first | assumption | with_reducible apply State.modBay_keeps

theorem State.fetchSide_keeps {s₀ s : State} {x1 x2 x3 x4 x5 x6 x7 x8} (h : Keeps km s₀ s) : Keeps km s₀ (State.fetchSide s x1 x2 x3 x4 x5 x6 x7 x8) := by
  unfold State.fetchSide
  try lift_lets
  repeat' first
    | assumption | with_reducible apply State.modSection_keeps | with_reducible apply State.putRead_keeps
    | (with_reducible refine Keeps.foldl _ (fun t x ht => ?_) ?_) | split

theorem State.fetchFused_keeps {s₀ s : State} {x1 x2 x3 x4 x5} (h : Keeps km s₀ s) : Keeps km s₀ (State.fetchFused s x1 x2 x3 x4 x5) := by
  unfold State.fetchFused
  try lift_lets
  repeat' first
    | assumption | with_reducible apply State.putRead_keeps | with_reducible apply State.boundsEvent_keeps
    | with_reducible apply Keeps.ite | (with_reducible refine Keeps.foldl _ (fun t x ht => ?_) ?_) | split

theorem State.putPool_keeps {s₀ s : State} {x1 x2 x3 x4 x5 x6 x7 x8 x9} (h : Keeps km s₀ s) : Keeps km s₀ (State.putPool s x1 x2 x3 x4 x5 x6 x7 x8 x9) := by
  unfold State.putPool
  try lift_lets
  repeat' first
    | assumption | with_reducible apply State.putPoolReq_keeps | (with_reducible refine Keeps.foldl _ (fun t x ht => ?_) ?_)

theorem State.putPools_keeps {s₀ s : State} {x1 x2 x3 x4 x5 x6 x7} (h : Keeps km s₀ s) : Keeps km s₀ (State.putPools s x1 x2 x3 x4 x5 x6 x7) := by
  unfold State.putPools
  try lift_lets
  repeat' first
    | assumption | with_reducible apply State.putPool_keeps | (with_reducible refine Keeps.foldl _ (fun t x ht => ?_) ?_)

theorem State.access_keeps {s₀ s : State} {x1 x2 x3 x4 x5 x6 x7} (h : Keeps km s₀ s) : Keeps km s₀ (State.access s x1 x2 x3 x4 x5 x6 x7) := by
  unfold State.access
  try lift_lets
  repeat' first
    | assumption | with_reducible apply State.drrTake_keeps | with_reducible apply State.chargeAccess_keeps | split

theorem State.pump_keeps {s₀ s : State} (h : Keeps km s₀ s) : Keeps km s₀ (State.pump s) := by
  unfold State.pump
  try lift_lets
  repeat' first
    | assumption | with_reducible apply State.serveReads_keeps

theorem State.startLast_keeps {s₀ s : State} {x1} (h : Keeps km s₀ s) : Keeps km s₀ (State.startLast s x1) := by
  unfold State.startLast
  try lift_lets
  repeat' first
    | assumption | with_reducible apply State.startRead_keeps | split

theorem State.giveSlot_keeps {s₀ s : State} {x1 x2 x3} (h : Keeps km s₀ s) : Keeps km s₀ (State.giveSlot s x1 x2 x3) := by
  unfold State.giveSlot
  try lift_lets
  repeat' first
    | assumption
    | (intro x; (have hx : Keeps km s₀ x := by (subst x; repeat' first | assumption | (intro y; subst y) | with_reducible apply State.modSlot_keeps | with_reducible apply State.cribFree_keeps | with_reducible apply Keeps.ite | split | dsimp only)); clear_value x)
    | (intro x; subst x)
    | with_reducible apply State.modSlot_keeps
    | with_reducible apply State.cribFree_keeps
    | with_reducible apply Keeps.ite
    | split
    | dsimp only

theorem State.dropRow_keeps {s₀ s : State} {x1 x2 x3} (h : Keeps km s₀ s) : Keeps km s₀ (State.dropRow s x1 x2 x3) := by
  unfold State.dropRow
  try lift_lets
  repeat' first
    | assumption
    | with_reducible apply State.giveSlot_keeps
    | with_reducible apply Keeps.ite
    | split
    | dsimp only

theorem State.giveRow_keeps {s₀ s : State} {x1 x2 x3} (h : Keeps km s₀ s) : Keeps km s₀ (State.giveRow s x1 x2 x3) := by
  unfold State.giveRow
  try lift_lets
  repeat' first
    | assumption
    | with_reducible apply State.giveSlot_keeps
    | with_reducible apply Keeps.ite
    | split
    | dsimp only

theorem State.unstage_keeps {s₀ s : State} {x1 x2 x3 x4 x5} (h : Keeps km s₀ s) : Keeps km s₀ (State.unstage s x1 x2 x3 x4 x5) := by
  unfold State.unstage
  try lift_lets
  repeat' first
    | assumption | with_reducible apply State.modStage_keeps

theorem State.useStaged_keeps {s₀ s : State} {x1 x2 x3 x4} (h : Keeps km s₀ s) : Keeps km s₀ (State.useStaged s x1 x2 x3 x4) := by
  unfold State.useStaged
  try lift_lets
  repeat' first
    | assumption | with_reducible apply State.modStage_keeps

theorem State.putSlot_keeps {s₀ s : State} {x1 x2 x3 x4 x5} (h : Keeps km s₀ s) : Keeps km s₀ (State.putSlot s x1 x2 x3 x4 x5) := by
  unfold State.putSlot
  try lift_lets
  repeat' first
    | assumption | with_reducible apply State.modSection_keeps | with_reducible apply State.fetchSide_keeps

theorem State.issueRow_keeps {s₀ s : State} {x1 x2 x3} (h : Keeps km s₀ s) : Keeps km s₀ (State.issueRow s x1 x2 x3) := by
  unfold State.issueRow
  try lift_lets
  repeat' first
    | assumption | with_reducible apply State.putSlot_keeps | with_reducible apply State.boundsEvent_keeps
    | with_reducible apply State.modCtx_keeps | with_reducible apply State.count_keeps
    | with_reducible apply State.unstage_keeps | with_reducible apply State.cribTake_keeps
    | with_reducible apply State.useStaged_keeps | with_reducible apply State.putRead_keeps
    | with_reducible apply State.startLast_keeps | with_reducible apply State.putReadReq_keeps | split | dsimp only

theorem State.fetchMap_keeps {s₀ s : State} {x1 x2 x3} (h : Keeps km s₀ s) : Keeps km s₀ (State.fetchMap s x1 x2 x3) := by
  unfold State.fetchMap
  try lift_lets
  repeat' first
    | assumption | with_reducible apply State.boundsEvent_keeps | with_reducible apply State.putRead_keeps
    | with_reducible apply Keeps.ite | (with_reducible refine Keeps.foldl _ (fun t x ht => ?_) ?_)

theorem State.issueBind_keeps {s₀ s : State} {x1 x2} (h : Keeps km s₀ s) : Keeps km s₀ (State.issueBind s x1 x2) := by
  unfold State.issueBind
  try lift_lets
  repeat' first
    | assumption
    | (intro x; (have hx : Keeps km s₀ x := by (subst x; repeat' first | assumption | (intro y; subst y) | with_reducible apply State.modSection_keeps | with_reducible apply State.modCtx_keeps | with_reducible apply State.discardCrib_keeps | with_reducible apply State.fetchMap_keeps | with_reducible apply State.putPools_keeps | with_reducible apply State.fetchFused_keeps | with_reducible apply Keeps.ite | split | dsimp only)); clear_value x)
    | (intro x; subst x)
    | with_reducible apply State.modSection_keeps
    | with_reducible apply State.modCtx_keeps
    | with_reducible apply State.discardCrib_keeps
    | with_reducible apply State.fetchMap_keeps
    | with_reducible apply State.putPools_keeps
    | with_reducible apply State.fetchFused_keeps
    | with_reducible apply Keeps.ite
    | split
    | dsimp only

theorem State.issueCopy_keeps {s₀ s : State} {x1 x2 x3} (h : Keeps km s₀ s) : Keeps km s₀ (State.issueCopy s x1 x2 x3).2 := by
  unfold State.issueCopy
  try lift_lets
  repeat' first
    | assumption | with_reducible apply State.boundsEvent_keeps | with_reducible apply State.cribTake_keeps
    | with_reducible apply State.putRead_keeps | with_reducible apply State.startLast_keeps | with_reducible apply Keeps.ite

theorem feedList_keeps {s₀ s : State} {x0 x1} (h : Keeps km s₀ s) : Keeps km s₀ (feedList x0 x1 s).2 := by
  induction x0 generalizing s x1 with
  | nil => exact h
  | cons a l ih =>
    unfold feedList
    exact Keeps.ite_snd (ih h) (ih (State.modCtx_keeps h))

theorem State.feed_keeps {s₀ s : State} {x1} (h : Keeps km s₀ s) : Keeps km s₀ (State.feed s x1) := by
  unfold State.feed
  try lift_lets
  repeat' first
    | assumption | (with_reducible refine Keeps.setDp (by with_reducible exact feedList_keeps (by assumption)) _ ?_ ?_)
    | with_reducible rfl | simp only [List.length_map, List.length_modify, List.length_set] | split

theorem State.ctxPop_keeps {s₀ s : State} {x1} (h : Keeps km s₀ s) : Keeps km s₀ (State.ctxPop s x1) := by
  unfold State.ctxPop
  try lift_lets
  repeat' first
    | assumption
    | (intro x; (have hx : Keeps km s₀ x := by (subst x; repeat' first | assumption | with_reducible apply State.feed_keeps | with_reducible apply State.modCtx_keeps | split)); clear_value x)
    | with_reducible apply State.ctxSettle_keeps

theorem State.countExec_keeps {s₀ s : State} {x1} (h : Keeps km s₀ s) : Keeps km s₀ (State.countExec s x1) := by
  unfold State.countExec
  try lift_lets
  repeat' first | assumption | with_reducible apply State.modCtx_keeps

theorem State.malformedEntry_keeps {s₀ s : State} {x1 x2} (h : Keeps km s₀ s) : Keeps km s₀ (State.malformedEntry s x1 x2) := by
  unfold State.malformedEntry
  try lift_lets
  repeat' first
    | assumption
    | (intro x; (have hx : Keeps km s₀ x := by (subst x; repeat' first | assumption | with_reducible apply State.modCtx_keeps | with_reducible apply State.raise_keeps | with_reducible apply Keeps.ite)); clear_value x)
    | (intro x; subst x) | with_reducible apply State.modSheaf_keeps

theorem State.issueUpdate_keeps {s₀ s : State} {x1 x2 x3} (h : Keeps km s₀ s) : Keeps km s₀ (State.issueUpdate s x1 x2 x3) := by
  unfold State.issueUpdate
  try lift_lets
  repeat' first
    | assumption | (intro x; subst x) | with_reducible apply State.modSheaf_keeps | with_reducible apply State.putRead_keeps
    | with_reducible apply State.startLast_keeps | with_reducible apply State.boundsEvent_keeps | split

theorem State.issueJob_keeps {s₀ s : State} {x1 x2} (h : Keeps km s₀ s) : Keeps km s₀ (State.issueJob s x1 x2) := by
  unfold State.issueJob
  try lift_lets
  repeat' first
    | assumption
    | (intro x; (have hx : Keeps km s₀ x := by (subst x; repeat' first | assumption | (intro y; subst y) | with_reducible apply State.boundsEvent_keeps | with_reducible apply Keeps.ite | (with_reducible refine Keeps.setDp (by assumption) _ ?_ ?_) | with_reducible rfl | simp only [List.length_map, List.length_modify, List.length_set, List.length_mapIdx] | split | dsimp only)); clear_value x)
    | (intro x; subst x)
    | with_reducible apply State.boundsEvent_keeps
    | with_reducible apply Keeps.ite
    | (with_reducible refine Keeps.setDp (by assumption) _ ?_ ?_)
    | with_reducible rfl
    | simp only [List.length_map, List.length_modify, List.length_set, List.length_mapIdx]
    | split
    | dsimp only

theorem State.issueEntry_keeps {s₀ s : State} {x1 x2 x3} (h : Keeps km s₀ s) : Keeps km s₀ (State.issueEntry s x1 x2 x3) := by
  unfold State.issueEntry
  try lift_lets
  repeat' first
    | assumption
    | (intro x; (have hx : Keeps km s₀ x := by (subst x; repeat' first | assumption | (intro y; subst y) | with_reducible apply State.modCtx_keeps | with_reducible apply State.issueBind_keeps | with_reducible apply State.countExec_keeps | with_reducible apply State.ctxPop_keeps | with_reducible apply State.issueRow_keeps | with_reducible apply State.giveRow_keeps | with_reducible apply State.issueCopy_keeps | with_reducible apply State.issueJob_keeps | with_reducible apply State.issueUpdate_keeps | with_reducible apply Keeps.ite | with_reducible refine Keeps.of_snd ?_ (by assumption) | split | dsimp only)); clear_value x)
    | (intro x; (have hx : Keeps km s₀ x.2 := by (subst x; repeat' first | assumption | (intro y; subst y) | with_reducible apply State.modCtx_keeps | with_reducible apply State.issueBind_keeps | with_reducible apply State.countExec_keeps | with_reducible apply State.ctxPop_keeps | with_reducible apply State.issueRow_keeps | with_reducible apply State.giveRow_keeps | with_reducible apply State.issueCopy_keeps | with_reducible apply State.issueJob_keeps | with_reducible apply State.issueUpdate_keeps | with_reducible apply Keeps.ite | with_reducible refine Keeps.of_snd ?_ (by assumption) | split | dsimp only)); clear_value x)
    | (intro x; subst x)
    | with_reducible apply State.modCtx_keeps
    | with_reducible apply State.issueBind_keeps
    | with_reducible apply State.countExec_keeps
    | with_reducible apply State.ctxPop_keeps
    | with_reducible apply State.issueRow_keeps
    | with_reducible apply State.giveRow_keeps
    | with_reducible apply State.issueCopy_keeps
    | with_reducible apply State.issueJob_keeps
    | with_reducible apply State.issueUpdate_keeps
    | with_reducible apply Keeps.ite
    | with_reducible refine Keeps.of_snd ?_ (by assumption)
    | split
    | dsimp only

theorem execEntryIssue_keeps {s₀ s : State} {x0} (h : Keeps km s₀ s) : KeepsOut km s₀ (execEntryIssue x0 s) := by
  unfold execEntryIssue
  try lift_lets
  repeat' first
    | assumption | with_reducible apply State.pump_keeps | with_reducible apply State.malformedEntry_keeps
    | with_reducible apply State.ctxPop_keeps | with_reducible apply State.modCtx_keeps
    | with_reducible apply State.issueEntry_keeps | with_reducible apply KeepsOut.next | split

theorem State.sendSpill_keeps {s₀ s : State} {x1 x2 x3} (h : Keeps km s₀ s) : Keeps km s₀ (State.sendSpill s x1 x2 x3) := by
  unfold State.sendSpill
  try lift_lets
  repeat' first
    | assumption
    | (intro x; (have hx : Keeps km s₀ x := by (subst x; repeat' first | assumption | (intro y; subst y) | with_reducible apply State.issueWrite_keeps | split | dsimp only)); clear_value x)
    | (intro x; subst x)
    | with_reducible apply State.issueWrite_keeps
    | split
    | dsimp only

theorem execStallWatchdog_keeps {s₀ s : State} {x0} (h : Keeps km s₀ s) : KeepsOut km s₀ (execStallWatchdog x0 s) := by
  unfold execStallWatchdog
  try lift_lets
  repeat' first
    | assumption
    | (intro x; (have hx : Keeps km s₀ x := by (subst x; repeat' first | assumption | (intro y; subst y) | with_reducible apply State.modCtx_keeps | with_reducible apply State.raise_keeps | with_reducible apply State.sendSpill_keeps | with_reducible apply State.count_keeps | with_reducible apply State.pump_keeps | with_reducible apply Keeps.ite | (with_reducible refine Keeps.foldl _ (fun t x ht => ?_) ?_) | (with_reducible refine Keeps.foldl_snd _ (fun t x ht => ?_) ?_) | (with_reducible refine Keeps.setDev (by assumption) _) | with_reducible rfl | simp only [List.length_map, List.length_modify, List.length_set, List.length_mapIdx] | with_reducible apply KeepsOut.next | with_reducible exact KeepsOut.fault _ _ | with_reducible apply KeepsOut.ite | split | dsimp only)); clear_value x)
    | (intro x; subst x)
    | with_reducible apply State.modCtx_keeps
    | with_reducible apply State.raise_keeps
    | with_reducible apply State.sendSpill_keeps
    | with_reducible apply State.count_keeps
    | with_reducible apply State.pump_keeps
    | with_reducible apply Keeps.ite
    | (with_reducible refine Keeps.foldl _ (fun t x ht => ?_) ?_)
    | (with_reducible refine Keeps.foldl_snd _ (fun t x ht => ?_) ?_)
    | (with_reducible refine Keeps.setDev (by assumption) _)
    | with_reducible rfl
    | simp only [List.length_map, List.length_modify, List.length_set, List.length_mapIdx]
    | with_reducible apply KeepsOut.next
    | with_reducible exact KeepsOut.fault _ _
    | with_reducible apply KeepsOut.ite
    | split
    | dsimp only

theorem State.putReload_keeps {s₀ s : State} {x1 x2 x3 x4} (h : Keeps km s₀ s) : Keeps km s₀ (State.putReload s x1 x2 x3 x4) := by
  unfold State.putReload
  try lift_lets
  repeat' first
    | assumption
    | with_reducible apply State.putRead_keeps
    | with_reducible apply Keeps.ite
    | split
    | dsimp only

theorem execSpillReload_keeps {s₀ s : State} {x0} (h : Keeps km s₀ s) : KeepsOut km s₀ (execSpillReload x0 s) := by
  unfold execSpillReload
  try lift_lets
  repeat' first
    | assumption
    | (intro x; (have hx : Keeps km s₀ x := by (subst x; repeat' first | assumption | (intro y; subst y) | with_reducible apply State.putReload_keeps | with_reducible apply State.pump_keeps | (with_reducible refine Keeps.foldl _ (fun t x ht => ?_) ?_) | (with_reducible refine Keeps.foldl_snd _ (fun t x ht => ?_) ?_) | (with_reducible refine Keeps.setDp (by assumption) _ ?_ ?_) | with_reducible rfl | simp only [List.length_map, List.length_modify, List.length_set, List.length_mapIdx] | with_reducible apply KeepsOut.next | with_reducible exact KeepsOut.fault _ _ | with_reducible apply KeepsOut.ite | split | dsimp only)); clear_value x)
    | (intro x; subst x)
    | with_reducible apply State.putReload_keeps
    | with_reducible apply State.pump_keeps
    | (with_reducible refine Keeps.foldl _ (fun t x ht => ?_) ?_)
    | (with_reducible refine Keeps.foldl_snd _ (fun t x ht => ?_) ?_)
    | (with_reducible refine Keeps.setDp (by assumption) _ ?_ ?_)
    | with_reducible rfl
    | simp only [List.length_map, List.length_modify, List.length_set, List.length_mapIdx]
    | with_reducible apply KeepsOut.next
    | with_reducible exact KeepsOut.fault _ _
    | with_reducible apply KeepsOut.ite
    | split
    | dsimp only

theorem State.copyReply_keeps {s₀ s : State} {x1} (h : Keeps km s₀ s) : Keeps km s₀ (State.copyReply s x1) := by
  unfold State.copyReply
  repeat' first | assumption | with_reducible apply State.endJob_keeps

theorem State.hostRead_keeps {s₀ s : State} {x1 x2 x3 x4 x5} (h : Keeps km s₀ s) : Keeps km s₀ (State.hostRead s x1 x2 x3 x4 x5) := by
  unfold State.hostRead
  try lift_lets
  repeat' first
    | assumption | with_reducible apply State.putRead_keeps | with_reducible apply State.modJob_keeps
    | with_reducible apply State.emit_keeps

theorem State.copyNext_keeps {s₀ s : State} {x1} (h : Keeps km s₀ s) : Keeps km s₀ (State.copyNext s x1) := by
  unfold State.copyNext
  try lift_lets
  repeat' first
    | assumption | with_reducible apply State.copyReply_keeps | with_reducible apply State.hostRead_keeps
    | with_reducible apply State.putRead_keeps | with_reducible apply State.modJob_keeps
    | with_reducible apply State.pump_keeps | with_reducible apply Keeps.ite | split

theorem State.biasCommit_keeps {s₀ s : State} {x1} (h : Keeps km s₀ s) : Keeps km s₀ (State.biasCommit s x1) := by
  unfold State.biasCommit
  try lift_lets
  repeat' first
    | assumption
    | (intro x; (have hx : Keeps km s₀ x := by (subst x; repeat' (with_reducible refine Keeps.setTth (by assumption) _))); clear_value x)
    | (intro x; subst x) | with_reducible apply State.endJob_keeps

theorem State.biasNext_keeps {s₀ s : State} {x1} (h : Keeps km s₀ s) : Keeps km s₀ (State.biasNext s x1) := by
  unfold State.biasNext
  try lift_lets
  repeat' first
    | assumption | with_reducible apply State.biasCommit_keeps | with_reducible apply State.modJob_keeps
    | with_reducible apply State.emit_keeps | with_reducible apply Keeps.ite | split

theorem State.deregNext_keeps {s₀ s : State} (h : Keeps km s₀ s) : Keeps km s₀ (State.deregNext s) := by
  unfold State.deregNext
  try lift_lets
  repeat' first
    | assumption | with_reducible apply State.endJob_keeps | with_reducible apply Keeps.ite
    | (with_reducible refine Keeps.foldl _ (fun t x ht => ?_) ?_) | (with_reducible refine Keeps.setTth (by assumption) _)
    | split

theorem State.tetherRun_keeps {s₀ s : State} (h : Keeps km s₀ s) : Keeps km s₀ (State.tetherRun s) := by
  unfold State.tetherRun
  try lift_lets
  repeat' first
    | assumption
    | (intro x; (have hx : Keeps km s₀ x := by (subst x; repeat' first | assumption | with_reducible apply State.biasNext_keeps | (with_reducible refine Keeps.foldl _ (fun t x ht => ?_) ?_))); clear_value x)
    | with_reducible apply State.deregNext_keeps | with_reducible apply State.copyNext_keeps
    | (with_reducible refine Keeps.foldl _ (fun t x ht => ?_) ?_)

theorem State.hostArrived_keeps {s₀ s : State} {x1 x2} (h : Keeps km s₀ s) : Keeps km s₀ (State.hostArrived s x1 x2) := by
  unfold State.hostArrived
  try lift_lets
  repeat' first
    | assumption | (intro x; subst x) | with_reducible apply State.tetherRun_keeps | with_reducible apply State.modJob_keeps
    | with_reducible apply State.issueWrite_keeps | with_reducible apply Keeps.ite | split

theorem State.copyWritten_keeps {s₀ s : State} {x1 x2} (h : Keeps km s₀ s) : Keeps km s₀ (State.copyWritten s x1 x2) := by
  unfold State.copyWritten
  try lift_lets
  repeat' first | assumption | with_reducible apply State.tetherRun_keeps | with_reducible apply State.modJob_keeps

theorem State.copyArrived_keeps {s₀ s : State} {x1 x2} (h : Keeps km s₀ s) : Keeps km s₀ (State.copyArrived s x1 x2) := by
  unfold State.copyArrived
  try lift_lets
  repeat' first
    | assumption | with_reducible apply State.tetherRun_keeps | with_reducible apply State.hostPlace_keeps
    | with_reducible apply State.modJob_keeps | (with_reducible refine Keeps.foldl _ (fun t x ht => ?_) ?_) | split

theorem State.statusArrived_keeps {s₀ s : State} {x1} (h : Keeps km s₀ s) : Keeps km s₀ (State.statusArrived s x1) := by
  unfold State.statusArrived
  try lift_lets
  repeat' first | assumption | with_reducible apply State.tetherRun_keeps | with_reducible apply State.modJob_keeps

theorem State.granaryBad_keeps {s₀ s : State} {x1 x2 x3 x4} (h : Keeps false s₀ s) : Keeps false s₀ (State.granaryBad s x1 x2 x3 x4) := by
  unfold State.granaryBad
  try lift_lets
  repeat' first
    | assumption | (intro x; subst x) | with_reducible apply State.modHot_keeps | with_reducible apply State.raise_keeps
    | with_reducible apply State.heal_keeps | with_reducible apply State.write_keeps | split

theorem State.badGranules_keeps {s₀ s : State} {x1 x2} (h : Keeps false s₀ s) : Keeps false s₀ (State.badGranules s x1 x2) := by
  unfold State.badGranules
  try lift_lets
  repeat' first
    | assumption | (intro x; subst x) | with_reducible apply State.loftBad_keeps | with_reducible apply State.granaryBad_keeps
    | with_reducible apply State.siloBad_keeps | with_reducible apply State.addPoison_keeps | with_reducible apply Keeps.ite
    | (with_reducible refine Keeps.foldl _ (fun t x ht => ?_) ?_) | split

theorem State.modThresher_keeps {s₀ s : State} {x1 x2} (h : Keeps km s₀ s) : Keeps km s₀ (State.modThresher s x1 x2) := by
  unfold State.modThresher
  try lift_lets
  repeat' first
    | (intro x; subst x) | (with_reducible refine Keeps.setDp (by assumption) _ ?_ ?_) | with_reducible rfl
    | simp only [List.length_map, List.length_modify, List.length_set]

theorem State.modBag_keeps {s₀ s : State} {x1 x2 x3} (h : Keeps km s₀ s) : Keeps km s₀ (State.modBag s x1 x2 x3) := by
  unfold State.modBag
  try lift_lets
  repeat' first | assumption | with_reducible apply State.modThresher_keeps

theorem State.noteReady_keeps {s₀ s : State} {x1} (h : Keeps km s₀ s) : Keeps km s₀ (State.noteReady s x1) := by
  unfold State.noteReady
  try lift_lets
  repeat' first
    | assumption | (intro x; subst x) | with_reducible apply State.modThresher_keeps
    | (with_reducible refine Keeps.foldl _ (fun t x ht => ?_) ?_)

theorem State.noteAll_keeps {s₀ s : State} (h : Keeps km s₀ s) : Keeps km s₀ (State.noteAll s) :=
  Keeps.foldl _ (fun _ _ ht => State.noteReady_keeps ht) h

theorem State.modLookup_keeps {s₀ s : State} {x1 x2} (h : Keeps km s₀ s) : Keeps km s₀ (State.modLookup s x1 x2) := by
  unfold State.modLookup
  try lift_lets
  repeat' first | (intro x; subst x) | (with_reducible refine Keeps.setDp (by assumption) _ ?_ ?_) | with_reducible rfl

theorem State.modHand_keeps {s₀ s : State} {x1 x2 x3} (h : Keeps km s₀ s) : Keeps km s₀ (State.modHand s x1 x2 x3) := by
  unfold State.modHand
  try lift_lets
  repeat' first
    | (intro x; subst x) | (with_reducible refine Keeps.setDp (by assumption) _ ?_ ?_) | with_reducible rfl
    | simp only [List.length_map, List.length_modify, List.length_set]

theorem State.stageDone_keeps {s₀ s : State} {x1 x2 x3 x4} (h : Keeps false s₀ s) : Keeps false s₀ (State.stageDone s x1 x2 x3 x4) := by
  unfold State.stageDone
  try lift_lets
  repeat' first
    | assumption | with_reducible apply State.modStage_keeps | with_reducible apply State.write_keeps
    | with_reducible apply State.heal_keeps | with_reducible apply State.access_keeps | split

theorem State.stageFail_keeps {s₀ s : State} {x1} (h : Keeps km s₀ s) : Keeps km s₀ (State.stageFail s x1) := by
  unfold State.stageFail
  try lift_lets
  repeat' first
    | assumption | with_reducible apply State.modStage_keeps | with_reducible apply State.count_keeps

theorem State.countChaff_keeps {s₀ s : State} {x1 x2 x3} (h : Keeps km s₀ s) : Keeps km s₀ (State.countChaff s x1 x2 x3) := by
  unfold State.countChaff
  try lift_lets
  repeat' first
    | assumption | with_reducible apply State.modCtx_keeps | with_reducible apply State.count_keeps | split

theorem State.mapArrived_keeps {s₀ s : State} {x1 x2 x3 x4 x5} (h : Keeps km s₀ s) : Keeps km s₀ (State.mapArrived s x1 x2 x3 x4 x5) := by
  unfold State.mapArrived
  try lift_lets
  repeat' first
    | assumption | (intro x; subst x) | with_reducible apply State.modSection_keeps
    | with_reducible apply State.putPools_keeps | split

theorem State.landRead_keeps {s₀ s : State} {x1 x2} (h : Keeps false s₀ s) : Keeps false s₀ (State.landRead s x1 x2) := by
  have hc (t : State) (o : Option Nat) (n : Nat) (ht : Keeps false s₀ t) :
      Keeps false s₀ (match o with | some c => t.modCtx c fun x => x.bump 3 n | none => t) := by
    split
    · exact State.modCtx_keeps ht
    · exact ht
  unfold State.landRead
  extract_lets -lift +onlyGivenNames bad data
  split
  · exact State.modSlot_keeps h
  · exact hc _ _ _ (State.modSlot_keeps h)
  · exact hc _ _ _ (Keeps.setDp h _ rfl rfl)
  · exact Keeps.ite (State.cribFree_keeps h) (State.issueWrite_keeps h)
  · exact Keeps.ite h (State.modSheaf_keeps h)
  · exact State.modSection_keeps h
  · exact State.noteAll_keeps (State.modSection_keeps h)
  · exact Keeps.ite (State.stageFail_keeps h) (State.stageDone_keeps h)
  · exact State.modLookup_keeps h
  · exact State.modHand_keeps h
  · split
    · generalize e : State.moveRead .. = p
      obtain ⟨held, t⟩ := p
      have h1 : Keeps false s₀ t := Keeps.of_snd (State.moveRead_keeps h) e
      exact Keeps.ite h1 (State.releaseMove_keeps h1)
    · exact h
  · exact State.hostArrived_keeps h
  · exact State.copyArrived_keeps h
  · exact State.statusArrived_keeps h
  · exact State.mapArrived_keeps h
  · exact h.set rfl rfl rfl rfl rfl rfl rfl rfl rfl rfl
  · exact h
  · exact h

theorem State.deliver'_keeps {s₀ s : State} {x1 x2} (h : Keeps false s₀ s) : Keeps false s₀ (State.deliver' s x1 x2) := by
  unfold State.deliver'
  try lift_lets
  repeat' first
    | assumption
    | (intro x; (have hx : Keeps false s₀ x := by (subst x; repeat' first | assumption | (intro y; subst y) | with_reducible apply State.cribFree_keeps | with_reducible apply State.dropRow_keeps | with_reducible apply State.countChaff_keeps | with_reducible apply State.landRead_keeps | with_reducible apply State.modCtx_keeps | with_reducible apply State.ctxSettle_keeps | with_reducible apply State.pump_keeps | with_reducible apply Keeps.ite | (with_reducible refine Keeps.setDev (by assumption) _) | (with_reducible refine Keeps.setDp (by assumption) _ ?_ ?_) | (refine Keeps.set (t := ?tt) ?hh ?_ ?_ ?_ ?_ ?_ ?_ ?_ ?_ ?_ ?_; (case hh => exact (by assumption)); all_goals first | with_reducible rfl | (intro hm; with_reducible assumption)) | with_reducible rfl | simp only [List.length_map, List.length_modify, List.length_set, List.length_mapIdx] | split | dsimp only)); clear_value x)
    | (intro x; subst x)
    | with_reducible apply State.cribFree_keeps
    | with_reducible apply State.dropRow_keeps
    | with_reducible apply State.countChaff_keeps
    | with_reducible apply State.landRead_keeps
    | with_reducible apply State.modCtx_keeps
    | with_reducible apply State.ctxSettle_keeps
    | with_reducible apply State.pump_keeps
    | with_reducible apply Keeps.ite
    | (with_reducible refine Keeps.setDev (by assumption) _)
    | (with_reducible refine Keeps.setDp (by assumption) _ ?_ ?_)
    | (refine Keeps.set (t := ?tt) ?hh ?_ ?_ ?_ ?_ ?_ ?_ ?_ ?_ ?_ ?_; (case hh => exact (by assumption)); all_goals first | with_reducible rfl | (intro hm; with_reducible assumption))
    | with_reducible rfl
    | simp only [List.length_map, List.length_modify, List.length_set, List.length_mapIdx]
    | split
    | dsimp only

theorem State.dieCorrected_keeps {s₀ s : State} {x1 x2} (h : Keeps km s₀ s) : Keeps km s₀ (State.dieCorrected s x1 x2) := by
  unfold State.dieCorrected
  try lift_lets
  repeat' first
    | with_reducible apply State.count_keeps | (with_reducible refine Keeps.setDp (by assumption) _ ?_ ?_)
    | with_reducible rfl

theorem State.fixedGranules_keeps {s₀ s : State} {x1 x2} (h : Keeps km s₀ s) : Keeps km s₀ (State.fixedGranules s x1 x2) := by
  unfold State.fixedGranules
  try lift_lets
  repeat' first
    | assumption
    | (intro x; (have hx : Keeps km s₀ x := by (subst x; repeat' first | assumption | (intro y; subst y) | with_reducible apply State.siloCorrected_keeps | with_reducible apply State.dieCorrected_keeps | with_reducible apply Keeps.ite | (with_reducible refine Keeps.foldl _ (fun t x ht => ?_) ?_) | (with_reducible refine Keeps.foldl_snd _ (fun t x ht => ?_) ?_) | split | dsimp only)); clear_value x)
    | (intro x; subst x)
    | with_reducible apply State.siloCorrected_keeps
    | with_reducible apply State.dieCorrected_keeps
    | with_reducible apply Keeps.ite
    | (with_reducible refine Keeps.foldl _ (fun t x ht => ?_) ?_)
    | (with_reducible refine Keeps.foldl_snd _ (fun t x ht => ?_) ?_)
    | split
    | dsimp only

theorem execReadCompletion_keeps {s₀ s : State} {x0 x1 x2} (h : Keeps false s₀ s) : KeepsOut false s₀ (execReadCompletion x0 x1 x2 s) := by
  unfold execReadCompletion
  try lift_lets
  repeat' first
    | assumption | with_reducible apply State.fixedGranules_keeps | with_reducible apply State.deliver'_keeps
    | with_reducible apply State.badGranules_keeps | with_reducible apply Keeps.ite | with_reducible apply KeepsOut.next
    | split

theorem State.landGranule_keeps {s₀ s : State} {x0 x2} (h : Keeps false s₀ s) : Keeps false s₀ (State.landGranule x0 s x2) := by
  unfold State.landGranule
  try lift_lets
  repeat' first
    | assumption | (intro x; subst x) | with_reducible apply State.heal_keeps | with_reducible apply State.write_keeps
    | with_reducible apply Keeps.ite | split

theorem State.landWrite_keeps {s₀ s : State} {x1} (h : Keeps false s₀ s) : Keeps false s₀ (State.landWrite s x1) := by
  unfold State.landWrite
  try lift_lets
  repeat' first
    | assumption
    | with_reducible apply State.landGranule_keeps
    | (with_reducible refine Keeps.foldl _ (fun t x ht => ?_) ?_)
    | (with_reducible refine Keeps.foldl_snd _ (fun t x ht => ?_) ?_)

theorem State.spillLanded_keeps {s₀ s : State} {x1 x2 x3 x4 x5} (h : Keeps km s₀ s) : Keeps km s₀ (State.spillLanded s x1 x2 x3 x4 x5) := by
  unfold State.spillLanded
  try lift_lets
  repeat' first
    | assumption
    | with_reducible apply State.modSlot_keeps
    | with_reducible apply State.cribFree_keeps
    | with_reducible apply State.modCtx_keeps
    | with_reducible apply Keeps.ite
    | split
    | dsimp only

theorem State.pieceLanded_keeps {s₀ s : State} {x1 x2 x3} (h : Keeps km s₀ s) : Keeps km s₀ (State.pieceLanded s x1 x2 x3) := by
  unfold State.pieceLanded
  try lift_lets
  repeat' first
    | assumption
    | (intro x; (have hx : Keeps km s₀ x := by (subst x; repeat' first | assumption | (intro y; subst y) | with_reducible apply State.cribFree_keeps | with_reducible apply State.modCtx_keeps | with_reducible apply Keeps.ite | (with_reducible refine Keeps.setDp (by assumption) _ ?_ ?_) | with_reducible rfl | simp only [List.length_map, List.length_modify, List.length_set, List.length_mapIdx] | split | dsimp only)); clear_value x)
    | (intro x; subst x)
    | with_reducible apply State.cribFree_keeps
    | with_reducible apply State.modCtx_keeps
    | with_reducible apply Keeps.ite
    | (with_reducible refine Keeps.setDp (by assumption) _ ?_ ?_)
    | with_reducible rfl
    | simp only [List.length_map, List.length_modify, List.length_set, List.length_mapIdx]
    | split
    | dsimp only

theorem State.passageErrors_keeps {s₀ s : State} {x1 x2 x3} (h : Keeps km s₀ s) : Keeps km s₀ (State.passageErrors s x1 x2 x3).2 := by
  unfold State.passageErrors
  try lift_lets
  repeat' first
    | assumption
    | (intro x; (have hx : Keeps km s₀ x := by (subst x; repeat' first | assumption | (intro y; subst y) | with_reducible apply State.dieCorrected_keeps | with_reducible apply State.countChaff_keeps | with_reducible apply Keeps.ite | with_reducible apply Keeps.ite_snd | (with_reducible refine Keeps.foldl _ (fun t x ht => ?_) ?_) | (with_reducible refine Keeps.foldl_snd _ (fun t x ht => ?_) ?_) | split | dsimp only)); clear_value x)
    | (intro x; subst x)
    | with_reducible apply State.dieCorrected_keeps
    | with_reducible apply State.countChaff_keeps
    | with_reducible apply Keeps.ite
    | with_reducible apply Keeps.ite_snd
    | (with_reducible refine Keeps.foldl _ (fun t x ht => ?_) ?_)
    | (with_reducible refine Keeps.foldl_snd _ (fun t x ht => ?_) ?_)
    | split
    | dsimp only

theorem execWriteCompletion_keeps {s₀ s : State} {x0} (h : Keeps false s₀ s) : KeepsOut false s₀ (execWriteCompletion x0 s) := by
  unfold execWriteCompletion
  try lift_lets
  repeat' first
    | assumption
    | (intro x; (have hx : Keeps false s₀ x := by (subst x; repeat' first | assumption | (intro y; subst y) | with_reducible apply State.access_keeps | with_reducible apply State.passageErrors_keeps | with_reducible apply State.pump_keeps | with_reducible apply State.moveWritten_keeps | with_reducible apply State.releaseMove_keeps | with_reducible apply State.landWrite_keeps | with_reducible apply State.cribFree_keeps | with_reducible apply State.ctxSettle_keeps | with_reducible apply State.copyWritten_keeps | with_reducible apply State.spillLanded_keeps | with_reducible apply State.pieceLanded_keeps | with_reducible apply Keeps.ite | (with_reducible refine Keeps.setDp (by assumption) _ ?_ ?_) | with_reducible rfl | simp only [List.length_map, List.length_modify, List.length_set, List.length_mapIdx] | with_reducible apply KeepsOut.next | with_reducible exact KeepsOut.fault _ _ | with_reducible apply KeepsOut.ite | with_reducible refine Keeps.of_snd ?_ (by assumption) | split | dsimp only)); clear_value x)
    | (intro x; (have hx : Keeps false s₀ x.2 := by (subst x; repeat' first | assumption | (intro y; subst y) | with_reducible apply State.access_keeps | with_reducible apply State.passageErrors_keeps | with_reducible apply State.pump_keeps | with_reducible apply State.moveWritten_keeps | with_reducible apply State.releaseMove_keeps | with_reducible apply State.landWrite_keeps | with_reducible apply State.cribFree_keeps | with_reducible apply State.ctxSettle_keeps | with_reducible apply State.copyWritten_keeps | with_reducible apply State.spillLanded_keeps | with_reducible apply State.pieceLanded_keeps | with_reducible apply Keeps.ite | (with_reducible refine Keeps.setDp (by assumption) _ ?_ ?_) | with_reducible rfl | simp only [List.length_map, List.length_modify, List.length_set, List.length_mapIdx] | with_reducible apply KeepsOut.next | with_reducible exact KeepsOut.fault _ _ | with_reducible apply KeepsOut.ite | with_reducible refine Keeps.of_snd ?_ (by assumption) | split | dsimp only)); clear_value x)
    | (intro x; subst x)
    | with_reducible apply State.access_keeps
    | with_reducible apply State.passageErrors_keeps
    | with_reducible apply State.pump_keeps
    | with_reducible apply State.moveWritten_keeps
    | with_reducible apply State.releaseMove_keeps
    | with_reducible apply State.landWrite_keeps
    | with_reducible apply State.cribFree_keeps
    | with_reducible apply State.ctxSettle_keeps
    | with_reducible apply State.copyWritten_keeps
    | with_reducible apply State.spillLanded_keeps
    | with_reducible apply State.pieceLanded_keeps
    | with_reducible apply Keeps.ite
    | (with_reducible refine Keeps.setDp (by assumption) _ ?_ ?_)
    | with_reducible rfl
    | simp only [List.length_map, List.length_modify, List.length_set, List.length_mapIdx]
    | with_reducible apply KeepsOut.next
    | with_reducible exact KeepsOut.fault _ _
    | with_reducible apply KeepsOut.ite
    | with_reducible refine Keeps.of_snd ?_ (by assumption)
    | split
    | dsimp only

theorem State.stageRoom_keeps {s₀ s t : State} {x1 x2 x3 p c} (h : Keeps km s₀ s) (e : State.stageRoom s x1 x2 x3 = some (p, c, t)) :
    Keeps km s₀ t := by
  unfold State.stageRoom at e
  extract_lets d at e
  split at e
  · split at e
    · cases e; exact h
    · cases e
  · split at e
    · cases e
    · cases e; exact State.modStage_keeps h

theorem State.stageRow_keeps {s₀ s : State} {x1 x2 x3 x4 x5 x6 x7 x8 x9} (h : Keeps km s₀ s) :
    KeepsOpt km s₀ (State.stageRow s x1 x2 x3 x4 x5 x6 x7 x8 x9) := by
  unfold State.stageRow
  extract_lets -lift +onlyGivenNames b g out
  refine KeepsOpt.ite (KeepsOpt.none _) ?_
  split
  · exact KeepsOpt.none _
  · next e =>
    have h1 := State.stageRoom_keeps h e
    extract_lets -lift +onlyGivenNames c rivals s1
    have h2 : Keeps km s₀ s1 := State.modStage_keeps h1
    clear_value s1
    refine KeepsOpt.some (State.startLast_keeps ?_)
    split
    · exact State.putReadReq_keeps h2
    · exact State.putRead_keeps h2

theorem State.cacheEntry_keeps {s₀ s : State} {x1 x2 x3 x4} (h : Keeps km s₀ s) : Keeps km s₀ (State.cacheEntry s x1 x2 x3 x4) := by
  unfold State.cacheEntry
  try lift_lets
  repeat' first
    | (with_reducible refine Keeps.setDp (by assumption) _ ?_ ?_) | with_reducible rfl

theorem State.walkCharge_keeps {s₀ s : State} {x1 x2 x3 x4} (h : Keeps km s₀ s) : Keeps km s₀ (State.walkCharge s x1 x2 x3 x4) := by
  unfold State.walkCharge
  try lift_lets
  repeat' first
    | assumption | (intro x; subst x) | with_reducible apply State.count_keeps | with_reducible apply State.cacheEntry_keeps
    | with_reducible apply State.chargeEntry_keeps | with_reducible apply State.siloBad_keeps | split

theorem State.scanIndex_keeps {s₀ s : State} {x1 x2 x3 x4 x5} (h : Keeps km s₀ s) : KeepsOpt km s₀ (State.scanIndex s x1 x2 x3 x4 x5) := by
  unfold State.scanIndex
  try lift_lets
  repeat' first
    | assumption | (intro x; subst x) | with_reducible apply State.walkCharge_keeps
    | with_reducible apply State.stageRow_keeps | with_reducible exact KeepsOpt.none _ | with_reducible apply KeepsOpt.some
    | split

theorem State.scanAll_keeps {s₀ s : State} {x0 x1 x2} (h : Keeps km s₀ s) : Keeps km s₀ (State.scanAll x0 x1 x2 s).2 := by
  induction x2 generalizing s with
  | nil => exact h
  | cons a l ih =>
    unfold State.scanAll
    split
    · next e => exact ih (Keeps.of_opt (State.scanIndex_keeps h) e)
    · exact h

theorem execRunaheadScan_keeps {s₀ s : State} {x0 x1} (h : Keeps km s₀ s) : KeepsOut km s₀ (execRunaheadScan x0 x1 s) := by
  unfold execRunaheadScan
  refine KeepsOut.ite (KeepsOut.fault _ _) (KeepsOut.next ?_)
  split
  · exact h
  · extract_lets ra mine ahead
    split
    · exact h
    · exact Keeps.ite h (Keeps.setDp (State.scanAll_keeps h) _ rfl rfl)

theorem execStagingComplete_keeps {s₀ s : State} {x0 x1} (h : Keeps false s₀ s) : KeepsOut false s₀ (execStagingComplete x0 x1 s) := by
  unfold execStagingComplete
  try lift_lets
  repeat' first
    | assumption | with_reducible apply State.deliver'_keeps | with_reducible apply State.badGranules_keeps
    | with_reducible apply Keeps.ite | with_reducible apply KeepsOut.next | split

theorem State.rcAck_keeps {s₀ s : State} {x1 x2} (h : Keeps km s₀ s) : Keeps km s₀ (State.rcAck s x1 x2) := by
  unfold State.rcAck
  try lift_lets
  repeat' first | assumption | with_reducible apply State.sendFrames_keeps | with_reducible apply State.modQp_keeps

theorem State.sendNak_keeps {s₀ s : State} {x1 x2} (h : Keeps km s₀ s) : Keeps km s₀ (State.sendNak s x1 x2) := by
  unfold State.sendNak
  repeat' first | assumption | with_reducible apply State.rcAck_keeps

theorem State.received_keeps {s₀ s : State} {x1 x2} (h : Keeps km s₀ s) : Keeps km s₀ (State.received s x1 x2) := by
  unfold State.received
  try lift_lets
  repeat' first
    | assumption
    | (intro x; (have hx : Keeps km s₀ x := by (subst x; repeat' first | assumption | with_reducible apply State.modQp_keeps | with_reducible apply State.count_keeps)); clear_value x)
    | (intro x; subst x) | with_reducible apply State.rcAck_keeps | with_reducible apply Keeps.ite

theorem State.placeRing_keeps {s₀ s : State} {x1 x2 x3} (h : Keeps false s₀ s) : Keeps false s₀ (State.placeRing s x1 x2 x3) := by
  unfold State.placeRing
  try lift_lets
  repeat' first
    | assumption
    | (intro x; (have hx : Keeps false s₀ x := by (subst x; repeat' first | assumption | with_reducible apply State.chargeDebt_keeps | with_reducible apply State.write_keeps)); clear_value x)
    | (intro x; subst x) | with_reducible apply State.count_keeps | with_reducible apply Keeps.ite

theorem State.addSheaf_keeps {s₀ s : State} {x1} (h : Keeps km s₀ s) : Keeps km s₀ (State.addSheaf s x1) := by
  unfold State.addSheaf
  try lift_lets
  repeat' first
    | (intro x; subst x) | with_reducible apply State.count_keeps
    | (refine Keeps.set (t := ?tt) ?hh ?_ ?_ ?_ ?_ ?_ ?_ ?_ ?_ ?_ ?_; (case hh => exact (by assumption)); all_goals first | with_reducible rfl | (intro hm; with_reducible assumption))

theorem State.loadSections_keeps {s₀ s : State} {x1} (h : Keeps km s₀ s) : Keeps km s₀ (State.loadSections s x1) := by
  unfold State.loadSections
  try lift_lets
  repeat' first | assumption | with_reducible apply State.modSheaf_keeps | with_reducible apply Keeps.ite | split

theorem State.noteEpoch_keeps {s₀ s : State} {x1 x2 x3} (h : Keeps km s₀ s) : Keeps km s₀ (State.noteEpoch s x1 x2 x3) := by
  unfold State.noteEpoch
  try lift_lets
  repeat' first
    | assumption | with_reducible apply State.closeEpochs_keeps | with_reducible apply State.modTable_keeps
    | (with_reducible refine Keeps.foldl _ (fun t x ht => ?_) ?_)

theorem State.acceptUpdate_keeps {s₀ s : State} {x1 x2} (h : Keeps km s₀ s) : Keeps km s₀ (State.acceptUpdate s x1 x2) := by
  unfold State.acceptUpdate
  try lift_lets
  repeat' first
    | assumption
    | (intro x; (have hx : Keeps km s₀ x := by (subst x; repeat' first | assumption | with_reducible apply State.addSheaf_keeps | with_reducible apply State.modSession_keeps)); clear_value x)
    | (intro x; subst x) | with_reducible apply State.noteEpoch_keeps | with_reducible apply State.addSheaf_keeps
    | with_reducible apply State.release_keeps | with_reducible apply Keeps.ite | split

theorem State.rejectDoorbell_keeps {s₀ s : State} {x1} (h : Keeps km s₀ s) : Keeps km s₀ (State.rejectDoorbell s x1) := by
  unfold State.rejectDoorbell
  try lift_lets
  repeat' first
    | assumption | with_reducible apply State.modCounters_keeps | with_reducible apply State.count_keeps

theorem State.acceptSheaf_keeps {s₀ s : State} {x1 x2 x3 x4 x5} (h : Keeps km s₀ s) : Keeps km s₀ (State.acceptSheaf s x1 x2 x3 x4 x5) := by
  unfold State.acceptSheaf
  try lift_lets
  repeat' first
    | (intro x; (have hx : Keeps km s₀ x := by (subst x; repeat' first | assumption | with_reducible apply State.chargeRing_keeps | with_reducible apply State.modCounters_keeps | with_reducible apply State.count_keeps)); clear_value x)
    | (intro x; subst x) | with_reducible apply State.rejectDoorbell_keeps | with_reducible apply State.count_keeps
    | with_reducible apply State.raise_keeps | with_reducible apply State.addSheaf_keeps
    | with_reducible apply State.acceptUpdate_keeps | with_reducible apply Keeps.ite
    | (with_reducible refine Keeps.setDev (by assumption) _)

theorem State.badDoorbell_keeps {s₀ s : State} {x1 x2 x3 x4} (h : Keeps km s₀ s) : Keeps km s₀ (State.badDoorbell s x1 x2 x3 x4) := by
  unfold State.badDoorbell
  try lift_lets
  repeat' first
    | assumption | with_reducible apply State.raise_keeps | with_reducible apply State.modCounters_keeps
    | with_reducible apply State.count_keeps

theorem State.acceptRun_keeps {s₀ s : State} {x0 x1 x2 x3 x4 x5 x6} (h : Keeps km s₀ s) :
    Keeps km s₀ (State.acceptRun x0 x1 x2 x3 x4 x5 x6 s) := by
  induction x5 generalizing s x6 with
  | zero => exact h
  | succ k ih =>
    unfold State.acceptRun
    have hb (k : Nat) : Keeps km s₀ (s.badDoorbell x0 x6 x4 k) := State.badDoorbell_keeps h
    exact Keeps.ite (hb _) (Keeps.ite (hb _) (Keeps.ite (hb _) (Keeps.ite (hb _) (ih (State.acceptSheaf_keeps h)))))

theorem State.countFull_keeps {s₀ s : State} {x1} (h : Keeps km s₀ s) : Keeps km s₀ (State.countFull s x1) := by
  unfold State.countFull
  try lift_lets
  repeat' first | assumption | with_reducible apply State.modCounters_keeps | with_reducible apply State.count_keeps

theorem State.ring_keeps {s₀ s : State} {x1 x2 x3 x4 x5 x6} (h : Keeps km s₀ s) : Keeps km s₀ (State.ring s x1 x2 x3 x4 x5 x6) := by
  unfold State.ring
  try lift_lets
  repeat' first
    | assumption | with_reducible apply State.rejectDoorbell_keeps | with_reducible apply State.acceptRun_keeps
    | with_reducible apply State.modBay_keeps | with_reducible apply Keeps.ite

theorem State.ringWord_keeps {s₀ s : State} {x1 x2 x3} (h : Keeps km s₀ s) : Keeps km s₀ (State.ringWord s x1 x2 x3) := by
  unfold State.ringWord
  repeat' first
    | assumption | with_reducible apply State.ring_keeps | with_reducible apply State.countFull_keeps
    | with_reducible apply State.badDoorbell_keeps | with_reducible apply State.received_keeps
    | with_reducible apply Keeps.ite

theorem execHatchRingWrite_keeps {s₀ s : State} {x0 x1 x2 x3} (h : Keeps false s₀ s) : KeepsOut false s₀ (execHatchRingWrite x0 x1 x2 x3 s) := by
  unfold execHatchRingWrite
  try lift_lets
  repeat' first
    | assumption | with_reducible apply State.ringWord_keeps | with_reducible apply State.placeRing_keeps
    | with_reducible apply State.received_keeps | with_reducible apply State.sendNak_keeps | with_reducible apply Keeps.ite
    | with_reducible apply KeepsOut.next | split

theorem execDoorbell_keeps {s₀ s : State} {x0} (h : Keeps false s₀ s) : KeepsOut false s₀ (execDoorbell x0 s) := by
  unfold execDoorbell
  try lift_lets
  repeat' first
    | assumption | with_reducible apply State.ringWord_keeps | with_reducible apply State.ring_keeps
    | with_reducible apply State.countFull_keeps | with_reducible apply State.placeRing_keeps
    | with_reducible apply State.received_keeps | with_reducible apply State.sendNak_keeps | with_reducible apply Keeps.ite
    | with_reducible apply KeepsOut.next | split

theorem execHoldRelease_keeps {s₀ s : State} {x0} (h : Keeps km s₀ s) : KeepsOut km s₀ (execHoldRelease x0 s) := by
  unfold execHoldRelease
  repeat' first | assumption | with_reducible apply State.release_keeps | with_reducible apply KeepsOut.next

theorem execSheafDispatch_keeps {s₀ s : State} {x0} (h : Keeps km s₀ s) : KeepsOut km s₀ (execSheafDispatch x0 s) := by
  unfold execSheafDispatch
  try lift_lets
  repeat' first
    | assumption | with_reducible apply Keeps.ite | with_reducible apply KeepsOut.next
    | (with_reducible refine Keeps.setDp (by with_reducible exact State.modSheaf_keeps (by assumption)) _ ?_ ?_)
    | with_reducible rfl | simp only [List.length_map, List.length_modify, List.length_set] | split

end Sys2Proof.Machine
end

