-- ==== Sys2Proof/Laws/KeepsSheaf.lean ====
section
/-! SUPPORT. What each operation keeps: crews, the hands and their commands. -/

set_option maxRecDepth 4000
set_option Elab.async false
set_option linter.unusedSimpArgs false

namespace Sys2Proof.Machine

variable {km : Bool}

theorem State.modCrew_keeps {s₀ s : State} {x1 x2} (h : Keeps km s₀ s) : Keeps km s₀ (State.modCrew s x1 x2) := by
  unfold State.modCrew
  try lift_lets
  repeat' first
    | (intro x; subst x) | (with_reducible refine Keeps.setDp (by assumption) _ ?_ ?_) | with_reducible rfl
    | simp only [List.length_map, List.length_modify, List.length_set]

theorem State.modJobOf_keeps {s₀ s : State} {x1 x2} (h : Keeps km s₀ s) : Keeps km s₀ (State.modJobOf s x1 x2) := by
  unfold State.modJobOf
  try lift_lets
  repeat' first | assumption | with_reducible apply State.modCrew_keeps

theorem State.beginJob_keeps {s₀ s : State} {x1 x2 x3 x4 x5 x6 x7 x8 x9} (h : Keeps false s₀ s) :
    Keeps false s₀ (State.beginJob s x1 x2 x3 x4 x5 x6 x7 x8 x9) := by
  unfold State.beginJob
  exact State.modCrew_keeps (Keeps.foldl _ (fun _ _ q => State.write_keeps q) (Keeps.setDp h _ rfl rfl))

theorem State.allExit_keeps {s₀ s : State} {x1} (h : Keeps km s₀ s) : Keeps km s₀ (State.allExit s x1) := by
  unfold State.allExit
  try lift_lets
  repeat' first | assumption | with_reducible apply State.modJobOf_keeps

theorem State.takeSeq_keeps {s₀ s : State} (h : Keeps km s₀ s) : Keeps km s₀ (State.takeSeq s).2 := by
  unfold State.takeSeq
  try lift_lets
  repeat' first | (intro x; subst x) | (with_reducible refine Keeps.setDp (by assumption) _ ?_ ?_) | with_reducible rfl

theorem State.emitEntries_keeps {s₀ s : State} {x1 x2 x3} (h : Keeps km s₀ s) : Keeps km s₀ (State.emitEntries s x1 x2 x3) := by
  unfold State.emitEntries
  try lift_lets
  repeat' first
    | assumption | with_reducible apply State.takeSeq_keeps | with_reducible apply State.modJobOf_keeps
    | (with_reducible refine Keeps.foldl _ (fun t x ht => ?_) ?_)

theorem State.gleanSection_keeps {s₀ s : State} {x1 x2 x3 x4 x5} (h : Keeps km s₀ s) : Keeps km s₀ (State.gleanSection s x1 x2 x3 x4 x5) := by
  unfold State.gleanSection
  try lift_lets
  repeat' first
    | assumption
    | (intro x; (have hx : Keeps km s₀ x := by (subst x; repeat' first | assumption | with_reducible apply State.walkCharge_keeps | with_reducible apply State.modSection_keeps | (with_reducible refine Keeps.foldl _ (fun t x ht => ?_) ?_))); clear_value x)
    | (intro x; subst x) | with_reducible apply State.emitEntries_keeps | with_reducible apply Keeps.ite

theorem State.countNonFinite_keeps {s₀ s : State} {x1 x2 x3} (h : Keeps km s₀ s) : Keeps km s₀ (State.countNonFinite s x1 x2 x3) := by
  unfold State.countNonFinite
  try lift_lets
  repeat' first
    | assumption
    | with_reducible apply State.modTable_keeps
    | with_reducible apply State.raise_keeps
    | with_reducible apply Keeps.ite
    | split
    | dsimp only

theorem State.expandAll_keeps {s₀ s : State} {x1 x2} (h : Keeps km s₀ s) : Keeps km s₀ (State.expandAll s x1 x2) := by
  unfold State.expandAll
  try lift_lets
  repeat' first
    | assumption
    | (intro x; (have hx : Keeps km s₀ x := by (subst x; repeat' first | assumption | (intro y; subst y) | with_reducible apply State.countNonFinite_keeps | with_reducible apply State.takeSeq_keeps | with_reducible apply State.modCtx_keeps | with_reducible apply Keeps.ite | (with_reducible refine Keeps.foldl _ (fun t x ht => ?_) ?_) | (with_reducible refine Keeps.foldl_snd _ (fun t x ht => ?_) ?_) | (with_reducible refine Keeps.setDev (by assumption) _) | with_reducible rfl | simp only [List.length_map, List.length_modify, List.length_set, List.length_mapIdx] | with_reducible refine Keeps.of_snd ?_ (by assumption) | split | dsimp only)); clear_value x)
    | (intro x; (have hx : Keeps km s₀ x.2 := by (subst x; repeat' first | assumption | (intro y; subst y) | with_reducible apply State.countNonFinite_keeps | with_reducible apply State.takeSeq_keeps | with_reducible apply State.modCtx_keeps | with_reducible apply Keeps.ite | (with_reducible refine Keeps.foldl _ (fun t x ht => ?_) ?_) | (with_reducible refine Keeps.foldl_snd _ (fun t x ht => ?_) ?_) | (with_reducible refine Keeps.setDev (by assumption) _) | with_reducible rfl | simp only [List.length_map, List.length_modify, List.length_set, List.length_mapIdx] | with_reducible refine Keeps.of_snd ?_ (by assumption) | split | dsimp only)); clear_value x)
    | (intro x; subst x)
    | with_reducible apply State.countNonFinite_keeps
    | with_reducible apply State.takeSeq_keeps
    | with_reducible apply State.modCtx_keeps
    | with_reducible apply Keeps.ite
    | (with_reducible refine Keeps.foldl _ (fun t x ht => ?_) ?_)
    | (with_reducible refine Keeps.foldl_snd _ (fun t x ht => ?_) ?_)
    | (with_reducible refine Keeps.setDev (by assumption) _)
    | with_reducible rfl
    | simp only [List.length_map, List.length_modify, List.length_set, List.length_mapIdx]
    | with_reducible refine Keeps.of_snd ?_ (by assumption)
    | split
    | dsimp only

theorem State.putOut_keeps {s₀ s : State} {x1 x2 x3 x4 x5 x6 x7} (h : Keeps km s₀ s) : Keeps km s₀ (State.putOut s x1 x2 x3 x4 x5 x6 x7) := by
  unfold State.putOut
  try lift_lets
  repeat' first
    | assumption
    | (intro x; (have hx : Keeps km s₀ x := by (subst x; repeat' first | assumption | (intro y; subst y) | with_reducible apply State.modSection_keeps | with_reducible apply State.modSheaf_keeps | with_reducible apply State.countSat_keeps | with_reducible apply State.count_keeps | with_reducible apply State.modTable_keeps | with_reducible apply Keeps.ite | split | dsimp only)); clear_value x)
    | (intro x; subst x)
    | with_reducible apply State.modSection_keeps
    | with_reducible apply State.modSheaf_keeps
    | with_reducible apply State.countSat_keeps
    | with_reducible apply State.count_keeps
    | with_reducible apply State.modTable_keeps
    | with_reducible apply Keeps.ite
    | split
    | dsimp only

theorem State.dropUnbound_keeps {s₀ s : State} {x1 x2} (h : Keeps km s₀ s) : Keeps km s₀ (State.dropUnbound s x1 x2) := by
  unfold State.dropUnbound
  try lift_lets
  repeat' first
    | assumption
    | (intro x; (have hx : Keeps km s₀ x := by (subst x; repeat' first | assumption | (intro y; subst y) | with_reducible apply Keeps.ite | (with_reducible refine Keeps.setDp (by assumption) _ ?_ ?_) | with_reducible rfl | simp only [List.length_map, List.length_modify, List.length_set, List.length_mapIdx] | split | dsimp only)); clear_value x)
    | (intro x; subst x)
    | with_reducible apply Keeps.ite
    | (with_reducible refine Keeps.setDp (by assumption) _ ?_ ?_)
    | with_reducible rfl
    | simp only [List.length_map, List.length_modify, List.length_set, List.length_mapIdx]
    | split
    | dsimp only

theorem State.abortSheaf_keeps {s₀ s : State} {x1 x2} (h : Keeps km s₀ s) : Keeps km s₀ (State.abortSheaf s x1 x2) := by
  unfold State.abortSheaf
  split
  · exact h
  · extract_lets -lift +onlyGivenNames runs s1 mine
    have h1 : Keeps km s₀ s1 := Keeps.ite (State.stopContexts_keeps h) h
    clear_value s1
    refine Keeps.foldl _ (fun _ _ q => State.ctxSettle_keeps q) (State.modSheaf_keeps (State.dropReads_keeps ?_))
    exact Keeps.setDp h1 _ (List.length_map ..) (List.length_map ..)

theorem doSheafCancel_keeps {s₀ s : State} {x0} (h : Keeps km s₀ s) : Keeps km s₀ (doSheafCancel x0 s).2 := by
  unfold doSheafCancel
  try lift_lets
  repeat' first
    | assumption | with_reducible apply State.abortSheaf_keeps | with_reducible apply Ctx.fields_keeps
    | with_reducible apply okWith_keeps | with_reducible apply Keeps.ite_snd | split

theorem execSheafCancel_keeps {s₀ s : State} {x0} (h : Keeps km s₀ s) : KeepsOut km s₀ (execSheafCancel x0 s) := by
  exact runCommand_keeps (fun _ _ ht => doSheafCancel_keeps ht) h

theorem State.blankBag_keeps {s₀ s : State} {x1 x2 x3 x4} (h : Keeps km s₀ s) : Keeps km s₀ (State.blankBag s x1 x2 x3 x4) := by
  unfold State.blankBag
  try lift_lets
  repeat' first
    | assumption
    | (intro x; (have hx : Keeps km s₀ x := by (subst x; repeat' first | assumption | (intro y; subst y) | with_reducible apply State.modSection_keeps | with_reducible apply State.modSheaf_keeps | with_reducible apply State.putOut_keeps | split | dsimp only)); clear_value x)
    | (intro x; subst x)
    | with_reducible apply State.modSection_keeps
    | with_reducible apply State.modSheaf_keeps
    | with_reducible apply State.putOut_keeps
    | split
    | dsimp only

theorem State.blankSection_keeps {s₀ s : State} {x1 x2} (h : Keeps km s₀ s) : Keeps km s₀ (State.blankSection s x1 x2) := by
  unfold State.blankSection
  try lift_lets
  repeat' first
    | assumption
    | (intro x; (have hx : Keeps km s₀ x := by (subst x; repeat' first | assumption | (intro y; subst y) | with_reducible apply State.modSection_keeps | with_reducible apply State.blankBag_keeps | with_reducible apply State.giveSlot_keeps | with_reducible apply Keeps.ite | (with_reducible refine Keeps.foldl _ (fun t x ht => ?_) ?_) | (with_reducible refine Keeps.foldl_snd _ (fun t x ht => ?_) ?_) | split | dsimp only)); clear_value x)
    | (intro x; subst x)
    | with_reducible apply State.modSection_keeps
    | with_reducible apply State.blankBag_keeps
    | with_reducible apply State.giveSlot_keeps
    | with_reducible apply Keeps.ite
    | (with_reducible refine Keeps.foldl _ (fun t x ht => ?_) ?_)
    | (with_reducible refine Keeps.foldl_snd _ (fun t x ht => ?_) ?_)
    | split
    | dsimp only

theorem State.gleanFaulted_keeps {s₀ s : State} {x1} (h : Keeps km s₀ s) : Keeps km s₀ (State.gleanFaulted s x1) := by
  unfold State.gleanFaulted
  try lift_lets
  repeat' first
    | assumption
    | (intro x; (have hx : Keeps km s₀ x := by (subst x; repeat' first | assumption | (intro y; subst y) | with_reducible apply State.modSheaf_keeps | with_reducible apply State.blankSection_keeps | (with_reducible refine Keeps.foldl _ (fun t x ht => ?_) ?_) | (with_reducible refine Keeps.foldl_snd _ (fun t x ht => ?_) ?_) | (with_reducible refine Keeps.setDp (by assumption) _ ?_ ?_) | with_reducible rfl | simp only [List.length_map, List.length_modify, List.length_set, List.length_mapIdx] | split | dsimp only)); clear_value x)
    | (intro x; subst x)
    | with_reducible apply State.modSheaf_keeps
    | with_reducible apply State.blankSection_keeps
    | (with_reducible refine Keeps.foldl _ (fun t x ht => ?_) ?_)
    | (with_reducible refine Keeps.foldl_snd _ (fun t x ht => ?_) ?_)
    | (with_reducible refine Keeps.setDp (by assumption) _ ?_ ?_)
    | with_reducible rfl
    | simp only [List.length_map, List.length_modify, List.length_set, List.length_mapIdx]
    | split
    | dsimp only

theorem State.modMatrix_keeps {s₀ s : State} {x1 x2} (h : Keeps km s₀ s) : Keeps km s₀ (State.modMatrix s x1 x2) := by
  unfold State.modMatrix
  try lift_lets
  repeat' first
    | (with_reducible refine Keeps.setDp (by assumption) _ ?_ ?_) | with_reducible rfl

theorem State.moveFaulted_keeps {s₀ s : State} {x1} (h : Keeps false s₀ s) : Keeps false s₀ (State.moveFaulted s x1) := by
  unfold State.moveFaulted
  try lift_lets
  repeat' first
    | assumption
    | (intro x; (have hx : Keeps false s₀ x := by (subst x; repeat' first | with_reducible apply State.modJob_keeps | with_reducible apply State.dropReads_keeps | (with_reducible refine Keeps.setDp (by assumption) _ ?_ ?_) | with_reducible rfl)); clear_value x)
    | (intro x; subst x) | with_reducible apply State.modTable_keeps | with_reducible apply State.endJob_keeps
    | with_reducible apply State.moveNext_keeps | with_reducible apply State.countItem_keeps
    | with_reducible apply State.moveRead_keeps | with_reducible apply State.releaseMove_keeps | split

theorem State.reloadCode_keeps {s₀ s : State} {x1 x2} (h : Keeps false s₀ s) : Keeps false s₀ (State.reloadCode s x1 x2) := by
  unfold State.reloadCode
  try lift_lets
  repeat' first
    | assumption | with_reducible apply State.write_keeps | (with_reducible refine Keeps.foldl _ (fun t x ht => ?_) ?_)

theorem State.endRuns_keeps {s₀ s : State} {x1} (h : Keeps km s₀ s) : Keeps km s₀ (State.endRuns s x1) := by
  unfold State.endRuns
  try lift_lets
  repeat' first
    | (with_reducible refine Keeps.setDp (by assumption) _ ?_ ?_)
    | simp only [List.length_map, List.length_modify, List.length_set, List.length_mapIdx]

theorem State.crewFault_keeps {s₀ s : State} {x1 x2 x3 x4 x5} (h : Keeps false s₀ s) : Keeps false s₀ (State.crewFault s x1 x2 x3 x4 x5) := by
  unfold State.crewFault
  try lift_lets
  repeat' first
    | assumption
    | (intro x; (have hx : Keeps false s₀ x := by (subst x; repeat' first | assumption | (intro y; subst y) | with_reducible apply State.raise_keeps | with_reducible apply State.modCounters_keeps | with_reducible apply State.count_keeps | with_reducible apply State.stopContexts_keeps | with_reducible apply State.dropReads_keeps | with_reducible apply State.reloadCode_keeps | with_reducible apply State.modCrew_keeps | with_reducible apply State.dropUnbound_keeps | with_reducible apply State.gleanFaulted_keeps | with_reducible apply State.ctxSettle_keeps | with_reducible apply State.modSheaf_keeps | with_reducible apply State.modMatrix_keeps | with_reducible apply State.moveFaulted_keeps | with_reducible apply State.endRuns_keeps | with_reducible apply State.endJob_keeps | with_reducible apply Keeps.ite | (with_reducible refine Keeps.foldl _ (fun t x ht => ?_) ?_) | (with_reducible refine Keeps.foldl_snd _ (fun t x ht => ?_) ?_) | (with_reducible refine Keeps.setDev (by assumption) _) | with_reducible rfl | simp only [List.length_map, List.length_modify, List.length_set, List.length_mapIdx] | split | dsimp only)); clear_value x)
    | (intro x; subst x)
    | with_reducible apply State.raise_keeps
    | with_reducible apply State.modCounters_keeps
    | with_reducible apply State.count_keeps
    | with_reducible apply State.stopContexts_keeps
    | with_reducible apply State.dropReads_keeps
    | with_reducible apply State.reloadCode_keeps
    | with_reducible apply State.modCrew_keeps
    | with_reducible apply State.dropUnbound_keeps
    | with_reducible apply State.gleanFaulted_keeps
    | with_reducible apply State.ctxSettle_keeps
    | with_reducible apply State.modSheaf_keeps
    | with_reducible apply State.modMatrix_keeps
    | with_reducible apply State.moveFaulted_keeps
    | with_reducible apply State.endRuns_keeps
    | with_reducible apply State.endJob_keeps
    | with_reducible apply Keeps.ite
    | (with_reducible refine Keeps.foldl _ (fun t x ht => ?_) ?_)
    | (with_reducible refine Keeps.foldl_snd _ (fun t x ht => ?_) ?_)
    | (with_reducible refine Keeps.setDev (by assumption) _)
    | with_reducible rfl
    | simp only [List.length_map, List.length_modify, List.length_set, List.length_mapIdx]
    | split
    | dsimp only

theorem execHandFault_keeps {s₀ s : State} {x0 x1 x2 x3 x4} (h : Keeps false s₀ s) : KeepsOut false s₀ (execHandFault x0 x1 x2 x3 x4 s) := by
  unfold execHandFault
  try lift_lets
  repeat' first
    | assumption | with_reducible apply State.crewFault_keeps | with_reducible apply KeepsOut.next
    | with_reducible exact KeepsOut.fault _ _ | split

theorem execCycleBudgetExhausted_keeps {s₀ s : State} {x0 x1} (h : Keeps false s₀ s) : KeepsOut false s₀ (execCycleBudgetExhausted x0 x1 s) := by
  unfold execCycleBudgetExhausted
  try lift_lets
  repeat' first
    | assumption | with_reducible apply State.crewFault_keeps | with_reducible apply KeepsOut.next
    | with_reducible exact KeepsOut.fault _ _ | split

theorem State.endAtStart_keeps {s₀ s : State} {x1 x2 x3} (h : Keeps km s₀ s) : Keeps km s₀ (State.endAtStart s x1 x2 x3) := by
  unfold State.endAtStart
  try lift_lets
  repeat' first | assumption | with_reducible apply State.modCrew_keeps | with_reducible apply State.modSheaf_keeps

theorem State.startSheaf_keeps {s₀ s : State} {x1 x2} (h : Keeps false s₀ s) : Keeps false s₀ (State.startSheaf s x1 x2) := by
  unfold State.startSheaf
  extract_lets -lift +onlyGivenNames role s1
  have h1 : Keeps false s₀ s1 := State.chargeRing_keeps h
  clear_value s1
  refine Keeps.ite (State.endAtStart_keeps h1) ?_
  extract_lets -lift +onlyGivenNames s2
  have h2 : Keeps false s₀ s2 := State.loadSections_keeps h1
  clear_value s2
  split
  · exact h2
  · refine Keeps.ite (State.endAtStart_keeps h2) (Keeps.ite (State.endAtStart_keeps h2) ?_)
    extract_lets -lift +onlyGivenNames s3
    have h3 : Keeps false s₀ s3 := State.modCrew_keeps h2
    clear_value s3
    refine Keeps.ite (State.modSheaf_keeps h3) ?_
    split
    extract_lets -lift +onlyGivenNames s4 s5 ctxs
    have h5 : Keeps false s₀ s5 := State.modSheaf_keeps (State.beginJob_keeps h3)
    clear_value s5
    refine Keeps.ite (Keeps.ite h5 (State.modSheaf_keeps h5))
      (Keeps.ite (State.allExit_keeps (State.expandAll_keeps h5)) ?_)
    exact State.feed_keeps (State.allExit_keeps (Keeps.foldl _ (fun _ _ q => State.gleanSection_keeps q) h5))

theorem State.startRunJob_keeps {s₀ s : State} {x1 x2} (h : Keeps false s₀ s) : Keeps false s₀ (State.startRunJob s x1 x2) := by
  unfold State.startRunJob
  split
  · exact h
  · extract_lets -lift +onlyGivenNames crews ready
    refine Keeps.ite h ?_
    extract_lets -lift +onlyGivenNames page s1
    have h1 : Keeps false s₀ s1 := State.modJob_keeps h
    clear_value s1
    exact Keeps.foldl _ (fun _ _ q => State.beginJob_keeps (State.write_keeps q)) h1

theorem State.runZpsum_keeps {s₀ s : State} {x1 x2} (h : Keeps false s₀ s) : Keeps false s₀ (State.runZpsum s x1 x2) := by
  unfold State.runZpsum
  extract_lets -lift +onlyGivenNames die s1 s2
  have h1 : Keeps false s₀ s1 := State.beginJob_keeps h
  clear_value s1
  have h2 : Keeps false s₀ s2 := State.allExit_keeps (State.modMatrix_keeps h1)
  clear_value s2
  split
  · exact h2
  · extract_lets -lift +onlyGivenNames out
    refine Keeps.ite h2 ?_
    extract_lets -lift +onlyGivenNames vals s3
    have h3 : Keeps false s₀ s3 := Keeps.foldl _ (fun _ _ q => State.access_keeps q) h2
    clear_value s3
    exact State.access_keeps (State.heal_keeps (State.write_keeps h3))

theorem State.runMove_keeps {s₀ s : State} {x1 x2 x3} (h : Keeps false s₀ s) : Keeps false s₀ (State.runMove s x1 x2 x3) := by
  unfold State.runMove
  extract_lets -lift +onlyGivenNames s1
  have h1 : Keeps false s₀ s1 := State.beginJob_keeps h
  clear_value s1
  exact Keeps.ite (State.moveNext_keeps h1) h1

theorem State.startStandard_keeps {s₀ s : State} {x1 x2} (h : Keeps false s₀ s) : Keeps false s₀ (State.startStandard s x1 x2) := by
  unfold State.startStandard
  try lift_lets
  repeat' first
    | assumption | with_reducible apply State.runZpsum_keeps | with_reducible apply State.runMove_keeps | split

theorem execJobStart_keeps {s₀ s : State} {x0} (h : Keeps false s₀ s) : KeepsOut false s₀ (execJobStart x0 s) := by
  unfold execJobStart
  try lift_lets
  repeat' first
    | assumption
    | with_reducible apply State.modCrew_keeps
    | with_reducible apply State.inBudget_keeps
    | with_reducible apply State.startSheaf_keeps
    | with_reducible apply State.startRunJob_keeps
    | with_reducible apply State.startStandard_keeps
    | with_reducible apply Keeps.ite
    | (with_reducible refine Keeps.setDev (by assumption) _)
    | with_reducible rfl
    | simp only [List.length_map, List.length_modify, List.length_set, List.length_mapIdx]
    | with_reducible apply KeepsOut.next
    | with_reducible exact KeepsOut.fault _ _
    | with_reducible apply KeepsOut.ite
    | split
    | dsimp only

theorem State.endCrewJob_keeps {s₀ s : State} {x1 x2} (h : Keeps km s₀ s) : Keeps km s₀ (State.endCrewJob s x1 x2) := by
  unfold State.endCrewJob
  try lift_lets
  repeat' first
    | (intro x; subst x) | with_reducible apply State.dropUnbound_keeps | with_reducible apply State.modCrew_keeps
    | with_reducible apply State.modSheaf_keeps | with_reducible apply State.fetchFused_keeps
    | with_reducible apply State.pump_keeps | with_reducible apply State.ctxSettle_keeps
    | with_reducible apply State.endRuns_keeps | with_reducible apply State.endJob_keeps
    | with_reducible apply State.modMatrix_keeps | (with_reducible refine Keeps.foldl _ (fun t x ht => ?_) ?_)
    | (with_reducible refine Keeps.setDp (by assumption) _ ?_ ?_) | with_reducible rfl | split

theorem execJobEnd_keeps {s₀ s : State} {x0} (h : Keeps km s₀ s) : KeepsOut km s₀ (execJobEnd x0 s) := by
  unfold execJobEnd
  try lift_lets
  repeat' first
    | assumption | with_reducible apply State.endCrewJob_keeps | with_reducible apply Keeps.ite
    | with_reducible apply KeepsOut.next | with_reducible exact KeepsOut.fault _ _ | with_reducible apply KeepsOut.ite | split

theorem State.giveUp_keeps {s₀ s : State} {x1 x2 x3} (h : Keeps km s₀ s) : Keeps km s₀ (State.giveUp s x1 x2 x3) := by
  unfold State.giveUp
  try lift_lets
  repeat' first
    | assumption
    | (intro x; (have hx : Keeps km s₀ x := by (subst x; repeat' first | assumption | with_reducible apply State.modTable_keeps)); clear_value x)
    | with_reducible apply State.raise_keeps

theorem doHandLoad_keeps {s₀ s : State} {x0} (h : Keeps false s₀ s) : Keeps false s₀ (doHandLoad x0 s).2 := by
  unfold doHandLoad
  try lift_lets
  repeat' first
    | assumption | with_reducible apply Ctx.fields_keeps | with_reducible apply takeSource_keeps
    | with_reducible apply fail_keeps | with_reducible apply State.raise_keeps | with_reducible apply park_keeps
    | with_reducible apply State.modBay_keeps | with_reducible apply State.allocBytes_keeps
    | with_reducible apply State.fillRuns_keeps | with_reducible apply State.write_keeps | with_reducible apply okWith_keeps
    | with_reducible apply Keeps.ite_snd | (with_reducible refine Keeps.foldl _ (fun t x ht => ?_) ?_)
    | with_reducible refine Keeps.of_opt2 ?_ (by assumption) | split

theorem execHandLoad_keeps {s₀ s : State} {x0} (h : Keeps false s₀ s) : KeepsOut false s₀ (execHandLoad x0 s) := by
  exact runCommand_keeps (fun _ _ ht => paced_keeps (fun _ _ => doHandLoad_keeps) ht) h

theorem doHandUnload_keeps {s₀ s : State} {x0} (h : Keeps km s₀ s) : Keeps km s₀ (doHandUnload x0 s).2 := by
  unfold doHandUnload
  try lift_lets
  repeat' first
    | assumption | (intro x; subst x) | with_reducible apply refuseIf_keeps | with_reducible apply Ctx.fields_keeps
    | with_reducible apply okWith_keeps | with_reducible apply State.modBay_keeps

theorem execHandUnload_keeps {s₀ s : State} {x0} (h : Keeps km s₀ s) : KeepsOut km s₀ (execHandUnload x0 s) := by
  exact runCommand_keeps (fun _ _ ht => doHandUnload_keeps ht) h

theorem doHandBind_keeps {s₀ s : State} {x0} (h : Keeps km s₀ s) : Keeps km s₀ (doHandBind x0 s).2 := by
  unfold doHandBind
  try lift_lets
  repeat' first
    | assumption | (intro x; subst x) | with_reducible apply onTable_keeps | with_reducible apply inOrder_keeps
    | with_reducible apply okWith_keeps | with_reducible apply State.modBay_keeps | split | dsimp only
    | (guard_target =~ ∀ _, _; intro _)

theorem execHandBind_keeps {s₀ s : State} {x0} (h : Keeps km s₀ s) : KeepsOut km s₀ (execHandBind x0 s) := by
  exact runCommand_keeps (fun _ _ ht => doHandBind_keeps ht) h

theorem doHandRun_keeps {s₀ s : State} {x0} (h : Keeps km s₀ s) : Keeps km s₀ (doHandRun x0 s).2 := by
  unfold doHandRun
  try lift_lets
  repeat' first
    | assumption | (intro x; subst x) | with_reducible apply State.modCrew_keeps | with_reducible apply takeSource_keeps
    | with_reducible apply State.modJob_keeps | with_reducible apply State.startJob_keeps
    | with_reducible apply Ctx.fields_keeps | (with_reducible refine Keeps.foldl _ (fun t x ht => ?_) ?_)

theorem execHandRun_keeps {s₀ s : State} {x0} (h : Keeps km s₀ s) : KeepsOut km s₀ (execHandRun x0 s) := by
  exact runCommand_keeps (fun _ _ ht => paced_keeps (fun _ _ => doHandRun_keeps) ht) h

theorem doHandQuery_keeps {s₀ s : State} {x0} (h : Keeps km s₀ s) : Keeps km s₀ (doHandQuery x0 s).2 := by
  unfold doHandQuery
  try lift_lets
  repeat' first | assumption | (intro x; subst x) | with_reducible apply Ctx.fields_keeps

theorem execHandQuery_keeps {s₀ s : State} {x0} (h : Keeps km s₀ s) : KeepsOut km s₀ (execHandQuery x0 s) := by
  exact runCommand_keeps (fun _ _ ht => doHandQuery_keeps ht) h

theorem State.onHand_keeps {s₀ s : State} {crew hand pc len} {f : Nat → Job → Hand → State → State}
    (hf : ∀ b j x t, Keeps false s₀ t → Keeps false s₀ (f b j x t)) (h : Keeps false s₀ s) : KeepsOut false s₀ (State.onHand s crew hand pc len f) := by
  unfold State.onHand
  refine KeepsOut.ite (KeepsOut.fault _ _) (KeepsOut.next ?_)
  split
  · split
    · exact h
    · exact Keeps.ite h (Keeps.ite (State.crewFault_keeps h) (hf _ _ _ _ (State.modHand_keeps h)))
  · exact h

theorem State.ringLoad_keeps {s₀ s : State} {x1 x2 x3 x4 x5 x6} (h : Keeps km s₀ s) : KeepsOpt2 km s₀ (State.ringLoad s x1 x2 x3 x4 x5 x6) := by
  unfold State.ringLoad
  try lift_lets
  repeat' first
    | assumption
    | (intro x; (have hx : Keeps km s₀ x := by (subst x; repeat' first | assumption | (intro y; subst y) | with_reducible apply State.chargeRing_keeps | with_reducible apply State.addPoison_keeps | with_reducible apply State.ring_keeps | with_reducible apply State.siloBad_keeps | with_reducible apply Keeps.ite | with_reducible exact KeepsOpt2.none _ | with_reducible apply KeepsOpt2.some | with_reducible apply KeepsOpt2.ite | split)); clear_value x)
    | (intro x; subst x)
    | with_reducible apply State.chargeRing_keeps
    | with_reducible apply State.addPoison_keeps
    | with_reducible apply State.ring_keeps
    | with_reducible apply State.siloBad_keeps
    | with_reducible apply Keeps.ite
    | with_reducible exact KeepsOpt2.none _
    | with_reducible apply KeepsOpt2.some
    | with_reducible apply KeepsOpt2.ite
    | split

theorem State.handLoad_keeps {s₀ s : State} {x1 x2 x3 x4 x5 x6 x7 x8 x9} (h : Keeps false s₀ s) : Keeps false s₀ (State.handLoad s x1 x2 x3 x4 x5 x6 x7 x8 x9).2 := by
  unfold State.handLoad
  try lift_lets
  repeat' first
    | assumption
    | (intro x; (have hx : Keeps false s₀ x := by (subst x; repeat' first | assumption | (intro y; subst y) | with_reducible apply State.modHand_keeps | with_reducible apply State.crewFault_keeps | with_reducible apply State.putRead_keeps | with_reducible apply State.pump_keeps | with_reducible apply State.ring_keeps | with_reducible apply State.ringLoad_keeps | with_reducible apply Keeps.ite | with_reducible apply Keeps.ite_snd | with_reducible refine Keeps.of_opt2 ?_ (by assumption) | split | dsimp only)); clear_value x)
    | (intro x; subst x)
    | with_reducible apply State.modHand_keeps
    | with_reducible apply State.crewFault_keeps
    | with_reducible apply State.putRead_keeps
    | with_reducible apply State.pump_keeps
    | with_reducible apply State.ring_keeps
    | with_reducible apply State.ringLoad_keeps
    | with_reducible apply Keeps.ite
    | with_reducible apply Keeps.ite_snd
    | with_reducible refine Keeps.of_opt2 ?_ (by assumption)
    | split
    | dsimp only

theorem State.unreserve_keeps {s₀ s : State} {x1 x2 x3 x4 x5} (h : Keeps km s₀ s) : Keeps km s₀ (State.unreserve s x1 x2 x3 x4 x5) :=
  Keeps.setDp h _ (by simp) rfl

theorem State.handStore_keeps {s₀ s : State} {x1 x2 x3 x4 x5 x6 x7} (h : Keeps false s₀ s) : Keeps false s₀ (State.handStore s x1 x2 x3 x4 x5 x6 x7).2 := by
  unfold State.handStore
  try lift_lets
  repeat' first
    | assumption | (intro x; subst x) | with_reducible apply State.crewFault_keeps
    | with_reducible apply State.unreserve_keeps | with_reducible apply State.write_keeps | split

theorem State.handReserve_keeps {s₀ s : State} {x1 x2 x3 x4 x5 x6 x7 x8 x9} (h : Keeps false s₀ s) : Keeps false s₀ (State.handReserve s x1 x2 x3 x4 x5 x6 x7 x8 x9) := by
  unfold State.handReserve
  try lift_lets
  repeat' first
    | assumption
    | with_reducible apply State.crewFault_keeps
    | with_reducible apply State.modHand_keeps
    | with_reducible apply State.handLoad_keeps
    | with_reducible apply Keeps.ite
    | with_reducible refine Keeps.of_snd ?_ (by assumption)
    | split
    | dsimp only

theorem State.handConditional_keeps {s₀ s : State} {x1 x2 x3 x4 x5 x6 x7 x8} (h : Keeps false s₀ s) : Keeps false s₀ (State.handConditional s x1 x2 x3 x4 x5 x6 x7 x8) := by
  unfold State.handConditional
  try lift_lets
  repeat' first
    | assumption | (intro x; subst x) | with_reducible apply State.modHand_keeps
    | with_reducible apply State.crewFault_keeps | with_reducible apply State.handStore_keeps
    | with_reducible refine Keeps.of_snd ?_ (by assumption) | split

theorem State.handAtomic_keeps {s₀ s : State} {x1 x2 x3 x4 x5 x6 x7 x8 x9 x10} (h : Keeps false s₀ s) : Keeps false s₀ (State.handAtomic s x1 x2 x3 x4 x5 x6 x7 x8 x9 x10) := by
  unfold State.handAtomic
  try lift_lets
  repeat' first
    | assumption
    | (intro x; (have hx : Keeps false s₀ x := by (subst x; repeat' first | assumption | (intro y; subst y) | with_reducible apply State.crewFault_keeps | with_reducible apply State.handStore_keeps | with_reducible apply State.modHand_keeps | with_reducible apply Keeps.ite | with_reducible refine Keeps.of_snd ?_ (by assumption) | split | dsimp only)); clear_value x)
    | (intro x; (have hx : Keeps false s₀ x.2 := by (subst x; repeat' first | assumption | (intro y; subst y) | with_reducible apply State.crewFault_keeps | with_reducible apply State.handStore_keeps | with_reducible apply State.modHand_keeps | with_reducible apply Keeps.ite | with_reducible refine Keeps.of_snd ?_ (by assumption) | split | dsimp only)); clear_value x)
    | (intro x; subst x)
    | with_reducible apply State.crewFault_keeps
    | with_reducible apply State.handStore_keeps
    | with_reducible apply State.modHand_keeps
    | with_reducible apply Keeps.ite
    | with_reducible refine Keeps.of_snd ?_ (by assumption)
    | split
    | dsimp only

theorem State.vloadRun_keeps {s₀ s : State} {x0 x1 x2 x3 x4 x5 x6 x7 x8 x9 x10} (h : Keeps false s₀ s) :
    Keeps false s₀ (State.vloadRun x0 x1 x2 x3 x4 x5 x6 x7 x8 x9 x10 s) := by
  induction x10 generalizing s with
  | nil => exact State.modHand_keeps h
  | cons i l ih =>
    unfold State.vloadRun
    split
    · next e => exact ih (Keeps.of_snd (State.handLoad_keeps h) e)
    all_goals next e => exact State.modHand_keeps (Keeps.of_snd (State.handLoad_keeps h) e)

theorem State.vstoreRun_keeps {s₀ s : State} {x0 x1 x2 x3 x4 x5 x6 x7 x8 x9} (h : Keeps false s₀ s) :
    Keeps false s₀ (State.vstoreRun x0 x1 x2 x3 x4 x5 x6 x7 x8 x9 s) := by
  induction x9 generalizing s with
  | nil => exact State.modHand_keeps h
  | cons i l ih =>
    unfold State.vstoreRun
    split
    · next e => exact ih (Keeps.of_snd (State.handStore_keeps h) e)
    · next e => exact Keeps.of_snd (State.handStore_keeps h) e

theorem State.vloadFirst_keeps {s₀ s : State} {x1 x2 x3 x4 x5 x6 x7 x8 x9 x10 x11 x12} (h : Keeps false s₀ s) :
    Keeps false s₀ (State.vloadFirst s x1 x2 x3 x4 x5 x6 x7 x8 x9 x10 x11 x12) :=
  State.vloadRun_keeps (State.modHand_keeps h)

theorem State.handCsr_keeps {s₀ s : State} {x1 x2 x3 x4 x5 x6 x7 x8 x9 x10} (h : Keeps false s₀ s) : Keeps false s₀ (State.handCsr s x1 x2 x3 x4 x5 x6 x7 x8 x9 x10) := by
  unfold State.handCsr
  try lift_lets
  repeat' first
    | assumption | (intro x; subst x) | with_reducible apply State.crewFault_keeps
    | with_reducible apply State.modHand_keeps | split

theorem State.runHash_keeps {s₀ s : State} {x1 x2 x3 x4 x5 x6 x7} (h : Keeps false s₀ s) : Keeps false s₀ (State.runHash s x1 x2 x3 x4 x5 x6 x7) := by
  unfold State.runHash
  try lift_lets
  repeat' first
    | assumption | with_reducible apply State.crewFault_keeps | with_reducible apply State.modHand_keeps
    | with_reducible apply Keeps.ite

theorem execHxHash_keeps {s₀ s : State} {x0 x1 x2 x3 x4 x5} (h : Keeps false s₀ s) : KeepsOut false s₀ (execHxHash x0 x1 x2 x3 x4 x5 s) :=
  State.onHand_keeps (fun _ _ _ _ ht => State.runHash_keeps ht) h

theorem State.runDedup_keeps {s₀ s : State} {x1 x2 x3 x4 x5 x6} (h : Keeps false s₀ s) : Keeps false s₀ (State.runDedup s x1 x2 x3 x4 x5 x6) := by
  unfold State.runDedup
  try lift_lets
  repeat' first
    | assumption | with_reducible apply State.crewFault_keeps | with_reducible apply State.modHand_keeps
    | with_reducible apply Keeps.ite

theorem execHxDedup_keeps {s₀ s : State} {x0 x1 x2 x3 x4} (h : Keeps false s₀ s) : KeepsOut false s₀ (execHxDedup x0 x1 x2 x3 x4 s) :=
  State.onHand_keeps (fun _ _ _ _ ht => State.runDedup_keeps ht) h

theorem State.runDwq_keeps {s₀ s : State} {x1 x2 x3 x4 x5 x6 x7} (h : Keeps false s₀ s) : Keeps false s₀ (State.runDwq s x1 x2 x3 x4 x5 x6 x7) := by
  unfold State.runDwq
  try lift_lets
  repeat' first
    | with_reducible apply State.crewFault_keeps | with_reducible apply State.modHand_keeps | with_reducible apply Keeps.ite
    | (with_reducible refine Keeps.setDp (by assumption) _ ?_ ?_) | with_reducible rfl

theorem execHxDwq_keeps {s₀ s : State} {x0 x1 x2 x3 x4 x5} (h : Keeps false s₀ s) : KeepsOut false s₀ (execHxDwq x0 x1 x2 x3 x4 x5 s) :=
  State.onHand_keeps (fun _ _ _ _ ht => State.runDwq_keeps ht) h

theorem execWalkComplete_keeps {s₀ s : State} {x0 x1} (h : Keeps false s₀ s) : KeepsOut false s₀ (execWalkComplete x0 x1 s) := by
  unfold execWalkComplete
  try lift_lets
  repeat' first
    | assumption
    | (intro x; (have hx : Keeps false s₀ x := by (subst x; repeat' first | assumption | (intro y; subst y) | with_reducible apply State.inBudget_keeps | with_reducible apply State.count_keeps | with_reducible apply State.walkCharge_keeps | with_reducible apply State.write_keeps | with_reducible apply State.modHand_keeps | with_reducible apply Keeps.ite | (with_reducible refine Keeps.setDp (by assumption) _ ?_ ?_) | with_reducible rfl | simp only [List.length_map, List.length_modify, List.length_set, List.length_mapIdx] | with_reducible apply KeepsOut.next | with_reducible exact KeepsOut.fault _ _ | with_reducible apply KeepsOut.ite | split | dsimp only)); clear_value x)
    | (intro x; subst x)
    | with_reducible apply State.inBudget_keeps
    | with_reducible apply State.count_keeps
    | with_reducible apply State.walkCharge_keeps
    | with_reducible apply State.write_keeps
    | with_reducible apply State.modHand_keeps
    | with_reducible apply Keeps.ite
    | (with_reducible refine Keeps.setDp (by assumption) _ ?_ ?_)
    | with_reducible rfl
    | simp only [List.length_map, List.length_modify, List.length_set, List.length_mapIdx]
    | with_reducible apply KeepsOut.next
    | with_reducible exact KeepsOut.fault _ _
    | with_reducible apply KeepsOut.ite
    | split
    | dsimp only

theorem State.runSwe_keeps {s₀ s : State} {x1 x2 x3 x4 x5 x6 x7 x8} (h : Keeps false s₀ s) : Keeps false s₀ (State.runSwe s x1 x2 x3 x4 x5 x6 x7 x8) := by
  unfold State.runSwe
  try lift_lets
  repeat' first
    | assumption | with_reducible apply State.crewFault_keeps | with_reducible apply State.modHand_keeps
    | with_reducible apply State.takeSeq_keeps | with_reducible apply State.modCtx_keeps | with_reducible apply Keeps.ite

theorem execHxSwe_keeps {s₀ s : State} {x0 x1 x2 x3 x4 x5} (h : Keeps false s₀ s) : KeepsOut false s₀ (execHxSwe x0 x1 x2 x3 x4 x5 s) :=
  State.onHand_keeps (fun _ _ _ _ ht => State.runSwe_keeps ht) h

theorem State.onEcall_keeps {s₀ s : State} {crew hand pc n} {f : Nat → Job → Hand → State → State}
    (hf : ∀ b j x t, Keeps false s₀ t → Keeps false s₀ (f b j x t)) (h : Keeps false s₀ s) : KeepsOut false s₀ (State.onEcall s crew hand pc n f) :=
  State.onHand_keeps (fun b j x t ht => Keeps.ite (hf b j x t ht) ht) h

theorem State.runExit_keeps {s₀ s : State} {x1 x2 x3 x4} (h : Keeps false s₀ s) : Keeps false s₀ (State.runExit s x1 x2 x3 x4) := by
  unfold State.runExit
  try lift_lets
  repeat' first
    | assumption | with_reducible apply State.crewFault_keeps | with_reducible apply State.modHand_keeps
    | with_reducible apply Keeps.ite

theorem execEcallExit_keeps {s₀ s : State} {x0 x1 x2} (h : Keeps false s₀ s) : KeepsOut false s₀ (execEcallExit x0 x1 x2 s) :=
  State.onEcall_keeps (fun _ _ _ _ ht => State.runExit_keeps ht) h

theorem State.runBarrier_keeps {s₀ s : State} {x1 x2 x3} (h : Keeps km s₀ s) : Keeps km s₀ (State.runBarrier s x1 x2 x3) := by
  unfold State.runBarrier
  try lift_lets
  repeat' first
    | assumption | with_reducible apply State.modHand_keeps | with_reducible apply State.modJobOf_keeps

theorem execEcallBarrier_keeps {s₀ s : State} {x0 x1 x2} (h : Keeps false s₀ s) : KeepsOut false s₀ (execEcallBarrier x0 x1 x2 s) :=
  State.onEcall_keeps (fun _ _ _ _ ht => State.runBarrier_keeps ht) h

theorem State.runSectionDone_keeps {s₀ s : State} {x1 x2 x3} (h : Keeps km s₀ s) : Keeps km s₀ (State.runSectionDone s x1 x2 x3) := by
  unfold State.runSectionDone
  try lift_lets
  repeat' first
    | assumption | with_reducible apply State.modJobOf_keeps | with_reducible apply State.modSection_keeps
    | with_reducible apply Keeps.ite

theorem execEcallSectionDone_keeps {s₀ s : State} {x0 x1 x2} (h : Keeps false s₀ s) : KeepsOut false s₀ (execEcallSectionDone x0 x1 x2 s) :=
  State.onEcall_keeps (fun _ _ _ _ ht => State.runSectionDone_keeps ht) h

theorem State.runLog_keeps {s₀ s : State} {x1 x2 x3 x4} (h : Keeps km s₀ s) : Keeps km s₀ (State.runLog s x1 x2 x3 x4) := by
  unfold State.runLog
  try lift_lets
  repeat' first
    | assumption | with_reducible apply State.modCrew_keeps | with_reducible apply State.raiseMore_keeps
    | with_reducible apply Keeps.ite

theorem execEcallLog_keeps {s₀ s : State} {x0 x1 x2} (h : Keeps false s₀ s) : KeepsOut false s₀ (execEcallLog x0 x1 x2 s) :=
  State.onEcall_keeps (fun _ _ _ _ ht => State.runLog_keeps ht) h

theorem State.runCustom_keeps {s₀ s : State} {x1 x2 x3 x4 x5 x6} (h : Keeps false s₀ s) : Keeps false s₀ (State.runCustom s x1 x2 x3 x4 x5 x6) := by
  unfold State.runCustom
  try lift_lets
  repeat' first
    | assumption | with_reducible apply State.crewFault_keeps | with_reducible apply State.runHash_keeps
    | with_reducible apply State.runDwq_keeps | with_reducible apply State.runSwe_keeps
    | with_reducible apply State.runDedup_keeps | split

theorem State.runEcall_keeps {s₀ s : State} {x1 x2 x3 x4 x5 x6} (h : Keeps false s₀ s) : Keeps false s₀ (State.runEcall s x1 x2 x3 x4 x5 x6) := by
  unfold State.runEcall
  try lift_lets
  repeat' first
    | assumption | with_reducible apply State.runExit_keeps | with_reducible apply State.runBarrier_keeps
    | with_reducible apply State.runSectionDone_keeps | with_reducible apply State.runLog_keeps
    | with_reducible apply State.crewFault_keeps | split

theorem State.storeCorrected_keeps {s₀ s : State} {x1 x2} (h : Keeps km s₀ s) : Keeps km s₀ (State.storeCorrected s x1 x2) := by
  unfold State.storeCorrected
  try lift_lets
  repeat' first
    | with_reducible apply State.count_keeps | (with_reducible refine Keeps.setDp (by assumption) _ ?_ ?_)
    | with_reducible rfl

theorem State.cribCorrected_keeps {s₀ s : State} {x1 x2} (h : Keeps km s₀ s) : Keeps km s₀ (State.cribCorrected s x1 x2) := by
  unfold State.cribCorrected
  try lift_lets
  repeat' first
    | assumption
    | with_reducible apply State.count_keeps
    | (with_reducible refine Keeps.setDp (by assumption) _ ?_ ?_)
    | with_reducible rfl
    | simp only [List.length_map, List.length_modify, List.length_set, List.length_mapIdx]

theorem State.runInstr_keeps {s₀ s : State} {x1 x2 x3 x4 x5 x6 x7 x8 x9} (h : Keeps false s₀ s) : Keeps false s₀ (State.runInstr s x1 x2 x3 x4 x5 x6 x7 x8 x9) := by
  unfold State.runInstr
  try lift_lets
  repeat' first
    | assumption
    | (intro x; (have hx : Keeps false s₀ x := by (subst x; repeat' first | assumption | (intro y; subst y) | with_reducible apply State.handLoad_keeps | with_reducible apply State.vloadRun_keeps | with_reducible apply State.vstoreRun_keeps | with_reducible apply State.crewFault_keeps | with_reducible apply State.modHand_keeps | with_reducible apply State.handStore_keeps | with_reducible apply State.handReserve_keeps | with_reducible apply State.handConditional_keeps | with_reducible apply State.handAtomic_keeps | with_reducible apply State.handCsr_keeps | with_reducible apply State.vloadFirst_keeps | with_reducible apply State.runCustom_keeps | with_reducible apply State.runEcall_keeps | with_reducible apply Keeps.ite | with_reducible refine Keeps.of_snd ?_ (by assumption) | split | dsimp only)); clear_value x)
    | (intro x; (have hx : Keeps false s₀ x.2 := by (subst x; repeat' first | assumption | (intro y; subst y) | with_reducible apply State.handLoad_keeps | with_reducible apply State.vloadRun_keeps | with_reducible apply State.vstoreRun_keeps | with_reducible apply State.crewFault_keeps | with_reducible apply State.modHand_keeps | with_reducible apply State.handStore_keeps | with_reducible apply State.handReserve_keeps | with_reducible apply State.handConditional_keeps | with_reducible apply State.handAtomic_keeps | with_reducible apply State.handCsr_keeps | with_reducible apply State.vloadFirst_keeps | with_reducible apply State.runCustom_keeps | with_reducible apply State.runEcall_keeps | with_reducible apply Keeps.ite | with_reducible refine Keeps.of_snd ?_ (by assumption) | split | dsimp only)); clear_value x)
    | (intro x; subst x)
    | with_reducible apply State.handLoad_keeps
    | with_reducible apply State.vloadRun_keeps
    | with_reducible apply State.vstoreRun_keeps
    | with_reducible apply State.crewFault_keeps
    | with_reducible apply State.modHand_keeps
    | with_reducible apply State.handStore_keeps
    | with_reducible apply State.handReserve_keeps
    | with_reducible apply State.handConditional_keeps
    | with_reducible apply State.handAtomic_keeps
    | with_reducible apply State.handCsr_keeps
    | with_reducible apply State.vloadFirst_keeps
    | with_reducible apply State.runCustom_keeps
    | with_reducible apply State.runEcall_keeps
    | with_reducible apply Keeps.ite
    | with_reducible refine Keeps.of_snd ?_ (by assumption)
    | split
    | dsimp only

theorem execHandInstruction_keeps {s₀ s : State} {x0 x1 x2 x3} (h : Keeps false s₀ s) : KeepsOut false s₀ (execHandInstruction x0 x1 x2 x3 s) :=
  State.onHand_keeps (fun _ _ _ _ ht => State.runInstr_keeps (State.cribCorrected_keeps (State.storeCorrected_keeps ht))) h

end Sys2Proof.Machine
end

