-- ==== Sys2Proof/Laws/KeepsRun.lean ====
section
/-! SUPPORT. What each operation keeps: network ports, threshers, matrix jobs, results, the tally, links, memory events and wickets. -/

set_option maxRecDepth 4000
set_option Elab.async false
set_option linter.unusedSimpArgs false

namespace Sys2Proof.Machine

variable {km : Bool}

theorem State.resend_keeps {s₀ s : State} {x1} (h : Keeps km s₀ s) : Keeps km s₀ (State.resend s x1) := by
  unfold State.resend
  try lift_lets
  repeat' first
    | assumption
    | (intro x; (have hx : Keeps km s₀ x := by (subst x; repeat' first | assumption | with_reducible apply State.modQp_keeps)); clear_value x)
    | with_reducible apply State.sendFrames_keeps | with_reducible apply State.chargeEgress_keeps
    | (with_reducible refine Keeps.foldl _ (fun t x ht => ?_) ?_) | split

theorem execRdmaAck_keeps {s₀ s : State} {x0 x1 x2} (h : Keeps km s₀ s) : KeepsOut km s₀ (execRdmaAck x0 x1 x2 s) := by
  unfold execRdmaAck
  try lift_lets
  repeat' first
    | assumption | (intro x; subst x) | with_reducible apply State.resend_keeps | with_reducible apply State.qpError_keeps
    | with_reducible apply State.modQp_keeps | with_reducible apply Keeps.ite | with_reducible apply KeepsOut.next | split

theorem execQpRetryTimeout_keeps {s₀ s : State} {x0} (h : Keeps km s₀ s) : KeepsOut km s₀ (execQpRetryTimeout x0 s) := by
  unfold execQpRetryTimeout
  try lift_lets
  repeat' first
    | assumption | with_reducible apply State.resend_keeps | with_reducible apply State.qpError_keeps
    | with_reducible apply State.modQp_keeps | with_reducible apply Keeps.ite | with_reducible apply KeepsOut.next | split

theorem execQpError_keeps {s₀ s : State} {x0} (h : Keeps km s₀ s) : KeepsOut km s₀ (execQpError x0 s) := by
  unfold execQpError
  try lift_lets
  repeat' first
    | assumption | with_reducible apply State.freeQp_keeps | with_reducible apply State.qpError_keeps
    | with_reducible apply Keeps.ite | with_reducible apply KeepsOut.next | split

theorem execRdmaRead_keeps {s₀ s : State} {x0 x1} (h : Keeps km s₀ s) : KeepsOut km s₀ (execRdmaRead x0 x1 s) := by
  unfold execRdmaRead
  try lift_lets
  repeat' first
    | assumption | with_reducible apply State.sendNak_keeps | with_reducible apply Keeps.ite
    | with_reducible apply KeepsOut.next | split

theorem execResponderAckDeadline_keeps {s₀ s : State} {x0} (h : Keeps km s₀ s) : KeepsOut km s₀ (execResponderAckDeadline x0 s) := by
  unfold execResponderAckDeadline
  try lift_lets
  repeat' first
    | assumption | with_reducible apply State.rcAck_keeps | with_reducible apply Keeps.ite
    | with_reducible apply KeepsOut.next | split

theorem execCnpReceive_keeps {s₀ s : State} {x0} (h : Keeps km s₀ s) : KeepsOut km s₀ (execCnpReceive x0 s) := by
  unfold execCnpReceive
  try lift_lets
  repeat' first | assumption | with_reducible apply State.modQp_keeps | with_reducible apply KeepsOut.next | split

theorem execRateIncrease_keeps {s₀ s : State} {x0} (h : Keeps km s₀ s) : KeepsOut km s₀ (execRateIncrease x0 s) := by
  unfold execRateIncrease
  try lift_lets
  repeat' first
    | assumption | with_reducible apply State.modQp_keeps | with_reducible apply Keeps.ite
    | with_reducible apply KeepsOut.next | split

theorem execCeMarkedPacket_keeps {s₀ s : State} {x0} (h : Keeps km s₀ s) : KeepsOut km s₀ (execCeMarkedPacket x0 s) := by
  unfold execCeMarkedPacket
  try lift_lets
  repeat' first
    | assumption | with_reducible apply State.sendFrames_keeps | with_reducible apply State.chargeEgress_keeps
    | with_reducible apply State.modQp_keeps | with_reducible apply State.count_keeps | with_reducible apply Keeps.ite
    | with_reducible apply KeepsOut.next | split

theorem State.modPrio_keeps {s₀ s : State} {x1 x2 x3 x4} (h : Keeps km s₀ s) : Keeps km s₀ (State.modPrio s x1 x2 x3 x4) := by
  unfold State.modPrio
  try lift_lets
  repeat' first | assumption | with_reducible apply State.modSub_keeps

theorem State.countSub_keeps {s₀ s : State} {x1 x2 x3 x4} (h : Keeps km s₀ s) : Keeps km s₀ (State.countSub s x1 x2 x3 x4) := by
  unfold State.countSub
  try lift_lets
  repeat' first | assumption | with_reducible apply State.modSub_keeps | with_reducible apply State.count_keeps

theorem State.sendPfc_keeps {s₀ s : State} {x1 x2 x3 x4} (h : Keeps km s₀ s) : Keeps km s₀ (State.sendPfc s x1 x2 x3 x4) := by
  unfold State.sendPfc
  repeat' first | assumption | with_reducible apply State.countSub_keeps | with_reducible apply State.emit_keeps

theorem State.resumePrio_keeps {s₀ s : State} {x1 x2 x3} (h : Keeps km s₀ s) : Keeps km s₀ (State.resumePrio s x1 x2 x3) := by
  unfold State.resumePrio
  try lift_lets
  repeat' first
    | assumption | with_reducible apply State.modPrio_keeps | with_reducible apply State.egress_keeps

theorem execPfcFrame_keeps {s₀ s : State} {x0 x1 x2 x3} (h : Keeps km s₀ s) : KeepsOut km s₀ (execPfcFrame x0 x1 x2 x3 s) := by
  unfold execPfcFrame
  try lift_lets
  repeat' first
    | assumption
    | (intro x; (have hx : Keeps km s₀ x := by (subst x; repeat' first | assumption | with_reducible apply State.count_keeps)); clear_value x)
    | (intro x; subst x) | with_reducible apply State.resumePrio_keeps | with_reducible apply State.modPrio_keeps
    | with_reducible apply Keeps.ite | with_reducible apply KeepsOut.next | with_reducible exact KeepsOut.fault _ _
    | with_reducible apply KeepsOut.ite

theorem execPfcPauseExpiry_keeps {s₀ s : State} {x0 x1 x2} (h : Keeps km s₀ s) : KeepsOut km s₀ (execPfcPauseExpiry x0 x1 x2 s) := by
  unfold execPfcPauseExpiry
  repeat' first
    | assumption | with_reducible apply State.resumePrio_keeps | with_reducible apply Keeps.ite
    | with_reducible apply KeepsOut.next | with_reducible exact KeepsOut.fault _ _ | with_reducible apply KeepsOut.ite

theorem execNetPfcStorm_keeps {s₀ s : State} {x0 x1 x2} (h : Keeps km s₀ s) : KeepsOut km s₀ (execNetPfcStorm x0 x1 x2 s) := by
  unfold execNetPfcStorm
  try lift_lets
  repeat' first
    | assumption | with_reducible apply State.modPrio_keeps | with_reducible apply State.raise_keeps
    | with_reducible apply Keeps.ite | with_reducible apply KeepsOut.next | with_reducible exact KeepsOut.fault _ _
    | with_reducible apply KeepsOut.ite | split

theorem execPfcXoff_keeps {s₀ s : State} {x0 x1 x2 x3} (h : Keeps km s₀ s) : KeepsOut km s₀ (execPfcXoff x0 x1 x2 x3 s) := by
  unfold execPfcXoff
  try lift_lets
  repeat' first
    | assumption
    | (intro x; (have hx : Keeps km s₀ x := by (subst x; repeat' first | assumption | with_reducible apply State.modPrio_keeps)); clear_value x)
    | (intro x; subst x) | with_reducible apply State.sendPfc_keeps | with_reducible apply State.modPrio_keeps
    | with_reducible apply Keeps.ite | with_reducible apply KeepsOut.next | with_reducible exact KeepsOut.fault _ _
    | with_reducible apply KeepsOut.ite

theorem execPfcRepeat_keeps {s₀ s : State} {x0 x1 x2} (h : Keeps km s₀ s) : KeepsOut km s₀ (execPfcRepeat x0 x1 x2 s) := by
  unfold execPfcRepeat
  try lift_lets
  repeat' first
    | assumption | with_reducible apply State.sendPfc_keeps | with_reducible apply State.modPrio_keeps
    | with_reducible apply Keeps.ite | with_reducible apply KeepsOut.next | with_reducible exact KeepsOut.fault _ _
    | with_reducible apply KeepsOut.ite

theorem State.startVerify_keeps {s₀ s : State} {x1 x2} (h : Keeps km s₀ s) : Keeps km s₀ (State.startVerify s x1 x2) := by
  unfold State.startVerify
  try lift_lets
  repeat' first
    | assumption | with_reducible apply State.modSub_keeps | with_reducible apply State.emit_keeps
    | with_reducible apply Keeps.ite

theorem execPreemptVerify_keeps {s₀ s : State} {x0 x1 x2 x3} (h : Keeps km s₀ s) : KeepsOut km s₀ (execPreemptVerify x0 x1 x2 x3 s) := by
  unfold execPreemptVerify
  try lift_lets
  repeat' first
    | assumption | with_reducible apply State.modSub_keeps | with_reducible apply State.raise_keeps
    | with_reducible apply State.emit_keeps | with_reducible apply Keeps.ite | with_reducible apply KeepsOut.next
    | with_reducible exact KeepsOut.fault _ _ | with_reducible apply KeepsOut.ite | split

theorem State.setLink_keeps {s₀ s : State} {x1 x2 x3} (h : Keeps km s₀ s) : Keeps km s₀ (State.setLink s x1 x2 x3) := by
  unfold State.setLink
  try lift_lets
  repeat' first
    | assumption
    | (intro x; (have hx : Keeps km s₀ x := by (subst x; repeat' first | with_reducible apply State.modSub_keeps | (with_reducible refine Keeps.setLan (by assumption) _ ?_) | with_reducible rfl)); clear_value x)
    | (intro x; subst x) | with_reducible apply State.raise_keeps | with_reducible apply State.modPrio_keeps
    | with_reducible apply State.startVerify_keeps | with_reducible apply State.egress_keeps
    | with_reducible apply State.abortMargins_keeps | with_reducible apply Keeps.ite
    | (with_reducible refine Keeps.foldl _ (fun t x ht => ?_) ?_)

theorem execNetLinkChange_keeps {s₀ s : State} {x0 x1 x2} (h : Keeps km s₀ s) : KeepsOut km s₀ (execNetLinkChange x0 x1 x2 s) := by
  unfold execNetLinkChange
  try lift_lets
  repeat' first
    | assumption | (intro x; subst x) | with_reducible apply State.setLink_keeps | with_reducible apply Keeps.ite
    | with_reducible apply KeepsOut.next | with_reducible exact KeepsOut.fault _ _ | with_reducible apply KeepsOut.ite
    | (with_reducible refine Keeps.setNet (by assumption) _ ?_)
    | simp only [List.length_map, List.length_modify, List.length_set]

theorem State.discardFrame_keeps {s₀ s : State} {x1 x2} (h : Keeps km s₀ s) : Keeps km s₀ (State.discardFrame s x1 x2) := by
  unfold State.discardFrame
  repeat' first | assumption | with_reducible apply State.countSub_keeps

theorem State.frameIn_keeps {s₀ s : State} {x1 x2 x3 x4 x5 x6} (h : Keeps km s₀ s) : Keeps km s₀ (State.frameIn s x1 x2 x3 x4 x5 x6) := by
  unfold State.frameIn
  try lift_lets
  repeat' first
    | assumption
    | (intro x; (have hx : Keeps km s₀ x := by (subst x; repeat' first | assumption | (intro y; subst y) | with_reducible apply State.count_keeps | with_reducible apply State.discardFrame_keeps | with_reducible apply State.countSub_keeps | with_reducible apply State.countDiscard_keeps | with_reducible apply State.sendFrames_keeps | with_reducible apply Keeps.ite | split | dsimp only)); clear_value x)
    | (intro x; subst x)
    | with_reducible apply State.count_keeps
    | with_reducible apply State.discardFrame_keeps
    | with_reducible apply State.countSub_keeps
    | with_reducible apply State.countDiscard_keeps
    | with_reducible apply State.sendFrames_keeps
    | with_reducible apply Keeps.ite
    | split
    | dsimp only

theorem State.cutFrame_keeps {s₀ s : State} {x1 x2} (h : Keeps km s₀ s) : Keeps km s₀ (State.cutFrame s x1 x2) := by
  unfold State.cutFrame
  try lift_lets
  repeat' first
    | assumption
    | with_reducible apply State.discardFrame_keeps
    | with_reducible apply State.modSub_keeps
    | with_reducible apply Keeps.ite
    | split
    | dsimp only

theorem execFrameReceive_keeps {s₀ s : State} {x0 x1 x2 x3 x4 x5 x6} (h : Keeps km s₀ s) : KeepsOut km s₀ (execFrameReceive x0 x1 x2 x3 x4 x5 x6 s) := by
  unfold execFrameReceive
  try lift_lets
  repeat' first
    | assumption
    | (intro x; (have hx : Keeps km s₀ x := by (subst x; repeat' first | assumption | (intro y; subst y) | with_reducible apply State.countSub_keeps | with_reducible apply State.cutFrame_keeps | with_reducible apply State.modSub_keeps | with_reducible apply inOrder_keeps | with_reducible apply State.discardFrame_keeps | with_reducible apply State.frameIn_keeps | with_reducible apply State.count_keeps | with_reducible apply Keeps.ite | with_reducible apply KeepsOut.next | with_reducible exact KeepsOut.fault _ _ | with_reducible apply KeepsOut.ite | with_reducible refine Keeps.of_snd ?_ (by assumption) | split | dsimp only)); clear_value x)
    | (intro x; (have hx : Keeps km s₀ x.2 := by (subst x; repeat' first | assumption | (intro y; subst y) | with_reducible apply State.countSub_keeps | with_reducible apply State.cutFrame_keeps | with_reducible apply State.modSub_keeps | with_reducible apply inOrder_keeps | with_reducible apply State.discardFrame_keeps | with_reducible apply State.frameIn_keeps | with_reducible apply State.count_keeps | with_reducible apply Keeps.ite | with_reducible apply KeepsOut.next | with_reducible exact KeepsOut.fault _ _ | with_reducible apply KeepsOut.ite | with_reducible refine Keeps.of_snd ?_ (by assumption) | split | dsimp only)); clear_value x)
    | (intro x; subst x)
    | with_reducible apply State.countSub_keeps
    | with_reducible apply State.cutFrame_keeps
    | with_reducible apply State.modSub_keeps
    | with_reducible apply inOrder_keeps
    | with_reducible apply State.discardFrame_keeps
    | with_reducible apply State.frameIn_keeps
    | with_reducible apply State.count_keeps
    | with_reducible apply Keeps.ite
    | with_reducible apply KeepsOut.next
    | with_reducible exact KeepsOut.fault _ _
    | with_reducible apply KeepsOut.ite
    | with_reducible refine Keeps.of_snd ?_ (by assumption)
    | split
    | dsimp only

theorem doNetPortQuery_keeps {s₀ s : State} {x0} (h : Keeps km s₀ s) : Keeps km s₀ (doNetPortQuery x0 s).2 := by
  unfold doNetPortQuery
  try lift_lets
  repeat' first | assumption | (intro x; subst x) | with_reducible apply Ctx.fields_keeps

theorem execNetPortQuery_keeps {s₀ s : State} {x0} (h : Keeps km s₀ s) : KeepsOut km s₀ (execNetPortQuery x0 s) := by
  exact runCommand_keeps (fun _ _ ht => doNetPortQuery_keeps ht) h

theorem State.setPort_keeps {s₀ s : State} {x1 x2} (h : Keeps km s₀ s) : Keeps km s₀ (State.setPort s x1 x2) := by
  unfold State.setPort
  try lift_lets
  repeat' first
    | assumption
    | (intro x; (have hx : Keeps km s₀ x := by (subst x; repeat' first | assumption | with_reducible apply State.resumePrio_keeps | with_reducible apply State.modPrio_keeps | with_reducible apply Keeps.ite | (with_reducible refine Keeps.foldl _ (fun t x ht => ?_) ?_) | (with_reducible refine Keeps.setNet (by assumption) _ ?_) | simp only [List.length_map, List.length_modify, List.length_set])); clear_value x)
    | (intro x; subst x) | with_reducible apply State.setLink_keeps | with_reducible apply State.startVerify_keeps
    | with_reducible apply Keeps.ite | (with_reducible refine Keeps.foldl _ (fun t x ht => ?_) ?_)

theorem doNetPortSet_keeps {s₀ s : State} {x0} (h : Keeps km s₀ s) : Keeps km s₀ (doNetPortSet x0 s).2 := by
  unfold doNetPortSet
  try lift_lets
  repeat' first
    | assumption | (intro x; subst x) | with_reducible apply State.setPort_keeps | with_reducible apply State.answer_keeps
    | with_reducible apply refuseIf_keeps | with_reducible apply Ctx.fields_keeps

theorem execNetPortSet_keeps {s₀ s : State} {x0} (h : Keeps km s₀ s) : KeepsOut km s₀ (execNetPortSet x0 s) := by
  exact runCommand_keeps (fun _ _ ht => doNetPortSet_keeps ht) h

theorem doNetAddrSet_keeps {s₀ s : State} {x0} (h : Keeps km s₀ s) : Keeps km s₀ (doNetAddrSet x0 s).2 := by
  unfold doNetAddrSet
  try lift_lets
  repeat' first
    | assumption
    | (intro x; (have hx : Keeps km s₀ x := by (subst x; repeat' first | assumption | with_reducible apply State.modSub_keeps)); clear_value x)
    | (intro x; subst x) | with_reducible apply Ctx.fields_keeps | with_reducible apply okWith_keeps
    | (with_reducible refine Keeps.setFlash (by assumption) _) | split

theorem execNetAddrSet_keeps {s₀ s : State} {x0} (h : Keeps km s₀ s) : KeepsOut km s₀ (execNetAddrSet x0 s) := by
  exact runCommand_keeps (fun _ _ ht => doNetAddrSet_keeps ht) h

theorem State.allotBag_keeps {s₀ s : State} {x1 x2 x3 x4} (h : Keeps km s₀ s) : Keeps km s₀ (State.allotBag s x1 x2 x3 x4) := by
  unfold State.allotBag
  try lift_lets
  repeat' first
    | assumption | with_reducible apply State.modThresher_keeps | with_reducible apply State.noteReady_keeps
    | with_reducible apply Keeps.ite | split

theorem State.rowErrors_keeps {s₀ s : State} {x1 x2 x3 x4 x5} {chaff : State → RowSlot → State} {x7 x8}
    (hc : ∀ t r, Keeps false s₀ t → Keeps false s₀ (chaff t r)) (h : Keeps false s₀ s) :
    Keeps false s₀ (State.rowErrors s x1 x2 x3 x4 x5 chaff x7 x8) := by
  unfold State.rowErrors
  extract_lets at_ s1
  exact Keeps.foldl _ (fun t _ ht => Keeps.ite (State.granaryBad_keeps (State.addPoison_keeps ht)) (hc t _ ht))
    (Keeps.foldl _ (fun _ _ ht => State.dieCorrected_keeps ht) h)

theorem State.chaffSlot_keeps {s₀ s : State} {x1 x2 x3} (h : Keeps km s₀ s) : Keeps km s₀ (State.chaffSlot s x1 x2 x3) := by
  unfold State.chaffSlot
  try lift_lets
  repeat' first
    | assumption | with_reducible apply State.modSlot_keeps | with_reducible apply State.countChaff_keeps

theorem State.heatSlots_keeps {s₀ s : State} {x1 x2 x3 x4 x5} (h : Keeps km s₀ s) : Keeps km s₀ (State.heatSlots s x1 x2 x3 x4 x5) := by
  unfold State.heatSlots
  try lift_lets
  repeat' first
    | assumption | with_reducible apply State.modSlot_keeps | with_reducible apply State.countChaff_keeps
    | with_reducible apply State.heatRow_keeps | (with_reducible refine Keeps.foldl _ (fun t x ht => ?_) ?_) | split

theorem State.enterPass_keeps {s₀ s : State} {x1 x2 x3 x4 x5 x6 x7} (h : Keeps km s₀ s) : Keeps km s₀ (State.enterPass s x1 x2 x3 x4 x5 x6 x7) := by
  unfold State.enterPass
  try lift_lets
  repeat' first
    | assumption | with_reducible apply State.charge_keeps | with_reducible apply State.count_keeps
    | with_reducible apply State.modBag_keeps

theorem State.passBag_keeps {s₀ s : State} {x1 x2 x3 x4 x5 x6 x7 x8 x9} (h : Keeps false s₀ s) :
    Keeps false s₀ (State.passBag s x1 x2 x3 x4 x5 x6 x7 x8 x9) := by
  unfold State.passBag
  split
  · exact h
  · extract_lets -lift +onlyGivenNames die
    split
    refine Keeps.ite h ?_
    extract_lets -lift +onlyGivenNames lo s1
    have h1 : Keeps false s₀ s1 := State.rowErrors_keeps (fun _ _ q => State.chaffSlot_keeps q) h
    clear_value s1
    split
    · exact h1
    · split
      extract_lets -lift +onlyGivenNames s2 s3
      have h2 : Keeps false s₀ s2 := State.heatSlots_keeps h1
      clear_value s2
      have h3 : Keeps false s₀ s3 := Keeps.ite h2 (State.modCtx_keeps h2)
      clear_value s3
      exact State.enterPass_keeps h3

theorem State.releaseSlots_keeps {s₀ s : State} {x1 x2 x3} (h : Keeps km s₀ s) : Keeps km s₀ (State.releaseSlots s x1 x2 x3) := by
  unfold State.releaseSlots
  try lift_lets
  repeat' first
    | assumption | with_reducible apply State.modSlot_keeps | with_reducible apply State.ctxSettle_keeps
    | with_reducible apply State.cribFree_keeps | with_reducible apply Keeps.ite
    | (with_reducible refine Keeps.foldl _ (fun t x ht => ?_) ?_) | split

theorem execTileSwap_keeps {s₀ s : State} {x0} (h : Keeps km s₀ s) : KeepsOut km s₀ (execTileSwap x0 s) := by
  unfold execTileSwap
  try lift_lets
  repeat' first
    | assumption
    | (intro x; (have hx : Keeps km s₀ x := by (subst x; repeat' first | assumption | with_reducible apply State.noteReady_keeps)); clear_value x)
    | (intro x; subst x) | with_reducible apply State.modThresher_keeps | with_reducible apply Keeps.ite
    | with_reducible apply KeepsOut.next | with_reducible exact KeepsOut.fault _ _ | with_reducible apply KeepsOut.ite

theorem State.releaseFused_keeps {s₀ s : State} {x1 x2} (h : Keeps km s₀ s) : Keeps km s₀ (State.releaseFused s x1 x2) := by
  unfold State.releaseFused
  try lift_lets
  repeat' first
    | assumption | with_reducible apply State.modSection_keeps | split

theorem State.drainBag_keeps {s₀ s : State} {x1 x2 x3 x4 x5} (h : Keeps km s₀ s) : Keeps km s₀ (State.drainBag s x1 x2 x3 x4 x5) := by
  unfold State.drainBag
  try lift_lets
  repeat' first
    | assumption | with_reducible apply State.raise_keeps | with_reducible apply State.putOut_keeps
    | with_reducible apply State.releaseSlots_keeps | with_reducible apply State.releaseFused_keeps | split | dsimp only

theorem State.convertOut_keeps {s₀ s : State} {x1 x2 x3 x4} (h : Keeps km s₀ s) : Keeps km s₀ (State.convertOut s x1 x2 x3 x4) := by
  unfold State.convertOut
  try lift_lets
  repeat' first
    | assumption | with_reducible apply State.modSection_keeps | with_reducible apply State.modSheaf_keeps
    | with_reducible apply State.countSat_keeps

theorem State.fetchAgain_keeps {s₀ s : State} {x1 x2 x3} (h : Keeps km s₀ s) : Keeps km s₀ (State.fetchAgain s x1 x2 x3) := by
  unfold State.fetchAgain
  try lift_lets
  repeat' first
    | assumption | with_reducible apply State.putReadReq_keeps | with_reducible apply State.putRead_keeps
    | with_reducible apply State.fetchFused_keeps | with_reducible apply Keeps.ite
    | (with_reducible refine Keeps.foldl _ (fun t x ht => ?_) ?_)

theorem execRedo_keeps {s₀ s : State} {x0 x1} (h : Keeps km s₀ s) : KeepsOut km s₀ (execRedo x0 x1 s) := by
  unfold execRedo
  refine KeepsOut.next ?_
  split
  · exact h
  · exact Keeps.ite h (State.pump_keeps (State.fetchAgain_keeps (State.modSheaf_keeps (State.modSection_keeps (State.discardCrib_keeps h)))))

theorem State.matrixAccess_keeps {s₀ s : State} {x1 x2 x3 x4} (h : Keeps km s₀ s) : Keeps km s₀ (State.matrixAccess s x1 x2 x3 x4) := by
  unfold State.matrixAccess
  try lift_lets
  repeat' first
    | assumption | with_reducible apply State.access_keeps | (with_reducible refine Keeps.foldl _ (fun t x ht => ?_) ?_)

theorem State.matrixReads_keeps {s₀ s : State} {x1 x2} (h : Keeps km s₀ s) : Keeps km s₀ (State.matrixReads s x1 x2) := by
  unfold State.matrixReads
  try lift_lets
  repeat' first
    | assumption | with_reducible apply State.reportBad_keeps | with_reducible apply State.countChaff_keeps
    | with_reducible apply State.matrixAccess_keeps | (with_reducible refine Keeps.foldl _ (fun t x ht => ?_) ?_)

theorem State.allotMatrix_keeps {s₀ s : State} {x1 x2 x3 x4} (h : Keeps km s₀ s) : Keeps km s₀ (State.allotMatrix s x1 x2 x3 x4) := by
  unfold State.allotMatrix
  try lift_lets
  repeat' first
    | assumption | with_reducible apply State.matrixReads_keeps | with_reducible apply State.modThresher_keeps
    | with_reducible apply State.modMatrix_keeps | with_reducible apply Keeps.ite | split

theorem State.passMatrix_keeps {s₀ s : State} {x1 x2 x3 x4 x5 x6 x7} (h : Keeps km s₀ s) : Keeps km s₀ (State.passMatrix s x1 x2 x3 x4 x5 x6 x7) := by
  unfold State.passMatrix
  split
  · exact h
  · exact State.enterPass_keeps (State.modThresher_keeps (State.matrixReads_keeps h))

theorem State.drainMatrix_keeps {s₀ s : State} {x1 x2 x3 x4 x5} (h : Keeps false s₀ s) : Keeps false s₀ (State.drainMatrix s x1 x2 x3 x4 x5) := by
  unfold State.drainMatrix
  try lift_lets
  repeat' first
    | assumption | with_reducible apply State.raise_keeps | with_reducible apply State.matrixReads_keeps
    | with_reducible apply State.write_keeps | with_reducible apply State.heal_keeps
    | with_reducible apply State.matrixAccess_keeps | with_reducible apply State.modMatrix_keeps
    | simp only [List.length_map, List.length_modify, List.length_set, List.length_mapIdx] | split

theorem State.endMatrix_keeps {s₀ s : State} {x1 x2 x3} (h : Keeps false s₀ s) : Keeps false s₀ (State.endMatrix s x1 x2 x3) := by
  unfold State.endMatrix
  try lift_lets
  repeat' first
    | assumption
    | (intro x; (have hx : Keeps false s₀ x := by (subst x; repeat' first | with_reducible apply State.write_keeps | with_reducible apply State.modThresher_keeps | (with_reducible refine Keeps.setDp (by assumption) _ ?_ ?_) | with_reducible rfl | split)); clear_value x)
    | (intro x; subst x) | with_reducible apply State.ctxSettle_keeps

theorem execMatrixJobDone_keeps {s₀ s : State} {x0 x1} (h : Keeps false s₀ s) : KeepsOut false s₀ (execMatrixJobDone x0 x1 s) := by
  unfold execMatrixJobDone
  try lift_lets
  repeat' first
    | assumption | with_reducible apply State.endMatrix_keeps | with_reducible apply KeepsOut.next | split

theorem State.putVec_keeps {s₀ s : State} {x1} (h : Keeps km s₀ s) : Keeps km s₀ (State.putVec s x1) := by
  unfold State.putVec
  try lift_lets
  repeat' first | (intro x; subst x) | (with_reducible refine Keeps.setTth (by assumption) _)

theorem State.signalVec_keeps {s₀ s : State} {x1} (h : Keeps km s₀ s) : Keeps km s₀ (State.signalVec s x1) := by
  unfold State.signalVec
  try lift_lets
  repeat' first
    | assumption | (intro x; subst x) | with_reducible apply State.putVec_keeps | with_reducible apply State.emit_keeps

theorem State.countVec_keeps {s₀ s : State} {x1} (h : Keeps km s₀ s) : Keeps km s₀ (State.countVec s x1) := by
  unfold State.countVec
  try lift_lets
  repeat' first
    | assumption | (intro x; subst x) | with_reducible apply State.signalVec_keeps | with_reducible apply State.putVec_keeps
    | with_reducible apply Keeps.ite

theorem State.freeDuplicates_keeps {s₀ s : State} {x1 x2 x3} (h : Keeps km s₀ s) : Keeps km s₀ (State.freeDuplicates s x1 x2 x3) := by
  unfold State.freeDuplicates
  extract_lets dups
  refine Keeps.ite (Keeps.foldl _ (fun _ _ q => State.modSheaf_keeps q) h) ?_
  split
  · exact h
  · exact Keeps.ite (State.noteEpoch_keeps (State.modSheaf_keeps h)) (Keeps.foldl _ (fun _ _ q => State.dropSheaf_keeps q) h)

theorem State.outputStep_keeps {s₀ s : State} {x1} (h : Keeps km s₀ s) : Keeps km s₀ (State.outputStep s x1) := by
  unfold State.outputStep
  try lift_lets
  repeat' first
    | assumption | with_reducible apply State.modTable_keeps | (with_reducible refine Keeps.foldl _ (fun t x ht => ?_) ?_)

theorem State.clearBarriers_keeps {s₀ s : State} {x1 x2} (h : Keeps km s₀ s) : Keeps km s₀ (State.clearBarriers s x1 x2) := by
  unfold State.clearBarriers
  try lift_lets
  repeat' first
    | assumption
    | with_reducible apply Keeps.ite
    | (with_reducible refine Keeps.foldl _ (fun t x ht => ?_) ?_)
    | (with_reducible refine Keeps.foldl_snd _ (fun t x ht => ?_) ?_)
    | (with_reducible refine Keeps.setDp (by assumption) _ ?_ ?_)
    | with_reducible rfl
    | simp only [List.length_map, List.length_modify, List.length_set, List.length_mapIdx]
    | split
    | dsimp only

theorem State.leaveSheaf_keeps {s₀ s : State} {x1} (h : Keeps km s₀ s) : Keeps km s₀ (State.leaveSheaf s x1) := by
  unfold State.leaveSheaf
  split
  · exact h
  · next x _ =>
    extract_lets -lift +onlyGivenNames tables good s1
    have h1 : Keeps km s₀ s1 := Keeps.ite (State.clearBarriers_keeps h) h
    clear_value s1
    have h2 : Keeps km s₀ { s1.dropSheaf x1 with dp.scans := s1.dp.scans.filter fun y => y.sheaf != x1 } :=
      Keeps.setDp (State.dropSheaf_keeps h1) _ rfl rfl
    revert h2
    generalize ({ s1.dropSheaf x1 with dp.scans := s1.dp.scans.filter fun y => y.sheaf != x1 } : State) = s2
    intro h2
    extract_lets -lift +onlyGivenNames s2' s3
    have h3 : Keeps km s₀ s3 := State.count_keeps (State.count_keeps h2)
    clear_value s3
    extract_lets -lift +onlyGivenNames s4
    have h4 : Keeps km s₀ s4 := Keeps.ite (State.outputStep_keeps h3) h3
    clear_value s4
    extract_lets -lift +onlyGivenNames s5
    have h5 : Keeps km s₀ s5 := Keeps.ite (Keeps.foldl _ (fun _ _ q => State.closeEpochs_keeps q) h4) h4
    clear_value s5
    have h6 : ∀ {t : State}, Keeps km s₀ t → Keeps km s₀ (if (t.session x.session).any fun y => y.state == .ended then t.retireQps x.session else t) :=
      fun q => Keeps.ite (State.retireQps_keeps q) q
    refine h6 ?_
    split
    · exact State.releaseAll_keeps (State.freeDuplicates_keeps (Keeps.ite (State.modSession_keeps h5) h5))
    · exact h5

theorem State.tetherFail_keeps {s₀ s : State} {x1 x2 x3} (h : Keeps km s₀ s) : Keeps km s₀ (State.tetherFail s x1 x2 x3) := by
  unfold State.tetherFail
  repeat' first
    | assumption | with_reducible apply State.placeFail_keeps | with_reducible apply State.tthCount_keeps
    | with_reducible apply State.tthEvent_keeps | with_reducible apply State.raise_keeps

theorem State.placeAt_keeps {s₀ s t : State} {x1 x2} (h : Keeps km s₀ s) (e : State.placeAt s x1 x2 = .failed t) : Keeps km s₀ t := by
  unfold State.placeAt at e
  split at e
  · cases e
  · split at e
    · cases e; exact State.placeFail_keeps h
    · split at e <;> cases e
  · split at e
    · cases e; exact State.placeFail_keeps h
    · split at e
      · cases e; exact State.tetherFail_keeps h
      · cases e

theorem execResultPlacement_keeps {s₀ s : State} {x0} (h : Keeps km s₀ s) : KeepsOut km s₀ (execResultPlacement x0 s) := by
  unfold execResultPlacement
  refine KeepsOut.next ?_
  split
  · exact h
  · refine Keeps.ite h ?_
    extract_lets -lift +onlyGivenNames k s1
    have h1 : Keeps km s₀ s1 := State.modSection_keeps h
    clear_value s1
    split
    · exact h
    · split
      · exact h
      · refine Keeps.ite h ?_
        extract_lets -lift +onlyGivenNames off mark
        have hm (t : State) (q : Option Nat) (ht : Keeps km s₀ t) : Keeps km s₀ (mark t q) :=
          State.modSection_keeps (State.modSheaf_keeps ht)
        clear_value mark
        split
        · exact h
        · next e => exact State.leaveSheaf_keeps (State.placeAt_keeps h1 e)
        · exact hm _ _ (State.rdmaSend_keeps h1)
        · exact Keeps.ite h (hm _ _ (State.hostPlace_keeps h1))
        · exact hm _ _ h1

theorem execCompletionRecord_keeps {s₀ s : State} {x0} (h : Keeps km s₀ s) : KeepsOut km s₀ (execCompletionRecord x0 s) := by
  unfold execCompletionRecord
  refine KeepsOut.next ?_
  split
  · exact h
  · split
    · exact h
    · extract_lets -lift +onlyGivenNames r
      split
      · exact h
      · next e => exact State.leaveSheaf_keeps (State.placeAt_keeps h e)
      · exact State.leaveSheaf_keeps (State.rdmaSend_keeps h)
      · refine Keeps.ite h ?_
        extract_lets -lift +onlyGivenNames s1 s2
        have h1 : Keeps km s₀ s1 := State.hostPlace_keeps h
        clear_value s1
        refine State.leaveSheaf_keeps ?_
        show Keeps km s₀ (match _ with | some v => s1.countVec v | none => s1)
        split
        · exact State.countVec_keeps h1
        · exact h1
      · exact State.leaveSheaf_keeps h

theorem State.countTable_keeps {s₀ s : State} {x1 x2 x3} (h : Keeps km s₀ s) : Keeps km s₀ (State.countTable s x1 x2 x3) := by
  unfold State.countTable
  try lift_lets
  repeat' first | assumption | with_reducible apply State.modTable_keeps

theorem State.putChannel_keeps {s₀ s : State} {x1} (h : Keeps km s₀ s) : Keeps km s₀ (State.putChannel s x1) := by
  unfold State.putChannel
  try lift_lets
  repeat' first | (intro x; subst x) | (with_reducible refine Keeps.setFab (by assumption) _ ?_) | with_reducible rfl

theorem State.chargeRetention_keeps {s₀ s : State} {x1 x2 x3 x4} (h : Keeps km s₀ s) : Keeps km s₀ (State.chargeRetention s x1 x2 x3 x4) := by
  unfold State.chargeRetention
  try lift_lets
  repeat' first | assumption | with_reducible apply State.chargeAccess_keeps | split

theorem State.sendContrib_keeps {s₀ s : State} {x1 x2 x3} (h : Keeps km s₀ s) : Keeps km s₀ (State.sendContrib s x1 x2 x3) := by
  unfold State.sendContrib
  try lift_lets
  repeat' first
    | assumption | (intro x; subst x) | with_reducible apply State.chargeRetention_keeps
    | with_reducible apply State.putChannel_keeps | with_reducible apply State.sendFabric_keeps
    | with_reducible apply State.modSheaf_keeps | split

theorem State.submitRemote_keeps {s₀ s : State} {x0 x1} (h : Keeps km s₀ s) : Keeps km s₀ (State.submitRemote x0 x1 s) := by
  induction x0 generalizing s with
  | zero => exact h
  | succ f ih =>
    unfold State.submitRemote
    split
    · exact h
    · split
      · exact h
      · dsimp only
        exact Keeps.ite (ih (State.modSheaf_keeps (State.sendContrib_keeps h)))
          (Keeps.ite h (State.raise_keeps (State.modBay_keeps h)))

theorem State.submitRest_keeps {s₀ s : State} {b n} (h : Keeps km s₀ s) : Keeps km s₀ (State.submitRest b n s) := by
  induction n generalizing s with
  | zero => exact h
  | succ n ih =>
    unfold State.submitRest
    split
    · exact h
    · exact Keeps.ite (State.submitRemote_keeps h) (ih (State.submitRemote_keeps h))

theorem State.submitMore_keeps {s₀ s : State} {x1} (h : Keeps km s₀ s) : Keeps km s₀ (State.submitMore s x1) :=
  Keeps.ite (State.submitRest_keeps h) (State.modBay_keeps (State.submitRest_keeps h))

theorem State.aimAll_keeps {s₀ s : State} {x1} (h : Keeps km s₀ s) : Keeps km s₀ (State.aimAll s x1).2 := by
  unfold State.aimAll
  try lift_lets
  repeat' first
    | assumption | (intro x; subst x) | with_reducible apply State.countTable_keeps
    | with_reducible apply State.modSheaf_keeps | (with_reducible refine Keeps.foldl_snd _ (fun t x ht => ?_) ?_) | split

theorem State.submitLocal_keeps {s₀ s : State} {x1 x2} (h : Keeps km s₀ s) : Keeps km s₀ (State.submitLocal s x1 x2) := by
  unfold State.submitLocal
  try lift_lets
  repeat' first
    | assumption | with_reducible apply State.modSheaf_keeps | with_reducible apply State.toFlail_keeps
    | (with_reducible refine Keeps.foldl _ (fun t x ht => ?_) ?_) | split

theorem State.submitSheaf_keeps {s₀ s : State} {x1} (h : Keeps km s₀ s) : Keeps km s₀ (State.submitSheaf s x1) := by
  unfold State.submitSheaf
  try lift_lets
  repeat' first
    | assumption | with_reducible apply State.modSheaf_keeps | with_reducible apply State.submitLocal_keeps
    | with_reducible apply State.submitRemote_keeps | with_reducible apply Keeps.ite

theorem State.submitTallied_keeps {s₀ s : State} {x0 x1} (h : Keeps km s₀ s) : Keeps km s₀ (State.submitTallied x0 x1 s) := by
  induction x0 generalizing s with
  | zero => exact h
  | succ n ih =>
    unfold State.submitTallied
    split
    · exact h
    · exact ih (State.submitSheaf_keeps h)

theorem State.submitDue_keeps {s₀ s : State} {x1} (h : Keeps km s₀ s) : Keeps km s₀ (State.submitDue s x1) := by
  unfold State.submitDue
  try lift_lets
  repeat' first
    | assumption | with_reducible apply State.submitTallied_keeps

theorem execTally_keeps {s₀ s : State} {x0} (h : Keeps km s₀ s) : KeepsOut km s₀ (execTally x0 s) := by
  unfold execTally
  refine KeepsOut.next ?_
  split
  · exact h
  · refine Keeps.ite (State.submitDue_keeps h) (Keeps.ite h (Keeps.ite (State.submitDue_keeps (State.modSheaf_keeps h)) ?_))
    exact State.submitDue_keeps (State.modSheaf_keeps (State.aimAll_keeps (Keeps.foldl _ (fun _ _ q => State.countNonFinite_keeps q) h)))

theorem State.allotGroup_keeps {s₀ s : State} {x1 x2 x3} (h : Keeps km s₀ s) : Keeps km s₀ (State.allotGroup s x1 x2 x3) := by
  unfold State.allotGroup
  try lift_lets
  repeat' first
    | assumption | with_reducible apply State.modThresher_keeps | with_reducible apply State.noteReady_keeps
    | with_reducible apply Keeps.ite | split

theorem State.passGroup_keeps {s₀ s : State} {x1 x2 x3 x4 x5 x6} (h : Keeps km s₀ s) : Keeps km s₀ (State.passGroup s x1 x2 x3 x4 x5 x6) := by
  unfold State.passGroup
  try lift_lets
  repeat' first
    | assumption | with_reducible apply State.enterPass_keeps | with_reducible apply Keeps.ite | split

theorem State.drainGroup_keeps {s₀ s : State} {x1 x2 x3 x4} (h : Keeps km s₀ s) : Keeps km s₀ (State.drainGroup s x1 x2 x3 x4) := by
  unfold State.drainGroup
  split
  · exact h
  · refine State.submitDue_keeps (State.modSheaf_keeps ?_)
    split
    · exact State.raise_keeps (State.countNonFinite_keeps h)
    · exact State.countNonFinite_keeps h

theorem execUpdateAcknowledge_keeps {s₀ s : State} {x0} (h : Keeps km s₀ s) : KeepsOut km s₀ (execUpdateAcknowledge x0 s) := by
  unfold execUpdateAcknowledge
  try lift_lets
  repeat' first
    | assumption | with_reducible apply State.modSheaf_keeps | with_reducible apply Keeps.ite
    | with_reducible apply KeepsOut.next | split

theorem State.putOwner_keeps {s₀ s : State} {x1} (h : Keeps km s₀ s) : Keeps km s₀ (State.putOwner s x1) := by
  unfold State.putOwner
  try lift_lets
  repeat' first | (intro x; subst x) | (with_reducible refine Keeps.setFab (by assumption) _ ?_) | with_reducible rfl

theorem State.modInbound_keeps {s₀ s : State} {x1 x2 x3 x4} (h : Keeps km s₀ s) : Keeps km s₀ (State.modInbound s x1 x2 x3 x4) := by
  unfold State.modInbound
  try lift_lets
  repeat' first | assumption | (intro x; subst x) | with_reducible apply State.putOwner_keeps

theorem State.sendAck_keeps {s₀ s : State} {x1 x2 x3 x4 x5 x6 x7 x8} (h : Keeps km s₀ s) : Keeps km s₀ (State.sendAck s x1 x2 x3 x4 x5 x6 x7 x8) := by
  unfold State.sendAck
  repeat' first | assumption | with_reducible apply State.sendFabric_keeps

theorem State.applyRecord_keeps {s₀ s : State} {x1 x2 x3 x4 x5 x6 x7 x8} (h : Keeps km s₀ s) : Keeps km s₀ (State.applyRecord s x1 x2 x3 x4 x5 x6 x7 x8) := by
  unfold State.applyRecord
  try lift_lets
  repeat' first
    | assumption
    | (intro x; (have hx : Keeps km s₀ x := by (subst x; repeat' first | assumption | with_reducible apply State.raise_keeps | with_reducible apply Keeps.ite)); clear_value x)
    | (intro x; subst x) | with_reducible apply State.modInbound_keeps | with_reducible apply State.countTable_keeps
    | with_reducible apply State.toFlail_keeps | split

theorem State.applyMessage_keeps {s₀ s : State} {x1 x2 x3} (h : Keeps km s₀ s) : Keeps km s₀ (State.applyMessage s x1 x2 x3) := by
  unfold State.applyMessage
  try lift_lets
  repeat' first
    | assumption
    | (intro x; (have hx : Keeps km s₀ x := by (subst x; repeat' first | assumption | with_reducible apply State.modInbound_keeps)); clear_value x)
    | (intro x; subst x) | with_reducible apply State.applyRecord_keeps | with_reducible apply State.modInbound_keeps
    | with_reducible apply State.raise_keeps | (with_reducible refine Keeps.foldl _ (fun t x ht => ?_) ?_) | split

theorem State.applyReady_keeps {s₀ s : State} {x0 x1 x2 x3} (h : Keeps km s₀ s) : Keeps km s₀ (State.applyReady x0 x1 x2 x3 s) := by
  induction x0 generalizing s x3 with
  | zero => exact h
  | succ f ih =>
    unfold State.applyReady
    extract_lets -lift +onlyGivenNames c
    split
    · exact h
    · exact ih (Keeps.ite h (State.applyMessage_keeps h))

theorem State.ledgerContrib_keeps {s₀ s : State} {x1} (h : Keeps km s₀ s) : Keeps km s₀ (State.ledgerContrib s x1) := by
  unfold State.ledgerContrib
  try lift_lets
  repeat' first
    | assumption
    | (intro x; (have hx : Keeps km s₀ x := by (subst x; repeat' first | assumption | with_reducible apply State.putOwner_keeps)); clear_value x)
    | (intro x; subst x) | with_reducible apply State.applyReady_keeps | with_reducible apply State.sendAck_keeps
    | with_reducible apply State.modInbound_keeps | with_reducible apply Keeps.ite
    | (with_reducible refine Keeps.setFab (by assumption) _ ?_) | with_reducible rfl | split

theorem State.yokeIn_keeps {s₀ s : State} {x1 x2 x3} (h : Keeps km s₀ s) : Keeps km s₀ (State.yokeIn s x1 x2 x3) := by
  unfold State.yokeIn
  try lift_lets
  repeat' first
    | assumption
    | (intro x; (have hx : Keeps km s₀ x := by (subst x; repeat' first | assumption | (intro y; subst y) | with_reducible apply State.chargeFor_keeps | with_reducible apply State.count_keeps | with_reducible apply State.cross_keeps | with_reducible apply Keeps.ite | split | dsimp only)); clear_value x)
    | (intro x; subst x)
    | with_reducible apply State.chargeFor_keeps
    | with_reducible apply State.count_keeps
    | with_reducible apply State.cross_keeps
    | with_reducible apply Keeps.ite
    | split
    | dsimp only

theorem State.creditBack_keeps {s₀ s : State} {x1 x2} (h : Keeps km s₀ s) : Keeps km s₀ (State.creditBack s x1 x2) := by
  unfold State.creditBack
  try lift_lets
  repeat' first
    | assumption | with_reducible apply State.emit_keeps | with_reducible apply Keeps.ite

theorem State.relayOn_keeps {s₀ s : State} {x1 x2 x3} (h : Keeps km s₀ s) : Keeps km s₀ (State.relayOn s x1 x2 x3) := by
  unfold State.relayOn
  try lift_lets
  repeat' first
    | assumption | with_reducible apply State.sendFabric_keeps | with_reducible apply State.charge_keeps
    | with_reducible apply Keeps.ite | split | dsimp only

theorem State.onYoke_keeps {s₀ s : State} {link m} {f : State → State} (hf : ∀ t, Keeps km s₀ t → Keeps km s₀ (f t)) (h : Keeps km s₀ s) :
    KeepsOut km s₀ (State.onYoke s link m f) := by
  unfold State.onYoke
  have h1 (b : Bool) := State.yokeIn_keeps (x1 := link) (x2 := m) (x3 := b) h
  exact KeepsOut.ite (KeepsOut.fault _ _) (KeepsOut.next (Keeps.ite (Keeps.ite (hf _ (Keeps.ite (h1 _) (State.creditBack_keeps (h1 _))))
    (State.relayOn_keeps (State.creditBack_keeps (h1 _)))) h))

theorem execLedgerContrib_keeps {s₀ s : State} {x0 x1} (h : Keeps km s₀ s) : KeepsOut km s₀ (execLedgerContrib x0 x1 s) := by
  unfold execLedgerContrib
  repeat' first
    | assumption | with_reducible apply State.onYoke_keeps | with_reducible apply State.ledgerContrib_keeps
    | (guard_target =~ ∀ _, _; intro _)

theorem execLedgerAckSend_keeps {s₀ s : State} {x0 x1 x2} (h : Keeps km s₀ s) : KeepsOut km s₀ (execLedgerAckSend x0 x1 x2 s) := by
  unfold execLedgerAckSend
  try lift_lets
  repeat' first
    | assumption | (intro x; subst x) | with_reducible apply State.sendAck_keeps | with_reducible apply State.modInbound_keeps
    | with_reducible apply State.putOwner_keeps | with_reducible apply Keeps.ite
    | (with_reducible refine Keeps.foldl _ (fun t x ht => ?_) ?_) | with_reducible apply KeepsOut.next | split

theorem State.ledgerAck_keeps {s₀ s : State} {x1} (h : Keeps km s₀ s) : Keeps km s₀ (State.ledgerAck s x1) := by
  unfold State.ledgerAck
  try lift_lets
  repeat' first
    | (intro x; subst x) | with_reducible apply State.putChannel_keeps | with_reducible apply State.dropStaged_keeps
    | with_reducible apply State.modSheaf_keeps | with_reducible apply State.submitMore_keeps
    | with_reducible apply State.submitDue_keeps | (with_reducible refine Keeps.foldl _ (fun t x ht => ?_) ?_)
    | (with_reducible refine Keeps.setFab (by assumption) _ ?_) | with_reducible rfl | split

theorem execLedgerAck_keeps {s₀ s : State} {x0 x1} (h : Keeps km s₀ s) : KeepsOut km s₀ (execLedgerAck x0 x1 s) := by
  unfold execLedgerAck
  repeat' first
    | assumption | with_reducible apply State.ledgerAck_keeps | with_reducible apply State.onYoke_keeps
    | (guard_target =~ ∀ _, _; intro _)

theorem execLedgerRetransmit_keeps {s₀ s : State} {x0 x1 x2} (h : Keeps km s₀ s) : KeepsOut km s₀ (execLedgerRetransmit x0 x1 x2 s) := by
  unfold execLedgerRetransmit
  try lift_lets
  repeat' first
    | assumption | (intro x; subst x) | with_reducible apply State.chargeRetention_keeps
    | with_reducible apply State.putChannel_keeps | with_reducible apply State.sendFabric_keeps
    | with_reducible apply State.raise_keeps | with_reducible apply Keeps.ite | with_reducible apply KeepsOut.next | split

theorem execAllot_keeps {s₀ s : State} {x0 x1 x2 x3} (h : Keeps km s₀ s) : KeepsOut km s₀ (execAllot x0 x1 x2 x3 s) := by
  unfold execAllot
  try lift_lets
  repeat' first
    | assumption | with_reducible apply State.allotBag_keeps | with_reducible apply State.allotGroup_keeps
    | with_reducible apply State.allotMatrix_keeps | with_reducible apply KeepsOut.next
    | with_reducible exact KeepsOut.fault _ _ | split

theorem State.heldErrors_keeps {s₀ s : State} {x1 x2 x3 x4 x5 x6} (h : Keeps km s₀ s) : Keeps km s₀ (State.heldErrors s x1 x2 x3 x4 x5 x6) := by
  unfold State.heldErrors
  try lift_lets
  repeat' first
    | assumption
    | (intro x; (have hx : Keeps km s₀ x := by (subst x; repeat' first | assumption | (intro y; subst y) | with_reducible apply State.dieCorrected_keeps | with_reducible apply State.modSection_keeps | with_reducible apply State.countChaff_keeps | with_reducible apply Keeps.ite | (with_reducible refine Keeps.foldl _ (fun t x ht => ?_) ?_) | (with_reducible refine Keeps.foldl_snd _ (fun t x ht => ?_) ?_) | split | dsimp only)); clear_value x)
    | (intro x; subst x)
    | with_reducible apply State.dieCorrected_keeps
    | with_reducible apply State.modSection_keeps
    | with_reducible apply State.countChaff_keeps
    | with_reducible apply Keeps.ite
    | (with_reducible refine Keeps.foldl _ (fun t x ht => ?_) ?_)
    | (with_reducible refine Keeps.foldl_snd _ (fun t x ht => ?_) ?_)
    | split
    | dsimp only

theorem State.readSlice_keeps {s₀ s : State} {x1 x2 x3 x4} (h : Keeps km s₀ s) : Keeps km s₀ (State.readSlice s x1 x2 x3 x4) := by
  unfold State.readSlice
  try lift_lets
  repeat' first
    | assumption
    | (intro x; (have hx : Keeps km s₀ x := by (subst x; repeat' first | assumption | (intro y; subst y) | with_reducible apply State.modSection_keeps | with_reducible apply State.heldErrors_keeps | with_reducible apply State.convertOut_keeps | split | dsimp only)); clear_value x)
    | (intro x; subst x)
    | with_reducible apply State.modSection_keeps
    | with_reducible apply State.heldErrors_keeps
    | with_reducible apply State.convertOut_keeps
    | split
    | dsimp only

theorem State.readBack_keeps {s₀ s : State} {x1 x2 x3 x4 x5} (h : Keeps km s₀ s) : Keeps km s₀ (State.readBack s x1 x2 x3 x4 x5) := by
  unfold State.readBack
  try lift_lets
  repeat' first
    | assumption
    | (intro x; (have hx : Keeps km s₀ x := by (subst x; repeat' first | assumption | (intro y; subst y) | with_reducible apply State.charge_keeps | with_reducible apply State.count_keeps | with_reducible apply State.readSlice_keeps | with_reducible apply Keeps.ite | split | dsimp only)); clear_value x)
    | (intro x; subst x)
    | with_reducible apply State.charge_keeps
    | with_reducible apply State.count_keeps
    | with_reducible apply State.readSlice_keeps
    | with_reducible apply Keeps.ite
    | split
    | dsimp only

theorem execPass_keeps {s₀ s : State} {x0 x1 x2} (h : Keeps false s₀ s) : KeepsOut false s₀ (execPass x0 x1 x2 s) := by
  unfold execPass
  try lift_lets
  repeat' first
    | assumption | with_reducible apply State.passBag_keeps | with_reducible apply State.passGroup_keeps
    | with_reducible apply State.passMatrix_keeps | with_reducible apply KeepsOut.next
    | with_reducible exact KeepsOut.fault _ _ | split

theorem execPassWriteback_keeps {s₀ s : State} {x0 x1 x2 x3 x4} (h : Keeps km s₀ s) : KeepsOut km s₀ (execPassWriteback x0 x1 x2 x3 x4 s) := by
  unfold execPassWriteback
  refine KeepsOut.ite (KeepsOut.fault _ _) (KeepsOut.next ?_)
  split
  · exact h
  · split
    · exact h
    · extract_lets -lift +onlyGivenNames fr die s1 parity s2
      have h1 : Keeps km s₀ s1 := State.modBag_keeps h
      have hp : ∀ n, Keeps km s₀ (parity n) := fun n => State.raise_keeps (Keeps.foldl _ (fun _ _ q => State.modBag_keeps q) h1)
      have h2 : Keeps km s₀ s2 := by
        unfold s2
        clear_value parity s1
        split
        · exact State.dieCorrected_keeps h1
        · exact State.modBag_keeps h1
        · exact hp 0
        · split
          · exact State.modThresher_keeps (hp 1)
          · exact hp 1
        · exact h1
      clear_value s2
      refine State.noteReady_keeps ?_
      split
      · exact State.releaseSlots_keeps h2
      · exact h2

theorem State.operandErrors_keeps {s₀ s : State} {x1 x2 x3 x4 x5} (h : Keeps km s₀ s) : Keeps km s₀ (State.operandErrors s x1 x2 x3 x4 x5) := by
  unfold State.operandErrors
  try lift_lets
  repeat' first
    | assumption | with_reducible apply State.dieCorrected_keeps | with_reducible apply State.modSection_keeps
    | with_reducible apply State.countChaff_keeps | with_reducible apply Keeps.ite
    | (with_reducible refine Keeps.foldl _ (fun t x ht => ?_) ?_) | split

theorem execDrainSlice_keeps {s₀ s : State} {x0} (h : Keeps false s₀ s) : KeepsOut false s₀ (execDrainSlice x0 s) := by
  unfold execDrainSlice
  try lift_lets
  repeat' first
    | assumption | with_reducible apply State.readBack_keeps | with_reducible apply State.modBag_keeps
    | with_reducible apply State.modThresher_keeps | with_reducible apply State.operandErrors_keeps
    | with_reducible apply State.drainBag_keeps | with_reducible apply State.drainGroup_keeps
    | with_reducible apply State.drainMatrix_keeps | with_reducible apply KeepsOut.next
    | with_reducible exact KeepsOut.fault _ _ | split

theorem State.pauseLink_keeps {s₀ s : State} {x1} (h : Keeps km s₀ s) : Keeps km s₀ (State.pauseLink s x1) := by
  unfold State.pauseLink
  try lift_lets
  repeat' first | (intro x; subst x) | (with_reducible refine Keeps.setFab (by assumption) _ ?_) | with_reducible rfl

theorem State.resumeLink_keeps {s₀ s : State} {x1} (h : Keeps km s₀ s) : Keeps km s₀ (State.resumeLink s x1) := by
  unfold State.resumeLink
  try lift_lets
  repeat' first
    | (intro x; subst x)
    | (refine Keeps.set (t := ?tt) ?hh ?_ ?_ ?_ ?_ ?_ ?_ ?_ ?_ ?_ ?_; (case hh => exact (by assumption)); all_goals first | with_reducible rfl | (intro hm; with_reducible assumption))

theorem State.enterRetry_keeps {s₀ s : State} {x1} (h : Keeps km s₀ s) : Keeps km s₀ (State.enterRetry s x1) := by
  unfold State.enterRetry
  try lift_lets
  repeat' first
    | assumption | with_reducible apply State.pauseLink_keeps | with_reducible apply State.modLink_keeps
    | with_reducible apply Keeps.ite

theorem State.backUp_keeps {s₀ s : State} {x1} (h : Keeps km s₀ s) : Keeps km s₀ (State.backUp s x1) := by
  unfold State.backUp
  try lift_lets
  repeat' first | assumption | with_reducible apply State.resumeLink_keeps | with_reducible apply State.modLink_keeps

theorem State.portsGoOn_keeps {s₀ s : State} (h : Keeps km s₀ s) : Keeps km s₀ (State.portsGoOn s) :=
  Keeps.foldl _ (fun _ _ ht => State.egress_keeps ht) (Keeps.foldl _ (fun _ _ ht => State.serveLink_keeps ht) h)

theorem State.linkGoesOn_keeps {s₀ s : State} {x1} (h : Keeps km s₀ s) : Keeps km s₀ (State.linkGoesOn s x1) :=
  Keeps.ite (State.portsGoOn_keeps (State.pump_keeps h)) (State.serveLink_keeps h)

theorem State.creditsIn_keeps {s₀ s : State} {x1 x2} (h : Keeps km s₀ s) : Keeps km s₀ (State.creditsIn s x1 x2) := by
  unfold State.creditsIn
  try lift_lets
  repeat' first
    | assumption | with_reducible apply State.modLink_keeps

theorem State.partnerVote_keeps {s₀ s : State} {x1 x2} (h : Keeps km s₀ s) : Keeps km s₀ (State.partnerVote s x1 x2) := by
  unfold State.partnerVote
  try lift_lets
  repeat' first | assumption | with_reducible apply State.modDomain_keeps | with_reducible apply Keeps.ite | split

theorem execFlitGroupReceive_keeps {s₀ s : State} {x0 x1 x2 x3 x4} (h : Keeps km s₀ s) : KeepsOut km s₀ (execFlitGroupReceive x0 x1 x2 x3 x4 s) := by
  unfold execFlitGroupReceive
  try lift_lets
  repeat' first
    | assumption | with_reducible apply State.modLink_keeps | with_reducible apply State.backUp_keeps
    | with_reducible apply State.count_keeps | with_reducible apply State.enterRetry_keeps
    | with_reducible apply State.emit_keeps | with_reducible apply State.linkGoesOn_keeps
    | with_reducible apply State.partnerVote_keeps | with_reducible apply State.creditsIn_keeps
    | with_reducible apply Keeps.ite | with_reducible apply KeepsOut.next | with_reducible exact KeepsOut.fault _ _
    | with_reducible apply KeepsOut.ite

theorem State.replay_keeps {s₀ s : State} {x1} (h : Keeps km s₀ s) : Keeps km s₀ (State.replay s x1) := by
  unfold State.replay
  try lift_lets
  repeat' first
    | assumption
    | (intro x; (have hx : Keeps km s₀ x := by (subst x; repeat' first | assumption | with_reducible apply State.modLink_keeps)); clear_value x)
    | (intro x; subst x) | with_reducible apply State.enterRetry_keeps | with_reducible apply State.count_keeps
    | with_reducible apply State.emit_keeps

theorem execLinkNak_keeps {s₀ s : State} {x0 x1} (h : Keeps km s₀ s) : KeepsOut km s₀ (execLinkNak x0 x1 s) := by
  unfold execLinkNak
  try lift_lets
  repeat' first
    | assumption
    | (intro x; (have hx : Keeps km s₀ x := by (subst x; repeat' first | assumption | with_reducible apply State.modLink_keeps | with_reducible apply Keeps.ite)); clear_value x)
    | (intro x; subst x) | with_reducible apply State.replay_keeps | with_reducible apply Keeps.ite
    | with_reducible apply KeepsOut.next | with_reducible exact KeepsOut.fault _ _ | with_reducible apply KeepsOut.ite

theorem execReplayTimeout_keeps {s₀ s : State} {x0} (h : Keeps km s₀ s) : KeepsOut km s₀ (execReplayTimeout x0 s) := by
  unfold execReplayTimeout
  try lift_lets
  repeat' first
    | assumption | (intro x; subst x) | with_reducible apply State.replay_keeps | with_reducible apply Keeps.ite
    | with_reducible apply KeepsOut.next | with_reducible exact KeepsOut.fault _ _ | with_reducible apply KeepsOut.ite

theorem State.startRetrain_keeps {s₀ s : State} {x1} (h : Keeps km s₀ s) : Keeps km s₀ (State.startRetrain s x1) := by
  unfold State.startRetrain
  try lift_lets
  repeat' first
    | assumption
    | (intro x; (have hx : Keeps km s₀ x := by (subst x; repeat' first | assumption | with_reducible apply State.modLink_keeps)); clear_value x)
    | (intro x; subst x) | with_reducible apply State.raise_keeps | with_reducible apply State.count_keeps
    | with_reducible apply State.emit_keeps

theorem execRetryBudgetExhausted_keeps {s₀ s : State} {x0} (h : Keeps km s₀ s) : KeepsOut km s₀ (execRetryBudgetExhausted x0 s) := by
  unfold execRetryBudgetExhausted
  try lift_lets
  repeat' first
    | assumption | (intro x; subst x) | with_reducible apply State.startRetrain_keeps | with_reducible apply Keeps.ite
    | with_reducible apply KeepsOut.next | with_reducible exact KeepsOut.fault _ _ | with_reducible apply KeepsOut.ite

theorem State.meshCheck_keeps {s₀ s : State} {x1} (h : Keeps km s₀ s) : Keeps km s₀ (State.meshCheck s x1) := by
  unfold State.meshCheck
  try lift_lets
  repeat' first | assumption | with_reducible apply State.raise_keeps | with_reducible apply Keeps.ite | split

theorem State.yokeDown_keeps {s₀ s : State} {x1} (h : Keeps km s₀ s) : Keeps km s₀ (State.yokeDown s x1) := by
  unfold State.yokeDown
  try lift_lets
  repeat' first
    | assumption | with_reducible apply State.modLink_keeps | with_reducible apply State.resumeLink_keeps
    | with_reducible apply State.withdrawVotes_keeps | with_reducible apply State.abortMargins_keeps
    | with_reducible apply State.raise_keeps | with_reducible apply State.meshCheck_keeps

theorem execRetrainDone_keeps {s₀ s : State} {x0 x1} (h : Keeps km s₀ s) : KeepsOut km s₀ (execRetrainDone x0 x1 s) := by
  unfold execRetrainDone
  try lift_lets
  repeat' first
    | assumption | with_reducible apply State.backUp_keeps | with_reducible apply State.linkGoesOn_keeps
    | with_reducible apply State.modLink_keeps | with_reducible apply State.emit_keeps
    | with_reducible apply State.yokeDown_keeps | with_reducible apply State.startRetrain_keeps
    | with_reducible apply Keeps.ite | with_reducible apply KeepsOut.next | with_reducible exact KeepsOut.fault _ _
    | with_reducible apply KeepsOut.ite

theorem execRidgeLost_keeps {s₀ s : State} (h : Keeps km s₀ s) : KeepsOut km s₀ (execRidgeLost s) :=
  KeepsOut.next (Keeps.ite (State.goFatal_keeps (State.raise_keeps (State.resumeLink_keeps (State.modLink_keeps h)))) h)

theorem execYokeTrain_keeps {s₀ s : State} {x0 x1 x2 x3} (h : Keeps km s₀ s) : KeepsOut km s₀ (execYokeTrain x0 x1 x2 x3 s) := by
  unfold execYokeTrain
  try lift_lets
  repeat' first
    | assumption | with_reducible apply State.modLink_keeps | with_reducible apply State.raise_keeps
    | with_reducible apply Keeps.ite | with_reducible apply KeepsOut.next | with_reducible exact KeepsOut.fault _ _
    | with_reducible apply KeepsOut.ite

theorem execYokeDown_keeps {s₀ s : State} {x0} (h : Keeps km s₀ s) : KeepsOut km s₀ (execYokeDown x0 s) := by
  unfold execYokeDown
  repeat' first
    | assumption | with_reducible apply State.yokeDown_keeps | with_reducible apply Keeps.ite
    | with_reducible apply KeepsOut.next | with_reducible exact KeepsOut.fault _ _ | with_reducible apply KeepsOut.ite

theorem doYokeSet_keeps {s₀ s : State} {x0} (h : Keeps km s₀ s) : Keeps km s₀ (doYokeSet x0 s).2 := by
  unfold doYokeSet
  try lift_lets
  repeat' first
    | assumption | with_reducible apply Ctx.fields_keeps | with_reducible apply okWith_keeps
    | with_reducible apply State.modLink_keeps | with_reducible apply State.resumeLink_keeps
    | with_reducible apply State.withdrawVotes_keeps | with_reducible apply State.abortMargins_keeps
    | with_reducible apply Keeps.ite_snd

theorem execYokeSet_keeps {s₀ s : State} {x0} (h : Keeps km s₀ s) : KeepsOut km s₀ (execYokeSet x0 s) := by
  exact runCommand_keeps (fun _ _ ht => doYokeSet_keeps ht) h

theorem doLinkQuery_keeps {s₀ s : State} {x0} (h : Keeps km s₀ s) : Keeps km s₀ (doLinkQuery x0 s).2 := by
  unfold doLinkQuery
  repeat' first | assumption | with_reducible apply Ctx.fields_keeps

theorem execLinkQuery_keeps {s₀ s : State} {x0} (h : Keeps km s₀ s) : KeepsOut km s₀ (execLinkQuery x0 s) := by
  exact runCommand_keeps (fun _ _ ht => doLinkQuery_keeps ht) h

theorem execSiloTemperature_keeps {s₀ s : State} {x0 x1} (h : Keeps km s₀ s) : KeepsOut km s₀ (execSiloTemperature x0 x1 s) := by
  unfold execSiloTemperature
  refine KeepsOut.ite (KeepsOut.fault _ _) (KeepsOut.next ?_)
  split
  · exact h
  · refine Keeps.ite h ?_
    extract_lets -lift +onlyGivenNames below cur s1 up
    have h1 : Keeps km s₀ s1 := State.modSilo_keeps h
    clear_value s1
    exact Keeps.set h1 rfl rfl rfl rfl rfl rfl rfl rfl rfl rfl

theorem execThrottleFall_keeps {s₀ s : State} {x0} (h : Keeps km s₀ s) : KeepsOut km s₀ (execThrottleFall x0 s) := by
  unfold execThrottleFall
  try lift_lets
  repeat' first
    | assumption | with_reducible apply State.modSilo_keeps | with_reducible apply Keeps.ite
    | with_reducible apply KeepsOut.next | with_reducible exact KeepsOut.fault _ _ | with_reducible apply KeepsOut.ite | split

theorem State.takeStep_keeps {s₀ s : State} {x1} (h : Keeps km s₀ s) : Keeps km s₀ (State.takeStep s x1) := by
  unfold State.takeStep
  try lift_lets
  repeat' first
    | assumption | with_reducible apply State.modSilo_keeps | with_reducible apply State.raise_keeps
    | with_reducible apply Keeps.ite | split

theorem State.chaffRead_keeps {s₀ s : State} {x1} (h : Keeps false s₀ s) : Keeps false s₀ (State.chaffRead s x1) := by
  unfold State.chaffRead
  repeat' first | assumption | with_reducible apply State.deliver'_keeps

theorem State.loseSpilled_keeps {s₀ s : State} {x1} (h : Keeps km s₀ s) : Keeps km s₀ (State.loseSpilled s x1) := by
  unfold State.loseSpilled
  try lift_lets
  repeat' first | (intro x; subst x) | (with_reducible refine Keeps.setDp (by assumption) _ ?_ ?_) | with_reducible rfl

theorem State.loseRetained_keeps {s₀ s : State} {x1} (h : Keeps km s₀ s) : Keeps km s₀ (State.loseRetained s x1) := by
  unfold State.loseRetained
  try lift_lets
  repeat' first
    | assumption
    | (intro x; (have hx : Keeps km s₀ x := by (subst x; repeat' first | (with_reducible refine Keeps.setFab (by assumption) _ ?_) | with_reducible rfl)); clear_value x)
    | (intro x; subst x) | with_reducible apply State.modSheaf_keeps
    | (with_reducible refine Keeps.foldl _ (fun t x ht => ?_) ?_)

theorem State.loseSilo_keeps {s₀ s : State} {x1 x2} (h : Keeps false s₀ s) : Keeps false s₀ (State.loseSilo s x1 x2) := by
  unfold State.loseSilo
  try lift_lets
  repeat' first
    | assumption
    | (intro x; (have hx : Keeps false s₀ x := by (subst x; repeat' first | assumption | with_reducible apply State.chaffRead_keeps | with_reducible apply State.modSilo_keeps | with_reducible apply State.goFatal_keeps | with_reducible apply State.raise_keeps | (with_reducible refine Keeps.foldl _ (fun t x ht => ?_) ?_))); clear_value x)
    | with_reducible apply State.loseRetained_keeps | with_reducible apply State.loseSpilled_keeps

theorem execSiloLost_keeps {s₀ s : State} {x0 x1} (h : Keeps false s₀ s) : KeepsOut false s₀ (execSiloLost x0 x1 s) := by
  unfold execSiloLost
  try lift_lets
  repeat' first
    | assumption | with_reducible apply State.loseSilo_keeps | with_reducible apply Keeps.ite
    | with_reducible apply KeepsOut.next | with_reducible exact KeepsOut.fault _ _ | with_reducible apply KeepsOut.ite | split

theorem State.siloUe_keeps {s₀ s : State} {x1 x2 x3 x4} (h : Keeps km s₀ s) : Keeps km s₀ (State.siloUe s x1 x2 x3 x4) :=
  Keeps.ite (Keeps.ite (State.siloBad_keeps (State.addPoison_keeps h)) h)
    (State.retirePage_keeps (State.raise_keeps (State.siloError_keeps h)))

theorem execSiloUe_keeps {s₀ s : State} {x0 x1 x2 x3} (h : Keeps km s₀ s) : KeepsOut km s₀ (execSiloUe x0 x1 x2 x3 s) := by
  unfold execSiloUe
  repeat' first
    | assumption | with_reducible apply State.siloUe_keeps | with_reducible apply Keeps.ite
    | with_reducible apply KeepsOut.next | with_reducible exact KeepsOut.fault _ _ | with_reducible apply KeepsOut.ite

theorem execScrub_keeps {s₀ s : State} {x0 x1 x2 x3 x4} (h : Keeps km s₀ s) : KeepsOut km s₀ (execScrub x0 x1 x2 x3 x4 s) := by
  unfold execScrub
  refine KeepsOut.ite (KeepsOut.fault _ _) (KeepsOut.next ?_)
  split
  · exact h
  · have h1 : ∀ b n, Keeps km s₀ ((s.chargeFor none false x0 b).takeSlots x0 n) := fun _ _ => State.takeSlots_keeps (State.chargeFor_keeps h)
    refine Keeps.ite h (Keeps.ite (State.count_keeps (State.modSilo_keeps ?_)) (State.modSilo_keeps ?_))
    all_goals
      split
      · exact State.siloCorrected_keeps (h1 _ _)
      · exact State.siloUe_keeps (h1 _ _)
      · exact h1 _ _

theorem State.modLoft_keeps {s₀ s : State} {x1 x2} (h : Keeps km s₀ s) : Keeps km s₀ (State.modLoft s x1 x2) := by
  unfold State.modLoft
  try lift_lets
  repeat' first
    | (intro x; subst x) | (with_reducible refine Keeps.setMemsys (by assumption) _ ?_ ?_) | with_reducible rfl
    | simp only [List.length_map, List.length_modify, List.length_set]

theorem State.quarantine_keeps {s₀ s : State} {x1} (h : Keeps km s₀ s) : Keeps km s₀ (State.quarantine s x1) :=
  Keeps.ite h (Keeps.setDp h _ rfl rfl)

theorem State.newLabel_keeps {s₀ s : State} {x1} (h : Keeps km s₀ s) : Keeps km s₀ (State.newLabel s x1).2 := by
  unfold State.newLabel
  try lift_lets
  repeat' first
    | assumption
    | (intro x; (have hx : Keeps km s₀ x := by (subst x; repeat' first | assumption | (intro y; subst y) | with_reducible apply State.fresh_keeps | with_reducible refine Keeps.of_snd ?_ (by assumption) | split | dsimp only)); clear_value x)
    | (intro x; (have hx : Keeps km s₀ x.2 := by (subst x; repeat' first | assumption | (intro y; subst y) | with_reducible apply State.fresh_keeps | with_reducible refine Keeps.of_snd ?_ (by assumption) | split | dsimp only)); clear_value x)
    | (intro x; subst x)
    | with_reducible apply State.fresh_keeps
    | with_reducible refine Keeps.of_snd ?_ (by assumption)
    | split
    | dsimp only

theorem State.loftDown_keeps {s₀ s : State} {x1 x2} (h : Keeps false s₀ s) : Keeps false s₀ (State.loftDown s x1 x2) := by
  unfold State.loftDown
  try lift_lets
  repeat' first
    | assumption | with_reducible apply State.modLoft_keeps | with_reducible apply State.abortMargins_keeps
    | with_reducible apply State.count_keeps | with_reducible apply State.raise_keeps
    | with_reducible apply State.quarantine_keeps | with_reducible apply State.chaffRead_keeps
    | (with_reducible refine Keeps.foldl _ (fun t x ht => ?_) ?_)

theorem execLoftDown_keeps {s₀ s : State} {x0 x1} (h : Keeps false s₀ s) : KeepsOut false s₀ (execLoftDown x0 x1 s) := by
  unfold execLoftDown
  repeat' first
    | assumption | with_reducible apply State.loftDown_keeps | with_reducible apply Keeps.ite
    | with_reducible apply KeepsOut.next | with_reducible exact KeepsOut.fault _ _ | with_reducible apply KeepsOut.ite

theorem State.loseUnits_keeps {s₀ s : State} {x1} (h : Keeps km s₀ s) : Keeps km s₀ (State.loseUnits s x1) :=
  Keeps.setBays h _ (by simp)

theorem execLoftRetrain_keeps {s₀ s : State} {x0 x1 x2} (h : Keeps km s₀ s) : KeepsOut km s₀ (execLoftRetrain x0 x1 x2 s) := by
  unfold execLoftRetrain
  have h1 : Keeps km s₀ (s.newLabel x0).2 := State.newLabel_keeps h
  refine KeepsOut.ite (KeepsOut.fault _ _) (KeepsOut.next (Keeps.ite h (Keeps.ite (State.modLoft_keeps h)
    (Keeps.ite (State.raise_keeps (State.modLoft_keeps h)) ?_))))
  exact State.raise_keeps (State.modLoft_keeps (State.loseUnits_keeps h1))

theorem State.setDevload_keeps {s₀ s : State} {x1 x2} (h : Keeps km s₀ s) : Keeps km s₀ (State.setDevload s x1 x2) := by
  unfold State.setDevload
  try lift_lets
  repeat' first | assumption | with_reducible apply State.modLoft_keeps | with_reducible apply State.raise_keeps

theorem execLoftDevload_keeps {s₀ s : State} {x0 x1} (h : Keeps km s₀ s) : KeepsOut km s₀ (execLoftDevload x0 x1 s) := by
  unfold execLoftDevload
  try lift_lets
  repeat' first
    | assumption | (intro x; subst x) | with_reducible apply State.setDevload_keeps | with_reducible apply State.modLoft_keeps
    | with_reducible apply Keeps.ite | with_reducible apply KeepsOut.next | with_reducible exact KeepsOut.fault _ _
    | with_reducible apply KeepsOut.ite

theorem execLoftPoison_keeps {s₀ s : State} {x0 x1} (h : Keeps false s₀ s) : KeepsOut false s₀ (execLoftPoison x0 x1 s) := by
  unfold execLoftPoison
  try lift_lets
  repeat' first
    | assumption | with_reducible apply State.deliver'_keeps | with_reducible apply State.badGranules_keeps
    | with_reducible apply Keeps.ite | with_reducible apply KeepsOut.next | split

theorem execLoftEventPoll_keeps {s₀ s : State} {x0 x1 x2} (h : Keeps km s₀ s) : KeepsOut km s₀ (execLoftEventPoll x0 x1 x2 s) := by
  unfold execLoftEventPoll
  try lift_lets
  repeat' first
    | assumption | with_reducible apply State.modLoft_keeps | with_reducible apply State.count_keeps
    | with_reducible apply Keeps.ite | with_reducible apply KeepsOut.next | with_reducible exact KeepsOut.fault _ _
    | with_reducible apply KeepsOut.ite

theorem execLoftUnitReclaimed_keeps {s₀ s : State} {x0 x1} (h : Keeps false s₀ s) : KeepsOut false s₀ (execLoftUnitReclaimed x0 x1 s) := by
  unfold execLoftUnitReclaimed
  try lift_lets
  repeat' first
    | assumption
    | (intro x; (have hx : Keeps false s₀ x := by (subst x; repeat' first | assumption | with_reducible apply State.modBay_keeps | with_reducible apply State.zero_keeps)); clear_value x)
    | (intro x; subst x) | with_reducible apply State.raise_keeps | with_reducible apply Keeps.ite
    | with_reducible apply KeepsOut.next | with_reducible exact KeepsOut.fault _ _ | with_reducible apply KeepsOut.ite | split

theorem doSiloQuery_keeps {s₀ s : State} {x0} (h : Keeps km s₀ s) : Keeps km s₀ (doSiloQuery x0 s).2 := by
  unfold doSiloQuery
  try lift_lets
  repeat' first
    | assumption
    | (intro x; (have hx : Keeps km s₀ x := by (subst x; repeat' first | assumption | with_reducible apply State.modSession_keeps | with_reducible apply Keeps.ite | (with_reducible refine Keeps.setMgmt (by assumption) _))); clear_value x)
    | (intro x; subst x) | with_reducible apply Ctx.fields_keeps

theorem execSiloQuery_keeps {s₀ s : State} {x0} (h : Keeps km s₀ s) : KeepsOut km s₀ (execSiloQuery x0 s) := by
  exact runCommand_keeps (fun _ _ ht => doSiloQuery_keeps ht) h

theorem doLoftQuery_keeps {s₀ s : State} {x0} (h : Keeps km s₀ s) : Keeps km s₀ (doLoftQuery x0 s).2 := by
  unfold doLoftQuery
  try lift_lets
  repeat' first | assumption | (intro x; subst x) | with_reducible apply Ctx.fields_keeps

theorem execLoftQuery_keeps {s₀ s : State} {x0} (h : Keeps km s₀ s) : KeepsOut km s₀ (execLoftQuery x0 s) := by
  exact runCommand_keeps (fun _ _ ht => doLoftQuery_keeps ht) h

theorem doMemScrubConfig_keeps {s₀ s : State} {x0} (h : Keeps km s₀ s) : Keeps km s₀ (doMemScrubConfig x0 s).2 :=
  Ctx.fields_keeps h (okWith_keeps (Keeps.setMemsys h _ (List.length_map ..) rfl))

theorem execMemScrubConfig_keeps {s₀ s : State} {x0} (h : Keeps km s₀ s) : KeepsOut km s₀ (execMemScrubConfig x0 s) := by
  exact runCommand_keeps (fun _ _ ht => doMemScrubConfig_keeps ht) h

theorem doLoftPortSet_keeps {s₀ s : State} {x0} (h : Keeps km s₀ s) : Keeps km s₀ (doLoftPortSet x0 s).2 := by
  unfold doLoftPortSet
  have h1 : ∀ k, Keeps km s₀ (s.newLabel k).2 := fun _ => State.newLabel_keeps h
  refine Ctx.fields_keeps h (refuseIf_keeps h (Keeps.ite_snd (okWith_keeps h)
    (Keeps.ite_snd (okWith_keeps (State.abortMargins_keeps (State.modLoft_keeps h))) (Keeps.ite_snd ?_ (okWith_keeps h)))))
  exact okWith_keeps (State.modLoft_keeps (h1 (u8At x0.p 0)))

theorem execLoftPortSet_keeps {s₀ s : State} {x0} (h : Keeps km s₀ s) : KeepsOut km s₀ (execLoftPortSet x0 s) := by
  exact runCommand_keeps (fun _ _ ht => doLoftPortSet_keeps ht) h

theorem State.wicketBusy_keeps {s₀ s : State} {x1} (h : Keeps km s₀ s) : Keeps km s₀ (State.wicketBusy s x1) := by
  unfold State.wicketBusy
  repeat' first | assumption | with_reducible apply State.respond_keeps | with_reducible apply State.count_keeps

theorem State.queueMessage_keeps {s₀ s : State} {x1 x2} (h : Keeps km s₀ s) : Keeps km s₀ (State.queueMessage s x1 x2) := by
  unfold State.queueMessage
  try lift_lets
  repeat' first
    | assumption
    | (intro x; (have hx : Keeps km s₀ x := by (subst x; repeat' first | (with_reducible refine Keeps.setDp (by assumption) _ ?_ ?_) | with_reducible rfl)); clear_value x)
    | (intro x; subst x) | with_reducible apply State.wicketBusy_keeps | with_reducible apply State.count_keeps
    | with_reducible apply Keeps.ite

theorem State.acceptLookup_keeps {s₀ s : State} {x1 x2 x3} (h : Keeps km s₀ s) : Keeps km s₀ (State.acceptLookup s x1 x2 x3) := by
  unfold State.acceptLookup
  try lift_lets
  repeat' first
    | assumption
    | (intro x; (have hx : Keeps km s₀ x := by (subst x; repeat' (refine Keeps.set (t := ?tt) ?hh ?_ ?_ ?_ ?_ ?_ ?_ ?_ ?_ ?_ ?_; (case hh => exact (by assumption)); all_goals first | with_reducible rfl | (intro hm; with_reducible assumption)))); clear_value x)
    | (intro x; subst x) | with_reducible apply State.wicketBusy_keeps | with_reducible apply State.respond_keeps
    | with_reducible apply State.count_keeps | with_reducible apply Keeps.ite

theorem State.lookupIn_keeps {s₀ s : State} {x1} (h : Keeps km s₀ s) : Keeps km s₀ (State.lookupIn s x1) := by
  unfold State.lookupIn
  try lift_lets
  repeat' first
    | assumption | with_reducible apply State.acceptLookup_keeps | with_reducible apply State.wicketBusy_keeps
    | with_reducible apply State.repeated_keeps | with_reducible apply State.countMalformed_keeps
    | with_reducible apply State.countDiscard_keeps | with_reducible apply State.respond_keeps
    | with_reducible apply Keeps.ite | with_reducible refine Keeps.of_opt ?_ (by assumption) | split

theorem execWicketLookup_keeps {s₀ s : State} {x0} (h : Keeps km s₀ s) : KeepsOut km s₀ (execWicketLookup x0 s) := by
  unfold execWicketLookup
  repeat' first
    | assumption | with_reducible apply State.lookupIn_keeps | with_reducible apply Keeps.ite
    | with_reducible apply KeepsOut.next

theorem State.wicketFetch_keeps {s₀ s : State} {x1 x2 x3} (h : Keeps km s₀ s) : Keeps km s₀ (State.wicketFetch s x1 x2 x3) := by
  unfold State.wicketFetch
  try lift_lets
  repeat' first
    | assumption | with_reducible apply State.putReadReq_keeps | with_reducible apply State.putRead_keeps
    | with_reducible apply State.boundsEvent_keeps | with_reducible apply State.count_keeps
    | with_reducible apply State.modLookup_keeps | with_reducible apply Keeps.ite

theorem State.wicketSide_keeps {s₀ s : State} {x1 x2 x3 x4 x5} (h : Keeps km s₀ s) : Keeps km s₀ (State.wicketSide s x1 x2 x3 x4 x5) := by
  unfold State.wicketSide
  try lift_lets
  repeat' first
    | (intro x; subst x) | with_reducible apply State.putRead_keeps
    | (with_reducible refine Keeps.foldl _ (fun t x ht => ?_) ?_)
    | (with_reducible refine Keeps.setDp (by assumption) _ ?_ ?_) | with_reducible rfl | split

theorem State.wicketStatus_keeps {s₀ s : State} {x1 x2} (h : Keeps km s₀ s) : Keeps km s₀ (State.wicketStatus s x1 x2) := by
  unfold State.wicketStatus
  try lift_lets
  repeat' first | assumption | with_reducible apply State.modLookup_keeps

theorem State.parseLookup_keeps {s₀ s : State} {x1} (h : Keeps km s₀ s) : Keeps km s₀ (State.parseLookup s x1) := by
  unfold State.parseLookup
  try lift_lets
  repeat' first
    | assumption | with_reducible apply State.wicketStatus_keeps | with_reducible apply State.withDebt_keeps
    | with_reducible apply State.walkCharge_keeps | with_reducible apply State.modLookup_keeps
    | with_reducible apply State.wicketSide_keeps | with_reducible apply State.wicketFetch_keeps
    | with_reducible apply State.putPools_keeps | with_reducible apply State.pump_keeps | with_reducible apply Keeps.ite
    | (with_reducible refine Keeps.foldl _ (fun t x ht => ?_) ?_) | split

theorem State.joinQueue_keeps {s₀ s : State} {x1} (h : Keeps km s₀ s) : Keeps km s₀ (State.joinQueue s x1) := by
  unfold State.joinQueue
  try lift_lets
  repeat' first
    | assumption | (intro x; subst x) | with_reducible apply State.respond_keeps | with_reducible apply Keeps.ite
    | (with_reducible refine Keeps.setNet (by assumption) _ ?_) | with_reducible rfl

theorem execWicketParse_keeps {s₀ s : State} {x0} (h : Keeps km s₀ s) : KeepsOut km s₀ (execWicketParse x0 s) := by
  unfold execWicketParse
  try lift_lets
  repeat' first
    | assumption | (intro x; subst x) | with_reducible apply State.joinQueue_keeps
    | with_reducible apply State.parseLookup_keeps | with_reducible apply Keeps.ite | with_reducible apply KeepsOut.next
    | with_reducible exact KeepsOut.fault _ _ | with_reducible apply KeepsOut.ite
    | (with_reducible refine Keeps.setDp (by assumption) _ ?_ ?_) | with_reducible rfl | split

theorem execUrgentMessage_keeps {s₀ s : State} {x0} (h : Keeps km s₀ s) : KeepsOut km s₀ (execUrgentMessage x0 s) := by
  unfold execUrgentMessage
  try lift_lets
  repeat' first
    | assumption | (intro x; subst x) | with_reducible apply Keeps.ite | with_reducible apply KeepsOut.next
    | with_reducible exact KeepsOut.fault _ _ | with_reducible apply KeepsOut.ite
    | (refine Keeps.set (t := ?tt) ?hh ?_ ?_ ?_ ?_ ?_ ?_ ?_ ?_ ?_ ?_; (case hh => exact (by assumption)); all_goals first | with_reducible rfl | (intro hm; with_reducible assumption))
    | split

theorem State.bypassErrors_keeps {s₀ s : State} {x1 x2 x3 x4} (h : Keeps false s₀ s) : Keeps false s₀ (State.bypassErrors s x1 x2 x3 x4) :=
  State.rowErrors_keeps (fun _ _ q => q) h

theorem State.bypass_keeps {s₀ s : State} {x1 x2} (h : Keeps km s₀ s) : Keeps km s₀ (State.bypass s x1 x2) := by
  unfold State.bypass
  try lift_lets
  repeat' first
    | assumption | (intro x; subst x) | with_reducible apply State.modLookup_keeps | with_reducible apply State.heatRow_keeps
    | with_reducible apply State.countSat_keeps | with_reducible apply State.withDebt_keeps
    | with_reducible apply State.charge_keeps | with_reducible apply State.modTable_keeps
    | with_reducible apply State.count_keeps | (with_reducible refine Keeps.foldl _ (fun t x ht => ?_) ?_)

theorem execBypassFold_keeps {s₀ s : State} {x0} (h : Keeps false s₀ s) : KeepsOut false s₀ (execBypassFold x0 s) := by
  unfold execBypassFold
  try lift_lets
  repeat' first
    | assumption | with_reducible apply State.modThresher_keeps | with_reducible apply State.modLookup_keeps
    | with_reducible apply State.bypassErrors_keeps | with_reducible apply State.bypass_keeps
    | with_reducible apply KeepsOut.next | split

theorem State.dropLookup_keeps {s₀ s : State} {x1} (h : Keeps km s₀ s) : Keeps km s₀ (State.dropLookup s x1) := by
  unfold State.dropLookup
  try lift_lets
  repeat' first | (intro x; subst x) | (with_reducible refine Keeps.setDp (by assumption) _ ?_ ?_) | with_reducible rfl

theorem execWicketResult_keeps {s₀ s : State} {x0} (h : Keeps km s₀ s) : KeepsOut km s₀ (execWicketResult x0 s) := by
  unfold execWicketResult
  try lift_lets
  repeat' first
    | assumption | with_reducible apply State.dropLookup_keeps | with_reducible apply State.tetherFail_keeps
    | with_reducible apply State.placeFail_keeps | with_reducible apply State.hostPlace_keeps
    | with_reducible apply State.rdmaSend_keeps | with_reducible apply State.withDebt_keeps | with_reducible apply Keeps.ite
    | with_reducible apply KeepsOut.next | split | dsimp only

theorem State.lookupTimeout_keeps {s₀ s : State} {x1} (h : Keeps km s₀ s) : Keeps km s₀ (State.lookupTimeout s x1) := by
  unfold State.lookupTimeout
  try lift_lets
  repeat' first
    | assumption | with_reducible apply State.giveUp_keeps | with_reducible apply State.modLookup_keeps
    | with_reducible apply Keeps.ite | split

theorem execBarrierTimeout_keeps {s₀ s : State} {x0 x1} (h : Keeps km s₀ s) : KeepsOut km s₀ (execBarrierTimeout x0 x1 s) := by
  unfold execBarrierTimeout
  try lift_lets
  repeat' first
    | assumption
    | (intro x; (have hx : Keeps km s₀ x := by (subst x; repeat' first | assumption | with_reducible apply State.loadSections_keeps)); clear_value x)
    | with_reducible apply State.lookupTimeout_keeps | with_reducible apply State.giveUp_keeps
    | with_reducible apply State.modSection_keeps | with_reducible apply Keeps.ite | with_reducible apply KeepsOut.next
    | split

end Sys2Proof.Machine
end

