-- ==== Sys2Proof/Laws/KeepsFabric.lean ====
section
/-! SUPPORT. What each operation keeps: owners and shard maps. -/

set_option maxRecDepth 4000
set_option Elab.async false
set_option linter.unusedSimpArgs false

namespace Sys2Proof.Machine

variable {km : Bool}

theorem State.malformedFabric_keeps {s₀ s : State} {x1} (h : Keeps km s₀ s) : Keeps km s₀ (State.malformedFabric s x1) := by
  unfold State.malformedFabric
  try lift_lets
  repeat' first | assumption | with_reducible apply State.modLink_keeps | with_reducible apply State.count_keeps

theorem State.requestCredit_keeps {s₀ s : State} {x1 x2 x3} (h : Keeps km s₀ s) : Keeps km s₀ (State.requestCredit s x1 x2 x3) := by
  unfold State.requestCredit
  try lift_lets
  repeat' first
    | assumption | with_reducible apply State.modLink_keeps | with_reducible apply State.creditBack_keeps
    | with_reducible apply Keeps.ite

theorem State.wrongKind_keeps {s₀ s : State} {x1 x2} (h : Keeps km s₀ s) : Keeps km s₀ (State.wrongKind s x1 x2) := by
  unfold State.wrongKind
  try lift_lets
  repeat' first
    | assumption | with_reducible apply State.malformedFabric_keeps | with_reducible apply State.requestCredit_keeps
    | with_reducible apply Keeps.ite

theorem State.lateCompletion_keeps {s₀ s : State} {x1} (h : Keeps km s₀ s) : Keeps km s₀ (State.lateCompletion s x1) := by
  unfold State.lateCompletion
  try lift_lets
  repeat' first
    | assumption
    | (intro x; (have hx : Keeps km s₀ x := by (subst x; repeat' first | (with_reducible refine Keeps.setDp (by assumption) _ ?_ ?_) | with_reducible rfl)); clear_value x)
    | (intro x; subst x) | with_reducible apply State.modCtx_keeps | with_reducible apply State.modCounters_keeps
    | with_reducible apply State.count_keeps | split

theorem execLateCompletion_keeps {s₀ s : State} {x0} (h : Keeps km s₀ s) : KeepsOut km s₀ (execLateCompletion x0 s) := by
  unfold execLateCompletion
  repeat' first | assumption | with_reducible apply State.lateCompletion_keeps | with_reducible apply KeepsOut.next

theorem execQuarantineEnd_keeps {s₀ s : State} {x0} (h : Keeps km s₀ s) : KeepsOut km s₀ (execQuarantineEnd x0 s) := by
  unfold execQuarantineEnd
  try lift_lets
  repeat' first
    | (intro x; subst x) | with_reducible apply KeepsOut.next | (with_reducible refine Keeps.setDp (by assumption) _ ?_ ?_)
    | with_reducible rfl

theorem State.modPool_keeps {s₀ s : State} {x1 x2} (h : Keeps km s₀ s) : Keeps km s₀ (State.modPool s x1 x2) := by
  unfold State.modPool
  try lift_lets
  repeat' first
    | assumption | with_reducible apply State.modSection_keeps | with_reducible apply State.modLookup_keeps | split

theorem State.takePartials_keeps {s₀ s : State} {x1 x2} (h : Keeps false s₀ s) : Keeps false s₀ (State.takePartials s x1 x2) :=
  State.noteAll_keeps (State.deliver'_keeps (Keeps.ite h (State.modPool_keeps h)))

theorem State.dropRequest_keeps {s₀ s : State} {x1} (h : Keeps km s₀ s) : Keeps km s₀ (State.dropRequest s x1) := by
  unfold State.dropRequest
  try lift_lets
  repeat' first | (intro x; subst x) | (with_reducible refine Keeps.setFab (by assumption) _ ?_) | with_reducible rfl

theorem State.chaffAll_keeps {s₀ s : State} {x1} (h : Keeps false s₀ s) : Keeps false s₀ (State.chaffAll s x1) := by
  unfold State.chaffAll
  extract_lets -lift +onlyGivenNames s1
  have h1 : Keeps false s₀ s1 := State.dropRequest_keeps h
  clear_value s1
  split
  · exact State.takePartials_keeps h1
  · exact State.deliver'_keeps h1

theorem State.rowAnswered_keeps {s₀ s : State} {x1 x2 x3 x4 x5} (h : Keeps false s₀ s) : Keeps false s₀ (State.rowAnswered s x1 x2 x3 x4 x5) := by
  unfold State.rowAnswered
  try lift_lets
  repeat' first
    | assumption | with_reducible apply State.deliver'_keeps | with_reducible apply State.modSection_keeps
    | with_reducible apply State.fetchSide_keeps | with_reducible apply State.modLookup_keeps
    | with_reducible apply State.wicketSide_keeps | with_reducible apply State.modStage_keeps | split

theorem State.settle_keeps {s₀ s : State} {x1 x2} (h : Keeps km s₀ s) : Keeps km s₀ (State.settle s x1 x2) := by
  unfold State.settle
  try lift_lets
  repeat' first
    | assumption
    | (intro x; (have hx : Keeps km s₀ x := by (subst x; repeat' first | assumption | with_reducible apply State.dropRequest_keeps | (with_reducible refine Keeps.setDp (by assumption) _ ?_ ?_) | with_reducible rfl)); clear_value x)
    | (intro x; subst x) | with_reducible apply State.quarantine_keeps | with_reducible apply Keeps.ite | split

theorem State.answerIn_keeps {s₀ s : State} {x1 x2} (h : Keeps false s₀ s) : Keeps false s₀ (State.answerIn s x1 x2) := by
  unfold State.answerIn
  extract_lets -lift +onlyGivenNames kind
  refine Keeps.ite (State.malformedFabric_keeps h) ?_
  split
  · exact State.lateCompletion_keeps h
  · split
    · exact State.dropRequest_keeps h
    · split
      · exact State.chaffAll_keeps (State.settle_keeps h)
      · split
        · split
          · exact State.takePartials_keeps (State.settle_keeps h)
          · exact State.malformedFabric_keeps h
        · exact Keeps.ite (State.malformedFabric_keeps h) (State.rowAnswered_keeps (State.settle_keeps h))

theorem execReadResp_keeps {s₀ s : State} {x0 x1} (h : Keeps false s₀ s) : KeepsOut false s₀ (execReadResp x0 x1 s) :=
  State.onYoke_keeps (fun _ ht => Keeps.ite (State.answerIn_keeps ht) (State.wrongKind_keeps ht)) h

theorem execPoolResp_keeps {s₀ s : State} {x0 x1} (h : Keeps false s₀ s) : KeepsOut false s₀ (execPoolResp x0 x1 s) :=
  State.onYoke_keeps (fun _ ht => Keeps.ite (State.answerIn_keeps ht) (State.wrongKind_keeps ht)) h

theorem State.reissueTo_keeps {s₀ s : State} {x1 x2 x3 x4 x5 x6 x7 x8} (h : Keeps km s₀ s) : Keeps km s₀ (State.reissueTo s x1 x2 x3 x4 x5 x6 x7 x8) := by
  unfold State.reissueTo
  try lift_lets
  repeat' first
    | assumption | with_reducible apply State.putRequest_keeps | with_reducible apply State.pump_keeps

theorem State.withdraw_keeps {s₀ s : State} {x1 x2} (h : Keeps km s₀ s) : Keeps km s₀ (State.withdraw s x1 x2) := by
  unfold State.withdraw
  try lift_lets
  repeat' first
    | (intro x; (have hx : Keeps km s₀ x := by (subst x; repeat' first | assumption | with_reducible apply State.dropRequest_keeps | with_reducible apply State.quarantine_keeps | with_reducible apply Keeps.ite)); clear_value x)
    | (with_reducible refine Keeps.setDp (by assumption) _ ?_ ?_) | with_reducible rfl

theorem State.pathFailed_keeps {s₀ s : State} {x1 x2} (h : Keeps false s₀ s) : Keeps false s₀ (State.pathFailed s x1 x2) := by
  unfold State.pathFailed
  repeat' first
    | assumption | with_reducible apply State.withdraw_keeps | with_reducible apply State.reissueTo_keeps
    | with_reducible apply State.chaffAll_keeps | with_reducible apply State.quarantine_keeps | with_reducible apply Keeps.ite

theorem State.repool_keeps {s₀ s : State} {x1 x2 x3 x4} (h : Keeps km s₀ s) : Keeps km s₀ (State.repool s x1 x2 x3 x4) := by
  unfold State.repool
  try lift_lets
  repeat' first
    | assumption | with_reducible apply State.modPool_keeps | with_reducible apply State.reissueTo_keeps
    | (with_reducible refine Keeps.foldl _ (fun t x ht => ?_) ?_) | split

theorem State.errorIn_keeps {s₀ s : State} {x1 x2} (h : Keeps false s₀ s) : Keeps false s₀ (State.errorIn s x1 x2) := by
  unfold State.errorIn
  refine Keeps.ite (State.malformedFabric_keeps h) ?_
  split
  · exact State.lateCompletion_keeps h
  · split
    · exact State.dropRequest_keeps h
    · extract_lets -lift +onlyGivenNames st
      refine Keeps.ite ?_ (State.chaffAll_keeps h)
      extract_lets -lift +onlyGivenNames node g s1
      have h1 : Keeps false s₀ s1 := Keeps.setFab h _ rfl
      clear_value s1
      refine Keeps.ite (State.chaffAll_keeps h1) ?_
      have h2 (q : Nat) (x : List Read) : Keeps false s₀ { s1.dropRequest q with dp.reads := x } :=
        Keeps.setDp (State.dropRequest_keeps h1) _ rfl rfl
      split
      · exact Keeps.ite (h2 _ _) (State.repool_keeps (h2 _ _))
      · split
        · exact State.reissueTo_keeps (h2 _ _)
        · exact State.chaffAll_keeps h1

theorem execFabricError_keeps {s₀ s : State} {x0 x1} (h : Keeps false s₀ s) : KeepsOut false s₀ (execFabricError x0 x1 s) :=
  State.onYoke_keeps (fun _ ht => Keeps.ite (State.errorIn_keeps ht) (State.wrongKind_keeps ht)) h

theorem execPathFailure_keeps {s₀ s : State} {x0} (h : Keeps false s₀ s) : KeepsOut false s₀ (execPathFailure x0 s) := by
  unfold execPathFailure
  try lift_lets
  repeat' first
    | assumption | with_reducible apply State.pathFailed_keeps | with_reducible apply State.dropRequest_keeps
    | with_reducible apply Keeps.ite | with_reducible apply KeepsOut.next | split

theorem State.serveRow_keeps {s₀ s : State} {x1 x2 x3 x4 x5 x6} (h : Keeps km s₀ s) : Keeps km s₀ (State.serveRow s x1 x2 x3 x4 x5 x6).2 := by
  unfold State.serveRow
  try lift_lets
  repeat' first
    | assumption | with_reducible apply State.walkCharge_keeps | with_reducible apply State.access_keeps
    | with_reducible apply State.reportBad_keeps | with_reducible apply State.countTable_keeps
    | with_reducible apply State.raise_keeps | with_reducible apply Keeps.ite | split

theorem State.serveRows_keeps {s₀ s : State} {x0 x1 x2 x3 x4 x5} (h : Keeps km s₀ s) :
    Keeps km s₀ (State.serveRows x0 x1 x2 x3 x4 x5 s).2 := by
  induction x5 generalizing s with
  | nil => exact h
  | cons a l ih => exact ih (State.serveRow_keeps h)

theorem State.heatServed_keeps {s₀ s : State} {x1 x2 x3 x4 x5} (h : Keeps km s₀ s) : Keeps km s₀ (State.heatServed s x1 x2 x3 x4 x5) := by
  unfold State.heatServed
  try lift_lets
  repeat' first
    | assumption | with_reducible apply State.heatRow_keeps | (with_reducible refine Keeps.foldl _ (fun t x ht => ?_) ?_)

theorem State.ownerAnswer_keeps {s₀ s : State} {x1 x2} (h : Keeps km s₀ s) : Keeps km s₀ (State.ownerAnswer s x1 x2).2 := by
  unfold State.ownerAnswer
  try lift_lets
  repeat' first
    | assumption | with_reducible apply State.raise_keeps | with_reducible apply State.serveRows_keeps
    | with_reducible apply State.heatServed_keeps | with_reducible apply State.charge_keeps
    | with_reducible apply State.count_keeps
    | simp only [List.length_map, List.length_modify, List.length_set, List.length_mapIdx] | split

theorem State.returnOwed_keeps {s₀ s : State} {x1} (h : Keeps km s₀ s) : Keeps km s₀ (State.returnOwed s x1) := by
  unfold State.returnOwed
  try lift_lets
  repeat' first
    | assumption | with_reducible apply State.modLink_keeps | with_reducible apply State.emit_keeps
    | with_reducible apply Keeps.ite | (with_reducible refine Keeps.foldl _ (fun t x ht => ?_) ?_)

theorem State.serveOne_keeps {s₀ s : State} {x1} (h : Keeps false s₀ s) : Keeps false s₀ (State.serveOne s x1) := by
  unfold State.serveOne
  try lift_lets
  repeat' first
    | with_reducible apply State.ownerAnswer_keeps | with_reducible apply State.errorIn_keeps
    | with_reducible apply State.answerIn_keeps | with_reducible apply State.sendFabric_keeps
    | with_reducible apply State.returnOwed_keeps | with_reducible apply Keeps.ite
    | (with_reducible refine Keeps.setFab (by assumption) _ ?_) | with_reducible rfl

theorem State.serveAll_keeps {s₀ s : State} {x0} (h : Keeps false s₀ s) : Keeps false s₀ (State.serveAll x0 s) := by
  induction x0 generalizing s with
  | zero => exact h
  | succ n ih =>
    unfold State.serveAll
    split
    · exact h
    · exact ih (State.serveOne_keeps h)

theorem State.serveIncoming_keeps {s₀ s : State} (h : Keeps false s₀ s) : Keeps false s₀ (State.serveIncoming s) := by
  unfold State.serveIncoming
  try lift_lets
  repeat' first
    | assumption | with_reducible apply State.serveAll_keeps

theorem State.ownerServe_keeps {s₀ s : State} {x1 x2 x3} (h : Keeps false s₀ s) : Keeps false s₀ (State.ownerServe s x1 x2 x3) := by
  unfold State.ownerServe
  try lift_lets
  repeat' first
    | with_reducible apply State.requestCredit_keeps | with_reducible apply State.malformedFabric_keeps
    | with_reducible apply State.serveIncoming_keeps | with_reducible apply Keeps.ite
    | (with_reducible refine Keeps.setFab (by assumption) _ ?_) | with_reducible rfl

theorem execReadReq_keeps {s₀ s : State} {x0 x1} (h : Keeps false s₀ s) : KeepsOut false s₀ (execReadReq x0 x1 s) :=
  State.onYoke_keeps (fun _ ht => Keeps.ite (State.ownerServe_keeps ht) (State.wrongKind_keeps ht)) h

theorem execPoolReq_keeps {s₀ s : State} {x0 x1} (h : Keeps false s₀ s) : KeepsOut false s₀ (execPoolReq x0 x1 s) :=
  State.onYoke_keeps (fun _ ht => Keeps.ite (State.ownerServe_keeps ht) (State.wrongKind_keeps ht)) h

theorem State.fabricIn_keeps {s₀ s : State} {x1 x2 x3} (h : Keeps false s₀ s) : Keeps false s₀ (State.fabricIn s x1 x2 x3) := by
  unfold State.fabricIn
  try lift_lets
  repeat' first
    | assumption | with_reducible apply State.ledgerContrib_keeps | with_reducible apply State.ledgerAck_keeps
    | with_reducible apply State.ownerServe_keeps | with_reducible apply State.answerIn_keeps
    | with_reducible apply State.errorIn_keeps | with_reducible apply State.malformedFabric_keeps | split

theorem State.newSegments_keeps {s₀ s : State} {x1 x2 x3} (h : Keeps false s₀ s) : KeepsOpt2 false s₀ (State.newSegments s x1 x2 x3) := by
  unfold State.newSegments
  try lift_lets
  repeat' first
    | assumption | (intro x; subst x) | with_reducible apply State.allocSegment_keeps
    | (with_reducible refine KeepsOpt2.foldl _ (fun t x ht => ?_) ?_) | with_reducible exact Keeps.of_some2 (by assumption)
    | with_reducible exact KeepsOpt2.none _ | with_reducible apply KeepsOpt2.some
    | with_reducible refine Keeps.of_opt2 ?_ (by assumption) | split

theorem State.install_keeps {s₀ s : State} {x1 x2 x3 x4} (h : Keeps km s₀ s) : Keeps km s₀ (State.install s x1 x2 x3 x4) := by
  unfold State.install
  try lift_lets
  repeat' first | assumption | with_reducible apply State.dropStagedTable_keeps | with_reducible apply State.modTable_keeps

theorem State.freeSegments_keeps {s₀ s : State} {x1 x2} (h : Keeps km s₀ s) : Keeps km s₀ (State.freeSegments s x1 x2) := by
  unfold State.freeSegments
  try lift_lets
  repeat' first | assumption | with_reducible apply State.modBay_keeps

theorem execMapVersionRetire_keeps {s₀ s : State} {x0 x1} (h : Keeps false s₀ s) : KeepsOut false s₀ (execMapVersionRetire x0 x1 s) := by
  unfold execMapVersionRetire
  try lift_lets
  repeat' first
    | assumption | with_reducible apply State.freeEntry_keeps | with_reducible apply State.dropCopies_keeps
    | with_reducible apply State.setEntry_keeps | with_reducible apply State.modTable_keeps
    | with_reducible apply State.modBay_keeps | with_reducible apply Keeps.ite
    | (with_reducible refine Keeps.foldl _ (fun t x ht => ?_) ?_) | with_reducible apply KeepsOut.next
    | with_reducible exact KeepsOut.fault _ _ | with_reducible apply KeepsOut.ite | split

theorem State.renumberMaps_keeps {s₀ s : State} {x1} (h : Keeps km s₀ s) : Keeps km s₀ (State.renumberMaps s x1) := by
  unfold State.renumberMaps
  extract_lets -lift +onlyGivenNames fix changed s1
  have h1 : Keeps km s₀ s1 := Keeps.foldl _ (fun _ _ q => State.dropStagedTable_keeps q) h
  clear_value s1
  exact Keeps.setBays h1 _ (List.length_map ..)

theorem State.runSpanned_keeps {s₀ s : State} {x1 x2} (h : Keeps false s₀ s) : Keeps false s₀ (State.runSpanned s x1 x2).2 := by
  have key : ∀ x ∈ spannedOps, ∀ c, Keeps false s₀ (x.2 c s).2 := by
    intro x hx c
    simp only [spannedOps, List.mem_cons, List.not_mem_nil, or_false] at hx
    rcases hx with rfl | rfl | rfl | rfl | rfl | rfl | rfl | rfl
    · exact doQuantSetPolicy_keeps h
    · exact doQuantSetScales_keeps h
    · exact doQuantSetCodebook_keeps h
    · exact doQuantSetSplit_keeps h
    · exact doPoolSet_keeps h
    · exact doOptSet_keeps h
    · exact doDefaultRowSet_keeps h
    · exact doTableDestroy_keeps h
  unfold State.runSpanned
  split
  · next e => exact key _ (List.mem_of_find?_eq_some e) _
  · exact h

theorem State.setupOne_keeps {s₀ s : State} {x1 x2} (h : Keeps false s₀ s) : KeepsOpt false s₀ (State.setupOne s x1 x2) := by
  unfold State.setupOne
  try lift_lets
  repeat' first
    | assumption | (intro x; subst x) | with_reducible apply State.runSpanned_keeps
    | with_reducible apply State.createTable_keeps | with_reducible apply State.setRow_keeps
    | with_reducible exact KeepsOpt.none _ | with_reducible apply KeepsOpt.some | with_reducible apply KeepsOpt.ite
    | with_reducible refine Keeps.of_snd ?_ (by assumption) | split

theorem State.setupAll_keeps {s₀ s : State} {x0 x1} (h : Keeps false s₀ s) : KeepsOpt false s₀ (State.setupAll x0 x1 s) := by
  induction x1 generalizing s with
  | nil => exact KeepsOpt.some h
  | cons a l ih =>
    unfold State.setupAll
    split
    · next e => exact ih (Keeps.of_opt (State.setupOne_keeps h) e)
    · exact KeepsOpt.none _

theorem State.putPrepared_keeps {s₀ s : State} {x1} (h : Keeps km s₀ s) : Keeps km s₀ (State.putPrepared s x1) := by
  unfold State.putPrepared
  try lift_lets
  repeat' first | (intro x; subst x) | (with_reducible refine Keeps.setFab (by assumption) _ ?_) | with_reducible rfl

theorem State.unprepare_keeps {s₀ s : State} {x1 x2} (h : Keeps km s₀ s) : Keeps km s₀ (State.unprepare s x1 x2) := by
  unfold State.unprepare
  try lift_lets
  repeat' first
    | with_reducible apply State.freeSegments_keeps | with_reducible apply State.forgetEntries_keeps
    | with_reducible apply State.modBay_keeps | with_reducible apply Keeps.ite
    | (with_reducible refine Keeps.setFab (by assumption) _ ?_) | with_reducible rfl | split

theorem State.spanHere_keeps {s₀ s : State} {x1 x2 x3} (h : Keeps false s₀ s) : Keeps false s₀ (State.spanHere s x1 x2 x3).2 := by
  unfold State.spanHere
  try lift_lets
  repeat' first
    | assumption | (intro x; subst x) | with_reducible apply State.putPrepared_keeps
    | with_reducible apply State.setupAll_keeps | with_reducible apply Keeps.ite_snd
    | with_reducible refine Keeps.of_opt ?_ (by assumption) | split

theorem State.prepareRebuild_keeps {s₀ s : State} {x1 x2 x3 x4} (h : Keeps km s₀ s) : Keeps km s₀ (State.prepareRebuild s x1 x2 x3 x4).2 := by
  unfold State.prepareRebuild
  try lift_lets
  repeat' first | assumption | (intro x; subst x) | with_reducible apply State.beginRebuild_keeps | split

theorem State.prepareHere_keeps {s₀ s : State} {x1 x2 x3} (h : Keeps false s₀ s) : Keeps false s₀ (State.prepareHere s x1 x2 x3).2 := by
  unfold State.prepareHere
  try lift_lets
  repeat' first
    | assumption | (intro x; subst x) | with_reducible apply State.prepareRebuild_keeps
    | with_reducible apply State.putPrepared_keeps | with_reducible apply State.newSegments_keeps
    | with_reducible apply Keeps.ite_snd | with_reducible refine Keeps.of_opt2 ?_ (by assumption) | split

theorem State.dropPrepared_keeps {s₀ s : State} {x1 x2} (h : Keeps km s₀ s) : Keeps km s₀ (State.dropPrepared s x1 x2) := by
  unfold State.dropPrepared
  try lift_lets
  repeat' first
    | assumption
    | (with_reducible refine Keeps.setFab (by assumption) _ ?_)
    | with_reducible rfl
    | simp only [List.length_map, List.length_modify, List.length_set, List.length_mapIdx]
    | dsimp only

theorem State.commitHere_keeps {s₀ s : State} {x1 x2 x3} (h : Keeps false s₀ s) : KeepsOpt false s₀ (State.commitHere s x1 x2 x3) := by
  unfold State.commitHere
  try lift_lets
  repeat' first
    | assumption
    | (intro x; (have hx : Keeps false s₀ x := by (subst x; repeat' first | assumption | (intro y; subst y) | with_reducible apply State.dropPrepared_keeps | with_reducible apply State.install_keeps | with_reducible apply State.runSpanned_keeps | with_reducible apply Keeps.ite | with_reducible exact KeepsOpt.none _ | with_reducible apply KeepsOpt.some | with_reducible apply KeepsOpt.ite | with_reducible refine Keeps.of_snd ?_ (by assumption) | split | dsimp only)); clear_value x)
    | (intro x; (have hx : Keeps false s₀ x.2 := by (subst x; repeat' first | assumption | (intro y; subst y) | with_reducible apply State.dropPrepared_keeps | with_reducible apply State.install_keeps | with_reducible apply State.runSpanned_keeps | with_reducible apply Keeps.ite | with_reducible exact KeepsOpt.none _ | with_reducible apply KeepsOpt.some | with_reducible apply KeepsOpt.ite | with_reducible refine Keeps.of_snd ?_ (by assumption) | split | dsimp only)); clear_value x)
    | (intro x; subst x)
    | with_reducible apply State.dropPrepared_keeps
    | with_reducible apply State.install_keeps
    | with_reducible apply State.runSpanned_keeps
    | with_reducible apply Keeps.ite
    | with_reducible exact KeepsOpt.none _
    | with_reducible apply KeepsOpt.some
    | with_reducible apply KeepsOpt.ite
    | with_reducible refine Keeps.of_snd ?_ (by assumption)
    | split
    | dsimp only

theorem State.commitLater_keeps {s₀ s : State} {x1 x2 x3} (h : Keeps km s₀ s) : Keeps km s₀ (State.commitLater s x1 x2 x3) := by
  unfold State.commitLater
  try lift_lets
  repeat' first
    | assumption
    | with_reducible apply State.putPrepared_keeps

theorem State.modSpan_keeps {s₀ s : State} {x1 x2} (h : Keeps km s₀ s) : Keeps km s₀ (State.modSpan s x1 x2) := by
  unfold State.modSpan
  try lift_lets
  repeat' first | (intro x; subst x) | (with_reducible refine Keeps.setFab (by assumption) _ ?_) | with_reducible rfl

theorem State.dropSpan_keeps {s₀ s : State} {x1} (h : Keeps km s₀ s) : Keeps km s₀ (State.dropSpan s x1) := by
  unfold State.dropSpan
  try lift_lets
  repeat' first | (intro x; subst x) | (with_reducible refine Keeps.setFab (by assumption) _ ?_) | with_reducible rfl

theorem State.failSpan_keeps {s₀ s : State} {x1 x2} (h : Keeps km s₀ s) : Keeps km s₀ (State.failSpan s x1 x2) := by
  unfold State.failSpan
  try lift_lets
  repeat' first
    | assumption
    | (intro x; (have hx : Keeps km s₀ x := by (subst x; repeat' first | assumption | with_reducible apply State.dropSpan_keeps | with_reducible apply State.emits_keeps)); clear_value x)
    | with_reducible apply State.unprepare_keeps | with_reducible apply State.endJob_keeps
    | with_reducible apply State.answer_keeps | with_reducible apply State.putTable_keeps | split

theorem State.spanNext_keeps {s₀ s : State} {x1} (h : Keeps false s₀ s) : Keeps false s₀ (State.spanNext s x1) := by
  unfold State.spanNext
  split
  · exact State.emits_keeps (State.modSpan_keeps h)
  · refine Keeps.ite (State.dropSpan_keeps h) ?_
    refine State.emits_keeps (State.modSpan_keeps ?_)
    split
    · next e => exact Keeps.of_opt (State.commitHere_keeps h) e
    · exact State.commitLater_keeps h
  · exact State.answer_keeps (State.dropSpan_keeps h)

theorem State.spanReply_keeps {s₀ s : State} {x1 x2 x3} (h : Keeps false s₀ s) : Keeps false s₀ (State.spanReply s x1 x2 x3) := by
  unfold State.spanReply
  try lift_lets
  repeat' first
    | assumption | with_reducible apply State.spanNext_keeps | with_reducible apply State.failSpan_keeps
    | with_reducible apply State.modSpan_keeps | with_reducible apply Keeps.ite | split

theorem State.committed_keeps {s₀ s : State} {x1 x2} (h : Keeps false s₀ s) : Keeps false s₀ (State.committed s x1 x2) := by
  unfold State.committed
  try lift_lets
  repeat' first
    | assumption
    | with_reducible apply State.spanReply_keeps
    | with_reducible apply State.emit_keeps
    | with_reducible apply Keeps.ite
    | split

theorem State.commitIn_keeps {s₀ s : State} {x1 x2 x3} (h : Keeps false s₀ s) : Keeps false s₀ (State.commitIn s x1 x2 x3) := by
  unfold State.commitIn
  try lift_lets
  repeat' first
    | assumption
    | with_reducible apply State.commitHere_keeps
    | with_reducible apply State.committed_keeps
    | with_reducible apply State.commitLater_keeps
    | with_reducible refine Keeps.of_opt ?_ (by assumption)
    | with_reducible apply Keeps.getD
    | split
    | dsimp only

theorem State.runCommits_keeps {s₀ s : State} (h : Keeps false s₀ s) : Keeps false s₀ (State.runCommits s) := by
  unfold State.runCommits
  try lift_lets
  repeat' first
    | assumption
    | with_reducible apply State.commitIn_keeps
    | (with_reducible refine Keeps.foldl _ (fun t x ht => ?_) ?_)
    | (with_reducible refine Keeps.foldl_snd _ (fun t x ht => ?_) ?_)
    | dsimp only

theorem State.spanTimeouts_keeps {s₀ s : State} (h : Keeps km s₀ s) : Keeps km s₀ (State.spanTimeouts s) := by
  unfold State.spanTimeouts
  repeat' first
    | assumption | with_reducible apply State.failSpan_keeps | (with_reducible refine Keeps.foldl _ (fun t x ht => ?_) ?_)

theorem State.rangesIn_keeps {s₀ s : State} {x1 x2 x3} (h : Keeps km s₀ s) : Keeps km s₀ (State.rangesIn s x1 x2 x3) := by
  unfold State.rangesIn
  try lift_lets
  repeat' first | assumption | (intro x; subst x) | with_reducible apply State.putTable_keeps | split

theorem State.settingsIn_keeps {s₀ s : State} {x1 x2 x3} (h : Keeps false s₀ s) : Keeps false s₀ (State.settingsIn s x1 x2 x3) := by
  unfold State.settingsIn
  try lift_lets
  repeat' first | assumption | with_reducible apply State.finishRebuild_keeps | split

theorem State.endLed_keeps {s₀ s : State} {x1 x2} (h : Keeps km s₀ s) : Keeps km s₀ (State.endLed s x1 x2) := by
  unfold State.endLed
  try lift_lets
  repeat' first
    | (intro x; subst x) | (with_reducible refine Keeps.setBays (by assumption) _ ?_)
    | simp only [List.length_map, List.length_modify, List.length_set]

theorem execSpanMessage_keeps {s₀ s : State} {x0 x1 x2 x3 x4} (h : Keeps false s₀ s) : KeepsOut false s₀ (execSpanMessage x0 x1 x2 x3 x4 s) := by
  unfold execSpanMessage
  refine KeepsOut.next (Keeps.ite h ?_)
  extract_lets -lift +onlyGivenNames m reply
  split
  · exact State.emit_keeps (State.spanHere_keeps h)
  · exact State.emit_keeps (State.prepareHere_keeps h)
  · exact State.rangesIn_keeps h
  · exact State.settingsIn_keeps h
  · exact State.commitIn_keeps h
  · exact State.spanReply_keeps h
  · exact State.endLed_keeps (State.unprepare_keeps h)
  · exact h

theorem State.overlaps_keeps {s₀ s : State} {x1 x2 x3} (h : Keeps km s₀ s) : Keeps km s₀ (State.overlaps s x1 x2 x3) := by
  unfold State.overlaps
  repeat' first
    | assumption | with_reducible apply State.raise_keeps | (with_reducible refine Keeps.foldl _ (fun t x ht => ?_) ?_)

theorem doShardMapLoad_keeps {s₀ s : State} {x0} (h : Keeps false s₀ s) : Keeps false s₀ (doShardMapLoad x0 s).2 := by
  unfold doShardMapLoad
  extract_lets -lift +onlyGivenNames b
  refine Ctx.fields_keeps h ?_
  extract_lets -lift +onlyGivenNames tid
  refine inOrder_keeps h ?_
  split
  next e =>
  have h1 := Keeps.of_snd (takeSource_keeps h) e
  extract_lets -lift +onlyGivenNames det
  split
  · exact h1
  · split
    · exact h1
    · refine Keeps.ite_snd h1 ?_
      extract_lets -lift +onlyGivenNames raw own m
      split
      · exact h1
      · next e2 =>
        extract_lets -lift +onlyGivenNames s2 nodes old body
        have h2 : Keeps false s₀ s2 := State.overlaps_keeps (Keeps.of_opt2 (State.newSegments_keeps h1) e2)
        clear_value s2
        refine Keeps.ite_snd (State.install_keeps h2) ?_
        extract_lets -lift +onlyGivenNames tag msg s3 q x g1 g2 s4
        have h3 : Keeps false s₀ s3 := State.putPrepared_keeps h2
        clear_value s3
        have h4 : Keeps false s₀ s4 := Keeps.set h3 rfl rfl rfl rfl rfl rfl rfl rfl rfl rfl
        clear_value s4
        exact Keeps.ite_snd (Keeps.pair (State.spanNext_keeps h4)) (Keeps.pair (State.emits_keeps h4))

theorem execShardMapLoad_keeps {s₀ s : State} {x0} (h : Keeps false s₀ s) : KeepsOut false s₀ (execShardMapLoad x0 s) := by
  exact runCommand_keeps (fun _ _ ht => paced_keeps (fun _ _ => doShardMapLoad_keeps) ht) h

theorem doShardMapGet_keeps {s₀ s : State} {x0} (h : Keeps km s₀ s) : Keeps km s₀ (doShardMapGet x0 s).2 := by
  unfold doShardMapGet
  try lift_lets
  repeat' first
    | assumption | with_reducible apply onTable_keeps | with_reducible apply placeDest_keeps
    | with_reducible apply okWith_keeps | split | dsimp only | (guard_target =~ ∀ _, _; intro _)

theorem execShardMapGet_keeps {s₀ s : State} {x0} (h : Keeps km s₀ s) : KeepsOut km s₀ (execShardMapGet x0 s) := by
  exact runCommand_keeps (fun _ _ ht => doShardMapGet_keeps ht) h

end Sys2Proof.Machine
end

