-- ==== Sys2Proof/Laws/KeepsNet.lean ====
section
/-! SUPPORT. What each operation keeps: muster. -/

set_option maxRecDepth 4000
set_option Elab.async false
set_option linter.unusedSimpArgs false

namespace Sys2Proof.Machine

variable {km : Bool}

theorem State.modMuster_keeps {s₀ s : State} {x1} (h : Keeps km s₀ s) : Keeps km s₀ (State.modMuster s x1) := by
  unfold State.modMuster
  try lift_lets
  repeat' first | (intro x; subst x) | (with_reducible refine Keeps.setNet (by assumption) _ ?_) | with_reducible rfl

theorem State.sendMusterPart_keeps {s₀ s : State} {x1 x2 x3 x4 x5} (h : Keeps km s₀ s) : Keeps km s₀ (State.sendMusterPart s x1 x2 x3 x4 x5) := by
  unfold State.sendMusterPart
  extract_lets -lift +onlyGivenNames m c msg data s1
  have h1 : Keeps km s₀ s1 := by
    unfold s1
    split
    · exact Keeps.ite h (Keeps.foldl _ (fun _ _ q => State.sendUdp_keeps q) h)
    · exact h
  clear_value s1
  exact Keeps.foldl _ (fun _ _ q => State.linkSend_keeps q) h1

theorem State.sendMuster_keeps {s₀ s : State} {x1 x2 x3 x4} (h : Keeps km s₀ s) : Keeps km s₀ (State.sendMuster s x1 x2 x3 x4) := by
  unfold State.sendMuster
  try lift_lets
  repeat' first
    | assumption | with_reducible apply State.sendMusterPart_keeps

theorem State.sendRoster_keeps {s₀ s : State} (h : Keeps km s₀ s) : Keeps km s₀ (State.sendRoster s) :=
  State.modMuster_keeps (Keeps.foldl _ (fun _ _ ht => State.sendMusterPart_keeps ht) h)

theorem State.setCoordinator_keeps {s₀ s : State} {x1} (h : Keeps km s₀ s) : Keeps km s₀ (State.setCoordinator s x1) := by
  unfold State.setCoordinator
  try lift_lets
  repeat' first
    | assumption | with_reducible apply State.modMuster_keeps | with_reducible apply State.raise_keeps
    | with_reducible apply Keeps.ite

theorem State.restartChannels_keeps {s₀ s : State} {x1} (h : Keeps km s₀ s) : Keeps km s₀ (State.restartChannels s x1) := by
  unfold State.restartChannels
  try lift_lets
  repeat' first | (intro x; subst x) | (with_reducible refine Keeps.setFab (by assumption) _ ?_) | with_reducible rfl

theorem State.renumberChannels_keeps {s₀ s : State} {x1} (h : Keeps km s₀ s) : Keeps km s₀ (State.renumberChannels s x1) := by
  unfold State.renumberChannels
  try lift_lets
  repeat' first
    | assumption
    | (intro x; (have hx : Keeps km s₀ x := by (subst x; repeat' first | assumption | (intro y; subst y) | (with_reducible refine Keeps.setFab (by assumption) _ ?_) | with_reducible rfl | simp only [List.length_map, List.length_modify, List.length_set, List.length_mapIdx] | dsimp only)); clear_value x)
    | (intro x; subst x)
    | (with_reducible refine Keeps.setFab (by assumption) _ ?_)
    | with_reducible rfl
    | simp only [List.length_map, List.length_modify, List.length_set, List.length_mapIdx]
    | dsimp only

theorem State.adoptRoster_keeps {s₀ s : State} {x1} (h : Keeps km s₀ s) : Keeps km s₀ (State.adoptRoster s x1) := by
  unfold State.adoptRoster
  have h1 : Keeps km s₀ { s with net.muster.roster := x1, flash.roster := x1 } := Keeps.set h rfl rfl rfl rfl rfl rfl rfl rfl rfl rfl
  revert h1
  generalize ({ s with net.muster.roster := x1, flash.roster := x1 } : State) = s1
  intro h1
  exact Keeps.foldl _ (fun _ _ q => State.restartChannels_keeps q)
    (Keeps.ite h1 (State.renumberMaps_keeps (State.renumberChannels_keeps h1)))

theorem State.enrol_keeps {s₀ s : State} {x1 x2 x3} (h : Keeps km s₀ s) : Keeps km s₀ (State.enrol s x1 x2 x3).2 := by
  unfold State.enrol
  try lift_lets
  repeat' first
    | assumption
    | (intro x; (have hx : Keeps km s₀ x := by (subst x; repeat' first | assumption | with_reducible apply State.adoptRoster_keeps)); clear_value x)
    | (intro x; subst x) | with_reducible apply State.adoptRoster_keeps | with_reducible apply State.raise_keeps
    | with_reducible apply Keeps.ite | split

theorem State.admitNode_keeps {s₀ s : State} {x1 x2 x3} (h : Keeps km s₀ s) : Keeps km s₀ (State.admitNode s x1 x2 x3) :=
  State.sendRoster_keeps (State.modMuster_keeps (State.sendMuster_keeps (State.restartChannels_keeps (State.enrol_keeps h))))

theorem State.startAnnounce_keeps {s₀ s : State} {x1} (h : Keeps km s₀ s) : Keeps km s₀ (State.startAnnounce s x1) := by
  unfold State.startAnnounce
  try lift_lets
  repeat' first | assumption | (intro x; subst x) | with_reducible apply State.modMuster_keeps

theorem execAnnounce_keeps {s₀ s : State} (h : Keeps km s₀ s) : KeepsOut km s₀ (execAnnounce s) := by
  unfold execAnnounce
  try lift_lets
  repeat' first
    | assumption | (intro x; subst x) | with_reducible apply State.sendMuster_keeps
    | with_reducible apply State.modMuster_keeps | with_reducible apply Keeps.ite | with_reducible apply KeepsOut.next

theorem State.becomeCoordinator_keeps {s₀ s : State} (h : Keeps km s₀ s) : Keeps km s₀ (State.becomeCoordinator s) := by
  unfold State.becomeCoordinator
  refine State.sendRoster_keeps (State.modMuster_keeps (Keeps.foldl _ (fun t x ht => ?_) ?_))
  · exact State.sendMuster_keeps (State.enrol_keeps ht)
  · exact State.modMuster_keeps (State.enrol_keeps (State.setCoordinator_keeps h))

theorem execDecide_keeps {s₀ s : State} (h : Keeps km s₀ s) : KeepsOut km s₀ (execDecide s) := by
  unfold execDecide
  refine KeepsOut.next (Keeps.ite h ?_)
  have hw : ∀ id, Keeps km s₀ ((s.setCoordinator id).modMuster fun m => { m with phase := .admitting, phaseSince := s.dev.now }) :=
    fun _ => State.modMuster_keeps (State.setCoordinator_keeps h)
  split
  · exact State.sendMuster_keeps (hw _)
  · exact Keeps.ite (State.becomeCoordinator_keeps h) (hw _)

theorem execAdmitTimeout_keeps {s₀ s : State} (h : Keeps km s₀ s) : KeepsOut km s₀ (execAdmitTimeout s) := by
  unfold execAdmitTimeout
  repeat' first
    | assumption | with_reducible apply State.startAnnounce_keeps | with_reducible apply Keeps.ite
    | with_reducible apply KeepsOut.next

theorem execRosterPeriod_keeps {s₀ s : State} (h : Keeps km s₀ s) : KeepsOut km s₀ (execRosterPeriod s) :=
  KeepsOut.next (Keeps.ite (State.sendRoster_keeps h) h)

theorem execMusterNodeLost_keeps {s₀ s : State} {x0} (h : Keeps km s₀ s) : KeepsOut km s₀ (execMusterNodeLost x0 s) := by
  unfold execMusterNodeLost
  try lift_lets
  repeat' first
    | assumption
    | (intro x; (have hx : Keeps km s₀ x := by (subst x; repeat' first | assumption | with_reducible apply State.adoptRoster_keeps)); clear_value x)
    | with_reducible apply State.modMuster_keeps | with_reducible apply State.raise_keeps | with_reducible apply Keeps.ite
    | with_reducible apply KeepsOut.next | split

theorem execRosterSilence_keeps {s₀ s : State} (h : Keeps km s₀ s) : KeepsOut km s₀ (execRosterSilence s) := by
  unfold execRosterSilence
  repeat' first
    | assumption | with_reducible apply State.startAnnounce_keeps | with_reducible apply Keeps.ite
    | with_reducible apply KeepsOut.next

theorem State.dropMuster_keeps {s₀ s : State} (h : Keeps km s₀ s) : Keeps km s₀ (State.dropMuster s) := by
  unfold State.dropMuster
  try lift_lets
  repeat' first | assumption | with_reducible apply State.modMuster_keeps

theorem State.musterCredit_keeps {s₀ s : State} {x1 x2} (h : Keeps km s₀ s) : Keeps km s₀ (State.musterCredit s x1 x2) := by
  unfold State.musterCredit
  try lift_lets
  repeat' first
    | assumption
    | with_reducible apply State.emit_keeps
    | with_reducible apply Keeps.ite
    | split

theorem execMusterDupId_keeps {s₀ s : State} {x0 x1} (h : Keeps km s₀ s) : KeepsOut km s₀ (execMusterDupId x0 x1 s) := by
  unfold execMusterDupId
  try lift_lets
  repeat' first
    | assumption | with_reducible apply State.musterCredit_keeps | with_reducible apply State.dropMuster_keeps
    | with_reducible apply State.modMuster_keeps | with_reducible apply State.raise_keeps
    | with_reducible apply State.fresh_keeps | with_reducible apply State.startAnnounce_keeps
    | with_reducible apply Keeps.ite | with_reducible apply KeepsOut.next

theorem execDupIdBackoff_keeps {s₀ s : State} (h : Keeps km s₀ s) : KeepsOut km s₀ (execDupIdBackoff s) := by
  unfold execDupIdBackoff
  try lift_lets
  repeat' first
    | assumption | with_reducible apply State.modMuster_keeps | with_reducible apply Keeps.ite
    | with_reducible apply KeepsOut.next

theorem State.mergeRoster_keeps {s₀ s : State} {x1} (h : Keeps km s₀ s) : Keeps km s₀ (State.mergeRoster s x1) := by
  unfold State.mergeRoster
  try lift_lets
  repeat' first
    | assumption
    | (intro x; (have hx : Keeps km s₀ x := by (subst x; repeat' first | assumption | (intro y; subst y) | with_reducible apply State.adoptRoster_keeps | with_reducible apply State.modMuster_keeps | (with_reducible refine Keeps.setDev (by assumption) _) | with_reducible rfl | simp only [List.length_map, List.length_modify, List.length_set, List.length_mapIdx] | dsimp only)); clear_value x)
    | (intro x; subst x)
    | with_reducible apply State.adoptRoster_keeps
    | with_reducible apply State.modMuster_keeps
    | (with_reducible refine Keeps.setDev (by assumption) _)
    | with_reducible rfl
    | simp only [List.length_map, List.length_modify, List.length_set, List.length_mapIdx]
    | dsimp only

theorem State.rosterHeard_keeps {s₀ s : State} {x1} (h : Keeps km s₀ s) : Keeps km s₀ (State.rosterHeard s x1) := by
  unfold State.rosterHeard
  try lift_lets
  repeat' first
    | assumption | (intro x; subst x) | with_reducible apply State.mergeRoster_keeps
    | with_reducible apply State.setCoordinator_keeps | with_reducible apply State.modMuster_keeps
    | with_reducible apply State.startAnnounce_keeps | with_reducible apply State.sendMuster_keeps | split

theorem execMusterMessage_keeps {s₀ s : State} {x0 x1} (h : Keeps km s₀ s) : KeepsOut km s₀ (execMusterMessage x0 x1 s) := by
  unfold execMusterMessage
  have h0 : Keeps km s₀ (s.musterCredit x0 x1) := State.musterCredit_keeps h
  generalize s.musterCredit x0 x1 = t at h0 ⊢
  refine KeepsOut.next (Keeps.ite h0 (Keeps.ite (State.dropMuster_keeps h0) (Keeps.ite h0 ?_)))
  extract_lets s1 addr
  have h1 : Keeps km s₀ s1 := State.modMuster_keeps h0
  split
  · exact Keeps.ite (State.admitNode_keeps h1) h1
  · exact Keeps.ite (State.modMuster_keeps (Keeps.foldl _ (fun _ _ q => State.restartChannels_keeps q) h1)) h1
  · exact Keeps.ite (State.admitNode_keeps h1) h1
  · exact State.rosterHeard_keeps h1
  · exact State.dropMuster_keeps h1

theorem doMusterConfig_keeps {s₀ s : State} {x0} (h : Keeps km s₀ s) : Keeps km s₀ (doMusterConfig x0 s).2 := by
  unfold doMusterConfig
  try lift_lets
  repeat' first
    | assumption
    | (intro x; (have hx : Keeps km s₀ x := by (subst x; repeat' (refine Keeps.set (t := ?tt) ?hh ?_ ?_ ?_ ?_ ?_ ?_ ?_ ?_ ?_ ?_; (case hh => exact (by assumption)); all_goals first | with_reducible rfl | (intro hm; with_reducible assumption)))); clear_value x)
    | (intro x; subst x) | with_reducible apply State.startAnnounce_keeps | with_reducible apply State.modMuster_keeps
    | with_reducible apply Ctx.fields_keeps | with_reducible apply okWith_keeps | with_reducible apply Keeps.ite

theorem execMusterConfig_keeps {s₀ s : State} {x0} (h : Keeps km s₀ s) : KeepsOut km s₀ (execMusterConfig x0 s) := by
  exact runCommand_keeps (fun _ _ ht => doMusterConfig_keeps ht) h

theorem doMusterQuery_keeps {s₀ s : State} {x0} (h : Keeps km s₀ s) : Keeps km s₀ (doMusterQuery x0 s).2 := by
  unfold doMusterQuery
  try lift_lets
  repeat' first | assumption | (intro x; subst x) | with_reducible apply Ctx.fields_keeps

theorem execMusterQuery_keeps {s₀ s : State} {x0} (h : Keeps km s₀ s) : KeepsOut km s₀ (execMusterQuery x0 s) := by
  exact runCommand_keeps (fun _ _ ht => doMusterQuery_keeps ht) h

end Sys2Proof.Machine
end

