-- ==== Sys2Proof/Laws/KeepsTether.lean ====
section
/-! SUPPORT. What each operation keeps: the tether. -/

set_option maxRecDepth 4000
set_option Elab.async false
set_option linter.unusedSimpArgs false

namespace Sys2Proof.Machine

variable {km : Bool}

theorem execBar2Write_keeps {s₀ s : State} {x0 x1 x2} (h : Keeps false s₀ s) : KeepsOut false s₀ (execBar2Write x0 x1 x2 s) := by
  unfold execBar2Write
  repeat' first
    | assumption | with_reducible apply State.placeRing_keeps | with_reducible apply State.tthCount_keeps
    | with_reducible apply State.tthEvent_keeps | with_reducible apply Keeps.ite | with_reducible apply KeepsOut.next
    | with_reducible exact KeepsOut.fault _ _ | with_reducible apply KeepsOut.ite

theorem execTthDoorbell_keeps {s₀ s : State} {x0 x1} (h : Keeps km s₀ s) : KeepsOut km s₀ (execTthDoorbell x0 x1 s) := by
  unfold execTthDoorbell
  repeat' first
    | assumption | with_reducible apply State.ring_keeps | with_reducible apply State.countFull_keeps
    | with_reducible apply State.badDoorbell_keeps | with_reducible apply State.tthCount_keeps
    | with_reducible apply State.tthEvent_keeps | with_reducible apply Keeps.ite | with_reducible apply KeepsOut.next
    | with_reducible exact KeepsOut.fault _ _ | with_reducible apply KeepsOut.ite

theorem execTthCounterRead_keeps {s₀ s : State} {x0} (h : Keeps km s₀ s) : KeepsOut km s₀ (execTthCounterRead x0 s) := by
  unfold execTthCounterRead
  try lift_lets
  repeat' first
    | assumption
    | (intro x; (have hx : Keeps km s₀ x := by (subst x; repeat' first | assumption | with_reducible apply Keeps.ite | (with_reducible refine Keeps.setTth (by assumption) _))); clear_value x)
    | (intro x; subst x) | with_reducible apply State.emit_keeps | with_reducible apply Keeps.ite
    | with_reducible apply KeepsOut.next

theorem execTthBadAccess_keeps {s₀ s : State} {x0 x1} (h : Keeps km s₀ s) : KeepsOut km s₀ (execTthBadAccess x0 x1 s) := by
  unfold execTthBadAccess
  try lift_lets
  repeat' first
    | assumption
    | (intro x; (have hx : Keeps km s₀ x := by (subst x; repeat' first | assumption | with_reducible apply State.tthCount_keeps)); clear_value x)
    | with_reducible apply State.emit_keeps | with_reducible apply Keeps.ite | with_reducible apply KeepsOut.next

theorem execBar2Read_keeps {s₀ s : State} {x0 x1} (h : Keeps km s₀ s) : KeepsOut km s₀ (execBar2Read x0 x1 s) := by
  unfold execBar2Read
  repeat' first
    | assumption | with_reducible apply State.tthCount_keeps | with_reducible apply State.emit_keeps
    | with_reducible apply Keeps.ite | with_reducible apply KeepsOut.next

theorem execTthEvent_keeps {s₀ s : State} {x0} (h : Keeps km s₀ s) : KeepsOut km s₀ (execTthEvent x0 s) := by
  unfold execTthEvent
  try lift_lets
  repeat' first
    | assumption | (intro x; subst x) | with_reducible apply Keeps.ite | with_reducible apply KeepsOut.next
    | (with_reducible refine Keeps.setTth (by assumption) _)

theorem State.tthWrite_keeps {s₀ s : State} {x1 x2} (h : Keeps false s₀ s) : Keeps false s₀ (State.tthWrite s x1 x2) := by
  unfold State.tthWrite
  extract_lets -lift +onlyGivenNames v
  refine Keeps.ite (State.write_keeps h) ?_
  extract_lets -lift +onlyGivenNames isVec size
  refine Keeps.ite (State.tthCount_keeps h) (Keeps.ite (Keeps.setTth h _) (Keeps.ite (State.putVec_keeps h) (Keeps.ite ?_ h)))
  extract_lets -lift +onlyGivenNames m
  exact Keeps.ite (State.modBox_keeps h) (Keeps.ite (State.modBox_keeps h) h)

theorem execVectorModerationTimer_keeps {s₀ s : State} {x0} (h : Keeps km s₀ s) : KeepsOut km s₀ (execVectorModerationTimer x0 s) := by
  unfold execVectorModerationTimer
  try lift_lets
  repeat' first
    | assumption | (intro x; subst x) | with_reducible apply State.signalVec_keeps | with_reducible apply Keeps.ite
    | with_reducible apply KeepsOut.next | with_reducible exact KeepsOut.fault _ _ | with_reducible apply KeepsOut.ite

theorem execTthMboxSubmit_keeps {s₀ s : State} {x0 x1} (h : Keeps km s₀ s) : KeepsOut km s₀ (execTthMboxSubmit x0 x1 s) := by
  unfold execTthMboxSubmit
  try lift_lets
  repeat' first
    | assumption | (intro x; subst x) | with_reducible apply State.tthCount_keeps | with_reducible apply State.tthEvent_keeps
    | with_reducible apply State.modBox_keeps | with_reducible apply Keeps.ite | with_reducible apply KeepsOut.next
    | with_reducible exact KeepsOut.fault _ _ | with_reducible apply KeepsOut.ite | split

theorem execTthMboxStatus_keeps {s₀ s : State} {x0 x1} (h : Keeps km s₀ s) : KeepsOut km s₀ (execTthMboxStatus x0 x1 s) := by
  unfold execTthMboxStatus
  try lift_lets
  repeat' first
    | assumption | with_reducible apply State.modBox_keeps | with_reducible apply Keeps.ite
    | with_reducible apply KeepsOut.next | with_reducible exact KeepsOut.fault _ _ | with_reducible apply KeepsOut.ite | split

theorem execMailboxResponse_keeps {s₀ s : State} {x0 x1} (h : Keeps km s₀ s) : KeepsOut km s₀ (execMailboxResponse x0 x1 s) := by
  unfold execMailboxResponse
  try lift_lets
  repeat' first
    | assumption | with_reducible apply State.modBox_keeps | with_reducible apply State.count_keeps
    | with_reducible apply State.emit_keeps | with_reducible apply Keeps.ite | with_reducible apply KeepsOut.next
    | with_reducible exact KeepsOut.fault _ _ | with_reducible apply KeepsOut.ite | split

theorem execHostSnoop_keeps {s₀ s : State} {x0} (h : Keeps km s₀ s) : KeepsOut km s₀ (execHostSnoop x0 s) := by
  unfold execHostSnoop
  repeat' first
    | assumption | with_reducible apply State.emit_keeps | with_reducible apply Keeps.ite | with_reducible apply KeepsOut.next

theorem State.hostReadFailed_keeps {s₀ s : State} {x1} (h : Keeps false s₀ s) : Keeps false s₀ (State.hostReadFailed s x1) := by
  unfold State.hostReadFailed
  repeat' first
    | assumption | with_reducible apply State.quarantine_keeps | with_reducible apply State.chaffRead_keeps
    | with_reducible apply State.tthEvent_keeps

theorem execHostReadCompletion_keeps {s₀ s : State} {x0 x1 x2} (h : Keeps false s₀ s) : KeepsOut false s₀ (execHostReadCompletion x0 x1 x2 s) := by
  unfold execHostReadCompletion
  try lift_lets
  repeat' first
    | assumption | with_reducible apply State.hostReadFailed_keeps | with_reducible apply State.deliver'_keeps
    | with_reducible apply State.count_keeps | with_reducible apply Keeps.ite | with_reducible apply KeepsOut.next | split

theorem execEndToEndTimeout_keeps {s₀ s : State} {x0} (h : Keeps false s₀ s) : KeepsOut false s₀ (execEndToEndTimeout x0 s) := by
  unfold execEndToEndTimeout
  try lift_lets
  repeat' first
    | assumption | (intro x; subst x) | with_reducible apply State.hostReadFailed_keeps
    | with_reducible apply State.chaffAll_keeps | with_reducible apply State.quarantine_keeps | with_reducible apply Keeps.ite
    | with_reducible apply KeepsOut.next | split

theorem execClflushComplete_keeps {s₀ s : State} {x0} (h : Keeps km s₀ s) : KeepsOut km s₀ (execClflushComplete x0 s) := by
  unfold execClflushComplete
  try lift_lets
  repeat' first
    | assumption | with_reducible apply State.tetherRun_keeps | with_reducible apply State.biasCommit_keeps
    | with_reducible apply Keeps.ite | with_reducible apply KeepsOut.next | split

theorem State.modRelay_keeps {s₀ s : State} {x1 x2} (h : Keeps km s₀ s) : Keeps km s₀ (State.modRelay s x1 x2) := by
  unfold State.modRelay
  try lift_lets
  repeat' first | (intro x; subst x) | (with_reducible refine Keeps.setFab (by assumption) _ ?_) | with_reducible rfl

theorem execRelaySend_keeps {s₀ s : State} {x0} (h : Keeps km s₀ s) : KeepsOut km s₀ (execRelaySend x0 s) := by
  unfold execRelaySend
  try lift_lets
  repeat' first
    | assumption | with_reducible apply State.relayPut_keeps | with_reducible apply Keeps.ite
    | with_reducible apply KeepsOut.next | split

theorem execRelayAlive_keeps {s₀ s : State} {x0} (h : Keeps km s₀ s) : KeepsOut km s₀ (execRelayAlive x0 s) := by
  unfold execRelayAlive
  try lift_lets
  repeat' first
    | assumption | with_reducible apply State.modRelay_keeps | with_reducible apply State.relayCount_keeps
    | with_reducible apply Keeps.ite | with_reducible apply KeepsOut.next | split

theorem State.dropSegment_keeps {s₀ s : State} (h : Keeps km s₀ s) : Keeps km s₀ (State.dropSegment s) := by
  unfold State.dropSegment
  try lift_lets
  repeat' first | (intro x; subst x) | (with_reducible refine Keeps.setFab (by assumption) _ ?_) | with_reducible rfl

theorem State.segmentTake_keeps {s₀ s : State} {x1 x2 x3} (h : Keeps false s₀ s) : Keeps false s₀ (State.segmentTake s x1 x2 x3) := by
  unfold State.segmentTake
  try lift_lets
  repeat' first
    | with_reducible apply State.dropSegment_keeps | with_reducible apply State.fabricIn_keeps
    | with_reducible apply Keeps.ite | (with_reducible refine Keeps.setFab (by assumption) _ ?_) | with_reducible rfl

theorem State.intakeRun_keeps {s₀ s : State} {x0} (h : Keeps false s₀ s) : Keeps false s₀ (State.intakeRun x0 s) := by
  induction x0 generalizing s with
  | nil => exact h
  | cons x l ih => exact ih (Keeps.ite (State.segmentTake_keeps (h.set rfl rfl rfl rfl rfl rfl rfl rfl rfl rfl)) h)

theorem State.serveIntake_keeps {s₀ s : State} (h : Keeps false s₀ s) : Keeps false s₀ (State.serveIntake s) := by
  unfold State.serveIntake
  try lift_lets
  repeat' first
    | assumption | with_reducible apply State.intakeRun_keeps

theorem State.segmentIn_keeps {s₀ s : State} {x1 x2 x3} (h : Keeps false s₀ s) : Keeps false s₀ (State.segmentIn s x1 x2 x3) := by
  unfold State.segmentIn
  try lift_lets
  repeat' first
    | with_reducible apply State.serveIntake_keeps | (with_reducible refine Keeps.setFab (by assumption) _ ?_)
    | with_reducible rfl

theorem State.fabricSegment_keeps {s₀ s : State} {x1} (h : Keeps false s₀ s) : Keeps false s₀ (State.fabricSegment s x1) := by
  unfold State.fabricSegment
  try lift_lets
  repeat' first
    | assumption | (intro x; subst x) | with_reducible apply State.segmentIn_keeps
    | with_reducible apply State.dropSegment_keeps | with_reducible apply Keeps.ite | split

theorem execFabricSegment_keeps {s₀ s : State} {x0} (h : Keeps false s₀ s) : KeepsOut false s₀ (execFabricSegment x0 s) := by
  unfold execFabricSegment
  try lift_lets
  repeat' first
    | assumption | with_reducible apply State.fabricSegment_keeps | with_reducible apply Keeps.ite
    | with_reducible apply KeepsOut.next | split

theorem execReassemblyTimeout_keeps {s₀ s : State} {x0 x1 x2} (h : Keeps km s₀ s) : KeepsOut km s₀ (execReassemblyTimeout x0 x1 x2 s) := by
  unfold execReassemblyTimeout
  try lift_lets
  repeat' first
    | assumption | (intro x; subst x) | with_reducible apply State.count_keeps | with_reducible apply Keeps.ite
    | with_reducible apply KeepsOut.next | with_reducible exact KeepsOut.fault _ _ | with_reducible apply KeepsOut.ite
    | (with_reducible refine Keeps.setFab (by assumption) _ ?_) | with_reducible rfl

theorem State.relaySlot_keeps {s₀ s : State} {x1 x2} (h : Keeps false s₀ s) : Keeps false s₀ (State.relaySlot s x1 x2) := by
  unfold State.relaySlot
  try lift_lets
  repeat' first
    | assumption | (intro x; subst x) | with_reducible apply State.segmentIn_keeps
    | with_reducible apply State.dropSegment_keeps | with_reducible apply Keeps.ite

theorem execRelayPoll_keeps {s₀ s : State} {x0 x1 x2 x3 x4} (h : Keeps false s₀ s) : KeepsOut false s₀ (execRelayPoll x0 x1 x2 x3 x4 s) := by
  unfold execRelayPoll
  try lift_lets
  repeat' first
    | assumption
    | (intro x; (have hx : Keeps false s₀ x := by (subst x; repeat' first | assumption | with_reducible apply State.modRelay_keeps)); clear_value x)
    | with_reducible apply State.relaySlot_keeps | with_reducible apply State.modRelay_keeps
    | with_reducible apply State.relayCount_keeps | with_reducible apply Keeps.ite
    | (with_reducible refine Keeps.foldl _ (fun t x ht => ?_) ?_) | with_reducible apply KeepsOut.next | split

theorem State.loseTether_keeps {s₀ s : State} (h : Keeps km s₀ s) : Keeps km s₀ (State.loseTether s) := by
  unfold State.loseTether
  try lift_lets
  repeat' first
    | (intro x; (have hx : Keeps km s₀ x := by (subst x; repeat' first | assumption | with_reducible apply State.placeFail_keeps | (with_reducible refine Keeps.foldl _ (fun t x ht => ?_) ?_))); clear_value x)
    | (intro x; subst x) | (with_reducible refine Keeps.setDp (by assumption) _ ?_ ?_) | with_reducible rfl

theorem State.revokeRegions_keeps {s₀ s : State} (h : Keeps false s₀ s) : Keeps false s₀ (State.revokeRegions s) := by
  unfold State.revokeRegions
  try lift_lets
  repeat' first
    | assumption
    | (intro x; (have hx : Keeps false s₀ x := by (subst x; repeat' first | assumption | with_reducible apply State.endJob_keeps | (with_reducible refine Keeps.foldl _ (fun t x ht => ?_) ?_) | (refine Keeps.set (t := ?tt) ?hh ?_ ?_ ?_ ?_ ?_ ?_ ?_ ?_ ?_ ?_; (case hh => exact (by assumption)); all_goals first | with_reducible rfl | (intro hm; with_reducible assumption)) | split)); clear_value x)
    | (intro x; subst x) | with_reducible apply State.quarantine_keeps | with_reducible apply State.chaffRead_keeps
    | with_reducible apply State.tetherRun_keeps | (with_reducible refine Keeps.foldl _ (fun t x ht => ?_) ?_)

theorem State.tetherReset_keeps {s₀ s : State} {x1} (h : Keeps false s₀ s) : Keeps false s₀ (State.tetherReset s x1) := by
  unfold State.tetherReset
  refine State.raise_keeps (State.abortMargins_keeps (State.withdrawVotes_keeps ?_))
  refine Keeps.set (State.revokeRegions_keeps (State.loseTether_keeps h)) ?_ ?_ ?_ ?_ ?_ ?_ ?_ ?_ ?_ ?_
  all_goals first | with_reducible rfl | (intro hm; with_reducible assumption)

theorem execTetherReset_keeps {s₀ s : State} {x0} (h : Keeps false s₀ s) : KeepsOut false s₀ (execTetherReset x0 s) := by
  unfold execTetherReset
  repeat' first
    | assumption | with_reducible apply State.tetherReset_keeps | with_reducible apply Keeps.ite
    | with_reducible apply KeepsOut.next

theorem execTetherAttach_keeps {s₀ s : State} {x0 x1 x2} (h : Keeps km s₀ s) : KeepsOut km s₀ (execTetherAttach x0 x1 x2 s) := by
  unfold execTetherAttach
  try lift_lets
  repeat' first
    | assumption
    | (intro x; (have hx : Keeps km s₀ x := by (subst x; repeat' (with_reducible refine Keeps.setTth (by assumption) _))); clear_value x)
    | (intro x; subst x) | with_reducible apply State.raise_keeps | with_reducible apply Keeps.ite
    | with_reducible apply KeepsOut.next

theorem doTetherRegionReg_keeps {s₀ s : State} {x0} (h : Keeps km s₀ s) : Keeps km s₀ (doTetherRegionReg x0 s).2 := by
  unfold doTetherRegionReg
  try lift_lets
  repeat' first
    | assumption | (intro x; subst x) | with_reducible apply refuseIf_keeps | with_reducible apply Ctx.fields_keeps
    | with_reducible apply okWith_keeps | (with_reducible refine Keeps.setTth (by assumption) _)

theorem execTetherRegionReg_keeps {s₀ s : State} {x0} (h : Keeps km s₀ s) : KeepsOut km s₀ (execTetherRegionReg x0 s) := by
  exact runCommand_keeps (fun _ _ ht => doTetherRegionReg_keeps ht) h

theorem doTetherRegionDereg_keeps {s₀ s : State} {x0} (h : Keeps km s₀ s) : Keeps km s₀ (doTetherRegionDereg x0 s).2 := by
  unfold doTetherRegionDereg
  try lift_lets
  repeat' first
    | assumption | (intro x; subst x) | with_reducible apply State.tetherRun_keeps | with_reducible apply Ctx.fields_keeps
    | (with_reducible refine Keeps.setTth (by with_reducible exact State.startJob_keeps (by assumption)) _)

theorem execTetherRegionDereg_keeps {s₀ s : State} {x0} (h : Keeps km s₀ s) : KeepsOut km s₀ (execTetherRegionDereg x0 s) := by
  exact runCommand_keeps (fun _ _ ht => doTetherRegionDereg_keeps ht) h

theorem doTetherBiasSet_keeps {s₀ s : State} {x0} (h : Keeps km s₀ s) : Keeps km s₀ (doTetherBiasSet x0 s).2 := by
  unfold doTetherBiasSet
  try lift_lets
  repeat' first
    | assumption | (intro x; subst x) | with_reducible apply State.tetherRun_keeps | with_reducible apply State.startJob_keeps
    | with_reducible apply Ctx.fields_keeps

theorem execTetherBiasSet_keeps {s₀ s : State} {x0} (h : Keeps km s₀ s) : KeepsOut km s₀ (execTetherBiasSet x0 s) := by
  exact runCommand_keeps (fun _ _ ht => doTetherBiasSet_keeps ht) h

theorem doCopy_keeps {s₀ s : State} {x0 x1} (h : Keeps km s₀ s) : Keeps km s₀ (doCopy x0 x1 s).2 := by
  unfold doCopy
  try lift_lets
  repeat' first
    | assumption | (intro x; subst x) | with_reducible apply State.tetherRun_keeps | with_reducible apply State.startJob_keeps
    | with_reducible apply refuseIf_keeps | with_reducible apply Ctx.fields_keeps

theorem execTetherCopyIn_keeps {s₀ s : State} {x0} (h : Keeps km s₀ s) : KeepsOut km s₀ (execTetherCopyIn x0 s) := by
  unfold execTetherCopyIn
  repeat' first
    | assumption | with_reducible apply doCopy_keeps | with_reducible apply runCommand_keeps
    | (guard_target =~ ∀ _, _; intro _)

theorem execTetherCopyOut_keeps {s₀ s : State} {x0} (h : Keeps km s₀ s) : KeepsOut km s₀ (execTetherCopyOut x0 s) := by
  unfold execTetherCopyOut
  repeat' first
    | assumption | with_reducible apply doCopy_keeps | with_reducible apply runCommand_keeps
    | (guard_target =~ ∀ _, _; intro _)

theorem doTetherQuery_keeps {s₀ s : State} {x0} (h : Keeps km s₀ s) : Keeps km s₀ (doTetherQuery x0 s).2 := by
  unfold doTetherQuery
  repeat' assumption

theorem execTetherQuery_keeps {s₀ s : State} {x0} (h : Keeps km s₀ s) : KeepsOut km s₀ (execTetherQuery x0 s) := by
  exact runCommand_keeps (fun _ _ ht => doTetherQuery_keeps ht) h

theorem doTetherRelaySet_keeps {s₀ s : State} {x0} (h : Keeps km s₀ s) : Keeps km s₀ (doTetherRelaySet x0 s).2 := by
  unfold doTetherRelaySet
  try lift_lets
  repeat' first
    | assumption | (intro x; subst x) | with_reducible apply State.relayCount_keeps | with_reducible apply Ctx.fields_keeps
    | with_reducible apply okWith_keeps | with_reducible apply Keeps.ite_snd
    | (with_reducible refine Keeps.setFab (by assumption) _ ?_) | with_reducible rfl | split

theorem execTetherRelaySet_keeps {s₀ s : State} {x0} (h : Keeps km s₀ s) : KeepsOut km s₀ (execTetherRelaySet x0 s) := by
  exact runCommand_keeps (fun _ _ ht => doTetherRelaySet_keeps ht) h

end Sys2Proof.Machine
end

