-- ==== Sys2Proof/Laws/KeepsPower.lean ====
section
/-! SUPPORT. What each operation keeps: power, bays, the buses, the console and telemetry. -/

set_option maxRecDepth 4000
set_option Elab.async false
set_option linter.unusedSimpArgs false

namespace Sys2Proof.Machine

variable {km : Bool}

theorem State.restartIdle_keeps {s₀ s : State} (h : Keeps km s₀ s) : Keeps km s₀ (State.restartIdle s) := by
  unfold State.restartIdle
  try lift_lets
  repeat' first
    | (intro x; subst x) | (with_reducible refine Keeps.setLan (by assumption) _ ?_) | (guard_target =~ _ = _; simp; done)

theorem State.wakeCause_keeps {s₀ s : State} {x1} (h : Keeps km s₀ s) : Keeps km s₀ (State.wakeCause s x1) := by
  unfold State.wakeCause
  try lift_lets
  repeat' first | (intro x; subst x) | (with_reducible refine Keeps.setLan (by assumption) _ ?_) | with_reducible rfl

theorem State.startExit_keeps {s₀ s : State} {x1 x2} (h : Keeps km s₀ s) : Keeps km s₀ (State.startExit s x1 x2) := by
  unfold State.startExit
  try lift_lets
  repeat' first
    | assumption
    | (intro x; (have hx : Keeps km s₀ x := by (subst x; repeat' first | assumption | with_reducible apply State.count_keeps)); clear_value x)
    | with_reducible apply State.modDomain_keeps

theorem State.latchWake_keeps {s₀ s : State} {x1 x2} (h : Keeps km s₀ s) : Keeps km s₀ (State.latchWake s x1 x2) := by
  unfold State.latchWake
  try lift_lets
  repeat' first
    | assumption | with_reducible apply State.startExit_keeps | with_reducible apply State.wakeCause_keeps
    | with_reducible apply State.modDomain_keeps | with_reducible apply State.count_keeps | with_reducible apply Keeps.ite
    | split

theorem State.wakeDomain_keeps {s₀ s : State} {x1 x2} (h : Keeps km s₀ s) : Keeps km s₀ (State.wakeDomain s x1 x2) := by
  unfold State.wakeDomain
  try lift_lets
  repeat' first
    | assumption
    | (intro x; (have hx : Keeps km s₀ x := by (subst x; repeat' first | assumption | with_reducible apply State.latchWake_keeps)); clear_value x)
    | with_reducible apply State.latchWake_keeps | with_reducible apply Keeps.ite

theorem State.wakeUp_keeps {s₀ s : State} {x1 x2} (h : Keeps km s₀ s) : Keeps km s₀ (State.wakeUp s x1 x2) := by
  unfold State.wakeUp
  repeat' first | assumption | with_reducible apply State.wakeDomain_keeps

theorem State.wakeOf_keeps {s₀ s : State} {x1 x2} (h : Keeps km s₀ s) : Keeps km s₀ (State.wakeOf s x1 x2) := by
  unfold State.wakeOf
  try lift_lets
  repeat' first
    | assumption
    | with_reducible apply State.wakeDomain_keeps
    | with_reducible apply State.wakeUp_keeps
    | with_reducible apply Keeps.ite
    | split

theorem execWakeLatch_keeps {s₀ s : State} {x0 x1} (h : Keeps km s₀ s) : KeepsOut km s₀ (execWakeLatch x0 x1 s) := by
  unfold execWakeLatch
  try lift_lets
  repeat' first
    | with_reducible apply State.wakeOf_keeps | with_reducible apply Keeps.ite
    | (with_reducible refine Keeps.setLan (by assumption) _ ?_) | with_reducible rfl | with_reducible apply KeepsOut.next
    | with_reducible exact KeepsOut.fault _ _ | with_reducible apply KeepsOut.ite

theorem execHysteresisExpiry_keeps {s₀ s : State} {x0 x1} (h : Keeps km s₀ s) : KeepsOut km s₀ (execHysteresisExpiry x0 x1 s) := by
  unfold execHysteresisExpiry
  try lift_lets
  repeat' first
    | assumption
    | (intro x; (have hx : Keeps km s₀ x := by (subst x; repeat' first | assumption | with_reducible apply Keeps.ite | (with_reducible refine Keeps.setLan (by assumption) _ ?_) | with_reducible rfl)); clear_value x)
    | (intro x; subst x) | with_reducible apply State.modDomain_keeps | with_reducible apply Keeps.ite
    | with_reducible apply KeepsOut.next | with_reducible exact KeepsOut.fault _ _ | with_reducible apply KeepsOut.ite

theorem State.portDown_keeps {s₀ s : State} {x1} (h : Keeps km s₀ s) : Keeps km s₀ (State.portDown s x1) := by
  unfold State.portDown
  repeat' first
    | assumption | with_reducible apply State.setLink_keeps | with_reducible apply Keeps.ite
    | (with_reducible refine Keeps.foldl _ (fun t x ht => ?_) ?_)

theorem State.loseF3_keeps {s₀ s : State} {x1} (h : Keeps false s₀ s) : Keeps false s₀ (State.loseF3 s x1) := by
  unfold State.loseF3
  refine Keeps.ite (Keeps.setMem h _ fun hm => memClear_wf (memClear_wf hm _ _) _ _) (Keeps.ite ?_ ?_)
  · refine Keeps.setWithMem h rfl (fun hm => ?_) (List.length_map ..) rfl rfl rfl rfl rfl rfl rfl
    dsimp only
    generalize List.range 16 = l
    generalize s.mem = m at hm
    induction l generalizing m with
    | nil => exact hm
    | cons a l ih => exact ih _ (memClear_wf hm _ _)
  · exact Keeps.ite (State.portDown_keeps h)
      (Keeps.ite (Keeps.ite (State.yokeDown_keeps h) h) (Keeps.ite (State.abortMargins_keeps (State.modLoft_keeps h)) h))

theorem execEntryCommit_keeps {s₀ s : State} {x0} (h : Keeps false s₀ s) : KeepsOut false s₀ (execEntryCommit x0 s) := by
  unfold execEntryCommit
  try lift_lets
  repeat' first
    | assumption | with_reducible apply State.loseF3_keeps | with_reducible apply State.modDomain_keeps
    | with_reducible apply State.count_keeps | with_reducible apply Keeps.ite | with_reducible apply KeepsOut.next
    | with_reducible exact KeepsOut.fault _ _ | with_reducible apply KeepsOut.ite | split

theorem execGateEnd_keeps {s₀ s : State} {x0} (h : Keeps km s₀ s) : KeepsOut km s₀ (execGateEnd x0 s) := by
  unfold execGateEnd
  try lift_lets
  repeat' first
    | assumption | with_reducible apply State.startExit_keeps | with_reducible apply State.modDomain_keeps
    | with_reducible apply Keeps.ite | with_reducible apply KeepsOut.next | with_reducible exact KeepsOut.fault _ _
    | with_reducible apply KeepsOut.ite
    | (with_reducible refine Keeps.setLan (by with_reducible exact State.modDomain_keeps (by assumption)) _ ?_)
    | simp only [List.length_map, List.length_modify, List.length_set] | split

theorem State.exitPhase_keeps {s₀ s : State} {x1 x2 x3 x4} (h : Keeps km s₀ s) : Keeps km s₀ (State.exitPhase s x1 x2 x3 x4) := by
  unfold State.exitPhase
  try lift_lets
  repeat' first | assumption | with_reducible apply State.modDomain_keeps | with_reducible apply Keeps.ite | split

theorem execPwrOk_keeps {s₀ s : State} {x0} (h : Keeps km s₀ s) : KeepsOut km s₀ (execPwrOk x0 s) := by
  unfold execPwrOk
  repeat' first
    | assumption | with_reducible apply State.exitPhase_keeps | with_reducible apply KeepsOut.next
    | with_reducible exact KeepsOut.fault _ _ | with_reducible apply KeepsOut.ite

theorem execPllLock_keeps {s₀ s : State} {x0} (h : Keeps km s₀ s) : KeepsOut km s₀ (execPllLock x0 s) := by
  unfold execPllLock
  repeat' first
    | assumption | with_reducible apply State.exitPhase_keeps | with_reducible apply KeepsOut.next
    | with_reducible exact KeepsOut.fault _ _ | with_reducible apply KeepsOut.ite

theorem execMemOk_keeps {s₀ s : State} {x0} (h : Keeps km s₀ s) : KeepsOut km s₀ (execMemOk x0 s) := by
  unfold execMemOk
  repeat' first
    | assumption | with_reducible apply State.exitPhase_keeps | with_reducible apply KeepsOut.next
    | with_reducible exact KeepsOut.fault _ _ | with_reducible apply KeepsOut.ite

theorem execListenFrame_keeps {s₀ s : State} {x0 x1 x2} (h : Keeps km s₀ s) : KeepsOut km s₀ (execListenFrame x0 x1 x2 s) := by
  unfold execListenFrame
  try lift_lets
  repeat' first
    | assumption
    | (intro x; (have hx : Keeps km s₀ x := by (subst x; repeat' first | assumption | with_reducible apply State.wakeUp_keeps | with_reducible apply State.sendPfc_keeps | with_reducible apply Keeps.ite | (with_reducible refine Keeps.foldl _ (fun t x ht => ?_) ?_))); clear_value x)
    | (intro x; subst x) | with_reducible apply State.discardFrame_keeps | with_reducible apply Keeps.ite
    | with_reducible apply KeepsOut.next | with_reducible exact KeepsOut.fault _ _ | with_reducible apply KeepsOut.ite
    | (with_reducible refine Keeps.setLan (by assumption) _ ?_) | with_reducible rfl

theorem State.knockReply_keeps {s₀ s : State} {x1 x2 x3 x4} (h : Keeps km s₀ s) : Keeps km s₀ (State.knockReply s x1 x2 x3 x4) := by
  unfold State.knockReply
  try lift_lets
  repeat' first | assumption | (intro x; subst x) | with_reducible apply State.sendFrames_keeps

theorem State.portAwake_keeps {s₀ s : State} {x1} (h : Keeps km s₀ s) : Keeps km s₀ (State.portAwake s x1) := by
  unfold State.portAwake
  extract_lets -lift +onlyGivenNames subs g s1
  have h1 : Keeps km s₀ s1 := Keeps.setLan h _ rfl
  clear_value s1
  extract_lets -lift +onlyGivenNames s2
  have h2 : Keeps km s₀ s2 := Keeps.foldl _ (fun _ _ q => Keeps.foldl _ (fun _ _ q => State.sendPfc_keeps q) q) h1
  clear_value s2
  extract_lets -lift +onlyGivenNames s3 mine
  have h3 : Keeps km s₀ s3 := Keeps.foldl _ (fun _ _ q => Keeps.foldl _ (fun _ _ q => Keeps.ite (State.resumePrio_keeps q) q) q) h2
  clear_value s3
  exact Keeps.foldl _ (fun _ _ q => State.knockReply_keeps q) (Keeps.setLan h3 _ rfl)

theorem execKnock_keeps {s₀ s : State} {x0 x1 x2} (h : Keeps km s₀ s) : KeepsOut km s₀ (execKnock x0 x1 x2 s) := by
  unfold execKnock
  refine KeepsOut.ite (KeepsOut.fault _ _) (KeepsOut.next (Keeps.ite h ?_))
  split
  · extract_lets -lift +onlyGivenNames g s1
    have h1 : Keeps km s₀ s1 := Keeps.setLan h _ rfl
    clear_value s1
    exact Keeps.ite h1 (State.raise_keeps (Keeps.setLan h1 _ rfl))
  · extract_lets -lift +onlyGivenNames g s1 s2
    have h2 : Keeps km s₀ s2 := State.wakeUp_keeps (Keeps.setLan h _ rfl)
    clear_value s2
    extract_lets -lift +onlyGivenNames s3
    have h3 : Keeps km s₀ s3 := Keeps.ite (Keeps.foldl _ (fun _ _ q => State.wakeDomain_keeps q) h2) h2
    clear_value s3
    exact Keeps.ite h3 (Keeps.ite (State.knockReply_keeps h3) (Keeps.setLan h3 _ rfl))

theorem execFalseWake_keeps {s₀ s : State} {x0} (h : Keeps km s₀ s) : KeepsOut km s₀ (execFalseWake x0 s) := by
  unfold execFalseWake
  try lift_lets
  repeat' first
    | assumption
    | (intro x; (have hx : Keeps km s₀ x := by (subst x; repeat' first | (with_reducible refine Keeps.setLan (by assumption) _ ?_) | with_reducible rfl)); clear_value x)
    | (intro x; subst x) | with_reducible apply State.portDown_keeps | with_reducible apply State.modDomain_keeps
    | with_reducible apply State.count_keeps | with_reducible apply Keeps.ite | with_reducible apply KeepsOut.next
    | with_reducible exact KeepsOut.fault _ _ | with_reducible apply KeepsOut.ite | split

theorem execLanternTimer_keeps {s₀ s : State} (h : Keeps km s₀ s) : KeepsOut km s₀ (execLanternTimer s) := by
  unfold execLanternTimer
  repeat' first
    | assumption | with_reducible apply State.wakeDomain_keeps | with_reducible apply Keeps.ite
    | with_reducible apply KeepsOut.next

theorem State.startCclk_keeps {s₀ s : State} {x1 x2 x3} (h : Keeps km s₀ s) : Keeps km s₀ (State.startCclk s x1 x2 x3) := by
  unfold State.startCclk
  try lift_lets
  repeat' first | (intro x; subst x) | (with_reducible refine Keeps.setDev (by assumption) _)

theorem State.followCeiling_keeps {s₀ s : State} (h : Keeps km s₀ s) : Keeps km s₀ (State.followCeiling s) := by
  unfold State.followCeiling
  repeat' first | assumption | with_reducible apply State.startCclk_keeps | with_reducible apply Keeps.ite

theorem State.endCclk_keeps {s₀ s : State} (h : Keeps km s₀ s) : Keeps km s₀ (State.endCclk s) := by
  unfold State.endCclk
  try lift_lets
  repeat' first
    | (intro x; subst x) | with_reducible apply State.followCeiling_keeps
    | (with_reducible refine Keeps.setDev (by assumption) _)

theorem execCclkPhaseEnd_keeps {s₀ s : State} (h : Keeps km s₀ s) : KeepsOut km s₀ (execCclkPhaseEnd s) := by
  unfold execCclkPhaseEnd
  try lift_lets
  repeat' first
    | assumption | (intro x; subst x) | with_reducible apply State.endCclk_keeps | with_reducible apply KeepsOut.next
    | (with_reducible refine Keeps.setDev (by assumption) _) | split

theorem State.switchCclk_keeps {s₀ s : State} (h : Keeps km s₀ s) : Keeps km s₀ (State.switchCclk s) := by
  unfold State.switchCclk
  split
  · exact h
  · refine Keeps.ite h ?_
    extract_lets -lift +onlyGivenNames down g s1
    have h1 : Keeps km s₀ s1 := State.raise_keeps (Keeps.setDev h _)
    clear_value s1
    exact Keeps.ite (Keeps.setDev h1 _) (State.endCclk_keeps h1)

theorem doCclkSet_keeps {s₀ s : State} {x0} (h : Keeps km s₀ s) : Keeps km s₀ (doCclkSet x0 s).2 := by
  unfold doCclkSet
  try lift_lets
  repeat' first
    | assumption
    | (intro x; (have hx : Keeps km s₀ x := by (subst x; repeat' (with_reducible refine Keeps.setDev (by assumption) _))); clear_value x)
    | (intro x; subst x) | with_reducible apply State.startCclk_keeps | with_reducible apply refuseIf_keeps
    | with_reducible apply Ctx.fields_keeps | with_reducible apply okWith_keeps | with_reducible apply Keeps.ite_snd

theorem execCclkSet_keeps {s₀ s : State} {x0} (h : Keeps km s₀ s) : KeepsOut km s₀ (execCclkSet x0 s) := by
  exact runCommand_keeps (fun _ _ ht => doCclkSet_keeps ht) h

theorem State.setThermal_keeps {s₀ s : State} {x1 x2} (h : Keeps km s₀ s) : Keeps km s₀ (State.setThermal s x1 x2) := by
  unfold State.setThermal
  try lift_lets
  repeat' first
    | (intro x; subst x) | with_reducible apply State.followCeiling_keeps | with_reducible apply State.raise_keeps
    | (with_reducible refine Keeps.setDev (by assumption) _)

theorem State.thermTrip_keeps {s₀ s : State} {x1} (h : Keeps km s₀ s) : Keeps km s₀ (State.thermTrip s x1) := by
  unfold State.thermTrip
  try lift_lets
  repeat' first
    | (intro x; subst x) | with_reducible apply State.raise_keeps | (with_reducible refine Keeps.setDev (by assumption) _)

theorem execDieTemperature_keeps {s₀ s : State} {x0 x1} (h : Keeps km s₀ s) : KeepsOut km s₀ (execDieTemperature x0 x1 s) := by
  unfold execDieTemperature
  try lift_lets
  repeat' first
    | assumption
    | (intro x; (have hx : Keeps km s₀ x := by (subst x; repeat' (with_reducible refine Keeps.setDev (by assumption) _))); clear_value x)
    | (intro x; subst x) | with_reducible apply State.thermTrip_keeps | with_reducible apply State.setThermal_keeps
    | with_reducible apply Keeps.ite | with_reducible apply KeepsOut.next | with_reducible exact KeepsOut.fault _ _
    | with_reducible apply KeepsOut.ite | (with_reducible refine Keeps.setDev (by assumption) _)

theorem execDieThermtrip_keeps {s₀ s : State} {x0} (h : Keeps km s₀ s) : KeepsOut km s₀ (execDieThermtrip x0 s) := by
  unfold execDieThermtrip
  try lift_lets
  repeat' first
    | assumption | (intro x; subst x) | with_reducible apply State.thermTrip_keeps | with_reducible apply Keeps.ite
    | with_reducible apply KeepsOut.next | with_reducible exact KeepsOut.fault _ _ | with_reducible apply KeepsOut.ite

theorem execClockRefLost_keeps {s₀ s : State} {x0} (h : Keeps false s₀ s) : KeepsOut false s₀ (execClockRefLost x0 s) := by
  unfold execClockRefLost
  refine KeepsOut.ite (KeepsOut.fault _ _) (KeepsOut.next (Keeps.ite h ?_))
  extract_lets -lift +onlyGivenNames g s1 s2
  have h2 : Keeps false s₀ s2 := State.raise_keeps (Keeps.setDev h _)
  clear_value s2
  refine Keeps.ite ?_ (Keeps.ite (Keeps.foldl _ (fun _ _ q => State.portDown_keeps q) h2) h2)
  extract_lets -lift +onlyGivenNames s3
  have h3 : Keeps false s₀ s3 := Keeps.foldl _ (fun _ _ q => Keeps.ite (State.loftDown_keeps q) q) h2
  clear_value s3
  exact Keeps.ite (State.tetherReset_keeps h3) h3

theorem execClockRefOk_keeps {s₀ s : State} {x0} (h : Keeps km s₀ s) : KeepsOut km s₀ (execClockRefOk x0 s) := by
  unfold execClockRefOk
  try lift_lets
  repeat' first
    | assumption | (intro x; subst x) | with_reducible apply State.raise_keeps | with_reducible apply Keeps.ite
    | with_reducible apply KeepsOut.next | with_reducible exact KeepsOut.fault _ _ | with_reducible apply KeepsOut.ite
    | (with_reducible refine Keeps.setDev (by assumption) _)

theorem execRefHoldoverExpiry_keeps {s₀ s : State} (h : Keeps km s₀ s) : KeepsOut km s₀ (execRefHoldoverExpiry s) := by
  unfold execRefHoldoverExpiry
  repeat' first
    | assumption | with_reducible apply State.goFatal_keeps | with_reducible apply State.raise_keeps
    | with_reducible apply Keeps.ite | with_reducible apply KeepsOut.next

theorem doPowerVote_keeps {s₀ s : State} {x0} (h : Keeps km s₀ s) : Keeps km s₀ (doPowerVote x0 s).2 := by
  unfold doPowerVote
  try lift_lets
  repeat' first
    | assumption | with_reducible apply State.wakeDomain_keeps | with_reducible apply refuseIf_keeps
    | with_reducible apply Ctx.fields_keeps | with_reducible apply okWith_keeps | with_reducible apply State.modDomain_keeps
    | split

theorem execPowerVote_keeps {s₀ s : State} {x0} (h : Keeps km s₀ s) : KeepsOut km s₀ (execPowerVote x0 s) := by
  exact runCommand_keeps (fun _ _ ht => doPowerVote_keeps ht) h

theorem doPowerRelease_keeps {s₀ s : State} {x0} (h : Keeps km s₀ s) : Keeps km s₀ (doPowerRelease x0 s).2 := by
  unfold doPowerRelease
  try lift_lets
  repeat' first
    | assumption | with_reducible apply refuseIf_keeps | with_reducible apply Ctx.fields_keeps
    | with_reducible apply okWith_keeps | with_reducible apply State.modDomain_keeps | split

theorem execPowerRelease_keeps {s₀ s : State} {x0} (h : Keeps km s₀ s) : KeepsOut km s₀ (execPowerRelease x0 s) := by
  exact runCommand_keeps (fun _ _ ht => doPowerRelease_keeps ht) h

theorem doPowerQuery_keeps {s₀ s : State} {x0} (h : Keeps km s₀ s) : Keeps km s₀ (doPowerQuery x0 s).2 := by
  unfold doPowerQuery
  try lift_lets
  repeat' first | assumption | with_reducible apply Ctx.fields_keeps | split

theorem execPowerQuery_keeps {s₀ s : State} {x0} (h : Keeps km s₀ s) : KeepsOut km s₀ (execPowerQuery x0 s) := by
  exact runCommand_keeps (fun _ _ ht => doPowerQuery_keeps ht) h

theorem doPowerConfig_keeps {s₀ s : State} {x0} (h : Keeps km s₀ s) : Keeps km s₀ (doPowerConfig x0 s).2 := by
  unfold doPowerConfig
  try lift_lets
  repeat' first
    | assumption | (intro x; subst x) | with_reducible apply Ctx.fields_keeps | with_reducible apply okWith_keeps
    | (with_reducible refine Keeps.setFlash (by with_reducible exact State.modDomain_keeps (by assumption)) _) | split

theorem execPowerConfig_keeps {s₀ s : State} {x0} (h : Keeps km s₀ s) : KeepsOut km s₀ (execPowerConfig x0 s) := by
  exact runCommand_keeps (fun _ _ ht => doPowerConfig_keeps ht) h

theorem State.recordLoft_keeps {s₀ s : State} {x1 x2} (h : Keeps km s₀ s) : Keeps km s₀ (State.recordLoft s x1 x2) := by
  unfold State.recordLoft
  try lift_lets
  repeat' first | (intro x; subst x) | (with_reducible refine Keeps.setFlash (by assumption) _)

theorem doBayCreate_keeps {s₀ s : State} {x0} (h : Keeps km s₀ s) : Keeps km s₀ (doBayCreate x0 s).2 := by
  unfold doBayCreate
  try lift_lets
  repeat' first
    | assumption | (intro x; subst x) | with_reducible apply State.recordLoft_keeps | with_reducible apply refuseIf_keeps
    | with_reducible apply Ctx.fields_keeps | with_reducible apply okWith_keeps | with_reducible apply State.modBay_keeps

theorem execBayCreate_keeps {s₀ s : State} {x0} (h : Keeps km s₀ s) : KeepsOut km s₀ (execBayCreate x0 s) := by
  exact runCommand_keeps (fun _ _ ht => doBayCreate_keeps ht) h

theorem doBaySetShares_keeps {s₀ s : State} {x0} (h : Keeps km s₀ s) : Keeps km s₀ (doBaySetShares x0 s).2 := by
  unfold doBaySetShares
  try lift_lets
  repeat' first
    | assumption
    | (intro x; (have hx : Keeps km s₀ x := by (subst x; repeat' first | assumption | with_reducible apply State.modBay_keeps)); clear_value x)
    | (intro x; subst x) | with_reducible apply State.recordLoft_keeps | with_reducible apply refuseIf_keeps
    | with_reducible apply Ctx.fields_keeps | with_reducible apply okWith_keeps

theorem execBaySetShares_keeps {s₀ s : State} {x0} (h : Keeps km s₀ s) : KeepsOut km s₀ (execBaySetShares x0 s) := by
  exact runCommand_keeps (fun _ _ ht => doBaySetShares_keeps ht) h

theorem doBaySetRegulators_keeps {s₀ s : State} {x0} (h : Keeps km s₀ s) : Keeps km s₀ (doBaySetRegulators x0 s).2 := by
  unfold doBaySetRegulators
  try lift_lets
  repeat' first
    | assumption | (intro x; subst x) | with_reducible apply refuseIf_keeps | with_reducible apply Ctx.fields_keeps
    | with_reducible apply okWith_keeps | with_reducible apply State.modBay_keeps

theorem execBaySetRegulators_keeps {s₀ s : State} {x0} (h : Keeps km s₀ s) : KeepsOut km s₀ (execBaySetRegulators x0 s) := by
  exact runCommand_keeps (fun _ _ ht => doBaySetRegulators_keeps ht) h

theorem bayOnly_keeps {s₀ s : State} {c : Ctx} {k : Result} (h : Keeps km s₀ s) (hk : Keeps km s₀ k.2) : Keeps km s₀ (bayOnly c s k).2 :=
  Ctx.fields_keeps h hk

theorem State.openBay_keeps {s₀ s : State} {x1} (h : Keeps km s₀ s) : Keeps km s₀ (State.openBay s x1) := by
  unfold State.openBay
  try lift_lets
  repeat' first
    | assumption | with_reducible apply State.modLife_keeps | with_reducible apply State.modBay_keeps
    | with_reducible apply State.quadVotes_keeps | with_reducible apply State.wakeUp_keeps | with_reducible apply Keeps.ite

theorem doBayOpen_keeps {s₀ s : State} {x0} (h : Keeps km s₀ s) : Keeps km s₀ (doBayOpen x0 s).2 := by
  unfold doBayOpen
  try lift_lets
  repeat' first
    | assumption | with_reducible apply refuseIf_keeps | with_reducible apply bayOnly_keeps
    | with_reducible apply okWith_keeps | with_reducible apply State.openBay_keeps

theorem execBayOpen_keeps {s₀ s : State} {x0} (h : Keeps km s₀ s) : KeepsOut km s₀ (execBayOpen x0 s) := by
  exact runCommand_keeps (fun _ _ ht => doBayOpen_keeps ht) h

theorem State.startDrain_keeps {s₀ s : State} {x1} (h : Keeps km s₀ s) : Keeps km s₀ (State.startDrain s x1) := by
  unfold State.startDrain
  try lift_lets
  repeat' first
    | assumption | with_reducible apply State.modLife_keeps | with_reducible apply State.quadVotes_keeps

theorem doBayDrain_keeps {s₀ s : State} {x0} (h : Keeps km s₀ s) : Keeps km s₀ (doBayDrain x0 s).2 := by
  unfold doBayDrain
  repeat' first
    | assumption | with_reducible apply State.startDrain_keeps | with_reducible apply bayOnly_keeps
    | with_reducible apply okWith_keeps

theorem execBayDrain_keeps {s₀ s : State} {x0} (h : Keeps km s₀ s) : KeepsOut km s₀ (execBayDrain x0 s) := by
  exact runCommand_keeps (fun _ _ ht => doBayDrain_keeps ht) h

theorem State.dropSheafs_keeps {s₀ s : State} {x1 x2} (h : Keeps km s₀ s) : Keeps km s₀ (State.dropSheafs s x1 x2) := by
  unfold State.dropSheafs
  try lift_lets
  repeat' first
    | (intro x; subst x) | (with_reducible refine Keeps.setDp (by assumption) _ ?_ ?_)
    | simp only [List.length_map, List.length_modify, List.length_set] | (guard_target =~ _ = _; simp; done)

theorem State.dropBay_keeps {s₀ s : State} {x1} (h : Keeps km s₀ s) : Keeps km s₀ (State.dropBay s x1) := by
  have h1 : Keeps km s₀ (s.dropSheafs x1 fun _ => true) := State.dropSheafs_keeps h
  exact Keeps.set h1 rfl rfl rfl (by simp [State.dropBay]) (by simp [State.dropBay]) rfl rfl rfl rfl rfl

theorem State.enterZeroing_keeps {s₀ s : State} {x1} (h : Keeps km s₀ s) : Keeps km s₀ (State.enterZeroing s x1) := by
  unfold State.enterZeroing
  try lift_lets
  repeat' first
    | assumption
    | (intro x; (have hx : Keeps km s₀ x := by (subst x; repeat' first | assumption | with_reducible apply State.endSession_keeps | with_reducible apply State.modLife_keeps | (with_reducible refine Keeps.foldl _ (fun t x ht => ?_) ?_) | (with_reducible refine Keeps.setFlash (by assumption) _))); clear_value x)
    | (intro x; subst x) | with_reducible apply State.dropBay_keeps

theorem doBayDestroy_keeps {s₀ s : State} {x0} (h : Keeps km s₀ s) : Keeps km s₀ (doBayDestroy x0 s).2 := by
  unfold doBayDestroy
  try lift_lets
  repeat' first
    | assumption | (intro x; subst x) | with_reducible apply State.enterZeroing_keeps | with_reducible apply bayOnly_keeps
    | with_reducible apply okWith_keeps | with_reducible apply State.modLife_keeps | with_reducible apply Keeps.ite_snd

theorem execBayDestroy_keeps {s₀ s : State} {x0} (h : Keeps km s₀ s) : KeepsOut km s₀ (execBayDestroy x0 s) := by
  exact runCommand_keeps (fun _ _ ht => doBayDestroy_keeps ht) h

theorem doBayRekey_keeps {s₀ s : State} {x0} (h : Keeps km s₀ s) : Keeps km s₀ (doBayRekey x0 s).2 := by
  unfold doBayRekey
  try lift_lets
  repeat' first
    | assumption | (intro x; subst x) | with_reducible apply Ctx.fields_keeps | with_reducible apply okWith_keeps
    | with_reducible apply State.modBay_keeps

theorem execBayRekey_keeps {s₀ s : State} {x0} (h : Keeps km s₀ s) : KeepsOut km s₀ (execBayRekey x0 s) := by
  exact runCommand_keeps (fun _ _ ht => doBayRekey_keeps ht) h

theorem doBayQuery_keeps {s₀ s : State} {x0} (h : Keeps km s₀ s) : Keeps km s₀ (doBayQuery x0 s).2 := by
  unfold doBayQuery
  try lift_lets
  repeat' first | assumption | (intro x; subst x) | with_reducible apply bayOnly_keeps

theorem execBayQuery_keeps {s₀ s : State} {x0} (h : Keeps km s₀ s) : KeepsOut km s₀ (execBayQuery x0 s) := by
  exact runCommand_keeps (fun _ _ ht => doBayQuery_keeps ht) h

theorem State.lanWrite_keeps {s₀ s : State} {x1 x2} (h : Keeps km s₀ s) : Keeps km s₀ (State.lanWrite s x1 x2) := by
  unfold State.lanWrite
  try lift_lets
  repeat' first
    | assumption | (intro x; subst x) | with_reducible apply State.modDomain_keeps | with_reducible apply Keeps.ite
    | (with_reducible refine Keeps.setLan (by assumption) _ ?_) | with_reducible rfl

theorem State.ackMtw_keeps {s₀ s : State} {x1} (h : Keeps km s₀ s) : Keeps km s₀ (State.ackMtw s x1) := by
  unfold State.ackMtw
  repeat' first | assumption | with_reducible apply State.emit_keeps

theorem State.nackWrite_keeps {s₀ s : State} (h : Keeps km s₀ s) : Keeps km s₀ (State.nackWrite s) := by
  unfold State.nackWrite
  repeat' first | assumption | with_reducible apply State.ackMtw_keeps | with_reducible apply State.count_keeps

theorem State.mtwReadBytes_keeps {s₀ s : State} {x1 x2} (h : Keeps km s₀ s) : Keeps km s₀ (State.mtwReadBytes s x1 x2) := by
  unfold State.mtwReadBytes
  try lift_lets
  repeat' first | assumption | (intro x; subst x) | with_reducible apply State.emit_keeps

theorem execMtwAddress_keeps {s₀ s : State} {x0 x1 x2} (h : Keeps km s₀ s) : KeepsOut km s₀ (execMtwAddress x0 x1 x2 s) := by
  unfold execMtwAddress
  try lift_lets
  repeat' first
    | assumption
    | (intro x; (have hx : Keeps km s₀ x := by (subst x; repeat' first | assumption | with_reducible apply State.count_keeps)); clear_value x)
    | with_reducible apply State.mtwReadBytes_keeps | with_reducible apply State.nackWrite_keeps
    | with_reducible apply State.ackMtw_keeps | with_reducible apply Keeps.ite | with_reducible apply KeepsOut.next

theorem State.mtwBegin_keeps {s₀ s : State} {x1} (h : Keeps km s₀ s) : Keeps km s₀ (State.mtwBegin s x1).2 := by
  unfold State.mtwBegin
  try lift_lets
  repeat' first
    | assumption
    | (intro x; (have hx : Keeps km s₀ x := by (subst x; repeat' first | assumption | with_reducible apply State.count_keeps)); clear_value x)
    | (intro x; subst x) | with_reducible apply State.nackWrite_keeps | with_reducible apply State.ackMtw_keeps
    | with_reducible apply State.wakeDomain_keeps | with_reducible apply Keeps.ite_snd
    | (with_reducible refine Keeps.setMgmt (by assumption) _)

theorem State.mtwData_keeps {s₀ s : State} {x1 x2} (h : Keeps km s₀ s) : Keeps km s₀ (State.mtwData s x1 x2).2 := by
  unfold State.mtwData
  try lift_lets
  repeat' first
    | assumption
    | (intro x; (have hx : Keeps km s₀ x := by (subst x; repeat' first | with_reducible apply State.ackMtw_keeps | with_reducible apply State.count_keeps | (with_reducible refine Keeps.setMgmt (by assumption) _))); clear_value x)
    | (intro x; subst x) | with_reducible apply State.raise_keeps | with_reducible apply Keeps.ite_snd

theorem execMtwQuickWrite_keeps {s₀ s : State} (h : Keeps km s₀ s) : KeepsOut km s₀ (execMtwQuickWrite s) := by
  unfold execMtwQuickWrite
  repeat' first
    | assumption | with_reducible apply State.nackWrite_keeps | with_reducible apply State.ackMtw_keeps
    | with_reducible apply State.count_keeps | with_reducible apply Keeps.ite | with_reducible apply KeepsOut.next

theorem execMtwSetPointer_keeps {s₀ s : State} {x0 x1} (h : Keeps km s₀ s) : KeepsOut km s₀ (execMtwSetPointer x0 x1 s) := by
  unfold execMtwSetPointer
  try lift_lets
  repeat' first
    | assumption | with_reducible apply State.mtwBegin_keeps | with_reducible apply State.mtwReadBytes_keeps
    | with_reducible apply Keeps.ite | with_reducible apply KeepsOut.next
    | with_reducible refine Keeps.of_snd ?_ (by assumption) | split

theorem State.mtwWrite_keeps {s₀ s : State} {x1 x2} (h : Keeps km s₀ s) : Keeps km s₀ (State.mtwWrite s x1 x2) := by
  unfold State.mtwWrite
  split
  · next e => exact Keeps.of_snd (State.mtwBegin_keeps h) e
  · next e =>
    have h1 := Keeps.of_snd (State.mtwBegin_keeps h) e
    split
    · next e => exact Keeps.of_snd (State.mtwData_keeps h1) e
    · next e =>
      have h2 := Keeps.of_snd (State.mtwData_keeps h1) e
      exact Keeps.ite (Keeps.setMgmt h2 _) (Keeps.ite (Keeps.setMgmt h2 _) h2)

theorem execSmbusTimeout_keeps {s₀ s : State} (h : Keeps km s₀ s) : KeepsOut km s₀ (execSmbusTimeout s) := by
  unfold execSmbusTimeout
  repeat' first
    | assumption | with_reducible apply State.count_keeps | with_reducible apply Keeps.ite
    | with_reducible apply KeepsOut.next

theorem execAlertResponse_keeps {s₀ s : State} (h : Keeps km s₀ s) : KeepsOut km s₀ (execAlertResponse s) := by
  unfold execAlertResponse
  try lift_lets
  repeat' first
    | assumption | (intro x; subst x) | with_reducible apply State.emit_keeps | with_reducible apply Keeps.ite
    | with_reducible apply KeepsOut.next | (with_reducible refine Keeps.setMgmt (by assumption) _)

theorem execMtwResponse_keeps {s₀ s : State} (h : Keeps km s₀ s) : KeepsOut km s₀ (execMtwResponse s) := by
  unfold execMtwResponse
  try lift_lets
  repeat' first
    | assumption | (intro x; subst x) | with_reducible apply KeepsOut.next
    | (with_reducible refine Keeps.setMgmt (by assumption) _) | split

theorem execRegisterWrite_keeps {s₀ s : State} {x0 x1 x2} (h : Keeps false s₀ s) : KeepsOut false s₀ (execRegisterWrite x0 x1 x2 s) := by
  unfold execRegisterWrite
  try lift_lets
  repeat' first
    | assumption | with_reducible apply State.mtwWrite_keeps | with_reducible apply State.lanWrite_keeps
    | with_reducible apply State.tthWrite_keeps | with_reducible apply Keeps.ite | with_reducible apply KeepsOut.next | split

theorem State.ltwFail_keeps {s₀ s : State} {x1 x2 x3} (h : Keeps km s₀ s) : Keeps km s₀ (State.ltwFail s x1 x2 x3) := by
  unfold State.ltwFail
  try lift_lets
  repeat' first
    | (intro x; subst x) | with_reducible apply State.count_keeps | (with_reducible refine Keeps.setMgmt (by assumption) _)

theorem State.ltwNack_keeps {s₀ s : State} {x1} (h : Keeps km s₀ s) : Keeps km s₀ (State.ltwNack s x1) := by
  unfold State.ltwNack
  try lift_lets
  repeat' first
    | assumption | (intro x; subst x) | with_reducible apply State.raise_keeps | with_reducible apply Keeps.ite
    | (with_reducible refine Keeps.setMgmt (by assumption) _)

theorem execLtwTransfer_keeps {s₀ s : State} {x0 x1 x2 x3} (h : Keeps km s₀ s) : KeepsOut km s₀ (execLtwTransfer x0 x1 x2 x3 s) := by
  unfold execLtwTransfer
  try lift_lets
  repeat' first
    | assumption
    | (intro x; (have hx : Keeps km s₀ x := by (subst x; repeat' first | assumption | with_reducible apply State.count_keeps | with_reducible apply Keeps.ite)); clear_value x)
    | (intro x; subst x) | with_reducible apply State.ltwNack_keeps | with_reducible apply State.ltwFail_keeps
    | with_reducible apply State.raise_keeps | with_reducible apply State.count_keeps | with_reducible apply State.emit_keeps
    | with_reducible apply Keeps.ite | with_reducible apply KeepsOut.next
    | (with_reducible refine Keeps.setMgmt (by assumption) _)
    | (refine Keeps.set (t := ?tt) ?hh ?_ ?_ ?_ ?_ ?_ ?_ ?_ ?_ ?_ ?_; (case hh => exact (by assumption)); all_goals first | with_reducible rfl | (intro hm; with_reducible assumption))
    | split

theorem execLtwArbStop_keeps {s₀ s : State} (h : Keeps km s₀ s) : KeepsOut km s₀ (execLtwArbStop s) := by
  unfold execLtwArbStop
  try lift_lets
  repeat' first
    | assumption | (intro x; subst x) | with_reducible apply State.ltwFail_keeps | with_reducible apply State.raise_keeps
    | with_reducible apply State.count_keeps | with_reducible apply Keeps.ite | with_reducible apply KeepsOut.next
    | (with_reducible refine Keeps.setMgmt (by assumption) _) | split

theorem execLtwBusStuck_keeps {s₀ s : State} {x0 x1} (h : Keeps km s₀ s) : KeepsOut km s₀ (execLtwBusStuck x0 x1 s) := by
  unfold execLtwBusStuck
  try lift_lets
  repeat' first
    | assumption | (intro x; subst x) | with_reducible apply State.raise_keeps | with_reducible apply State.emit_keeps
    | with_reducible apply Keeps.ite | with_reducible apply KeepsOut.next | with_reducible exact KeepsOut.fault _ _
    | with_reducible apply KeepsOut.ite | (with_reducible refine Keeps.setMgmt (by assumption) _) | split

theorem State.takeUart_keeps {s₀ s : State} {x1} (h : Keeps km s₀ s) : Keeps km s₀ (State.takeUart s x1) := by
  unfold State.takeUart
  try lift_lets
  repeat' first
    | assumption
    | (intro x; (have hx : Keeps km s₀ x := by (subst x; repeat' (with_reducible refine Keeps.setMgmt (by assumption) _))); clear_value x)
    | (intro x; subst x) | with_reducible apply State.console_keeps | with_reducible apply Keeps.ite
    | (with_reducible refine Keeps.setMgmt (by assumption) _) | split

theorem State.drainUart_keeps {s₀ s : State} (h : Keeps km s₀ s) : Keeps km s₀ (State.drainUart s) := by
  unfold State.drainUart
  try lift_lets
  repeat' first
    | assumption | with_reducible apply State.takeUart_keeps | with_reducible apply Keeps.ite
    | (with_reducible refine Keeps.foldl _ (fun t x ht => ?_) ?_) | (with_reducible refine Keeps.setMgmt (by assumption) _)
    | split

theorem execUartByte_keeps {s₀ s : State} {x0 x1} (h : Keeps km s₀ s) : KeepsOut km s₀ (execUartByte x0 x1 s) := by
  unfold execUartByte
  try lift_lets
  repeat' first
    | assumption
    | (intro x; (have hx : Keeps km s₀ x := by (subst x; repeat' first | assumption | with_reducible apply State.drainUart_keeps)); clear_value x)
    | (intro x; subst x) | with_reducible apply State.drainUart_keeps | with_reducible apply State.count_keeps
    | with_reducible apply Keeps.ite | with_reducible apply KeepsOut.next
    | (with_reducible refine Keeps.setMgmt (by assumption) _)

theorem execUartBreak_keeps {s₀ s : State} (h : Keeps km s₀ s) : KeepsOut km s₀ (execUartBreak s) := by
  unfold execUartBreak
  repeat' first
    | assumption | with_reducible apply State.count_keeps | with_reducible apply Keeps.ite
    | with_reducible apply KeepsOut.next

theorem execUartTransmit_keeps {s₀ s : State} (h : Keeps km s₀ s) : KeepsOut km s₀ (execUartTransmit s) := by
  unfold execUartTransmit
  refine KeepsOut.next ?_
  split
  · exact h
  · extract_lets -lift +onlyGivenNames g1 g2 s1
    have h1 : Keeps km s₀ s1 := State.emit_keeps (Keeps.setMgmt h _)
    clear_value s1
    split
    · exact Keeps.ite (Keeps.setMgmt h1 _) (Keeps.setMgmt h1 _)
    · exact h1

theorem State.nextLine_keeps {s₀ s : State} (h : Keeps km s₀ s) : Keeps km s₀ (State.nextLine s) := by
  unfold State.nextLine
  try lift_lets
  repeat' first
    | (intro x; subst x) | with_reducible apply State.drainUart_keeps
    | (with_reducible refine Keeps.setMgmt (by assumption) _)

theorem onConsole_keeps {s₀ s : State} {f : ConsoleCmd → Option State} (hf : ∀ c, KeepsOpt km s₀ (f c)) (h : Keeps km s₀ s) :
    KeepsOut km s₀ (onConsole s f) := by
  unfold onConsole
  refine KeepsOut.next ?_
  extract_lets -lift +onlyGivenNames s1
  have h1 : Keeps km s₀ s1 := State.drainUart_keeps h
  clear_value s1
  refine Keeps.ite h1 ?_
  split
  · next e =>
    refine State.nextLine_keeps ?_
    cases hc : s1.consoleWaits with
    | none => rw [hc] at e; cases e
    | some c => rw [hc] at e; exact Keeps.of_opt (hf c) e
  · exact h1

theorem execConsoleStatus_keeps {s₀ s : State} (h : Keeps km s₀ s) : KeepsOut km s₀ (execConsoleStatus s) := by
  refine onConsole_keeps (fun c => ?_) h
  split
  · exact KeepsOpt.some (State.console_keeps (State.drainUart_keeps h))
  · exact KeepsOpt.none _

theorem execConsoleEvents_keeps {s₀ s : State} (h : Keeps km s₀ s) : KeepsOut km s₀ (execConsoleEvents s) := by
  refine onConsole_keeps (fun c => ?_) h
  dsimp only
  split
  · exact KeepsOpt.some (Keeps.foldl _ (fun _ _ q => State.console_keeps q) (State.drainUart_keeps h))
  · exact KeepsOpt.none _

theorem execConsoleLevel_keeps {s₀ s : State} (h : Keeps km s₀ s) : KeepsOut km s₀ (execConsoleLevel s) := by
  refine onConsole_keeps (fun c => ?_) h
  dsimp only
  split
  · exact KeepsOpt.some (Keeps.setMgmt (State.drainUart_keeps h) _)
  · exact KeepsOpt.none _

theorem execConsoleBaud_keeps {s₀ s : State} (h : Keeps km s₀ s) : KeepsOut km s₀ (execConsoleBaud s) := by
  refine onConsole_keeps (fun c => ?_) h
  dsimp only
  split
  · have h1 (x : List Byte) : Keeps km s₀ (s.drainUart.console x) := State.console_keeps (State.drainUart_keeps h)
    exact KeepsOpt.some (Keeps.ite (Keeps.setMgmt (h1 _) _) (Keeps.setMgmt (h1 _) _))
  · exact KeepsOpt.none _

theorem State.driveFans_keeps {s₀ s : State} (h : Keeps km s₀ s) : Keeps km s₀ (State.driveFans s) := by
  unfold State.driveFans
  try lift_lets
  repeat' first | (intro x; subst x) | (with_reducible refine Keeps.setBoard (by assumption) _)

theorem execFanFault_keeps {s₀ s : State} {x0} (h : Keeps km s₀ s) : KeepsOut km s₀ (execFanFault x0 s) := by
  unfold execFanFault
  try lift_lets
  repeat' first
    | assumption
    | (intro x; (have hx : Keeps km s₀ x := by (subst x; repeat' (with_reducible refine Keeps.setBoard (by assumption) _))); clear_value x)
    | (intro x; subst x) | with_reducible apply State.driveFans_keeps | with_reducible apply State.raise_keeps
    | with_reducible apply Keeps.ite | with_reducible apply KeepsOut.next | with_reducible exact KeepsOut.fault _ _
    | with_reducible apply KeepsOut.ite | split

theorem State.setSensor_keeps {s₀ s : State} {x1 x2 x3} (h : Keeps km s₀ s) : Keeps km s₀ (State.setSensor s x1 x2 x3) := by
  unfold State.setSensor
  try lift_lets
  repeat' first
    | assumption
    | (intro x; (have hx : Keeps km s₀ x := by (subst x; repeat' (with_reducible refine Keeps.setMgmt (by assumption) _))); clear_value x)
    | (intro x; subst x) | with_reducible apply State.raise_keeps | with_reducible apply Keeps.ite

theorem State.packagePower_keeps {s₀ s : State} {x1} (h : Keeps km s₀ s) : Keeps km s₀ (State.packagePower s x1) := by
  unfold State.packagePower
  try lift_lets
  repeat' first
    | assumption
    | (intro x; (have hx : Keeps km s₀ x := by (subst x; repeat' (with_reducible refine Keeps.setDev (by assumption) _))); clear_value x)
    | (intro x; subst x) | with_reducible apply State.followCeiling_keeps | with_reducible apply Keeps.ite
    | (with_reducible refine Keeps.setDev (by assumption) _)

theorem execSensorPoll_keeps {s₀ s : State} {x0 x1} (h : Keeps km s₀ s) : KeepsOut km s₀ (execSensorPoll x0 x1 s) := by
  unfold execSensorPoll
  try lift_lets
  repeat' first
    | assumption
    | (intro x; (have hx : Keeps km s₀ x := by (subst x; repeat' first | assumption | with_reducible apply State.packagePower_keeps | with_reducible apply State.setSensor_keeps | with_reducible apply Keeps.ite | (with_reducible refine Keeps.setBoard (by assumption) _) | split)); clear_value x)
    | (intro x; subst x) | with_reducible apply State.driveFans_keeps | with_reducible apply Keeps.ite
    | with_reducible apply KeepsOut.next | with_reducible exact KeepsOut.fault _ _ | with_reducible apply KeepsOut.ite

theorem execPackagePowerLimit_keeps {s₀ s : State} (h : Keeps km s₀ s) : KeepsOut km s₀ (execPackagePowerLimit s) := by
  unfold execPackagePowerLimit
  try lift_lets
  repeat' first
    | assumption
    | (intro x; (have hx : Keeps km s₀ x := by (subst x; repeat' (with_reducible refine Keeps.setDev (by assumption) _))); clear_value x)
    | (intro x; subst x) | with_reducible apply State.followCeiling_keeps | with_reducible apply State.raise_keeps
    | with_reducible apply Keeps.ite | with_reducible apply KeepsOut.next

theorem execPowerCeilingRaise_keeps {s₀ s : State} (h : Keeps km s₀ s) : KeepsOut km s₀ (execPowerCeilingRaise s) := by
  unfold execPowerCeilingRaise
  try lift_lets
  repeat' first
    | assumption | (intro x; subst x) | with_reducible apply State.followCeiling_keeps | with_reducible apply Keeps.ite
    | with_reducible apply KeepsOut.next | (with_reducible refine Keeps.setDev (by assumption) _)

theorem execEventSuppressed_keeps {s₀ s : State} {x0 x1 x2} (h : Keeps km s₀ s) : KeepsOut km s₀ (execEventSuppressed x0 x1 x2 s) := by
  unfold execEventSuppressed
  try lift_lets
  repeat' first
    | assumption | with_reducible apply State.closeWindow_keeps | with_reducible apply Keeps.ite
    | with_reducible apply KeepsOut.next | split

theorem doEventRead_keeps {s₀ s : State} {x0} (h : Keeps km s₀ s) : Keeps km s₀ (doEventRead x0 s).2 := by
  unfold doEventRead
  try lift_lets
  repeat' first
    | assumption | (intro x; subst x) | with_reducible apply Ctx.fields_keeps | with_reducible apply okWith_keeps
    | with_reducible apply Keeps.ite | (with_reducible refine Keeps.setMgmt (by assumption) _)

theorem execEventRead_keeps {s₀ s : State} {x0} (h : Keeps km s₀ s) : KeepsOut km s₀ (execEventRead x0 s) := by
  exact runCommand_keeps (fun _ _ ht => doEventRead_keeps ht) h

theorem State.clearCounters_keeps {s₀ s : State} {x1 x2 x3} (h : Keeps km s₀ s) : Keeps km s₀ (State.clearCounters s x1 x2 x3) := by
  unfold State.clearCounters
  try lift_lets
  repeat' first | (intro x; subst x) | (with_reducible refine Keeps.setMgmt (by assumption) _)

theorem doCounterRead_keeps {s₀ s : State} {x0} (h : Keeps km s₀ s) : Keeps km s₀ (doCounterRead x0 s).2 := by
  unfold doCounterRead
  try lift_lets
  repeat' first
    | assumption | (intro x; subst x) | with_reducible apply State.clearCounters_keeps | with_reducible apply refuseIf_keeps
    | with_reducible apply Ctx.fields_keeps | with_reducible apply okWith_keeps | with_reducible apply Keeps.ite

theorem execCounterRead_keeps {s₀ s : State} {x0} (h : Keeps km s₀ s) : KeepsOut km s₀ (execCounterRead x0 s) := by
  exact runCommand_keeps (fun _ _ ht => doCounterRead_keeps ht) h

theorem doSensorRead_keeps {s₀ s : State} {x0} (h : Keeps km s₀ s) : Keeps km s₀ (doSensorRead x0 s).2 := by
  unfold doSensorRead
  repeat' first | assumption | with_reducible apply Ctx.fields_keeps

theorem execSensorRead_keeps {s₀ s : State} {x0} (h : Keeps km s₀ s) : KeepsOut km s₀ (execSensorRead x0 s) := by
  exact runCommand_keeps (fun _ _ ht => doSensorRead_keeps ht) h

theorem doDeviceQuery_keeps {s₀ s : State} {x0} (h : Keeps km s₀ s) : Keeps km s₀ (doDeviceQuery x0 s).2 := by
  unfold doDeviceQuery
  repeat' first | assumption | with_reducible apply Ctx.fields_keeps

theorem execDeviceQuery_keeps {s₀ s : State} {x0} (h : Keeps km s₀ s) : KeepsOut km s₀ (execDeviceQuery x0 s) := by
  exact runCommand_keeps (fun _ _ ht => doDeviceQuery_keeps ht) h

end Sys2Proof.Machine
end

