-- ==== Sys2Proof/Laws/KeepsBoot.lean ====
section
/-! SUPPORT. What each operation keeps: resets, the module and boot. -/

set_option maxRecDepth 4000
set_option Elab.async false
set_option linter.unusedSimpArgs false

namespace Sys2Proof.Machine

variable {km : Bool}

theorem State.wipe_keeps {s₀ s : State} (h : Keeps false s₀ s) : Keeps false s₀ (State.wipe s) :=
  ⟨h.pending, fun i =>
    ⟨rfl, rfl, rfl, rfl, rfl, rfl, rfl, rfl, by
      have k := (h.intact i).domains
      simpa [State.wipe] using k⟩, nofun⟩

theorem State.beginBoot_keeps {s₀ s : State} {x1 x2} (h : Keeps km s₀ s) : Keeps km s₀ (State.beginBoot s x1 x2) := by
  unfold State.beginBoot
  try lift_lets
  repeat' first
    | (intro x; subst x)
    | (refine Keeps.set (t := ?tt) ?hh ?_ ?_ ?_ ?_ ?_ ?_ ?_ ?_ ?_ ?_; (case hh => exact (by assumption)); all_goals first | with_reducible rfl | (intro hm; with_reducible assumption))

theorem State.deviceReset_keeps {s₀ s : State} {x1} (h : Keeps false s₀ s) : Keeps false s₀ (State.deviceReset s x1) := by
  unfold State.deviceReset
  repeat' first | assumption | with_reducible apply State.beginBoot_keeps | with_reducible apply State.wipe_keeps

theorem State.undoItem_keeps {s₀ s : State} {x1} (h : Keeps false s₀ s) : Keeps false s₀ (State.undoItem s x1) := by
  unfold State.undoItem
  try lift_lets
  repeat' first
    | assumption | with_reducible apply State.commitEntry_keeps | with_reducible apply State.modBay_keeps
    | with_reducible apply Keeps.ite | split

theorem State.dropMoves_keeps {s₀ s : State} (h : Keeps false s₀ s) : Keeps false s₀ (State.dropMoves s) := by
  unfold State.dropMoves
  try lift_lets
  repeat' first
    | assumption
    | (intro x; (have hx : Keeps false s₀ x := by (subst x; repeat' first | (with_reducible refine Keeps.setDp (by assumption) _ ?_ ?_) | with_reducible rfl)); clear_value x)
    | (intro x; subst x) | with_reducible apply State.releaseRow_keeps
    | (with_reducible refine Keeps.foldl _ (fun t x ht => ?_) ?_)

theorem State.dropCommands_keeps {s₀ s : State} (h : Keeps false s₀ s) : Keeps false s₀ (State.dropCommands s) := by
  unfold State.dropCommands
  try lift_lets
  repeat' first
    | assumption
    | (intro x; (have hx : Keeps false s₀ x := by (subst x; repeat' first | assumption | with_reducible apply State.undoItem_keeps | with_reducible apply State.unprepare_keeps | (with_reducible refine Keeps.foldl _ (fun t x ht => ?_) ?_) | (refine Keeps.set (t := ?tt) ?hh ?_ ?_ ?_ ?_ ?_ ?_ ?_ ?_ ?_ ?_; (case hh => exact (by assumption)); all_goals first | with_reducible rfl | (intro hm; with_reducible assumption) | simp only [List.length_map, List.length_modify, List.length_set]))); clear_value x)
    | (intro x; subst x) | with_reducible apply State.dropMoves_keeps

theorem State.stewardReset_keeps {s₀ s : State} {x1} (h : Keeps false s₀ s) : Keeps false s₀ (State.stewardReset s x1) := by
  unfold State.stewardReset
  try lift_lets
  repeat' first
    | assumption
    | (intro x; (have hx : Keeps false s₀ x := by (subst x; repeat' first | assumption | with_reducible apply State.dropCommands_keeps | (refine Keeps.set (t := ?tt) ?hh ?_ ?_ ?_ ?_ ?_ ?_ ?_ ?_ ?_ ?_; (case hh => exact (by assumption)); all_goals first | with_reducible rfl | (intro hm; with_reducible assumption)))); clear_value x)
    | (intro x; subst x) | with_reducible apply State.raise_keeps

theorem execLanWdog_keeps {s₀ s : State} (h : Keeps km s₀ s) : KeepsOut km s₀ (execLanWdog s) := by
  unfold execLanWdog
  try lift_lets
  repeat' first
    | (intro x; subst x) | with_reducible apply KeepsOut.next | (with_reducible refine Keeps.setLan (by assumption) _ ?_)
    | with_reducible rfl

theorem execStewardWatchdog_keeps {s₀ s : State} (h : Keeps false s₀ s) : KeepsOut false s₀ (execStewardWatchdog s) := by
  unfold execStewardWatchdog
  repeat' first
    | assumption | with_reducible apply State.stewardReset_keeps | with_reducible apply Keeps.ite
    | with_reducible apply KeepsOut.next

theorem execStewardException_keeps {s₀ s : State} (h : Keeps false s₀ s) : KeepsOut false s₀ (execStewardException s) := by
  unfold execStewardException
  repeat' first
    | assumption | with_reducible apply State.stewardReset_keeps | with_reducible apply Keeps.ite
    | with_reducible apply KeepsOut.next

theorem execLanternFailsafe_keeps {s₀ s : State} (h : Keeps km s₀ s) : KeepsOut km s₀ (execLanternFailsafe s) := by
  unfold execLanternFailsafe
  try lift_lets
  repeat' first
    | assumption
    | (intro x; (have hx : Keeps km s₀ x := by (subst x; repeat' (refine Keeps.set (t := ?tt) ?hh ?_ ?_ ?_ ?_ ?_ ?_ ?_ ?_ ?_ ?_; (case hh => exact (by assumption)); all_goals first | with_reducible rfl | (intro hm; with_reducible assumption)))); clear_value x)
    | (intro x; subst x) | with_reducible apply State.raise_keeps | with_reducible apply Keeps.ite
    | with_reducible apply KeepsOut.next | split

theorem execFailsafeRetry_keeps {s₀ s : State} (h : Keeps false s₀ s) : KeepsOut false s₀ (execFailsafeRetry s) := by
  unfold execFailsafeRetry
  try lift_lets
  repeat' first
    | assumption | with_reducible apply State.stewardReset_keeps | with_reducible apply State.deviceReset_keeps
    | with_reducible apply Keeps.ite | with_reducible apply KeepsOut.next | split

theorem State.modFw_keeps {s₀ s : State} {x1 x2} (h : Keeps km s₀ s) : Keeps km s₀ (State.modFw s x1 x2) := by
  unfold State.modFw
  try lift_lets
  repeat' first | (intro x; subst x) | (with_reducible refine Keeps.setFlash (by assumption) _)

theorem State.tryslots_keeps {s₀ s : State} {x1 x2} (h : Keeps km s₀ s) : Keeps km s₀ (State.tryslots s x1 x2) := by
  induction x2 generalizing s with
  | nil => exact Keeps.setDev h _
  | cons a l ih =>
    unfold State.tryslots
    exact Keeps.ite (Keeps.setDev h _) (ih (Keeps.setDev (Keeps.ite (State.modFw_keeps h) (State.modFw_keeps h)) _))

theorem State.choose_keeps {s₀ s : State} {x1 x2} (h : Keeps km s₀ s) : Keeps km s₀ (State.choose s x1 x2) := by
  unfold State.choose
  try lift_lets
  repeat' first
    | assumption
    | (intro x; (have hx : Keeps km s₀ x := by (subst x; repeat' first | assumption | with_reducible apply Keeps.ite | (with_reducible refine Keeps.setFlash (by assumption) _))); clear_value x)
    | (intro x; subst x) | with_reducible apply State.tryslots_keeps

theorem State.enterRecovery_keeps {s₀ s : State} (h : Keeps false s₀ s) : Keeps false s₀ (State.enterRecovery s) := by
  unfold State.enterRecovery
  try lift_lets
  repeat' first
    | assumption
    | (intro x; (have hx : Keeps false s₀ x := by (subst x; repeat' first | assumption | with_reducible apply State.wipe_keeps | (with_reducible refine Keeps.setDev (by assumption) _))); clear_value x)
    | (intro x; subst x) | with_reducible apply State.console_keeps
    | (with_reducible refine Keeps.foldl _ (fun t x ht => ?_) ?_)

theorem execBootRom_keeps {s₀ s : State} {x0} (h : Keeps false s₀ s) : KeepsOut false s₀ (execBootRom x0 s) := by
  unfold execBootRom
  try lift_lets
  repeat' first
    | assumption
    | (intro x; (have hx : Keeps false s₀ x := by (subst x; repeat' first | assumption | with_reducible apply State.choose_keeps)); clear_value x)
    | (intro x; subst x) | with_reducible apply State.enterRecovery_keeps | with_reducible apply Keeps.ite
    | with_reducible apply KeepsOut.next | (with_reducible refine Keeps.setDev (by assumption) _)

theorem execTrialFailed_keeps {s₀ s : State} (h : Keeps false s₀ s) : KeepsOut false s₀ (execTrialFailed s) := by
  unfold execTrialFailed
  refine KeepsOut.next ?_
  split
  · exact h
  · refine Keeps.ite h ?_
    extract_lets -lift +onlyGivenNames back same s1
    have h1 : Keeps false s₀ s1 := State.modFw_keeps h
    clear_value s1
    extract_lets -lift +onlyGivenNames g s2
    have h2 : Keeps false s₀ s2 := Keeps.setDev h1 _
    clear_value s2
    extract_lets -lift +onlyGivenNames during cause
    exact Keeps.ite (Keeps.ite h2 (State.stewardReset_keeps h2)) (Keeps.setDev (State.deviceReset_keeps h2) _)

theorem State.raiseNotes_keeps {s₀ s : State} (h : Keeps km s₀ s) : Keeps km s₀ (State.raiseNotes s) := by
  unfold State.raiseNotes
  try lift_lets
  repeat' first
    | assumption | (intro x; subst x) | with_reducible apply State.raiseMore_keeps
    | (with_reducible refine Keeps.foldl _ (fun t x ht => ?_) ?_) | (with_reducible refine Keeps.setDev (by assumption) _)

theorem State.startTrial_keeps {s₀ s : State} (h : Keeps km s₀ s) : Keeps km s₀ (State.startTrial s) := by
  unfold State.startTrial
  try lift_lets
  repeat' first | (intro x; subst x) | with_reducible apply Keeps.ite | (with_reducible refine Keeps.setDev (by assumption) _)

theorem State.startParking_keeps {s₀ s : State} (h : Keeps km s₀ s) : Keeps km s₀ (State.startParking s) := by
  unfold State.startParking
  try lift_lets
  repeat' first
    | (intro x; subst x) | with_reducible apply State.drainOpen_keeps
    | (refine Keeps.set (t := ?tt) ?hh ?_ ?_ ?_ ?_ ?_ ?_ ?_ ?_ ?_ ?_; (case hh => exact (by assumption)); all_goals first | with_reducible rfl | (intro hm; with_reducible assumption))

theorem execStewardResume_keeps {s₀ s : State} (h : Keeps km s₀ s) : KeepsOut km s₀ (execStewardResume s) := by
  unfold execStewardResume
  try lift_lets
  repeat' first
    | assumption | (intro x; subst x) | with_reducible apply State.startParking_keeps
    | with_reducible apply State.startTrial_keeps | with_reducible apply State.raiseNotes_keeps
    | with_reducible apply State.driveFans_keeps | with_reducible apply State.raise_keeps
    | with_reducible apply State.flushBuffered_keeps | with_reducible apply Keeps.ite | with_reducible apply KeepsOut.next
    | (refine Keeps.set (t := ?tt) ?hh ?_ ?_ ?_ ?_ ?_ ?_ ?_ ?_ ?_ ?_; (case hh => exact (by assumption)); all_goals first | with_reducible rfl | (intro hm; with_reducible assumption))
    | split | dsimp only

theorem State.runPendingReset_keeps {s₀ s : State} (h : Keeps false s₀ s) : Keeps false s₀ (State.runPendingReset s) := by
  unfold State.runPendingReset
  try lift_lets
  repeat' first
    | assumption
    | (intro x; (have hx : Keeps false s₀ x := by (subst x; repeat' (with_reducible refine Keeps.setDev (by assumption) _))); clear_value x)
    | (intro x; subst x) | with_reducible apply State.stewardReset_keeps | with_reducible apply State.deviceReset_keeps
    | with_reducible apply Keeps.ite | split

theorem execPowerOnReset_keeps {s₀ s : State} {x0 x1 x2} (h : Keeps false s₀ s) : KeepsOut false s₀ (execPowerOnReset x0 x1 x2 s) :=
  KeepsOut.next ⟨h.pending, fun _ => ⟨rfl, rfl, rfl, rfl, rfl, rfl, rfl, rfl, rfl⟩, nofun⟩

theorem State.powerDown_keeps {s₀ s : State} {x1 x2} (h : Keeps false s₀ s) : Keeps false s₀ (State.powerDown s x1 x2) := by
  unfold State.powerDown
  try lift_lets
  repeat' first
    | (intro x; (have hx : Keeps false s₀ x := by (subst x; repeat' first | assumption | with_reducible apply State.wipe_keeps)); clear_value x)
    | (intro x; subst x)
    | (refine Keeps.set (t := ?tt) ?hh ?_ ?_ ?_ ?_ ?_ ?_ ?_ ?_ ?_ ?_; (case hh => exact (by assumption)); all_goals first | with_reducible rfl | (intro hm; with_reducible assumption))

theorem execMatedNDebounce_keeps {s₀ s : State} (h : Keeps km s₀ s) : KeepsOut km s₀ (execMatedNDebounce s) := by
  unfold execMatedNDebounce
  try lift_lets
  repeat' first
    | assumption
    | (intro x; (have hx : Keeps km s₀ x := by (subst x; repeat' (with_reducible refine Keeps.setBoard (by assumption) _))); clear_value x)
    | (intro x; subst x) | with_reducible apply Keeps.ite | with_reducible apply KeepsOut.next
    | (with_reducible refine Keeps.setDev (by assumption) _)

theorem execRampComplete_keeps {s₀ s : State} (h : Keeps km s₀ s) : KeepsOut km s₀ (execRampComplete s) := by
  unfold execRampComplete
  try lift_lets
  repeat' first
    | assumption | (intro x; subst x) | with_reducible apply Keeps.ite | with_reducible apply KeepsOut.next
    | (refine Keeps.set (t := ?tt) ?hh ?_ ?_ ?_ ?_ ?_ ?_ ?_ ?_ ?_ ?_; (case hh => exact (by assumption)); all_goals first | with_reducible rfl | (intro hm; with_reducible assumption))

theorem execRailPowerGood_keeps {s₀ s : State} {x0} (h : Keeps km s₀ s) : KeepsOut km s₀ (execRailPowerGood x0 s) := by
  unfold execRailPowerGood
  try lift_lets
  repeat' first
    | assumption | (intro x; subst x) | with_reducible apply Keeps.ite | with_reducible apply KeepsOut.next
    | with_reducible exact KeepsOut.fault _ _ | with_reducible apply KeepsOut.ite
    | (with_reducible refine Keeps.setBoard (by assumption) _)
    | (refine Keeps.set (t := ?tt) ?hh ?_ ?_ ?_ ?_ ?_ ?_ ?_ ?_ ?_ ?_; (case hh => exact (by assumption)); all_goals first | with_reducible rfl | (intro hm; with_reducible assumption))

theorem execRailDown_keeps {s₀ s : State} {x0} (h : Keeps km s₀ s) : KeepsOut km s₀ (execRailDown x0 s) := by
  unfold execRailDown
  try lift_lets
  repeat' first
    | assumption
    | (intro x; (have hx : Keeps km s₀ x := by (subst x; repeat' (with_reducible refine Keeps.setBoard (by assumption) _))); clear_value x)
    | (intro x; subst x) | with_reducible apply Keeps.ite | with_reducible apply KeepsOut.next
    | with_reducible exact KeepsOut.fault _ _ | with_reducible apply KeepsOut.ite
    | (with_reducible refine Keeps.setDev (by assumption) _)

theorem execHotswapFault_keeps {s₀ s : State} {x0} (h : Keeps false s₀ s) : KeepsOut false s₀ (execHotswapFault x0 s) := by
  unfold execHotswapFault
  try lift_lets
  repeat' first
    | assumption
    | (intro x; (have hx : Keeps false s₀ x := by (subst x; repeat' first | assumption | with_reducible apply State.powerDown_keeps)); clear_value x)
    | (intro x; subst x) | with_reducible apply State.raise_keeps | with_reducible apply Keeps.ite
    | with_reducible apply KeepsOut.next | with_reducible exact KeepsOut.fault _ _ | with_reducible apply KeepsOut.ite
    | (with_reducible refine Keeps.setBoard (by assumption) _)

theorem execModuleInputFault_keeps {s₀ s : State} {x0} (h : Keeps km s₀ s) : KeepsOut km s₀ (execModuleInputFault x0 s) := by
  unfold execModuleInputFault
  repeat' first
    | assumption | with_reducible apply State.raise_keeps | with_reducible apply Keeps.ite
    | with_reducible apply KeepsOut.next

theorem execStandbyLoss_keeps {s₀ s : State} (h : Keeps false s₀ s) : KeepsOut false s₀ (execStandbyLoss s) := by
  unfold execStandbyLoss
  try lift_lets
  repeat' first
    | (intro x; (have hx : Keeps false s₀ x := by (subst x; repeat' first | assumption | with_reducible apply State.powerDown_keeps)); clear_value x)
    | (intro x; subst x) | with_reducible apply KeepsOut.next
    | (refine Keeps.set (t := ?tt) ?hh ?_ ?_ ?_ ?_ ?_ ?_ ?_ ?_ ?_ ?_; (case hh => exact (by assumption)); all_goals first | with_reducible rfl | (intro hm; with_reducible assumption))

theorem execSurpriseRemoval_keeps {s₀ s : State} (h : Keeps false s₀ s) : KeepsOut false s₀ (execSurpriseRemoval s) := by
  unfold execSurpriseRemoval
  try lift_lets
  repeat' first
    | assumption
    | (intro x; (have hx : Keeps false s₀ x := by (subst x; repeat' (with_reducible refine Keeps.setBoard (by assumption) _))); clear_value x)
    | (intro x; subst x) | with_reducible apply State.powerDown_keeps | with_reducible apply Keeps.ite
    | with_reducible apply KeepsOut.next

theorem execModResetN_keeps {s₀ s : State} {x0} (h : Keeps false s₀ s) : KeepsOut false s₀ (execModResetN x0 s) := by
  unfold execModResetN
  try lift_lets
  repeat' first
    | assumption
    | (intro x; (have hx : Keeps false s₀ x := by (subst x; repeat' first | assumption | with_reducible apply State.powerDown_keeps | (with_reducible refine Keeps.setBoard (by assumption) _))); clear_value x)
    | (intro x; subst x) | with_reducible apply State.deviceReset_keeps | with_reducible apply Keeps.ite
    | with_reducible apply KeepsOut.next | (with_reducible refine Keeps.setDev (by assumption) _)
    | (with_reducible refine Keeps.setBoard (by assumption) _) | (with_reducible refine Keeps.setLan (by assumption) _ ?_)
    | with_reducible rfl | split

theorem execAttnN_keeps {s₀ s : State} (h : Keeps km s₀ s) : KeepsOut km s₀ (execAttnN s) := by
  unfold execAttnN
  try lift_lets
  repeat' first
    | assumption | (intro x; subst x) | with_reducible apply State.startParking_keeps | with_reducible apply Keeps.ite
    | with_reducible apply KeepsOut.next | (with_reducible refine Keeps.setBoard (by assumption) _) | split

theorem execParkWaitEnd_keeps {s₀ s : State} (h : Keeps false s₀ s) : KeepsOut false s₀ (execParkWaitEnd s) := by
  unfold execParkWaitEnd
  try lift_lets
  repeat' first
    | assumption
    | (intro x; (have hx : Keeps false s₀ x := by (subst x; repeat' first | assumption | with_reducible apply State.powerDown_keeps)); clear_value x)
    | (intro x; subst x) | with_reducible apply Keeps.ite | with_reducible apply KeepsOut.next
    | (with_reducible refine Keeps.setDev (by assumption) _)

theorem execPluggableInsertion_keeps {s₀ s : State} {x0 x1} (h : Keeps km s₀ s) : KeepsOut km s₀ (execPluggableInsertion x0 x1 s) := by
  unfold execPluggableInsertion
  try lift_lets
  repeat' first
    | assumption
    | (intro x; (have hx : Keeps km s₀ x := by (subst x; repeat' first | (with_reducible refine Keeps.setNet (by assumption) _ ?_) | simp only [List.length_map, List.length_modify, List.length_set])); clear_value x)
    | (intro x; subst x) | with_reducible apply State.portDown_keeps | with_reducible apply Keeps.ite
    | with_reducible apply KeepsOut.next | with_reducible exact KeepsOut.fault _ _ | with_reducible apply KeepsOut.ite

theorem State.reloadCrew_keeps {s₀ s : State} {x1} (h : Keeps false s₀ s) : Keeps false s₀ (State.reloadCrew s x1) := by
  unfold State.reloadCrew
  try lift_lets
  repeat' first
    | assumption | with_reducible apply State.write_keeps | (with_reducible refine Keeps.foldl _ (fun t x ht => ?_) ?_)
    | split

theorem execLogicOk_keeps {s₀ s : State} {x0} (h : Keeps false s₀ s) : KeepsOut false s₀ (execLogicOk x0 s) := by
  unfold execLogicOk
  refine KeepsOut.ite (KeepsOut.fault _ _) (KeepsOut.next ?_)
  split
  · refine Keeps.ite (State.deviceReset_keeps h) ?_
    extract_lets -lift +onlyGivenNames s1
    have h1 : Keeps false s₀ s1 := State.modDomain_keeps h
    clear_value s1
    exact Keeps.ite (State.reloadCrew_keeps h1) (Keeps.ite (State.portAwake_keeps h1) h1)
  · exact h

theorem State.bootLine_keeps {s₀ s : State} {x1} (h : Keeps km s₀ s) : Keeps km s₀ (State.bootLine s x1) := by
  unfold State.bootLine
  repeat' first | assumption | with_reducible apply State.console_keeps

theorem State.failBoot_keeps {s₀ s : State} (h : Keeps km s₀ s) : Keeps km s₀ (State.failBoot s) := by
  unfold State.failBoot
  try lift_lets
  repeat' first | (intro x; subst x) | (with_reducible refine Keeps.setDev (by assumption) _)

theorem State.loadRecords_keeps {s₀ s : State} (h : Keeps km s₀ s) : Keeps km s₀ (State.loadRecords s) := by
  unfold State.loadRecords
  try lift_lets
  repeat' first
    | (intro x; (have hx : Keeps km s₀ x := by (subst x; repeat' first | assumption | with_reducible apply State.modSub_keeps | with_reducible apply State.modDomain_keeps | (with_reducible refine Keeps.foldl _ (fun t x ht => ?_) ?_))); clear_value x)
    | (intro x; subst x) | (with_reducible refine Keeps.setNet (by assumption) _ ?_) | with_reducible rfl

theorem State.trainSilos_keeps {s₀ s : State} {x1 x2 x3} (h : Keeps km s₀ s) : Keeps km s₀ (State.trainSilos s x1 x2 x3) := by
  unfold State.trainSilos
  try lift_lets
  repeat' first
    | assumption
    | (intro x; (have hx : Keeps km s₀ x := by (subst x; repeat' first | assumption | with_reducible apply State.raise_keeps | (with_reducible refine Keeps.foldl _ (fun t x ht => ?_) ?_) | (with_reducible refine Keeps.setFlash (by assumption) _) | (with_reducible refine Keeps.setMemsys (by assumption) _ ?_ ?_) | with_reducible rfl | (guard_target =~ _ = _; simp; done))); clear_value x)
    | (intro x; subst x) | with_reducible apply State.failBoot_keeps | with_reducible apply State.raise_keeps
    | (with_reducible refine Keeps.foldl _ (fun t x ht => ?_) ?_)

theorem State.trainLoft_keeps {s₀ s : State} {x1 x2} (h : Keeps km s₀ s) : Keeps km s₀ (State.trainLoft s x1 x2) := by
  unfold State.trainLoft
  try lift_lets
  repeat' first
    | assumption
    | (intro x; (have hx : Keeps km s₀ x := by (subst x; repeat' first | assumption | (intro y; subst y) | with_reducible apply State.newLabel_keeps | with_reducible apply State.raise_keeps | with_reducible apply State.modLoft_keeps | with_reducible apply Keeps.ite | with_reducible refine Keeps.of_snd ?_ (by assumption) | split | dsimp only)); clear_value x)
    | (intro x; (have hx : Keeps km s₀ x.2 := by (subst x; repeat' first | assumption | (intro y; subst y) | with_reducible apply State.newLabel_keeps | with_reducible apply State.raise_keeps | with_reducible apply State.modLoft_keeps | with_reducible apply Keeps.ite | with_reducible refine Keeps.of_snd ?_ (by assumption) | split | dsimp only)); clear_value x)
    | (intro x; subst x)
    | with_reducible apply State.newLabel_keeps
    | with_reducible apply State.raise_keeps
    | with_reducible apply State.modLoft_keeps
    | with_reducible apply Keeps.ite
    | with_reducible refine Keeps.of_snd ?_ (by assumption)
    | split
    | dsimp only

theorem execBootPhase_keeps {s₀ s : State} {x0} (h : Keeps false s₀ s) : KeepsOut false s₀ (execBootPhase x0 s) := by
  have hd (x : Dev) : Keeps false s₀ { s with dev := x } := Keeps.setDev h x
  unfold execBootPhase
  refine KeepsOut.next (Keeps.ite h ?_)
  split
  · exact State.bootLine_keeps (State.raiseNotes_keeps (State.flushBuffered_keeps (hd _)))
  · next e v _ =>
    have h1 : Keeps false s₀ (({ s with dev.boot := .domains, ident.variant := if e then v % 2 else s.ident.variant } : State).loadRecords) :=
      State.loadRecords_keeps (Keeps.set h rfl rfl rfl rfl rfl rfl rfl rfl rfl rfl)
    exact State.bootLine_keeps (Keeps.ite h1 (State.failBoot_keeps h1))
  · exact State.bootLine_keeps (hd _)
  · exact State.bootLine_keeps (State.trainSilos_keeps (hd _))
  · exact State.bootLine_keeps (Keeps.setWithMem h rfl (fun _ => rfl) rfl rfl rfl rfl rfl rfl rfl rfl)
  · exact State.bootLine_keeps (Keeps.ite (hd _) (State.failBoot_keeps (State.raise_keeps (hd _))))
  · exact State.bootLine_keeps (Keeps.foldl _ (fun _ _ q => State.trainLoft_keeps q) (hd _))
  · exact h

theorem State.zeroedAgain_keeps {s₀ s : State} (h : Keeps km s₀ s) : Keeps km s₀ (State.zeroedAgain s) := by
  unfold State.zeroedAgain
  try lift_lets
  repeat' first
    | assumption
    | (intro x; (have hx : Keeps km s₀ x := by (subst x; repeat' first | assumption | (intro y; subst y) | with_reducible apply State.raise_keeps | (with_reducible refine Keeps.foldl _ (fun t x ht => ?_) ?_) | (with_reducible refine Keeps.foldl_snd _ (fun t x ht => ?_) ?_) | (with_reducible refine Keeps.setFlash (by assumption) _) | with_reducible rfl | simp only [List.length_map, List.length_modify, List.length_set, List.length_mapIdx] | dsimp only)); clear_value x)
    | (intro x; subst x)
    | with_reducible apply State.raise_keeps
    | (with_reducible refine Keeps.foldl _ (fun t x ht => ?_) ?_)
    | (with_reducible refine Keeps.foldl_snd _ (fun t x ht => ?_) ?_)
    | (with_reducible refine Keeps.setFlash (by assumption) _)
    | with_reducible rfl
    | simp only [List.length_map, List.length_modify, List.length_set, List.length_mapIdx]
    | dsimp only

theorem execBootComplete_keeps {s₀ s : State} (h : Keeps km s₀ s) : KeepsOut km s₀ (execBootComplete s) := by
  unfold execBootComplete
  refine KeepsOut.next (Keeps.ite h ?_)
  have h1 : Keeps km s₀ { s with
      dev.phase := .running, dev.windowStart := s.dev.now, dev.readyAt := s.dev.now
      mgmt.high := List.replicate 12 none
      memsys.silos := s.memsys.silos.map fun x => { x with scrubFrom := s.dev.now }
      lan.held := false, lan.failsafe := false, lan.resets := 0, lan.wdogAt := s.dev.now } :=
    Keeps.set h rfl rfl rfl rfl rfl (List.length_map ..) rfl rfl rfl rfl
  revert h1
  generalize ({ s with
      dev.phase := .running, dev.windowStart := s.dev.now, dev.readyAt := s.dev.now
      mgmt.high := List.replicate 12 none
      memsys.silos := s.memsys.silos.map fun x => { x with scrubFrom := s.dev.now }
      lan.held := false, lan.failsafe := false, lan.resets := 0, lan.wdogAt := s.dev.now } : State) = s1
  intro h1
  extract_lets -lift +onlyGivenNames kept s1' s2 s3
  have h3 : Keeps km s₀ s3 := State.console_keeps (State.raise_keeps h1)
  clear_value s3
  extract_lets -lift +onlyGivenNames s4
  have h4 : Keeps km s₀ s4 := Keeps.foldl _ (fun _ _ q => State.console_keeps q) h3
  clear_value s4
  extract_lets -lift +onlyGivenNames s5
  have h5 : Keeps km s₀ s5 := State.zeroedAgain_keeps (State.driveFans_keeps (State.startTrial_keeps (State.startAnnounce_keeps h4)))
  clear_value s5
  extract_lets -lift +onlyGivenNames s6
  have h6 : Keeps km s₀ s6 := Keeps.ite (State.goFatal_keeps h5) h5
  clear_value s6
  exact Keeps.ite (State.startParking_keeps h6) h6

theorem execLoftUnitZeroed_keeps {s₀ s : State} {x0} (h : Keeps km s₀ s) : KeepsOut km s₀ (execLoftUnitZeroed x0 s) :=
  KeepsOut.ite (KeepsOut.fault _ _) (KeepsOut.next (Keeps.ite h (State.zeroedAgain_keeps (Keeps.setFlash h _))))

theorem execTrialConfirmed_keeps {s₀ s : State} (h : Keeps km s₀ s) : KeepsOut km s₀ (execTrialConfirmed s) := by
  unfold execTrialConfirmed
  try lift_lets
  repeat' first
    | assumption | (intro x; subst x) | with_reducible apply State.raise_keeps | with_reducible apply Keeps.ite
    | with_reducible apply KeepsOut.next
    | (refine Keeps.set (t := ?tt) ?hh ?_ ?_ ?_ ?_ ?_ ?_ ?_ ?_ ?_ ?_; (case hh => exact (by assumption)); all_goals first | with_reducible rfl | (intro hm; with_reducible assumption))
    | split | dsimp only

theorem State.setUpload_keeps {s₀ s : State} {x1 x2 x3} (h : Keeps km s₀ s) : Keeps km s₀ (State.setUpload s x1 x2 x3) := by
  unfold State.setUpload
  try lift_lets
  repeat' first
    | assumption | (intro x; subst x) | with_reducible apply State.modSession_keeps | with_reducible apply Keeps.ite
    | (with_reducible refine Keeps.setMgmt (by assumption) _)

theorem State.stageImage_keeps {s₀ s : State} {x1 x2} (h : Keeps km s₀ s) : Keeps km s₀ (State.stageImage s x1 x2).2 := by
  unfold State.stageImage
  try lift_lets
  repeat' first
    | assumption | (intro x; subst x) | with_reducible apply State.modFw_keeps | with_reducible apply okWith_keeps
    | with_reducible apply fail_keeps | with_reducible apply State.raise_keeps | with_reducible apply Keeps.ite_snd

theorem doFwStage_keeps {s₀ s : State} {x0} (h : Keeps km s₀ s) : Keeps km s₀ (doFwStage x0 s).2 := by
  unfold doFwStage
  try lift_lets
  repeat' first
    | assumption
    | (intro x; (have hx : Keeps km s₀ x := by (subst x; repeat' first | assumption | with_reducible apply State.modFw_keeps | with_reducible apply Keeps.ite)); clear_value x)
    | (intro x; subst x) | with_reducible apply State.stageImage_keeps | with_reducible apply State.setUpload_keeps
    | with_reducible apply refuseIf_keeps | with_reducible apply Ctx.fields_keeps | with_reducible apply okWith_keeps
    | with_reducible apply fail_keeps | with_reducible apply Keeps.ite_snd | split

theorem execFwStage_keeps {s₀ s : State} {x0} (h : Keeps km s₀ s) : KeepsOut km s₀ (execFwStage x0 s) := by
  exact runCommand_keeps (fun _ _ ht => doFwStage_keeps ht) h

theorem State.activate_keeps {s₀ s : State} {x1 x2} (h : Keeps km s₀ s) : Keeps km s₀ (State.activate s x1 x2) := by
  unfold State.activate
  try lift_lets
  repeat' first
    | (intro x; (have hx : Keeps km s₀ x := by (subst x; repeat' first | assumption | with_reducible apply State.modFw_keeps)); clear_value x)
    | (intro x; subst x)
    | (refine Keeps.set (t := ?tt) ?hh ?_ ?_ ?_ ?_ ?_ ?_ ?_ ?_ ?_ ?_; (case hh => exact (by assumption)); all_goals first | with_reducible rfl | (intro hm; with_reducible assumption))

theorem doFwActivate_keeps {s₀ s : State} {x0} (h : Keeps km s₀ s) : Keeps km s₀ (doFwActivate x0 s).2 := by
  unfold doFwActivate
  try lift_lets
  repeat' first
    | assumption | (intro x; subst x) | with_reducible apply State.activate_keeps | with_reducible apply refuseIf_keeps
    | with_reducible apply Ctx.fields_keeps | with_reducible apply okWith_keeps

theorem execFwActivate_keeps {s₀ s : State} {x0} (h : Keeps km s₀ s) : KeepsOut km s₀ (execFwActivate x0 s) := by
  unfold execFwActivate
  repeat' first
    | assumption | with_reducible apply doFwActivate_keeps | with_reducible apply runCommand_keeps
    | (guard_target =~ ∀ _, _; intro _)

theorem doFwQuery_keeps {s₀ s : State} {x0} (h : Keeps km s₀ s) : Keeps km s₀ (doFwQuery x0 s).2 := by
  unfold doFwQuery
  try lift_lets
  repeat' first | assumption | with_reducible apply Ctx.fields_keeps

theorem execFwQuery_keeps {s₀ s : State} {x0} (h : Keeps km s₀ s) : KeepsOut km s₀ (execFwQuery x0 s) := by
  unfold execFwQuery
  repeat' first
    | assumption | with_reducible apply doFwQuery_keeps | with_reducible apply runCommand_keeps
    | (guard_target =~ ∀ _, _; intro _)

theorem doFwRollback_keeps {s₀ s : State} {x0} (h : Keeps km s₀ s) : Keeps km s₀ (doFwRollback x0 s).2 := by
  unfold doFwRollback
  try lift_lets
  repeat' first
    | assumption | with_reducible apply State.activate_keeps | with_reducible apply refuseIf_keeps
    | with_reducible apply Ctx.fields_keeps | with_reducible apply okWith_keeps | split

theorem execFwRollback_keeps {s₀ s : State} {x0} (h : Keeps km s₀ s) : KeepsOut km s₀ (execFwRollback x0 s) := by
  unfold execFwRollback
  repeat' first
    | assumption | with_reducible apply doFwRollback_keeps | with_reducible apply runCommand_keeps
    | (guard_target =~ ∀ _, _; intro _)

theorem doSelftestRun_keeps {s₀ s : State} {x0} (h : Keeps km s₀ s) : Keeps km s₀ (doSelftestRun x0 s).2 := by
  unfold doSelftestRun
  try lift_lets
  repeat' first
    | assumption | (intro x; subst x) | with_reducible apply refuseIf_keeps | with_reducible apply Ctx.fields_keeps
    | with_reducible apply okWith_keeps | (with_reducible refine Keeps.setMgmt (by assumption) _)

theorem execSelftestRun_keeps {s₀ s : State} {x0} (h : Keeps km s₀ s) : KeepsOut km s₀ (execSelftestRun x0 s) := by
  unfold execSelftestRun
  repeat' first
    | assumption | with_reducible apply doSelftestRun_keeps | with_reducible apply runCommand_keeps
    | (guard_target =~ ∀ _, _; intro _)

theorem doSelftestResult_keeps {s₀ s : State} {x0} (h : Keeps km s₀ s) : Keeps km s₀ (doSelftestResult x0 s).2 := by
  unfold doSelftestResult
  try lift_lets
  repeat' first | assumption | (intro x; subst x) | with_reducible apply Ctx.fields_keeps | split

theorem execSelftestResult_keeps {s₀ s : State} {x0} (h : Keeps km s₀ s) : KeepsOut km s₀ (execSelftestResult x0 s) := by
  unfold execSelftestResult
  repeat' first
    | assumption | with_reducible apply doSelftestResult_keeps | with_reducible apply runCommand_keeps
    | (guard_target =~ ∀ _, _; intro _)

theorem execSelftestDone_keeps {s₀ s : State} {x0 x1 x2} (h : Keeps km s₀ s) : KeepsOut km s₀ (execSelftestDone x0 x1 x2 s) := by
  unfold execSelftestDone
  try lift_lets
  repeat' first
    | assumption | (intro x; subst x) | with_reducible apply State.raise_keeps | with_reducible apply Keeps.ite
    | with_reducible apply KeepsOut.next | (with_reducible refine Keeps.setMgmt (by assumption) _) | split

theorem doMarginRun_keeps {s₀ s : State} {x0} (h : Keeps km s₀ s) : Keeps km s₀ (doMarginRun x0 s).2 := by
  unfold doMarginRun
  try lift_lets
  repeat' first
    | assumption | (intro x; subst x) | with_reducible apply refuseIf_keeps | with_reducible apply Ctx.fields_keeps
    | with_reducible apply okWith_keeps | (with_reducible refine Keeps.setMgmt (by assumption) _)

theorem execMarginRun_keeps {s₀ s : State} {x0} (h : Keeps km s₀ s) : KeepsOut km s₀ (execMarginRun x0 s) := by
  unfold execMarginRun
  repeat' first
    | assumption | with_reducible apply doMarginRun_keeps | with_reducible apply runCommand_keeps
    | (guard_target =~ ∀ _, _; intro _)

theorem doMarginResult_keeps {s₀ s : State} {x0} (h : Keeps km s₀ s) : Keeps km s₀ (doMarginResult x0 s).2 := by
  unfold doMarginResult
  try lift_lets
  repeat' first | assumption | (intro x; subst x) | with_reducible apply Ctx.fields_keeps | split

theorem execMarginResult_keeps {s₀ s : State} {x0} (h : Keeps km s₀ s) : KeepsOut km s₀ (execMarginResult x0 s) := by
  unfold execMarginResult
  repeat' first
    | assumption | with_reducible apply doMarginResult_keeps | with_reducible apply runCommand_keeps
    | (guard_target =~ ∀ _, _; intro _)

theorem execMarginDone_keeps {s₀ s : State} {x0 x1} (h : Keeps km s₀ s) : KeepsOut km s₀ (execMarginDone x0 x1 s) := by
  unfold execMarginDone
  try lift_lets
  repeat' first
    | assumption | (intro x; subst x) | with_reducible apply KeepsOut.next
    | (with_reducible refine Keeps.setMgmt (by assumption) _) | split

theorem doDeviceReset_keeps {s₀ s : State} {x0} (h : Keeps km s₀ s) : Keeps km s₀ (doDeviceReset x0 s).2 := by
  unfold doDeviceReset
  try lift_lets
  repeat' first
    | assumption | (intro x; subst x) | with_reducible apply Ctx.fields_keeps | with_reducible apply okWith_keeps
    | (with_reducible refine Keeps.setDev (by assumption) _)

theorem execDeviceReset_keeps {s₀ s : State} {x0} (h : Keeps km s₀ s) : KeepsOut km s₀ (execDeviceReset x0 s) := by
  unfold execDeviceReset
  repeat' first
    | assumption | with_reducible apply doDeviceReset_keeps | with_reducible apply runCommand_keeps
    | (guard_target =~ ∀ _, _; intro _)

theorem doAdminRekey_keeps {s₀ s : State} {x0} (h : Keeps km s₀ s) : Keeps km s₀ (doAdminRekey x0 s).2 := by
  unfold doAdminRekey
  try lift_lets
  repeat' first
    | assumption
    | (intro x; (have hx : Keeps km s₀ x := by (subst x; repeat' first | with_reducible apply State.raise_keeps | (with_reducible refine Keeps.setFlash (by assumption) _))); clear_value x)
    | (intro x; subst x) | with_reducible apply State.endSession_keeps | with_reducible apply Ctx.fields_keeps
    | with_reducible apply okWith_keeps | (with_reducible refine Keeps.foldl _ (fun t x ht => ?_) ?_)

theorem execAdminRekey_keeps {s₀ s : State} {x0} (h : Keeps km s₀ s) : KeepsOut km s₀ (execAdminRekey x0 s) := by
  exact runCommand_keeps (fun _ _ ht => doAdminRekey_keeps ht) h

end Sys2Proof.Machine
end

