-- ==== Sys2Proof/Laws/KeepsLife.lean ====
section
/-! SUPPORT. What each operation keeps: bay life, arriving commands and the clock. -/

set_option maxRecDepth 4000
set_option Elab.async false
set_option linter.unusedSimpArgs false

namespace Sys2Proof.Machine

variable {km : Bool}

theorem State.zeroCharge_keeps {s₀ s : State} {x1 x2 x3} (h : Keeps km s₀ s) : Keeps km s₀ (State.zeroCharge s x1 x2 x3) := by
  unfold State.zeroCharge
  try lift_lets
  repeat' first
    | assumption
    | with_reducible apply State.chargeFor_keeps
    | with_reducible apply Keeps.ite
    | split

theorem State.zeroSiloPages_keeps {s₀ s : State} {x1 x2 x3} (h : Keeps km s₀ s) : Keeps km s₀ (State.zeroSiloPages s x1 x2 x3) := by
  unfold State.zeroSiloPages
  try lift_lets
  repeat' first
    | assumption
    | (intro x; (have hx : Keeps km s₀ x := by (subst x; repeat' first | assumption | (intro y; subst y) | with_reducible apply State.modLife_keeps | with_reducible apply State.zeroCharge_keeps | with_reducible apply State.count_keeps | with_reducible apply Keeps.ite | split | dsimp only)); clear_value x)
    | (intro x; subst x)
    | with_reducible apply State.modLife_keeps
    | with_reducible apply State.zeroCharge_keeps
    | with_reducible apply State.count_keeps
    | with_reducible apply Keeps.ite
    | split
    | dsimp only

theorem State.zeroLoftGranules_keeps {s₀ s : State} {x1 x2 x3} (h : Keeps km s₀ s) : Keeps km s₀ (State.zeroLoftGranules s x1 x2 x3) := by
  unfold State.zeroLoftGranules
  try lift_lets
  repeat' first
    | assumption
    | (intro x; (have hx : Keeps km s₀ x := by (subst x; repeat' first | assumption | (intro y; subst y) | with_reducible apply State.modLife_keeps | with_reducible apply State.zeroCharge_keeps | with_reducible apply State.count_keeps | with_reducible apply Keeps.ite | split | dsimp only)); clear_value x)
    | (intro x; subst x)
    | with_reducible apply State.modLife_keeps
    | with_reducible apply State.zeroCharge_keeps
    | with_reducible apply State.count_keeps
    | with_reducible apply Keeps.ite
    | split
    | dsimp only

theorem State.zeroWindow_keeps {s₀ s : State} {x1 x2} (h : Keeps km s₀ s) : Keeps km s₀ (State.zeroWindow s x1 x2) :=
  Keeps.ite h (Keeps.foldl _ (fun _ _ q => State.zeroLoftGranules_keeps q) (Keeps.foldl _ (fun _ _ q => State.zeroSiloPages_keeps q) h))

theorem State.zeroAll_keeps {s₀ s : State} {x1} (h : Keeps km s₀ s) : Keeps km s₀ (State.zeroAll s x1) :=
  Keeps.foldl _ (fun _ _ q => State.zeroWindow_keeps q) h

theorem State.countWindow_keeps {s₀ s : State} (h : Keeps km s₀ s) : Keeps km s₀ (State.countWindow s) := by
  unfold State.countWindow
  try lift_lets
  repeat' first
    | assumption
    | (intro x; (have hx : Keeps km s₀ x := by (subst x; repeat' first | assumption | with_reducible apply State.count_keeps | (with_reducible refine Keeps.foldl _ (fun t x ht => ?_) ?_))); clear_value x)
    | with_reducible apply State.count_keeps | (with_reducible refine Keeps.foldl _ (fun t x ht => ?_) ?_) | split

theorem State.goOn_keeps {s₀ s : State} (h : Keeps false s₀ s) : Keeps false s₀ (State.goOn s) :=
  State.portsGoOn_keeps (State.serveIntake_keeps (State.serveIncoming_keeps (State.pump_keeps h)))

theorem State.takeDevloads_keeps {s₀ s : State} (h : Keeps km s₀ s) : Keeps km s₀ (State.takeDevloads s) := by
  unfold State.takeDevloads
  try lift_lets
  repeat' first
    | assumption | with_reducible apply State.setDevload_keeps | (with_reducible refine Keeps.foldl _ (fun t x ht => ?_) ?_)
    | split

theorem execWindowBoundary_keeps {s₀ s : State} (h : Keeps false s₀ s) : KeepsOut false s₀ (execWindowBoundary s) := by
  unfold execWindowBoundary
  refine KeepsOut.next (Keeps.ite h ?_)
  extract_lets -lift +onlyGivenNames s1
  have h1 : Keeps false s₀ s1 := State.countWindow_keeps (State.zeroAll_keeps (State.goOn_keeps h))
  clear_value s1
  refine State.goOn_keeps (State.tetherRun_keeps (State.zeroAll_keeps
    (State.switchCclk_keeps (State.takeDevloads_keeps (Keeps.foldl _ (fun _ _ q => State.takeStep_keeps q) ?_)))))
  exact Keeps.set h1 rfl rfl (List.length_map ..) rfl rfl rfl rfl rfl rfl rfl

theorem State.endDrain_keeps {s₀ s : State} {x1} (h : Keeps km s₀ s) : Keeps km s₀ (State.endDrain s x1) := by
  unfold State.endDrain
  try lift_lets
  repeat' first
    | assumption
    | (intro x; (have hx : Keeps km s₀ x := by (subst x; repeat' first | assumption | with_reducible apply State.modLife_keeps)); clear_value x)
    | (intro x; subst x) | with_reducible apply State.enterZeroing_keeps | with_reducible apply Keeps.ite

theorem State.dropLookups_keeps {s₀ s : State} {x1} (h : Keeps km s₀ s) : Keeps km s₀ (State.dropLookups s x1) := by
  unfold State.dropLookups
  try lift_lets
  repeat' first
    | (with_reducible refine Keeps.setDp (by assumption) _ ?_ ?_)
    | simp only [List.length_map, List.length_modify, List.length_set, List.length_mapIdx]

theorem execDrainEnd_keeps {s₀ s : State} {x0} (h : Keeps km s₀ s) : KeepsOut km s₀ (execDrainEnd x0 s) := by
  unfold execDrainEnd
  repeat' first
    | assumption | with_reducible apply State.endDrain_keeps | with_reducible apply Keeps.ite
    | with_reducible apply KeepsOut.next | with_reducible exact KeepsOut.fault _ _ | with_reducible apply KeepsOut.ite

theorem execDrainTimeout_keeps {s₀ s : State} {x0} (h : Keeps km s₀ s) : KeepsOut km s₀ (execDrainTimeout x0 s) := by
  unfold execDrainTimeout
  try lift_lets
  repeat' first
    | with_reducible apply State.dropSheafs_keeps | with_reducible apply State.dropLookups_keeps
    | with_reducible apply State.raise_keeps | with_reducible apply State.endDrain_keeps
    | (with_reducible refine Keeps.setFab (by assumption) _ ?_) | with_reducible rfl | with_reducible apply KeepsOut.next
    | with_reducible exact KeepsOut.fault _ _ | split

theorem State.eraseBay_keeps {s₀ s : State} {x1} (h : Keeps false s₀ s) : Keeps false s₀ (State.eraseBay s x1) := by
  unfold State.eraseBay
  extract_lets -lift +onlyGivenNames areas crews spans
  refine Keeps.setWithMem h rfl (fun hm => ?_) rfl rfl rfl rfl rfl rfl rfl rfl
  dsimp only
  generalize s.mem = m at hm
  clear_value spans
  induction spans generalizing m with
  | nil => exact hm
  | cons a l ih => exact ih _ (memClear_wf hm _ _)

theorem execZeroisationEnd_keeps {s₀ s : State} {x0} (h : Keeps false s₀ s) : KeepsOut false s₀ (execZeroisationEnd x0 s) := by
  unfold execZeroisationEnd
  try lift_lets
  repeat' first
    | assumption
    | (intro x; (have hx : Keeps false s₀ x := by (subst x; repeat' first | assumption | with_reducible apply State.eraseBay_keeps | (refine Keeps.set (t := ?tt) ?hh ?_ ?_ ?_ ?_ ?_ ?_ ?_ ?_ ?_ ?_; (case hh => exact (by assumption)); all_goals first | with_reducible rfl | (intro hm; with_reducible assumption) | simp only [List.length_map, List.length_modify, List.length_set]))); clear_value x)
    | (intro x; subst x) | with_reducible apply State.raise_keeps | with_reducible apply State.withdrawVotes_keeps
    | with_reducible apply Keeps.ite | with_reducible apply KeepsOut.next | with_reducible exact KeepsOut.fault _ _
    | with_reducible apply KeepsOut.ite

theorem State.enqueue_keeps {s₀ s : State} {x1} (h : Keeps km s₀ s) : Keeps km s₀ (State.enqueue s x1) := by
  unfold State.enqueue
  try lift_lets
  repeat' first
    | (intro x; subst x) | with_reducible apply State.wakeDomain_keeps
    | (with_reducible refine Keeps.setNet (by assumption) _ ?_) | with_reducible rfl

theorem State.takeIn_keeps {s₀ s : State} {x1} (h : Keeps false s₀ s) : KeepsOpt false s₀ (State.takeIn s x1) := by
  unfold State.takeIn
  try lift_lets
  repeat' first
    | assumption | (intro x; subst x) | with_reducible apply State.enqueue_keeps | with_reducible apply State.lookupIn_keeps
    | with_reducible apply State.queueMessage_keeps | with_reducible apply State.wicketBusy_keeps
    | with_reducible apply State.fabricSegment_keeps | with_reducible apply State.repeated_keeps
    | with_reducible apply State.countMalformed_keeps | with_reducible apply State.countDiscard_keeps
    | with_reducible apply State.respond_keeps | with_reducible apply Keeps.ite | with_reducible exact KeepsOpt.none _
    | with_reducible apply KeepsOpt.some | with_reducible apply KeepsOpt.ite
    | with_reducible refine Keeps.of_opt ?_ (by assumption) | split

theorem execVcpDatagram_keeps {s₀ s : State} {x0 x1 x2 x3 x4 x5} (h : Keeps false s₀ s) : KeepsOut false s₀ (execVcpDatagram x0 x1 x2 x3 x4 x5 s) := by
  unfold execVcpDatagram
  try lift_lets
  repeat' first
    | assumption
    | (intro x; (have hx : Keeps false s₀ x := by (subst x; repeat' first | assumption | with_reducible apply State.count_keeps)); clear_value x)
    | (intro x; subst x) | with_reducible apply State.takeIn_keeps | with_reducible apply State.countDiscard_keeps
    | with_reducible apply State.respond_keeps | with_reducible apply Keeps.ite | with_reducible apply KeepsOut.next
    | with_reducible exact KeepsOut.fault _ _ | with_reducible apply KeepsOut.ite | with_reducible apply Keeps.getD

theorem execVcpSend_keeps {s₀ s : State} {x0 x1} (h : Keeps false s₀ s) : KeepsOut false s₀ (execVcpSend x0 x1 s) := by
  unfold execVcpSend
  try lift_lets
  repeat' first
    | assumption | with_reducible apply State.takeIn_keeps | with_reducible apply State.received_keeps
    | with_reducible apply State.sendNak_keeps | with_reducible apply KeepsOut.next | with_reducible apply Keeps.getD | split

theorem execMailboxTake_keeps {s₀ s : State} {x0} (h : Keeps false s₀ s) : KeepsOut false s₀ (execMailboxTake x0 s) := by
  unfold execMailboxTake
  try lift_lets
  repeat' first
    | assumption | with_reducible apply State.takeIn_keeps | with_reducible apply State.modBox_keeps
    | with_reducible apply KeepsOut.next | with_reducible exact KeepsOut.fault _ _ | with_reducible apply KeepsOut.ite
    | with_reducible apply Keeps.getD | split | dsimp only

theorem State.badMtwReq_keeps {s₀ s : State} (h : Keeps km s₀ s) : Keeps km s₀ (State.badMtwReq s) := by
  unfold State.badMtwReq
  repeat' first | assumption | with_reducible apply State.count_keeps

theorem State.mtwSubmit_keeps {s₀ s : State} {x1} (h : Keeps false s₀ s) : Keeps false s₀ (State.mtwSubmit s x1) := by
  unfold State.mtwSubmit
  try lift_lets
  repeat' first
    | assumption
    | (intro x; (have hx : Keeps false s₀ x := by (subst x; repeat' (with_reducible refine Keeps.setMgmt (by assumption) _))); clear_value x)
    | (intro x; subst x) | with_reducible apply State.takeIn_keeps | with_reducible apply Keeps.ite
    | with_reducible apply Keeps.getD | (with_reducible refine Keeps.setMgmt (by assumption) _)

theorem execMtwReq_keeps {s₀ s : State} {x0 x1} (h : Keeps false s₀ s) : KeepsOut false s₀ (execMtwReq x0 x1 s) := by
  unfold execMtwReq
  refine KeepsOut.next (Keeps.ite h ?_)
  split
  · next e => exact Keeps.of_snd (State.mtwBegin_keeps h) e
  · next e =>
    have h1 := Keeps.of_snd (State.mtwBegin_keeps h) e
    refine Keeps.ite h1 ?_
    extract_lets -lift +onlyGivenNames g1 g2 s2
    have h2 : Keeps false s₀ s2 := Keeps.setMgmt h1 _
    clear_value s2
    refine Keeps.ite (State.badMtwReq_keeps (State.ackMtw_keeps h2)) ?_
    split
    · next e => exact Keeps.of_snd (State.mtwData_keeps h2) e
    · next e =>
      have h3 := Keeps.of_snd (State.mtwData_keeps h2) e
      exact Keeps.ite (State.badMtwReq_keeps h3) (State.mtwSubmit_keeps h3)

theorem State.tick_keeps {s₀ s : State} (h : Keeps false s₀ s) : Keeps false s₀ (State.tick s) :=
  Keeps.ite h (State.runPendingReset_keeps (State.goOn_keeps (State.runCommits_keeps (State.spanTimeouts_keeps
    (State.restartIdle_keeps (Keeps.setDev h _))))))

theorem State.updateReport_keeps {s₀ s : State} {x1 x2 x3} (h : Keeps km s₀ s) : Keeps km s₀ (State.updateReport s x1 x2 x3) := by
  unfold State.updateReport
  try lift_lets
  repeat' first
    | assumption
    | with_reducible apply State.siloBad_keeps
    | with_reducible apply State.reportBad_keeps
    | (with_reducible refine Keeps.foldl _ (fun t x ht => ?_) ?_)
    | (with_reducible refine Keeps.foldl_snd _ (fun t x ht => ?_) ?_)
    | split
    | dsimp only

theorem State.updateChaff_keeps {s₀ s : State} {x1 x2 x3} (h : Keeps km s₀ s) : Keeps km s₀ (State.updateChaff s x1 x2 x3) := by
  unfold State.updateChaff
  try lift_lets
  repeat' first
    | assumption
    | with_reducible apply State.chaffRow_keeps
    | split
    | dsimp only

theorem State.updateFailed_keeps {s₀ s : State} {x1 x2} (h : Keeps km s₀ s) : Keeps km s₀ (State.updateFailed s x1 x2) := by
  unfold State.updateFailed
  split
  · exact h
  · refine State.opDone_keeps (State.raise_keeps (State.modTable_keeps ?_))
    split
    · exact State.updateChaff_keeps (Keeps.ite h (State.updateReport_keeps h))
    · exact h

theorem State.updateAccess_keeps {s₀ s : State} {x1 x2 x3 x4 x5} (h : Keeps km s₀ s) : Keeps km s₀ (State.updateAccess s x1 x2 x3 x4 x5) := by
  unfold State.updateAccess
  split
  · exact h
  · exact Keeps.foldl _ (fun _ _ q => State.chargeAccess_keeps q) (State.access_keeps h)

theorem State.updateRead_keeps {s₀ s : State} {x1 x2 x3 x4} (h : Keeps km s₀ s) : Keeps km s₀ (State.updateRead s x1 x2 x3 x4) := by
  unfold State.updateRead
  try lift_lets
  repeat' first
    | assumption | with_reducible apply State.chargeEntry_keeps | with_reducible apply State.updateAccess_keeps | split

theorem execFlailReadDone_keeps {s₀ s : State} {x0 x1} (h : Keeps false s₀ s) : KeepsOut false s₀ (execFlailReadDone x0 x1 s) := by
  unfold execFlailReadDone
  try lift_lets
  repeat' first
    | assumption | with_reducible apply State.opDone_keeps | with_reducible apply State.releaseRow_keeps
    | with_reducible apply State.hotPoll_keeps | with_reducible apply State.updateFailed_keeps
    | with_reducible apply State.updateRead_keeps | with_reducible apply State.putFlail_keeps
    | with_reducible apply Keeps.ite | with_reducible apply KeepsOut.next | with_reducible exact KeepsOut.fault _ _ | split

theorem State.commitUpdate_keeps {s₀ s : State} {x1 x2 x3 x4 x5 x6} (h : Keeps false s₀ s) :
    Keeps false s₀ (State.commitUpdate s x1 x2 x3 x4 x5 x6) := by
  unfold State.commitUpdate
  split
  · exact h
  · extract_lets -lift +onlyGivenNames s1 s2 s3 s4
    have h1 : Keeps false s₀ s1 := State.updateAccess_keeps (State.setRow_keeps h)
    clear_value s1
    have h2 : Keeps false s₀ s2 := State.writeGranules_keeps h1
    clear_value s2
    have h3 : Keeps false s₀ s3 := State.modTable_keeps h2
    clear_value s3
    have h4 : Keeps false s₀ s4 := State.countSat_keeps h3
    clear_value s4
    split
    · exact State.snoopDefault_keeps h4
    · extract_lets -lift +onlyGivenNames s5 s6
      have h5 : Keeps false s₀ s5 := State.writeCopies_keeps h4
      clear_value s5
      have h6 : Keeps false s₀ s6 := by
        subst s6
        split
        · exact State.chargeEntry_keeps (State.setEntry_keeps h5)
        · exact h5
      clear_value s6
      exact State.snoop_keeps (State.dropStaged_keeps h6)

theorem execFlailWriteDone_keeps {s₀ s : State} {x0 x1} (h : Keeps false s₀ s) : KeepsOut false s₀ (execFlailWriteDone x0 x1 s) := by
  unfold execFlailWriteDone
  refine KeepsOut.ite (KeepsOut.fault _ _) (KeepsOut.next ?_)
  split
  · exact h
  · split
    · extract_lets -lift +onlyGivenNames done
      have hd (t : State) (ht : Keeps false s₀ t) : Keeps false s₀ (done t) := State.hotPoll_keeps (State.releaseRow_keeps ht)
      clear_value done
      split
      · exact hd _ (State.opDone_keeps h)
      · refine Keeps.ite (hd _ (State.updateFailed_keeps h)) ?_
        extract_lets -lift +onlyGivenNames s1
        exact Keeps.ite h (hd _ (State.opDone_keeps (State.commitUpdate_keeps h)))
    · exact h

theorem State.withFetchWord_keeps {s₀ s : State} {x1 x2} (h : Keeps km s₀ s) : Keeps km s₀ (State.withFetchWord s x1 x2) := by
  unfold State.withFetchWord
  try lift_lets
  repeat' assumption

end Sys2Proof.Machine
end

