-- ==== Sys2Proof/Laws/State.lean ====
section
/-! SUPPORT. What each update of State leaves as it is, field by field, and what it makes of the field it sets: all true by
unfolding, so that no later proof has to look into an update. -/

set_option Elab.async false

set_option linter.unusedVariables false

namespace Sys2Proof.Machine

/-! State.write -/

@[simp] theorem State.write_pending (s : State) {a owner die addr data} : (s.write a owner die addr data).pending = s.pending := rfl

@[simp] theorem State.write_out (s : State) {a owner die addr data} : (s.write a owner die addr data).out = s.out := rfl

@[simp] theorem State.write_freeCount (s : State) {a owner die addr data} : (s.write a owner die addr data).freeCount = s.freeCount := rfl

@[simp] theorem State.write_poison (s : State) {a owner die addr data} : (s.write a owner die addr data).poison = s.poison := rfl

@[simp] theorem State.write_dev (s : State) {a owner die addr data} : (s.write a owner die addr data).dev = s.dev := rfl

@[simp] theorem State.write_board (s : State) {a owner die addr data} : (s.write a owner die addr data).board = s.board := rfl

@[simp] theorem State.write_ident (s : State) {a owner die addr data} : (s.write a owner die addr data).ident = s.ident := rfl

@[simp] theorem State.write_lan (s : State) {a owner die addr data} : (s.write a owner die addr data).lan = s.lan := rfl

@[simp] theorem State.write_flash (s : State) {a owner die addr data} : (s.write a owner die addr data).flash = s.flash := rfl

@[simp] theorem State.write_mgmt (s : State) {a owner die addr data} : (s.write a owner die addr data).mgmt = s.mgmt := rfl

@[simp] theorem State.write_bays (s : State) {a owner die addr data} : (s.write a owner die addr data).bays = s.bays := rfl

@[simp] theorem State.write_memsys (s : State) {a owner die addr data} : (s.write a owner die addr data).memsys = s.memsys := rfl

@[simp] theorem State.write_net (s : State) {a owner die addr data} : (s.write a owner die addr data).net = s.net := rfl

@[simp] theorem State.write_tth (s : State) {a owner die addr data} : (s.write a owner die addr data).tth = s.tth := rfl

@[simp] theorem State.write_fab (s : State) {a owner die addr data} : (s.write a owner die addr data).fab = s.fab := rfl

@[simp] theorem State.write_dp (s : State) {a owner die addr data} : (s.write a owner die addr data).dp = s.dp := rfl

@[simp] theorem State.write_mem (s : State) {a owner die addr data} : (s.write a owner die addr data).mem = memSets s.mem (memKey a owner die addr) data := rfl

/-! State.heal -/

@[simp] theorem State.heal_pending (s : State) {a owner die g n} : (s.heal a owner die g n).pending = s.pending := rfl

@[simp] theorem State.heal_out (s : State) {a owner die g n} : (s.heal a owner die g n).out = s.out := rfl

@[simp] theorem State.heal_freeCount (s : State) {a owner die g n} : (s.heal a owner die g n).freeCount = s.freeCount := rfl

@[simp] theorem State.heal_mem (s : State) {a owner die g n} : (s.heal a owner die g n).mem = s.mem := rfl

@[simp] theorem State.heal_dev (s : State) {a owner die g n} : (s.heal a owner die g n).dev = s.dev := rfl

@[simp] theorem State.heal_board (s : State) {a owner die g n} : (s.heal a owner die g n).board = s.board := rfl

@[simp] theorem State.heal_ident (s : State) {a owner die g n} : (s.heal a owner die g n).ident = s.ident := rfl

@[simp] theorem State.heal_lan (s : State) {a owner die g n} : (s.heal a owner die g n).lan = s.lan := rfl

@[simp] theorem State.heal_flash (s : State) {a owner die g n} : (s.heal a owner die g n).flash = s.flash := rfl

@[simp] theorem State.heal_mgmt (s : State) {a owner die g n} : (s.heal a owner die g n).mgmt = s.mgmt := rfl

@[simp] theorem State.heal_bays (s : State) {a owner die g n} : (s.heal a owner die g n).bays = s.bays := rfl

@[simp] theorem State.heal_net (s : State) {a owner die g n} : (s.heal a owner die g n).net = s.net := rfl

@[simp] theorem State.heal_tth (s : State) {a owner die g n} : (s.heal a owner die g n).tth = s.tth := rfl

@[simp] theorem State.heal_fab (s : State) {a owner die g n} : (s.heal a owner die g n).fab = s.fab := rfl

@[simp] theorem State.heal_dp (s : State) {a owner die g n} : (s.heal a owner die g n).dp = s.dp := rfl

/-! State.addPoison -/

@[simp] theorem State.addPoison_pending (s : State) {a owner die g} : (s.addPoison a owner die g).pending = s.pending := rfl

@[simp] theorem State.addPoison_out (s : State) {a owner die g} : (s.addPoison a owner die g).out = s.out := rfl

@[simp] theorem State.addPoison_freeCount (s : State) {a owner die g} : (s.addPoison a owner die g).freeCount = s.freeCount := rfl

@[simp] theorem State.addPoison_mem (s : State) {a owner die g} : (s.addPoison a owner die g).mem = s.mem := rfl

@[simp] theorem State.addPoison_dev (s : State) {a owner die g} : (s.addPoison a owner die g).dev = s.dev := rfl

@[simp] theorem State.addPoison_board (s : State) {a owner die g} : (s.addPoison a owner die g).board = s.board := rfl

@[simp] theorem State.addPoison_ident (s : State) {a owner die g} : (s.addPoison a owner die g).ident = s.ident := rfl

@[simp] theorem State.addPoison_lan (s : State) {a owner die g} : (s.addPoison a owner die g).lan = s.lan := rfl

@[simp] theorem State.addPoison_flash (s : State) {a owner die g} : (s.addPoison a owner die g).flash = s.flash := rfl

@[simp] theorem State.addPoison_mgmt (s : State) {a owner die g} : (s.addPoison a owner die g).mgmt = s.mgmt := rfl

@[simp] theorem State.addPoison_bays (s : State) {a owner die g} : (s.addPoison a owner die g).bays = s.bays := rfl

@[simp] theorem State.addPoison_memsys (s : State) {a owner die g} : (s.addPoison a owner die g).memsys = s.memsys := rfl

@[simp] theorem State.addPoison_net (s : State) {a owner die g} : (s.addPoison a owner die g).net = s.net := rfl

@[simp] theorem State.addPoison_tth (s : State) {a owner die g} : (s.addPoison a owner die g).tth = s.tth := rfl

@[simp] theorem State.addPoison_fab (s : State) {a owner die g} : (s.addPoison a owner die g).fab = s.fab := rfl

@[simp] theorem State.addPoison_dp (s : State) {a owner die g} : (s.addPoison a owner die g).dp = s.dp := rfl

@[simp] theorem State.addPoison_poison (s : State) {a owner die g} : (s.addPoison a owner die g).poison = (granuleKey a owner die g :: s.poison.filter (· != granuleKey a owner die g)) := rfl

/-! State.emit -/

@[simp] theorem State.emit_pending (s : State) {o} : (s.emit o).pending = s.pending := rfl

@[simp] theorem State.emit_freeCount (s : State) {o} : (s.emit o).freeCount = s.freeCount := rfl

@[simp] theorem State.emit_mem (s : State) {o} : (s.emit o).mem = s.mem := rfl

@[simp] theorem State.emit_poison (s : State) {o} : (s.emit o).poison = s.poison := rfl

@[simp] theorem State.emit_dev (s : State) {o} : (s.emit o).dev = s.dev := rfl

@[simp] theorem State.emit_board (s : State) {o} : (s.emit o).board = s.board := rfl

@[simp] theorem State.emit_ident (s : State) {o} : (s.emit o).ident = s.ident := rfl

@[simp] theorem State.emit_lan (s : State) {o} : (s.emit o).lan = s.lan := rfl

@[simp] theorem State.emit_flash (s : State) {o} : (s.emit o).flash = s.flash := rfl

@[simp] theorem State.emit_mgmt (s : State) {o} : (s.emit o).mgmt = s.mgmt := rfl

@[simp] theorem State.emit_bays (s : State) {o} : (s.emit o).bays = s.bays := rfl

@[simp] theorem State.emit_memsys (s : State) {o} : (s.emit o).memsys = s.memsys := rfl

@[simp] theorem State.emit_net (s : State) {o} : (s.emit o).net = s.net := rfl

@[simp] theorem State.emit_tth (s : State) {o} : (s.emit o).tth = s.tth := rfl

@[simp] theorem State.emit_fab (s : State) {o} : (s.emit o).fab = s.fab := rfl

@[simp] theorem State.emit_dp (s : State) {o} : (s.emit o).dp = s.dp := rfl

@[simp] theorem State.emit_out (s : State) {o} : (s.emit o).out = o :: s.out := rfl

/-! State.emits -/

@[simp] theorem State.emits_pending (s : State) {l} : (s.emits l).pending = s.pending := rfl

@[simp] theorem State.emits_freeCount (s : State) {l} : (s.emits l).freeCount = s.freeCount := rfl

@[simp] theorem State.emits_mem (s : State) {l} : (s.emits l).mem = s.mem := rfl

@[simp] theorem State.emits_poison (s : State) {l} : (s.emits l).poison = s.poison := rfl

@[simp] theorem State.emits_dev (s : State) {l} : (s.emits l).dev = s.dev := rfl

@[simp] theorem State.emits_board (s : State) {l} : (s.emits l).board = s.board := rfl

@[simp] theorem State.emits_ident (s : State) {l} : (s.emits l).ident = s.ident := rfl

@[simp] theorem State.emits_lan (s : State) {l} : (s.emits l).lan = s.lan := rfl

@[simp] theorem State.emits_flash (s : State) {l} : (s.emits l).flash = s.flash := rfl

@[simp] theorem State.emits_mgmt (s : State) {l} : (s.emits l).mgmt = s.mgmt := rfl

@[simp] theorem State.emits_bays (s : State) {l} : (s.emits l).bays = s.bays := rfl

@[simp] theorem State.emits_memsys (s : State) {l} : (s.emits l).memsys = s.memsys := rfl

@[simp] theorem State.emits_net (s : State) {l} : (s.emits l).net = s.net := rfl

@[simp] theorem State.emits_tth (s : State) {l} : (s.emits l).tth = s.tth := rfl

@[simp] theorem State.emits_fab (s : State) {l} : (s.emits l).fab = s.fab := rfl

@[simp] theorem State.emits_dp (s : State) {l} : (s.emits l).dp = s.dp := rfl

@[simp] theorem State.emits_out (s : State) {l} : (s.emits l).out = l.reverse ++ s.out := rfl

/-! State.modBay -/

@[simp] theorem State.modBay_pending (s : State) {b f} : (s.modBay b f).pending = s.pending := rfl

@[simp] theorem State.modBay_out (s : State) {b f} : (s.modBay b f).out = s.out := rfl

@[simp] theorem State.modBay_freeCount (s : State) {b f} : (s.modBay b f).freeCount = s.freeCount := rfl

@[simp] theorem State.modBay_mem (s : State) {b f} : (s.modBay b f).mem = s.mem := rfl

@[simp] theorem State.modBay_poison (s : State) {b f} : (s.modBay b f).poison = s.poison := rfl

@[simp] theorem State.modBay_dev (s : State) {b f} : (s.modBay b f).dev = s.dev := rfl

@[simp] theorem State.modBay_board (s : State) {b f} : (s.modBay b f).board = s.board := rfl

@[simp] theorem State.modBay_ident (s : State) {b f} : (s.modBay b f).ident = s.ident := rfl

@[simp] theorem State.modBay_lan (s : State) {b f} : (s.modBay b f).lan = s.lan := rfl

@[simp] theorem State.modBay_flash (s : State) {b f} : (s.modBay b f).flash = s.flash := rfl

@[simp] theorem State.modBay_mgmt (s : State) {b f} : (s.modBay b f).mgmt = s.mgmt := rfl

@[simp] theorem State.modBay_memsys (s : State) {b f} : (s.modBay b f).memsys = s.memsys := rfl

@[simp] theorem State.modBay_net (s : State) {b f} : (s.modBay b f).net = s.net := rfl

@[simp] theorem State.modBay_tth (s : State) {b f} : (s.modBay b f).tth = s.tth := rfl

@[simp] theorem State.modBay_fab (s : State) {b f} : (s.modBay b f).fab = s.fab := rfl

@[simp] theorem State.modBay_dp (s : State) {b f} : (s.modBay b f).dp = s.dp := rfl

@[simp] theorem State.modBay_bays (s : State) {b f} : (s.modBay b f).bays = s.bays.modify b f := rfl

/-! State.modDomain -/

@[simp] theorem State.modDomain_pending (s : State) {i f} : (s.modDomain i f).pending = s.pending := rfl

@[simp] theorem State.modDomain_out (s : State) {i f} : (s.modDomain i f).out = s.out := rfl

@[simp] theorem State.modDomain_freeCount (s : State) {i f} : (s.modDomain i f).freeCount = s.freeCount := rfl

@[simp] theorem State.modDomain_mem (s : State) {i f} : (s.modDomain i f).mem = s.mem := rfl

@[simp] theorem State.modDomain_poison (s : State) {i f} : (s.modDomain i f).poison = s.poison := rfl

@[simp] theorem State.modDomain_dev (s : State) {i f} : (s.modDomain i f).dev = s.dev := rfl

@[simp] theorem State.modDomain_board (s : State) {i f} : (s.modDomain i f).board = s.board := rfl

@[simp] theorem State.modDomain_ident (s : State) {i f} : (s.modDomain i f).ident = s.ident := rfl

@[simp] theorem State.modDomain_flash (s : State) {i f} : (s.modDomain i f).flash = s.flash := rfl

@[simp] theorem State.modDomain_mgmt (s : State) {i f} : (s.modDomain i f).mgmt = s.mgmt := rfl

@[simp] theorem State.modDomain_bays (s : State) {i f} : (s.modDomain i f).bays = s.bays := rfl

@[simp] theorem State.modDomain_memsys (s : State) {i f} : (s.modDomain i f).memsys = s.memsys := rfl

@[simp] theorem State.modDomain_net (s : State) {i f} : (s.modDomain i f).net = s.net := rfl

@[simp] theorem State.modDomain_tth (s : State) {i f} : (s.modDomain i f).tth = s.tth := rfl

@[simp] theorem State.modDomain_fab (s : State) {i f} : (s.modDomain i f).fab = s.fab := rfl

@[simp] theorem State.modDomain_dp (s : State) {i f} : (s.modDomain i f).dp = s.dp := rfl

@[simp] theorem State.modDomain_lan (s : State) {i f} : (s.modDomain i f).lan = { s.lan with domains := s.lan.domains.modify i f } := rfl

/-! State.withdrawVotes -/

@[simp] theorem State.withdrawVotes_pending (s : State) {v} : (s.withdrawVotes v).pending = s.pending := rfl

@[simp] theorem State.withdrawVotes_out (s : State) {v} : (s.withdrawVotes v).out = s.out := rfl

@[simp] theorem State.withdrawVotes_freeCount (s : State) {v} : (s.withdrawVotes v).freeCount = s.freeCount := rfl

@[simp] theorem State.withdrawVotes_mem (s : State) {v} : (s.withdrawVotes v).mem = s.mem := rfl

@[simp] theorem State.withdrawVotes_poison (s : State) {v} : (s.withdrawVotes v).poison = s.poison := rfl

@[simp] theorem State.withdrawVotes_dev (s : State) {v} : (s.withdrawVotes v).dev = s.dev := rfl

@[simp] theorem State.withdrawVotes_board (s : State) {v} : (s.withdrawVotes v).board = s.board := rfl

@[simp] theorem State.withdrawVotes_ident (s : State) {v} : (s.withdrawVotes v).ident = s.ident := rfl

@[simp] theorem State.withdrawVotes_flash (s : State) {v} : (s.withdrawVotes v).flash = s.flash := rfl

@[simp] theorem State.withdrawVotes_mgmt (s : State) {v} : (s.withdrawVotes v).mgmt = s.mgmt := rfl

@[simp] theorem State.withdrawVotes_bays (s : State) {v} : (s.withdrawVotes v).bays = s.bays := rfl

@[simp] theorem State.withdrawVotes_memsys (s : State) {v} : (s.withdrawVotes v).memsys = s.memsys := rfl

@[simp] theorem State.withdrawVotes_net (s : State) {v} : (s.withdrawVotes v).net = s.net := rfl

@[simp] theorem State.withdrawVotes_tth (s : State) {v} : (s.withdrawVotes v).tth = s.tth := rfl

@[simp] theorem State.withdrawVotes_fab (s : State) {v} : (s.withdrawVotes v).fab = s.fab := rfl

@[simp] theorem State.withdrawVotes_dp (s : State) {v} : (s.withdrawVotes v).dp = s.dp := rfl

@[simp] theorem State.withdrawVotes_lan (s : State) {v} : (s.withdrawVotes v).lan = { s.lan with domains := s.lan.domains.map fun d => { d with votes := dropVote d.votes v } } := rfl

/-! State.putSession -/

@[simp] theorem State.putSession_pending (s : State) {x} : (s.putSession x).pending = s.pending := rfl

@[simp] theorem State.putSession_out (s : State) {x} : (s.putSession x).out = s.out := rfl

@[simp] theorem State.putSession_freeCount (s : State) {x} : (s.putSession x).freeCount = s.freeCount := rfl

@[simp] theorem State.putSession_mem (s : State) {x} : (s.putSession x).mem = s.mem := rfl

@[simp] theorem State.putSession_poison (s : State) {x} : (s.putSession x).poison = s.poison := rfl

@[simp] theorem State.putSession_dev (s : State) {x} : (s.putSession x).dev = s.dev := rfl

@[simp] theorem State.putSession_board (s : State) {x} : (s.putSession x).board = s.board := rfl

@[simp] theorem State.putSession_ident (s : State) {x} : (s.putSession x).ident = s.ident := rfl

@[simp] theorem State.putSession_lan (s : State) {x} : (s.putSession x).lan = s.lan := rfl

@[simp] theorem State.putSession_flash (s : State) {x} : (s.putSession x).flash = s.flash := rfl

@[simp] theorem State.putSession_mgmt (s : State) {x} : (s.putSession x).mgmt = s.mgmt := rfl

@[simp] theorem State.putSession_bays (s : State) {x} : (s.putSession x).bays = s.bays := rfl

@[simp] theorem State.putSession_memsys (s : State) {x} : (s.putSession x).memsys = s.memsys := rfl

@[simp] theorem State.putSession_tth (s : State) {x} : (s.putSession x).tth = s.tth := rfl

@[simp] theorem State.putSession_fab (s : State) {x} : (s.putSession x).fab = s.fab := rfl

@[simp] theorem State.putSession_dp (s : State) {x} : (s.putSession x).dp = s.dp := rfl

@[simp] theorem State.putSession_net (s : State) {x} : (s.putSession x).net = { s.net with sessions := putKey Session.handle x s.net.sessions } := rfl

/-! State.modSession -/

@[simp] theorem State.modSession_pending (s : State) {h f} : (s.modSession h f).pending = s.pending := rfl

@[simp] theorem State.modSession_out (s : State) {h f} : (s.modSession h f).out = s.out := rfl

@[simp] theorem State.modSession_freeCount (s : State) {h f} : (s.modSession h f).freeCount = s.freeCount := rfl

@[simp] theorem State.modSession_mem (s : State) {h f} : (s.modSession h f).mem = s.mem := rfl

@[simp] theorem State.modSession_poison (s : State) {h f} : (s.modSession h f).poison = s.poison := rfl

@[simp] theorem State.modSession_dev (s : State) {h f} : (s.modSession h f).dev = s.dev := rfl

@[simp] theorem State.modSession_board (s : State) {h f} : (s.modSession h f).board = s.board := rfl

@[simp] theorem State.modSession_ident (s : State) {h f} : (s.modSession h f).ident = s.ident := rfl

@[simp] theorem State.modSession_lan (s : State) {h f} : (s.modSession h f).lan = s.lan := rfl

@[simp] theorem State.modSession_flash (s : State) {h f} : (s.modSession h f).flash = s.flash := rfl

@[simp] theorem State.modSession_mgmt (s : State) {h f} : (s.modSession h f).mgmt = s.mgmt := rfl

@[simp] theorem State.modSession_bays (s : State) {h f} : (s.modSession h f).bays = s.bays := rfl

@[simp] theorem State.modSession_memsys (s : State) {h f} : (s.modSession h f).memsys = s.memsys := rfl

@[simp] theorem State.modSession_tth (s : State) {h f} : (s.modSession h f).tth = s.tth := rfl

@[simp] theorem State.modSession_fab (s : State) {h f} : (s.modSession h f).fab = s.fab := rfl

@[simp] theorem State.modSession_dp (s : State) {h f} : (s.modSession h f).dp = s.dp := rfl

@[simp] theorem State.modSession_net (s : State) {h f} : (s.modSession h f).net = { s.net with sessions := s.net.sessions.map fun x => if x.handle = h then f x else x } := rfl

/-! State.modQp -/

@[simp] theorem State.modQp_pending (s : State) {n f} : (s.modQp n f).pending = s.pending := rfl

@[simp] theorem State.modQp_out (s : State) {n f} : (s.modQp n f).out = s.out := rfl

@[simp] theorem State.modQp_freeCount (s : State) {n f} : (s.modQp n f).freeCount = s.freeCount := rfl

@[simp] theorem State.modQp_mem (s : State) {n f} : (s.modQp n f).mem = s.mem := rfl

@[simp] theorem State.modQp_poison (s : State) {n f} : (s.modQp n f).poison = s.poison := rfl

@[simp] theorem State.modQp_dev (s : State) {n f} : (s.modQp n f).dev = s.dev := rfl

@[simp] theorem State.modQp_board (s : State) {n f} : (s.modQp n f).board = s.board := rfl

@[simp] theorem State.modQp_ident (s : State) {n f} : (s.modQp n f).ident = s.ident := rfl

@[simp] theorem State.modQp_lan (s : State) {n f} : (s.modQp n f).lan = s.lan := rfl

@[simp] theorem State.modQp_flash (s : State) {n f} : (s.modQp n f).flash = s.flash := rfl

@[simp] theorem State.modQp_mgmt (s : State) {n f} : (s.modQp n f).mgmt = s.mgmt := rfl

@[simp] theorem State.modQp_bays (s : State) {n f} : (s.modQp n f).bays = s.bays := rfl

@[simp] theorem State.modQp_memsys (s : State) {n f} : (s.modQp n f).memsys = s.memsys := rfl

@[simp] theorem State.modQp_tth (s : State) {n f} : (s.modQp n f).tth = s.tth := rfl

@[simp] theorem State.modQp_fab (s : State) {n f} : (s.modQp n f).fab = s.fab := rfl

@[simp] theorem State.modQp_dp (s : State) {n f} : (s.modQp n f).dp = s.dp := rfl

@[simp] theorem State.modQp_net (s : State) {n f} : (s.modQp n f).net = { s.net with qps := s.net.qps.map fun q => if q.qpn = n then f q else q } := rfl

/-! State.modBox -/

@[simp] theorem State.modBox_pending (s : State) {m f} : (s.modBox m f).pending = s.pending := rfl

@[simp] theorem State.modBox_out (s : State) {m f} : (s.modBox m f).out = s.out := rfl

@[simp] theorem State.modBox_freeCount (s : State) {m f} : (s.modBox m f).freeCount = s.freeCount := rfl

@[simp] theorem State.modBox_mem (s : State) {m f} : (s.modBox m f).mem = s.mem := rfl

@[simp] theorem State.modBox_poison (s : State) {m f} : (s.modBox m f).poison = s.poison := rfl

@[simp] theorem State.modBox_dev (s : State) {m f} : (s.modBox m f).dev = s.dev := rfl

@[simp] theorem State.modBox_board (s : State) {m f} : (s.modBox m f).board = s.board := rfl

@[simp] theorem State.modBox_ident (s : State) {m f} : (s.modBox m f).ident = s.ident := rfl

@[simp] theorem State.modBox_lan (s : State) {m f} : (s.modBox m f).lan = s.lan := rfl

@[simp] theorem State.modBox_flash (s : State) {m f} : (s.modBox m f).flash = s.flash := rfl

@[simp] theorem State.modBox_mgmt (s : State) {m f} : (s.modBox m f).mgmt = s.mgmt := rfl

@[simp] theorem State.modBox_bays (s : State) {m f} : (s.modBox m f).bays = s.bays := rfl

@[simp] theorem State.modBox_memsys (s : State) {m f} : (s.modBox m f).memsys = s.memsys := rfl

@[simp] theorem State.modBox_net (s : State) {m f} : (s.modBox m f).net = s.net := rfl

@[simp] theorem State.modBox_fab (s : State) {m f} : (s.modBox m f).fab = s.fab := rfl

@[simp] theorem State.modBox_dp (s : State) {m f} : (s.modBox m f).dp = s.dp := rfl

@[simp] theorem State.modBox_tth (s : State) {m f} : (s.modBox m f).tth = { s.tth with boxes := s.tth.boxes.modify m f } := rfl

/-! State.drainOpen -/

@[simp] theorem State.drainOpen_pending (s : State) : (s.drainOpen).pending = s.pending := rfl

@[simp] theorem State.drainOpen_out (s : State) : (s.drainOpen).out = s.out := rfl

@[simp] theorem State.drainOpen_freeCount (s : State) : (s.drainOpen).freeCount = s.freeCount := rfl

@[simp] theorem State.drainOpen_mem (s : State) : (s.drainOpen).mem = s.mem := rfl

@[simp] theorem State.drainOpen_poison (s : State) : (s.drainOpen).poison = s.poison := rfl

@[simp] theorem State.drainOpen_dev (s : State) : (s.drainOpen).dev = s.dev := rfl

@[simp] theorem State.drainOpen_board (s : State) : (s.drainOpen).board = s.board := rfl

@[simp] theorem State.drainOpen_ident (s : State) : (s.drainOpen).ident = s.ident := rfl

@[simp] theorem State.drainOpen_flash (s : State) : (s.drainOpen).flash = s.flash := rfl

@[simp] theorem State.drainOpen_mgmt (s : State) : (s.drainOpen).mgmt = s.mgmt := rfl

@[simp] theorem State.drainOpen_memsys (s : State) : (s.drainOpen).memsys = s.memsys := rfl

@[simp] theorem State.drainOpen_net (s : State) : (s.drainOpen).net = s.net := rfl

@[simp] theorem State.drainOpen_tth (s : State) : (s.drainOpen).tth = s.tth := rfl

@[simp] theorem State.drainOpen_fab (s : State) : (s.drainOpen).fab = s.fab := rfl

@[simp] theorem State.drainOpen_dp (s : State) : (s.drainOpen).dp = s.dp := rfl

/-! State.modSub -/

@[simp] theorem State.modSub_pending (s : State) {port sub f} : (s.modSub port sub f).pending = s.pending := rfl

@[simp] theorem State.modSub_out (s : State) {port sub f} : (s.modSub port sub f).out = s.out := rfl

@[simp] theorem State.modSub_freeCount (s : State) {port sub f} : (s.modSub port sub f).freeCount = s.freeCount := rfl

@[simp] theorem State.modSub_mem (s : State) {port sub f} : (s.modSub port sub f).mem = s.mem := rfl

@[simp] theorem State.modSub_poison (s : State) {port sub f} : (s.modSub port sub f).poison = s.poison := rfl

@[simp] theorem State.modSub_dev (s : State) {port sub f} : (s.modSub port sub f).dev = s.dev := rfl

@[simp] theorem State.modSub_board (s : State) {port sub f} : (s.modSub port sub f).board = s.board := rfl

@[simp] theorem State.modSub_ident (s : State) {port sub f} : (s.modSub port sub f).ident = s.ident := rfl

@[simp] theorem State.modSub_lan (s : State) {port sub f} : (s.modSub port sub f).lan = s.lan := rfl

@[simp] theorem State.modSub_flash (s : State) {port sub f} : (s.modSub port sub f).flash = s.flash := rfl

@[simp] theorem State.modSub_mgmt (s : State) {port sub f} : (s.modSub port sub f).mgmt = s.mgmt := rfl

@[simp] theorem State.modSub_bays (s : State) {port sub f} : (s.modSub port sub f).bays = s.bays := rfl

@[simp] theorem State.modSub_memsys (s : State) {port sub f} : (s.modSub port sub f).memsys = s.memsys := rfl

@[simp] theorem State.modSub_tth (s : State) {port sub f} : (s.modSub port sub f).tth = s.tth := rfl

@[simp] theorem State.modSub_fab (s : State) {port sub f} : (s.modSub port sub f).fab = s.fab := rfl

@[simp] theorem State.modSub_dp (s : State) {port sub f} : (s.modSub port sub f).dp = s.dp := rfl

@[simp] theorem State.modSub_net (s : State) {port sub f} : (s.modSub port sub f).net = { s.net with ports := s.net.ports.modify port fun p => { p with subs := p.subs.modify sub f } } := rfl

/-! State.countDiscard -/

@[simp] theorem State.countDiscard_pending (s : State) {why} : (s.countDiscard why).pending = s.pending := rfl

@[simp] theorem State.countDiscard_out (s : State) {why} : (s.countDiscard why).out = s.out := rfl

@[simp] theorem State.countDiscard_freeCount (s : State) {why} : (s.countDiscard why).freeCount = s.freeCount := rfl

@[simp] theorem State.countDiscard_mem (s : State) {why} : (s.countDiscard why).mem = s.mem := rfl

@[simp] theorem State.countDiscard_poison (s : State) {why} : (s.countDiscard why).poison = s.poison := rfl

@[simp] theorem State.countDiscard_dev (s : State) {why} : (s.countDiscard why).dev = s.dev := rfl

@[simp] theorem State.countDiscard_board (s : State) {why} : (s.countDiscard why).board = s.board := rfl

@[simp] theorem State.countDiscard_ident (s : State) {why} : (s.countDiscard why).ident = s.ident := rfl

@[simp] theorem State.countDiscard_lan (s : State) {why} : (s.countDiscard why).lan = s.lan := rfl

@[simp] theorem State.countDiscard_flash (s : State) {why} : (s.countDiscard why).flash = s.flash := rfl

@[simp] theorem State.countDiscard_mgmt (s : State) {why} : (s.countDiscard why).mgmt = s.mgmt := rfl

@[simp] theorem State.countDiscard_bays (s : State) {why} : (s.countDiscard why).bays = s.bays := rfl

@[simp] theorem State.countDiscard_memsys (s : State) {why} : (s.countDiscard why).memsys = s.memsys := rfl

@[simp] theorem State.countDiscard_tth (s : State) {why} : (s.countDiscard why).tth = s.tth := rfl

@[simp] theorem State.countDiscard_fab (s : State) {why} : (s.countDiscard why).fab = s.fab := rfl

@[simp] theorem State.countDiscard_dp (s : State) {why} : (s.countDiscard why).dp = s.dp := rfl

@[simp] theorem State.countDiscard_net (s : State) {why} : (s.countDiscard why).net = { s.net with discards := addAt s.net.discards why 1 } := rfl

/-! State.countMalformed -/

@[simp] theorem State.countMalformed_pending (s : State) : (s.countMalformed).pending = s.pending := rfl

@[simp] theorem State.countMalformed_out (s : State) : (s.countMalformed).out = s.out := rfl

@[simp] theorem State.countMalformed_freeCount (s : State) : (s.countMalformed).freeCount = s.freeCount := rfl

@[simp] theorem State.countMalformed_mem (s : State) : (s.countMalformed).mem = s.mem := rfl

@[simp] theorem State.countMalformed_poison (s : State) : (s.countMalformed).poison = s.poison := rfl

@[simp] theorem State.countMalformed_dev (s : State) : (s.countMalformed).dev = s.dev := rfl

@[simp] theorem State.countMalformed_board (s : State) : (s.countMalformed).board = s.board := rfl

@[simp] theorem State.countMalformed_ident (s : State) : (s.countMalformed).ident = s.ident := rfl

@[simp] theorem State.countMalformed_lan (s : State) : (s.countMalformed).lan = s.lan := rfl

@[simp] theorem State.countMalformed_flash (s : State) : (s.countMalformed).flash = s.flash := rfl

@[simp] theorem State.countMalformed_mgmt (s : State) : (s.countMalformed).mgmt = s.mgmt := rfl

@[simp] theorem State.countMalformed_bays (s : State) : (s.countMalformed).bays = s.bays := rfl

@[simp] theorem State.countMalformed_memsys (s : State) : (s.countMalformed).memsys = s.memsys := rfl

@[simp] theorem State.countMalformed_tth (s : State) : (s.countMalformed).tth = s.tth := rfl

@[simp] theorem State.countMalformed_fab (s : State) : (s.countMalformed).fab = s.fab := rfl

@[simp] theorem State.countMalformed_dp (s : State) : (s.countMalformed).dp = s.dp := rfl

@[simp] theorem State.countMalformed_net (s : State) : (s.countMalformed).net = { s.net with malformedVcp := satAdd 64 s.net.malformedVcp 1 } := rfl

/-! State.freeQp -/

@[simp] theorem State.freeQp_pending (s : State) {qpn} : (s.freeQp qpn).pending = s.pending := rfl

@[simp] theorem State.freeQp_out (s : State) {qpn} : (s.freeQp qpn).out = s.out := rfl

@[simp] theorem State.freeQp_freeCount (s : State) {qpn} : (s.freeQp qpn).freeCount = s.freeCount := rfl

@[simp] theorem State.freeQp_mem (s : State) {qpn} : (s.freeQp qpn).mem = s.mem := rfl

@[simp] theorem State.freeQp_poison (s : State) {qpn} : (s.freeQp qpn).poison = s.poison := rfl

@[simp] theorem State.freeQp_dev (s : State) {qpn} : (s.freeQp qpn).dev = s.dev := rfl

@[simp] theorem State.freeQp_board (s : State) {qpn} : (s.freeQp qpn).board = s.board := rfl

@[simp] theorem State.freeQp_ident (s : State) {qpn} : (s.freeQp qpn).ident = s.ident := rfl

@[simp] theorem State.freeQp_lan (s : State) {qpn} : (s.freeQp qpn).lan = s.lan := rfl

@[simp] theorem State.freeQp_flash (s : State) {qpn} : (s.freeQp qpn).flash = s.flash := rfl

@[simp] theorem State.freeQp_mgmt (s : State) {qpn} : (s.freeQp qpn).mgmt = s.mgmt := rfl

@[simp] theorem State.freeQp_bays (s : State) {qpn} : (s.freeQp qpn).bays = s.bays := rfl

@[simp] theorem State.freeQp_memsys (s : State) {qpn} : (s.freeQp qpn).memsys = s.memsys := rfl

@[simp] theorem State.freeQp_tth (s : State) {qpn} : (s.freeQp qpn).tth = s.tth := rfl

@[simp] theorem State.freeQp_fab (s : State) {qpn} : (s.freeQp qpn).fab = s.fab := rfl

@[simp] theorem State.freeQp_dp (s : State) {qpn} : (s.freeQp qpn).dp = s.dp := rfl

@[simp] theorem State.freeQp_net (s : State) {qpn} : (s.freeQp qpn).net = { s.net with qps := dropKey Qp.qpn s.net.qps qpn } := rfl

/-! State.issueWrite -/

@[simp] theorem State.issueWrite_pending (s : State) {b die for_ space addr data half} : (s.issueWrite b die for_ space addr data half).pending = s.pending := rfl

@[simp] theorem State.issueWrite_out (s : State) {b die for_ space addr data half} : (s.issueWrite b die for_ space addr data half).out = s.out := rfl

@[simp] theorem State.issueWrite_freeCount (s : State) {b die for_ space addr data half} : (s.issueWrite b die for_ space addr data half).freeCount = s.freeCount := rfl

@[simp] theorem State.issueWrite_mem (s : State) {b die for_ space addr data half} : (s.issueWrite b die for_ space addr data half).mem = s.mem := rfl

@[simp] theorem State.issueWrite_poison (s : State) {b die for_ space addr data half} : (s.issueWrite b die for_ space addr data half).poison = s.poison := rfl

@[simp] theorem State.issueWrite_dev (s : State) {b die for_ space addr data half} : (s.issueWrite b die for_ space addr data half).dev = s.dev := rfl

@[simp] theorem State.issueWrite_board (s : State) {b die for_ space addr data half} : (s.issueWrite b die for_ space addr data half).board = s.board := rfl

@[simp] theorem State.issueWrite_ident (s : State) {b die for_ space addr data half} : (s.issueWrite b die for_ space addr data half).ident = s.ident := rfl

@[simp] theorem State.issueWrite_lan (s : State) {b die for_ space addr data half} : (s.issueWrite b die for_ space addr data half).lan = s.lan := rfl

@[simp] theorem State.issueWrite_flash (s : State) {b die for_ space addr data half} : (s.issueWrite b die for_ space addr data half).flash = s.flash := rfl

@[simp] theorem State.issueWrite_mgmt (s : State) {b die for_ space addr data half} : (s.issueWrite b die for_ space addr data half).mgmt = s.mgmt := rfl

@[simp] theorem State.issueWrite_bays (s : State) {b die for_ space addr data half} : (s.issueWrite b die for_ space addr data half).bays = s.bays := rfl

@[simp] theorem State.issueWrite_memsys (s : State) {b die for_ space addr data half} : (s.issueWrite b die for_ space addr data half).memsys = s.memsys := rfl

@[simp] theorem State.issueWrite_net (s : State) {b die for_ space addr data half} : (s.issueWrite b die for_ space addr data half).net = s.net := rfl

@[simp] theorem State.issueWrite_tth (s : State) {b die for_ space addr data half} : (s.issueWrite b die for_ space addr data half).tth = s.tth := rfl

@[simp] theorem State.issueWrite_fab (s : State) {b die for_ space addr data half} : (s.issueWrite b die for_ space addr data half).fab = s.fab := rfl

/-! State.modSilo -/

@[simp] theorem State.modSilo_pending (s : State) {k f} : (s.modSilo k f).pending = s.pending := rfl

@[simp] theorem State.modSilo_out (s : State) {k f} : (s.modSilo k f).out = s.out := rfl

@[simp] theorem State.modSilo_freeCount (s : State) {k f} : (s.modSilo k f).freeCount = s.freeCount := rfl

@[simp] theorem State.modSilo_mem (s : State) {k f} : (s.modSilo k f).mem = s.mem := rfl

@[simp] theorem State.modSilo_poison (s : State) {k f} : (s.modSilo k f).poison = s.poison := rfl

@[simp] theorem State.modSilo_dev (s : State) {k f} : (s.modSilo k f).dev = s.dev := rfl

@[simp] theorem State.modSilo_board (s : State) {k f} : (s.modSilo k f).board = s.board := rfl

@[simp] theorem State.modSilo_ident (s : State) {k f} : (s.modSilo k f).ident = s.ident := rfl

@[simp] theorem State.modSilo_lan (s : State) {k f} : (s.modSilo k f).lan = s.lan := rfl

@[simp] theorem State.modSilo_flash (s : State) {k f} : (s.modSilo k f).flash = s.flash := rfl

@[simp] theorem State.modSilo_mgmt (s : State) {k f} : (s.modSilo k f).mgmt = s.mgmt := rfl

@[simp] theorem State.modSilo_bays (s : State) {k f} : (s.modSilo k f).bays = s.bays := rfl

@[simp] theorem State.modSilo_net (s : State) {k f} : (s.modSilo k f).net = s.net := rfl

@[simp] theorem State.modSilo_tth (s : State) {k f} : (s.modSilo k f).tth = s.tth := rfl

@[simp] theorem State.modSilo_fab (s : State) {k f} : (s.modSilo k f).fab = s.fab := rfl

@[simp] theorem State.modSilo_dp (s : State) {k f} : (s.modSilo k f).dp = s.dp := rfl

@[simp] theorem State.modSilo_memsys (s : State) {k f} : (s.modSilo k f).memsys = { s.memsys with silos := s.memsys.silos.modify k f } := rfl

/-! State.modJob -/

@[simp] theorem State.modJob_pending (s : State) {id f} : (s.modJob id f).pending = s.pending := rfl

@[simp] theorem State.modJob_out (s : State) {id f} : (s.modJob id f).out = s.out := rfl

@[simp] theorem State.modJob_freeCount (s : State) {id f} : (s.modJob id f).freeCount = s.freeCount := rfl

@[simp] theorem State.modJob_mem (s : State) {id f} : (s.modJob id f).mem = s.mem := rfl

@[simp] theorem State.modJob_poison (s : State) {id f} : (s.modJob id f).poison = s.poison := rfl

@[simp] theorem State.modJob_dev (s : State) {id f} : (s.modJob id f).dev = s.dev := rfl

@[simp] theorem State.modJob_board (s : State) {id f} : (s.modJob id f).board = s.board := rfl

@[simp] theorem State.modJob_ident (s : State) {id f} : (s.modJob id f).ident = s.ident := rfl

@[simp] theorem State.modJob_lan (s : State) {id f} : (s.modJob id f).lan = s.lan := rfl

@[simp] theorem State.modJob_flash (s : State) {id f} : (s.modJob id f).flash = s.flash := rfl

@[simp] theorem State.modJob_mgmt (s : State) {id f} : (s.modJob id f).mgmt = s.mgmt := rfl

@[simp] theorem State.modJob_bays (s : State) {id f} : (s.modJob id f).bays = s.bays := rfl

@[simp] theorem State.modJob_memsys (s : State) {id f} : (s.modJob id f).memsys = s.memsys := rfl

@[simp] theorem State.modJob_net (s : State) {id f} : (s.modJob id f).net = s.net := rfl

@[simp] theorem State.modJob_tth (s : State) {id f} : (s.modJob id f).tth = s.tth := rfl

@[simp] theorem State.modJob_fab (s : State) {id f} : (s.modJob id f).fab = s.fab := rfl

@[simp] theorem State.modJob_dp (s : State) {id f} : (s.modJob id f).dp = { s.dp with waiting := s.dp.waiting.map fun w => if w.id = id then f w else w } := rfl

/-! State.putFlail -/

@[simp] theorem State.putFlail_pending (s : State) {f} : (s.putFlail f).pending = s.pending := rfl

@[simp] theorem State.putFlail_out (s : State) {f} : (s.putFlail f).out = s.out := rfl

@[simp] theorem State.putFlail_freeCount (s : State) {f} : (s.putFlail f).freeCount = s.freeCount := rfl

@[simp] theorem State.putFlail_mem (s : State) {f} : (s.putFlail f).mem = s.mem := rfl

@[simp] theorem State.putFlail_poison (s : State) {f} : (s.putFlail f).poison = s.poison := rfl

@[simp] theorem State.putFlail_dev (s : State) {f} : (s.putFlail f).dev = s.dev := rfl

@[simp] theorem State.putFlail_board (s : State) {f} : (s.putFlail f).board = s.board := rfl

@[simp] theorem State.putFlail_ident (s : State) {f} : (s.putFlail f).ident = s.ident := rfl

@[simp] theorem State.putFlail_lan (s : State) {f} : (s.putFlail f).lan = s.lan := rfl

@[simp] theorem State.putFlail_flash (s : State) {f} : (s.putFlail f).flash = s.flash := rfl

@[simp] theorem State.putFlail_mgmt (s : State) {f} : (s.putFlail f).mgmt = s.mgmt := rfl

@[simp] theorem State.putFlail_bays (s : State) {f} : (s.putFlail f).bays = s.bays := rfl

@[simp] theorem State.putFlail_memsys (s : State) {f} : (s.putFlail f).memsys = s.memsys := rfl

@[simp] theorem State.putFlail_net (s : State) {f} : (s.putFlail f).net = s.net := rfl

@[simp] theorem State.putFlail_tth (s : State) {f} : (s.putFlail f).tth = s.tth := rfl

@[simp] theorem State.putFlail_fab (s : State) {f} : (s.putFlail f).fab = s.fab := rfl

/-! State.modSheaf -/

@[simp] theorem State.modSheaf_pending (s : State) {no f} : (s.modSheaf no f).pending = s.pending := rfl

@[simp] theorem State.modSheaf_out (s : State) {no f} : (s.modSheaf no f).out = s.out := rfl

@[simp] theorem State.modSheaf_freeCount (s : State) {no f} : (s.modSheaf no f).freeCount = s.freeCount := rfl

@[simp] theorem State.modSheaf_mem (s : State) {no f} : (s.modSheaf no f).mem = s.mem := rfl

@[simp] theorem State.modSheaf_poison (s : State) {no f} : (s.modSheaf no f).poison = s.poison := rfl

@[simp] theorem State.modSheaf_dev (s : State) {no f} : (s.modSheaf no f).dev = s.dev := rfl

@[simp] theorem State.modSheaf_board (s : State) {no f} : (s.modSheaf no f).board = s.board := rfl

@[simp] theorem State.modSheaf_ident (s : State) {no f} : (s.modSheaf no f).ident = s.ident := rfl

@[simp] theorem State.modSheaf_lan (s : State) {no f} : (s.modSheaf no f).lan = s.lan := rfl

@[simp] theorem State.modSheaf_flash (s : State) {no f} : (s.modSheaf no f).flash = s.flash := rfl

@[simp] theorem State.modSheaf_mgmt (s : State) {no f} : (s.modSheaf no f).mgmt = s.mgmt := rfl

@[simp] theorem State.modSheaf_bays (s : State) {no f} : (s.modSheaf no f).bays = s.bays := rfl

@[simp] theorem State.modSheaf_memsys (s : State) {no f} : (s.modSheaf no f).memsys = s.memsys := rfl

@[simp] theorem State.modSheaf_net (s : State) {no f} : (s.modSheaf no f).net = s.net := rfl

@[simp] theorem State.modSheaf_tth (s : State) {no f} : (s.modSheaf no f).tth = s.tth := rfl

@[simp] theorem State.modSheaf_fab (s : State) {no f} : (s.modSheaf no f).fab = s.fab := rfl

@[simp] theorem State.modSheaf_dp (s : State) {no f} : (s.modSheaf no f).dp = { s.dp with sheafs := s.dp.sheafs.map fun x => if x.no = no then f x else x } := rfl

/-! State.dropSheaf -/

@[simp] theorem State.dropSheaf_pending (s : State) {no} : (s.dropSheaf no).pending = s.pending := rfl

@[simp] theorem State.dropSheaf_out (s : State) {no} : (s.dropSheaf no).out = s.out := rfl

@[simp] theorem State.dropSheaf_freeCount (s : State) {no} : (s.dropSheaf no).freeCount = s.freeCount := rfl

@[simp] theorem State.dropSheaf_mem (s : State) {no} : (s.dropSheaf no).mem = s.mem := rfl

@[simp] theorem State.dropSheaf_poison (s : State) {no} : (s.dropSheaf no).poison = s.poison := rfl

@[simp] theorem State.dropSheaf_dev (s : State) {no} : (s.dropSheaf no).dev = s.dev := rfl

@[simp] theorem State.dropSheaf_board (s : State) {no} : (s.dropSheaf no).board = s.board := rfl

@[simp] theorem State.dropSheaf_ident (s : State) {no} : (s.dropSheaf no).ident = s.ident := rfl

@[simp] theorem State.dropSheaf_lan (s : State) {no} : (s.dropSheaf no).lan = s.lan := rfl

@[simp] theorem State.dropSheaf_flash (s : State) {no} : (s.dropSheaf no).flash = s.flash := rfl

@[simp] theorem State.dropSheaf_mgmt (s : State) {no} : (s.dropSheaf no).mgmt = s.mgmt := rfl

@[simp] theorem State.dropSheaf_bays (s : State) {no} : (s.dropSheaf no).bays = s.bays := rfl

@[simp] theorem State.dropSheaf_memsys (s : State) {no} : (s.dropSheaf no).memsys = s.memsys := rfl

@[simp] theorem State.dropSheaf_net (s : State) {no} : (s.dropSheaf no).net = s.net := rfl

@[simp] theorem State.dropSheaf_tth (s : State) {no} : (s.dropSheaf no).tth = s.tth := rfl

@[simp] theorem State.dropSheaf_fab (s : State) {no} : (s.dropSheaf no).fab = s.fab := rfl

@[simp] theorem State.dropSheaf_dp (s : State) {no} : (s.dropSheaf no).dp = { s.dp with sheafs := dropKey Sheaf.no s.dp.sheafs no } := rfl

/-! State.rebindTier -/

@[simp] theorem State.rebindTier_pending (s : State) {b id tier p} : (s.rebindTier b id tier p).pending = s.pending := rfl

@[simp] theorem State.rebindTier_out (s : State) {b id tier p} : (s.rebindTier b id tier p).out = s.out := rfl

@[simp] theorem State.rebindTier_freeCount (s : State) {b id tier p} : (s.rebindTier b id tier p).freeCount = s.freeCount := rfl

@[simp] theorem State.rebindTier_mem (s : State) {b id tier p} : (s.rebindTier b id tier p).mem = s.mem := rfl

@[simp] theorem State.rebindTier_poison (s : State) {b id tier p} : (s.rebindTier b id tier p).poison = s.poison := rfl

@[simp] theorem State.rebindTier_dev (s : State) {b id tier p} : (s.rebindTier b id tier p).dev = s.dev := rfl

@[simp] theorem State.rebindTier_board (s : State) {b id tier p} : (s.rebindTier b id tier p).board = s.board := rfl

@[simp] theorem State.rebindTier_ident (s : State) {b id tier p} : (s.rebindTier b id tier p).ident = s.ident := rfl

@[simp] theorem State.rebindTier_lan (s : State) {b id tier p} : (s.rebindTier b id tier p).lan = s.lan := rfl

@[simp] theorem State.rebindTier_flash (s : State) {b id tier p} : (s.rebindTier b id tier p).flash = s.flash := rfl

@[simp] theorem State.rebindTier_mgmt (s : State) {b id tier p} : (s.rebindTier b id tier p).mgmt = s.mgmt := rfl

@[simp] theorem State.rebindTier_bays (s : State) {b id tier p} : (s.rebindTier b id tier p).bays = s.bays := rfl

@[simp] theorem State.rebindTier_memsys (s : State) {b id tier p} : (s.rebindTier b id tier p).memsys = s.memsys := rfl

@[simp] theorem State.rebindTier_net (s : State) {b id tier p} : (s.rebindTier b id tier p).net = s.net := rfl

@[simp] theorem State.rebindTier_tth (s : State) {b id tier p} : (s.rebindTier b id tier p).tth = s.tth := rfl

@[simp] theorem State.rebindTier_fab (s : State) {b id tier p} : (s.rebindTier b id tier p).fab = s.fab := rfl

/-! State.modLink -/

@[simp] theorem State.modLink_pending (s : State) {i f} : (s.modLink i f).pending = s.pending := rfl

@[simp] theorem State.modLink_out (s : State) {i f} : (s.modLink i f).out = s.out := rfl

@[simp] theorem State.modLink_freeCount (s : State) {i f} : (s.modLink i f).freeCount = s.freeCount := rfl

@[simp] theorem State.modLink_mem (s : State) {i f} : (s.modLink i f).mem = s.mem := rfl

@[simp] theorem State.modLink_poison (s : State) {i f} : (s.modLink i f).poison = s.poison := rfl

@[simp] theorem State.modLink_dev (s : State) {i f} : (s.modLink i f).dev = s.dev := rfl

@[simp] theorem State.modLink_board (s : State) {i f} : (s.modLink i f).board = s.board := rfl

@[simp] theorem State.modLink_ident (s : State) {i f} : (s.modLink i f).ident = s.ident := rfl

@[simp] theorem State.modLink_lan (s : State) {i f} : (s.modLink i f).lan = s.lan := rfl

@[simp] theorem State.modLink_flash (s : State) {i f} : (s.modLink i f).flash = s.flash := rfl

@[simp] theorem State.modLink_mgmt (s : State) {i f} : (s.modLink i f).mgmt = s.mgmt := rfl

@[simp] theorem State.modLink_bays (s : State) {i f} : (s.modLink i f).bays = s.bays := rfl

@[simp] theorem State.modLink_memsys (s : State) {i f} : (s.modLink i f).memsys = s.memsys := rfl

@[simp] theorem State.modLink_net (s : State) {i f} : (s.modLink i f).net = s.net := rfl

@[simp] theorem State.modLink_tth (s : State) {i f} : (s.modLink i f).tth = s.tth := rfl

@[simp] theorem State.modLink_dp (s : State) {i f} : (s.modLink i f).dp = s.dp := rfl

@[simp] theorem State.modLink_fab (s : State) {i f} : (s.modLink i f).fab = { s.fab with links := s.fab.links.modify i f } := rfl

/-! State.modCtx -/

@[simp] theorem State.modCtx_pending (s : State) {n f} : (s.modCtx n f).pending = s.pending := rfl

@[simp] theorem State.modCtx_out (s : State) {n f} : (s.modCtx n f).out = s.out := rfl

@[simp] theorem State.modCtx_freeCount (s : State) {n f} : (s.modCtx n f).freeCount = s.freeCount := rfl

@[simp] theorem State.modCtx_mem (s : State) {n f} : (s.modCtx n f).mem = s.mem := rfl

@[simp] theorem State.modCtx_poison (s : State) {n f} : (s.modCtx n f).poison = s.poison := rfl

@[simp] theorem State.modCtx_dev (s : State) {n f} : (s.modCtx n f).dev = s.dev := rfl

@[simp] theorem State.modCtx_board (s : State) {n f} : (s.modCtx n f).board = s.board := rfl

@[simp] theorem State.modCtx_ident (s : State) {n f} : (s.modCtx n f).ident = s.ident := rfl

@[simp] theorem State.modCtx_lan (s : State) {n f} : (s.modCtx n f).lan = s.lan := rfl

@[simp] theorem State.modCtx_flash (s : State) {n f} : (s.modCtx n f).flash = s.flash := rfl

@[simp] theorem State.modCtx_mgmt (s : State) {n f} : (s.modCtx n f).mgmt = s.mgmt := rfl

@[simp] theorem State.modCtx_bays (s : State) {n f} : (s.modCtx n f).bays = s.bays := rfl

@[simp] theorem State.modCtx_memsys (s : State) {n f} : (s.modCtx n f).memsys = s.memsys := rfl

@[simp] theorem State.modCtx_net (s : State) {n f} : (s.modCtx n f).net = s.net := rfl

@[simp] theorem State.modCtx_tth (s : State) {n f} : (s.modCtx n f).tth = s.tth := rfl

@[simp] theorem State.modCtx_fab (s : State) {n f} : (s.modCtx n f).fab = s.fab := rfl

@[simp] theorem State.modCtx_dp (s : State) {n f} : (s.modCtx n f).dp = { s.dp with contexts := s.dp.contexts.map fun x => if x.no = n then f x else x } := rfl

/-! State.modLookup -/

@[simp] theorem State.modLookup_pending (s : State) {id f} : (s.modLookup id f).pending = s.pending := rfl

@[simp] theorem State.modLookup_out (s : State) {id f} : (s.modLookup id f).out = s.out := rfl

@[simp] theorem State.modLookup_freeCount (s : State) {id f} : (s.modLookup id f).freeCount = s.freeCount := rfl

@[simp] theorem State.modLookup_mem (s : State) {id f} : (s.modLookup id f).mem = s.mem := rfl

@[simp] theorem State.modLookup_poison (s : State) {id f} : (s.modLookup id f).poison = s.poison := rfl

@[simp] theorem State.modLookup_dev (s : State) {id f} : (s.modLookup id f).dev = s.dev := rfl

@[simp] theorem State.modLookup_board (s : State) {id f} : (s.modLookup id f).board = s.board := rfl

@[simp] theorem State.modLookup_ident (s : State) {id f} : (s.modLookup id f).ident = s.ident := rfl

@[simp] theorem State.modLookup_lan (s : State) {id f} : (s.modLookup id f).lan = s.lan := rfl

@[simp] theorem State.modLookup_flash (s : State) {id f} : (s.modLookup id f).flash = s.flash := rfl

@[simp] theorem State.modLookup_mgmt (s : State) {id f} : (s.modLookup id f).mgmt = s.mgmt := rfl

@[simp] theorem State.modLookup_bays (s : State) {id f} : (s.modLookup id f).bays = s.bays := rfl

@[simp] theorem State.modLookup_memsys (s : State) {id f} : (s.modLookup id f).memsys = s.memsys := rfl

@[simp] theorem State.modLookup_net (s : State) {id f} : (s.modLookup id f).net = s.net := rfl

@[simp] theorem State.modLookup_tth (s : State) {id f} : (s.modLookup id f).tth = s.tth := rfl

@[simp] theorem State.modLookup_fab (s : State) {id f} : (s.modLookup id f).fab = s.fab := rfl

@[simp] theorem State.modLookup_dp (s : State) {id f} : (s.modLookup id f).dp = { s.dp with lookups := s.dp.lookups.map fun x => if x.id = id then f x else x } := rfl

/-! State.modHand -/

@[simp] theorem State.modHand_pending (s : State) {crew hand f} : (s.modHand crew hand f).pending = s.pending := rfl

@[simp] theorem State.modHand_out (s : State) {crew hand f} : (s.modHand crew hand f).out = s.out := rfl

@[simp] theorem State.modHand_freeCount (s : State) {crew hand f} : (s.modHand crew hand f).freeCount = s.freeCount := rfl

@[simp] theorem State.modHand_mem (s : State) {crew hand f} : (s.modHand crew hand f).mem = s.mem := rfl

@[simp] theorem State.modHand_poison (s : State) {crew hand f} : (s.modHand crew hand f).poison = s.poison := rfl

@[simp] theorem State.modHand_dev (s : State) {crew hand f} : (s.modHand crew hand f).dev = s.dev := rfl

@[simp] theorem State.modHand_board (s : State) {crew hand f} : (s.modHand crew hand f).board = s.board := rfl

@[simp] theorem State.modHand_ident (s : State) {crew hand f} : (s.modHand crew hand f).ident = s.ident := rfl

@[simp] theorem State.modHand_lan (s : State) {crew hand f} : (s.modHand crew hand f).lan = s.lan := rfl

@[simp] theorem State.modHand_flash (s : State) {crew hand f} : (s.modHand crew hand f).flash = s.flash := rfl

@[simp] theorem State.modHand_mgmt (s : State) {crew hand f} : (s.modHand crew hand f).mgmt = s.mgmt := rfl

@[simp] theorem State.modHand_bays (s : State) {crew hand f} : (s.modHand crew hand f).bays = s.bays := rfl

@[simp] theorem State.modHand_memsys (s : State) {crew hand f} : (s.modHand crew hand f).memsys = s.memsys := rfl

@[simp] theorem State.modHand_net (s : State) {crew hand f} : (s.modHand crew hand f).net = s.net := rfl

@[simp] theorem State.modHand_tth (s : State) {crew hand f} : (s.modHand crew hand f).tth = s.tth := rfl

@[simp] theorem State.modHand_fab (s : State) {crew hand f} : (s.modHand crew hand f).fab = s.fab := rfl

@[simp] theorem State.modHand_dp (s : State) {crew hand f} : (s.modHand crew hand f).dp = { s.dp with crews := s.dp.crews.modify crew fun c => { c with job := c.job.map fun j => { j with hands := j.hands.modify hand f } } } := rfl

/-! State.recordLoft -/

@[simp] theorem State.recordLoft_pending (s : State) {b sh} : (s.recordLoft b sh).pending = s.pending := rfl

@[simp] theorem State.recordLoft_out (s : State) {b sh} : (s.recordLoft b sh).out = s.out := rfl

@[simp] theorem State.recordLoft_freeCount (s : State) {b sh} : (s.recordLoft b sh).freeCount = s.freeCount := rfl

@[simp] theorem State.recordLoft_mem (s : State) {b sh} : (s.recordLoft b sh).mem = s.mem := rfl

@[simp] theorem State.recordLoft_poison (s : State) {b sh} : (s.recordLoft b sh).poison = s.poison := rfl

@[simp] theorem State.recordLoft_dev (s : State) {b sh} : (s.recordLoft b sh).dev = s.dev := rfl

@[simp] theorem State.recordLoft_board (s : State) {b sh} : (s.recordLoft b sh).board = s.board := rfl

@[simp] theorem State.recordLoft_ident (s : State) {b sh} : (s.recordLoft b sh).ident = s.ident := rfl

@[simp] theorem State.recordLoft_lan (s : State) {b sh} : (s.recordLoft b sh).lan = s.lan := rfl

@[simp] theorem State.recordLoft_mgmt (s : State) {b sh} : (s.recordLoft b sh).mgmt = s.mgmt := rfl

@[simp] theorem State.recordLoft_bays (s : State) {b sh} : (s.recordLoft b sh).bays = s.bays := rfl

@[simp] theorem State.recordLoft_memsys (s : State) {b sh} : (s.recordLoft b sh).memsys = s.memsys := rfl

@[simp] theorem State.recordLoft_net (s : State) {b sh} : (s.recordLoft b sh).net = s.net := rfl

@[simp] theorem State.recordLoft_tth (s : State) {b sh} : (s.recordLoft b sh).tth = s.tth := rfl

@[simp] theorem State.recordLoft_fab (s : State) {b sh} : (s.recordLoft b sh).fab = s.fab := rfl

@[simp] theorem State.recordLoft_dp (s : State) {b sh} : (s.recordLoft b sh).dp = s.dp := rfl

@[simp] theorem State.recordLoft_flash (s : State) {b sh} : (s.recordLoft b sh).flash = { s.flash with loftUnits := (s.flash.loftUnits.filter fun x => x.1 != b) ++ loftRecords b sh } := rfl

/-! State.modCrew -/

@[simp] theorem State.modCrew_pending (s : State) {crew f} : (s.modCrew crew f).pending = s.pending := rfl

@[simp] theorem State.modCrew_out (s : State) {crew f} : (s.modCrew crew f).out = s.out := rfl

@[simp] theorem State.modCrew_freeCount (s : State) {crew f} : (s.modCrew crew f).freeCount = s.freeCount := rfl

@[simp] theorem State.modCrew_mem (s : State) {crew f} : (s.modCrew crew f).mem = s.mem := rfl

@[simp] theorem State.modCrew_poison (s : State) {crew f} : (s.modCrew crew f).poison = s.poison := rfl

@[simp] theorem State.modCrew_dev (s : State) {crew f} : (s.modCrew crew f).dev = s.dev := rfl

@[simp] theorem State.modCrew_board (s : State) {crew f} : (s.modCrew crew f).board = s.board := rfl

@[simp] theorem State.modCrew_ident (s : State) {crew f} : (s.modCrew crew f).ident = s.ident := rfl

@[simp] theorem State.modCrew_lan (s : State) {crew f} : (s.modCrew crew f).lan = s.lan := rfl

@[simp] theorem State.modCrew_flash (s : State) {crew f} : (s.modCrew crew f).flash = s.flash := rfl

@[simp] theorem State.modCrew_mgmt (s : State) {crew f} : (s.modCrew crew f).mgmt = s.mgmt := rfl

@[simp] theorem State.modCrew_bays (s : State) {crew f} : (s.modCrew crew f).bays = s.bays := rfl

@[simp] theorem State.modCrew_memsys (s : State) {crew f} : (s.modCrew crew f).memsys = s.memsys := rfl

@[simp] theorem State.modCrew_net (s : State) {crew f} : (s.modCrew crew f).net = s.net := rfl

@[simp] theorem State.modCrew_tth (s : State) {crew f} : (s.modCrew crew f).tth = s.tth := rfl

@[simp] theorem State.modCrew_fab (s : State) {crew f} : (s.modCrew crew f).fab = s.fab := rfl

@[simp] theorem State.modCrew_dp (s : State) {crew f} : (s.modCrew crew f).dp = { s.dp with crews := s.dp.crews.modify crew f } := rfl

/-! State.modThresher -/

@[simp] theorem State.modThresher_pending (s : State) {n f} : (s.modThresher n f).pending = s.pending := rfl

@[simp] theorem State.modThresher_out (s : State) {n f} : (s.modThresher n f).out = s.out := rfl

@[simp] theorem State.modThresher_freeCount (s : State) {n f} : (s.modThresher n f).freeCount = s.freeCount := rfl

@[simp] theorem State.modThresher_mem (s : State) {n f} : (s.modThresher n f).mem = s.mem := rfl

@[simp] theorem State.modThresher_poison (s : State) {n f} : (s.modThresher n f).poison = s.poison := rfl

@[simp] theorem State.modThresher_dev (s : State) {n f} : (s.modThresher n f).dev = s.dev := rfl

@[simp] theorem State.modThresher_board (s : State) {n f} : (s.modThresher n f).board = s.board := rfl

@[simp] theorem State.modThresher_ident (s : State) {n f} : (s.modThresher n f).ident = s.ident := rfl

@[simp] theorem State.modThresher_lan (s : State) {n f} : (s.modThresher n f).lan = s.lan := rfl

@[simp] theorem State.modThresher_flash (s : State) {n f} : (s.modThresher n f).flash = s.flash := rfl

@[simp] theorem State.modThresher_mgmt (s : State) {n f} : (s.modThresher n f).mgmt = s.mgmt := rfl

@[simp] theorem State.modThresher_bays (s : State) {n f} : (s.modThresher n f).bays = s.bays := rfl

@[simp] theorem State.modThresher_memsys (s : State) {n f} : (s.modThresher n f).memsys = s.memsys := rfl

@[simp] theorem State.modThresher_net (s : State) {n f} : (s.modThresher n f).net = s.net := rfl

@[simp] theorem State.modThresher_tth (s : State) {n f} : (s.modThresher n f).tth = s.tth := rfl

@[simp] theorem State.modThresher_fab (s : State) {n f} : (s.modThresher n f).fab = s.fab := rfl

@[simp] theorem State.modThresher_dp (s : State) {n f} : (s.modThresher n f).dp = { s.dp with threshers := s.dp.threshers.modify n f } := rfl

/-! State.putVec -/

@[simp] theorem State.putVec_pending (s : State) {v} : (s.putVec v).pending = s.pending := rfl

@[simp] theorem State.putVec_out (s : State) {v} : (s.putVec v).out = s.out := rfl

@[simp] theorem State.putVec_freeCount (s : State) {v} : (s.putVec v).freeCount = s.freeCount := rfl

@[simp] theorem State.putVec_mem (s : State) {v} : (s.putVec v).mem = s.mem := rfl

@[simp] theorem State.putVec_poison (s : State) {v} : (s.putVec v).poison = s.poison := rfl

@[simp] theorem State.putVec_dev (s : State) {v} : (s.putVec v).dev = s.dev := rfl

@[simp] theorem State.putVec_board (s : State) {v} : (s.putVec v).board = s.board := rfl

@[simp] theorem State.putVec_ident (s : State) {v} : (s.putVec v).ident = s.ident := rfl

@[simp] theorem State.putVec_lan (s : State) {v} : (s.putVec v).lan = s.lan := rfl

@[simp] theorem State.putVec_flash (s : State) {v} : (s.putVec v).flash = s.flash := rfl

@[simp] theorem State.putVec_mgmt (s : State) {v} : (s.putVec v).mgmt = s.mgmt := rfl

@[simp] theorem State.putVec_bays (s : State) {v} : (s.putVec v).bays = s.bays := rfl

@[simp] theorem State.putVec_memsys (s : State) {v} : (s.putVec v).memsys = s.memsys := rfl

@[simp] theorem State.putVec_net (s : State) {v} : (s.putVec v).net = s.net := rfl

@[simp] theorem State.putVec_fab (s : State) {v} : (s.putVec v).fab = s.fab := rfl

@[simp] theorem State.putVec_dp (s : State) {v} : (s.putVec v).dp = s.dp := rfl

@[simp] theorem State.putVec_tth (s : State) {v} : (s.putVec v).tth = { s.tth with vecs := if v.reg = 1 && v.pending = 0 then dropKey Vec.no s.tth.vecs v.no else putKey Vec.no v s.tth.vecs } := rfl

/-! State.putChannel -/

@[simp] theorem State.putChannel_pending (s : State) {c} : (s.putChannel c).pending = s.pending := rfl

@[simp] theorem State.putChannel_out (s : State) {c} : (s.putChannel c).out = s.out := rfl

@[simp] theorem State.putChannel_freeCount (s : State) {c} : (s.putChannel c).freeCount = s.freeCount := rfl

@[simp] theorem State.putChannel_mem (s : State) {c} : (s.putChannel c).mem = s.mem := rfl

@[simp] theorem State.putChannel_poison (s : State) {c} : (s.putChannel c).poison = s.poison := rfl

@[simp] theorem State.putChannel_dev (s : State) {c} : (s.putChannel c).dev = s.dev := rfl

@[simp] theorem State.putChannel_board (s : State) {c} : (s.putChannel c).board = s.board := rfl

@[simp] theorem State.putChannel_ident (s : State) {c} : (s.putChannel c).ident = s.ident := rfl

@[simp] theorem State.putChannel_lan (s : State) {c} : (s.putChannel c).lan = s.lan := rfl

@[simp] theorem State.putChannel_flash (s : State) {c} : (s.putChannel c).flash = s.flash := rfl

@[simp] theorem State.putChannel_mgmt (s : State) {c} : (s.putChannel c).mgmt = s.mgmt := rfl

@[simp] theorem State.putChannel_bays (s : State) {c} : (s.putChannel c).bays = s.bays := rfl

@[simp] theorem State.putChannel_memsys (s : State) {c} : (s.putChannel c).memsys = s.memsys := rfl

@[simp] theorem State.putChannel_net (s : State) {c} : (s.putChannel c).net = s.net := rfl

@[simp] theorem State.putChannel_tth (s : State) {c} : (s.putChannel c).tth = s.tth := rfl

@[simp] theorem State.putChannel_dp (s : State) {c} : (s.putChannel c).dp = s.dp := rfl

@[simp] theorem State.putChannel_fab (s : State) {c} : (s.putChannel c).fab = { s.fab with channels := c :: s.fab.channels.filter fun x => !(x.bay == c.bay && x.node == c.node) } := rfl

/-! State.putOwner -/

@[simp] theorem State.putOwner_pending (s : State) {c} : (s.putOwner c).pending = s.pending := rfl

@[simp] theorem State.putOwner_out (s : State) {c} : (s.putOwner c).out = s.out := rfl

@[simp] theorem State.putOwner_freeCount (s : State) {c} : (s.putOwner c).freeCount = s.freeCount := rfl

@[simp] theorem State.putOwner_mem (s : State) {c} : (s.putOwner c).mem = s.mem := rfl

@[simp] theorem State.putOwner_poison (s : State) {c} : (s.putOwner c).poison = s.poison := rfl

@[simp] theorem State.putOwner_dev (s : State) {c} : (s.putOwner c).dev = s.dev := rfl

@[simp] theorem State.putOwner_board (s : State) {c} : (s.putOwner c).board = s.board := rfl

@[simp] theorem State.putOwner_ident (s : State) {c} : (s.putOwner c).ident = s.ident := rfl

@[simp] theorem State.putOwner_lan (s : State) {c} : (s.putOwner c).lan = s.lan := rfl

@[simp] theorem State.putOwner_flash (s : State) {c} : (s.putOwner c).flash = s.flash := rfl

@[simp] theorem State.putOwner_mgmt (s : State) {c} : (s.putOwner c).mgmt = s.mgmt := rfl

@[simp] theorem State.putOwner_bays (s : State) {c} : (s.putOwner c).bays = s.bays := rfl

@[simp] theorem State.putOwner_memsys (s : State) {c} : (s.putOwner c).memsys = s.memsys := rfl

@[simp] theorem State.putOwner_net (s : State) {c} : (s.putOwner c).net = s.net := rfl

@[simp] theorem State.putOwner_tth (s : State) {c} : (s.putOwner c).tth = s.tth := rfl

@[simp] theorem State.putOwner_dp (s : State) {c} : (s.putOwner c).dp = s.dp := rfl

@[simp] theorem State.putOwner_fab (s : State) {c} : (s.putOwner c).fab = { s.fab with owners := c :: s.fab.owners.filter fun x => !(x.bay == c.bay && x.node == c.node) } := rfl

/-! State.loseSpilled -/

@[simp] theorem State.loseSpilled_pending (s : State) {silo} : (s.loseSpilled silo).pending = s.pending := rfl

@[simp] theorem State.loseSpilled_out (s : State) {silo} : (s.loseSpilled silo).out = s.out := rfl

@[simp] theorem State.loseSpilled_freeCount (s : State) {silo} : (s.loseSpilled silo).freeCount = s.freeCount := rfl

@[simp] theorem State.loseSpilled_mem (s : State) {silo} : (s.loseSpilled silo).mem = s.mem := rfl

@[simp] theorem State.loseSpilled_poison (s : State) {silo} : (s.loseSpilled silo).poison = s.poison := rfl

@[simp] theorem State.loseSpilled_dev (s : State) {silo} : (s.loseSpilled silo).dev = s.dev := rfl

@[simp] theorem State.loseSpilled_board (s : State) {silo} : (s.loseSpilled silo).board = s.board := rfl

@[simp] theorem State.loseSpilled_ident (s : State) {silo} : (s.loseSpilled silo).ident = s.ident := rfl

@[simp] theorem State.loseSpilled_lan (s : State) {silo} : (s.loseSpilled silo).lan = s.lan := rfl

@[simp] theorem State.loseSpilled_flash (s : State) {silo} : (s.loseSpilled silo).flash = s.flash := rfl

@[simp] theorem State.loseSpilled_mgmt (s : State) {silo} : (s.loseSpilled silo).mgmt = s.mgmt := rfl

@[simp] theorem State.loseSpilled_bays (s : State) {silo} : (s.loseSpilled silo).bays = s.bays := rfl

@[simp] theorem State.loseSpilled_memsys (s : State) {silo} : (s.loseSpilled silo).memsys = s.memsys := rfl

@[simp] theorem State.loseSpilled_net (s : State) {silo} : (s.loseSpilled silo).net = s.net := rfl

@[simp] theorem State.loseSpilled_tth (s : State) {silo} : (s.loseSpilled silo).tth = s.tth := rfl

@[simp] theorem State.loseSpilled_fab (s : State) {silo} : (s.loseSpilled silo).fab = s.fab := rfl

/-! State.modLoft -/

@[simp] theorem State.modLoft_pending (s : State) {k f} : (s.modLoft k f).pending = s.pending := rfl

@[simp] theorem State.modLoft_out (s : State) {k f} : (s.modLoft k f).out = s.out := rfl

@[simp] theorem State.modLoft_freeCount (s : State) {k f} : (s.modLoft k f).freeCount = s.freeCount := rfl

@[simp] theorem State.modLoft_mem (s : State) {k f} : (s.modLoft k f).mem = s.mem := rfl

@[simp] theorem State.modLoft_poison (s : State) {k f} : (s.modLoft k f).poison = s.poison := rfl

@[simp] theorem State.modLoft_dev (s : State) {k f} : (s.modLoft k f).dev = s.dev := rfl

@[simp] theorem State.modLoft_board (s : State) {k f} : (s.modLoft k f).board = s.board := rfl

@[simp] theorem State.modLoft_ident (s : State) {k f} : (s.modLoft k f).ident = s.ident := rfl

@[simp] theorem State.modLoft_lan (s : State) {k f} : (s.modLoft k f).lan = s.lan := rfl

@[simp] theorem State.modLoft_flash (s : State) {k f} : (s.modLoft k f).flash = s.flash := rfl

@[simp] theorem State.modLoft_mgmt (s : State) {k f} : (s.modLoft k f).mgmt = s.mgmt := rfl

@[simp] theorem State.modLoft_bays (s : State) {k f} : (s.modLoft k f).bays = s.bays := rfl

@[simp] theorem State.modLoft_net (s : State) {k f} : (s.modLoft k f).net = s.net := rfl

@[simp] theorem State.modLoft_tth (s : State) {k f} : (s.modLoft k f).tth = s.tth := rfl

@[simp] theorem State.modLoft_fab (s : State) {k f} : (s.modLoft k f).fab = s.fab := rfl

@[simp] theorem State.modLoft_dp (s : State) {k f} : (s.modLoft k f).dp = s.dp := rfl

@[simp] theorem State.modLoft_memsys (s : State) {k f} : (s.modLoft k f).memsys = { s.memsys with lofts := s.memsys.lofts.modify k f } := rfl

/-! State.loseUnits -/

@[simp] theorem State.loseUnits_pending (s : State) {port} : (s.loseUnits port).pending = s.pending := rfl

@[simp] theorem State.loseUnits_out (s : State) {port} : (s.loseUnits port).out = s.out := rfl

@[simp] theorem State.loseUnits_freeCount (s : State) {port} : (s.loseUnits port).freeCount = s.freeCount := rfl

@[simp] theorem State.loseUnits_mem (s : State) {port} : (s.loseUnits port).mem = s.mem := rfl

@[simp] theorem State.loseUnits_poison (s : State) {port} : (s.loseUnits port).poison = s.poison := rfl

@[simp] theorem State.loseUnits_dev (s : State) {port} : (s.loseUnits port).dev = s.dev := rfl

@[simp] theorem State.loseUnits_board (s : State) {port} : (s.loseUnits port).board = s.board := rfl

@[simp] theorem State.loseUnits_ident (s : State) {port} : (s.loseUnits port).ident = s.ident := rfl

@[simp] theorem State.loseUnits_lan (s : State) {port} : (s.loseUnits port).lan = s.lan := rfl

@[simp] theorem State.loseUnits_flash (s : State) {port} : (s.loseUnits port).flash = s.flash := rfl

@[simp] theorem State.loseUnits_mgmt (s : State) {port} : (s.loseUnits port).mgmt = s.mgmt := rfl

@[simp] theorem State.loseUnits_memsys (s : State) {port} : (s.loseUnits port).memsys = s.memsys := rfl

@[simp] theorem State.loseUnits_net (s : State) {port} : (s.loseUnits port).net = s.net := rfl

@[simp] theorem State.loseUnits_tth (s : State) {port} : (s.loseUnits port).tth = s.tth := rfl

@[simp] theorem State.loseUnits_fab (s : State) {port} : (s.loseUnits port).fab = s.fab := rfl

@[simp] theorem State.loseUnits_dp (s : State) {port} : (s.loseUnits port).dp = s.dp := rfl

/-! State.dropRequest -/

@[simp] theorem State.dropRequest_pending (s : State) {id} : (s.dropRequest id).pending = s.pending := rfl

@[simp] theorem State.dropRequest_out (s : State) {id} : (s.dropRequest id).out = s.out := rfl

@[simp] theorem State.dropRequest_freeCount (s : State) {id} : (s.dropRequest id).freeCount = s.freeCount := rfl

@[simp] theorem State.dropRequest_mem (s : State) {id} : (s.dropRequest id).mem = s.mem := rfl

@[simp] theorem State.dropRequest_poison (s : State) {id} : (s.dropRequest id).poison = s.poison := rfl

@[simp] theorem State.dropRequest_dev (s : State) {id} : (s.dropRequest id).dev = s.dev := rfl

@[simp] theorem State.dropRequest_board (s : State) {id} : (s.dropRequest id).board = s.board := rfl

@[simp] theorem State.dropRequest_ident (s : State) {id} : (s.dropRequest id).ident = s.ident := rfl

@[simp] theorem State.dropRequest_lan (s : State) {id} : (s.dropRequest id).lan = s.lan := rfl

@[simp] theorem State.dropRequest_flash (s : State) {id} : (s.dropRequest id).flash = s.flash := rfl

@[simp] theorem State.dropRequest_mgmt (s : State) {id} : (s.dropRequest id).mgmt = s.mgmt := rfl

@[simp] theorem State.dropRequest_bays (s : State) {id} : (s.dropRequest id).bays = s.bays := rfl

@[simp] theorem State.dropRequest_memsys (s : State) {id} : (s.dropRequest id).memsys = s.memsys := rfl

@[simp] theorem State.dropRequest_net (s : State) {id} : (s.dropRequest id).net = s.net := rfl

@[simp] theorem State.dropRequest_tth (s : State) {id} : (s.dropRequest id).tth = s.tth := rfl

@[simp] theorem State.dropRequest_dp (s : State) {id} : (s.dropRequest id).dp = s.dp := rfl

@[simp] theorem State.dropRequest_fab (s : State) {id} : (s.dropRequest id).fab = { s.fab with requests := s.fab.requests.filter fun q => q.id != id } := rfl

/-! State.putPrepared -/

@[simp] theorem State.putPrepared_pending (s : State) {p} : (s.putPrepared p).pending = s.pending := rfl

@[simp] theorem State.putPrepared_out (s : State) {p} : (s.putPrepared p).out = s.out := rfl

@[simp] theorem State.putPrepared_freeCount (s : State) {p} : (s.putPrepared p).freeCount = s.freeCount := rfl

@[simp] theorem State.putPrepared_mem (s : State) {p} : (s.putPrepared p).mem = s.mem := rfl

@[simp] theorem State.putPrepared_poison (s : State) {p} : (s.putPrepared p).poison = s.poison := rfl

@[simp] theorem State.putPrepared_dev (s : State) {p} : (s.putPrepared p).dev = s.dev := rfl

@[simp] theorem State.putPrepared_board (s : State) {p} : (s.putPrepared p).board = s.board := rfl

@[simp] theorem State.putPrepared_ident (s : State) {p} : (s.putPrepared p).ident = s.ident := rfl

@[simp] theorem State.putPrepared_lan (s : State) {p} : (s.putPrepared p).lan = s.lan := rfl

@[simp] theorem State.putPrepared_flash (s : State) {p} : (s.putPrepared p).flash = s.flash := rfl

@[simp] theorem State.putPrepared_mgmt (s : State) {p} : (s.putPrepared p).mgmt = s.mgmt := rfl

@[simp] theorem State.putPrepared_bays (s : State) {p} : (s.putPrepared p).bays = s.bays := rfl

@[simp] theorem State.putPrepared_memsys (s : State) {p} : (s.putPrepared p).memsys = s.memsys := rfl

@[simp] theorem State.putPrepared_net (s : State) {p} : (s.putPrepared p).net = s.net := rfl

@[simp] theorem State.putPrepared_tth (s : State) {p} : (s.putPrepared p).tth = s.tth := rfl

@[simp] theorem State.putPrepared_dp (s : State) {p} : (s.putPrepared p).dp = s.dp := rfl

@[simp] theorem State.putPrepared_fab (s : State) {p} : (s.putPrepared p).fab = { s.fab with prepared := (s.fab.prepared.filter fun x => !(x.node == p.node && x.tag == p.tag)) ++ [p] } := rfl

/-! State.modSpan -/

@[simp] theorem State.modSpan_pending (s : State) {tag f} : (s.modSpan tag f).pending = s.pending := rfl

@[simp] theorem State.modSpan_out (s : State) {tag f} : (s.modSpan tag f).out = s.out := rfl

@[simp] theorem State.modSpan_freeCount (s : State) {tag f} : (s.modSpan tag f).freeCount = s.freeCount := rfl

@[simp] theorem State.modSpan_mem (s : State) {tag f} : (s.modSpan tag f).mem = s.mem := rfl

@[simp] theorem State.modSpan_poison (s : State) {tag f} : (s.modSpan tag f).poison = s.poison := rfl

@[simp] theorem State.modSpan_dev (s : State) {tag f} : (s.modSpan tag f).dev = s.dev := rfl

@[simp] theorem State.modSpan_board (s : State) {tag f} : (s.modSpan tag f).board = s.board := rfl

@[simp] theorem State.modSpan_ident (s : State) {tag f} : (s.modSpan tag f).ident = s.ident := rfl

@[simp] theorem State.modSpan_lan (s : State) {tag f} : (s.modSpan tag f).lan = s.lan := rfl

@[simp] theorem State.modSpan_flash (s : State) {tag f} : (s.modSpan tag f).flash = s.flash := rfl

@[simp] theorem State.modSpan_mgmt (s : State) {tag f} : (s.modSpan tag f).mgmt = s.mgmt := rfl

@[simp] theorem State.modSpan_bays (s : State) {tag f} : (s.modSpan tag f).bays = s.bays := rfl

@[simp] theorem State.modSpan_memsys (s : State) {tag f} : (s.modSpan tag f).memsys = s.memsys := rfl

@[simp] theorem State.modSpan_net (s : State) {tag f} : (s.modSpan tag f).net = s.net := rfl

@[simp] theorem State.modSpan_tth (s : State) {tag f} : (s.modSpan tag f).tth = s.tth := rfl

@[simp] theorem State.modSpan_dp (s : State) {tag f} : (s.modSpan tag f).dp = s.dp := rfl

@[simp] theorem State.modSpan_fab (s : State) {tag f} : (s.modSpan tag f).fab = { s.fab with spans := s.fab.spans.map fun x => if x.tag = tag then f x else x } := rfl

/-! State.dropSpan -/

@[simp] theorem State.dropSpan_pending (s : State) {tag} : (s.dropSpan tag).pending = s.pending := rfl

@[simp] theorem State.dropSpan_out (s : State) {tag} : (s.dropSpan tag).out = s.out := rfl

@[simp] theorem State.dropSpan_freeCount (s : State) {tag} : (s.dropSpan tag).freeCount = s.freeCount := rfl

@[simp] theorem State.dropSpan_mem (s : State) {tag} : (s.dropSpan tag).mem = s.mem := rfl

@[simp] theorem State.dropSpan_poison (s : State) {tag} : (s.dropSpan tag).poison = s.poison := rfl

@[simp] theorem State.dropSpan_dev (s : State) {tag} : (s.dropSpan tag).dev = s.dev := rfl

@[simp] theorem State.dropSpan_board (s : State) {tag} : (s.dropSpan tag).board = s.board := rfl

@[simp] theorem State.dropSpan_ident (s : State) {tag} : (s.dropSpan tag).ident = s.ident := rfl

@[simp] theorem State.dropSpan_lan (s : State) {tag} : (s.dropSpan tag).lan = s.lan := rfl

@[simp] theorem State.dropSpan_flash (s : State) {tag} : (s.dropSpan tag).flash = s.flash := rfl

@[simp] theorem State.dropSpan_mgmt (s : State) {tag} : (s.dropSpan tag).mgmt = s.mgmt := rfl

@[simp] theorem State.dropSpan_bays (s : State) {tag} : (s.dropSpan tag).bays = s.bays := rfl

@[simp] theorem State.dropSpan_memsys (s : State) {tag} : (s.dropSpan tag).memsys = s.memsys := rfl

@[simp] theorem State.dropSpan_net (s : State) {tag} : (s.dropSpan tag).net = s.net := rfl

@[simp] theorem State.dropSpan_tth (s : State) {tag} : (s.dropSpan tag).tth = s.tth := rfl

@[simp] theorem State.dropSpan_dp (s : State) {tag} : (s.dropSpan tag).dp = s.dp := rfl

@[simp] theorem State.dropSpan_fab (s : State) {tag} : (s.dropSpan tag).fab = { s.fab with spans := s.fab.spans.filter fun x => x.tag != tag } := rfl

/-! State.modMuster -/

@[simp] theorem State.modMuster_pending (s : State) {f} : (s.modMuster f).pending = s.pending := rfl

@[simp] theorem State.modMuster_out (s : State) {f} : (s.modMuster f).out = s.out := rfl

@[simp] theorem State.modMuster_freeCount (s : State) {f} : (s.modMuster f).freeCount = s.freeCount := rfl

@[simp] theorem State.modMuster_mem (s : State) {f} : (s.modMuster f).mem = s.mem := rfl

@[simp] theorem State.modMuster_poison (s : State) {f} : (s.modMuster f).poison = s.poison := rfl

@[simp] theorem State.modMuster_dev (s : State) {f} : (s.modMuster f).dev = s.dev := rfl

@[simp] theorem State.modMuster_board (s : State) {f} : (s.modMuster f).board = s.board := rfl

@[simp] theorem State.modMuster_ident (s : State) {f} : (s.modMuster f).ident = s.ident := rfl

@[simp] theorem State.modMuster_lan (s : State) {f} : (s.modMuster f).lan = s.lan := rfl

@[simp] theorem State.modMuster_flash (s : State) {f} : (s.modMuster f).flash = s.flash := rfl

@[simp] theorem State.modMuster_mgmt (s : State) {f} : (s.modMuster f).mgmt = s.mgmt := rfl

@[simp] theorem State.modMuster_bays (s : State) {f} : (s.modMuster f).bays = s.bays := rfl

@[simp] theorem State.modMuster_memsys (s : State) {f} : (s.modMuster f).memsys = s.memsys := rfl

@[simp] theorem State.modMuster_tth (s : State) {f} : (s.modMuster f).tth = s.tth := rfl

@[simp] theorem State.modMuster_fab (s : State) {f} : (s.modMuster f).fab = s.fab := rfl

@[simp] theorem State.modMuster_dp (s : State) {f} : (s.modMuster f).dp = s.dp := rfl

@[simp] theorem State.modMuster_net (s : State) {f} : (s.modMuster f).net = { s.net with muster := f s.net.muster } := rfl

/-! State.modRelay -/

@[simp] theorem State.modRelay_pending (s : State) {i f} : (s.modRelay i f).pending = s.pending := rfl

@[simp] theorem State.modRelay_out (s : State) {i f} : (s.modRelay i f).out = s.out := rfl

@[simp] theorem State.modRelay_freeCount (s : State) {i f} : (s.modRelay i f).freeCount = s.freeCount := rfl

@[simp] theorem State.modRelay_mem (s : State) {i f} : (s.modRelay i f).mem = s.mem := rfl

@[simp] theorem State.modRelay_poison (s : State) {i f} : (s.modRelay i f).poison = s.poison := rfl

@[simp] theorem State.modRelay_dev (s : State) {i f} : (s.modRelay i f).dev = s.dev := rfl

@[simp] theorem State.modRelay_board (s : State) {i f} : (s.modRelay i f).board = s.board := rfl

@[simp] theorem State.modRelay_ident (s : State) {i f} : (s.modRelay i f).ident = s.ident := rfl

@[simp] theorem State.modRelay_lan (s : State) {i f} : (s.modRelay i f).lan = s.lan := rfl

@[simp] theorem State.modRelay_flash (s : State) {i f} : (s.modRelay i f).flash = s.flash := rfl

@[simp] theorem State.modRelay_mgmt (s : State) {i f} : (s.modRelay i f).mgmt = s.mgmt := rfl

@[simp] theorem State.modRelay_bays (s : State) {i f} : (s.modRelay i f).bays = s.bays := rfl

@[simp] theorem State.modRelay_memsys (s : State) {i f} : (s.modRelay i f).memsys = s.memsys := rfl

@[simp] theorem State.modRelay_net (s : State) {i f} : (s.modRelay i f).net = s.net := rfl

@[simp] theorem State.modRelay_tth (s : State) {i f} : (s.modRelay i f).tth = s.tth := rfl

@[simp] theorem State.modRelay_dp (s : State) {i f} : (s.modRelay i f).dp = s.dp := rfl

@[simp] theorem State.modRelay_fab (s : State) {i f} : (s.modRelay i f).fab = { s.fab with relays := s.fab.relays.modify i f } := rfl

/-! State.dropSegment -/

@[simp] theorem State.dropSegment_pending (s : State) : (s.dropSegment).pending = s.pending := rfl

@[simp] theorem State.dropSegment_out (s : State) : (s.dropSegment).out = s.out := rfl

@[simp] theorem State.dropSegment_freeCount (s : State) : (s.dropSegment).freeCount = s.freeCount := rfl

@[simp] theorem State.dropSegment_mem (s : State) : (s.dropSegment).mem = s.mem := rfl

@[simp] theorem State.dropSegment_poison (s : State) : (s.dropSegment).poison = s.poison := rfl

@[simp] theorem State.dropSegment_dev (s : State) : (s.dropSegment).dev = s.dev := rfl

@[simp] theorem State.dropSegment_board (s : State) : (s.dropSegment).board = s.board := rfl

@[simp] theorem State.dropSegment_ident (s : State) : (s.dropSegment).ident = s.ident := rfl

@[simp] theorem State.dropSegment_lan (s : State) : (s.dropSegment).lan = s.lan := rfl

@[simp] theorem State.dropSegment_flash (s : State) : (s.dropSegment).flash = s.flash := rfl

@[simp] theorem State.dropSegment_mgmt (s : State) : (s.dropSegment).mgmt = s.mgmt := rfl

@[simp] theorem State.dropSegment_bays (s : State) : (s.dropSegment).bays = s.bays := rfl

@[simp] theorem State.dropSegment_memsys (s : State) : (s.dropSegment).memsys = s.memsys := rfl

@[simp] theorem State.dropSegment_net (s : State) : (s.dropSegment).net = s.net := rfl

@[simp] theorem State.dropSegment_tth (s : State) : (s.dropSegment).tth = s.tth := rfl

@[simp] theorem State.dropSegment_dp (s : State) : (s.dropSegment).dp = s.dp := rfl

@[simp] theorem State.dropSegment_fab (s : State) : (s.dropSegment).fab = { s.fab with segmentDrops := s.fab.segmentDrops + 1 } := rfl

/-! State.restartIdle -/

@[simp] theorem State.restartIdle_pending (s : State) : (s.restartIdle).pending = s.pending := rfl

@[simp] theorem State.restartIdle_out (s : State) : (s.restartIdle).out = s.out := rfl

@[simp] theorem State.restartIdle_freeCount (s : State) : (s.restartIdle).freeCount = s.freeCount := rfl

@[simp] theorem State.restartIdle_mem (s : State) : (s.restartIdle).mem = s.mem := rfl

@[simp] theorem State.restartIdle_poison (s : State) : (s.restartIdle).poison = s.poison := rfl

@[simp] theorem State.restartIdle_dev (s : State) : (s.restartIdle).dev = s.dev := rfl

@[simp] theorem State.restartIdle_board (s : State) : (s.restartIdle).board = s.board := rfl

@[simp] theorem State.restartIdle_ident (s : State) : (s.restartIdle).ident = s.ident := rfl

@[simp] theorem State.restartIdle_flash (s : State) : (s.restartIdle).flash = s.flash := rfl

@[simp] theorem State.restartIdle_mgmt (s : State) : (s.restartIdle).mgmt = s.mgmt := rfl

@[simp] theorem State.restartIdle_bays (s : State) : (s.restartIdle).bays = s.bays := rfl

@[simp] theorem State.restartIdle_memsys (s : State) : (s.restartIdle).memsys = s.memsys := rfl

@[simp] theorem State.restartIdle_net (s : State) : (s.restartIdle).net = s.net := rfl

@[simp] theorem State.restartIdle_tth (s : State) : (s.restartIdle).tth = s.tth := rfl

@[simp] theorem State.restartIdle_fab (s : State) : (s.restartIdle).fab = s.fab := rfl

@[simp] theorem State.restartIdle_dp (s : State) : (s.restartIdle).dp = s.dp := rfl

/-! State.wakeCause -/

@[simp] theorem State.wakeCause_pending (s : State) {i} : (s.wakeCause i).pending = s.pending := rfl

@[simp] theorem State.wakeCause_out (s : State) {i} : (s.wakeCause i).out = s.out := rfl

@[simp] theorem State.wakeCause_freeCount (s : State) {i} : (s.wakeCause i).freeCount = s.freeCount := rfl

@[simp] theorem State.wakeCause_mem (s : State) {i} : (s.wakeCause i).mem = s.mem := rfl

@[simp] theorem State.wakeCause_poison (s : State) {i} : (s.wakeCause i).poison = s.poison := rfl

@[simp] theorem State.wakeCause_dev (s : State) {i} : (s.wakeCause i).dev = s.dev := rfl

@[simp] theorem State.wakeCause_board (s : State) {i} : (s.wakeCause i).board = s.board := rfl

@[simp] theorem State.wakeCause_ident (s : State) {i} : (s.wakeCause i).ident = s.ident := rfl

@[simp] theorem State.wakeCause_flash (s : State) {i} : (s.wakeCause i).flash = s.flash := rfl

@[simp] theorem State.wakeCause_mgmt (s : State) {i} : (s.wakeCause i).mgmt = s.mgmt := rfl

@[simp] theorem State.wakeCause_bays (s : State) {i} : (s.wakeCause i).bays = s.bays := rfl

@[simp] theorem State.wakeCause_memsys (s : State) {i} : (s.wakeCause i).memsys = s.memsys := rfl

@[simp] theorem State.wakeCause_net (s : State) {i} : (s.wakeCause i).net = s.net := rfl

@[simp] theorem State.wakeCause_tth (s : State) {i} : (s.wakeCause i).tth = s.tth := rfl

@[simp] theorem State.wakeCause_fab (s : State) {i} : (s.wakeCause i).fab = s.fab := rfl

@[simp] theorem State.wakeCause_dp (s : State) {i} : (s.wakeCause i).dp = s.dp := rfl

@[simp] theorem State.wakeCause_lan (s : State) {i} : (s.wakeCause i).lan = { s.lan with wakeCause := s.lan.wakeCause ||| 2 ^ i } := rfl

/-! State.startCclk -/

@[simp] theorem State.startCclk_pending (s : State) {target cause cmd} : (s.startCclk target cause cmd).pending = s.pending := rfl

@[simp] theorem State.startCclk_out (s : State) {target cause cmd} : (s.startCclk target cause cmd).out = s.out := rfl

@[simp] theorem State.startCclk_freeCount (s : State) {target cause cmd} : (s.startCclk target cause cmd).freeCount = s.freeCount := rfl

@[simp] theorem State.startCclk_mem (s : State) {target cause cmd} : (s.startCclk target cause cmd).mem = s.mem := rfl

@[simp] theorem State.startCclk_poison (s : State) {target cause cmd} : (s.startCclk target cause cmd).poison = s.poison := rfl

@[simp] theorem State.startCclk_board (s : State) {target cause cmd} : (s.startCclk target cause cmd).board = s.board := rfl

@[simp] theorem State.startCclk_ident (s : State) {target cause cmd} : (s.startCclk target cause cmd).ident = s.ident := rfl

@[simp] theorem State.startCclk_lan (s : State) {target cause cmd} : (s.startCclk target cause cmd).lan = s.lan := rfl

@[simp] theorem State.startCclk_flash (s : State) {target cause cmd} : (s.startCclk target cause cmd).flash = s.flash := rfl

@[simp] theorem State.startCclk_mgmt (s : State) {target cause cmd} : (s.startCclk target cause cmd).mgmt = s.mgmt := rfl

@[simp] theorem State.startCclk_bays (s : State) {target cause cmd} : (s.startCclk target cause cmd).bays = s.bays := rfl

@[simp] theorem State.startCclk_memsys (s : State) {target cause cmd} : (s.startCclk target cause cmd).memsys = s.memsys := rfl

@[simp] theorem State.startCclk_net (s : State) {target cause cmd} : (s.startCclk target cause cmd).net = s.net := rfl

@[simp] theorem State.startCclk_tth (s : State) {target cause cmd} : (s.startCclk target cause cmd).tth = s.tth := rfl

@[simp] theorem State.startCclk_fab (s : State) {target cause cmd} : (s.startCclk target cause cmd).fab = s.fab := rfl

@[simp] theorem State.startCclk_dp (s : State) {target cause cmd} : (s.startCclk target cause cmd).dp = s.dp := rfl

@[simp] theorem State.startCclk_dev (s : State) {target cause cmd} : (s.startCclk target cause cmd).dev = { s.dev with cclkChange := some ⟨if s.dev.cclk < target then .raise else .lock, target, cause, cmd⟩ } := rfl

/-! State.clearCounters -/

@[simp] theorem State.clearCounters_pending (s : State) {k first n} : (s.clearCounters k first n).pending = s.pending := rfl

@[simp] theorem State.clearCounters_out (s : State) {k first n} : (s.clearCounters k first n).out = s.out := rfl

@[simp] theorem State.clearCounters_freeCount (s : State) {k first n} : (s.clearCounters k first n).freeCount = s.freeCount := rfl

@[simp] theorem State.clearCounters_mem (s : State) {k first n} : (s.clearCounters k first n).mem = s.mem := rfl

@[simp] theorem State.clearCounters_poison (s : State) {k first n} : (s.clearCounters k first n).poison = s.poison := rfl

@[simp] theorem State.clearCounters_dev (s : State) {k first n} : (s.clearCounters k first n).dev = s.dev := rfl

@[simp] theorem State.clearCounters_board (s : State) {k first n} : (s.clearCounters k first n).board = s.board := rfl

@[simp] theorem State.clearCounters_ident (s : State) {k first n} : (s.clearCounters k first n).ident = s.ident := rfl

@[simp] theorem State.clearCounters_lan (s : State) {k first n} : (s.clearCounters k first n).lan = s.lan := rfl

@[simp] theorem State.clearCounters_flash (s : State) {k first n} : (s.clearCounters k first n).flash = s.flash := rfl

@[simp] theorem State.clearCounters_bays (s : State) {k first n} : (s.clearCounters k first n).bays = s.bays := rfl

@[simp] theorem State.clearCounters_memsys (s : State) {k first n} : (s.clearCounters k first n).memsys = s.memsys := rfl

@[simp] theorem State.clearCounters_net (s : State) {k first n} : (s.clearCounters k first n).net = s.net := rfl

@[simp] theorem State.clearCounters_tth (s : State) {k first n} : (s.clearCounters k first n).tth = s.tth := rfl

@[simp] theorem State.clearCounters_fab (s : State) {k first n} : (s.clearCounters k first n).fab = s.fab := rfl

@[simp] theorem State.clearCounters_dp (s : State) {k first n} : (s.clearCounters k first n).dp = s.dp := rfl

/-! State.beginBoot -/

@[simp] theorem State.beginBoot_pending (s : State) {kind cause} : (s.beginBoot kind cause).pending = s.pending := rfl

@[simp] theorem State.beginBoot_out (s : State) {kind cause} : (s.beginBoot kind cause).out = s.out := rfl

@[simp] theorem State.beginBoot_freeCount (s : State) {kind cause} : (s.beginBoot kind cause).freeCount = s.freeCount := rfl

@[simp] theorem State.beginBoot_mem (s : State) {kind cause} : (s.beginBoot kind cause).mem = s.mem := rfl

@[simp] theorem State.beginBoot_poison (s : State) {kind cause} : (s.beginBoot kind cause).poison = s.poison := rfl

@[simp] theorem State.beginBoot_board (s : State) {kind cause} : (s.beginBoot kind cause).board = s.board := rfl

@[simp] theorem State.beginBoot_ident (s : State) {kind cause} : (s.beginBoot kind cause).ident = s.ident := rfl

@[simp] theorem State.beginBoot_flash (s : State) {kind cause} : (s.beginBoot kind cause).flash = s.flash := rfl

@[simp] theorem State.beginBoot_mgmt (s : State) {kind cause} : (s.beginBoot kind cause).mgmt = s.mgmt := rfl

@[simp] theorem State.beginBoot_bays (s : State) {kind cause} : (s.beginBoot kind cause).bays = s.bays := rfl

@[simp] theorem State.beginBoot_memsys (s : State) {kind cause} : (s.beginBoot kind cause).memsys = s.memsys := rfl

@[simp] theorem State.beginBoot_net (s : State) {kind cause} : (s.beginBoot kind cause).net = s.net := rfl

@[simp] theorem State.beginBoot_tth (s : State) {kind cause} : (s.beginBoot kind cause).tth = s.tth := rfl

@[simp] theorem State.beginBoot_fab (s : State) {kind cause} : (s.beginBoot kind cause).fab = s.fab := rfl

@[simp] theorem State.beginBoot_dp (s : State) {kind cause} : (s.beginBoot kind cause).dp = s.dp := rfl

/-! State.modFw -/

@[simp] theorem State.modFw_pending (s : State) {i f} : (s.modFw i f).pending = s.pending := rfl

@[simp] theorem State.modFw_out (s : State) {i f} : (s.modFw i f).out = s.out := rfl

@[simp] theorem State.modFw_freeCount (s : State) {i f} : (s.modFw i f).freeCount = s.freeCount := rfl

@[simp] theorem State.modFw_mem (s : State) {i f} : (s.modFw i f).mem = s.mem := rfl

@[simp] theorem State.modFw_poison (s : State) {i f} : (s.modFw i f).poison = s.poison := rfl

@[simp] theorem State.modFw_dev (s : State) {i f} : (s.modFw i f).dev = s.dev := rfl

@[simp] theorem State.modFw_board (s : State) {i f} : (s.modFw i f).board = s.board := rfl

@[simp] theorem State.modFw_ident (s : State) {i f} : (s.modFw i f).ident = s.ident := rfl

@[simp] theorem State.modFw_lan (s : State) {i f} : (s.modFw i f).lan = s.lan := rfl

@[simp] theorem State.modFw_mgmt (s : State) {i f} : (s.modFw i f).mgmt = s.mgmt := rfl

@[simp] theorem State.modFw_bays (s : State) {i f} : (s.modFw i f).bays = s.bays := rfl

@[simp] theorem State.modFw_memsys (s : State) {i f} : (s.modFw i f).memsys = s.memsys := rfl

@[simp] theorem State.modFw_net (s : State) {i f} : (s.modFw i f).net = s.net := rfl

@[simp] theorem State.modFw_tth (s : State) {i f} : (s.modFw i f).tth = s.tth := rfl

@[simp] theorem State.modFw_fab (s : State) {i f} : (s.modFw i f).fab = s.fab := rfl

@[simp] theorem State.modFw_dp (s : State) {i f} : (s.modFw i f).dp = s.dp := rfl

@[simp] theorem State.modFw_flash (s : State) {i f} : (s.modFw i f).flash = { s.flash with slots := s.flash.slots.modify i f } := rfl

/-! State.failBoot -/

@[simp] theorem State.failBoot_pending (s : State) : (s.failBoot).pending = s.pending := rfl

@[simp] theorem State.failBoot_out (s : State) : (s.failBoot).out = s.out := rfl

@[simp] theorem State.failBoot_freeCount (s : State) : (s.failBoot).freeCount = s.freeCount := rfl

@[simp] theorem State.failBoot_mem (s : State) : (s.failBoot).mem = s.mem := rfl

@[simp] theorem State.failBoot_poison (s : State) : (s.failBoot).poison = s.poison := rfl

@[simp] theorem State.failBoot_board (s : State) : (s.failBoot).board = s.board := rfl

@[simp] theorem State.failBoot_ident (s : State) : (s.failBoot).ident = s.ident := rfl

@[simp] theorem State.failBoot_lan (s : State) : (s.failBoot).lan = s.lan := rfl

@[simp] theorem State.failBoot_flash (s : State) : (s.failBoot).flash = s.flash := rfl

@[simp] theorem State.failBoot_mgmt (s : State) : (s.failBoot).mgmt = s.mgmt := rfl

@[simp] theorem State.failBoot_bays (s : State) : (s.failBoot).bays = s.bays := rfl

@[simp] theorem State.failBoot_memsys (s : State) : (s.failBoot).memsys = s.memsys := rfl

@[simp] theorem State.failBoot_net (s : State) : (s.failBoot).net = s.net := rfl

@[simp] theorem State.failBoot_tth (s : State) : (s.failBoot).tth = s.tth := rfl

@[simp] theorem State.failBoot_fab (s : State) : (s.failBoot).fab = s.fab := rfl

@[simp] theorem State.failBoot_dp (s : State) : (s.failBoot).dp = s.dp := rfl

@[simp] theorem State.failBoot_dev (s : State) : (s.failBoot).dev = { s.dev with bootFailed := true } := rfl

/-! State.dropLookup -/

@[simp] theorem State.dropLookup_pending (s : State) {id} : (s.dropLookup id).pending = s.pending := rfl

@[simp] theorem State.dropLookup_out (s : State) {id} : (s.dropLookup id).out = s.out := rfl

@[simp] theorem State.dropLookup_freeCount (s : State) {id} : (s.dropLookup id).freeCount = s.freeCount := rfl

@[simp] theorem State.dropLookup_mem (s : State) {id} : (s.dropLookup id).mem = s.mem := rfl

@[simp] theorem State.dropLookup_poison (s : State) {id} : (s.dropLookup id).poison = s.poison := rfl

@[simp] theorem State.dropLookup_dev (s : State) {id} : (s.dropLookup id).dev = s.dev := rfl

@[simp] theorem State.dropLookup_board (s : State) {id} : (s.dropLookup id).board = s.board := rfl

@[simp] theorem State.dropLookup_ident (s : State) {id} : (s.dropLookup id).ident = s.ident := rfl

@[simp] theorem State.dropLookup_lan (s : State) {id} : (s.dropLookup id).lan = s.lan := rfl

@[simp] theorem State.dropLookup_flash (s : State) {id} : (s.dropLookup id).flash = s.flash := rfl

@[simp] theorem State.dropLookup_mgmt (s : State) {id} : (s.dropLookup id).mgmt = s.mgmt := rfl

@[simp] theorem State.dropLookup_bays (s : State) {id} : (s.dropLookup id).bays = s.bays := rfl

@[simp] theorem State.dropLookup_memsys (s : State) {id} : (s.dropLookup id).memsys = s.memsys := rfl

@[simp] theorem State.dropLookup_net (s : State) {id} : (s.dropLookup id).net = s.net := rfl

@[simp] theorem State.dropLookup_tth (s : State) {id} : (s.dropLookup id).tth = s.tth := rfl

@[simp] theorem State.dropLookup_fab (s : State) {id} : (s.dropLookup id).fab = s.fab := rfl

@[simp] theorem State.dropLookup_dp (s : State) {id} : (s.dropLookup id).dp = { s.dp with lookups := dropKey Lookup.id s.dp.lookups id } := rfl

/-! State.forgetEntries -/

@[simp] theorem State.forgetEntries_pending (s : State) {b table} : (State.forgetEntries s b table).pending = s.pending := rfl

@[simp] theorem State.forgetEntries_out (s : State) {b table} : (State.forgetEntries s b table).out = s.out := rfl

@[simp] theorem State.forgetEntries_freeCount (s : State) {b table} : (State.forgetEntries s b table).freeCount = s.freeCount := rfl

@[simp] theorem State.forgetEntries_poison (s : State) {b table} : (State.forgetEntries s b table).poison = s.poison := rfl

@[simp] theorem State.forgetEntries_dev (s : State) {b table} : (State.forgetEntries s b table).dev = s.dev := rfl

@[simp] theorem State.forgetEntries_board (s : State) {b table} : (State.forgetEntries s b table).board = s.board := rfl

@[simp] theorem State.forgetEntries_ident (s : State) {b table} : (State.forgetEntries s b table).ident = s.ident := rfl

@[simp] theorem State.forgetEntries_lan (s : State) {b table} : (State.forgetEntries s b table).lan = s.lan := rfl

@[simp] theorem State.forgetEntries_flash (s : State) {b table} : (State.forgetEntries s b table).flash = s.flash := rfl

@[simp] theorem State.forgetEntries_mgmt (s : State) {b table} : (State.forgetEntries s b table).mgmt = s.mgmt := rfl

@[simp] theorem State.forgetEntries_bays (s : State) {b table} : (State.forgetEntries s b table).bays = s.bays := rfl

@[simp] theorem State.forgetEntries_memsys (s : State) {b table} : (State.forgetEntries s b table).memsys = s.memsys := rfl

@[simp] theorem State.forgetEntries_net (s : State) {b table} : (State.forgetEntries s b table).net = s.net := rfl

@[simp] theorem State.forgetEntries_tth (s : State) {b table} : (State.forgetEntries s b table).tth = s.tth := rfl

@[simp] theorem State.forgetEntries_fab (s : State) {b table} : (State.forgetEntries s b table).fab = s.fab := rfl

@[simp] theorem State.forgetEntries_mem (s : State) {b table} : (State.forgetEntries s b table).mem = s.mem := rfl

/-! State.endMover -/

@[simp] theorem State.endMover_pending (s : State) {id} : (State.endMover s id).pending = s.pending := rfl

@[simp] theorem State.endMover_out (s : State) {id} : (State.endMover s id).out = s.out := rfl

@[simp] theorem State.endMover_freeCount (s : State) {id} : (State.endMover s id).freeCount = s.freeCount := rfl

@[simp] theorem State.endMover_poison (s : State) {id} : (State.endMover s id).poison = s.poison := rfl

@[simp] theorem State.endMover_dev (s : State) {id} : (State.endMover s id).dev = s.dev := rfl

@[simp] theorem State.endMover_board (s : State) {id} : (State.endMover s id).board = s.board := rfl

@[simp] theorem State.endMover_ident (s : State) {id} : (State.endMover s id).ident = s.ident := rfl

@[simp] theorem State.endMover_lan (s : State) {id} : (State.endMover s id).lan = s.lan := rfl

@[simp] theorem State.endMover_flash (s : State) {id} : (State.endMover s id).flash = s.flash := rfl

@[simp] theorem State.endMover_mgmt (s : State) {id} : (State.endMover s id).mgmt = s.mgmt := rfl

@[simp] theorem State.endMover_bays (s : State) {id} : (State.endMover s id).bays = s.bays := rfl

@[simp] theorem State.endMover_memsys (s : State) {id} : (State.endMover s id).memsys = s.memsys := rfl

@[simp] theorem State.endMover_net (s : State) {id} : (State.endMover s id).net = s.net := rfl

@[simp] theorem State.endMover_tth (s : State) {id} : (State.endMover s id).tth = s.tth := rfl

@[simp] theorem State.endMover_fab (s : State) {id} : (State.endMover s id).fab = s.fab := rfl

@[simp] theorem State.endMover_mem (s : State) {id} : (State.endMover s id).mem = s.mem := rfl

/-! State.dropReads -/

@[simp] theorem State.dropReads_pending (s : State) {p} : (State.dropReads s p).pending = s.pending := rfl

@[simp] theorem State.dropReads_out (s : State) {p} : (State.dropReads s p).out = s.out := rfl

@[simp] theorem State.dropReads_freeCount (s : State) {p} : (State.dropReads s p).freeCount = s.freeCount := rfl

@[simp] theorem State.dropReads_poison (s : State) {p} : (State.dropReads s p).poison = s.poison := rfl

@[simp] theorem State.dropReads_dev (s : State) {p} : (State.dropReads s p).dev = s.dev := rfl

@[simp] theorem State.dropReads_board (s : State) {p} : (State.dropReads s p).board = s.board := rfl

@[simp] theorem State.dropReads_ident (s : State) {p} : (State.dropReads s p).ident = s.ident := rfl

@[simp] theorem State.dropReads_lan (s : State) {p} : (State.dropReads s p).lan = s.lan := rfl

@[simp] theorem State.dropReads_flash (s : State) {p} : (State.dropReads s p).flash = s.flash := rfl

@[simp] theorem State.dropReads_mgmt (s : State) {p} : (State.dropReads s p).mgmt = s.mgmt := rfl

@[simp] theorem State.dropReads_bays (s : State) {p} : (State.dropReads s p).bays = s.bays := rfl

@[simp] theorem State.dropReads_memsys (s : State) {p} : (State.dropReads s p).memsys = s.memsys := rfl

@[simp] theorem State.dropReads_net (s : State) {p} : (State.dropReads s p).net = s.net := rfl

@[simp] theorem State.dropReads_tth (s : State) {p} : (State.dropReads s p).tth = s.tth := rfl

@[simp] theorem State.dropReads_mem (s : State) {p} : (State.dropReads s p).mem = s.mem := rfl

/-! State.cacheEntry -/

@[simp] theorem State.cacheEntry_pending (s : State) {b die table row} : (State.cacheEntry s b die table row).pending = s.pending := rfl

@[simp] theorem State.cacheEntry_out (s : State) {b die table row} : (State.cacheEntry s b die table row).out = s.out := rfl

@[simp] theorem State.cacheEntry_freeCount (s : State) {b die table row} : (State.cacheEntry s b die table row).freeCount = s.freeCount := rfl

@[simp] theorem State.cacheEntry_poison (s : State) {b die table row} : (State.cacheEntry s b die table row).poison = s.poison := rfl

@[simp] theorem State.cacheEntry_dev (s : State) {b die table row} : (State.cacheEntry s b die table row).dev = s.dev := rfl

@[simp] theorem State.cacheEntry_board (s : State) {b die table row} : (State.cacheEntry s b die table row).board = s.board := rfl

@[simp] theorem State.cacheEntry_ident (s : State) {b die table row} : (State.cacheEntry s b die table row).ident = s.ident := rfl

@[simp] theorem State.cacheEntry_lan (s : State) {b die table row} : (State.cacheEntry s b die table row).lan = s.lan := rfl

@[simp] theorem State.cacheEntry_flash (s : State) {b die table row} : (State.cacheEntry s b die table row).flash = s.flash := rfl

@[simp] theorem State.cacheEntry_mgmt (s : State) {b die table row} : (State.cacheEntry s b die table row).mgmt = s.mgmt := rfl

@[simp] theorem State.cacheEntry_bays (s : State) {b die table row} : (State.cacheEntry s b die table row).bays = s.bays := rfl

@[simp] theorem State.cacheEntry_memsys (s : State) {b die table row} : (State.cacheEntry s b die table row).memsys = s.memsys := rfl

@[simp] theorem State.cacheEntry_net (s : State) {b die table row} : (State.cacheEntry s b die table row).net = s.net := rfl

@[simp] theorem State.cacheEntry_tth (s : State) {b die table row} : (State.cacheEntry s b die table row).tth = s.tth := rfl

@[simp] theorem State.cacheEntry_fab (s : State) {b die table row} : (State.cacheEntry s b die table row).fab = s.fab := rfl

@[simp] theorem State.cacheEntry_mem (s : State) {b die table row} : (State.cacheEntry s b die table row).mem = s.mem := rfl

/-! State.modMatrix -/

@[simp] theorem State.modMatrix_pending (s : State) {id f} : (State.modMatrix s id f).pending = s.pending := rfl

@[simp] theorem State.modMatrix_out (s : State) {id f} : (State.modMatrix s id f).out = s.out := rfl

@[simp] theorem State.modMatrix_freeCount (s : State) {id f} : (State.modMatrix s id f).freeCount = s.freeCount := rfl

@[simp] theorem State.modMatrix_poison (s : State) {id f} : (State.modMatrix s id f).poison = s.poison := rfl

@[simp] theorem State.modMatrix_dev (s : State) {id f} : (State.modMatrix s id f).dev = s.dev := rfl

@[simp] theorem State.modMatrix_board (s : State) {id f} : (State.modMatrix s id f).board = s.board := rfl

@[simp] theorem State.modMatrix_ident (s : State) {id f} : (State.modMatrix s id f).ident = s.ident := rfl

@[simp] theorem State.modMatrix_lan (s : State) {id f} : (State.modMatrix s id f).lan = s.lan := rfl

@[simp] theorem State.modMatrix_flash (s : State) {id f} : (State.modMatrix s id f).flash = s.flash := rfl

@[simp] theorem State.modMatrix_mgmt (s : State) {id f} : (State.modMatrix s id f).mgmt = s.mgmt := rfl

@[simp] theorem State.modMatrix_bays (s : State) {id f} : (State.modMatrix s id f).bays = s.bays := rfl

@[simp] theorem State.modMatrix_memsys (s : State) {id f} : (State.modMatrix s id f).memsys = s.memsys := rfl

@[simp] theorem State.modMatrix_net (s : State) {id f} : (State.modMatrix s id f).net = s.net := rfl

@[simp] theorem State.modMatrix_tth (s : State) {id f} : (State.modMatrix s id f).tth = s.tth := rfl

@[simp] theorem State.modMatrix_fab (s : State) {id f} : (State.modMatrix s id f).fab = s.fab := rfl

@[simp] theorem State.modMatrix_mem (s : State) {id f} : (State.modMatrix s id f).mem = s.mem := rfl

/-! State.endRuns -/

@[simp] theorem State.endRuns_pending (s : State) {cmd} : (State.endRuns s cmd).pending = s.pending := rfl

@[simp] theorem State.endRuns_out (s : State) {cmd} : (State.endRuns s cmd).out = s.out := rfl

@[simp] theorem State.endRuns_freeCount (s : State) {cmd} : (State.endRuns s cmd).freeCount = s.freeCount := rfl

@[simp] theorem State.endRuns_poison (s : State) {cmd} : (State.endRuns s cmd).poison = s.poison := rfl

@[simp] theorem State.endRuns_dev (s : State) {cmd} : (State.endRuns s cmd).dev = s.dev := rfl

@[simp] theorem State.endRuns_board (s : State) {cmd} : (State.endRuns s cmd).board = s.board := rfl

@[simp] theorem State.endRuns_ident (s : State) {cmd} : (State.endRuns s cmd).ident = s.ident := rfl

@[simp] theorem State.endRuns_lan (s : State) {cmd} : (State.endRuns s cmd).lan = s.lan := rfl

@[simp] theorem State.endRuns_flash (s : State) {cmd} : (State.endRuns s cmd).flash = s.flash := rfl

@[simp] theorem State.endRuns_mgmt (s : State) {cmd} : (State.endRuns s cmd).mgmt = s.mgmt := rfl

@[simp] theorem State.endRuns_bays (s : State) {cmd} : (State.endRuns s cmd).bays = s.bays := rfl

@[simp] theorem State.endRuns_memsys (s : State) {cmd} : (State.endRuns s cmd).memsys = s.memsys := rfl

@[simp] theorem State.endRuns_net (s : State) {cmd} : (State.endRuns s cmd).net = s.net := rfl

@[simp] theorem State.endRuns_tth (s : State) {cmd} : (State.endRuns s cmd).tth = s.tth := rfl

@[simp] theorem State.endRuns_fab (s : State) {cmd} : (State.endRuns s cmd).fab = s.fab := rfl

@[simp] theorem State.endRuns_mem (s : State) {cmd} : (State.endRuns s cmd).mem = s.mem := rfl

/-! State.unreserve -/

@[simp] theorem State.unreserve_pending (s : State) {b crew hand addr n} : (State.unreserve s b crew hand addr n).pending = s.pending := rfl

@[simp] theorem State.unreserve_out (s : State) {b crew hand addr n} : (State.unreserve s b crew hand addr n).out = s.out := rfl

@[simp] theorem State.unreserve_freeCount (s : State) {b crew hand addr n} : (State.unreserve s b crew hand addr n).freeCount = s.freeCount := rfl

@[simp] theorem State.unreserve_poison (s : State) {b crew hand addr n} : (State.unreserve s b crew hand addr n).poison = s.poison := rfl

@[simp] theorem State.unreserve_dev (s : State) {b crew hand addr n} : (State.unreserve s b crew hand addr n).dev = s.dev := rfl

@[simp] theorem State.unreserve_board (s : State) {b crew hand addr n} : (State.unreserve s b crew hand addr n).board = s.board := rfl

@[simp] theorem State.unreserve_ident (s : State) {b crew hand addr n} : (State.unreserve s b crew hand addr n).ident = s.ident := rfl

@[simp] theorem State.unreserve_lan (s : State) {b crew hand addr n} : (State.unreserve s b crew hand addr n).lan = s.lan := rfl

@[simp] theorem State.unreserve_flash (s : State) {b crew hand addr n} : (State.unreserve s b crew hand addr n).flash = s.flash := rfl

@[simp] theorem State.unreserve_mgmt (s : State) {b crew hand addr n} : (State.unreserve s b crew hand addr n).mgmt = s.mgmt := rfl

@[simp] theorem State.unreserve_bays (s : State) {b crew hand addr n} : (State.unreserve s b crew hand addr n).bays = s.bays := rfl

@[simp] theorem State.unreserve_memsys (s : State) {b crew hand addr n} : (State.unreserve s b crew hand addr n).memsys = s.memsys := rfl

@[simp] theorem State.unreserve_net (s : State) {b crew hand addr n} : (State.unreserve s b crew hand addr n).net = s.net := rfl

@[simp] theorem State.unreserve_tth (s : State) {b crew hand addr n} : (State.unreserve s b crew hand addr n).tth = s.tth := rfl

@[simp] theorem State.unreserve_fab (s : State) {b crew hand addr n} : (State.unreserve s b crew hand addr n).fab = s.fab := rfl

@[simp] theorem State.unreserve_mem (s : State) {b crew hand addr n} : (State.unreserve s b crew hand addr n).mem = s.mem := rfl

/-! State.pauseLink -/

@[simp] theorem State.pauseLink_pending (s : State) {link} : (State.pauseLink s link).pending = s.pending := rfl

@[simp] theorem State.pauseLink_out (s : State) {link} : (State.pauseLink s link).out = s.out := rfl

@[simp] theorem State.pauseLink_freeCount (s : State) {link} : (State.pauseLink s link).freeCount = s.freeCount := rfl

@[simp] theorem State.pauseLink_poison (s : State) {link} : (State.pauseLink s link).poison = s.poison := rfl

@[simp] theorem State.pauseLink_dev (s : State) {link} : (State.pauseLink s link).dev = s.dev := rfl

@[simp] theorem State.pauseLink_board (s : State) {link} : (State.pauseLink s link).board = s.board := rfl

@[simp] theorem State.pauseLink_ident (s : State) {link} : (State.pauseLink s link).ident = s.ident := rfl

@[simp] theorem State.pauseLink_lan (s : State) {link} : (State.pauseLink s link).lan = s.lan := rfl

@[simp] theorem State.pauseLink_flash (s : State) {link} : (State.pauseLink s link).flash = s.flash := rfl

@[simp] theorem State.pauseLink_mgmt (s : State) {link} : (State.pauseLink s link).mgmt = s.mgmt := rfl

@[simp] theorem State.pauseLink_bays (s : State) {link} : (State.pauseLink s link).bays = s.bays := rfl

@[simp] theorem State.pauseLink_memsys (s : State) {link} : (State.pauseLink s link).memsys = s.memsys := rfl

@[simp] theorem State.pauseLink_net (s : State) {link} : (State.pauseLink s link).net = s.net := rfl

@[simp] theorem State.pauseLink_tth (s : State) {link} : (State.pauseLink s link).tth = s.tth := rfl

@[simp] theorem State.pauseLink_dp (s : State) {link} : (State.pauseLink s link).dp = s.dp := rfl

@[simp] theorem State.pauseLink_mem (s : State) {link} : (State.pauseLink s link).mem = s.mem := rfl

/-! State.resumeLink -/

@[simp] theorem State.resumeLink_pending (s : State) {link} : (State.resumeLink s link).pending = s.pending := rfl

@[simp] theorem State.resumeLink_out (s : State) {link} : (State.resumeLink s link).out = s.out := rfl

@[simp] theorem State.resumeLink_freeCount (s : State) {link} : (State.resumeLink s link).freeCount = s.freeCount := rfl

@[simp] theorem State.resumeLink_poison (s : State) {link} : (State.resumeLink s link).poison = s.poison := rfl

@[simp] theorem State.resumeLink_dev (s : State) {link} : (State.resumeLink s link).dev = s.dev := rfl

@[simp] theorem State.resumeLink_board (s : State) {link} : (State.resumeLink s link).board = s.board := rfl

@[simp] theorem State.resumeLink_ident (s : State) {link} : (State.resumeLink s link).ident = s.ident := rfl

@[simp] theorem State.resumeLink_lan (s : State) {link} : (State.resumeLink s link).lan = s.lan := rfl

@[simp] theorem State.resumeLink_flash (s : State) {link} : (State.resumeLink s link).flash = s.flash := rfl

@[simp] theorem State.resumeLink_mgmt (s : State) {link} : (State.resumeLink s link).mgmt = s.mgmt := rfl

@[simp] theorem State.resumeLink_bays (s : State) {link} : (State.resumeLink s link).bays = s.bays := rfl

@[simp] theorem State.resumeLink_memsys (s : State) {link} : (State.resumeLink s link).memsys = s.memsys := rfl

@[simp] theorem State.resumeLink_net (s : State) {link} : (State.resumeLink s link).net = s.net := rfl

@[simp] theorem State.resumeLink_tth (s : State) {link} : (State.resumeLink s link).tth = s.tth := rfl

@[simp] theorem State.resumeLink_mem (s : State) {link} : (State.resumeLink s link).mem = s.mem := rfl

/-! State.endLed -/

@[simp] theorem State.endLed_pending (s : State) {node tag} : (State.endLed s node tag).pending = s.pending := rfl

@[simp] theorem State.endLed_out (s : State) {node tag} : (State.endLed s node tag).out = s.out := rfl

@[simp] theorem State.endLed_freeCount (s : State) {node tag} : (State.endLed s node tag).freeCount = s.freeCount := rfl

@[simp] theorem State.endLed_poison (s : State) {node tag} : (State.endLed s node tag).poison = s.poison := rfl

@[simp] theorem State.endLed_dev (s : State) {node tag} : (State.endLed s node tag).dev = s.dev := rfl

@[simp] theorem State.endLed_board (s : State) {node tag} : (State.endLed s node tag).board = s.board := rfl

@[simp] theorem State.endLed_ident (s : State) {node tag} : (State.endLed s node tag).ident = s.ident := rfl

@[simp] theorem State.endLed_lan (s : State) {node tag} : (State.endLed s node tag).lan = s.lan := rfl

@[simp] theorem State.endLed_flash (s : State) {node tag} : (State.endLed s node tag).flash = s.flash := rfl

@[simp] theorem State.endLed_mgmt (s : State) {node tag} : (State.endLed s node tag).mgmt = s.mgmt := rfl

@[simp] theorem State.endLed_memsys (s : State) {node tag} : (State.endLed s node tag).memsys = s.memsys := rfl

@[simp] theorem State.endLed_net (s : State) {node tag} : (State.endLed s node tag).net = s.net := rfl

@[simp] theorem State.endLed_tth (s : State) {node tag} : (State.endLed s node tag).tth = s.tth := rfl

@[simp] theorem State.endLed_fab (s : State) {node tag} : (State.endLed s node tag).fab = s.fab := rfl

@[simp] theorem State.endLed_dp (s : State) {node tag} : (State.endLed s node tag).dp = s.dp := rfl

@[simp] theorem State.endLed_mem (s : State) {node tag} : (State.endLed s node tag).mem = s.mem := rfl

/-! State.restartChannels -/

@[simp] theorem State.restartChannels_pending (s : State) {node} : (State.restartChannels s node).pending = s.pending := rfl

@[simp] theorem State.restartChannels_out (s : State) {node} : (State.restartChannels s node).out = s.out := rfl

@[simp] theorem State.restartChannels_freeCount (s : State) {node} : (State.restartChannels s node).freeCount = s.freeCount := rfl

@[simp] theorem State.restartChannels_poison (s : State) {node} : (State.restartChannels s node).poison = s.poison := rfl

@[simp] theorem State.restartChannels_dev (s : State) {node} : (State.restartChannels s node).dev = s.dev := rfl

@[simp] theorem State.restartChannels_board (s : State) {node} : (State.restartChannels s node).board = s.board := rfl

@[simp] theorem State.restartChannels_ident (s : State) {node} : (State.restartChannels s node).ident = s.ident := rfl

@[simp] theorem State.restartChannels_lan (s : State) {node} : (State.restartChannels s node).lan = s.lan := rfl

@[simp] theorem State.restartChannels_flash (s : State) {node} : (State.restartChannels s node).flash = s.flash := rfl

@[simp] theorem State.restartChannels_mgmt (s : State) {node} : (State.restartChannels s node).mgmt = s.mgmt := rfl

@[simp] theorem State.restartChannels_bays (s : State) {node} : (State.restartChannels s node).bays = s.bays := rfl

@[simp] theorem State.restartChannels_memsys (s : State) {node} : (State.restartChannels s node).memsys = s.memsys := rfl

@[simp] theorem State.restartChannels_net (s : State) {node} : (State.restartChannels s node).net = s.net := rfl

@[simp] theorem State.restartChannels_tth (s : State) {node} : (State.restartChannels s node).tth = s.tth := rfl

@[simp] theorem State.restartChannels_dp (s : State) {node} : (State.restartChannels s node).dp = s.dp := rfl

@[simp] theorem State.restartChannels_mem (s : State) {node} : (State.restartChannels s node).mem = s.mem := rfl

/-! State.driveFans -/

@[simp] theorem State.driveFans_pending (s : State) : (State.driveFans s).pending = s.pending := rfl

@[simp] theorem State.driveFans_out (s : State) : (State.driveFans s).out = s.out := rfl

@[simp] theorem State.driveFans_freeCount (s : State) : (State.driveFans s).freeCount = s.freeCount := rfl

@[simp] theorem State.driveFans_poison (s : State) : (State.driveFans s).poison = s.poison := rfl

@[simp] theorem State.driveFans_dev (s : State) : (State.driveFans s).dev = s.dev := rfl

@[simp] theorem State.driveFans_ident (s : State) : (State.driveFans s).ident = s.ident := rfl

@[simp] theorem State.driveFans_lan (s : State) : (State.driveFans s).lan = s.lan := rfl

@[simp] theorem State.driveFans_flash (s : State) : (State.driveFans s).flash = s.flash := rfl

@[simp] theorem State.driveFans_mgmt (s : State) : (State.driveFans s).mgmt = s.mgmt := rfl

@[simp] theorem State.driveFans_bays (s : State) : (State.driveFans s).bays = s.bays := rfl

@[simp] theorem State.driveFans_memsys (s : State) : (State.driveFans s).memsys = s.memsys := rfl

@[simp] theorem State.driveFans_net (s : State) : (State.driveFans s).net = s.net := rfl

@[simp] theorem State.driveFans_tth (s : State) : (State.driveFans s).tth = s.tth := rfl

@[simp] theorem State.driveFans_fab (s : State) : (State.driveFans s).fab = s.fab := rfl

@[simp] theorem State.driveFans_dp (s : State) : (State.driveFans s).dp = s.dp := rfl

@[simp] theorem State.driveFans_mem (s : State) : (State.driveFans s).mem = s.mem := rfl

/-! State.putRead -/

@[simp] theorem State.putRead_pending (s : State) {b die ctx queue started purpose space addr granules half outside} : (State.putRead s b die ctx queue started purpose space addr granules half outside).pending = s.pending := rfl

@[simp] theorem State.putRead_out (s : State) {b die ctx queue started purpose space addr granules half outside} : (State.putRead s b die ctx queue started purpose space addr granules half outside).out = s.out := rfl

@[simp] theorem State.putRead_freeCount (s : State) {b die ctx queue started purpose space addr granules half outside} : (State.putRead s b die ctx queue started purpose space addr granules half outside).freeCount = s.freeCount := rfl

@[simp] theorem State.putRead_poison (s : State) {b die ctx queue started purpose space addr granules half outside} : (State.putRead s b die ctx queue started purpose space addr granules half outside).poison = s.poison := rfl

@[simp] theorem State.putRead_dev (s : State) {b die ctx queue started purpose space addr granules half outside} : (State.putRead s b die ctx queue started purpose space addr granules half outside).dev = s.dev := rfl

@[simp] theorem State.putRead_board (s : State) {b die ctx queue started purpose space addr granules half outside} : (State.putRead s b die ctx queue started purpose space addr granules half outside).board = s.board := rfl

@[simp] theorem State.putRead_ident (s : State) {b die ctx queue started purpose space addr granules half outside} : (State.putRead s b die ctx queue started purpose space addr granules half outside).ident = s.ident := rfl

@[simp] theorem State.putRead_lan (s : State) {b die ctx queue started purpose space addr granules half outside} : (State.putRead s b die ctx queue started purpose space addr granules half outside).lan = s.lan := rfl

@[simp] theorem State.putRead_flash (s : State) {b die ctx queue started purpose space addr granules half outside} : (State.putRead s b die ctx queue started purpose space addr granules half outside).flash = s.flash := rfl

@[simp] theorem State.putRead_mgmt (s : State) {b die ctx queue started purpose space addr granules half outside} : (State.putRead s b die ctx queue started purpose space addr granules half outside).mgmt = s.mgmt := rfl

@[simp] theorem State.putRead_bays (s : State) {b die ctx queue started purpose space addr granules half outside} : (State.putRead s b die ctx queue started purpose space addr granules half outside).bays = s.bays := rfl

@[simp] theorem State.putRead_memsys (s : State) {b die ctx queue started purpose space addr granules half outside} : (State.putRead s b die ctx queue started purpose space addr granules half outside).memsys = s.memsys := rfl

@[simp] theorem State.putRead_net (s : State) {b die ctx queue started purpose space addr granules half outside} : (State.putRead s b die ctx queue started purpose space addr granules half outside).net = s.net := rfl

@[simp] theorem State.putRead_tth (s : State) {b die ctx queue started purpose space addr granules half outside} : (State.putRead s b die ctx queue started purpose space addr granules half outside).tth = s.tth := rfl

@[simp] theorem State.putRead_fab (s : State) {b die ctx queue started purpose space addr granules half outside} : (State.putRead s b die ctx queue started purpose space addr granules half outside).fab = s.fab := rfl

@[simp] theorem State.putRead_mem (s : State) {b die ctx queue started purpose space addr granules half outside} : (State.putRead s b die ctx queue started purpose space addr granules half outside).mem = s.mem := rfl

/-! State.putRequest -/

@[simp] theorem State.putRequest_pending (s : State) {b die ctx queue purpose kind flags node table version bags rows body g original} : (State.putRequest s b die ctx queue purpose kind flags node table version bags rows body g original).pending = s.pending := rfl

@[simp] theorem State.putRequest_out (s : State) {b die ctx queue purpose kind flags node table version bags rows body g original} : (State.putRequest s b die ctx queue purpose kind flags node table version bags rows body g original).out = s.out := rfl

@[simp] theorem State.putRequest_freeCount (s : State) {b die ctx queue purpose kind flags node table version bags rows body g original} : (State.putRequest s b die ctx queue purpose kind flags node table version bags rows body g original).freeCount = s.freeCount := rfl

@[simp] theorem State.putRequest_poison (s : State) {b die ctx queue purpose kind flags node table version bags rows body g original} : (State.putRequest s b die ctx queue purpose kind flags node table version bags rows body g original).poison = s.poison := rfl

@[simp] theorem State.putRequest_dev (s : State) {b die ctx queue purpose kind flags node table version bags rows body g original} : (State.putRequest s b die ctx queue purpose kind flags node table version bags rows body g original).dev = s.dev := rfl

@[simp] theorem State.putRequest_board (s : State) {b die ctx queue purpose kind flags node table version bags rows body g original} : (State.putRequest s b die ctx queue purpose kind flags node table version bags rows body g original).board = s.board := rfl

@[simp] theorem State.putRequest_ident (s : State) {b die ctx queue purpose kind flags node table version bags rows body g original} : (State.putRequest s b die ctx queue purpose kind flags node table version bags rows body g original).ident = s.ident := rfl

@[simp] theorem State.putRequest_lan (s : State) {b die ctx queue purpose kind flags node table version bags rows body g original} : (State.putRequest s b die ctx queue purpose kind flags node table version bags rows body g original).lan = s.lan := rfl

@[simp] theorem State.putRequest_flash (s : State) {b die ctx queue purpose kind flags node table version bags rows body g original} : (State.putRequest s b die ctx queue purpose kind flags node table version bags rows body g original).flash = s.flash := rfl

@[simp] theorem State.putRequest_mgmt (s : State) {b die ctx queue purpose kind flags node table version bags rows body g original} : (State.putRequest s b die ctx queue purpose kind flags node table version bags rows body g original).mgmt = s.mgmt := rfl

@[simp] theorem State.putRequest_bays (s : State) {b die ctx queue purpose kind flags node table version bags rows body g original} : (State.putRequest s b die ctx queue purpose kind flags node table version bags rows body g original).bays = s.bays := rfl

@[simp] theorem State.putRequest_memsys (s : State) {b die ctx queue purpose kind flags node table version bags rows body g original} : (State.putRequest s b die ctx queue purpose kind flags node table version bags rows body g original).memsys = s.memsys := rfl

@[simp] theorem State.putRequest_net (s : State) {b die ctx queue purpose kind flags node table version bags rows body g original} : (State.putRequest s b die ctx queue purpose kind flags node table version bags rows body g original).net = s.net := rfl

@[simp] theorem State.putRequest_tth (s : State) {b die ctx queue purpose kind flags node table version bags rows body g original} : (State.putRequest s b die ctx queue purpose kind flags node table version bags rows body g original).tth = s.tth := rfl

@[simp] theorem State.putRequest_mem (s : State) {b die ctx queue purpose kind flags node table version bags rows body g original} : (State.putRequest s b die ctx queue purpose kind flags node table version bags rows body g original).mem = s.mem := rfl

/-! State.putReadReq -/

@[simp] theorem State.putReadReq_pending (s : State) {b die ctx queue purpose node table version row g} : (State.putReadReq s b die ctx queue purpose node table version row g).pending = s.pending := rfl

@[simp] theorem State.putReadReq_out (s : State) {b die ctx queue purpose node table version row g} : (State.putReadReq s b die ctx queue purpose node table version row g).out = s.out := rfl

@[simp] theorem State.putReadReq_freeCount (s : State) {b die ctx queue purpose node table version row g} : (State.putReadReq s b die ctx queue purpose node table version row g).freeCount = s.freeCount := rfl

@[simp] theorem State.putReadReq_poison (s : State) {b die ctx queue purpose node table version row g} : (State.putReadReq s b die ctx queue purpose node table version row g).poison = s.poison := rfl

@[simp] theorem State.putReadReq_dev (s : State) {b die ctx queue purpose node table version row g} : (State.putReadReq s b die ctx queue purpose node table version row g).dev = s.dev := rfl

@[simp] theorem State.putReadReq_board (s : State) {b die ctx queue purpose node table version row g} : (State.putReadReq s b die ctx queue purpose node table version row g).board = s.board := rfl

@[simp] theorem State.putReadReq_ident (s : State) {b die ctx queue purpose node table version row g} : (State.putReadReq s b die ctx queue purpose node table version row g).ident = s.ident := rfl

@[simp] theorem State.putReadReq_lan (s : State) {b die ctx queue purpose node table version row g} : (State.putReadReq s b die ctx queue purpose node table version row g).lan = s.lan := rfl

@[simp] theorem State.putReadReq_flash (s : State) {b die ctx queue purpose node table version row g} : (State.putReadReq s b die ctx queue purpose node table version row g).flash = s.flash := rfl

@[simp] theorem State.putReadReq_mgmt (s : State) {b die ctx queue purpose node table version row g} : (State.putReadReq s b die ctx queue purpose node table version row g).mgmt = s.mgmt := rfl

@[simp] theorem State.putReadReq_bays (s : State) {b die ctx queue purpose node table version row g} : (State.putReadReq s b die ctx queue purpose node table version row g).bays = s.bays := rfl

@[simp] theorem State.putReadReq_memsys (s : State) {b die ctx queue purpose node table version row g} : (State.putReadReq s b die ctx queue purpose node table version row g).memsys = s.memsys := rfl

@[simp] theorem State.putReadReq_net (s : State) {b die ctx queue purpose node table version row g} : (State.putReadReq s b die ctx queue purpose node table version row g).net = s.net := rfl

@[simp] theorem State.putReadReq_tth (s : State) {b die ctx queue purpose node table version row g} : (State.putReadReq s b die ctx queue purpose node table version row g).tth = s.tth := rfl

@[simp] theorem State.putReadReq_mem (s : State) {b die ctx queue purpose node table version row g} : (State.putReadReq s b die ctx queue purpose node table version row g).mem = s.mem := rfl

/-! State.modStage -/

@[simp] theorem State.modStage_pending (s : State) {b die f} : (State.modStage s b die f).pending = s.pending := rfl

@[simp] theorem State.modStage_out (s : State) {b die f} : (State.modStage s b die f).out = s.out := rfl

@[simp] theorem State.modStage_freeCount (s : State) {b die f} : (State.modStage s b die f).freeCount = s.freeCount := rfl

@[simp] theorem State.modStage_poison (s : State) {b die f} : (State.modStage s b die f).poison = s.poison := rfl

@[simp] theorem State.modStage_dev (s : State) {b die f} : (State.modStage s b die f).dev = s.dev := rfl

@[simp] theorem State.modStage_board (s : State) {b die f} : (State.modStage s b die f).board = s.board := rfl

@[simp] theorem State.modStage_ident (s : State) {b die f} : (State.modStage s b die f).ident = s.ident := rfl

@[simp] theorem State.modStage_lan (s : State) {b die f} : (State.modStage s b die f).lan = s.lan := rfl

@[simp] theorem State.modStage_flash (s : State) {b die f} : (State.modStage s b die f).flash = s.flash := rfl

@[simp] theorem State.modStage_mgmt (s : State) {b die f} : (State.modStage s b die f).mgmt = s.mgmt := rfl

@[simp] theorem State.modStage_memsys (s : State) {b die f} : (State.modStage s b die f).memsys = s.memsys := rfl

@[simp] theorem State.modStage_net (s : State) {b die f} : (State.modStage s b die f).net = s.net := rfl

@[simp] theorem State.modStage_tth (s : State) {b die f} : (State.modStage s b die f).tth = s.tth := rfl

@[simp] theorem State.modStage_fab (s : State) {b die f} : (State.modStage s b die f).fab = s.fab := rfl

@[simp] theorem State.modStage_dp (s : State) {b die f} : (State.modStage s b die f).dp = s.dp := rfl

@[simp] theorem State.modStage_mem (s : State) {b die f} : (State.modStage s b die f).mem = s.mem := rfl

/-! State.modPrio -/

@[simp] theorem State.modPrio_pending (s : State) {port sub prio f} : (State.modPrio s port sub prio f).pending = s.pending := rfl

@[simp] theorem State.modPrio_out (s : State) {port sub prio f} : (State.modPrio s port sub prio f).out = s.out := rfl

@[simp] theorem State.modPrio_freeCount (s : State) {port sub prio f} : (State.modPrio s port sub prio f).freeCount = s.freeCount := rfl

@[simp] theorem State.modPrio_poison (s : State) {port sub prio f} : (State.modPrio s port sub prio f).poison = s.poison := rfl

@[simp] theorem State.modPrio_dev (s : State) {port sub prio f} : (State.modPrio s port sub prio f).dev = s.dev := rfl

@[simp] theorem State.modPrio_board (s : State) {port sub prio f} : (State.modPrio s port sub prio f).board = s.board := rfl

@[simp] theorem State.modPrio_ident (s : State) {port sub prio f} : (State.modPrio s port sub prio f).ident = s.ident := rfl

@[simp] theorem State.modPrio_lan (s : State) {port sub prio f} : (State.modPrio s port sub prio f).lan = s.lan := rfl

@[simp] theorem State.modPrio_flash (s : State) {port sub prio f} : (State.modPrio s port sub prio f).flash = s.flash := rfl

@[simp] theorem State.modPrio_mgmt (s : State) {port sub prio f} : (State.modPrio s port sub prio f).mgmt = s.mgmt := rfl

@[simp] theorem State.modPrio_bays (s : State) {port sub prio f} : (State.modPrio s port sub prio f).bays = s.bays := rfl

@[simp] theorem State.modPrio_memsys (s : State) {port sub prio f} : (State.modPrio s port sub prio f).memsys = s.memsys := rfl

@[simp] theorem State.modPrio_tth (s : State) {port sub prio f} : (State.modPrio s port sub prio f).tth = s.tth := rfl

@[simp] theorem State.modPrio_fab (s : State) {port sub prio f} : (State.modPrio s port sub prio f).fab = s.fab := rfl

@[simp] theorem State.modPrio_dp (s : State) {port sub prio f} : (State.modPrio s port sub prio f).dp = s.dp := rfl

@[simp] theorem State.modPrio_mem (s : State) {port sub prio f} : (State.modPrio s port sub prio f).mem = s.mem := rfl

/-! State.creditsIn -/

@[simp] theorem State.creditsIn_pending (s : State) {link credits} : (State.creditsIn s link credits).pending = s.pending := rfl

@[simp] theorem State.creditsIn_out (s : State) {link credits} : (State.creditsIn s link credits).out = s.out := rfl

@[simp] theorem State.creditsIn_freeCount (s : State) {link credits} : (State.creditsIn s link credits).freeCount = s.freeCount := rfl

@[simp] theorem State.creditsIn_poison (s : State) {link credits} : (State.creditsIn s link credits).poison = s.poison := rfl

@[simp] theorem State.creditsIn_dev (s : State) {link credits} : (State.creditsIn s link credits).dev = s.dev := rfl

@[simp] theorem State.creditsIn_board (s : State) {link credits} : (State.creditsIn s link credits).board = s.board := rfl

@[simp] theorem State.creditsIn_ident (s : State) {link credits} : (State.creditsIn s link credits).ident = s.ident := rfl

@[simp] theorem State.creditsIn_lan (s : State) {link credits} : (State.creditsIn s link credits).lan = s.lan := rfl

@[simp] theorem State.creditsIn_flash (s : State) {link credits} : (State.creditsIn s link credits).flash = s.flash := rfl

@[simp] theorem State.creditsIn_mgmt (s : State) {link credits} : (State.creditsIn s link credits).mgmt = s.mgmt := rfl

@[simp] theorem State.creditsIn_bays (s : State) {link credits} : (State.creditsIn s link credits).bays = s.bays := rfl

@[simp] theorem State.creditsIn_memsys (s : State) {link credits} : (State.creditsIn s link credits).memsys = s.memsys := rfl

@[simp] theorem State.creditsIn_net (s : State) {link credits} : (State.creditsIn s link credits).net = s.net := rfl

@[simp] theorem State.creditsIn_tth (s : State) {link credits} : (State.creditsIn s link credits).tth = s.tth := rfl

@[simp] theorem State.creditsIn_dp (s : State) {link credits} : (State.creditsIn s link credits).dp = s.dp := rfl

@[simp] theorem State.creditsIn_mem (s : State) {link credits} : (State.creditsIn s link credits).mem = s.mem := rfl

@[simp] theorem State.takeSlots_pending (s : State) {k g} : (s.takeSlots k g).pending = s.pending := rfl

@[simp] theorem State.takeSlots_out (s : State) {k g} : (s.takeSlots k g).out = s.out := rfl

@[simp] theorem State.takeSlots_freeCount (s : State) {k g} : (s.takeSlots k g).freeCount = s.freeCount := rfl

@[simp] theorem State.takeSlots_mem (s : State) {k g} : (s.takeSlots k g).mem = s.mem := rfl

@[simp] theorem State.takeSlots_poison (s : State) {k g} : (s.takeSlots k g).poison = s.poison := rfl

@[simp] theorem State.takeSlots_dev (s : State) {k g} : (s.takeSlots k g).dev = s.dev := rfl

@[simp] theorem State.takeSlots_board (s : State) {k g} : (s.takeSlots k g).board = s.board := rfl

@[simp] theorem State.takeSlots_ident (s : State) {k g} : (s.takeSlots k g).ident = s.ident := rfl

@[simp] theorem State.takeSlots_lan (s : State) {k g} : (s.takeSlots k g).lan = s.lan := rfl

@[simp] theorem State.takeSlots_flash (s : State) {k g} : (s.takeSlots k g).flash = s.flash := rfl

@[simp] theorem State.takeSlots_mgmt (s : State) {k g} : (s.takeSlots k g).mgmt = s.mgmt := rfl

@[simp] theorem State.takeSlots_bays (s : State) {k g} : (s.takeSlots k g).bays = s.bays := rfl

@[simp] theorem State.takeSlots_memsys (s : State) {k g} : (s.takeSlots k g).memsys = s.memsys := rfl

@[simp] theorem State.takeSlots_net (s : State) {k g} : (s.takeSlots k g).net = s.net := rfl

@[simp] theorem State.takeSlots_tth (s : State) {k g} : (s.takeSlots k g).tth = s.tth := rfl

@[simp] theorem State.takeSlots_fab (s : State) {k g} : (s.takeSlots k g).fab = s.fab := rfl

@[simp] theorem State.takeSlots_dp (s : State) {k g} : (s.takeSlots k g).dp = { s.dp with slots := s.dp.slots.modify k fun n => min 15 (if n = 15 then g - 1 else n + g) } := rfl

@[simp] theorem State.dropPrepared_pending (s : State) {node tag} : (s.dropPrepared node tag).pending = s.pending := rfl

@[simp] theorem State.dropPrepared_out (s : State) {node tag} : (s.dropPrepared node tag).out = s.out := rfl

@[simp] theorem State.dropPrepared_freeCount (s : State) {node tag} : (s.dropPrepared node tag).freeCount = s.freeCount := rfl

@[simp] theorem State.dropPrepared_mem (s : State) {node tag} : (s.dropPrepared node tag).mem = s.mem := rfl

@[simp] theorem State.dropPrepared_poison (s : State) {node tag} : (s.dropPrepared node tag).poison = s.poison := rfl

@[simp] theorem State.dropPrepared_dev (s : State) {node tag} : (s.dropPrepared node tag).dev = s.dev := rfl

@[simp] theorem State.dropPrepared_board (s : State) {node tag} : (s.dropPrepared node tag).board = s.board := rfl

@[simp] theorem State.dropPrepared_ident (s : State) {node tag} : (s.dropPrepared node tag).ident = s.ident := rfl

@[simp] theorem State.dropPrepared_lan (s : State) {node tag} : (s.dropPrepared node tag).lan = s.lan := rfl

@[simp] theorem State.dropPrepared_flash (s : State) {node tag} : (s.dropPrepared node tag).flash = s.flash := rfl

@[simp] theorem State.dropPrepared_mgmt (s : State) {node tag} : (s.dropPrepared node tag).mgmt = s.mgmt := rfl

@[simp] theorem State.dropPrepared_bays (s : State) {node tag} : (s.dropPrepared node tag).bays = s.bays := rfl

@[simp] theorem State.dropPrepared_memsys (s : State) {node tag} : (s.dropPrepared node tag).memsys = s.memsys := rfl

@[simp] theorem State.dropPrepared_net (s : State) {node tag} : (s.dropPrepared node tag).net = s.net := rfl

@[simp] theorem State.dropPrepared_tth (s : State) {node tag} : (s.dropPrepared node tag).tth = s.tth := rfl

@[simp] theorem State.dropPrepared_fab (s : State) {node tag} : (s.dropPrepared node tag).fab = { s.fab with prepared := s.fab.prepared.filter fun x => !(x.node == node && x.tag == tag) } := rfl

@[simp] theorem State.dropPrepared_dp (s : State) {node tag} : (s.dropPrepared node tag).dp = s.dp := rfl

@[simp] theorem State.markChaff_pending (s : State) {a owner die g n} : (s.markChaff a owner die g n).pending = s.pending := rfl

@[simp] theorem State.markChaff_out (s : State) {a owner die g n} : (s.markChaff a owner die g n).out = s.out := rfl

@[simp] theorem State.markChaff_freeCount (s : State) {a owner die g n} : (s.markChaff a owner die g n).freeCount = s.freeCount := rfl

@[simp] theorem State.markChaff_mem (s : State) {a owner die g n} : (s.markChaff a owner die g n).mem = s.mem := rfl

@[simp] theorem State.markChaff_poison (s : State) {a owner die g n} : (s.markChaff a owner die g n).poison = s.poison := rfl

@[simp] theorem State.markChaff_dev (s : State) {a owner die g n} : (s.markChaff a owner die g n).dev = s.dev := rfl

@[simp] theorem State.markChaff_board (s : State) {a owner die g n} : (s.markChaff a owner die g n).board = s.board := rfl

@[simp] theorem State.markChaff_ident (s : State) {a owner die g n} : (s.markChaff a owner die g n).ident = s.ident := rfl

@[simp] theorem State.markChaff_lan (s : State) {a owner die g n} : (s.markChaff a owner die g n).lan = s.lan := rfl

@[simp] theorem State.markChaff_flash (s : State) {a owner die g n} : (s.markChaff a owner die g n).flash = s.flash := rfl

@[simp] theorem State.markChaff_mgmt (s : State) {a owner die g n} : (s.markChaff a owner die g n).mgmt = s.mgmt := rfl

@[simp] theorem State.markChaff_bays (s : State) {a owner die g n} : (s.markChaff a owner die g n).bays = s.bays := rfl

@[simp] theorem State.markChaff_net (s : State) {a owner die g n} : (s.markChaff a owner die g n).net = s.net := rfl

@[simp] theorem State.markChaff_tth (s : State) {a owner die g n} : (s.markChaff a owner die g n).tth = s.tth := rfl

@[simp] theorem State.markChaff_fab (s : State) {a owner die g n} : (s.markChaff a owner die g n).fab = s.fab := rfl

@[simp] theorem State.markChaff_dp (s : State) {a owner die g n} : (s.markChaff a owner die g n).dp = s.dp := rfl

@[simp] theorem State.markChaff_memsys (s : State) {a owner die g n} : (s.markChaff a owner die g n).memsys = { s.memsys with
    chaff := items n (fun i => granuleKey a owner die (g + i)) ++ dropGranules s.memsys.chaff a owner die g n } := rfl

end Sys2Proof.Machine
end

