-- ==== Sys2Proof/Tests/Setup.lean ====
section
/-! SUPPORT. The small states and messages that the tests use, and how a test shows that a statement's hypotheses can be met: a
request, a caller and states that meet a command's start (`Runs`) together with all the others. -/

set_option Elab.async false

namespace Sys2Proof.Tests

open Sys2Proof.Machine

/-- A message with header version 2, of a session (0 for none) and a bay (0xFFFF for device scope). -/
def msg (op bay handle : Nat) (payload : List Byte) : List Byte :=
  (⟨2, 0, op, bay, payload.length, 1, handle⟩ : Header).bytes ++ payload

/-- A request over the management bus. -/
def mtw (op : Nat) (payload : List Byte) : Req := ⟨.mtw, msg op 0xFFFF 0 payload⟩

/-- A request in mailbox 0, which session 1 of bay 0 owns. -/
def host (op : Nat) (payload : List Byte) : Req := ⟨.mailbox 0, msg op 0 1 payload⟩

/-- A request in mailbox 1, which the device-scope session 2 owns. -/
def admin (op : Nat) (payload : List Byte) : Req := ⟨.mailbox 1, msg op 0xFFFF 2 payload⟩

/-- A request without a session, for bay 0, in mailbox 2, which no session owns. -/
def first (op : Nat) (payload : List Byte) : Req := ⟨.mailbox 2, msg op 0 0 payload⟩

/-- A request of session 1 by a SEND on queue pair 9. -/
def send (op : Nat) (payload : List Byte) : Req := ⟨.send 9, msg op 0 1 payload⟩

def bayCaller : Caller := ⟨some 0, 1, false⟩
def adminCaller : Caller := ⟨none, 2, false⟩
def firstCaller : Caller := ⟨some 0, 0, false⟩
def mtwCaller : Caller := ⟨none, 0, true⟩

/-- Queue pair 9 of session 1 and bay 0, on sub-port 0 of port 0, to a client at 10.0.0.1. -/
def qp9 : Qp :=
  { qpn := 9, session := 1, bay := some 0, port := 0, sub := 0, addr := none, clientQpn := 5, clientIp := ⟨false, 0x0A000001⟩, mtu := 1024,
    timeoutExp := 10, retryMax := 7, ring := ⟨0, 0, 1, 0⟩, error := none, sentAt := 0, retriesLeft := 7, nextPsn := 0, unacked := [],
    rxUnacked := 0, rxLast := 0, rateKb := 400000000, cutAt := none, quietSince := 0, cnpAt := none, sent := 0, retransmitted := 0,
    cnps := 0 }

/-- A device that runs, with bay 0 OPEN, session 1 of bay 0 in mailbox 0 and the device-scope session 2 in mailbox 1. -/
def dev : State :=
  let s : State := { State.reset with
    dev.phase := .running, dev.boot := .ready, dev.slot := some 0, board.mated := true, board.rails := 7
    tth.attached := true
    net.qps := [qp9] }
  let s := s.modLife 0 fun l => { l with state := .opened }
  let s := (s.putSession (newSession 1 7 (some 0) 2000 60 0)).putSession (newSession 2 8 none 2000 60 0)
  (s.modBox 0 fun m => { m with session := some 1 }).modBox 1 fun m => { m with session := some 2 }

/-- `dev` with bay 0 in a state of its lifecycle. -/
def devIn (x : BayState) : State := dev.modLife 0 fun l => { l with state := x }

/-- `dev` at an instant. -/
def devAt (t : Nat) : State := { dev with dev.now := t }

/-- A request waits alone in the stewards' queue. -/
def queued (s : State) (r : Req) : State := { s with net.stewardQueue := [r] }

/-- Some request, caller and states meet a command's start together with more hypotheses. -/
abbrev Met (spec : CmdSpec) (f : Req → Caller → State → List Byte → Nat → Prop) : Prop :=
  ∃ (r : Req) (c : Caller) (s u : State) (p : List Byte) (b : Nat), Runs spec r c s u p b ∧ f r c u p b

theorem met {spec : CmdSpec} {f : Req → Caller → State → List Byte → Nat → Prop} (r : Req) (c : Caller) (s : State)
    (h : Starts spec r c (queued s r) = true) (h' : f r c ((queued s r).begun r) (ownPayload spec r c)
      (actingBay spec c (ownPayload spec r c))) : Met spec f :=
  ⟨r, c, queued s r, _, _, _, ⟨h, rfl, rfl, rfl⟩, h'⟩

/-- A bay's command in mailbox 0 meets its start and more. -/
theorem metB {spec : CmdSpec} {f : Req → Caller → State → List Byte → Nat → Prop} (p : List Byte) (s : State)
    (h : Starts spec (host spec.op p) bayCaller (queued s (host spec.op p)) = true)
    (h' : f (host spec.op p) bayCaller ((queued s (host spec.op p)).begun (host spec.op p)) (ownPayload spec (host spec.op p) bayCaller)
      (actingBay spec bayCaller (ownPayload spec (host spec.op p) bayCaller))) : Met spec f :=
  met (host spec.op p) bayCaller s h h'

/-- A device-scope command in mailbox 1 meets its start and more. -/
theorem metD {spec : CmdSpec} {f : Req → Caller → State → List Byte → Nat → Prop} (p : List Byte) (s : State)
    (h : Starts spec (admin spec.op p) adminCaller (queued s (admin spec.op p)) = true)
    (h' : f (admin spec.op p) adminCaller ((queued s (admin spec.op p)).begun (admin spec.op p))
      (ownPayload spec (admin spec.op p) adminCaller)
      (actingBay spec adminCaller (ownPayload spec (admin spec.op p) adminCaller))) : Met spec f :=
  met (admin spec.op p) adminCaller s h h'

/-- A command over the management bus meets its start and more. -/
theorem metM {spec : CmdSpec} {f : Req → Caller → State → List Byte → Nat → Prop} (p : List Byte) (s : State)
    (h : Starts spec (mtw spec.op p) mtwCaller (queued s (mtw spec.op p)) = true)
    (h' : f (mtw spec.op p) mtwCaller ((queued s (mtw spec.op p)).begun (mtw spec.op p)) (ownPayload spec (mtw spec.op p) mtwCaller)
      (actingBay spec mtwCaller (ownPayload spec (mtw spec.op p) mtwCaller))) : Met spec f :=
  met (mtw spec.op p) mtwCaller s h h'

/-- What a search finds has a property. -/
theorem found {α : Type} {o : Option α} {P : α → Prop} [DecidablePred P] (h : (o.any fun x => decide (P x)) = true) :
    ∃ x, o = some x ∧ P x := by
  cases o with
  | none => cases h
  | some x => exact ⟨x, rfl, of_decide_eq_true h⟩

/-- A table that a command can change is there and has a property. -/
theorem foundFree {s : State} {b n : Nat} {P : Tab → Prop} [DecidablePred P] (h : ((s.table b n).any fun t =>
    decide (t.life = .live ∧ s.net.parked.any (s.changesTable b t.id) = false ∧ s.preparedOn b t.id = false ∧ P t)) = true) :
    ∃ t, TableFree s b n t ∧ P t := by
  obtain ⟨t, e, l, k, k', p⟩ := found h
  exact ⟨t, ⟨e, l, k, k'⟩, p⟩

/-- A table that a command can read is there and has a property. -/
theorem foundThere {s : State} {b n : Nat} {P : Tab → Prop} [DecidablePred P] (h : ((s.table b n).any fun t =>
    decide (t.life ≠ .destroying ∧ P t)) = true) : ∃ t, TableThere s b n t ∧ P t := by
  obtain ⟨t, e, l, p⟩ := found h
  exact ⟨t, ⟨e, l⟩, p⟩

/-- A list of checks passes. -/
theorem good {l : List (Nat × Bool)} (h : (l.all fun f => f.2) = true) : Good l := by
  intro f hf
  exact List.all_eq_true.1 h f hf

/-- Shares of a bay: 2 crews of D0 and 1 of D1, 8 units of each silo, 2 groups of contexts, 1 MiB of stage and of spill on each die, a hatch
ring of 64 KiB. -/
def shares : Shares := ⟨[2, 1], [4, 4], [4, 4], [2, 2], List.replicate 12 8, [0, 0, 0, 0], [1, 1], [1, 1], 16, 5000⟩

/-- `dev` with bay 0 made as BAY_CREATE would make it. -/
def made : State :=
  dev.modBay 0 fun y => { y with
    core := { y.core with shares := shares, retentionMiB := 64, regs := List.replicate 36 ⟨0, 1000⟩ }
    crews := [0, 1, 16], groups := [0, 1, 64, 65], space := initialSpace shares 64 }

/-- Table 5: four rows of dimension 4, two tiers, a configured default row. -/
def desc : Desc := ⟨5, 4, 2, 0, false, false, false, true, false, false, false, 0, 4, 0⟩

/-- `made` with table 5. -/
def full : State := (made.createTable 0 desc ⟨0, [⟨0, 3, selfNode, 0⟩]⟩ [(0, 4)]).getD made

/-- A state in a window in which bay 0 has not been served. -/
def unserved (s : State) : State := s.modBay 0 fun y => { y with core := { y.core with served := List.replicate 36 0 } }

/-- `full` with its table changed. -/
def setTab (f : Tab → Tab) : State := full.modTable 0 5 f

/-- A table with the policy of a point changed. -/
def tune (g : Nat) (f : Policy → Policy) (t : Tab) : Tab := t.setPoint g { t.point g with policy := f (t.point g).policy }

/-- An accepted lookup sheaf of bay 0, by session 1 over queue pair 9, without a table. -/
def sheaf1 : Sheaf :=
  { no := 1, bay := 0, session := 1, phase := .accepted, origin := .net 9, off := 0, head := zeros 64, gens := [0, 0], bound := [],
    bases := [], bindings := [], u := [], acceptedAt := 0, firstRead := 0, cleared := [], crew := 0, sections := [], contribs := [],
      tally := [], groups := [], ops := 0,
    messages := 0, placing := false, qpn := none, chaffed := 0, defaulted := 0, saturated := 0, stale := 0, bad := false, ledger := false,
    released := true, was := [] }

/-- A state with one sheaf in flight. -/
def withSheaf (s : State) (x : Sheaf) : State := { s with dp.sheafs := [x], dev.accepted := 2 }

/-- A lookup sheaf of one section: one bag of one index of table 5, which is 2 (R200, R202, R203). -/
def lookupHead : List Byte :=
  leBytes 2 0x4853 ++ [1, 0] ++ leBytes 2 1 ++ [32, 0] ++ leBytes 4 1 ++ leBytes 4 96 ++ zeros 24 ++ leBytes 8 77 ++ zeros 16

def lookupBytes : List Byte :=
  lookupHead ++ leBytes 2 5 ++ zeros 2 ++ leBytes 4 1 ++ leBytes 4 1 ++ zeros 4 ++ leBytes 4 0 ++ leBytes 4 1 ++ leBytes 4 2 ++ zeros 4

/-- The sheaf, accepted, its bytes in the hatch ring. -/
def lookupSheaf : Sheaf := { sheaf1 with head := lookupHead, bound := (full.bay 0).tables }

def flying : State := withSheaf (full.write .ring 0 0 0 lookupBytes) lookupSheaf

/-- Its section as read. -/
def section1 : Section := ((flying.sectionsOf lookupSheaf).1.head?).getD (newSection (Tab.new desc ⟨0, []⟩) 0)

/-- The sheaf in a phase, with its section changed. -/
def inPhase (ph : SheafPhase) (f : Section → Section) : State :=
  { flying with dp.sheafs := [{ lookupSheaf with phase := ph, sections := [f section1] }] }

/-- An update sheaf with nothing in it. -/
def updateSheaf (ph : SheafPhase) : Sheaf :=
  { sheaf1 with phase := ph, head := leBytes 2 0x4853 ++ [1, 1] ++ zeros 8 ++ leBytes 4 64 ++ zeros 48, bound := (full.bay 0).tables }

/-- `full` after a lookup of table 5 in mailbox 0. -/
def lookupReq : Req := host 0x0610 (leBytes 2 5 ++ [1, 0] ++ zeros 12 ++ leBytes 4 2 ++ zeros 28)

def looking : State := full.acceptLookup lookupReq 0 1

/-- The lookup changed. -/
def lookingAs (f : Lookup → Lookup) : State := { looking with dp.lookups := looking.dp.lookups.map f }

end Sys2Proof.Tests
end

