-- ==== Sys2Proof/Tests/Slice0.lean ====
section
/-! SUPPORT. An ill-formed command for each kind of unit that the check of well-formedness looks at: one just past the last that the
device has. -/

set_option Elab.async false

namespace Sys2Proof.Tests

theorem test_wf_bad_die : (Instr.wicketParse 2).wf = false := by decide
theorem test_wf_bad_crew : (Instr.jobStart 32).wf = false := by decide
theorem test_wf_bad_hand_crew : (Instr.ecallExit 32 0 0).wf = false := by decide
theorem test_wf_bad_hand : (Instr.ecallExit 31 16 0).wf = false := by decide
theorem test_wf_bad_thresher : (Instr.tileSwap 32).wf = false := by decide
theorem test_wf_bad_flail : (Instr.flailTake 384).wf = false := by decide
theorem test_wf_bad_bay : (Instr.drainEnd 16).wf = false := by decide
theorem test_wf_bad_bay_of_half : (Instr.halfRetired 16 0).wf = false := by decide
theorem test_wf_bad_die_of_half : (Instr.halfRetired 15 2).wf = false := by decide
theorem test_wf_bad_silo : (Instr.throttleFall 12).wf = false := by decide
theorem test_wf_bad_channel : (Instr.siloUe 11 32 0 0).wf = false := by decide
theorem test_wf_bad_loft : (Instr.loftDown 4 0).wf = false := by decide
theorem test_wf_bad_port : (Instr.pfcFrame 8 0 0 0).wf = false := by decide
theorem test_wf_bad_sub : (Instr.pfcFrame 7 4 0 0).wf = false := by decide
theorem test_wf_bad_prio : (Instr.pfcFrame 7 3 8 0).wf = false := by decide
theorem test_wf_bad_wake_port : (Instr.falseWake 8).wf = false := by decide
theorem test_wf_bad_link : (Instr.replayTimeout 5).wf = false := by decide
theorem test_wf_no_yoke : (Instr.ledgerAck 0 []).wf = false := by decide
theorem test_wf_bad_yoke_link : (Instr.ledgerAck 5 []).wf = false := by decide
theorem test_wf_bad_yoke : (Instr.yokeDown 4).wf = false := by decide
theorem test_wf_bad_domain : (Instr.pwrOk 75).wf = false := by decide
theorem test_wf_bad_mailbox : (Instr.mailboxTake 32).wf = false := by decide
theorem test_wf_bad_vector : (Instr.vectorModerationTimer 2048).wf = false := by decide
theorem test_wf_bad_reference : (Instr.clockRefLost 3).wf = false := by decide
theorem test_wf_bad_bus_line : (Instr.ltwBusStuck 2 false).wf = false := by decide
theorem test_wf_bad_sensor : (Instr.sensorPoll 31 none).wf = false := by decide
theorem test_wf_bad_fan : (Instr.fanFault 4).wf = false := by decide
theorem test_wf_no_rail : (Instr.railPowerGood 0).wf = false := by decide
theorem test_wf_bad_rail : (Instr.railPowerGood 8).wf = false := by decide
theorem test_wf_bad_cause : (Instr.hotswapFault 6).wf = false := by decide
theorem test_wf_bad_length : (Instr.handInstruction 0 0 0 ⟨3, 0, 0, [], .nothing⟩).wf = false := by decide

end Sys2Proof.Tests
end

