-- ==== Sys2Proof/Tests/WitnessBay.lean ====
section
/-! SUPPORT. The hypotheses of the statements about bays and programs can be met. -/

set_option Elab.async false

namespace Sys2Proof.Tests

open Sys2Proof.Machine

/-! ### BaysAreFormed -/

/-- The share block of `shares`, for bay 1; a drain timeout at its longest. -/
def sharesPayload : List Byte :=
  [1, 2, 1, 0] ++ ([4, 4, 4, 4, 2, 2] ++ List.replicate 12 8 ++ [0, 0, 0, 0, 1, 1, 1, 1]).flatMap (leBytes 2) ++ [24, 0, 0, 0] ++
    leBytes 4 600000

def bay1In (x : BayState) : State := made.modLife 1 fun l => { l with state := x }

theorem test_bayCreate : Met specBayCreate fun _ _ u p b => u.dev.parking = .none ∧ Good (shareChecks p) ∧ zeroAt p 100 4 = true ∧
    Good (regChecks u p 136) ∧ u.flash.loftToZero = [] ∧ selftestHolds u = false ∧ marginHolds u (sharesAt p) = false ∧
    sharesFit u b (sharesAt p) = true ∧ areasFit (sharesAt p) 64 = true ∧ minsFit u b (regsAt p 136) = true :=
  met (admin 0x0201 (sharesPayload ++ zeros 32 ++ zeros 4 ++ zeros 4 ++ zeros 32 ++ zeros 288)) adminCaller made (by decide +kernel)
    (by decide +kernel)

theorem test_baySetShares : Met specBaySetShares fun _ _ u p b => Good (shareChecks p) ∧ marginHolds u (sharesAt p) = false ∧
    sharesFit u b (sharesAt p) = true ∧ areasFit (sharesAt p) (u.bay b).core.retentionMiB = true :=
  met (admin 0x0202 sharesPayload) adminCaller (bay1In .forming) (by decide +kernel) (by decide +kernel)

theorem test_baySetRegulators : Met specBaySetRegulators fun _ _ u p b => zeroAt p 1 7 = true ∧ Good (regChecks u p 8) ∧
    minsFit u b (regsAt p 8) = true :=
  met (admin 0x0203 (leBytes 8 0 ++ zeros 288)) adminCaller made (by decide +kernel)
    (by decide +kernel)

/-! ### BayCommandsComplete -/

theorem test_bayOpen : Met specBayOpen fun _ _ u p _ => u.dev.parking = .none ∧ zeroAt p 1 7 = true :=
  met (admin 0x0204 (leBytes 8 1)) adminCaller (bay1In .forming) (by decide +kernel) (by decide +kernel)

theorem test_bayDrain : Met specBayDrain fun _ _ _ p _ => zeroAt p 1 7 = true :=
  met (admin 0x0205 (leBytes 8 0)) adminCaller made (by decide +kernel) (by decide +kernel)

theorem test_bayDestroy_draining : Met specBayDestroy fun _ _ u p b => zeroAt p 1 7 = true ∧ (u.bay b).core.life.state = .draining ∧
    (u.bay b).core.life.drainStart.isSome = true :=
  met (admin 0x0206 (leBytes 8 1)) adminCaller ((bay1In .draining).modLife 1 fun l => { l with drainStart := some 0 }) (by decide +kernel)
    (by decide +kernel)

theorem test_bayDestroy_drained : Met specBayDestroy fun _ _ u p b => zeroAt p 1 7 = true ∧
    ((u.bay b).core.life.state = .forming ∨ (u.bay b).core.life.drainStart = none) :=
  met (admin 0x0206 (leBytes 8 1)) adminCaller (bay1In .draining) (by decide +kernel) (by decide +kernel)

theorem test_bayRekey : Met specBayRekey fun _ _ _ p _ => u8At p 1 < 8 ∧ zeroAt p 2 6 = true ∧ zeroAt p 44 4 = true ∧
    (bit (u8At p 1) 0 = true ∨ zeroAt p 8 32 = true) ∧ (bit (u8At p 1) 1 = true ∨ zeroAt p 40 4 = true) ∧
    (bit (u8At p 1) 2 = true ∨ zeroAt p 48 32 = true) :=
  met (admin 0x0207 ([0, 7] ++ zeros 6 ++ List.replicate 32 1 ++ leBytes 8 9 ++ List.replicate 32 2)) adminCaller made (by decide +kernel)
    (by decide +kernel)

theorem test_bayQuery : Met specBayQuery fun _ c u p b => zeroAt p 1 7 = true ∧
    let y := u.bay b
    let k := y.core.counters
    Fits c (leBytes 1 (bayCode y.core.life.state) ++ zeros 7 ++ sharesBytes b y.core.shares ++ regsBytes y.core.regs ++
      leBytes 4 (u.baySessions (some b)).length ++ leBytes 4 (u.bayWork b).length ++
      [k.rejected, k.malformed, k.placement, k.handFaults, k.doorbellFull, k.badDoorbells, k.late].flatMap (leBytes 4)) :=
  met (mtw 0x0208 (leBytes 8 0)) mtwCaller made (by decide +kernel) (by decide +kernel)

/-! ### HandCommandsComplete -/

/-- The header of an image of program 3 for the roles of gather and update: one page of code, no data (R291). -/
def imageHead : List Byte :=
  leBytes 4 0x47485254 ++ [1, 3, 7, 0] ++ leBytes 4 4096 ++ leBytes 4 0 ++ leBytes 4 0 ++ leBytes 4 0xF0000 ++ leBytes 4 0 ++ leBytes 8 77 ++
    zeros 28

/-- The image lies in the bay's hatch ring, its code and signature zeros. -/
def imageThere : State := made.write .ring 0 0 0 imageHead

def image : List Byte := imageThere.read .ring 0 0 0 4224

theorem image_length : image.length = 4224 := by simp [image, State.read, items]

/-- `made` with program 3 loaded and table 5. -/
def loaded : State := full.modBay 0 fun y => { y with work := { y.work with programs := [{ programOf image with store := [] }] } }

def loadReq : Req := host 0x0209 ([2, 0, 0, 0] ++ zeros 4 ++ leBytes 8 0 ++ leBytes 4 4224 ++ zeros 4)

/-- The state in which the load starts, and its payload. -/
def loadState : State := (queued imageThere loadReq).begun loadReq

def loadPayload : List Byte := ownPayload specHandLoad loadReq bayCaller

theorem load_descriptor : bulkAt loadPayload 0 = ⟨2, 0, 0, 4224⟩ := by decide +kernel

theorem load_source : bulkSource loadState 0 loadPayload 0 24 = image := by
  simp only [bulkSource, load_descriptor]
  exact read_of_mem (s := imageThere) (t := loadState) rfl .ring 0 0 0 4224

/-- Where the blocks can be found, the allocation succeeds. -/
theorem allocates {s : State} {b n : Nat}
    (h : (allocBlocks (List.range 12) (blocksFor n + 1) (blocksFor n) (s.bay b).space).isSome = true) :
    ∃ runs t, s.allocBytes b n = some (runs, t) := by
  obtain ⟨⟨rs, sp⟩, e⟩ := Option.isSome_iff_exists.1 h
  exact ⟨rs, _, by simp only [State.allocBytes, e]; rfl⟩

/-- HAND_LOAD of an image whose header and signature are good. -/
theorem handLoad_of {r : Req} {p : List Byte} {s s' : State} {m : List Byte}
    (hf : firstBad (bulkChecks p 0 [2] (s.ringBytes 0)) = none) (ht : takeSource (ctxOf bayCaller r p 0) s 0 24 = (m, s'))
    (hc : (imageChecks m).all id = true)
    (h : Config.ed25519 (s.bay 0).core.keys.hand (m.take (m.length - 64)) (m.drop (m.length - 64)) = true) :
    doHandLoad (ctxOf bayCaller r p 0) s =
      let g := programOf m
      let y := (s.bay 0).work.programs
      if s.programRuns 0 g.no || s.programQueued 0 g.no then park (ctxOf bayCaller r p 0) s
      else if !programFits (y.filter fun q => q.no != g.no) g then fail .noSpace 0 s'
      else match (s'.modBay 0 fun z => { z with space :=
          (((y.find? fun q => q.no == g.no).map Program.store).getD []).foldl (fun sp r => sp.freeSilo r 0) z.space }).allocBytes 0 m.length with
        | none => fail .noSpace 0 s'
        | some (runs, s) =>
          let s := State.fillRuns 0 runs (padTo 64 m) s
          let s := s.modBay 0 fun z => { z with work := { z.work with
            programs := sortBy Program.no ({ g with store := runs } :: y.filter fun q => q.no != g.no) } }
          okWith (leBytes 1 g.no ++ zeros 7 ++ leBytes 8 g.buildId) ((s.bay 0).crews.foldl (fun s k =>
            State.write (State.write s .store k 0 g.codeAddr (slice 64 g.codeSize m)) .store k 0 g.dataAddr
              (slice (64 + g.codeSize) g.dataSize m)) s) := by
  unfold doHandLoad Ctx.fields
  simp only [hf, ht, hc, h, Bool.not_true, Bool.false_eq_true, if_false] <;> rfl

/-- What the load charges the bay may be served at once. -/
theorem load_paced (h : Config.ed25519 [] (image.take (4224 - 64)) (image.drop (4224 - 64)) = true) :
    AccessesNow true doHandLoad (ctxOf bayCaller loadReq loadPayload 0) loadState := by
  have take : takeSource (ctxOf bayCaller loadReq loadPayload 0) loadState 0 24 = (image, loadState.chargeRing 0 0 4224 false) := by
    have e : takeSource (ctxOf bayCaller loadReq loadPayload 0) loadState 0 24 = (bulkSource loadState 0 loadPayload 0 24,
      if (bulkAt loadPayload 0).kind = 2 then loadState.chargeRing 0 (bulkAt loadPayload 0).offset (bulkAt loadPayload 0).length false
      else loadState) := rfl
    rw [e, load_descriptor, load_source]
    exact congrArg _ (if_pos rfl)
  have checks : (imageChecks image).all id = true := by
    simp only [imageChecks, image_length]
    decide +kernel
  have sign : Config.ed25519 (loadState.bay 0).core.keys.hand (image.take (image.length - 64)) (image.drop (image.length - 64)) = true := by
    rw [image_length, show (loadState.bay 0).core.keys.hand = [] by decide +kernel]
    exact h
  unfold AccessesNow
  rw [handLoad_of (by decide +kernel) take checks sign, image_length]
  decide +kernel

/-- The load of program 3 from the hatch ring meets its hypotheses wherever the signature of the image is good, which is the configuration's
to say. -/
theorem test_handLoad (h : Config.ed25519 [] (image.take (4224 - 64)) (image.drop (4224 - 64)) = true) :
    Met specHandLoad fun r c u p b => AccessesNow true doHandLoad (ctxOf c r p b) u ∧ Good (bulkChecks p 0 [2] (u.ringBytes b)) ∧
      let m := bulkSource u b p 0 24
      let v := (takeSource (ctxOf c r p b) u 0 24).2
      let g := programOf m
      let old := (u.bay b).work.programs.find? fun q => q.no == g.no
      let others := (u.bay b).work.programs.filter fun q => q.no != g.no
      (imageChecks m).all id = true ∧ Config.ed25519 (u.bay b).core.keys.hand (m.take (m.length - 64)) (m.drop (m.length - 64)) = true ∧
      u.programRuns b g.no = false ∧ u.programQueued b g.no = false ∧ programFits others g = true ∧
      ∃ runs t, (v.modBay b fun y => { y with space :=
          ((old.map Program.store).getD []).foldl (fun sp x => sp.freeSilo x 0) y.space }).allocBytes b m.length = some (runs, t) ∧
        Fits c (leBytes 1 g.no ++ zeros 7 ++ leBytes 8 g.buildId) := by
  refine met loadReq bayCaller imageThere (by decide +kernel) ?_
  rw [show actingBay specHandLoad bayCaller (ownPayload specHandLoad loadReq bayCaller) = 0 by decide +kernel]
  refine ⟨load_paced h, by decide +kernel, ?_⟩
  rw [show bulkSource ((queued imageThere loadReq).begun loadReq) 0 (ownPayload specHandLoad loadReq bayCaller) 0 24 = image from load_source]
  dsimp only
  rw [image_length]
  refine ⟨?_, h, by decide +kernel, by decide +kernel, by decide +kernel, ?_⟩
  · simp only [imageChecks, image_length]
    decide +kernel
  · refine (allocates ?_).elim fun rs h => h.elim fun t e => ⟨rs, t, e, nofun⟩
    decide +kernel

theorem test_handUnload : Met specHandUnload fun _ _ u p b => zeroAt p 1 7 = true ∧ 1 ≤ u8At p 0 ∧
    ((u.bay b).work.programs.any fun g => g.no == u8At p 0) = true ∧
    ((u.bay b).work.bindings.any fun x => x.program == u8At p 0) = false ∧ u.programRuns b (u8At p 0) = false ∧
    (∀ x ∈ u.dp.sheafs, x.bay = b → (∃ e ∈ x.bindings, e.program = u8At p 0) →
      x.phase ≠ .accepted ∧ x.phase ≠ .queued ∧ x.phase ≠ .held) :=
  met (host 0x020A (leBytes 8 3)) bayCaller loaded (by decide +kernel) (by decide +kernel)

theorem test_handBind : Met specHandBind fun _ _ u p b => ∃ t, u.table b (u16At p 0) = some t ∧ t.life = .live ∧
    u.preparedOn b t.id = false ∧
    (u8At p 2 = 1 ∨ u8At p 2 = 2) ∧
    (u8At p 3 = 0 ∨ ((u.bay b).work.programs.any fun g => g.no == u8At p 3 && bit g.roles (u8At p 2 - 1)) = true) ∧
    (u32At p 4 = 0 ∨ (10 ≤ u32At p 4 ∧ u32At p 4 ≤ 100000)) ∧ u.net.parked.any (u.changesTable b t.id) = false :=
  met (host 0x020B (leBytes 2 5 ++ [2, 3] ++ leBytes 4 100000)) bayCaller loaded (by decide +kernel) (found (by decide +kernel))

theorem test_handRun : Met specHandRun fun r c u p b => AccessesNow true doHandRun (ctxOf c r p b) u ∧
    ((u.bay b).work.programs.any fun g => g.no == u8At p 0 && bit g.roles 2) = true ∧
    zeroAt p 1 3 = true ∧ 1 ≤ (maskCrews (u32At p 4)).length ∧ (maskCrews (u32At p 4)).length ≤ 16 ∧
    (∀ k ∈ maskCrews (u32At p 4), k ∈ (u.bay b).crews) ∧ u32At p 8 ≤ 10000 ∧ zeroAt p 12 4 = true ∧
    Good (bulkChecks p 16 [1, 2] (u.ringBytes b)) ∧ (bulkAt p 16).length ≤ 4096 :=
  met (host 0x020C ([3, 0, 0, 0] ++ leBytes 4 0x10003 ++ leBytes 4 10000 ++ zeros 4 ++ [2, 0, 0, 0] ++ zeros 4 ++ leBytes 8 61440 ++ leBytes 4 4096 ++
    zeros 4)) bayCaller loaded (by decide +kernel) (by decide +kernel)

theorem test_handQuery : Met specHandQuery fun _ c u p b => u16At p 0 ≤ 4095 ∧ zeroAt p 2 6 = true ∧
    let y := u.bay b
    let later := y.work.bindings.filter fun e => decide (u16At p 0 ≤ e.table)
    let l := if 128 < later.length ∧ (later[128]?).map Binding.table = ((later.take 128).getLast?).map Binding.table
      then later.take 127 else later.take 128
    Fits c (leBytes 1 y.work.programs.length ++ leBytes 1 l.length ++
      leBytes 2 (((later[l.length]?).map Binding.table).getD 0xFFFF) ++
      leBytes 4 y.core.counters.handFaults ++
      (y.work.programs.flatMap fun q => leBytes 1 q.no ++ leBytes 1 q.roles ++ zeros 6 ++ leBytes 4 q.codeSize ++
        leBytes 4 q.dataSize ++ leBytes 8 q.buildId) ++
      l.flatMap fun e => leBytes 2 e.table ++ leBytes 1 e.role ++ leBytes 1 e.program ++ leBytes 4 e.budgetUs) :=
  met (host 0x020D (leBytes 8 4095)) bayCaller loaded (by decide +kernel) (by decide +kernel)

end Sys2Proof.Tests
end

