-- ==== Sys2Proof/Tests/WitnessDevice.lean ====
section
/-! SUPPORT. The hypotheses of the statements about power, clocks, telemetry, memory, maintenance, boot, the module, resets, the local
bus, the console and the sensors can be met. -/

set_option Elab.async false

namespace Sys2Proof.Tests

open Sys2Proof.Machine

/-- `dev` with a power domain changed, at an instant. -/
def domAt (i t : Nat) (f : Domain → Domain) : State := (devAt t).modDomain i f

def inState (i : Nat) (x : DomState) : State := domAt i 0 fun d => { d with state := x }

/-! ### PowerCommandsComplete -/

/-- Domain 0x7B, the last. -/
theorem test_powerVote : Met specPowerVote fun r c u p b => domainIndex (u16At p 0) = some 74 ∧ zeroAt p 2 6 = true ∧
    bit (u.domain 74).votes (voterOf (ctxOf c r p b)) = false ∧ c.mtw = false :=
  metB (leBytes 8 0x7B) dev (by decide +kernel) (by decide +kernel)

theorem test_powerRelease : Met specPowerRelease fun r c u p b => domainIndex (u16At p 0) = some 74 ∧ zeroAt p 2 6 = true ∧
    bit (u.domain 74).votes (voterOf (ctxOf c r p b)) = true ∧ c.mtw = false :=
  metB (leBytes 8 0x7B) (domAt 74 0 fun d => { d with votes := 1 }) (by decide +kernel) (by decide +kernel)

theorem test_powerQuery : Met specPowerQuery fun _ c u p _ => domainIndex (u16At p 0) = some 62 ∧ zeroAt p 2 6 = true ∧
    Fits c (leBytes 1 (domCode (u.domain 62).state) ++ leBytes 1 (u.domain 62).fallow ++ zeros 2 ++ leBytes 4 (u.domain 62).votes ++
      leBytes 4 (u.domain 62).hysteresis) :=
  metM (leBytes 8 0x60) dev (by decide +kernel) (by decide +kernel)

theorem test_powerConfig : Met specPowerConfig fun _ _ _ p _ => domainIndex (u16At p 0) = some 62 ∧ 1 ≤ u8At p 2 ∧ u8At p 2 ≤ 3 ∧
    (u8At p 2 = 3 → 62 < 63) ∧ zeroAt p 3 1 = true ∧ (u32At p 4 = 0 ∨ (10 ≤ u32At p 4 ∧ u32At p 4 ≤ 10000000)) :=
  metM (leBytes 2 0x60 ++ [3, 0] ++ leBytes 4 10000000) dev (by decide +kernel) (by decide +kernel)

theorem test_cclkSet : Met specCclkSet fun _ _ u p _ => u8At p 0 ≤ 2 ∧ zeroAt p 1 7 = true ∧ u.dev.cclkChange = none :=
  metD (leBytes 8 2) dev (by decide +kernel) (by decide +kernel)

/-! ### DomainsEnterFallowAndWake -/

/-- A yoke's domain, with no vote, idle for its 100 µs, its link in the low state; and the tether's, detached. -/
theorem test_hysteresisExpiry : ∃ s : State, (s.domain 54).state = .a0 ∧ (s.domain 54).votes = 0 ∧ s.domainBusy 54 true = false ∧
    (s.domain 54).idleSince + 1000 * (s.domain 54).hysteresis ≤ s.dev.now ∧ s.dev.phase = .running :=
  ⟨devAt 100000, by decide +kernel⟩

theorem test_hysteresisExpiry_tether : ∃ s : State, (s.domain 62).state = .a0 ∧ (s.domain 62).votes = 0 ∧ s.domainBusy 62 false = false ∧
    (s.domain 62).idleSince + 1000 * (s.domain 62).hysteresis ≤ s.dev.now ∧ s.dev.phase = .running ∧ s.entryTarget 62 = 2 ∧
    s.tth.attached = false :=
  ⟨{ domAt 62 100000 (fun d => { d with fallow := 2 }) with tth.attached := false }, by decide +kernel⟩

theorem test_entryCommit : ∃ s : State, (s.domain 74).state = .entering 2 .quiesce := ⟨inState 74 (.entering 2 .quiesce), by decide +kernel⟩

theorem test_entryCommit_f3 : ∃ s : State, (s.domain 58).state = .entering 3 .quiesce := ⟨inState 58 (.entering 3 .quiesce), by decide +kernel⟩

theorem test_gateEnd : ∃ s : State, (s.domain 0).state = .entering 3 .gate ∧ (s.domain 0).wakePending = false :=
  ⟨inState 0 (.entering 3 .gate), by decide +kernel⟩

theorem test_gateEnd_wake : ∃ s : State, (s.domain 74).state = .entering 2 .gate ∧ (s.domain 74).wakePending = true :=
  ⟨domAt 74 0 fun d => { d with state := .entering 2 .gate, wakePending := true }, by decide +kernel⟩

theorem test_wakeLatch_vote : ∃ s : State, (s.domain 74).votes ≠ 0 ∧ s.dev.phase ≠ .parked ∧ s.dev.phase ≠ .tripped :=
  ⟨domAt 74 0 fun d => { d with votes := 1 }, by decide +kernel⟩

theorem test_pwrOk : ∃ s : State, (s.domain 74).state = .exiting 2 .regulator := ⟨inState 74 (.exiting 2 .regulator), by decide +kernel⟩

theorem test_pllLock : ∃ s : State, (s.domain 45).state = .exiting 2 .oscillator ∧ s.domainA0 (domainDie 45) = true :=
  ⟨inState 45 (.exiting 2 .oscillator), by decide +kernel⟩

theorem test_memOk : ∃ s : State, (s.domain 0).state = .exiting 1 .memory := ⟨inState 0 (.exiting 1 .memory), by decide +kernel⟩

/-- A port in a state, sub-port 0 of port 7 up. -/
def portIn (x : DomState) : State := (inState 53 x).modSub 7 0 fun y => { y with link := true }

theorem test_listenFrame : ∃ s : State, hasSub 7 0 = true ∧ s.linkUp 7 0 = true ∧ (s.domain 53).state = .fallow 2 :=
  ⟨portIn (.fallow 2), by decide +kernel⟩

def knockFrame (good : Bool) : List Byte :=
  let head := leBytes 2 0x4B57 ++ [1, 3] ++ zeros 16 ++ leBytes 8 1 ++ leBytes 8 2
  head ++ (if good then (hmac (List.replicate 32 0) head).take 8 else zeros 8) ++ zeros 2

theorem test_knock_accepted : ∃ s : State, hasSub 7 0 = true ∧ s.linkUp 7 0 = true ∧ (s.domain 53).state ≠ .fallow 3 ∧
    bit (u8At (knockFrame true) 3) 7 = false ∧ s.knockBad (knockFrame true) = none :=
  ⟨portIn (.fallow 2), by decide +kernel⟩

theorem test_knock_rejected : ∃ s : State, hasSub 7 0 = true ∧ s.linkUp 7 0 = true ∧ (s.domain 53).state ≠ .fallow 3 ∧
    bit (u8At (knockFrame false) 3) 7 = false ∧ s.knockBad (knockFrame false) = some 1 :=
  ⟨portIn .a0, by decide +kernel⟩

theorem test_falseWake : ∃ s : State, s.lan.energyAt.getD 7 none = some 0 ∧ 0 < s.upSubs 7 ∧ 0 + 20000000 ≤ s.dev.now :=
  ⟨{ portIn .a0 with lan.energyAt := List.replicate 7 none ++ [some 0], dev.now := 20000000 }, by decide +kernel⟩

theorem test_lanternTimer : ∃ s : State, s.lan.timer ≠ 0 ∧ s.lan.timer ≤ s.dev.now % 2 ^ 48 :=
  ⟨{ devAt (2 ^ 48 - 1) with lan.timer := 2 ^ 48 - 1 }, by decide⟩

/-! ### ClocksAndTemperaturesComplete -/

theorem test_cclkPhaseEnd : ∃ (s : State) (c : CclkChange), s.dev.cclkChange = some c ∧ c.phase ≠ .switch :=
  ⟨{ dev with dev.cclkChange := some ⟨.lower, 1, 0, none⟩ }, _, rfl, by decide⟩

theorem test_dieTemperature : ∃ s : State, s.dev.phase = .running ∧
    105 * 16 ≤ ({ s with dev.tj := s.dev.tj.set 1 (105 * 16) } : State).hotTj ∧
    (103 * 16 ≤ ({ s with dev.tj := s.dev.tj.set 1 (103 * 16) } : State).hotTj ∧
      ({ s with dev.tj := s.dev.tj.set 1 (103 * 16) } : State).hotTj < 105 * 16) ∧
    (100 * 16 ≤ ({ s with dev.tj := s.dev.tj.set 1 (100 * 16) } : State).hotTj ∧
      ({ s with dev.tj := s.dev.tj.set 1 (100 * 16) } : State).hotTj < 103 * 16) ∧
    ({ s with dev.tj := s.dev.tj.set 1 (100 * 16 - 1) } : State).hotTj < 100 * 16 :=
  ⟨dev, by decide +kernel⟩

theorem test_dieThermtrip : ∃ s : State, s.dev.phase = .running ∧ 105 * 16 ≤ s.dev.tj.getD 1 0 :=
  ⟨{ dev with dev.tj := [0, 105 * 16] }, by decide⟩

theorem test_clockRefLost : ∃ s : State, s.dev.refLost.getD 2 none = none := ⟨dev, by decide⟩

theorem test_clockRefOk : ∃ s : State, (s.dev.refLost.getD 2 none).isSome = true :=
  ⟨{ dev with dev.refLost := [none, none, some 0] }, by decide⟩

theorem test_refHoldoverExpiry : ∃ s : State, s.dev.fatal = false ∧ s.dev.refLost.getD 1 none = some 0 ∧ 0 + 1000000 ≤ s.dev.now :=
  ⟨{ devAt 1000000 with dev.refLost := [none, some 0, none] }, by decide⟩

/-! ### TelemetryAndMemoryCommandsComplete -/

theorem test_eventRead : Met specEventRead fun _ c _ p _ => u8At p 10 ≤ 3 ∧ zeroAt p 11 5 = true ∧ c.mtw = false :=
  metB (leBytes 8 0 ++ leBytes 2 0 ++ [3] ++ zeros 5) dev (by decide +kernel) (by decide +kernel)

/-- The last counter of the caller's block. -/
theorem test_counterRead : Met specCounterRead fun _ c _ p _ => (∀ k, c.bay = some k → k = u16At p 0) ∧ blockLen (u16At p 0) = some 53 ∧
    u16At p 2 + u16At p 4 ≤ 53 ∧ 1 ≤ u16At p 4 ∧ u16At p 4 ≤ 500 ∧ u8At p 6 < 2 ∧ zeroAt p 7 1 = true ∧ c.mtw = false :=
  metB (leBytes 2 0 ++ leBytes 2 52 ++ leBytes 2 1 ++ [1, 0]) dev (by decide +kernel)
    ⟨fun k h => (Option.some.inj h).symm.trans (by decide +kernel), by decide +kernel⟩

theorem test_sensorRead : Met specSensorRead fun _ c u _ _ => Fits c (leBytes 1 31 ++ zeros 7 ++ (List.range 31).flatMap fun n =>
    leBytes 2 n ++ leBytes 1 (sensorUnit n) ++ leBytes 1 (u.sensor n).status ++ leBytes 4 (unsignedOf 32 (u.sensor n).value)) :=
  metM [] dev (by decide +kernel) (by decide +kernel)

theorem test_deviceQuery : Met specDeviceQuery fun _ c _ _ _ => c.mtw = false := metB [] dev (by decide +kernel) rfl

theorem test_siloQuery : Met specSiloQuery fun _ c u p _ => u8At p 0 ≤ 11 ∧ zeroAt p 1 7 = true ∧ Fits c ([u8At p 0].flatMap (u.siloRecord c)) :=
  metM (leBytes 8 11) dev (by decide +kernel) (by decide +kernel)

theorem test_siloQuery_all : Met specSiloQuery fun _ c _ p _ => u8At p 0 = 0xFF ∧ zeroAt p 1 7 = true ∧ c.mtw = false :=
  metB (leBytes 8 0xFF) dev (by decide +kernel) (by decide +kernel)

theorem test_loftQuery : Met specLoftQuery fun _ c u p _ => u8At p 0 ≤ 3 ∧ zeroAt p 1 7 = true ∧ Fits c ([u8At p 0].flatMap (u.loftRecord c)) :=
  metM (leBytes 8 3) dev (by decide +kernel) (by decide +kernel)

theorem test_memScrubConfig : Met specMemScrubConfig fun _ _ _ p _ => u16At p 0 ≤ 168 ∧ zeroAt p 2 6 = true :=
  metD (leBytes 8 168) dev (by decide +kernel) (by decide +kernel)

theorem test_loftPortSet : Met specLoftPortSet fun _ _ u p _ => u8At p 0 = 3 ∧ u8At p 1 = 0 ∧ zeroAt p 2 6 = true ∧
    ∀ y ∈ u.bays, 3 ∉ y.space.loftExt :=
  metD ([3, 0] ++ zeros 6) dev (by decide +kernel) (by decide +kernel)

/-! ### SilosAndLoftPortsReportAndFail -/

def siloIs (f : Silo → Silo) (t : Nat) : State := (devAt t).modSilo 11 f

theorem test_silo : ∃ (s : State) (x : Silo), s.memsys.silos[11]? = some x ∧ x.lost = false ∧ x.step ≠ 4 ∧ s.memsys.scrubHours ≠ 0 ∧
    s.scrubNext 11 31 16 x.scrubAt x = true ∧ x.scrubFrom + s.scrubTime x.scrubAt ≤ s.dev.now ∧
    s.deviceMay 11 ((s.wants ++ s.heads).any fun w => w.points.contains 11) = true :=
  ⟨{ dev with memsys.scrubHours := 24 }, found (by decide +kernel)⟩

theorem test_throttleFall : ∃ (s : State) (x : Silo), s.memsys.silos[11]? = some x ∧ x.lost = false ∧ 1 ≤ x.step ∧ x.step ≤ 4 ∧
    x.nextStep = none ∧ x.below.getD (x.step - 1) none = some 0 ∧ max 0 x.stepAt + 10000000 ≤ s.dev.now :=
  ⟨siloIs (fun x => { x with step := 4, below := [none, none, none, some 0] }) 10000000, found (by decide +kernel)⟩

theorem test_siloLost_halt : ∃ (s : State) (x : Silo), s.memsys.silos[11]? = some x ∧ x.lost = false ∧ x.haltedAt = some 0 ∧
    0 + 1000000000 ≤ s.dev.now :=
  ⟨siloIs (fun x => { x with haltedAt := some 0 }) 1000000000, found (by decide +kernel)⟩

theorem test_siloLost_errors : ∃ (s : State) (x : Silo), s.memsys.silos[11]? = some x ∧ x.lost = false ∧ x.ue[256]? = some 0 ∧
    s.dev.now ≤ 0 + 1000000 :=
  ⟨siloIs (fun x => { x with ue := List.replicate 257 0 }) 1000000, found (by decide +kernel)⟩

def loftIs (t : Nat) (f : Loft → Loft) : State := (devAt t).modLoft 3 f

theorem test_loftDown : ∃ s : State, (s.loft 3).state = .up ∨ (s.loft 3).state = .lost :=
  ⟨loftIs 0 fun x => { x with state := .up }, by decide +kernel⟩

theorem test_loftRetrain_kept : ∃ s : State, (s.loft 3).state = .down ∧ (s.loft 3).downAt + 1000000000 ≤ s.dev.now ∧
    s.domainA0 61 = true ∧ (s.loft 3).writesOut = false :=
  ⟨loftIs 1000000000 fun x => { x with state := .down }, by decide +kernel⟩

theorem test_loftRetrain_lost : ∃ s : State, (s.loft 3).state = .down ∧ (s.loft 3).downAt + 1000000000 ≤ s.dev.now ∧
    s.domainA0 61 = true ∧ (s.loft 3).writesOut = true :=
  ⟨loftIs 1000000000 fun x => { x with state := .down, writesOut := true }, by decide +kernel⟩

theorem test_loftDevload_rise : ∃ s : State, (s.loft 3).state = .lost ∧ (s.loft 3).devload < 3 :=
  ⟨loftIs 0 fun x => { x with state := .lost, devload := 2 }, by decide +kernel⟩

/-- 100 us after the last indication of level 3, level 2 is indicated. -/
theorem test_loftDevload_fall : ∃ s : State, (s.loft 3).state = .up ∧ 2 ≤ (s.loft 3).devload ∧ (s.loft 3).devloadNext = none ∧
    (s.modLoft 3 fun x => { x with devloadAt := x.devloadAt.set 2 s.dev.now }).devloadNow 3 2 < (s.loft 3).devload :=
  ⟨loftIs 100000 fun x => { x with state := .up, devload := 3, devloadAt := [0, 0, 0, 0] }, by decide +kernel⟩

theorem test_loftUnitZeroed : ∃ s : State, s.stewardsUp = true ∧ (s.loft 3).state = .up ∧ s.flash.loftToZero = [(0, 3)] :=
  ⟨{ loftIs 0 (fun x => { x with state := .up }) with flash.loftToZero := [(0, 3)] }, by decide +kernel⟩

theorem test_loftPoison : ∃ (s : State) (r : Read), findKey Read.id s.dp.reads 4 = some r ∧ r.space = 2 ∧ r.started = true :=
  ⟨{ dev with dp.reads := [⟨4, 0, 0, none, 4, true, .copyOut 1, 2, 0, 1, 0, none, false, false, 0⟩] }, found (by decide +kernel)⟩

/-- Bay 0 with one unit, its first, which has been lost and which no row names. -/
theorem test_loftUnitReclaimed : ∃ s : State, (s.bay 0).space.loftExt[0]? = some 3 ∧ 0 ∈ (s.bay 0).space.lostLoft ∧
    (s.loft 3).state = .lost ∧ ((s.rowRuns 0 2).any fun x => runsMeet x ⟨0, unitGranules⟩) = false ∧
    ((s.bay 0).space.loftFreed.any fun x => runsMeet x.1 ⟨0, unitGranules⟩) = false :=
  ⟨(full.modLoft 3 fun x => { x with state := .lost }).modBay 0 fun y => { y with space := { y.space with loftExt := [3], lostLoft := [0] } },
    by decide +kernel⟩

/-! ### MaintenanceCommandsComplete -/

theorem test_fwStage_part : Met specFwStage fun r c u p _ => zeroAt p 8 8 = true ∧ u.slotIn .trial = none ∧ u32At p 0 = 8 ∧
    ((u.uploadOf (ctxOf c r p 0) 0x0F01).any fun q => decide (q.data.length = u32At p 0 ∧ q.total = u32At p 4 ∧
      u32At p 0 + (p.drop 16).length ≤ u32At p 4 ∧ (q.data ++ p.drop 16).length < u32At p 4)) = true :=
  metD (leBytes 4 8 ++ leBytes 4 8192 ++ zeros 8 ++ zeros 8) (dev.modSession 2 fun x => { x with uploads := [⟨0x0F01, 8192, zeros 8⟩] })
    (by decide +kernel) (by decide +kernel)

/-- An image of 8 KiB, its code and signature zeros (R698). -/
def fwHead : List Byte :=
  leBytes 4 0x5641524C ++ [1, 1] ++ zeros 2 ++ leBytes 4 9 ++ leBytes 8 77 ++ leBytes 4 0 ++ leBytes 4 8192 ++ zeros 36

def fwImage : List Byte := fwHead ++ List.replicate 8128 0

theorem fwImage_length : fwImage.length = 8192 := by
  rw [fwImage, List.length_append, List.length_replicate, show fwHead.length = 64 by decide +kernel]

theorem fwImage_ok : imageOk fwImage = true := by
  simp only [imageOk, fwImage_length]
  decide +kernel

/-- The image with its last chunk, which is empty, meets its hypotheses wherever its signature is good, which is the configuration's to say. -/
theorem test_fwStage_whole (h : Config.ed25519 Config.romKey (fwImage.take (8192 - 64)) (fwImage.drop (8192 - 64)) = true) :
    Met specFwStage fun r c u p _ => zeroAt p 8 8 = true ∧ u.slotIn .trial = none ∧ u32At p 0 = 8192 ∧ ∃ q,
      u.uploadOf (ctxOf c r p 0) 0x0F01 = some q ∧ q.data.length = u32At p 0 ∧ q.total = u32At p 4 ∧
      u32At p 0 + (p.drop 16).length ≤ u32At p 4 ∧
      let m := q.data ++ p.drop 16
      m.length = u32At p 4 ∧ imageOk m = true ∧ u.lan.floor ≤ u32At m 20 ∧
      Config.ed25519 Config.romKey (m.take (m.length - 64)) (m.drop (m.length - 64)) = true ∧ Fits c (leBytes 1 u.stageSlot ++ zeros 7) := by
  let s : State := dev.modSession 2 fun x => { x with uploads := [⟨0x0F01, 8192, fwImage⟩] }
  refine metD (leBytes 4 8192 ++ leBytes 4 8192 ++ zeros 8) s (by decide +kernel)
    ⟨by decide +kernel, by decide +kernel, by decide +kernel, ⟨0x0F01, 8192, fwImage⟩, rfl, ?_⟩
  have e : (ownPayload specFwStage (admin specFwStage.op (leBytes 4 8192 ++ leBytes 4 8192 ++ zeros 8)) adminCaller).drop 16 = [] := by
    decide +kernel
  dsimp only
  rw [e, List.append_nil, fwImage_length]
  exact ⟨by decide +kernel, by decide +kernel, by decide +kernel, by decide +kernel, fwImage_ok, by decide +kernel, h, nofun⟩

theorem test_fwActivate : Met (maintSpec 0x0F02 8) fun _ _ u p _ => u8At p 0 < 2 ∧ u8At p 1 < 2 ∧ zeroAt p 2 6 = true ∧
    (u.slotShown (u8At p 0)).state = .valid :=
  metM ([1, 1] ++ zeros 6) (dev.modFw 1 fun _ => { Slot.none with state := .valid, good := true }) (by decide +kernel) (by decide +kernel)

theorem test_fwQuery : Met (maintSpec 0x0F03 0) fun _ c u _ _ => Fits c ((List.range 2).flatMap fun i => leBytes 1 i ++
    leBytes 1 (slotCode (u.slotShown i).state) ++ zeros 2 ++ leBytes 4 (u.slotShown i).version ++ leBytes 8 (u.slotShown i).build) :=
  metM [] dev (by decide +kernel) (by decide +kernel)

theorem test_fwRollback : Met (maintSpec 0x0F04 0) fun _ _ u _ _ => u.slotIn .trial = none ∧
    ((List.range 2).find? fun i => (u.slotShown i).state == .valid) = some 1 :=
  metM [] (dev.modFw 1 fun _ => { Slot.none with state := .valid, good := true }) (by decide +kernel) (by decide +kernel)

theorem test_selftestRun : Met (maintSpec 0x0F10 8) fun _ c u p _ => u32At p 0 < 1024 ∧ zeroAt p 4 4 = true ∧
    (bits (u32At p 0) 1 6 = 0 ∨ ∀ b, b < 16 → u.bayState b = .absent) ∧ (∀ t ∈ u.mgmt.selftests, t.state ≠ 0) ∧
    Fits c (leBytes 4 u.mgmt.nextRun ++ zeros 4) :=
  metM (leBytes 8 1023) (devIn .absent) (by decide +kernel) (by decide +kernel)

theorem test_selftestResult : Met (maintSpec 0x0F11 8) fun _ c u p _ => ∃ t,
    (u.mgmt.selftests.find? fun t => t.run == u32At p 0) = some t ∧ zeroAt p 4 4 = true ∧
    Fits c (leBytes 1 t.state ++ zeros 3 ++ leBytes 4 t.failed ++ leBytes 8 t.failure) :=
  metM (leBytes 8 1) { dev with mgmt.selftests := [⟨1, 1023, 1, 0, 0⟩] } (by decide +kernel) (found (by decide +kernel))

/-- The 16 lanes of the tether. -/
theorem test_marginRun : Met (maintSpec 0x0F30 16) fun _ c u p _ => u.marginTarget (u8At p 0) (u8At p 1) (u8At p 2) = (true, true, 16) ∧
    u.marginLegal (u8At p 0) (u8At p 1) (u8At p 2) = true ∧ u8At p 0 ≤ 5 ∧ u8At p 3 < 2 ∧ u32At p 4 ≠ 0 ∧ u32At p 4 < 2 ^ 16 ∧
    zeroAt p 8 8 = true ∧ (u.mgmt.margins.filter fun m => m.state == 0).length < 4 ∧
    (∀ m ∈ u.mgmt.margins, m.state = 0 → ¬(m.kind = u8At p 0 ∧ m.index = u8At p 1 ∧ m.sub = u8At p 2)) ∧
    Fits c (leBytes 4 u.mgmt.nextRun ++ zeros 4) :=
  metM ([4, 0, 0, 1] ++ leBytes 4 (2 ^ 16 - 1) ++ zeros 8) { dev with mgmt.margins := [⟨1, 5, 1, 63, 0, 1, 0, []⟩] } (by decide +kernel)
    (by decide +kernel)

theorem test_marginResult : Met (maintSpec 0x0F31 8) fun _ c u p _ => ∃ m,
    (u.mgmt.margins.find? fun m => m.run == u32At p 0) = some m ∧ zeroAt p 4 4 = true ∧
    Fits c (leBytes 1 m.state ++ leBytes 1 m.results.length ++ zeros 6 ++ m.results.flatMap fun r =>
      leBytes 1 r.1 ++ zeros 1 ++ leBytes 2 r.2.1 ++ leBytes 2 r.2.2.1 ++ leBytes 2 r.2.2.2) :=
  metM (leBytes 8 1) { dev with mgmt.margins := [⟨1, 5, 1, 63, 0, 1, 1, [(0, 3, 4, 0)]⟩] } (by decide +kernel) (found (by decide +kernel))

theorem test_deviceReset : Met (maintSpec 0x0F40 8) fun _ _ _ p _ => u8At p 0 < 2 ∧ zeroAt p 1 7 = true :=
  metM (leBytes 8 1) dev (by decide +kernel) (by decide +kernel)

theorem test_adminRekey : Met specAdminRekey fun _ _ _ _ _ => True := metD (List.replicate 32 1) dev (by decide +kernel) trivial

/-! ### BootPhasesComplete -/

theorem test_booting : ∃ s : State, s.dev.phase = .booting ∧ s.dev.boot = .records :=
  ⟨{ dev with dev.phase := .booting, dev.boot := .records }, rfl, rfl⟩

theorem test_trialConfirmed : ∃ s : State, s.slotIn .trial = some 1 ∧ s.dev.trialSince = some 0 ∧ s.stewardsUp = true ∧
    s.dev.bootFailed = false ∧ 0 + 60000000000 ≤ s.dev.now :=
  ⟨({ devAt 60000000000 with dev.trialSince := some 0 } : State).modFw 1 fun _ => { Slot.none with state := .trial, good := true },
    by decide +kernel⟩

theorem test_selftestDone : ∃ (s : State) (t : SelfTest), (s.mgmt.selftests.find? fun t => t.run == 1 && t.state == 0) = some t ∧ t.mask = 7 :=
  ⟨{ dev with mgmt.selftests := [⟨1, 7, 0, 0, 0⟩] }, found (by decide +kernel)⟩

theorem test_marginDone : ∃ (s : State) (m : Margin), (s.mgmt.margins.find? fun m => m.run == 1 && m.state == 0) = some m ∧ m.kind = 4 :=
  ⟨{ dev with mgmt.margins := [⟨1, 4, 0, 0, 0, 1, 0, []⟩] }, found (by decide +kernel)⟩

/-! ### ModuleInsertsAndParks -/

theorem test_rampComplete : ∃ s : State, s.dev.phase = .ramp := ⟨{ dev with dev.phase := .ramp }, rfl⟩

theorem test_railPowerGood : ∃ s : State, s.dev.phase = .rails ∧ 7 = s.board.rails + 1 :=
  ⟨{ dev with dev.phase := .rails, board.rails := 6 }, rfl, rfl⟩

theorem test_railDown : ∃ s : State, (s.dev.phase = .parked ∨ s.dev.phase = .standby) ∧ 1 = s.board.rails :=
  ⟨{ dev with dev.phase := .parked, board.rails := 1 }, Or.inl rfl, rfl⟩

theorem test_hotswapFault : ∃ s : State, s.mainOn = true := ⟨dev, by decide +kernel⟩

theorem test_attnN : ∃ s : State, s.dev.parking = .none ∧ s.stewardsUp = true := ⟨dev, by decide +kernel⟩

theorem test_attnN_waits : ∃ s : State, s.dev.parking = .none ∧ s.stewardsUp = false ∧ s.dev.phase = .booting :=
  ⟨{ dev with dev.phase := .booting }, by decide +kernel⟩

theorem test_parkWaitEnd : ∃ s : State, s.dev.parking = .draining ∧ s.dev.phase = .running ∧
    ∀ y ∈ s.bays, y.core.life.state = .draining → y.core.life.drainStart = none :=
  ⟨{ devIn .draining with dev.parking := .draining }, by decide +kernel⟩

theorem test_logicOk : ∃ s : State, (s.domain 0).state = .exiting 3 .logic := ⟨inState 0 (.exiting 3 .logic), by decide +kernel⟩

/-! ### ResetsKeepAndRestore -/

theorem test_stewardWatchdog : ∃ s : State, s.stewardsUp = true ∧ s.lan.wdogAt + 500000000 ≤ s.dev.now := ⟨devAt 500000000, by decide +kernel⟩

/-- The stewards in reset since an instant, for the second time. -/
def stewardReset (since t : Nat) : State := { devAt t with dev.steward := .inReset since 2 2, dev.slot := none, lan.failsafe := true }

theorem test_lanternFailsafe : ∃ s : State, s.dev.steward = .inReset 0 2 2 ∧ s.lan.failsafe = false ∧ 0 + 2000000000 ≤ s.dev.now :=
  ⟨{ stewardReset 0 2000000000 with lan.failsafe := false }, by decide⟩

theorem test_failsafeRetry : ∃ s : State, s.dev.steward = .inReset 0 2 2 ∧ s.lan.failsafe = true ∧ 0 + 2000000000 * (2 + 1) ≤ s.dev.now :=
  ⟨stewardReset 0 6000000000, by decide⟩

theorem test_bootRom_resets : ∃ s : State, s.dev.steward = .inReset 0 2 2 ∧ s.dev.phase = .running ∧ s.dev.slot = none ∧ s.trialFailed = false :=
  ⟨stewardReset 0 0, by decide +kernel⟩

theorem test_stewardResume : ∃ s : State, s.dev.steward = .inReset 0 2 2 ∧ s.dev.phase = .running ∧ s.dev.slot ≠ none :=
  ⟨{ stewardReset 0 0 with dev.slot := some 0 }, by decide⟩

theorem test_bootRom : ∃ s : State, s.dev.phase = .booting ∧ s.dev.boot = .rom ∧ s.board.resetLow = false ∧ s.dev.steward = .running :=
  ⟨{ dev with dev.phase := .booting, dev.boot := .rom }, by decide⟩

theorem test_trialFailed : ∃ s : State, s.slotIn .trial = some 1 ∧ s.trialFailed = true ∧ s.dev.steward = .running :=
  ⟨({ dev with dev.slot := some 1, dev.bootFailed := true, flash.trialAttempted := true } : State).modFw 1 fun _ =>
    { Slot.none with state := .trial, good := true }, by decide +kernel⟩

/-! ### LocalBusMasterTransfers -/

theorem test_ltwTransfer : ∃ s : State, s.varletRuns = true ∧ s.mgmt.ltw.stuckScl = none ∧ s.mgmt.ltw.notBefore ≤ s.dev.now :=
  ⟨{ devAt 5 with mgmt.ltw.notBefore := 5 }, by decide +kernel⟩

theorem test_ltwArbStop : ∃ s : State, s.varletRuns = true ∧ s.mgmt.ltw.transfer = some (0x50, [1], 0) ∧ ¬ s.mgmt.ltw.retries < 3 :=
  ⟨{ dev with mgmt.ltw.transfer := some (0x50, [1], 0), mgmt.ltw.retries := 3 }, by decide +kernel⟩

theorem test_ltwBusStuck : ∃ s : State, s.varletRuns = true ∧ s.mgmt.ltw.stuckScl = some 0 ∧ 0 + 1000000000 ≤ s.dev.now :=
  ⟨{ devAt 1000000000 with mgmt.ltw.stuckScl := some 0 }, by decide +kernel⟩

/-! ### ConsoleAnswersItsLines -/

theorem test_uartTransmit : ∃ s : State, s.mgmt.uart.tx = [1, 2] ∧ s.mgmt.uart.pendingBaud = some (1, 1) :=
  ⟨{ dev with mgmt.uart.tx := [1, 2], mgmt.uart.pendingBaud := some (1, 1) }, rfl, rfl⟩

def typed (l : String) : State := { dev with mgmt.uart.rx := ascii l ++ [13] }

theorem test_consoleStatus : ∃ s : State, s.drainUart.varletRuns = true ∧ s.drainUart.consoleWaits = some .status :=
  ⟨typed "status", by decide +kernel⟩

theorem test_consoleEvents : ∃ s : State, s.drainUart.varletRuns = true ∧ s.drainUart.consoleWaits = some (.events 64) :=
  ⟨typed "events 64", by decide +kernel⟩

theorem test_consoleLevel : ∃ s : State, s.drainUart.varletRuns = true ∧ s.drainUart.consoleWaits = some (.level 3) :=
  ⟨typed "level fatal", by decide +kernel⟩

theorem test_consoleBaud : ∃ s : State, s.drainUart.varletRuns = true ∧ s.drainUart.consoleWaits = some (.baud 3) :=
  ⟨typed "baud 921600", by decide +kernel⟩

/-! ### SensorsFansAndCeilings -/

theorem test_sensorPoll : ∃ s : State, s.dev.phase ≠ .off ∧ (30 < 14 ∨ 27 ≤ 30 ∨ s.varletRuns = true) := ⟨dev, by decide⟩

theorem test_fanFault : ∃ (s : State) (f : Fan), s.board.fans[3]? = some f ∧ s.varletRuns = true ∧ f.present = true ∧ f.faulty = false ∧
    f.slowSince = some 0 ∧ 0 + 3000000000 ≤ s.dev.now :=
  ⟨{ devAt 3000000000 with board.fans := List.replicate 4 ⟨true, 999, some 0, none, false, 50⟩ }, found (by decide +kernel)⟩

theorem test_packagePowerLimit : ∃ s : State, s.varletRuns = true ∧ (s.sensor 19).status ≠ 3 ∧ 950000 < (s.sensor 19).value :=
  ⟨dev.setSensor 19 2 950001, by decide +kernel⟩

theorem test_powerCeilingRaise : ∃ s : State, s.varletRuns = true ∧ s.dev.powerCeil < s.dev.cclkSet ∧ s.dev.lowPowerSince = some 0 ∧
    0 + 1000000000 ≤ s.dev.now :=
  ⟨{ devAt 1000000000 with dev.powerCeil := 1, dev.lowPowerSince := some 0 }, by decide +kernel⟩

theorem test_eventSuppressed : ∃ (s : State) (w : LogWindow), s.mgmt.windows.find? (fun w => w.code == 5 && w.bay == some 0 && w.die == none) =
    some w ∧ s.dev.steward = .running ∧ w.opened + 1000000000 ≤ s.dev.now :=
  ⟨{ devAt 1000000000 with mgmt.windows := [⟨5, some 0, none, 0, 2⟩] }, found (by decide +kernel)⟩

end Sys2Proof.Tests
end

