-- ==== Sys2Proof/Tests/WitnessNet.lean ====
section
/-! SUPPORT. The hypotheses of the statements about the network, the links, shard maps, muster, the hatch, the carriers, the management
bus, forwarded requests and a bay's lifecycle can be met. -/

set_option Elab.async false

namespace Sys2Proof.Tests

open Sys2Proof.Machine

/-! ### PortCommandsAndEventsComplete -/

theorem test_netPortQuery : Met specNetPortQuery fun _ c u p _ => u8At p 0 < 8 ∧ zeroAt p 1 7 = true ∧
    (let subs := (((u.net.ports[u8At p 0]?).map Port.subs).getD []).take (modeSubs (u.portMode (u8At p 0)))
     (portBytes (u8At p 0) (u.settings (u8At p 0))).length + 48 * subs.length ≤ 488) ∧ c.mtw = false :=
  metD (leBytes 8 7) dev (by decide +kernel) (by decide +kernel)

/-- A port in its mode 5, with every priority and class at its limit. -/
theorem test_netPortSet : Met specNetPortSet fun _ _ _ p _ => u8At p 0 < 8 ∧ (settingsOf p).mode ≤ 5 ∧ (settingsOf p).preempt ≤ 1 ∧
    (∀ i, i < 3 → u8At p (5 + i) ≤ 7 ∧ u8At p (8 + i) ≤ 63) ∧ zeroAt p 11 1 = true ∧
    (settingsOf p).xoff ≤ sharedBytes (settingsOf p).mode (settingsOf p).pfcMask ∧ (settingsOf p).xon < (settingsOf p).xoff ∧
    1 ≤ (settingsOf p).stepDen ∧ zeroAt p 25 3 = true ∧ 1024 ≤ (settingsOf p).vcpPort ∧ zeroAt p 34 2 = true ∧
    (∀ i, i < 64 → u8At p (36 + i) ≤ 7) ∧ headroom (settingsOf p).mode (settingsOf p).pfcMask ≤ 3145728 :=
  metD ([7, 5, 4, 0xFF, 1, 7, 7, 7, 63, 63, 63, 0] ++ leBytes 4 (sharedBytes 5 4) ++ leBytes 4 (sharedBytes 5 4 - 1) ++ leBytes 4 1000 ++
    [1, 0, 0, 0] ++ leBytes 4 50 ++ leBytes 2 1024 ++ [0, 0] ++ List.replicate 64 7) dev (by decide +kernel) (by decide +kernel)

theorem test_netAddrSet : Met specNetAddrSet fun _ _ u p _ => u8At p 0 < 8 ∧ u8At p 1 < modeSubs (u.portMode (u8At p 0)) ∧ u8At p 2 ≤ 8 ∧
    zeroAt p 3 5 = true ∧ ∀ i, i < u8At p 2 → addrItemOk p i = true ∧
      (((items (u8At p 2) (addrItem p)).take (i + 1)).filter fun a => a.addr.v6 == (addrItem p i).addr.v6).length ≤ 4 :=
  metD ([7, 0, 2] ++ zeros 5 ++ [4, 32] ++ leBytes 2 4094 ++ zeros 4 ++ [10, 0, 0, 1] ++ zeros 12 ++ [6, 128] ++ leBytes 2 0 ++ zeros 4 ++
    [0x20] ++ zeros 14 ++ [1]) dev (by decide +kernel) (by decide +kernel)

/-- Sub-port 0 of port 7 up. -/
def portUp (f : SubPort → SubPort) (t : Nat) : State := (devAt t).modSub 7 0 fun x => { f x with link := true }

theorem test_port_alive : ∃ s : State, hasSub 7 0 = true ∧ s.alive 7 0 = true ∧ s.portOn 7 = true ∧ s.pfcOn 7 6 = true ∧
    s.sharedFull 7 = false := ⟨portUp id 0, by decide +kernel⟩

/-- A fragment of 64 bytes is held there. -/
theorem test_frame_held : ∃ s : State, s.alive 7 0 = true ∧ s.portOn 7 = true ∧ (s.subPort 7 0).bind SubPort.fragment = some 64 :=
  ⟨portUp (fun x => { x with fragment := some 64 }) 0, by decide +kernel⟩

def prioIs (t : Nat) (f : PrioState → PrioState) : State := (portUp id t).modPrio 7 0 7 f

theorem test_pfcPauseExpiry : ∃ (s : State) (p : PrioState), s.prio 7 0 7 = some p ∧ p.pausedSince.isSome = true ∧ p.pausedUntil ≤ s.dev.now :=
  ⟨prioIs 9 fun p => { p with pausedSince := some 0, pausedUntil := 9 }, found (by decide +kernel)⟩

theorem test_netPfcStorm : ∃ (s : State) (p : PrioState), s.prio 7 0 7 = some p ∧ p.pausedSince = some 0 ∧ s.dev.now < p.pausedUntil ∧
    0 + 100000000 ≤ s.dev.now ∧ ∀ a, p.stormAt = some a → a + 10000000000 ≤ s.dev.now := by
  obtain ⟨p, e, a, b, c, d⟩ := found (o := (prioIs 100000000 fun p =>
    { p with pausedSince := some 0, pausedUntil := 100000001 }).prio 7 0 7) (P := fun p => p.pausedSince = some 0 ∧
      100000000 < p.pausedUntil ∧ 0 + 100000000 ≤ 100000000 ∧ p.stormAt = none) (by decide +kernel)
  exact ⟨_, p, e, a, b, c, fun x h => by rw [d] at h; cases h⟩

theorem test_pfcRepeat : ∃ (s : State) (p : PrioState), s.prio 7 0 7 = some p ∧ s.alive 7 0 = true ∧ (s.settings 7).xon ≤ p.occupancy ∧
    p.xoffAt = some 0 ∧ 0 + 20000 ≤ s.dev.now :=
  ⟨prioIs 20000 fun p => { p with occupancy := 262144, xoffAt := some 0 }, found (by decide +kernel)⟩

theorem test_preemptVerify : ∃ (s : State) (x : SubPort), s.subPort 7 0 = some x ∧ x.verify = .verifying 3 ∧ x.link = true ∧
    x.verifyAt + 10000000 ≤ s.dev.now :=
  ⟨portUp (fun x => { x with verify := .verifying 3 }) 10000000, found (by decide +kernel)⟩

theorem test_netLinkChange : ∃ (s : State) (p : Port), s.net.ports[7]? = some p ∧ 0 < modeSubs (s.portMode 7) ∧ s.linkUp 7 0 ≠ true ∧
    s.dev.phase = .running ∧ p.cage ≠ 2 :=
  ⟨dev, found (by decide +kernel)⟩

/-! ### QueuePairEventsComplete -/

/-- Queue pair 9 with a WRITE of one packet sent, its port up. -/
def qpIs (t : Nat) (f : Qp → Qp) : State :=
  { (devAt t).modSub 0 0 fun x => { x with link := true } with net.qps := [f { qp9 with unacked := [⟨1, 0, 1, 0, 0, [1], none⟩] }] }

theorem test_rdmaAck : ∃ (s : State) (q : Qp), s.qp 9 = some q ∧ q.error = none ∧ q.unacked ≠ [] ∧ s.linkUp q.port q.sub = true :=
  ⟨qpIs 0 id, found (by decide +kernel)⟩

theorem test_qpRetryTimeout : ∃ (s : State) (q : Qp), s.qp 9 = some q ∧ q.error = none ∧ q.unacked ≠ [] ∧ q.sentAt + q.timeout ≤ s.dev.now ∧
    q.retriesLeft = 0 :=
  ⟨qpIs (4096 * 2 ^ 10) fun q => { q with retriesLeft := 0 }, found (by decide +kernel)⟩

theorem test_qpError : ∃ (s : State) (q : Qp), s.qp 9 = some q ∧ s.session q.session = none ∧ s.sessionWork q.session = [] ∧ q.unacked = [] :=
  ⟨{ qpIs 0 (fun q => { q with unacked := [] }) with net.sessions := [] }, found (by decide +kernel)⟩

theorem test_responderAckDeadline : ∃ (s : State) (q : Qp), s.qp 9 = some q ∧ q.error = none ∧ 0 < q.rxUnacked ∧ q.rxLast + 2000 ≤ s.dev.now :=
  ⟨qpIs 2000 fun q => { q with rxUnacked := 1 }, found (by decide +kernel)⟩

theorem test_rateIncrease : ∃ (s : State) (q : Qp), s.qp 9 = some q ∧ q.error = none ∧
    q.quietSince + 1000 * (s.settings q.port).intervalUs ≤ s.dev.now :=
  ⟨qpIs 50000 id, found (by decide +kernel)⟩

theorem test_ceMarkedPacket : ∃ (s : State) (q : Qp), s.qp 9 = some q ∧ q.error = none ∧ s.linkUp q.port q.sub = true ∧ q.cnpAt = some 0 ∧
    0 + 50000 ≤ s.dev.now :=
  ⟨qpIs 50000 fun q => { q with cnpAt := some 0 }, found (by decide +kernel)⟩

/-! ### LinksRetryAndRetrain -/

theorem test_yokeSet : Met specYokeSet fun _ _ _ p _ => u8At p 0 < 4 ∧ u8At p 1 ≤ 1 ∧ zeroAt p 2 6 = true :=
  metD (leBytes 8 3) dev (by decide +kernel) (by decide +kernel)

theorem test_linkQuery : Met specLinkQuery fun _ c u _ _ => Fits c ((u.fab.links.flatMap fun l => leBytes 1 (linkCode l.state) ++ zeros 7 ++
    leBytes 8 l.partner ++ leBytes 8 l.replays ++ leBytes 8 l.crcErrors ++ leBytes 8 l.retrains ++ leBytes 8 l.malformed) ++
    leBytes 8 u.fab.reasmDrops) :=
  metM [] dev (by decide +kernel) (by decide +kernel)

def linkIs (k t : Nat) (f : Link → Link) : State := (devAt t).modLink k f

theorem test_flitGroupReceive : ∃ s : State, s.inService 4 = true ∧ (s.link 4).state = .retry ∧ (s.link 4).replaysRun = 0 :=
  ⟨linkIs 4 0 fun l => { l with state := .retry }, by decide +kernel⟩

/-- A NAK of the youngest of two groups held. -/
theorem test_linkNak : ∃ s : State, s.inService 0 = true ∧ (0 + 256 - (s.link 0).sendBase) % 256 <
    ((s.link 0).sendNext + 256 - (s.link 0).sendBase) % 256 ∧ (s.link 0).replaysRun < 16 :=
  ⟨linkIs 0 0 fun l => { l with sendBase := 255, sendNext := 1, replaysRun := 15 }, by decide +kernel⟩

theorem test_replayTimeout : ∃ s : State, s.inService 4 = true ∧ (s.link 4).sendBase ≠ (s.link 4).sendNext ∧ (s.link 4).replaysRun < 16 ∧
    (s.link 4).sentAt + replayNs 4 ≤ s.dev.now :=
  ⟨linkIs 4 1250 fun l => { l with state := .up, sendNext := 1 }, by decide +kernel⟩

theorem test_retryBudgetExhausted : ∃ s : State, (s.link 0).state = .replay ∧ 16 ≤ (s.link 0).replaysRun ∧
    (s.link 0).sentAt + replayNs 0 ≤ s.dev.now :=
  ⟨linkIs 0 200 fun l => { l with state := .replay, replaysRun := 16 }, by decide +kernel⟩

theorem test_retrainDone : ∃ s : State, (s.link 0).state = .retrain ∧ (s.link 0).attempts < 3 :=
  ⟨linkIs 0 0 fun l => { l with state := .retrain, attempts := 2 }, by decide +kernel⟩

theorem test_ridgeLost : ∃ s : State, (s.link 0).state = .retrain ∧ 3 ≤ (s.link 0).attempts :=
  ⟨linkIs 0 0 fun l => { l with state := .retrain, attempts := 3 }, by decide +kernel⟩

theorem test_yokeDown : ∃ s : State, (s.link 4).state.carries = true := ⟨linkIs 4 0 fun l => { l with state := .up }, by decide +kernel⟩

theorem test_yokeTrain : ∃ s : State, (s.link 4).state ≠ .disabled ∧ (s.link 4).state.carries = false ∧ s.dev.phase = .running :=
  ⟨dev, by decide +kernel⟩

/-! ### ShardMapsAreLoadedAndRetired -/

/-- This package as member 1 of a rick whose member 2 is the partner of yoke 0. -/
def rick (s : State) : State :=
  { s with
    net.muster.phase := .stable, net.muster.number := some 1, net.muster.coordinator := some 1
    net.muster.roster := [⟨1, 1, 0, none⟩, ⟨2, 2, 0, none⟩]
    fab.links := s.fab.links.modify 1 fun l => { l with state := .up, partner := 2 } }

/-- A map of table 5: the rows up to 1 here, the rest at a package. -/
def mapBytes (owner : Nat) : List Byte :=
  leBytes 2 5 ++ leBytes 2 2 ++ leBytes 4 0 ++ zeros 8 ++ leBytes 8 0 ++ leBytes 8 1 ++ leBytes 2 1 ++ [7] ++ zeros 5 ++ leBytes 8 2 ++
    leBytes 8 3 ++ leBytes 2 owner ++ [7] ++ zeros 5

/-- What the statement asks of a map, and which packages it names. -/
def mapFits (nodes : List Nat) (r : Req) (c : Caller) (u : State) (p : List Byte) (b : Nat) : Prop :=
  AccessesNow true doShardMapLoad (ctxOf c r p b) u ∧ Good (bulkChecks p 0 [1, 2] (u.ringBytes b)) ∧ 16 ≤ (bulkAt p 0).length ∧
    ∃ t, TableFree u b (u16At (bulkSource u b p 0 24) 0) t ∧
    let v := takeSource (ctxOf c r p b) u 0 24
    let raw := mapFrom v.1
    let own := fun (e : MapEntry) => if v.2.isSelf e.owner then { e with owner := v.2.selfNumber } else e
    let m : ShardMap := ⟨(t.map.version + 1) % 2 ^ 32, raw.entries.map own⟩
    ((v.2.table b (u16At v.1 0)).any fun t' => decide (t' = t)) = true ∧ firstBad (v.2.mapChecks v.1 t.desc.rows) = none ∧
    t.prevMap = none ∧ (v.2.newSegments b t m).isSome = true ∧ v.2.otherNodes (m.entries.map MapEntry.owner) = nodes ∧
    v.2.otherNodes (t.map.entries.map MapEntry.owner) = []

theorem test_shardMapLoad_here : Met specShardMapLoad (mapFits []) :=
  metB ([1, 0, 0, 0] ++ zeros 12 ++ leBytes 4 64 ++ zeros 4 ++ mapBytes 1) (rick full) (by decide +kernel)
    ⟨by decide +kernel, good (by decide +kernel), by decide +kernel, foundFree (by decide +kernel)⟩

theorem test_shardMapLoad_away : Met specShardMapLoad (mapFits [2]) :=
  metB ([1, 0, 0, 0] ++ zeros 12 ++ leBytes 4 64 ++ zeros 4 ++ mapBytes 2) (rick full) (by decide +kernel)
    ⟨by decide +kernel, good (by decide +kernel), by decide +kernel, foundFree (by decide +kernel)⟩

theorem test_shardMapGet : Met specShardMapGet fun r c u p b => ∃ t, TableThere u b (u16At p 0) t ∧ zeroAt p 2 6 = true ∧
    (bulkChecks p 8 [1, 3] 0).all (fun f => f.2) = true ∧
    destBad (ctxOf c r p b) u 8 8 (t.map.bytes t.id ++ t.map.entries.flatMap fun e => leBytes 1 (flag (u.available (u.refused b) e.owner))).length =
      none ∧ c.mtw = false :=
  metB (leBytes 8 5 ++ [1, 0, 0, 0] ++ zeros 12 ++ leBytes 4 41 ++ zeros 4) full (by decide +kernel) (foundThere (by decide +kernel))

theorem test_spanMessage : ∃ s : State, s.admitted 2 = true := ⟨rick dev, by decide +kernel⟩

theorem test_mapVersionRetire : ∃ (s : State) (t : Tab), s.table 0 5 = some t ∧ t.prevMap = some (⟨0, []⟩, 1, 0) ∧ s.doneBefore 0 1 = true ∧
    0 + 2000 * (s.bay 0).work.e2eUs ≤ s.dev.now :=
  ⟨{ setTab (fun t => { t with prevMap := some (⟨0, []⟩, 1, 0) }) with dev.now := 1000000 }, found (by decide +kernel)⟩

/-! ### MusterElectsAndAdmits -/

theorem test_musterConfig : Met specMusterConfig fun _ _ _ p _ => u8At p 50 ≤ 64 ∧ zeroAt p 51 5 = true :=
  metD (leBytes 8 3 ++ leBytes 8 0 ++ zeros 32 ++ leBytes 2 0 ++ [1] ++ zeros 5 ++ zeros 16) dev (by decide +kernel) (by decide +kernel)

theorem test_musterQuery : Met specMusterQuery fun _ c u p _ => zeroAt p 2 6 = true ∧
    (c.mtw = true → 24 + 16 * ((sortBy Member.number u.net.muster.roster).filter fun x => decide (u16At p 0 ≤ x.number)).length ≤ 488) :=
  metM (leBytes 2 0xFFFF ++ zeros 6) (rick dev) (by decide +kernel) (by decide +kernel)

def mustering (ph : MusterPhase) (t : Nat) : State := { rick (devAt t) with net.muster.phase := ph }

theorem test_announce : ∃ s : State, s.net.muster.phase = .announce ∧ s.net.muster.backoffUntil = none ∧ s.net.muster.announceAt ≤ s.dev.now :=
  ⟨mustering .announce 0, by decide⟩

theorem test_decide : ∃ s : State, s.net.muster.phase = .announce ∧ s.net.muster.backoffUntil = none ∧
    s.net.muster.phaseSince + 20000000 ≤ s.dev.now ∧ s.net.muster.rosterHeard = none :=
  ⟨mustering .announce 20000000, by decide⟩

theorem test_decide_heard : ∃ s : State, s.net.muster.phase = .announce ∧ s.net.muster.backoffUntil = none ∧
    s.net.muster.phaseSince + 20000000 ≤ s.dev.now ∧ s.net.muster.rosterHeard = some 2 :=
  ⟨{ mustering .announce 20000000 with net.muster.rosterHeard := some 2 }, by decide⟩

theorem test_admitTimeout : ∃ s : State, s.net.muster.phase = .admitting ∧ s.net.muster.phaseSince + 50000000 ≤ s.dev.now :=
  ⟨mustering .admitting 50000000, by decide⟩

theorem test_rosterPeriod : ∃ s : State, s.isCoordinator = true ∧ s.net.muster.rosterAt + 100000000 ≤ s.dev.now :=
  ⟨mustering .stable 100000000, by decide⟩

theorem test_musterNodeLost : ∃ (s : State) (x : Member), (s.net.muster.roster.find? fun m => m.nodeId == 2) = some x ∧ s.isCoordinator = true ∧
    2 ≠ s.net.muster.config.nodeId ∧ x.heardAt + 1000000000 ≤ s.dev.now :=
  ⟨mustering .stable 1000000000, found (by decide +kernel)⟩

theorem test_rosterSilence : ∃ s : State, s.net.muster.phase = .stable ∧ s.isCoordinator = false ∧
    s.net.muster.heardRosterAt + 1000000000 ≤ s.dev.now :=
  ⟨{ mustering .stable 1000000000 with net.muster.coordinator := some 2 }, by decide⟩

theorem test_dupIdBackoff : ∃ s : State, s.net.muster.backoffUntil = some 7 ∧ 7 ≤ s.dev.now :=
  ⟨{ mustering .announce 7 with net.muster.backoffUntil := some 7 }, by decide⟩

/-- A message of node `sender` with its MAC. -/
def musterMsg (kind sender : Nat) : MusterMsg :=
  let m : MusterMsg := ⟨kind, 0, sender, 0, 0, 1, 0xFFFF, [], none, []⟩
  { m with mac := hmac (List.replicate 32 0) (musterBody m) }

theorem test_musterMessage : ∃ s : State, s.net.muster.phase ≠ .stopped ∧ s.musterOk (musterMsg 0 2) = true ∧ s.musterOk (musterMsg 1 2) = true ∧
    s.musterOk (musterMsg 2 2) = true ∧ s.musterOk (musterMsg 3 2) = true ∧ 2 ≠ s.net.muster.config.nodeId :=
  ⟨mustering .stable 0, by decide +kernel⟩

theorem test_musterMessage_foreign : ∃ s : State, s.net.muster.phase ≠ .stopped ∧ s.musterOk { musterMsg 0 2 with mac := [] } = false :=
  ⟨mustering .stable 0, by decide +kernel⟩

theorem test_musterDupId : ∃ s : State, s.net.muster.phase ≠ .stopped ∧ s.musterOk (musterMsg 0 1) = true ∧ s.net.muster.config.nodeId = 1 ∧
    3 ≤ s.net.muster.detections + 1 :=
  ⟨{ mustering .announce 0 with net.muster.detections := 2 }, by decide +kernel⟩

/-! ### HatchWritesRingDoorbells -/

theorem test_hatch : ∃ s : State, s.hatchOf 9 = some (qp9, 0) ∧ s.doorbellFull 0 = false :=
  ⟨(made.modSub 0 0 fun x => { x with link := true }), by decide +kernel⟩

theorem test_hatch_full : ∃ s : State, s.hatchOf 9 = some (qp9, 0) ∧ s.doorbellFull 0 = true :=
  ⟨{ made.modSub 0 0 fun x => { x with link := true } with lan.failsafe := true }, by decide +kernel⟩

theorem test_holdRelease : ∃ (s : State) (x : Sheaf), s.sheaf 1 = some x ∧ x.phase = .held ∧ s.mayRelease x = true :=
  ⟨withSheaf full { updateSheaf .held with ledger := true }, found (by decide +kernel)⟩

theorem test_sheafDispatch : ∃ (s : State) (x : Sheaf), s.sheaf 1 = some x ∧ x.phase = .accepted ∧ s.barred x = false ∧
    (x.fence = true → ∀ y ∈ s.dp.sheafs, y.bay = x.bay → x.no ≤ y.no) ∧
    (∀ t ∈ (s.bay x.bay).tables, t.rebuild = none) ∧
    (∀ y ∈ s.dp.sheafs, y.bay = x.bay → y.phase = .accepted → y.no < x.no → s.kept y = false → ∀ t ∈ s.tablesOf x, s.names y t = false) ∧
    s.nextCrew x.bay = some 0 :=
  ⟨flying, found (by decide +kernel)⟩

/-! ### CarriersDeliverMessages, RequestsAreCheckedAndQueued -/

theorem test_vcpDatagram : ∃ s : State, hasSub 7 0 = true ∧ s.alive 7 0 = true := ⟨portUp id 0, by decide +kernel⟩

theorem test_mailboxTake : ∃ (s : State) (m : Mailbox), s.box 31 = some m ∧ m.submitted = [(3, 4096)] ∧ s.tth.attached = true :=
  ⟨dev.modBox 31 fun m => { m with submitted := [(3, 4096)] }, found (by decide +kernel)⟩

theorem test_mtwReq : ∃ s : State, s.dev.phase ≠ .off ∧ (s.mtwBegin 0x20).1 = true := ⟨dev, by decide +kernel⟩

theorem test_takeIn_pass : ∃ (s : State) (r : Req), (headerOf r.msg).op ≠ 0x0B40 ∧ (headerOf r.msg).op ≠ 0x0610 ∧ isResponse r = false ∧
    s.serving r.via = true ∧ s.repeated r = none ∧ s.firstChecks r = .pass bayCaller ∧ s.queueFull r = false :=
  ⟨dev, host 0x0104 [], by decide +kernel⟩

theorem test_takeIn_fail : ∃ (s : State) (r : Req), isResponse r = false ∧ s.serving r.via = true ∧ s.repeated r = none ∧
    s.firstChecks r = failWith .badOpcode 0 := ⟨dev, host 0xFFFF [], by decide +kernel⟩

theorem test_takeIn_wicket : ∃ (s : State) (r : Req), r.msg.length = 64 ∧ r.via ≠ .mtw ∧ isResponse r = false ∧ s.lan.failsafe = false ∧
    s.serving r.via = true ∧ s.repeated r = none ∧ s.firstChecks r = .pass bayCaller :=
  ⟨dev, host 0x0104 (zeros 48), by decide +kernel⟩

theorem test_takeIn_response : ∃ r : Req, (headerOf r.msg).op ≠ 0x0B40 ∧ (headerOf r.msg).op ≠ 0x0610 ∧ isResponse r = true :=
  ⟨⟨.mailbox 0, (⟨2, 2, 0x0104, 0, 0, 1, 1⟩ : Header).bytes⟩, by decide +kernel⟩

/-! ### ChecksAreMadeInOrder -/

theorem test_checks_pass : dev.bootRomDenies 0x0104 = false ∧ dev.firstChecks (host 0x0104 []) = .pass bayCaller := by decide +kernel

theorem test_checks_length : ∃ (s : State) (r : Req), s.bootRomDenies (headerOf r.msg).op = false ∧ 4096 < r.msg.length :=
  ⟨dev, ⟨.mtw, List.replicate 4097 0⟩, by decide +kernel, by show 4096 < (List.replicate 4097 _).length; rw [List.length_replicate]; decide⟩

theorem test_checks_session : ∃ (s : State) (r : Req) (spec : CmdSpec) (c : Caller), specFor (headerOf r.msg).op = some spec ∧
    transportOk spec r = true ∧ checkSession s spec r (headerOf r.msg) = .pass c ∧ checkBinding s r (headerOf r.msg) c = .pass c :=
  ⟨dev, host 0x0104 [], specHeartbeat, bayCaller, rfl, by decide +kernel⟩

/-! ### ManagementBusAnswers, RegisterWritesSetTheirFields -/

theorem test_alertResponse : ∃ s : State, s.dev.phase ≠ .off ∧ s.alertOut = true := ⟨dev.raise 0x0101 3 none none [], by decide +kernel⟩

theorem test_mtwResponse : ∃ s : State, s.dev.phase ≠ .off ∧ s.mgmt.mtw.ready = some [1] :=
  ⟨{ dev with mgmt.mtw.ready := some [1] }, by decide⟩

theorem test_registerWrite_taken : ∃ s : State, s.dev.phase ≠ .off ∧ (s.mtwBegin 0x03).1 = true ∧
    ((s.mtwBegin 0x03).2.mtwData 0x03 [1, 2]).1 = some [1, 2] := ⟨dev, by decide +kernel⟩

theorem test_registerWrite_bad_code : ∃ s : State, s.dev.phase ≠ .off ∧ (s.mtwBegin 0x03).1 = true ∧
    ((s.mtwBegin 0x03).2.mtwData 0x03 [1, 2, 0]).1 = none := ⟨{ dev with mgmt.mtw.pec := true }, by decide +kernel⟩

theorem test_registerWrite_none : ∃ s : State, s.dev.phase ≠ .off ∧ (s.mtwBegin 0x05).1 = false := ⟨dev, by decide +kernel⟩

/-! ### ForwardedRequestsAreServed -/

/-- A READ_REQ of node 2 for row 3 of table 5. -/
def readReqMsg (to_ : Nat) : List Byte :=
  [3, 0] ++ leBytes 2 0 ++ leBytes 2 2 ++ leBytes 2 to_ ++ leBytes 4 9 ++ leBytes 4 1 ++ leBytes 2 5 ++ zeros 14 ++ leBytes 8 3

theorem test_readReq : ∃ s u : State, Carries s 1 (readReqMsg 1) u ∧ ForUs s (readReqMsg 1) ∧ u8At (readReqMsg 1) 0 = 3 ∧
    u.net.muster.phase ≠ .stopped ∧ u.requestOk (readReqMsg 1) 3 = true :=
  ⟨rick full, _, ⟨by decide, by decide, by decide +kernel, by decide +kernel, rfl⟩, by decide +kernel⟩

theorem test_relayed : ∃ (s u : State), Carries s 1 (readReqMsg 2) u ∧ ¬ForUs s (readReqMsg 2) :=
  ⟨rick full, _, ⟨by decide, by decide, by decide +kernel, by decide +kernel, rfl⟩, by decide +kernel⟩

/-- This package's own request 9 to node 2, and the read that waits for it. -/
def asking (path : FabPath) : State :=
  { rick full with
    fab.requests := [⟨9, 0, 0, 2, 3, 5, 0, [3], readReqMsg 2, path, false, none, none⟩]
    dp.reads := [⟨9, 0, 0, none, 2, true, .row 1 0 0, 3, 0, 1, 0, none, false, false, 0⟩] }

def errorMsg : List Byte := [7, 0] ++ leBytes 2 0 ++ leBytes 2 1 ++ leBytes 2 2 ++ leBytes 4 9 ++ zeros 4 ++ leBytes 2 5 ++ leBytes 2 3 ++ zeros 12

theorem test_fabricError : ∃ (s u : State) (q : FabRequest), u.requestFor errorMsg = some q ∧ Carries s 1 errorMsg u ∧ ForUs s errorMsg ∧
    u.responseOk errorMsg 7 = true ∧ errorMsg.length = 32 ∧ u32At errorMsg 12 = 0 ∧ u32At errorMsg 24 = 0 ∧
    (findKey Read.id u.dp.reads q.id).isSome = true ∧ u16At errorMsg 18 ∉ [4, 10, 12] := by
  obtain ⟨q, e, h⟩ := found (o := ((asking (.yoke 1)).takenIn 1 errorMsg).requestFor errorMsg) (P := fun q =>
    ForUs (asking (.yoke 1)) errorMsg ∧ ((asking (.yoke 1)).takenIn 1 errorMsg).responseOk errorMsg 7 = true ∧
    errorMsg.length = 32 ∧ u32At errorMsg 12 = 0 ∧ u32At errorMsg 24 = 0 ∧
    (findKey Read.id ((asking (.yoke 1)).takenIn 1 errorMsg).dp.reads q.id).isSome = true ∧ u16At errorMsg 18 ∉ [4, 10, 12])
    (by decide +kernel)
  exact ⟨asking (.yoke 1), _, q, e, ⟨by decide, by decide, by decide +kernel, by decide +kernel, rfl⟩, h⟩

theorem test_pathFailure : ∃ (s : State) (q : FabRequest), s.fab.requests.find? (fun q => q.id == 9) = some q ∧
    (findKey Read.id s.dp.reads 9).isSome = true ∧ s.pathDead q.path = true :=
  ⟨asking (.yoke 3), found (by decide +kernel)⟩

theorem test_serveAll : ∃ (s : State) (i : Incoming), s.fab.incoming.find? s.incomingMay = some i ∧
    ({ s with fab.incoming := s.fab.incoming.erase i } : State).isSelf (u16At i.msg 4) = false :=
  ⟨{ unserved (rick full) with fab.incoming := [⟨0, some 1, readReqMsg 1⟩] }, found (by decide +kernel)⟩

theorem test_lateCompletion : ∃ (s : State) (q : Quarantine), s.dp.quarantines.find? (fun q => q.id == 9 && !q.late) = some q ∧ q.ctx = some 0 :=
  ⟨{ full with dp.quarantines := [⟨9, 0, some 0, 0, 2, 5, 1, 0, false, false⟩] }, found (by decide +kernel)⟩

/-! ### WindowsAndBayLifecycle -/

theorem test_windowBoundary : ∃ s : State, s.dev.phase = .running ∧ s.dev.windowStart + 1000 ≤ s.dev.now := ⟨devAt 1000, by decide⟩

def draining (t : Nat) : State := (devAt t).modLife 0 fun l => { l with state := .draining, drainStart := some 0 }

theorem test_drainEnd : ∃ s : State, s.bayState 0 = .draining ∧ (s.bay 0).core.life.drainStart = some 0 ∧ s.bayWork 0 = [] ∧
    s.retainedFor 0 = 0 ∧ s.gapOpen 0 = false ∧ s.heldMessages 0 = 0 := ⟨draining 0, by decide +kernel⟩

theorem test_drainTimeout : ∃ s : State, s.bayState 0 = .draining ∧ (s.bay 0).core.life.drainStart = some 0 ∧
    0 + 1000000 * (s.bay 0).core.shares.drainMs ≤ s.dev.now := ⟨draining 600000000000, by decide +kernel⟩

theorem test_zeroisationEnd : ∃ s : State, (s.bay 15).core.life.state = .zeroing ∧ (∀ n ∈ (s.bay 15).core.life.zeroSilo, n = 0) ∧
    ∀ n ∈ (s.bay 15).core.life.zeroLoft, n = 0 :=
  ⟨dev.modLife 15 fun l => { l with state := .zeroing, zeroSilo := [0], zeroLoft := [0] }, by decide +kernel⟩

end Sys2Proof.Tests
end

