-- ==== Sys2Proof/Tests/WitnessPool.lean ====
section
/-! SUPPORT. The hypotheses of the statements about hands, crews, entries, reads and writes, threshers, matrix jobs, results, updates and
flails can be met. -/

set_option Elab.async false

namespace Sys2Proof.Tests

open Sys2Proof.Machine

/-! ### Hands and crews -/

/-- A program whose code is the last 64 bytes of the crew store's first page. -/
def codeProgram : Program := ⟨3, 4, 64, 64, 4032, 4096, 4032, 7, [], []⟩

def handJob (program : Nat) (f : Hand → Hand) : Job := ⟨1, 1, program, List.replicate 16 (f Hand.initial), [0], 1000, [], [], 0⟩

/-- `flying` with crew 0 in a job of it. -/
def crewing (j : Job) : State :=
  (flying.modBay 0 fun y => { y with work := { y.work with programs := [codeProgram] } }).modCrew 0 fun c => { c with job := some j }

/-- The last hand of a crew, at the last word of the program's code. -/
theorem test_canExecute : ∃ (s : State) (j : Job) (h : Hand), CanExecute s 0 15 0x100FFC 4 0 j h :=
  ⟨crewing (handJob 3 id), handJob 3 id, Hand.initial,
    ⟨by decide, by decide, by decide +kernel, by decide +kernel, by decide, by decide, by decide, by decide, by decide, by decide +kernel⟩⟩

/-- At the bytes past its code it cannot. -/
theorem test_cannotExecute : (crewing (handJob 3 id)).codePage 0 0x100FFE = true ∧
    (crewing (handJob 3 id)).codePage 0 (0x100FFE + 4 - 1) = false := by decide +kernel

/-- Bay 0 has had its cap at every point. -/
def spent (s : State) : State := s.modBay 0 fun y => { y with core := { y.core with served := List.replicate 36 (2 ^ 40) } }

/-- A load of the last 8 bytes of the hatch ring, in a window in which the bay may be served and in one in which it may not. -/
theorem test_handLoad_ring : ∃ s : State, ∃ off, s.crewBay 0 = some 0 ∧ off + 8 = s.ringBytes 0 ∧ s.ringBytes 0 ≤ 2 ^ 32 ∧
    (0x100000000 + off) % 8 = 0 ∧ (unserved s).mayAccess 0 0 (handQueue 3) 1 (s.ringGranule 0 off) 1 false = true ∧
    (spent s).mayAccess 0 0 (handQueue 3) 1 (s.ringGranule 0 off) 1 false = false :=
  ⟨crewing (handJob 3 id), _, by decide +kernel, Nat.sub_add_cancel (by decide +kernel), by decide +kernel, by decide +kernel,
    by decide +kernel, by decide +kernel⟩

/-- A walk of a table that is there, and of one that is not. -/
def walking (n : Nat) : State := { crewing (handJob 3 id) with dp.walks := [⟨0, 0, n, 2, 0⟩] }

theorem test_walkComplete : (∃ w j, ((walking 5).dp.walks.filter fun w => w.crew == 0)[0]? = some w ∧ (walking 5).jobOf 0 = some j ∧
    (walking 5).crewBay 0 = some 0 ∧ (({ walking 5 with dp.walks := [] } : State).walkTable 0 j w.table).isSome = true) ∧
    ∃ w j, ((walking 6).dp.walks.filter fun w => w.crew == 0)[0]? = some w ∧ (walking 6).jobOf 0 = some j ∧
    (({ walking 6 with dp.walks := [] } : State).walkTable 0 j w.table) = none :=
  ⟨⟨_, _, rfl, rfl, by decide +kernel, by decide +kernel⟩, ⟨_, _, rfl, rfl, by decide +kernel⟩⟩

/-- A hand whose v1 and v2 hold words of 32 bits, with a vector length of 3. -/
def vecHand : Hand := ({ Hand.initial with
  v := [0, 5 + 2 ^ 32 * (2 ^ 32 - 1), 3 + 2 ^ 32 * 2, 2 ^ 96 * 77] ++ List.replicate 28 0 }).setVtype 0 3 0x10

/-- vadd.vv v3, v2, v1: a sum wraps, and the elements from vl on keep their values (R267, R268). -/
theorem test_vector_add : ((vecHand.runVector (.each (.int (.std .add)) 3 2 (.vec 1) false)).map fun h => natAt h.v 3) =
    some (8 + 2 ^ 32 * 1 + 2 ^ 96 * 77) := by decide +kernel

theorem test_jobStart_sheaf : ∃ (s : State) (c : Crew) (x : Sheaf), s.dp.crews[0]? = some c ∧ s.crewBay 0 = some 0 ∧ c.job = none ∧
    c.resetUntil ≤ s.dev.now ∧ c.queue = [1] ∧ s.sheaf 1 = some x ∧ s.freeContexts 0 0 ≠ [] ∧ s.within (s.startSheaf 0 x) 0 true false = true :=
  ⟨unserved ((inPhase .queued id).modCrew 0 fun c => { c with queue := [1] }), _, _, rfl, by decide +kernel, rfl, by decide, rfl, rfl,
    by decide +kernel,
    by decide +kernel⟩

theorem test_jobStart_malformed : ∃ (s : State) (x : Sheaf), s.sheaf 1 = some x ∧
    (s.chargeRing x.bay (x.off + 64) (x.bytes - 64) false (some 0)).sheafOk x = false :=
  ⟨withSheaf full lookupSheaf, found (by decide +kernel)⟩

/-- HAND_RUN 9 on crews 0 and 16. -/
def running : State :=
  let w : Waiting := ⟨9, .handRun, host 0x020C [], 0, 1, [], 0, 0, zeros 8, [], [3, 0x10001, 50]⟩
  { full with dp.waiting := [w], dp.crews := full.dp.crews.zipIdx.map fun c => if c.2 % 16 = 0 then { c.1 with runs := [9] } else c.1 }

theorem test_jobStart_run : ∃ (s : State) (c : Crew) (w : Waiting), s.dp.crews[0]? = some c ∧ s.crewBay 0 = some 0 ∧ c.job = none ∧
    c.resetUntil ≤ s.dev.now ∧ c.queue = [] ∧ s.runsOn c = false ∧ c.runs = [9] ∧ s.job 9 = some w ∧
    ∀ k ∈ maskCrews (natAt w.args 1), (s.dp.crews[k]?.any fun y => y.queue == [] && y.job == none && decide (y.resetUntil ≤ s.dev.now) &&
      y.runs.head? == some 9 && decide (s.freeContexts 0 (k / 16) ≠ [])) = true :=
  ⟨running, _, _, rfl, by decide +kernel, rfl, by decide, rfl, by decide +kernel, rfl, rfl, by decide +kernel⟩

theorem test_handFault : ∃ (s : State) (j : Job), s.crewBay 0 = some 0 ∧ s.jobOf 0 = some j ∧ j.role ≤ 3 ∧ j.until_ ≤ s.dev.now :=
  ⟨{ crewing (handJob 3 id) with dev.now := 1000 }, _, by decide +kernel, rfl, by decide, by decide⟩

theorem test_jobEnd : ∃ (s : State) (j : Job), s.jobOf 0 = some j ∧ (∀ h ∈ j.hands, h.exited = true) ∧ j.backlog = [] :=
  ⟨crewing (handJob 3 fun h => { h with exited := true }), _, rfl, by decide, rfl⟩

/-- A matrix job of bay 0 on die 0: C of one row and one column, INT8 in, FP32 out. -/
def matBytes : List Byte :=
  [5, 5, 0, 0] ++ leBytes 4 1 ++ leBytes 4 1 ++ leBytes 4 1 ++ zeros 40 ++ leBytes 4 64 ++ leBytes 4 0

def matDesc : MatDesc := ⟨.int8, .int8, .fp32, false, false, 0, 1, 1, 1, 0, 0, 0, 0, 0, 64, 0⟩

theorem matDesc_of : matDescOf matBytes = some matDesc := by decide +kernel

def matrix (f : Matrix → Matrix) : Matrix := f ⟨4, 0, 0, 0, none, matBytes, 0, .done, 0, 0, 0, 0, []⟩

/-- `made` with a matrix job, whose columns are described in the crew store. -/
def matrixThere (f : Matrix → Matrix) : State :=
  { made.write .store 0 0 64 (zeros 8 ++ leBytes 4 0x3F800000) with dp.matrices := [matrix f], dp.contexts := [newContext 0 0 (some 0) 1 0] }

theorem test_jobStart_zpsum : ∃ (s : State) (c : Crew), s.dp.crews[0]? = some c ∧ s.crewBay 0 = some 0 ∧ c.job = none ∧ c.queue = [] ∧
    c.runs = [] ∧ s.freeContexts 0 0 ≠ [] ∧ (s.dp.matrices.find? fun q => q.crew == 0 && q.bias == .wait && s.zpsumMay 0 q).isSome = true :=
  ⟨matrixThere fun q => { q with bias := .wait }, _, rfl, by decide +kernel, rfl, rfl, rfl, by decide +kernel, by decide +kernel⟩

/-! ### SwathEntriesAreIssued -/

/-- A state with one entry to issue in a context. -/
def entering (s : State) (c : Context) (e : List Byte) : State :=
  { s with dp.contexts := [{ c with running := true, active := true, waiting := [⟨e, [], none, 0, 0⟩] }] ++ s.dp.contexts }

def stream (no : Nat) : Context := newContext no 0 none 0 0

/-- A COPY of granules from a silo address of 0 to one of 128. -/
def copyEntry (n : Nat) : List Byte := [2, 0] ++ leBytes 2 n ++ [1, 1, 0, 0] ++ zeros 8 ++ leBytes 6 128 ++ zeros 10

/-- What the engine finds at the head of context 0: the entry itself, whether it is malformed, and what it needs. -/
def headOf (s : State) : Option (List Byte × Bool × Bool × Avail × Bool) :=
  let v := s.pump
  (v.context 0).bind fun x => if x.running then x.waiting.head?.map fun w =>
    (w.bytes, swMalformed x (if x.crew.isSome then ((v.sheaf x.sheaf).map Sheaf.sections).getD [] else [])
        ((v.sheaf x.sheaf).any Sheaf.isUpdate && x.crew.isSome) w.bytes,
      (v.entryReads x w).any fun r => v.copyWaits x r.1 r.2, v.availEntry x w,
      match v.availEntry x w with
      | .go (some want) => v.turn want (v.wants ++ v.heads)
      | _ => false)
  else none

/-- It is an entry that waits for its turn at a point, and the turn. -/
def wanting (s : State) (e : List Byte) (turn : Bool) : Bool :=
  (headOf s).any fun h => h.1 == e && !h.2.1 && !h.2.2.1 && h.2.2.2.2 == turn && match h.2.2.2.1 with
    | .go want => want.isSome
    | _ => false

/-- A BIND of a persistent stream is malformed. -/
theorem test_entry_malformed : headOf (entering made (stream 0) (zeros 32)) = some (zeros 32, true, false, .go none, false) := by decide +kernel

theorem test_entry_empty : headOf (entering made (stream 0) (copyEntry 0)) = some (copyEntry 0, false, false, .go none, false) := by
  decide +kernel

theorem test_entry_copy : wanting (entering made (stream 0) (copyEntry 8)) (copyEntry 8) true = true := by decide +kernel

/-- An earlier COPY has still to write what it reads. -/
theorem test_entry_after_copy : (headOf (entering { made with dp.writes := [⟨3, 0, 0, .copy 0, 1, 7, [none], 0, 1, none⟩] } (stream 0)
    (copyEntry 8))).any (fun h => !h.2.1 && h.2.2.1) = true := by decide +kernel

/-- The crib share, which other contexts hold. -/
def cribGone (c : Context) : State :=
  entering { made with dp.contexts := [{ stream 1 with running := true, crib := made.cribShare 0 0 }] } c (copyEntry 8)

theorem test_entry_stalls : headOf (cribGone (stream 0)) = some (copyEntry 8, false, false, .stall, false) := by decide +kernel

/-- A stream of queue 2 has an entry for the same silo. -/
theorem test_entry_not_its_turn : wanting (entering (entering made { stream 1 with queue := 0 } (copyEntry 8)) (stream 0) (copyEntry 8))
    (copyEntry 8) false = true := by decide +kernel

theorem test_entry_job : headOf (entering made (stream 0) (3 :: zeros 31)) = some (3 :: zeros 31, false, false, .go none, false) := by
  decide +kernel

/-- A context of the sheaf's job. -/
def working (s : State) (e : List Byte) : State := entering (unserved s) (newContext 0 0 (some 0) 1 0) e

def bindEntry : List Byte := zeros 4 ++ [1, 0, 0, 0] ++ zeros 12 ++ leBytes 4 1 ++ leBytes 4 1 ++ zeros 4

theorem test_entry_bind : headOf (working (inPhase .running id) bindEntry) = some (bindEntry, false, false, .go none, false) := by
  decide +kernel

def rowEntry : List Byte := [1, 0] ++ leBytes 2 1 ++ [1, 0, 0, 0] ++ zeros 16 ++ leBytes 8 2

theorem test_entry_row : wanting (working (inPhase .running fun g => { g with window := some [⟨0, 0, true⟩], distinct := 1 })
    rowEntry) rowEntry true = true := by decide +kernel

def updateEntry : List Byte := [4, 0] ++ leBytes 2 1 ++ [1, 0, 0, 0] ++ zeros 8 ++ leBytes 8 2 ++ leBytes 2 5 ++ zeros 6

theorem test_entry_update : wanting (working { flying with dp.sheafs := [{ updateSheaf .running with sections := [section1] }] }
    updateEntry) updateEntry true = true := by decide +kernel

theorem test_watchdog : ∃ (s : State) (x : Context), s.context 0 = some x ∧ x.stalledSince = some 0 ∧ s.cribStalled x = true ∧
    0 + 1000 * (s.bay x.bay).work.watchdogUs ≤ s.dev.now ∧
    (s.modCtx 0 fun x => { x with stalledSince := some s.dev.now }).victim x = none :=
  ⟨{ entering { made with dp.contexts := [{ stream 1 with running := true, slot := made.cribShare 0 0 }] }
      { stream 0 with stalledSince := some 0 } (copyEntry 8) with dev.now := 50000 }, _, rfl, rfl, by decide +kernel, by decide +kernel,
    by decide +kernel⟩

/-- It waits for crib space no more. -/
theorem test_watchdog_over : ∃ (s : State) (x : Context), s.context 0 = some x ∧ x.stalledSince = some 0 ∧ s.cribStalled x = false :=
  ⟨entering made { stream 0 with stalledSince := some 0 } (copyEntry 8), _, rfl, rfl, by decide +kernel⟩

/-- A COPY's piece that stream 1 has in passage can be spilled. -/
theorem test_watchdog_victim : ∃ (s : State) (x v : Context), s.context 0 = some x ∧ x.stalledSince = some 0 ∧ s.cribStalled x = true ∧
    0 + 1000 * (s.bay x.bay).work.watchdogUs ≤ s.dev.now ∧
    (s.modCtx 0 fun x => { x with stalledSince := some s.dev.now }).victim x = some v ∧ v.no = 1 ∧ s.spillWrites v ≠ [] :=
  ⟨{ cribGone { stream 0 with stalledSince := some 0 } with
      dev.now := 50000
      dp.writes := [⟨3, 0, 0, .copy 1, 1, 0, [none], 0, 1, none⟩] }, _, { stream 1 with running := true, crib := made.cribShare 0 0 }, rfl, rfl,
    by decide +kernel, by decide +kernel, by decide +kernel, rfl, by decide⟩

/-- There is no room for a write of one granule in the spill area, or there is. -/
theorem test_spillPlace : made.spillPlace 0 0 1 = some 0 ∧ made.spillPlace 0 0 (2 ^ 30) = none := by decide +kernel

/-- A slot of a section's row, which a context holds. -/
def slot (f : RowSlot → RowSlot) : RowSlot := f ⟨0, 2, 0, 1, 0, 0, 1, some (zeros 64), false, false, false, 0, 1, none⟩

/-- The sheaf's context holds the row of position 0, whose data is in the spill area. -/
def spilling (f : RowSlot → RowSlot) : State :=
  { inPhase .running fun g => { g with window := some [⟨0, 0, true⟩], distinct := 1, slots := [slot f] } with
    dp.contexts := [{ newContext 0 0 (some 0) 1 0 with slot := 1, running := true }] }

theorem test_reload : ∃ (s : State) (x : Context) (r : RowSlot), s.context 0 = some x ∧ s.spilledNext x = [(1, 0, r)] ∧
    ∀ q ∈ s.dp.reads, q.purpose = .reload 1 0 r.slot → q.dropped = true :=
  ⟨spilling fun r => { r with data := none, spilled := some 0 }, _, slot fun r => { r with data := none, spilled := some 0 }, rfl,
    by decide +kernel, by decide +kernel⟩

/-! ### ReadsAndWritesLand -/

/-- A read of silo granule 9 for a purpose. -/
def readOf (p : Purpose) : State := { flying with dp.reads := [⟨7, 0, 0, none, 4, true, p, 1, 9, 1, 0, none, false, false, 0⟩] }

theorem test_readCompletion : ∃ (s : State) (r : Read), findKey Read.id s.dp.reads 7 = some r ∧ r.space ≠ 3 ∧ r.started = true ∧
    r.purpose = .row 1 0 0 := ⟨readOf (.row 1 0 0), _, rfl, by decide, rfl, rfl⟩

theorem test_staging : ∃ (s : State) (r : Read), findKey Read.id s.dp.reads 7 = some r ∧ r.space ≠ 3 ∧ r.started = true ∧
    r.purpose = .stage 5 2 := ⟨readOf (.stage 5 2), _, rfl, by decide, rfl, rfl⟩

/-- A write of two granules, the first with data. -/
def writing (w : WriteFor) : State := { made with dp.writes := [⟨7, 0, 0, w, 1, 9, [some (zeros 64), none], 0, 0, none⟩] }

/-- The write can go to its memory, and no read of its granules is under way. -/
def lands (s : State) (for_ : WriteFor) : Bool :=
  (findKey Write.id s.dp.writes 7).any fun w =>
    let h := s.homeOf w.bay w.die w.space w.addr
    w.spilled.isNone && w.for_ == for_ && !s.cutOff w.bay w.die w.space w.addr &&
      s.mayAccess w.bay w.die (s.writeQueue w) h.1 h.2 w.data.length true && !s.readBefore w.bay h.1 h.2 w.data.length

theorem test_writeCompletion : ∀ f ∈ [.copy 0, .copyIn 3, .move 3, .spillRow 1 0 0, .spillPiece 3], lands (writing f) f = true := by
  decide +kernel

theorem test_writeCompletion_waits : ∃ (s : State) (w : Write), findKey Write.id s.dp.writes 7 = some w ∧
    s.mayAccess w.bay w.die (s.writeQueue w) (s.homeOf w.bay w.die w.space w.addr).1 (s.homeOf w.bay w.die w.space w.addr).2 w.data.length true =
      false := ⟨spent (writing (.copy 0)), _, rfl, by decide +kernel⟩

/-- A read of granule 10 is under way. -/
theorem test_writeCompletion_first : ∃ (s : State) (w : Write), findKey Write.id s.dp.writes 7 = some w ∧
    (s.homeOf w.bay w.die w.space w.addr).1 ≠ 9 ∧
    s.readBefore w.bay (s.homeOf w.bay w.die w.space w.addr).1 (s.homeOf w.bay w.die w.space w.addr).2 w.data.length = true :=
  ⟨{ writing (.copy 0) with dp.reads := [⟨8, 0, 0, none, 4, true, .row 1 0 0, 1, 10, 1, 0, none, false, false, 0⟩] }, _, rfl,
    by decide +kernel, by decide +kernel⟩

/-- Sheaf 1 is queued, run-ahead is on, and its scan has not begun. -/
def scanning : State :=
  let s := inPhase .queued id
  { s.modBay 0 fun y => { y with granary := { y.granary with runahead := { y.granary.runahead with enable := 1 } } } with
    dp.scans := [⟨1, 0, false⟩] }

theorem test_runahead : ∃ (s : State) (x : Sheaf) (y : Scan), s.sheaf 1 = some x ∧ s.scansOf x.bay 0 = [y] ∧ y.done = false ∧ y.sheaf = 1 ∧
    (s.bay x.bay).granary.runahead.enable ≠ 0 ∧ s.bayState x.bay = .opened ∧ s.scanWork x ≠ [] :=
  ⟨scanning, _, _, rfl, rfl, rfl, rfl, by decide +kernel, by decide +kernel, by decide +kernel⟩

/-! ### ThreshersPool -/

/-- Every domain in A0, and the bay not served in this window. -/
def awake (s : State) : State := unserved { s with lan.domains := s.lan.domains.map fun d => { d with state := .a0 } }

/-- The sheaf's section, its row's data there. -/
def rowThere : Section → Section := fun g => { g with window := some [⟨0, 0, true⟩], distinct := 1, slots := [slot id], sides := [(0, true)] }

def pooling (t : Thresher → Thresher) : State := (awake (inPhase .running rowThere)).modThresher 0 t

theorem test_allot_bag : ∃ (s : State) (x : Sheaf) (g : Section), s.sheaf 1 = some x ∧ x.sections[0]? = some g ∧ x.isUpdate = false ∧
    x.phase = .running ∧ x.crew / 16 = thresherDie 0 ∧ s.bagWaits x 0 0 g = true ∧ (s.thresher 0).matrix = none ∧
    s.domainA0 (quadDomain 0) = true ∧ (s.thresher 0).bankFor 1 0 = true ∧ g.bagLen 0 ≠ 0 ∧
    g.tab.slotsNeeded ≤ ((s.thresher 0).freeSlots (s.thresher 0).filling).length :=
  ⟨pooling id, _, _, rfl, rfl, by decide +kernel, rfl, rfl, by decide +kernel, rfl, by decide +kernel, by decide +kernel, by decide +kernel,
    by decide +kernel⟩

/-- A group of two contributions to row 2 of table 5. -/
def tallied : Tallied := ⟨⟨5, some 2, none, false, [0, 0, 0, 0]⟩, [[1, 2, 3, 4], [5, 6, 7, 8]], false⟩

def tallying (y : Tallied) (t : Thresher → Thresher) : State :=
  (awake { flying with dp.sheafs := [{ updateSheaf .tallying with sections := [section1], tally := [y] }] }).modThresher 0 t

theorem test_allot_tally : ∃ (s : State) (x : Sheaf) (y : Tallied), s.sheaf 1 = some x ∧ x.tally[0]? = some y ∧ x.phase = .tallying ∧
    y.out = false ∧ s.allotted (.tally 1 0) = false ∧ x.crew / 16 = thresherDie 0 ∧ (s.thresher 0).matrix = none ∧
    s.domainA0 (quadDomain 0) = true ∧ (y.group.vals.length + 127) / 128 ≤ ((s.thresher 0).freeSlots (s.thresher 0).filling).length :=
  ⟨tallying tallied id, _, _, rfl, rfl, rfl, rfl, by decide +kernel, rfl, rfl, by decide +kernel, by decide +kernel⟩

/-- A bag, group or row in a thresher. -/
def runOf (w : Work) (f : BagRun → BagRun) : BagRun := f ⟨w, 0, [0], newChains 4, none, 0, none, false, false, []⟩

def filled (r : BagRun) (t : Thresher) : Thresher := { t with bags := [r] }

theorem test_pass_bag : ∃ (s : State) (r : BagRun) (c : Chain) (x : Sheaf) (g : Section), (s.thresher 0).bags[0]? = some r ∧
    r.chains[0]? = some c ∧ c.flight = none ∧ r.work = .bag 1 0 0 ∧ s.sectionAt 1 0 = some (x, g) ∧
    (s.passAux x 0 g 0 0 16 c.lanes c.next false 0).2.1 ≠ c.next ∧ s.workBay r.work = some x.bay ∧ s.mayPass 0 x.bay = true ∧
    ((s.rowErrors x.bay 0 0 1 g (fun s r => State.chaffSlot s x 0 r) [] []).sectionAt 1 0).isSome = true :=
  ⟨pooling (filled (runOf (.bag 1 0 0) id)), _, _, _, _, rfl, rfl, rfl, rfl, rfl, by decide +kernel, rfl, by decide +kernel, by decide +kernel⟩

theorem test_pass_tally : ∃ (s : State) (r : BagRun) (c : Chain) (x : Sheaf) (y : Tallied), (s.thresher 0).bags[0]? = some r ∧
    r.chains[0]? = some c ∧ c.flight = none ∧ r.work = .tally 1 0 ∧ s.tallyAt 1 0 = some (x, y) ∧ (y.parts.drop c.next).take 16 ≠ [] ∧
    s.workBay r.work = some x.bay ∧ s.mayPass 0 x.bay = true :=
  ⟨tallying tallied (filled (runOf (.tally 1 0) id)), _, _, _, _, rfl, rfl, rfl, rfl, rfl, by decide, rfl, by decide +kernel⟩

theorem test_passWriteback : ∃ (s : State) (r : BagRun), (s.thresher 0).bags[0]? = some r ∧
    (r.chains[0]?).bind Chain.flight = some ([Lane.initial], 1) ∧ r.work = .bag 1 0 0 :=
  ⟨pooling (filled (runOf (.bag 1 0 0) fun r => { r with chains := [⟨[], 0, some ([Lane.initial], 1)⟩] })), _, rfl, rfl, rfl⟩

theorem test_passWriteback_others : ∀ w : Work, ∃ (s : State) (r : BagRun), (s.thresher 0).bags[0]? = some r ∧
    (r.chains[0]?).bind Chain.flight = some ([Lane.initial], 1) ∧ r.work = w := fun w =>
  ⟨tallying tallied (filled (runOf w fun r => { r with chains := [⟨[], 0, some ([Lane.initial], 1)⟩] })), _, rfl, rfl, rfl⟩

/-- Work of the draining tile that is ready. -/
def ready (w : Work) (d : Nat) : BagRun := runOf w fun r => { r with tile := 1, ready := some 0, drained := d }

theorem test_tileSwap_waits : ¬∀ b ∈ ((pooling (filled (ready (.bag 1 0 0) 0))).thresher 0).bags, b.tile ≠ 0 → b.ready = none := by
  decide +kernel

theorem test_drain_bag : ∃ (s : State) (r : BagRun), leastBy (fun (b : BagRun × Nat) => b.1.ready.getD 0)
    ((s.thresher 0).bags.zipIdx.filter fun b => b.1.tile != (s.thresher 0).filling && b.1.ready.isSome) = some (r, 0) ∧
    r.chains.length ≤ r.drained + 1 ∧ r.work = .bag 1 0 0 :=
  ⟨pooling (filled (ready (.bag 1 0 0) 0)), _, rfl, by decide, rfl⟩

theorem test_drain_slice : ∃ (s : State) (r : BagRun), leastBy (fun (b : BagRun × Nat) => b.1.ready.getD 0)
    ((s.thresher 0).bags.zipIdx.filter fun b => b.1.tile != (s.thresher 0).filling && b.1.ready.isSome) = some (r, 0) ∧
    r.drained + 1 < r.chains.length :=
  ⟨pooling (filled { ready (.bag 1 0 0) 0 with chains := newChains 129 }), _, rfl, by decide⟩

theorem test_drain_tally : ∃ (s : State) (r : BagRun) (x : Sheaf) (y : Tallied), leastBy (fun (b : BagRun × Nat) => b.1.ready.getD 0)
    ((s.thresher 0).bags.zipIdx.filter fun b => b.1.tile != (s.thresher 0).filling && b.1.ready.isSome) = some (r, 0) ∧
    r.chains.length ≤ r.drained + 1 ∧ r.work = .tally 1 0 ∧
    (s.modThresher 0 fun t => { t with bags := t.bags.eraseIdx 0 }).tallyAt 1 0 = some (x, y) :=
  ⟨tallying tallied (filled (ready (.tally 1 0) 0)), _, _, _, rfl, by decide, rfl, rfl⟩

/-- A section whose one bag is held. -/
def held (g : Section) : Section := { g with outs := [⟨0, 0, [], [1, 2, 3, 4], [], 0⟩] }

/-- What reading the held value back finds: its section once its scales are found, then once the errors of the store are in. -/
def heldFound (s : State) (fixed bad : List Nat) : Bool :=
  let u := ((s.charge 0 34 1).count 0x500 0 1).modSection 1 0 Section.findScales
  (u.sectionAt 1 0).any fun y => (y.2.outs.find? BagOut.isHeld).any fun o =>
    ((u.heldErrors y.1 0 y.2 o fixed bad).sectionAt 1 0).any fun z => (z.2.outs.find? BagOut.isHeld).isSome

theorem test_readBack : ∃ (s : State) (x : Sheaf) (g : Section) (o : BagOut), s.sectionAt 1 0 = some (x, g) ∧
    g.outs.find? BagOut.isHeld = some o ∧ g.pooled = true ∧ x.crew / 16 = thresherDie 0 ∧ s.mayPass 0 x.bay = true ∧ x.bay = 0 ∧
    heldFound s [] [] = true ∧ heldFound s [0] [0] = true :=
  ⟨awake (inPhase .working held), _, _, _, rfl, rfl, by decide +kernel, rfl, by decide +kernel, rfl, by decide +kernel, by decide +kernel⟩

/-- Its policy widens, and a value has saturated. -/
def saturated (g : Section) : Section :=
  { g with tab := tune 4 (fun p => { p with satPolicy := 1 }) g.tab, outs := [⟨0, 1, [1, 2, 3, 4], [1, 2, 3, 4], [], 1⟩] }

theorem test_redo : ∃ (s : State) (x : Sheaf) (g : Section), s.sectionAt 1 0 = some (x, g) ∧ x.phase = .working ∧ g.whole = true ∧
    g.needsRedo = true ∧ s.cribFits x.bay (x.crew / 16) (2 * g.tab.maxGranules) = true :=
  ⟨inPhase .working saturated, _, _, rfl, rfl, by decide +kernel, by decide +kernel, by decide +kernel⟩

/-! ### MatrixJobsRun -/

theorem test_matrix_allot : ∃ (s : State) (q : Matrix) (x : MatDesc), findKey Matrix.id s.dp.matrices 4 = some q ∧
    matDescOf q.desc = some x ∧ q.bias = .done ∧ 128 * q.block < x.n ∧ s.matrixRoom 0 q (min 64 (x.m - q.row)) = true ∧ q.thresher = none ∧
    s.matrixOk q x = true ∧ s.matrixMay q.bay (ctxDie q.ctx) (x.biasRuns q.row q.block) false = true :=
  ⟨awake (matrixThere id), matrix id, matDesc, rfl, matDesc_of, rfl, by decide +kernel, by decide +kernel, rfl,
    by decide +kernel, by decide +kernel⟩

/-- Its row of C in thresher 0. -/
def matrixRun (f : BagRun → BagRun) : State :=
  (awake (matrixThere fun q => { q with thresher := some 0, block := 1 })).modThresher 0 fun t => { t with
    matrix := some 4, bags := [runOf (.matrix 4 0 0) fun r => f { r with chains := [⟨[Lane.initial], 0, none⟩] }] }

theorem test_matrix_pass : ∃ (s : State) (r : BagRun) (c : Chain) (q : Matrix) (x : MatDesc), (s.thresher 0).bags[0]? = some r ∧
    r.chains[0]? = some c ∧ c.flight = none ∧ r.work = .matrix 4 0 0 ∧ findKey Matrix.id s.dp.matrices 4 = some q ∧
    matDescOf q.desc = some x ∧ 0 < min x.kGroup (x.k - c.next) ∧ (∀ y ∈ (s.thresher 0).groupOf 4 0 0, c.next ≤ y.entered) ∧
    (∀ y ∈ (s.thresher 0).groupsBefore 4 0 0, x.k ≤ y.entered) ∧ s.workBay r.work = some q.bay ∧ s.mayPass 0 q.bay = true ∧
    s.matrixMay q.bay (thresherDie 0) (x.passRuns 0 0 c.next 1 true) false = true :=
  ⟨matrixRun id, _, _, _, matDesc, rfl, rfl, rfl, rfl, rfl, matDesc_of, by decide, by decide +kernel, by decide +kernel, rfl, by decide +kernel,
    by decide +kernel⟩

/-- Its block of W is in the weight registers, or is not. -/
theorem test_matrix_weights : ((matrixRun id).thresher 0).weightsOf 4 0 0 0 = none ∧
    ((((matrixRun id).modThresher 0 fun t => { t with weights := [⟨4, 0, 0, 0, [[1]], false⟩] }).thresher 0).weightsOf 4 0 0 0).isSome = true := by
  decide +kernel

theorem test_matrix_drain : ∃ (s : State) (r : BagRun), (s.thresher 0).drains = some (r, 0) ∧ r.chains.length ≤ r.drained + 1 ∧
    r.work = .matrix 4 0 0 ∧ s.matrixDrainMay 4 0 0 = true :=
  ⟨matrixRun fun r => { r with tile := 1, ready := some 0 }, _, rfl, by decide, rfl, by decide +kernel⟩

theorem test_matrix_malformed : ∃ (s : State) (q : Matrix), findKey Matrix.id s.dp.matrices 4 = some q ∧ matDescOf q.desc = none :=
  ⟨matrixThere fun q => { q with desc := zeros 64 }, _, rfl, by decide +kernel⟩

theorem test_matrix_refused : ∃ (s : State) (q : Matrix), findKey Matrix.id s.dp.matrices 4 = some q ∧ matDescOf q.desc = some matDesc ∧
    q.thresher = none ∧ q.bias = .failed := ⟨matrixThere fun q => { q with bias := .failed }, _, rfl, matDesc_of, rfl, rfl⟩

theorem test_matrix_done : ∃ (s : State) (q : Matrix), findKey Matrix.id s.dp.matrices 4 = some q ∧ matDescOf q.desc = some matDesc ∧
    q.thresher.isSome = true ∧ q.written = matDesc.m * ((matDesc.n + 127) / 128) :=
  ⟨matrixThere fun q => { q with thresher := some 0, written := 1 }, _, rfl, matDesc_of, rfl, by decide⟩

/-- At the lowest and the highest accumulator that adds no more. -/
theorem test_matrix_sums : ∃ (z : Lane) (l : List (Nat × Nat)), matDesc.isInt = true ∧ z.acc = 2 ^ 47 - 2 ∧ l.map Prod.fst = [1, 1] ∧
    l.map Prod.snd = [1, 255] ∧ ∀ i, i ≤ l.length → ∀ v, v = z.acc + ((l.take i).map fun p => signedOf 8 p.1 * signedOf 8 p.2).foldl (· + ·) 0 →
      -(2 : Int) ^ 47 ≤ v ∧ v < 2 ^ 47 := by
  refine ⟨{ Lane.initial with acc := 2 ^ 47 - 2 }, [(1, 1), (1, 255)], rfl, rfl, rfl, rfl, fun i h v e => ?_⟩
  subst e
  match i, h with
  | 0, _ | 1, _ | 2, _ => decide

/-! ### ResultsArePlaced -/

/-- `awake`, with the link of sub-port 0 of port 0 up. -/
def linked (s : State) : State := (awake s).modSub 0 0 fun x => { x with link := true }

/-- Its section pooled. -/
def pooledSection (g : Section) : Section := { g with outs := [⟨0, 0, [1, 2, 3, 4], [1, 2, 3, 4], [], 0⟩] }

theorem placeAt_net {s : State} {x : Sheaf} {n : Nat} {q : Qp} {results : Bool} (h : x.origin = .net n) (h' : s.placeQp x = some q)
    (h'' : s.mayServe x.bay (26 + q.port) = true) : s.placeAt x results = .net q := by
  simp only [State.placeAt, h, h', h'', if_true]

theorem placeAt_wait {s : State} {x : Sheaf} {n : Nat} {q : Qp} {results : Bool} (h : x.origin = .net n) (h' : s.placeQp x = some q)
    (h'' : s.mayServe x.bay (26 + q.port) = false) : s.placeAt x results = .wait := by
  simp [State.placeAt, h, h', h'']

theorem placeAt_host {s : State} {x : Sheaf} {results : Bool} (h : x.origin = .tether) (h' : s.ridgeLost = false)
    (h'' : s.keyBad x results = none) : s.placeAt x results = .host := by
  simp [State.placeAt, h, h', h'']

theorem test_place_net : ∃ (s : State) (x0 x : Sheaf) (g : Section) (q : Qp), s.sheaf 1 = some x0 ∧ x0.isUpdate = false ∧
    x0.phase = .working ∧ (x0.sections.findIdx fun g => !g.placed) = 0 ∧ (s.modSection 1 0 Section.scaled).sheaf 1 = some x ∧
    x.sections[0]? = some g ∧ g.whole = true ∧ g.needsRedo = false ∧ (s.modSection 1 0 Section.scaled).placeAt x true = .net q :=
  ⟨linked (inPhase .working pooledSection), _, _, _, qp9, rfl, by decide +kernel, rfl, by decide +kernel, rfl, rfl, by decide +kernel,
    by decide +kernel, placeAt_net rfl (by decide +kernel) (by decide +kernel)⟩

theorem test_record_net : ∃ (s : State) (x : Sheaf) (q : Qp), s.sheaf 1 = some x ∧ x.readyStatus = some 0 ∧ s.placeAt x false = .net q :=
  ⟨linked (inPhase (.finished 0) id), _, qp9, rfl, rfl, placeAt_net rfl (by decide +kernel) (by decide +kernel)⟩

/-- In a window in which the port's share is used up nothing is placed. -/
theorem test_place_waits : ∃ (s : State) (x : Sheaf), s.sheaf 1 = some x ∧ x.readyStatus = some 0 ∧ s.placeAt x true = .wait ∧
    s.placeAt x false = .wait ∧ s.stillFetches 1 = false :=
  ⟨spent (linked (inPhase (.finished 0) id)), _, rfl, rfl, placeAt_wait (q := qp9) rfl (by decide +kernel) (by decide +kernel),
    placeAt_wait (q := qp9) rfl (by decide +kernel) (by decide +kernel), by decide +kernel⟩

/-- A context of its faulted job still fetches. -/
theorem test_record_fetching : ∃ (s : State) (x : Sheaf), s.sheaf 1 = some x ∧ x.readyStatus = some 7 ∧ s.stillFetches 1 = true :=
  ⟨{ inPhase (.finished 7) id with dp.contexts := [{ newContext 0 0 (some 0) 1 0 with faulted := true }] }, _, rfl, rfl, by decide +kernel⟩

/-- A sheaf of the tether on a crew, its results and record in region 1, and credit for the ridge. -/
def tetherSheaf (s : State) (crew : Nat) : State :=
  let r : Region := ⟨1, 0, 0x10000, 8192, 0, true, true, none, [], none⟩
  let key := leBytes 4 1
  { s with
    tth.regions := [r]
    tth.attached := true
    fab.links := s.fab.links.modify 0 fun l => { l with credits := [64, 64, 64] }
    dp.sheafs := s.dp.sheafs.map fun x => { x with
      origin := .tether, crew := crew, head := x.head.take 16 ++ key ++ key ++ zeros 16 ++ x.head.drop 40 } }

theorem test_place_host : ∃ (s : State) (x0 x : Sheaf) (g : Section), s.sheaf 1 = some x0 ∧ x0.isUpdate = false ∧ x0.phase = .working ∧
    (x0.sections.findIdx fun g => !g.placed) = 0 ∧ (s.modSection 1 0 Section.scaled).sheaf 1 = some x ∧ x.sections[0]? = some g ∧
    g.whole = true ∧ g.needsRedo = false ∧ (s.modSection 1 0 Section.scaled).placeAt x true = .host ∧
    s.hostMay x.bay (x.crew / 16) g.placedBytes.length = true :=
  ⟨tetherSheaf (awake (inPhase .working pooledSection)) 16, _, _, _, rfl, by decide +kernel, rfl, by decide +kernel, rfl, rfl, by decide +kernel,
    by decide +kernel, placeAt_host rfl (by decide +kernel) (by decide +kernel), by decide +kernel⟩

theorem test_record_host : ∃ (s : State) (x : Sheaf), s.sheaf 1 = some x ∧ x.readyStatus = some 0 ∧ s.placeAt x false = .host ∧
    s.hostMay x.bay (x.crew / 16) 32 = true :=
  ⟨tetherSheaf (awake (inPhase (.finished 0) id)) 16, _, rfl, rfl, placeAt_host rfl (by decide +kernel) (by decide +kernel), by decide +kernel⟩

theorem test_record_nowhere : ∃ (s : State) (x : Sheaf), s.sheaf 1 = some x ∧ x.readyStatus = some 0 ∧ s.placeAt x false = .nowhere :=
  ⟨withSheaf full { sheaf1 with phase := .finished 0, origin := .lost }, _, rfl, rfl, rfl⟩

theorem test_record_failed : ∃ (s v : State) (x : Sheaf), s.sheaf 1 = some x ∧ x.readyStatus = some 9 ∧ s.placeAt x false = .failed v :=
  ⟨withSheaf full { sheaf1 with phase := .finished 9, origin := .tether }, _, _, rfl, rfl, rfl⟩

/-! ### UpdatesAreTalliedAndAcknowledged -/

/-- A contribution to row 2 of table 5. -/
def contrib (op : Nat) : Contrib := ⟨5, 2, false, op, 0, [1, 2, 3, 4], 0⟩

def updating (ph : SheafPhase) (f : Sheaf → Sheaf) : State := { flying with dp.sheafs := [f { updateSheaf ph with sections := [section1] }] }

theorem test_tally : ∃ (s : State) (x : Sheaf), s.sheaf 1 = some x ∧ x.isUpdate = true ∧ x.phase = .working ∧ s.expanded x = true ∧
    x.bad = false ∧ mixedOps x.contribs = false ∧ x.contribs ≠ [] :=
  ⟨updating .working fun x => { x with contribs := [contrib 1, contrib 1] }, _, rfl, by decide +kernel, rfl, by decide +kernel, rfl, by decide,
    by decide⟩

theorem test_tally_mixed : ∃ (s : State) (x : Sheaf), s.sheaf 1 = some x ∧ x.isUpdate = true ∧ x.phase = .working ∧ s.expanded x = true ∧
    mixedOps x.contribs = true :=
  ⟨updating .working fun x => { x with contribs := [contrib 0, contrib 1] }, _, rfl, by decide +kernel, rfl, by decide +kernel, by decide⟩

theorem test_submit : ∃ (s : State) (x : Sheaf), (s.dp.sheafs.find? fun x =>
    x.bay == 0 && x.phase == .tallying && x.tally.all Tallied.out && s.turnOf x) = some x ∧ x.tally ≠ [] :=
  ⟨tallying { tallied with out := true } id, _, rfl, by decide⟩

theorem test_updateAcknowledge : ∃ (s : State) (x : Sheaf), s.sheaf 1 = some x ∧ x.phase = .applying ∧ x.ops = 0 ∧ x.messages = 0 ∧
    x.groups = [] := ⟨updating .applying id, _, rfl, rfl, rfl, rfl, rfl⟩

theorem test_ledgerAckSend : ∃ (s : State) (m : Inbound), (s.owner 0 2).msgs.find? (fun m => m.seq == 4) = some m ∧ m.applying = true ∧
    m.done = false ∧ m.left = 0 :=
  ⟨{ full with fab.owners := [⟨0, 2, 4, [⟨4, zeros 64, true, false, 0, 0, 0, 0, 0, 1⟩]⟩] }, _, rfl, rfl, rfl, rfl⟩

/-- CONTRIB 4 to node 2, sent seven times. -/
theorem test_ledgerRetransmit : ∃ (s : State) (x : LedgerMsg), (s.channel 0 2).sent.find? (fun x => x.seq == 4) = some x ∧
    x.pausedAt = none ∧ x.sentAt + 1000 * (s.bay 0).work.e2eUs ≤ s.dev.now ∧ x.retries + 1 = 8 :=
  ⟨{ full with dev.now := 10000000000, fab.channels := [⟨0, 2, 5, [⟨4, 1, 0, zeros 64, 0, 7, .none, none⟩]⟩] }, _, rfl, rfl,
    by decide +kernel, rfl⟩

/-! ### FlailsApplyUpdates -/

/-- An update of table 5's configured default row. -/
def update5 : FlailOp := .update (some 1) none 0 5 none false [0, 0, 0, 0] 0 ⟨0, 0, 0, 0, 0, 0, 0, 0, 0⟩

def flailing (queue : List FlailOp) (entries : List Conflict) (s : State) : State := { s with dp.flails := [⟨0, queue, [], entries⟩] }

theorem test_flailTake : ∃ (s : State) (op : FlailOp), (s.flail 0).queue = [op] ∧
    ((s.flail 0).entries.any fun e => e.key == op.key) = false ∧ (s.flail 0).entries.length < 64 :=
  ⟨flailing [update5] [] flying, _, rfl, by decide, by decide⟩

/-- An entry of the conflict table for it. -/
def conflict (c : Option Computed) : Conflict := ⟨0, 5, none, update5, c, []⟩

theorem test_flailTake_waits : ∃ (s : State) (op : FlailOp), (s.flail 0).queue = [op] ∧
    ((s.flail 0).entries.any fun e => e.key == op.key) = true := ⟨flailing [update5] [conflict none] flying, _, rfl, by decide⟩

theorem test_flailReadDone : ∃ (s : State) (e : Conflict) (t : Tab), (s.flail 0).entries[0]? = some e ∧ e.op = update5 ∧ e.computed = none ∧
    s.table 0 5 = some t ∧ s.updateCut 0 e.op = false ∧ s.updateMay 0 0 t none false = true ∧
    s.within (s.updateRead 0 0 t none) 0 true false = true :=
  ⟨flailing [] [conflict none] (unserved flying), _, _, rfl, rfl, rfl, rfl, by decide +kernel, by decide +kernel, by decide +kernel⟩

/-- In a window in which the bay has had its cap. -/
theorem test_flailReadDone_waits : ∃ (s : State) (e : Conflict) (t : Tab), (s.flail 0).entries[0]? = some e ∧ e.computed = none ∧
    s.table 0 5 = some t ∧ s.updateCut 0 e.op = false ∧ s.updateMay 0 0 t none false = false :=
  ⟨flailing [] [conflict none] (spent flying), _, _, rfl, rfl, rfl, by decide +kernel, by decide +kernel⟩

/-- The row's writes can go to their memory. -/
theorem test_flailWriteDone : ∃ (s : State) (e : Conflict) (c : Computed) (t : Tab), (s.flail 0).entries[0]? = some e ∧ e.op = update5 ∧
    e.computed = some c ∧ s.table 0 5 = some t ∧ s.updateDead 0 0 t none = false ∧ s.updateMay 0 0 t none true = true ∧
    s.within (s.commitUpdate 0 0 t none 0 c) 0 false false = true ∧ s.rowSplit 0 5 2 = false :=
  ⟨flailing [] [conflict (some ⟨zeros 64, [], [], 0, []⟩)] (unserved flying), _, _, _, rfl, rfl, rfl, rfl, by decide +kernel,
    by decide +kernel, by decide +kernel, by decide +kernel⟩

theorem test_flailWriteDone_waits : ∃ (s : State) (e : Conflict) (t : Tab), (s.flail 0).entries[0]? = some e ∧ e.computed.isSome = true ∧
    s.table 0 5 = some t ∧ s.updateDead 0 0 t none = false ∧ s.updateMay 0 0 t none true = false :=
  ⟨flailing [] [conflict (some ⟨zeros 64, [], [], 0, []⟩)] (spent flying), _, _, rfl, rfl, rfl, by decide +kernel, by decide +kernel⟩

/-! ### Memory and the whole device -/

theorem test_memory : ∃ (s : State) (data : List Byte), Memory.wf s.mem = true ∧ s.mem ≠ [] ∧ data ≠ [] ∧ 0 + data.length ≤ 2 ^ 60 :=
  ⟨flying, lookupBytes, by decide +kernel, by decide +kernel, by decide +kernel, by decide +kernel⟩

theorem test_bar2Write : ∃ t : State, exec (.bar2Write 15 0 (leBytes 8 1)) flying = .next t := ⟨_, rfl⟩

theorem test_intact : Intact flying :=
  ⟨by decide +kernel, by decide +kernel, by decide +kernel, by decide +kernel, by decide +kernel, by decide +kernel, by decide +kernel,
    by decide +kernel, by decide +kernel⟩

theorem test_step_intact : ∃ t : State, step { flying with pending := [.sheafDispatch 1] } = .next t := ⟨_, rfl⟩

end Sys2Proof.Tests
end

