-- ==== Sys2Proof/Tests/WitnessSession.lean ====
section
/-! SUPPORT. The hypotheses of the statements about sessions and queue pairs can be met. -/

set_option Elab.async false

namespace Sys2Proof.Tests

open Sys2Proof.Machine

/-! ### SessionsAreOpenedAndKept, SessionsExpire -/

theorem test_sessionHello : Met specSessionHello fun r _ u _ _ =>
    ∀ f ∈ u.net.ignored, some f.1 = u.sourceOf r.via → f.2 ≤ u.dev.now :=
  met (first 0x0101 (zeros 16)) firstCaller dev (by decide +kernel) (by decide +kernel)

/-- `dev` with the device nonce 5 good for bay 0 for one second. -/
def nonceDev : State := { dev with net.nonces := [⟨5, some 0, zeros 16, 1000000000⟩] }

/-- The longest lease, 60 s, and the longest hold, one hour (R501). -/
def openPayload : List Byte :=
  zeros 16 ++ leBytes 16 5 ++ leBytes 4 60000 ++ leBytes 4 3600 ++
    hmac [] (macInput (leBytes 16 5) (zeros 16) 0 60000 3600)

theorem test_sessionOpen : Met specSessionOpen fun r c u p _ => onBoundBox u r.via = false ∧
    (u32At p 32 = 0 ∨ (100 ≤ u32At p 32 ∧ u32At p 32 ≤ 60000)) ∧ u32At p 36 ≤ 3600 ∧
    (u.useNonce (leNat (slice 16 16 p))).1 = true ∧
    hmac (u.secret c.bay) (macInput (slice 16 16 p) (slice 0 16 p) (c.bay.getD 0xFFFF) (u32At p 32) (u32At p 36)) = slice 40 32 p ∧
    (u.net.sessions.filter fun x => x.state != .ended).length < 1024 ∧ (c.bay.isSome = true → (u.baySessions c.bay).length < 256) :=
  met (first 0x0102 openPayload) firstCaller nonceDev (by decide +kernel) (by decide +kernel)

def reattachPayload : List Byte :=
  leBytes 4 1 ++ zeros 4 ++ leBytes 8 7 ++ zeros 16 ++ leBytes 16 5 ++
    hmac [] (macInput (leBytes 16 5) (zeros 16) 0 2000 60 ++ leBytes 4 1 ++ leBytes 8 7)

theorem test_sessionReattach : Met specSessionReattach fun _ c u p _ => zeroAt p 4 4 = true ∧
    ∃ x, u.session (u32At p 0) = some x ∧ holdOver x u.dev.now = false ∧ x.bay = c.bay ∧
      (u.useNonce (leNat (slice 32 16 p))).1 = true ∧ u64At p 8 = x.token ∧
      hmac (u.secret x.bay) (macInput (slice 32 16 p) (slice 16 16 p) (x.bay.getD 0xFFFF) x.leaseMs x.holdS ++
        leBytes 4 x.handle ++ leBytes 8 (u64At p 8)) = slice 48 32 p :=
  met (first 0x0105 reattachPayload) firstCaller nonceDev (by decide +kernel) ⟨by decide +kernel, found (by decide +kernel)⟩

theorem test_heartbeat : Met specHeartbeat fun _ c u _ _ =>
    ∃ x, u.session c.handle = some x ∧ x.state = .opened ∧ u.dev.now < x.expiry :=
  met (host 0x0104 []) bayCaller (devAt 1999999999) (by decide +kernel) (found (by decide +kernel))

theorem test_sessionClose : Met specSessionClose fun _ _ _ _ _ => True :=
  met (host 0x0103 []) bayCaller dev (by decide +kernel) trivial

theorem test_sessionQuery_own : Met specSessionQuery fun _ c u _ _ => c.bay.isSome = true ∧
    ∃ x, u.session c.handle = some x ∧ Fits c (sessionBody u x) :=
  met (host 0x0106 []) bayCaller dev (by decide +kernel) ⟨rfl, by
    obtain ⟨x, h, -⟩ := found (P := fun _ => True) (o := dev.session 1) (by decide +kernel)
    exact ⟨x, h, nofun⟩⟩

theorem test_sessionQuery_other : Met specSessionQuery fun _ c u p _ => c.bay = none ∧ zeroAt p 2 2 = true ∧
    ∃ x, u.session (u32At p 4) = some x ∧ x.bay = some (u16At p 0) ∧ (c.mtw = true → (sessionBody u x).length ≤ 488) :=
  met (admin 0x0106 (zeros 4 ++ leBytes 4 1)) adminCaller dev (by decide +kernel) ⟨rfl, by decide +kernel, found (by decide +kernel)⟩

theorem test_leaseExpiry : ∃ s : State, ∃ x, s.session 1 = some x ∧ x.state = .opened ∧ x.expiry ≤ s.dev.now ∧ s.dev.steward = .running :=
  ⟨devAt 2000000000, found (by decide +kernel)⟩

theorem test_holdExpiry : ∃ s : State, ∃ x, s.session 1 = some x ∧ x.state = .orphaned ∧ x.expiry ≤ s.dev.now ∧
    s.dev.steward = .running :=
  ⟨(devAt 62000000000).modSession 1 fun x => { x with state := .orphaned, expiry := 62000000000 }, found (by decide +kernel)⟩

/-! ### QueuePairCommandsComplete -/

theorem test_qpConnect : Met specQpConnect fun _ c u p b =>
    u32At p 0 < 2 ^ 24 ∧ u32At p 4 < 2 ^ 24 ∧ (u8At p 8 = 4 ∨ u8At p 8 = 6) ∧
    1 ≤ u8At p 9 ∧ u8At p 9 ≤ 3 ∧ (u8At p 10 = 0 ∨ (8 ≤ u8At p 10 ∧ u8At p 10 ≤ 20)) ∧ u8At p 11 ≤ 7 ∧ u8At p 12 < 8 ∧
    u8At p 13 < modeSubs (u.portMode (u8At p 12)) ∧ u8At p 14 ≤ 7 ∧
    addrNamed (((u.subPort (u8At p 12) (u8At p 13)).map SubPort.addrs).getD []) (u8At p 8 == 6) (u8At p 14) = true ∧
    zeroAt p 15 1 = true ∧ (u8At p 8 = 6 ∨ zeroAt p 20 12 = true) ∧ 1 ≤ u32At p 44 ∧ u32At p 44 ≤ 4096 ∧
    (u.net.qps.filter fun q => q.session == c.handle).length < 64 ∧
    (u.net.qps.filter fun q => q.bay == some b).length < 4096 ∧ u.net.qps.length < 16384 :=
  met (host 0x0107 (leBytes 4 (2 ^ 24 - 1) ++ leBytes 4 (2 ^ 24 - 1) ++ [4, 3, 20, 7, 7, 0, 7, 0] ++ zeros 16 ++ leBytes 8 0 ++ leBytes 4 0 ++
      leBytes 4 4096)) bayCaller
    (dev.modSub 7 0 fun x => { x with addrs := List.replicate 8 ⟨⟨false, 0x0A000002⟩, 24, 0⟩ }) (by decide +kernel) (by decide +kernel)

theorem test_qpDestroy : Met specQpDestroy fun _ c u p _ =>
    ∃ q, u.qp (u32At p 0) = some q ∧ q.session = c.handle ∧ zeroAt p 4 4 = true :=
  met (host 0x0108 (leBytes 4 9 ++ zeros 4)) bayCaller dev (by decide +kernel) (found (by decide +kernel))

theorem test_qpQuery : Met specQpQuery fun _ c u p _ =>
    ∃ q, u.qp (u32At p 0) = some q ∧ q.session = c.handle ∧ zeroAt p 4 4 = true :=
  met (host 0x0109 (leBytes 4 9 ++ zeros 4)) bayCaller dev (by decide +kernel) (found (by decide +kernel))

end Sys2Proof.Tests
end

