-- ==== Sys2Proof/Tests/WitnessTable.lean ====
section
/-! SUPPORT. The hypotheses of the statements about tables, heat, the hot set, rebuilds and quantisation can be met. -/

set_option Elab.async false

namespace Sys2Proof.Tests

open Sys2Proof.Machine

/-! ### TableCommandsComplete -/

theorem test_tableCreate : Met specTableCreate fun r c u p b => Good (descChecks p) ∧ u.table b (descAt p).id = none ∧
    u.net.parked.any (u.changesTable b (descAt p).id) = false ∧
    (u.createTable b (descAt p) ⟨0, [⟨0, (descAt p).rows - 1, selfNode, 0⟩]⟩ [(0, (descAt p).rows)]).isSome = true ∧
      u.preparedOn b (descAt p).id = false ∧
    AccessesNow false doTableCreate (ctxOf c r p b) u :=
  metB (leBytes 2 4095 ++ leBytes 2 4096 ++ [4, 4, 0x7F, 255] ++ leBytes 8 1 ++ leBytes 4 0x7F800000 ++ zeros 12) full
    (by decide +kernel) ⟨good (by decide +kernel), by decide +kernel, by decide +kernel, by decide +kernel, by decide +kernel, by decide +kernel⟩

theorem test_tableDestroy : Met specTableDestroy fun _ _ u p b => ∃ t, TableFree u b (u16At p 0) t ∧ zeroAt p 2 6 = true ∧
    u.tableMoving b t.id = false :=
  metB (leBytes 8 5) full (by decide +kernel) (foundFree (by decide +kernel))

theorem test_dirWrite : Met specDirWrite fun r c u p b => ∃ t, TableFree u b (u16At p 0) t ∧ u8At p 2 ≤ 3 ∧ zeroAt p 3 1 = true ∧
    1 ≤ u16At p 4 ∧ u16At p 4 ≤ 500 ∧ zeroAt p 6 2 = true ∧ anyHeld u b t.id (rowsAt p 8 (u16At p 4)) = false ∧ c.mtw = false ∧
    AccessesNow false doDirWrite (ctxOf c r p b) u :=
  metB (leBytes 2 5 ++ [3, 0] ++ leBytes 2 1 ++ [0, 0] ++ leBytes 8 3) full (by decide +kernel) (foundFree (by decide +kernel))

theorem test_rowWrite : Met specRowWrite fun r c u p b => ∃ t, TableFree u b (u16At p 0) t ∧
    let its := items (u16At p 4) fun i => (u64At p (32 + 16 * i), u8At p (40 + 16 * i), u8At p (41 + 16 * i))
    let sizes := its.map fun x => roundUp (if u8At p 2 = 1 then t.rowBytes x.2.1 else 4 * t.desc.dim) 8
    u8At p 2 ≤ 1 ∧ zeroAt p 3 1 = true ∧ 1 ≤ u16At p 4 ∧ u16At p 4 ≤ 250 ∧ zeroAt p 6 2 = true ∧
    (bulkChecks p 8 [1, 2] (u.ringBytes b)).all (fun f => f.2) = true ∧
    (∀ i, i < u16At p 4 → zeroAt p (42 + 16 * i) 6 = true ∧ (u8At p 2 = 1 → u8At p (40 + 16 * i) < t.desc.tiers)) ∧
    (bulkAt p 8).length = sumBy id sizes ∧ anyHeld u b t.id (its.map Prod.fst) = false ∧ c.mtw = false ∧ anyRead u b t (its.map Prod.fst) = false ∧
    AccessesNow false doRowWrite (ctxOf c r p b) u :=
  metB (leBytes 2 5 ++ [1, 0] ++ leBytes 2 1 ++ [0, 0] ++ [1, 0, 0, 0] ++ zeros 4 ++ leBytes 8 0 ++ leBytes 4 8 ++ zeros 4 ++ leBytes 8 3 ++
    [1, 1] ++ zeros 6 ++ zeros 8) (unserved full) (by decide +kernel) (foundFree (by decide +kernel))

theorem test_defaultRowSet : Met specDefaultRowSet fun r c u p b => ∃ t, TableFree u b (u16At p 0) t ∧ t.desc.defaultConfigured = true ∧
    zeroAt p 2 6 = true ∧ (bulkChecks p 8 [1, 2] (u.ringBytes b)).all (fun f => f.2) = true ∧ (bulkAt p 8).length = 4 * t.desc.dim ∧
    u.defaultHeld b t.id = false ∧ t.defRow.isSome = true ∧
    (t.defRow.any fun a => !u.readBefore b 1 a.first a.len) = true ∧
    AccessesNow false doDefaultRowSet (ctxOf c r p b) u :=
  metB (leBytes 8 5 ++ [2, 0, 0, 0] ++ zeros 4 ++ leBytes 8 65520 ++ leBytes 4 16 ++ zeros 4) full (by decide +kernel)
    (foundFree (by decide +kernel))

theorem test_tableQuery : Met specTableQuery fun _ c u p b => ∃ t, u.table b (u16At p 0) = some t ∧ zeroAt p 2 6 = true ∧ c.mtw = false :=
  metB (leBytes 8 5) full (by decide +kernel) (found (by decide +kernel))

theorem test_dirRead : Met specDirRead fun r c u p b => ∃ t, TableThere u b (u16At p 0) t ∧ 1 ≤ u16At p 2 ∧ u16At p 2 ≤ 250 ∧
    zeroAt p 4 4 = true ∧ c.mtw = false ∧
    AccessesNow true doDirRead (ctxOf c r p b) u :=
  metB (leBytes 2 5 ++ leBytes 2 250 ++ zeros 4 ++ zeros 2000) (unserved full) (by decide +kernel) (foundThere (by decide +kernel))

/-- The destination holds the four values of row 3 inline. -/
theorem test_rowRead : Met specRowRead fun r c u p b => ∃ t, TableThere u b (u16At p 0) t ∧ u8At p 2 ≤ 1 ∧ zeroAt p 3 1 = true ∧
    1 ≤ u16At p 4 ∧ u16At p 4 ≤ 250 ∧ zeroAt p 6 2 = true ∧ (bulkChecks p 8 [1, 3] 0).all (fun f => f.2) = true ∧
    (let d := eachRead (fun x s => rowReadItem b (u8At p 2) x s t) (rowsAt p 32 (u16At p 4)) u
     destBad (ctxOf c r p b) u 8 (8 * u16At p 4) (d.1.flatMap fun x => padTo 16 x.2.2.2).length = none) ∧ c.mtw = false ∧
    AccessesNow true doRowRead (ctxOf c r p b) u :=
  metB (leBytes 2 5 ++ [0, 0] ++ leBytes 2 1 ++ [0, 0] ++ [1, 0, 0, 0] ++ zeros 4 ++ leBytes 8 0 ++ leBytes 4 16 ++ zeros 4 ++ leBytes 8 3)
    (unserved full) (by decide +kernel) (foundThere (by decide +kernel))

/-! ### HeatAndGranaryCommandsComplete -/

theorem test_heatSnapshot : Met specHeatSnapshot fun r c u p b => u8At p 0 ≤ 2 ∧ zeroAt p 1 7 = true ∧ c.mtw = false ∧
    AccessesNow false doHeatSnapshot (ctxOf c r p b) u :=
  metB (leBytes 8 2) full (by decide +kernel) (by decide +kernel)

/-- `full` with one snapshot taken. -/
def snapped : State := full.modBay 0 fun y => { y with heat := { y.heat with snapSeq := 2 ^ 32 - 1 } }

theorem test_heatRead : Met specHeatRead fun _ c u p b => (u.bay b).heat.snapSeq ≠ 0 ∧ u32At p 0 = (u.bay b).heat.snapSeq ∧ u8At p 4 ≤ 3 ∧
    zeroAt p 5 3 = true ∧ u32At p 8 < 65536 ∧ 1 ≤ u32At p 12 ∧ u32At p 12 ≤ 1000 ∧ u32At p 8 + u32At p 12 ≤ 65536 ∧ c.mtw = false :=
  metB (leBytes 4 (2 ^ 32 - 1) ++ [3, 0, 0, 0] ++ leBytes 4 64536 ++ leBytes 4 1000) snapped (by decide +kernel) (by decide +kernel)

theorem test_heatQuery : Met specHeatQuery fun _ c _ p _ => 1 ≤ u16At p 0 ∧ u16At p 0 ≤ 256 ∧ zeroAt p 2 6 = true ∧
    (∀ i, i < u16At p 0 → bits (u64At p (8 + 8 * i)) 52 12 = 0) ∧ c.mtw = false :=
  metB (leBytes 8 1 ++ leBytes 8 (2 ^ 52 - 1)) full (by decide +kernel) (by decide +kernel)

/-- A list of one item of table 5: row 3, on both dies. -/
def hotList (dir : Byte) : List Byte := leBytes 8 1 ++ leBytes 2 5 ++ [3, dir] ++ zeros 4 ++ leBytes 8 3

theorem test_hotsetPut : Met specHotsetPut fun _ _ _ p _ => 1 ≤ u16At p 0 ∧ u16At p 0 ≤ 250 ∧ zeroAt p 2 6 = true ∧
    Good (hotItemChecks p (u16At p 0) 0) :=
  metB (hotList 0) full (by decide +kernel) ⟨by decide +kernel, by decide +kernel, by decide +kernel, good (by decide +kernel)⟩

theorem test_hotsetDrop : Met specHotsetDrop fun _ _ _ p _ => u8At p 0 ≤ 1 ∧ 1 ≤ u8At p 1 ∧ u8At p 1 ≤ 3 ∧
    (if bit (u8At p 0) 0 then u16At p 2 = 0 else 1 ≤ u16At p 2 ∧ u16At p 2 ≤ 250) ∧ zeroAt p 4 4 = true ∧
    Good (hotItemChecks p (u16At p 2) 0) :=
  metB [1, 3, 0, 0, 0, 0, 0, 0] full (by decide +kernel)
    ⟨by decide +kernel, by decide +kernel, by decide +kernel, by decide +kernel, by decide +kernel, good (by decide +kernel)⟩

theorem test_hotsetSwap : Met specHotsetSwap fun _ _ _ p _ => 1 ≤ u8At p 0 ∧ u8At p 0 ≤ 3 ∧ zeroAt p 1 7 = true :=
  metB (leBytes 8 3) full (by decide +kernel) (by decide +kernel)

theorem test_hotsetQuery : Met specHotsetQuery fun _ c _ _ _ => c.mtw = false := metB [] full (by decide +kernel) rfl

theorem test_hotsetHome : Met specHotsetHome fun _ _ _ p _ => 1 ≤ u16At p 0 ∧ u16At p 0 ≤ 250 ∧ zeroAt p 2 6 = true ∧
    Good (hotItemChecks p (u16At p 0) 1) :=
  metB (hotList 1) full (by decide +kernel) ⟨by decide +kernel, by decide +kernel, by decide +kernel, good (by decide +kernel)⟩

theorem test_hotsetConfig : Met specHotsetConfig fun _ _ _ p _ =>
    (u32At p 0 = 0 ∨ (100 ≤ u32At p 0 ∧ u32At p 0 ≤ 3600000)) ∧ u8At p 4 ≤ 3 ∧ zeroAt p 5 3 = true :=
  metB (leBytes 4 3600000 ++ [3, 0, 0, 0]) full (by decide +kernel) (by decide +kernel)

theorem test_runaheadConfig : Met specRunaheadConfig fun _ _ u p b => u8At p 0 ≤ 1 ∧ u8At p 1 ≤ 1 ∧ u16At p 4 ≤ u.maxCribLimit b ∧
    u16At p 6 ≤ 4096 :=
  metB ([1, 1, 255, 255, 2, 0] ++ leBytes 2 4096) full (by decide +kernel) (by decide +kernel)

theorem test_stageQuery : Met specStageQuery fun _ c _ _ _ => c.mtw = false := metB [] full (by decide +kernel) rfl

theorem test_halfRetired : ∃ s : State, (s.hotDie 15 1).retiring ≠ none ∧ s.boundEarlier 15 1 = false :=
  ⟨dev.modHot 15 1 fun d => { d with retiring := some 0 }, by decide +kernel⟩

theorem test_hotsetRefreshDue : ∃ (s : State) (t : Nat), (s.bay 0).granary.refreshAt = some t ∧ t ≤ s.dev.now ∧ s.bayState 0 = .opened :=
  ⟨(devAt 7).modBay 0 fun y => { y with granary := { y.granary with refreshAt := some 7 } }, 7, by decide +kernel⟩

/-! ### RebuildsAndMovesComplete -/

theorem test_tierMigrate : Met specTierMigrate fun _ _ u p b => ∃ t, TableFree u b (u16At p 0) t ∧ 1 ≤ u16At p 2 ∧ u16At p 2 ≤ 250 ∧
    zeroAt p 4 4 = true ∧ ∀ i, i < u16At p 2 → u8At p (8 + 16 * i + 8) < t.desc.tiers ∧ t.tierReady (u8At p (8 + 16 * i + 8)) = true ∧
      (u8At p (8 + 16 * i + 9) = 1 ∨ u8At p (8 + 16 * i + 9) = 2) ∧ u8At p (8 + 16 * i + 10) ≤ 1 ∧ zeroAt p (8 + 16 * i + 11) 5 = true :=
  metB (leBytes 2 5 ++ leBytes 2 1 ++ zeros 4 ++ leBytes 8 3 ++ [1, 2, 1] ++ zeros 5) full (by decide +kernel)
    (foundFree (by decide +kernel))

theorem test_tierRebuild : Met specTierRebuild fun r c u p b => ∃ t, TableFree u b (u16At p 0) t ∧
    let q := t.point (u8At p 2)
    let v := takeSource (ctxOf c r p b) u 8 32
    u8At p 2 < t.desc.tiers ∧ rebuildable q.policy.format = true ∧ zeroAt p 3 5 = true ∧
    (bulkChecks p 8 [0, 1, 2] (u.ringBytes b)).all (fun f => f.2) = true ∧ ((bulkAt p 8).kind = 0 ↔ q.policy.discovery ≠ 0) ∧
    (bulkAt p 8).length = (if q.policy.discovery = 0 then settingsBytes q.policy t.desc.dim else 0) ∧
    (q.policy.discovery = 0 → settingsBad q.policy t.desc.dim v.1 = none) ∧ v.2.otherNodes (t.map.entries.map MapEntry.owner) = [] ∧
    AccessesNow true doTierRebuild (ctxOf c r p b) u :=
  metB (leBytes 2 5 ++ [1] ++ zeros 5 ++ [1, 0, 0, 0] ++ zeros 4 ++ leBytes 8 0 ++ leBytes 4 20 ++ zeros 4 ++
      (List.replicate 4 (leBytes 4 0x3F800000)).flatten ++ zeros 4)
    (setTab (tune 1 fun p => { p with format := .int8 })) (by decide +kernel) (foundFree (by decide +kernel))

/-- A rebuild in progress of tier 1, for command 0. -/
def rebuilding (ph : RebuildPhase) : State :=
  let j := full.startJob (ctxOf bayCaller (host 0x030A []) [] 0) .rebuild [] [] []
  let s := j.2.modTable 0 5 fun t => { t with
    life := .rebuilding, rebuild := some ⟨1, ph, 0, (t.point 1).scales, (t.point 1).codebooks, j.1, [], [], none⟩ }
  (s.modCrew 0 fun c => { c with job := some ⟨5, 2 ^ 64, 0, [], [], 0, [], [], j.1⟩ })

theorem test_rebuildQuiesced : ∃ (s : State) (t : Tab), s.table 0 5 = some t ∧ (t.rebuild.any fun g => decide (g.phase = .quiesce ∧
    (g.lead.isSome = true ∨ s.moverRuns g.cmd = true) ∧ s.namedBefore 0 5 g.before = false ∧ s.tableHeld 0 5 = false ∧
    s.movedBefore 0 5 g = false)) = true :=
  ⟨rebuilding .quiesce, found (by decide +kernel)⟩

theorem test_rebuildResume : ∃ (s : State) (t : Tab), s.table 0 5 = some t ∧ (t.rebuild.any fun g => decide (g.phase = .reencode ∧
    s.moverRuns g.cmd = true ∧ g.peers = [] ∧ g.lead = none ∧ s.tableHeld 0 5 = false)) = true :=
  ⟨rebuilding .reencode, found (by decide +kernel)⟩

theorem test_tableOverwrite : ∃ (s : State) (t : Tab), s.table 0 5 = some t ∧ t.life = .destroying ∧
    s.namedBefore 0 5 t.destroyBefore = false ∧ s.tableHeld 0 5 = false :=
  ⟨setTab fun t => { t with life := .destroying }, found (by decide +kernel)⟩

/-! ### QuantCommandsComplete -/

/-- INT8 with scales set by commands in the tier, two-level scales by delayed discovery over 16 steps at the output. -/
def int8Tab : State := setTab fun t => tune 4 (fun p => { p with format := .int8 }) (tune 1 (fun p => { p with format := .int8 }) t)

theorem test_quantSetPolicy_output : Met specQuantSetPolicy fun r c u p b => ∃ t, TableFree u b (u16At p 0) t ∧ u8At p 8 = 4 ∧
    u.pointFree b t 4 = true ∧ zeroAt p 2 6 = true ∧ (policyChecks p 8 t.desc.tiers).all (fun f => f.2) = true ∧
    (u.changePoint b t 4 ((t.point 4).withPolicy 4 t.desc.dim (policyAt p 8))).isSome = true ∧
    AccessesNow false doQuantSetPolicy (ctxOf c r p b) u :=
  metB (leBytes 8 5 ++ [4, 5, 1, 1, 16, 7, 0, 0, 1, 1, 0, 0] ++ leBytes 4 (2 ^ 32 - 1) ++ zeros 16) full (by decide +kernel)
    (foundFree (by decide +kernel))

theorem test_quantSetPolicy_tier : Met specQuantSetPolicy fun r c u p b => ∃ t, TableFree u b (u16At p 0) t ∧ u8At p 8 = 0 ∧
    u.pointFree b t 0 = true ∧ u.tableMoving b t.id = false ∧ zeroAt p 2 6 = true ∧
    (policyChecks p 8 t.desc.tiers).all (fun f => f.2) = true ∧ u.defaultHeld b t.id = false ∧
    (u.changePoint b t 0 ((t.point 0).withPolicy 0 t.desc.dim (policyAt p 8))).isSome = true ∧
    AccessesNow false doQuantSetPolicy (ctxOf c r p b) u :=
  metB (leBytes 8 5 ++ [0, 6, 0, 0, 0, 0, 1, 64, 0, 0, 0, 0] ++ leBytes 4 0 ++ zeros 16) full (by decide +kernel)
    (foundFree (by decide +kernel))

theorem test_quantSetScales : Met specQuantSetScales fun r c u p b => ∃ t, TableFree u b (u16At p 0) t ∧ u8At p 2 = 4 ∧
    let w := takeSource (ctxOf c r p b) u 8 32
    let q := t.point 4
    zeroAt p 4 4 = true ∧ (bulkChecks p 8 [1, 2] (u.ringBytes b)).all (fun f => f.2) = true ∧ u.pointFree b t 4 = true ∧
    w.2.net.parked.any (w.2.changesTable b t.id) = false ∧ isScaled q.policy.format = true ∧ formOk q.policy 4 (u8At p 3) = true ∧
    (bulkAt p 8).length = scaleBytes q.policy t.desc.dim (u8At p 3) ∧ scaleBad q.policy t.desc.dim (u8At p 3) w.1 = none ∧
    (w.2.changePoint b t 4 { q with explicit := explicitFrom t.desc.dim w.1 }).isSome = true ∧ u8At p 3 = 2 ∧
    AccessesNow true doQuantSetScales (ctxOf c r p b) u :=
  metB (leBytes 2 5 ++ [4, 2, 0, 0, 0, 0] ++ [1, 0, 0, 0] ++ zeros 4 ++ leBytes 8 0 ++ leBytes 4 32 ++ zeros 4 ++
      (List.replicate 4 (leBytes 4 (2 ^ 31) ++ [63, 0, 0, 0])).flatten) int8Tab (by decide +kernel)
    (foundFree (by decide +kernel))

theorem test_quantSetCodebook : Met specQuantSetCodebook fun r c u p b => ∃ t, TableFree u b (u16At p 0) t ∧ u8At p 2 = 1 ∧
    let w := takeSource (ctxOf c r p b) u 8 32
    let q := t.point 1
    zeroAt p 4 4 = true ∧ (bulkChecks p 8 [1, 2] (u.ringBytes b)).all (fun f => f.2) = true ∧ u.pointFree b t 1 = true ∧
    u.tableMoving b t.id = false ∧ w.2.net.parked.any (w.2.changesTable b t.id) = false ∧ isCodebook q.policy.format = true ∧
    zeroAt p 3 5 = true ∧ (bulkAt p 8).length = booksBytes q.policy.format t.desc.dim ∧
    booksBad (booksBytes q.policy.format t.desc.dim / 2) w.1 = none ∧
    (w.2.changePoint b t 1 { q with codebooks := booksFrom q.policy.format t.desc.dim w.1 }).isSome = true ∧
    AccessesNow true doQuantSetCodebook (ctxOf c r p b) u :=
  metB (leBytes 2 5 ++ [1, 0, 0, 0, 0, 0] ++ [1, 0, 0, 0] ++ zeros 4 ++ leBytes 8 0 ++ leBytes 4 32 ++ zeros 4 ++ zeros 32)
    (setTab (tune 1 fun p => { p with format := .cb4 })) (by decide +kernel) (foundFree (by decide +kernel))

theorem test_quantSetSplit : Met specQuantSetSplit fun r c u p b => ∃ t, TableFree u b (u16At p 0) t ∧
    let g := u8At p 2
    let n := u8At p 3
    let cols := items n fun i => u16At p (8 + 2 * i)
    g < t.desc.tiers ∧ u.pointFree b t g = true ∧ u.tableMoving b t.id = false ∧ n ≤ 64 ∧ n = (t.point g).policy.splitCount ∧
    (n = 0 ∨ (t.point g).policy.outlier = 1) ∧ zeroAt p 4 4 = true ∧
    (∀ i, i < n → natAt cols i < t.desc.dim ∧ (i = 0 ∨ natAt cols (i - 1) < natAt cols i)) ∧
    zeroAt p (8 + 2 * n) (roundUp (2 * n) 8 - 2 * n) = true ∧ (g = 0 → u.defaultHeld b t.id = false) ∧
    (u.changePoint b t g { t.point g with splits := cols }).isSome = true ∧
    AccessesNow false doQuantSetSplit (ctxOf c r p b) u :=
  metB (leBytes 2 5 ++ [1, 2, 0, 0, 0, 0] ++ leBytes 2 0 ++ leBytes 2 3 ++ zeros 4)
    (setTab (tune 1 fun p => { p with outlier := 1, splitCount := 2 })) (by decide +kernel) (foundFree (by decide +kernel))

theorem test_quantGetScales : Met specQuantGetScales fun r c u p b => ∃ t, TableFree u b (u16At p 0) t ∧ u8At p 2 = 4 ∧
    zeroAt p 3 5 = true ∧ (bulkChecks p 8 [1, 3] 0).all (fun f => f.2) = true ∧
    (let q := (t.point 4).policy
     let sc := t.withExplicitZp (t.scalesNow 4)
     destBad (ctxOf c r p b) u 8 8 (scaleData q t.desc.dim sc ++
       (if t.fedInt48 then (items t.desc.dim fun j => rescaleBytes (t.rescaleAt sc j)).flatten else [])).length = none) ∧ c.mtw = false :=
  metB (leBytes 2 5 ++ [4, 0, 0, 0, 0, 0] ++ [1, 0, 0, 0] ++ zeros 4 ++ leBytes 8 0 ++ leBytes 4 52 ++ zeros 4) int8Tab (by decide +kernel)
    (foundFree (by decide +kernel))

theorem test_quantReadSat : Met specQuantReadSat fun _ c u p b => ∃ t, TableFree u b (u16At p 0) t ∧ (u8At p 2 < t.desc.tiers ∨ u8At p 2 = 4) ∧
    u8At p 3 ≤ 1 ∧ u16At p 4 < t.desc.dim ∧ 1 ≤ u16At p 6 ∧ u16At p 6 ≤ 1000 ∧ u16At p 4 + u16At p 6 ≤ t.desc.dim ∧ c.mtw = false :=
  metB (leBytes 2 5 ++ [4, 1] ++ leBytes 2 3 ++ leBytes 2 1) full (by decide +kernel) (foundFree (by decide +kernel))

end Sys2Proof.Tests
end

