-- ==== Sys2Proof/Tests/WitnessTether.lean ====
section
/-! SUPPORT. The hypotheses of the statements about the tether, its relays and segments can be met. -/

set_option Elab.async false

namespace Sys2Proof.Tests

open Sys2Proof.Machine

/-- A region of bay 0 with key 1: 8 KiB of host memory, to be read and written, in pages of 4 KiB. -/
def region1 : Region := ⟨1, 0, 0x10000, 8192, 0, true, true, none, [], none⟩

/-- `made` with that region. -/
def tethered : State := { made with tth.regions := [region1], tth.nextKey := 2 }

/-! ### TetherCommandsAndRegistersComplete: the commands -/

theorem test_tetherRegionReg : Met specTetherRegionReg fun _ c u p b =>
    u8At p 16 ≤ 1 ∧ u64At p 0 % pageBytes (u8At p 16) = 0 ∧ u64At p 8 % pageBytes (u8At p 16) = 0 ∧ u64At p 8 ≤ 2 ^ 40 ∧
    u64At p 0 + u64At p 8 ≤ 2 ^ 64 ∧ u8At p 17 ≤ 3 ∧ (u8At p 18 = 0 ∨ (u8At p 18 = 1 ∧ bit (u8At p 17) 1 = true)) ∧
    (u8At p 19 ≤ 63 ∨ u8At p 19 = 0xFF) ∧ zeroAt p 20 4 = true ∧ u.tth.attached = true ∧
    (u.tth.regions.filter fun x => x.bay == b).length < 1024 ∧ u.tth.regions.length < 4096 ∧
    u.pageEntries + u64At p 8 / pageBytes (u8At p 16) ≤ 262144 ∧ Fits c (leBytes 4 u.tth.nextKey ++ zeros 4) :=
  metB (leBytes 8 (2 ^ 64 - 2 ^ 39) ++ leBytes 8 (2 ^ 39) ++ [1, 3, 1, 63, 0, 0, 0, 0]) made (by decide +kernel) (by decide +kernel)

theorem test_tetherRegionDereg : Met specTetherRegionDereg fun _ _ u p b =>
    (u.ownRegion b (u32At p 0)).isSome = true ∧ zeroAt p 4 4 = true :=
  metB (leBytes 8 1) tethered (by decide +kernel) (by decide +kernel)

theorem test_tetherBiasSet : Met specTetherBiasSet fun _ _ u p b => ∃ g, u.ownRegion b (u32At p 0) = some g ∧ g.read = true ∧
    u8At p 4 ≤ 1 ∧ zeroAt p 5 3 = true ∧ u64At p 8 % pageBytes g.pageSize = 0 ∧ u64At p 16 % pageBytes g.pageSize = 0 ∧
    u64At p 8 + u64At p 16 ≤ g.len :=
  metB (leBytes 4 1 ++ [1, 0, 0, 0] ++ leBytes 8 4096 ++ leBytes 8 4096) tethered (by decide +kernel) (found (by decide +kernel))

/-- A copy of the region's last two granules to or from the last two of the bay's crib share of D0. -/
def copyPayload (kind : Byte) (addr : Nat) : List Byte :=
  leBytes 4 1 ++ [kind, 0, 0, 0] ++ leBytes 8 8064 ++ leBytes 8 addr ++ leBytes 4 2 ++ zeros 4

theorem test_tetherCopyIn : Met specTetherCopyIn fun _ _ u p b => ∃ g, u.ownRegion b (u32At p 0) = some g ∧
    (u8At p 4 = 1 ∨ u8At p 4 = 2) ∧ zeroAt p 5 3 = true ∧ u64At p 8 % 64 = 0 ∧ 1 ≤ u32At p 24 ∧ u32At p 24 ≤ 1048576 ∧
    u64At p 8 + 64 * u32At p 24 ≤ g.len ∧ zeroAt p 28 4 = true ∧ u.tth.attached = true ∧ g.read = true ∧
    u.dstOk b 0 (u8At p 4) (u64At p 16) (u32At p 24) = true :=
  metB (copyPayload 1 4096) tethered (by decide +kernel) (found (by decide +kernel))

theorem test_tetherCopyOut : Met specTetherCopyOut fun _ _ u p b => ∃ g, u.ownRegion b (u32At p 0) = some g ∧
    (u8At p 4 = 1 ∨ u8At p 4 = 2) ∧ zeroAt p 5 3 = true ∧ u64At p 8 % 64 = 0 ∧ 1 ≤ u32At p 24 ∧ u32At p 24 ≤ 1048576 ∧
    u64At p 8 + 64 * u32At p 24 ≤ g.len ∧ zeroAt p 28 4 = true ∧ u.tth.attached = true ∧ g.write = true ∧
    u.spaceIn b 0 (u8At p 4) (u64At p 16) (u32At p 24) = true :=
  metB (copyPayload 1 0) tethered (by decide +kernel) (found (by decide +kernel))

theorem test_tetherQuery : Met specTetherQuery fun _ c u _ _ => Fits c (leBytes 1 (flag u.tth.attached) ++ leBytes 1 u.tth.protocol ++
    leBytes 1 u.tth.gen ++ leBytes 1 u.tth.width ++ leBytes 4 u.tth.regions.length ++ leBytes 4 u.pageEntries ++
    u.tth.counters.flatMap (leBytes 4)) :=
  metM [] tethered (by decide +kernel) (by decide +kernel)

theorem test_tetherRelaySet : Met specTetherRelaySet fun _ _ u p _ => u64At p 0 ≠ u.net.muster.config.nodeId ∧ u64At p 8 % 2097152 = 0 ∧
    u8At p 16 ≤ 1 ∧ zeroAt p 17 7 = true ∧ ∃ i, u.relayPlace (u64At p 0) = some i ∧ i = 0 :=
  metD (leBytes 8 2 ++ leBytes 8 (2 ^ 64 - 2097152) ++ [1] ++ zeros 7) dev (by decide +kernel)
    ⟨by decide +kernel, by decide +kernel, by decide +kernel, by decide +kernel, found (by decide +kernel)⟩

/-! ### Its registers and events -/

theorem test_attached : ∃ s : State, s.tth.attached = true ∧ ∃ m, s.box 31 = some m ∧ m.slots = 0 :=
  ⟨dev, rfl, found (by decide +kernel)⟩

theorem test_tthEvent_zero : ∃ s : State, s.tth.attached = true ∧ s.tth.event = 0 := ⟨dev, rfl, by decide +kernel⟩

theorem test_bar2Read_bar0 : ∃ bar off : Nat, bar = 2 ∨ (bar = 0 ∧ 0x80000 ≤ off ∧ off < 0x100000) := ⟨0, 0xFFFFF, by decide⟩

theorem test_hostSnoop : ∃ s : State, s.tth.attached = true ∧ s.tth.protocol ≠ 0 :=
  ⟨{ dev with tth.protocol := 1 }, rfl, by decide⟩

theorem test_mailboxResponse : ∃ (s : State) (m : Mailbox), s.tth.attached = true ∧ s.box 31 = some m ∧ m.toWrite = [[1]] :=
  ⟨dev.modBox 31 fun m => { m with toWrite := [[1]] }, (found (P := fun m => m.toWrite = [[1]]) (by decide +kernel)).elim fun m h =>
    ⟨m, rfl, h⟩⟩

/-! ### TetherEventsComplete -/

/-- A vector with one record counted that waits for a second for at most 10 µs. -/
theorem test_vectorModerationTimer : ∃ s : State, 0 < (s.vec 2047).pending ∧ 0 < (s.vec 2047).time ∧
    (s.vec 2047).since + 1000 * (s.vec 2047).time ≤ s.dev.now :=
  ⟨{ devAt 70000000 with tth.vecs := [⟨2047, 0xFFFFFFFF, 1, 0⟩] }, by decide +kernel⟩

/-- A read of the host's memory by bay 0, of one granule, that times out at 500 µs. -/
def hostRead : Read := ⟨4, 0, 0, none, 4, true, .hostIn 9, 8, 0, 1, 0, some 500000, false, false, 0⟩

def reading (r : Read) (t : Nat) : State := { devAt t with dp.reads := [r], dp.nextRead := 5 }

theorem test_hostReadCompletion : ∃ (s : State) (r : Read), findKey Read.id s.dp.reads 4 = some r ∧ r.space = 8 :=
  ⟨reading hostRead 0, found (by decide +kernel)⟩

theorem test_endToEndTimeout : ∃ (s : State) (r : Read) (t : Nat), findKey Read.id s.dp.reads 4 = some r ∧ r.timeout = some t ∧
    t ≤ s.dev.now ∧ r.started = true ∧ ∀ q ∈ s.fab.requests, q.id = 4 → q.pausedAt = none :=
  ⟨reading hostRead 500000, hostRead, 500000, by decide +kernel⟩

theorem test_endToEndTimeout_loft : ∃ (s : State) (r : Read) (t : Nat), findKey Read.id s.dp.reads 4 = some r ∧ r.timeout = some t ∧
    t ≤ s.dev.now ∧ r.started = true ∧ r.space = 2 ∧ ∀ q ∈ s.fab.requests, q.id = 4 → q.pausedAt = none :=
  ⟨reading { hostRead with space := 2 } 500000, { hostRead with space := 2 }, 500000, by decide +kernel⟩

theorem test_clflushComplete : ∃ (s : State) (w : Waiting), s.job 0 = some w ∧ w.kind = .bias ∧ w.at_ = 1 :=
  ⟨(tethered.startJob (ctxOf bayCaller (host 0x0210 []) [] 0) .bias [] [] [1, 0, 64, 1]).2.modJob 0 fun w => { w with at_ := 1 },
    found (by decide +kernel)⟩

theorem test_tetherReset : ∃ s : State, s.tth.attached = true := ⟨dev, rfl⟩

theorem test_tetherAttach : ∃ s : State, s.tth.attached = false ∧ s.lan.tthDisable ≠ 0 ∧ s.serving (.mailbox 0) = true ∧
    s.domainA0 62 = true ∧ linkTaken 2 6 16 = true :=
  ⟨{ dev with tth.attached := false }, by decide +kernel⟩

/-! ### RelaysAndSegmentsComplete -/

/-- An enabled relay to node 2 with one slot that waits and 255 slots in the ring. -/
def relay2 : Relay := ⟨2, 0, true, 255, 0, 0, 0, 0, 0, none, 0, 0, [[1]]⟩

theorem test_relayPoll : ∃ (s : State) (r : Relay), s.tth.attached = true ∧ s.fab.relays[0]? = some r ∧ r.enabled = true ∧
    r.polledAt + 2000 ≤ s.dev.now :=
  ⟨{ devAt 2000 with fab.relays := [relay2] }, relay2, by decide +kernel⟩

theorem test_relaySend : ∃ (s : State) (r : Relay) (x : List Byte) (rest : List (List Byte)), s.tth.attached = true ∧
    s.fab.relays[0]? = some r ∧ r.enabled = true ∧ r.queue = x :: rest ∧ r.produced - r.peerConsumed < 256 :=
  ⟨{ dev with fab.relays := [relay2] }, relay2, [1], [], by decide +kernel⟩

theorem test_relayAlive : ∃ (s : State) (r : Relay), s.tth.attached = true ∧ s.fab.relays[0]? = some r ∧ r.enabled = true ∧
    r.aliveAt + 1000000 ≤ s.dev.now :=
  ⟨{ devAt 1000000 with fab.relays := [relay2] }, relay2, by decide +kernel⟩

theorem test_fabricSegment : ∃ (s : State) (m : List Byte), (headerOf m).op = 0x0B40 ∧ s.linkUp 7 0 = true ∧ s.portOn 7 = true ∧
    s.serving (.udp 7 0 ⟨false, 1⟩ 7411) = true :=
  ⟨dev.modSub 7 0 fun x => { x with link := true }, msg 0x0B40 0xFFFF 0 (zeros 16), by decide +kernel⟩

theorem test_reassemblyTimeout : ∃ s : State, (s.fab.reasm.any fun r => r.die == 1 && r.sender == 2 && r.id == 3 &&
    decide (r.startedAt + 1000000 ≤ s.dev.now)) = true :=
  ⟨{ devAt 1000000 with fab.reasm := [⟨1, 2, 3, 2, 4065, [], 0⟩] }, by decide +kernel⟩

end Sys2Proof.Tests
end

