-- ==== Sys2Proof/Tests/WitnessWork.lean ====
section
/-! SUPPORT. The hypotheses of the statements about training commands, streams and the wicket can be met. -/

set_option Elab.async false

namespace Sys2Proof.Tests

open Sys2Proof.Machine

theorem test_section_is_read : flying.sheafOk lookupSheaf = true ∧ section1.indices = [2] ∧ section1.offsets = [0, 1] := by decide +kernel

/-! ### TrainingCommandsComplete -/

theorem test_ledgerQuery_own : Met specLedgerQuery fun _ c u _ _ => c.bay.isSome = true ∧ (u.session c.handle).isSome = true ∧ c.mtw = false :=
  metB [] full (by decide +kernel) (by decide +kernel)

theorem test_ledgerQuery_other : Met specLedgerQuery fun _ c u p _ => ∃ x, u.session (u32At p 4) = some x ∧ c.bay = none ∧ zeroAt p 2 2 = true ∧
    x.bay = some (u16At p 0) ∧ c.mtw = false :=
  metD (zeros 4 ++ leBytes 4 1) full (by decide +kernel) (found (by decide +kernel))

theorem test_ledgerSkip : Met specLedgerSkip fun _ c u p _ => ∃ x, u.session c.handle = some x ∧ u32At p 0 = x.ledger.next ∧
    (∀ y ∈ u.ledgerSheafs x.handle, y.seq ≠ u32At p 0) ∧ zeroAt p 4 4 = true ∧ c.mtw = false :=
  metB (leBytes 4 1 ++ zeros 4) (full.modSession 1 fun x => { x with ledger := ⟨1, [2], 2⟩ }) (by decide +kernel)
    (found (by decide +kernel))

theorem test_ledgerConfig_size : Met specLedgerConfig fun _ _ u p b => u8At p 0 < 4 ∧ zeroAt p 1 3 = true ∧ bit (u8At p 0) 0 = true ∧
    (4 ≤ u32At p 4 ∧ u32At p 4 ≤ 4096) ∧ bit (u8At p 0) 1 = true ∧ (u32At p 8 = 0 ∨ (1000 ≤ u32At p 8 ∧ u32At p 8 ≤ 10000000)) ∧
    zeroAt p 12 4 = true ∧ (∀ d < 2, u.retained b d ≤ u32At p 4 * 2 ^ 20) ∧
    (((u.bay b).space.resizeRetention 0 (u32At p 4)).any fun sp => (sp.resizeRetention 1 (u32At p 4)).isSome) = true :=
  metB ([3, 0, 0, 0] ++ leBytes 4 4 ++ leBytes 4 10000000 ++ zeros 4) full (by decide +kernel) (by decide +kernel)

theorem test_ledgerConfig_timeout : Met specLedgerConfig fun _ _ _ p _ => u8At p 0 < 4 ∧ zeroAt p 1 3 = true ∧ bit (u8At p 0) 0 = false ∧
    u32At p 4 = 0 ∧ bit (u8At p 0) 1 = true ∧ (u32At p 8 = 0 ∨ (1000 ≤ u32At p 8 ∧ u32At p 8 ≤ 10000000)) ∧ zeroAt p 12 4 = true :=
  metB ([2, 0, 0, 0] ++ zeros 4 ++ leBytes 4 0 ++ zeros 4) full (by decide +kernel) (by decide +kernel)

theorem test_optSet_same : Met specOptSet fun r c u p b => ∃ t, TableFree u b (u16At p 0) t ∧ (optChecks p).all (fun f => f.2) = true ∧
    (optAt p).kind = t.opt.kind ∧ (optAt p).moment = t.opt.moment ∧ AccessesNow false doOptSet (ctxOf c r p b) u :=
  metB (leBytes 2 5 ++ [0, 0] ++ leBytes 4 0x3F800000 ++ zeros 56) full (by decide +kernel) (foundFree (by decide +kernel))

/-- To Adam with INT8 moments: its betas just below 1.0, its corrections 1.0. -/
theorem test_optSet_new : Met specOptSet fun r c u p b => ∃ t, TableFree u b (u16At p 0) t ∧ (optChecks p).all (fun f => f.2) = true ∧
    ¬((optAt p).kind = t.opt.kind ∧ (optAt p).moment = t.opt.moment) ∧ (∀ x ∈ u.updates b, u.names x t.id = false) ∧
    (u.remakeState b t (optAt p)).isSome = true ∧ AccessesNow false doOptSet (ctxOf c r p b) u :=
  metB (leBytes 2 5 ++ [4, 5] ++ zeros 8 ++ leBytes 4 0x3F7FFFFF ++ leBytes 4 0x3F7FFFFF ++ zeros 4 ++ leBytes 4 0x3F800000 ++
    leBytes 4 0x3F800000 ++ zeros 32) full (by decide +kernel) (foundFree (by decide +kernel))

/-- A persistent stream 0 of bay 0, stopped, with an entry in its list. -/
def stream0 : Context := { newContext 0 0 none 0 0 with queueSet := true, list := [zeros 32] }

def streaming (f : Context → Context) : State := { full with dp.contexts := [f stream0] }

theorem test_poolSet : Met specPoolSet fun _ _ u p b => ∃ t, TableFree u b (u16At p 0) t ∧ u8At p 2 ≤ 1 ∧ (poolAt p).fuseOp ≤ 2 ∧
    (poolAt p).fuseFormat ≤ 1 ∧ (poolAt p).fuseMode ≤ 1 ∧ (poolAt p).fuseOp ≠ 0 ∧ (u.persistent b (poolAt p).fuseStream).isSome = true ∧
    zeroAt p 8 8 = true :=
  metB (leBytes 2 5 ++ [1, 2, 1, 1] ++ leBytes 2 0 ++ zeros 8) (streaming id) (by decide +kernel) (foundFree (by decide +kernel))

theorem test_optGet : Met specOptGet fun _ c u p b => ∃ t, TableThere u b (u16At p 0) t ∧ zeroAt p 2 6 = true ∧ c.mtw = false :=
  metB (leBytes 8 5) full (by decide +kernel) (foundThere (by decide +kernel))

theorem test_poolGet : Met specPoolGet fun _ c u p b => ∃ t, TableThere u b (u16At p 0) t ∧ zeroAt p 2 6 = true ∧ c.mtw = false :=
  metB (leBytes 8 5) full (by decide +kernel) (foundThere (by decide +kernel))

theorem test_epochQuery : Met specEpochQuery fun _ c _ p _ => u16At p 0 < 4096 ∧ 1 ≤ u16At p 2 ∧ u16At p 2 ≤ 250 ∧ zeroAt p 4 4 = true ∧
    c.mtw = false :=
  metB (leBytes 2 4095 ++ leBytes 2 250 ++ zeros 4) full (by decide +kernel) (by decide +kernel)

theorem test_sheafCancel_waiting : Met specSheafCancel fun _ _ u p b => ∃ x,
    leastBy Sheaf.no (u.dp.sheafs.filter fun x => x.bay == b && x.id == u64At p 0) = some x ∧ x.phase = .accepted :=
  metB (leBytes 8 77) flying (by decide +kernel) (found (by decide +kernel))

theorem test_sheafCancel_working : Met specSheafCancel fun _ _ u p b => ∃ x,
    leastBy Sheaf.no (u.dp.sheafs.filter fun x => x.bay == b && x.id == u64At p 0) = some x ∧ x.phase = .working ∧ x.isUpdate = false ∧
    x.placing = false :=
  metB (leBytes 8 77) (inPhase .working id) (by decide +kernel) (found (by decide +kernel))

/-! ### StreamCommandsComplete -/

theorem test_streamCreate : Met specStreamCreate fun _ c u p b => u8At p 0 ≤ 1 ∧ (u8At p 1 ≤ 7 ∨ u8At p 1 = 0xFF) ∧ u16At p 2 ≤ 120 ∧
    zeroAt p 4 4 = true ∧ (∀ i, i < 4 → u64At p (8 + 8 * i) < 2 ^ 48) ∧ u.freeContexts b (u8At p 0) ≠ [] ∧
    (u.allocBytes b (32 * u16At p 2)).isSome = true ∧ c.mtw = false :=
  metB ([1, 7] ++ leBytes 2 1 ++ zeros 4 ++ (List.replicate 4 (leBytes 8 (2 ^ 48 - 1))).flatten ++ zeros 32) full (by decide +kernel)
    (by decide +kernel)

theorem test_streamAppend : Met specStreamAppend fun _ c u p b => ∃ x, u.persistent b (u16At p 0) = some x ∧ x.running = false ∧ 1 ≤ u16At p 2 ∧
    u16At p 2 ≤ 120 ∧ zeroAt p 4 4 = true ∧ x.list.length + u16At p 2 ≤ 4096 ∧
    (u.allocBytes b (64 * blockGranules * (blocksFor (32 * (x.list.length + u16At p 2)) - sumBy Run.len x.store / blockGranules))).isSome = true ∧
    c.mtw = false :=
  metB (leBytes 2 0 ++ leBytes 2 1 ++ zeros 4 ++ zeros 32) (streaming id) (by decide +kernel) (found (by decide +kernel))

theorem test_streamDestroy : Met specStreamDestroy fun _ _ u p b => ∃ x, u.persistent b (u16At p 0) = some x ∧ x.running = false ∧
    u.fuseNamed b x.no = false ∧ zeroAt p 2 6 = true :=
  metB (zeros 8) (streaming id) (by decide +kernel) (found (by decide +kernel))

theorem test_streamStart_held : Met specStreamStart fun _ _ u p b => ∃ x, u.persistent b (u16At p 0) = some x ∧ zeroAt p 2 6 = true ∧
    ¬(x.active = true ∧ x.heldCmd.isSome = true) ∧ (x.active = true ∨ x.list ≠ []) ∧ x.active = true :=
  metB (zeros 8) (streaming fun x => { x with active := true }) (by decide +kernel) (found (by decide +kernel))

theorem test_streamStart_run : Met specStreamStart fun _ _ u p b => ∃ x, u.persistent b (u16At p 0) = some x ∧ zeroAt p 2 6 = true ∧
    ¬(x.active = true ∧ x.heldCmd.isSome = true) ∧ (x.active = true ∨ x.list ≠ []) ∧ x.active = false :=
  metB (zeros 8) (streaming id) (by decide +kernel) (found (by decide +kernel))

theorem test_streamStart_empty : Met specStreamStart fun _ c u p b => ∃ x, u.persistent b (u16At p 0) = some x ∧ zeroAt p 2 6 = true ∧
    x.active = false ∧ x.list = [] ∧ Fits c (zeros 16) :=
  metB (zeros 8) (streaming fun x => { x with list := [] }) (by decide +kernel) (found (by decide +kernel))

theorem test_streamRearm : Met specStreamRearm fun _ _ u p b => ∃ x, u.persistent b (u16At p 0) = some x ∧ u8At p 2 < 16 ∧ u8At p 3 = 0 ∧
    zeroAt p 4 4 = true ∧ ∀ i, i < 4 → if bit (u8At p 2) i then u64At p (8 + 8 * i) < 2 ^ 48 else u64At p (8 + 8 * i) = 0 :=
  metB ([0, 0, 15, 0] ++ zeros 4 ++ (List.replicate 4 (leBytes 8 (2 ^ 48 - 1))).flatten) (streaming id) (by decide +kernel)
    (found (by decide +kernel))

theorem test_streamQuery : Met specStreamQuery fun _ c u p b => ∃ x, u.persistent b (u16At p 0) = some x ∧ zeroAt p 2 6 = true ∧ c.mtw = false :=
  metB (zeros 8) (streaming id) (by decide +kernel) (found (by decide +kernel))

theorem test_streamConfig : Met specStreamConfig fun _ _ _ p _ => zeroAt p 6 2 = true ∧
    (u32At p 8 = 0 ∨ (50 ≤ u32At p 8 ∧ u32At p 8 ≤ 100000)) ∧ (u32At p 12 = 0 ∨ (10 ≤ u32At p 12 ∧ u32At p 12 ≤ 10000)) :=
  metB (List.replicate 6 255 ++ zeros 2 ++ leBytes 4 100000 ++ leBytes 4 10000) full (by decide +kernel) (by decide +kernel)

/-- Two contexts wait for their reserve; the lower queue goes first. -/
theorem test_contextRunning : ∃ (s : State) (x : Context), s.context 1 = some x ∧ x.running = false ∧ x.waiting ≠ [] ∧
    (∀ y ∈ s.dp.contexts, y.bay = x.bay → ctxDie y.no = ctxDie x.no → y.no ≠ 1 → State.waitsForReserve y = true →
      x.queue ≤ y.queue ∧ (y.queue = x.queue → x.waitSince ≤ y.waitSince)) ∧
    s.cribHeld x.bay (ctxDie 1) + x.reserve ≤ s.cribShare x.bay (ctxDie 1) :=
  let w : Swath := ⟨zeros 32, [], none, 0, 0⟩
  ⟨{ full with dp.contexts := [{ stream0 with waiting := [w] }, { stream0 with no := 1, queue := 2, waiting := [w], waitSince := 9 }] },
    found (by decide +kernel)⟩

/-! ### WicketOperationsComplete -/

theorem test_wicketLookup : (headerOf lookupReq.msg).op = 0x0610 ∧ lookupReq.msg.length = 64 ∧ full.takesLookups = true ∧
    isResponse lookupReq = false ∧ full.lan.failsafe = false ∧ full.repeated lookupReq = none ∧
    checkHead (fun op => op == 0x0610) lookupReq = none ∧ checkKnown full specWicketLookup lookupReq = .pass bayCaller ∧
    full.bayState 0 = .opened := by decide +kernel

/-- The lookup next at the parser of D0. -/
def parses (s : State) (f : Lookup → Bool) (g : WicketMsg → Bool) : Bool :=
  match s.wicketNext 0 with
  | some (.lookup x) => f x
  | some (.message m) => g m
  | none => false

theorem test_wicketParse : parses looking (fun _ => true) (fun _ => false) = true := by decide +kernel

def messageAt (level : Nat) : State := { full with dp.messages := [⟨1, 0, level, some 0, host 0x0104 (zeros 48)⟩] }

theorem test_wicketMessage : parses (messageAt 1) (fun _ => false) (fun m => m.level != 0) = true := by decide +kernel

theorem test_urgentMessage : parses (messageAt 0) (fun _ => false) (fun m => m.level == 0) = true := by decide +kernel

/-- A lookup accepted after an update sheaf of its table that has still to complete. -/
theorem test_barrierTimeout_lookup : ∃ (s : State) (x : Lookup), (s.dp.lookups.find? fun x => x.no == 2 && x.phase == .waiting) = some x ∧
    s.sheaf 2 = none ∧ (x.tab.any fun t => decide ((s.bay x.bay).work.barrierUs ≠ 0 ∧ x.gaveUp = false ∧ t.desc.relaxed = false ∧
      s.barrierMet t x.u = false ∧ x.acceptedAt + 1000 * (s.bay x.bay).work.barrierUs ≤ s.dev.now)) = true :=
  ⟨withSheaf { lookingAs (fun x => { x with no := 2, u := [(1, 0)] }) with dev.now := 100000000 } (updateSheaf .applying),
    found (by decide +kernel)⟩

/-- The same for the section of a lookup sheaf. -/
theorem test_barrierTimeout_sheaf : ∃ (s : State) (x : Sheaf), s.sheaf 2 = some x ∧ x.isUpdate = false ∧ x.phase = .accepted ∧
    (s.bay x.bay).work.barrierUs ≠ 0 ∧ s.sheafOk x = true ∧ (((s.loadSections 2).sheaf 2).any fun y => y.sections[0]?.any fun g =>
      decide (g.barrier = none ∧ g.tab.desc.relaxed = false ∧ (s.loadSections 2).barrierMet g.tab g.u = false ∧
        g.barrierAt + 1000 * (s.bay x.bay).work.barrierUs ≤ (s.loadSections 2).dev.now)) = true :=
  ⟨{ flying with dev.now := 100000000, dp.sheafs := [updateSheaf .applying, { lookupSheaf with no := 2, u := [(1, 0, [5])] }] },
    found (by decide +kernel)⟩

theorem test_bypassFold_take : ∃ (s : State) (x : Lookup), findKey Lookup.id s.dp.lookups 1 = some x ∧ x.phase = .fetching ∧
    (x.sect.any fun g => s.lookupReady x g && (s.freeBypass x.die x.level).isSome) = true :=
  ⟨lookingAs fun x => { x with phase := .fetching, sect := some { section1 with done := true } }, found (by decide +kernel)⟩

theorem test_bypassFold_fold : ∃ (s : State) (x : Lookup), findKey Lookup.id s.dp.lookups 1 = some x ∧ x.phase = .folding ∧
    x.sect.isSome = true ∧ x.unit = some 15 :=
  ⟨lookingAs fun x => { x with phase := .folding, sect := some section1, unit := some 15 }, found (by decide +kernel)⟩

theorem test_wicketResult_lost : ∃ (s : State) (x : Lookup), findKey Lookup.id s.dp.lookups 1 = some x ∧ x.phase = .placing ∧ x.lost = true :=
  ⟨lookingAs fun x => { x with phase := .placing, lost := true }, found (by decide +kernel)⟩

/-- The result goes to the start of a region of 8 KiB with key 1. -/
theorem test_wicketResult_host : ∃ (s : State) (x : Lookup), findKey Lookup.id s.dp.lookups 1 = some x ∧ x.phase = .placing ∧ x.lost = false ∧
    x.req.via = .mailbox 0 ∧ s.regionHolds x.bay x.key x.off (x.record s.dev.now).length true = true :=
  ⟨{ lookingAs (fun x => { x with phase := .placing, req := host 0x0610 (leBytes 2 5 ++ [1, 0] ++ leBytes 4 1 ++ zeros 40) }) with
    tth.regions := [⟨1, 0, 0, 8192, 0, true, false, none, [], none⟩] }, found (by decide +kernel)⟩

theorem test_wicketResult_send : ∃ (s : State) (x : Lookup), findKey Lookup.id s.dp.lookups 1 = some x ∧ x.phase = .placing ∧ x.lost = false ∧
    x.req.via = .send 9 ∧ ((s.qp 9).any fun q => decide (q.error = none ∧ q.session = x.session)) = true :=
  ⟨lookingAs fun x => { x with phase := .placing, req := ⟨.send 9, x.req.msg⟩ }, found (by decide +kernel)⟩

theorem test_wicketResult_udp : ∃ (s : State) (x : Lookup), findKey Lookup.id s.dp.lookups 1 = some x ∧ x.phase = .placing ∧ x.lost = false ∧
    x.req.via = .udp 0 0 ⟨false, 1⟩ 7411 ∧ (s.lowestRts x.session).isSome = true :=
  ⟨lookingAs fun x => { x with phase := .placing, req := ⟨.udp 0 0 ⟨false, 1⟩ 7411, x.req.msg⟩ }, found (by decide +kernel)⟩

end Sys2Proof.Tests
end

/-! The value of hx.hash and the counter numbers of the heat sketch (R192, R282). -/

namespace Sys2Proof.Machine

/-- The immediate of hx.hash taken apart: i stands in bits 7:6 and b − 1 in bits 5:0 (R282). -/
theorem hxHash_fields (x : Nat) {i n : Nat} (hi : i < 4) (hn : n < 64) :
    hxHash x (64 * i + n) = x * natAt hashFactors i % 2 ^ 64 / 2 ^ (64 - (n + 1)) := by
  have factor : bits (64 * i + n) 6 2 = i := by simp only [bits]; omega
  have width : bits (64 * i + n) 0 6 = n := by simp only [bits]; omega
  rw [hxHash, factor, width]

/-- A product modulo 2^64 shifted right, as the product of 64-bit words: a factor of any size may be cut to 64 bits first. -/
theorem toNat_ofNat_mul_ushiftRight (x n : Nat) (c : BitVec 64) :
    ((BitVec.ofNat 64 x * c) >>> n).toNat = x * c.toNat % 2 ^ 64 / 2 ^ n := by
  rw [BitVec.toNat_ushiftRight, BitVec.toNat_mul, BitVec.toNat_ofNat, Nat.mod_mul_mod, Nat.shiftRight_eq_div_pow]

/-- A hand that can execute hx.hash writes the value to rd, if imm[11:8] is zero (R281). -/
theorem exec_hxHash_can {s : State} {crew hand pc b imm : Nat} {j : Job} {h : Hand} (can : CanExecute s crew hand pc 4 b j h)
    (rd rs1 : Nat) (himm : imm < 256) : exec (.hxHash crew hand pc rd rs1 imm) s =
      .next ((s.at crew hand pc).modHand crew hand fun h' => h'.setReg rd (hxHash (h.reg rs1) imm)) := by
  calc exec (.hxHash crew hand pc rd rs1 imm) s
      = s.onHand crew hand pc 4 fun _ _ h s => s.runHash crew hand pc h rd rs1 imm := rfl
    _ = .next ((s.at crew hand pc).runHash crew hand pc h rd rs1 imm) := onHand_can can _
    _ = _ := by rw [State.runHash, if_neg (by omega : ¬ 256 ≤ imm)]

/-- With b = 16 hx.hash numbers the counter of the key in sketch row i, whose counters start at 65,536 i (R192). -/
theorem heatIndex_eq_hxHash {i : Nat} (hi : i < 4) (table row : Nat) :
    heatIndex i table row = 65536 * i + hxHash (table * 2 ^ 40 + row) (64 * i + 15) := by
  rw [hxHash_fields _ hi (by omega), heatIndex, Nat.mul_comm table]

/-- Settles O10: the fields of the immediate give C_i and b, and the product of naturals modulo 2^64 is that of 64-bit words;
the sketch's counter is the same product with b = 16. -/
theorem hashesNumberTheSketch : Obligations.HashesNumberTheSketch := by
  unfold Obligations.HashesNumberTheSketch
  intro c
  have factors : ∀ i < 4, natAt hashFactors i = (c i).toNat := by decide
  refine ⟨fun s crew hand pc bay j h rd rs1 i b can hi hb1 hb64 => ?_,
    fun table row i _ _ hi => heatIndex_eq_hxHash hi table row, by decide, by decide, by decide⟩
  have value : hxHash (h.reg rs1) (64 * i + (b - 1)) = ((BitVec.ofNat 64 (h.reg rs1) * c i) >>> (64 - b)).toNat := by
    rw [hxHash_fields _ hi (by omega), factors i hi, toNat_ofNat_mul_ushiftRight, Nat.sub_add_cancel hb1]
  rw [exec_hxHash_can can rd rs1 (by omega), value]

end Sys2Proof.Machine

/-! hx.dedup: the mask of first occurrences, the last key and the order error (R286). -/

namespace Sys2Proof.Machine

/-- What hx.dedup compares element `i` with (R286): the step before's last key, if there is one, and then the element before. -/
def dedupPrev (key : Nat → Nat) (last state : Nat) : Nat → Nat × Bool
  | 0 => (last, bit state 0)
  | i + 1 => (key i, true)

/-- The mask bit of an element: it has nothing before it, or a key other than the one before. -/
def firstOccurrence (x : Nat × Nat × Bool) : Bool := !x.2.2 || x.1 != x.2.1

/-- Whether an element's key is below the one before. -/
def outOfOrder (x : Nat × Nat × Bool) : Bool := x.2.2 && decide (x.1 < x.2.1)

theorem outOfOrder_iff (x : Nat × Nat × Bool) : outOfOrder x = true ↔ x.2.2 = true ∧ x.1 < x.2.1 := by simp [outOfOrder]

/-- The elements of a step, each with what it is compared with. -/
def dedupPairs (n : Nat) (key : Nat → Nat) (last state : Nat) : List (Nat × Nat × Bool) :=
  items n fun i => (key i, dedupPrev key last state i)

theorem getLast?_items_succ (n : Nat) (key : Nat → Nat) : (items (n + 1) key).getLast? = some (key n) := by
  simp [items, List.range_succ]

theorem zip_prevs_eq_dedupPairs (n : Nat) (key : Nat → Nat) (last state : Nat) :
    (items n key).zip ((last, bit state 0) :: (items n key).map fun k => (k, true)) = dedupPairs n key last state := by
  refine List.ext_getElem (by simp [dedupPairs, items]) fun i _ _ => ?_
  cases i <;> simp [dedupPairs, items, dedupPrev]

/-- A sum of powers of two with ascending exponents has the bits of its exponents. -/
theorem testBit_foldl_two_pow {α : Type} {l : List (α × Nat)} (asc : (l.map Prod.snd).SortedLT) (i : Nat) :
    (l.foldl (fun m x => m + 2 ^ x.2) (0 : Nat)).testBit i = true ↔ i ∈ l.map Prod.snd := by
  have sum : l.foldl (fun m x => m + 2 ^ x.2) (0 : Nat) = ((l.map Prod.snd).map (2 ^ ·)).sum := by
    rw [List.sum_eq_foldl, List.map_map, List.foldl_map]; rfl
  rw [sum, ← Nat.mem_bitIndices, Nat.bitIndices_sum_map_two_pow asc]

/-- The mask of the elements of a list that satisfy `p`. -/
theorem testBit_mask {α : Type} (l : List α) (p : α → Bool) (i : Nat) :
    ((l.zipIdx.filter fun x => p x.1).foldl (fun m x => m + 2 ^ x.2) (0 : Nat)).testBit i = l[i]?.any p := by
  have asc : ((l.zipIdx.filter fun x => p x.1).map Prod.snd).SortedLT := by
    refine List.Pairwise.sortedLT (List.Pairwise.sublist (List.filter_sublist.map Prod.snd) ?_)
    rw [List.zipIdx_map_snd]
    exact List.pairwise_lt_range'
  rw [Bool.eq_iff_iff, testBit_foldl_two_pow asc, Option.any_eq_true]
  simp [List.mem_zipIdx_iff_getElem?]

/-- A step over no elements leaves the two registers as they are. -/
theorem hxDedup_zero (key : Nat → Nat) (last state : Nat) : hxDedup (items 0 key) last state = (0, last, state) := rfl

theorem hxDedup_succ (n : Nat) (key : Nat → Nat) (last state : Nat) : (hxDedup (items (n + 1) key) last state).2 =
    (key n, 1 + 2 * flag (bit state 1 || (dedupPairs (n + 1) key last state).any outOfOrder)) := by
  simp only [hxDedup, getLast?_items_succ, zip_prevs_eq_dedupPairs]
  rfl

theorem testBit_hxDedup_mask (n : Nat) (key : Nat → Nat) (last state i : Nat) :
    (hxDedup (items n key) last state).1.testBit i = (dedupPairs n key last state)[i]?.any firstOccurrence := by
  rw [← testBit_mask, ← zip_prevs_eq_dedupPairs, hxDedup]
  cases (items n key).getLast? <;> rfl

theorem getElem?_dedupPairs {n i : Nat} (hi : i < n) (key : Nat → Nat) (last state : Nat) :
    (dedupPairs n key last state)[i]? = some (key i, dedupPrev key last state i) := by
  simp [dedupPairs, items, hi]

/-- The mask of an element of the step: for the first one the comparison is with the step before. -/
theorem testBit_hxDedup_lt {n i : Nat} (hi : i < n) (key : Nat → Nat) (last state : Nat) :
    (hxDedup (items n key) last state).1.testBit i =
      if i = 0 then !(bit state 0) || key 0 != last else key i != key (i - 1) := by
  rw [testBit_hxDedup_mask, getElem?_dedupPairs hi]
  cases i <;> simp [firstOccurrence, dedupPrev]

/-- Past the step's elements the mask is clear. -/
theorem testBit_hxDedup_ge {n i : Nat} (hi : n ≤ i) (key : Nat → Nat) (last state : Nat) :
    (hxDedup (items n key) last state).1.testBit i = false := by
  rw [testBit_hxDedup_mask, List.getElem?_eq_none (by simpa [dedupPairs, items] using hi), Option.any_none]

/-- A key of the step is below the one before it: the first below the step before's last, or a later one below its neighbour. -/
theorem any_outOfOrder_iff (n : Nat) (key : Nat → Nat) (last state : Nat) :
    (dedupPairs (n + 1) key last state).any outOfOrder = true ↔
      (bit state 0 = true ∧ key 0 < last) ∨ ∃ i, 0 < i ∧ i < n + 1 ∧ key i < key (i - 1) := by
  have split : (dedupPairs (n + 1) key last state).any outOfOrder = true ↔
      ∃ i, i < n + 1 ∧ outOfOrder (key i, dedupPrev key last state i) = true := by
    simp [dedupPairs, items]
  rw [split]
  constructor
  · rintro ⟨_ | i, hi, h⟩
    · exact .inl (by simpa [outOfOrder_iff, dedupPrev] using h)
    · exact .inr ⟨i + 1, i.succ_pos, hi, by simpa [outOfOrder_iff, dedupPrev] using h⟩
  · rintro (h | ⟨_ | i, h0, hi, h⟩)
    · exact ⟨0, n.succ_pos, by simpa [outOfOrder_iff, dedupPrev] using h⟩
    · exact absurd h0 (lt_irrefl 0)
    · exact ⟨i + 1, hi, by simpa [outOfOrder_iff, dedupPrev] using h⟩

/-- hx_dedup_state as written: bit 0 is valid, bit 1 the order error. -/
theorem bit_dedupState (e : Bool) : bit (1 + 2 * flag e) 0 = true ∧ bit (1 + 2 * flag e) 1 = e := by
  cases e <;> decide

/-- After a step over some elements the registers hold its last key and that there is one; the order error stays set, and an
element out of order sets it. -/
theorem hxDedup_registers {n : Nat} (hn : 0 < n) (key : Nat → Nat) (last state : Nat) :
    let d := (hxDedup (items n key) last state).2
    d.1 = key (n - 1) ∧ bit d.2 0 = true ∧ (bit d.2 1 = true ↔ bit state 1 = true ∨ (bit state 0 = true ∧ key 0 < last) ∨
      ∃ i, 0 < i ∧ i < n ∧ key i < key (i - 1)) := by
  obtain ⟨n, rfl⟩ := Nat.exists_eq_add_one.2 hn
  obtain ⟨valid, order⟩ := bit_dedupState (bit state 1 || (dedupPairs (n + 1) key last state).any outOfOrder)
  rw [hxDedup_succ]
  exact ⟨rfl, valid, by rw [order, Bool.or_eq_true, any_outOfOrder_iff]⟩

/-- A hand that can execute hx.dedup runs its step. -/
theorem exec_hxDedup_can {s : State} {crew hand pc b : Nat} {j : Job} {h : Hand} (can : CanExecute s crew hand pc 4 b j h)
    (vd vs2 : Nat) : exec (.hxDedup crew hand pc vd vs2) s = .next ((s.at crew hand pc).runDedup crew hand pc h vd vs2) := by
  calc exec (.hxDedup crew hand pc vd vs2) s
      = s.onHand crew hand pc 4 fun _ _ h s => s.runDedup crew hand pc h vd vs2 := rfl
    _ = _ := onHand_can can _

/-- hx.dedup is illegal with vill set, a SEW other than 64, or a vd in the group of vs2. -/
theorem runDedup_illegal {h : Hand} {vd vs2 : Nat} (bad : h.vill = true ∨ h.sew ≠ 64 ∨ vs2 ≤ vd ∧ vd < vs2 + h.lmul)
    (u : State) (crew hand pc : Nat) : u.runDedup crew hand pc h vd vs2 = u.crewFault crew hand 1 pc 0 := by
  refine if_pos ?_
  obtain vill | sew | ⟨lo, hi⟩ := bad
  · simp [vill]
  · simp [sew]
  · simp [lo, hi]

/-- A legal hx.dedup writes the step's mask to vd and the step's last key and flags to the two registers. -/
theorem runDedup_legal {h : Hand} {vd vs2 : Nat} (vill : h.vill = false) (sew : h.sew = 64) (lmul : h.lmul ∈ [1, 2, 4, 8])
    (aligned : vs2 % h.lmul = 0) (apart : ¬(vs2 ≤ vd ∧ vd < vs2 + h.lmul)) (u : State) (crew hand pc : Nat) :
    u.runDedup crew hand pc h vd vs2 =
      let d := hxDedup (items h.vl (h.velem vs2)) h.dedupLast h.dedupState
      u.modHand crew hand fun h' =>
        { h' with v := h'.v.set (vd % 32) (d.1 % 2 ^ 256), dedupLast := d.2.1, dedupState := d.2.2 } := by
  refine if_neg ?_
  have width : [1, 2, 4, 8].contains h.lmul = true := List.contains_iff_mem.2 lmul
  rw [width]
  simpa [vill, sew, aligned] using apart

/-- Settles O11: the elements are paired with what they are compared with, and the mask, a sum of powers of two with ascending
exponents, has the bit of each element that differs from its predecessor. -/
theorem dedupMarksFirstOccurrences : Obligations.DedupMarksFirstOccurrences := by
  unfold Obligations.DedupMarksFirstOccurrences
  intro s crew hand pc b j h vd vs2 can u
  refine ⟨fun bad => ?_, fun vill sew lmul aligned apart => ?_⟩
  · rw [exec_hxDedup_can can, runDedup_illegal bad]
  · refine ⟨_, _, _, ?_, fun i hi => testBit_hxDedup_lt hi (h.velem vs2) _ _, fun i hi => testBit_hxDedup_ge hi (h.velem vs2) _ _, fun empty => ?_,
      fun nonempty => hxDedup_registers nonempty (h.velem vs2) _ _⟩
    · rw [exec_hxDedup_can can, runDedup_legal vill sew lmul aligned apart]
    · rw [empty, hxDedup_zero]
      exact ⟨rfl, rfl⟩

end Sys2Proof.Machine

/-! What every step keeps: the queue, the device whole, and, where nothing is stored, memory. -/

namespace Sys2Proof.Machine

/-- Every row keeps the queue of waiting commands and a whole state whole; one that stores nothing keeps memory as well. -/
theorem exec_keeps (c : Instr) (s : State) : KeepsOut (!mayStore c) s (exec c s) :=
  match c with
  | .sessionHello .. => execSessionHello_keeps (.refl s)
  | .sessionOpen .. => execSessionOpen_keeps (.refl s)
  | .sessionClose .. => execSessionClose_keeps (.refl s)
  | .heartbeat .. => execHeartbeat_keeps (.refl s)
  | .sessionReattach .. => execSessionReattach_keeps (.refl s)
  | .sessionQuery .. => execSessionQuery_keeps (.refl s)
  | .qpConnect .. => execQpConnect_keeps (.refl s)
  | .qpDestroy .. => execQpDestroy_keeps (.refl s)
  | .qpQuery .. => execQpQuery_keeps (.refl s)
  | .bayCreate .. => execBayCreate_keeps (.refl s)
  | .baySetShares .. => execBaySetShares_keeps (.refl s)
  | .baySetRegulators .. => execBaySetRegulators_keeps (.refl s)
  | .bayOpen .. => execBayOpen_keeps (.refl s)
  | .bayDrain .. => execBayDrain_keeps (.refl s)
  | .bayDestroy .. => execBayDestroy_keeps (.refl s)
  | .bayRekey .. => execBayRekey_keeps (.refl s)
  | .bayQuery .. => execBayQuery_keeps (.refl s)
  | .handLoad .. => execHandLoad_keeps (.refl s)
  | .handUnload .. => execHandUnload_keeps (.refl s)
  | .handBind .. => execHandBind_keeps (.refl s)
  | .handRun .. => execHandRun_keeps (.refl s)
  | .handQuery .. => execHandQuery_keeps (.refl s)
  | .tetherRegionReg .. => execTetherRegionReg_keeps (.refl s)
  | .tetherRegionDereg .. => execTetherRegionDereg_keeps (.refl s)
  | .tetherBiasSet .. => execTetherBiasSet_keeps (.refl s)
  | .tableCreate .. => execTableCreate_keeps (.refl s)
  | .tableDestroy .. => execTableDestroy_keeps (.refl s)
  | .tableQuery .. => execTableQuery_keeps (.refl s)
  | .dirWrite .. => execDirWrite_keeps (.refl s)
  | .dirRead .. => execDirRead_keeps (.refl s)
  | .rowWrite .. => execRowWrite_keeps (.refl s)
  | .rowRead .. => execRowRead_keeps (.refl s)
  | .defaultRowSet .. => execDefaultRowSet_keeps (.refl s)
  | .tierMigrate .. => execTierMigrate_keeps (.refl s)
  | .tierRebuild .. => execTierRebuild_keeps (.refl s)
  | .heatSnapshot .. => execHeatSnapshot_keeps (.refl s)
  | .heatRead .. => execHeatRead_keeps (.refl s)
  | .heatQuery .. => execHeatQuery_keeps (.refl s)
  | .hotsetPut .. => execHotsetPut_keeps (.refl s)
  | .hotsetDrop .. => execHotsetDrop_keeps (.refl s)
  | .hotsetSwap .. => execHotsetSwap_keeps (.refl s)
  | .hotsetQuery .. => execHotsetQuery_keeps (.refl s)
  | .hotsetHome .. => execHotsetHome_keeps (.refl s)
  | .hotsetConfig .. => execHotsetConfig_keeps (.refl s)
  | .runaheadConfig .. => execRunaheadConfig_keeps (.refl s)
  | .stageQuery .. => execStageQuery_keeps (.refl s)
  | .streamCreate .. => execStreamCreate_keeps (.refl s)
  | .streamAppend .. => execStreamAppend_keeps (.refl s)
  | .streamDestroy .. => execStreamDestroy_keeps (.refl s)
  | .streamStart .. => execStreamStart_keeps (.refl s)
  | .streamRearm .. => execStreamRearm_keeps (.refl s)
  | .streamQuery .. => execStreamQuery_keeps (.refl s)
  | .streamConfig .. => execStreamConfig_keeps (.refl s)
  | .tetherCopyIn .. => execTetherCopyIn_keeps (.refl s)
  | .tetherCopyOut .. => execTetherCopyOut_keeps (.refl s)
  | .sheafCancel .. => execSheafCancel_keeps (.refl s)
  | .poolSet .. => execPoolSet_keeps (.refl s)
  | .poolGet .. => execPoolGet_keeps (.refl s)
  | .wicketLookup .. => execWicketLookup_keeps (.refl s)
  | .ledgerQuery .. => execLedgerQuery_keeps (.refl s)
  | .ledgerSkip .. => execLedgerSkip_keeps (.refl s)
  | .ledgerConfig .. => execLedgerConfig_keeps (.refl s)
  | .optSet .. => execOptSet_keeps (.refl s)
  | .optGet .. => execOptGet_keeps (.refl s)
  | .epochQuery .. => execEpochQuery_keeps (.refl s)
  | .quantSetPolicy .. => execQuantSetPolicy_keeps (.refl s)
  | .quantSetScales .. => execQuantSetScales_keeps (.refl s)
  | .quantSetCodebook .. => execQuantSetCodebook_keeps (.refl s)
  | .quantSetSplit .. => execQuantSetSplit_keeps (.refl s)
  | .quantGetScales .. => execQuantGetScales_keeps (.refl s)
  | .quantReadSat .. => execQuantReadSat_keeps (.refl s)
  | .powerVote .. => execPowerVote_keeps (.refl s)
  | .powerRelease .. => execPowerRelease_keeps (.refl s)
  | .powerQuery .. => execPowerQuery_keeps (.refl s)
  | .powerConfig .. => execPowerConfig_keeps (.refl s)
  | .cclkSet .. => execCclkSet_keeps (.refl s)
  | .eventRead .. => execEventRead_keeps (.refl s)
  | .counterRead .. => execCounterRead_keeps (.refl s)
  | .sensorRead .. => execSensorRead_keeps (.refl s)
  | .deviceQuery .. => execDeviceQuery_keeps (.refl s)
  | .siloQuery .. => execSiloQuery_keeps (.refl s)
  | .loftQuery .. => execLoftQuery_keeps (.refl s)
  | .netPortQuery .. => execNetPortQuery_keeps (.refl s)
  | .linkQuery .. => execLinkQuery_keeps (.refl s)
  | .tetherQuery .. => execTetherQuery_keeps (.refl s)
  | .shardMapLoad .. => execShardMapLoad_keeps (.refl s)
  | .shardMapGet .. => execShardMapGet_keeps (.refl s)
  | .yokeSet .. => execYokeSet_keeps (.refl s)
  | .netPortSet .. => execNetPortSet_keeps (.refl s)
  | .netAddrSet .. => execNetAddrSet_keeps (.refl s)
  | .musterConfig .. => execMusterConfig_keeps (.refl s)
  | .musterQuery .. => execMusterQuery_keeps (.refl s)
  | .fabricSegment .. => execFabricSegment_keeps (.refl s)
  | .tetherRelaySet .. => execTetherRelaySet_keeps (.refl s)
  | .fwStage .. => execFwStage_keeps (.refl s)
  | .fwActivate .. => execFwActivate_keeps (.refl s)
  | .fwQuery .. => execFwQuery_keeps (.refl s)
  | .fwRollback .. => execFwRollback_keeps (.refl s)
  | .selftestRun .. => execSelftestRun_keeps (.refl s)
  | .selftestResult .. => execSelftestResult_keeps (.refl s)
  | .memScrubConfig .. => execMemScrubConfig_keeps (.refl s)
  | .loftPortSet .. => execLoftPortSet_keeps (.refl s)
  | .marginRun .. => execMarginRun_keeps (.refl s)
  | .marginResult .. => execMarginResult_keeps (.refl s)
  | .deviceReset .. => execDeviceReset_keeps (.refl s)
  | .adminRekey .. => execAdminRekey_keeps (.refl s)
  | .hatchRingWrite .. => execHatchRingWrite_keeps (.refl s)
  | .doorbell .. => execDoorbell_keeps (.refl s)
  | .holdRelease .. => execHoldRelease_keeps (.refl s)
  | .sheafDispatch .. => execSheafDispatch_keeps (.refl s)
  | .jobStart .. => execJobStart_keeps (.refl s)
  | .hxHash .. => execHxHash_keeps (.refl s)
  | .hxDwq .. => execHxDwq_keeps (.refl s)
  | .hxSwe .. => execHxSwe_keeps (.refl s)
  | .hxDedup .. => execHxDedup_keeps (.refl s)
  | .walkComplete .. => execWalkComplete_keeps (.refl s)
  | .ecallExit .. => execEcallExit_keeps (.refl s)
  | .ecallBarrier .. => execEcallBarrier_keeps (.refl s)
  | .ecallSectionDone .. => execEcallSectionDone_keeps (.refl s)
  | .ecallLog .. => execEcallLog_keeps (.refl s)
  | .handFault .. => execHandFault_keeps (.refl s)
  | .cycleBudgetExhausted .. => execCycleBudgetExhausted_keeps (.refl s)
  | .jobEnd .. => execJobEnd_keeps (.refl s)
  | .entryIssue .. => execEntryIssue_keeps (.refl s)
  | .readCompletion .. => execReadCompletion_keeps (.refl s)
  | .contextRunning .. => execContextRunning_keeps (.refl s)
  | .pass .. => execPass_keeps (.refl s)
  | .passWriteback .. => execPassWriteback_keeps (.refl s)
  | .allot .. => execAllot_keeps (.refl s)
  | .tileSwap .. => execTileSwap_keeps (.refl s)
  | .drainSlice .. => execDrainSlice_keeps (.refl s)
  | .redo .. => execRedo_keeps (.refl s)
  | .resultPlacement .. => execResultPlacement_keeps (.refl s)
  | .completionRecord .. => execCompletionRecord_keeps (.refl s)
  | .matrixJobDone .. => execMatrixJobDone_keeps (.refl s)
  | .tally .. => execTally_keeps (.refl s)
  | .flailTake .. => execFlailTake_keeps (.refl s)
  | .flailReadDone .. => execFlailReadDone_keeps (.refl s)
  | .flailWriteDone .. => execFlailWriteDone_keeps (.refl s)
  | .updateAcknowledge .. => execUpdateAcknowledge_keeps (.refl s)
  | .ledgerContrib .. => execLedgerContrib_keeps (.refl s)
  | .ledgerAckSend .. => execLedgerAckSend_keeps (.refl s)
  | .ledgerAck .. => execLedgerAck_keeps (.refl s)
  | .ledgerRetransmit .. => execLedgerRetransmit_keeps (.refl s)
  | .barrierTimeout .. => execBarrierTimeout_keeps (.refl s)
  | .endToEndTimeout .. => execEndToEndTimeout_keeps (.refl s)
  | .lateCompletion .. => execLateCompletion_keeps (.refl s)
  | .quarantineEnd .. => execQuarantineEnd_keeps (.refl s)
  | .stallWatchdog .. => execStallWatchdog_keeps (.refl s)
  | .spillReload .. => execSpillReload_keeps (.refl s)
  | .wicketParse .. => execWicketParse_keeps (.refl s)
  | .bypassFold .. => execBypassFold_keeps (.refl s)
  | .wicketResult .. => execWicketResult_keeps (.refl s)
  | .urgentMessage .. => execUrgentMessage_keeps (.refl s)
  | .vcpDatagram .. => execVcpDatagram_keeps (.refl s)
  | .vcpSend .. => execVcpSend_keeps (.refl s)
  | .rdmaRead .. => execRdmaRead_keeps (.refl s)
  | .rdmaAck .. => execRdmaAck_keeps (.refl s)
  | .qpRetryTimeout .. => execQpRetryTimeout_keeps (.refl s)
  | .qpError .. => execQpError_keeps (.refl s)
  | .cnpReceive .. => execCnpReceive_keeps (.refl s)
  | .rateIncrease .. => execRateIncrease_keeps (.refl s)
  | .ceMarkedPacket .. => execCeMarkedPacket_keeps (.refl s)
  | .pfcFrame .. => execPfcFrame_keeps (.refl s)
  | .pfcXoff .. => execPfcXoff_keeps (.refl s)
  | .netPfcStorm .. => execNetPfcStorm_keeps (.refl s)
  | .preemptVerify .. => execPreemptVerify_keeps (.refl s)
  | .frameReceive .. => execFrameReceive_keeps (.refl s)
  | .netLinkChange .. => execNetLinkChange_keeps (.refl s)
  | .leaseExpiry .. => execLeaseExpiry_keeps (.refl s)
  | .holdExpiry .. => execHoldExpiry_keeps (.refl s)
  | .nonceExpiry .. => execNonceExpiry_keeps (.refl s)
  | .announce .. => execAnnounce_keeps (.refl s)
  | .decide .. => execDecide_keeps (.refl s)
  | .musterMessage .. => execMusterMessage_keeps (.refl s)
  | .admitTimeout .. => execAdmitTimeout_keeps (.refl s)
  | .rosterPeriod .. => execRosterPeriod_keeps (.refl s)
  | .musterNodeLost .. => execMusterNodeLost_keeps (.refl s)
  | .rosterSilence .. => execRosterSilence_keeps (.refl s)
  | .musterDupId .. => execMusterDupId_keeps (.refl s)
  | .dupIdBackoff .. => execDupIdBackoff_keeps (.refl s)
  | .flitGroupReceive .. => execFlitGroupReceive_keeps (.refl s)
  | .linkNak .. => execLinkNak_keeps (.refl s)
  | .replayTimeout .. => execReplayTimeout_keeps (.refl s)
  | .retryBudgetExhausted .. => execRetryBudgetExhausted_keeps (.refl s)
  | .retrainDone .. => execRetrainDone_keeps (.refl s)
  | .ridgeLost .. => execRidgeLost_keeps (.refl s)
  | .yokeTrain .. => execYokeTrain_keeps (.refl s)
  | .yokeDown .. => execYokeDown_keeps (.refl s)
  | .readReq .. => execReadReq_keeps (.refl s)
  | .readResp .. => execReadResp_keeps (.refl s)
  | .poolReq .. => execPoolReq_keeps (.refl s)
  | .poolResp .. => execPoolResp_keeps (.refl s)
  | .fabricError .. => execFabricError_keeps (.refl s)
  | .pathFailure .. => execPathFailure_keeps (.refl s)
  | .reassemblyTimeout .. => execReassemblyTimeout_keeps (.refl s)
  | .mapVersionRetire .. => execMapVersionRetire_keeps (.refl s)
  | .bar2Write .. => execBar2Write_keeps (.refl s)
  | .tthDoorbell .. => execTthDoorbell_keeps (.refl s)
  | .tthEvent .. => execTthEvent_keeps (.refl s)
  | .tthCounterRead .. => execTthCounterRead_keeps (.refl s)
  | .tthBadAccess off _ => execTthBadAccess_keeps (x0 := off) (.refl s)
  | .bar2Read .. => execBar2Read_keeps (.refl s)
  | .tthMboxSubmit .. => execTthMboxSubmit_keeps (.refl s)
  | .tthMboxStatus .. => execTthMboxStatus_keeps (.refl s)
  | .mailboxTake .. => execMailboxTake_keeps (.refl s)
  | .mailboxResponse .. => execMailboxResponse_keeps (.refl s)
  | .registerWrite .. => execRegisterWrite_keeps (.refl s)
  | .vectorModerationTimer .. => execVectorModerationTimer_keeps (.refl s)
  | .hostReadCompletion .. => execHostReadCompletion_keeps (.refl s)
  | .hostSnoop addr => execHostSnoop_keeps (x0 := addr) (.refl s)
  | .relayPoll .. => execRelayPoll_keeps (.refl s)
  | .relaySend .. => execRelaySend_keeps (.refl s)
  | .relayAlive .. => execRelayAlive_keeps (.refl s)
  | .tetherReset .. => execTetherReset_keeps (.refl s)
  | .tetherAttach .. => execTetherAttach_keeps (.refl s)
  | .windowBoundary .. => execWindowBoundary_keeps (.refl s)
  | .drainEnd .. => execDrainEnd_keeps (.refl s)
  | .drainTimeout .. => execDrainTimeout_keeps (.refl s)
  | .zeroisationEnd .. => execZeroisationEnd_keeps (.refl s)
  | .tableOverwrite .. => execTableOverwrite_keeps (.refl s)
  | .granuleRelease .. => execGranuleRelease_keeps (.refl s)
  | .rebuildQuiesced .. => execRebuildQuiesced_keeps (.refl s)
  | .rebuildResume .. => execRebuildResume_keeps (.refl s)
  | .halfRetired .. => execHalfRetired_keeps (.refl s)
  | .hotsetRefreshDue .. => execHotsetRefreshDue_keeps (.refl s)
  | .runaheadScan .. => execRunaheadScan_keeps (.refl s)
  | .stagingComplete .. => execStagingComplete_keeps (.refl s)
  | .siloTemperature .. => execSiloTemperature_keeps (.refl s)
  | .throttleFall .. => execThrottleFall_keeps (.refl s)
  | .siloLost .. => execSiloLost_keeps (.refl s)
  | .siloUe .. => execSiloUe_keeps (.refl s)
  | .scrub .. => execScrub_keeps (.refl s)
  | .loftDown .. => execLoftDown_keeps (.refl s)
  | .loftRetrain .. => execLoftRetrain_keeps (.refl s)
  | .loftDevload .. => execLoftDevload_keeps (.refl s)
  | .loftPoison .. => execLoftPoison_keeps (.refl s)
  | .loftEventPoll .. => execLoftEventPoll_keeps (.refl s)
  | .loftUnitReclaimed .. => execLoftUnitReclaimed_keeps (.refl s)
  | .hysteresisExpiry .. => execHysteresisExpiry_keeps (.refl s)
  | .entryCommit .. => execEntryCommit_keeps (.refl s)
  | .wakeLatch .. => execWakeLatch_keeps (.refl s)
  | .pwrOk .. => execPwrOk_keeps (.refl s)
  | .pllLock .. => execPllLock_keeps (.refl s)
  | .memOk .. => execMemOk_keeps (.refl s)
  | .logicOk .. => execLogicOk_keeps (.refl s)
  | .knock .. => execKnock_keeps (.refl s)
  | .listenFrame .. => execListenFrame_keeps (.refl s)
  | .falseWake .. => execFalseWake_keeps (.refl s)
  | .lanternTimer .. => execLanternTimer_keeps (.refl s)
  | .clockRefLost .. => execClockRefLost_keeps (.refl s)
  | .clockRefOk .. => execClockRefOk_keeps (.refl s)
  | .refHoldoverExpiry .. => execRefHoldoverExpiry_keeps (.refl s)
  | .dieTemperature .. => execDieTemperature_keeps (.refl s)
  | .dieThermtrip .. => execDieThermtrip_keeps (.refl s)
  | .powerOnReset .. => execPowerOnReset_keeps (.refl s)
  | .modResetN .. => execModResetN_keeps (.refl s)
  | .lanWdog .. => execLanWdog_keeps (.refl s)
  | .stewardWatchdog .. => execStewardWatchdog_keeps (.refl s)
  | .stewardResume .. => execStewardResume_keeps (.refl s)
  | .lanternFailsafe .. => execLanternFailsafe_keeps (.refl s)
  | .failsafeRetry .. => execFailsafeRetry_keeps (.refl s)
  | .mtwAddress .. => execMtwAddress_keeps (.refl s)
  | .mtwReq .. => execMtwReq_keeps (.refl s)
  | .mtwResponse .. => execMtwResponse_keeps (.refl s)
  | .mtwQuickWrite .. => execMtwQuickWrite_keeps (.refl s)
  | .mtwSetPointer .. => execMtwSetPointer_keeps (.refl s)
  | .smbusTimeout .. => execSmbusTimeout_keeps (.refl s)
  | .alertResponse .. => execAlertResponse_keeps (.refl s)
  | .ltwTransfer .. => execLtwTransfer_keeps (.refl s)
  | .ltwArbStop .. => execLtwArbStop_keeps (.refl s)
  | .ltwBusStuck .. => execLtwBusStuck_keeps (.refl s)
  | .uartByte .. => execUartByte_keeps (.refl s)
  | .uartBreak .. => execUartBreak_keeps (.refl s)
  | .consoleStatus .. => execConsoleStatus_keeps (.refl s)
  | .consoleEvents .. => execConsoleEvents_keeps (.refl s)
  | .consoleLevel .. => execConsoleLevel_keeps (.refl s)
  | .consoleBaud .. => execConsoleBaud_keeps (.refl s)
  | .sensorPoll .. => execSensorPoll_keeps (.refl s)
  | .fanFault .. => execFanFault_keeps (.refl s)
  | .packagePowerLimit .. => execPackagePowerLimit_keeps (.refl s)
  | .powerCeilingRaise .. => execPowerCeilingRaise_keeps (.refl s)
  | .eventSuppressed .. => execEventSuppressed_keeps (.refl s)
  | .matedNDebounce .. => execMatedNDebounce_keeps (.refl s)
  | .rampComplete .. => execRampComplete_keeps (.refl s)
  | .railPowerGood .. => execRailPowerGood_keeps (.refl s)
  | .hotswapFault .. => execHotswapFault_keeps (.refl s)
  | .moduleInputFault .. => execModuleInputFault_keeps (.refl s)
  | .attnN .. => execAttnN_keeps (.refl s)
  | .parkWaitEnd .. => execParkWaitEnd_keeps (.refl s)
  | .surpriseRemoval .. => execSurpriseRemoval_keeps (.refl s)
  | .bootRom .. => execBootRom_keeps (.refl s)
  | .bootPhase .. => execBootPhase_keeps (.refl s)
  | .bootComplete .. => execBootComplete_keeps (.refl s)
  | .loftUnitZeroed .. => execLoftUnitZeroed_keeps (.refl s)
  | .trialConfirmed .. => execTrialConfirmed_keeps (.refl s)
  | .trialFailed .. => execTrialFailed_keeps (.refl s)
  | .selftestDone .. => execSelftestDone_keeps (.refl s)
  | .marginDone .. => execMarginDone_keeps (.refl s)
  | .pluggableInsertion .. => execPluggableInsertion_keeps (.refl s)
  | .pfcRepeat .. => execPfcRepeat_keeps (.refl s)
  | .pfcPauseExpiry .. => execPfcPauseExpiry_keeps (.refl s)
  | .responderAckDeadline .. => execResponderAckDeadline_keeps (.refl s)
  | .spanMessage .. => execSpanMessage_keeps (.refl s)
  | .gateEnd .. => execGateEnd_keeps (.refl s)
  | .cclkPhaseEnd .. => execCclkPhaseEnd_keeps (.refl s)
  | .stewardException .. => execStewardException_keeps (.refl s)
  | .standbyLoss .. => execStandbyLoss_keeps (.refl s)
  | .railDown .. => execRailDown_keeps (.refl s)
  | .uartTransmit .. => execUartTransmit_keeps (.refl s)
  | .handInstruction .. => execHandInstruction_keeps (.refl s)
  | .clflushComplete .. => execClflushComplete_keeps (.refl s)
  | .writeCompletion .. => execWriteCompletion_keeps (.refl s)
/-- What waits plays no part in being whole. -/
theorem Intact.withPending {s : State} (h : Intact s) (rest : List Instr) : Intact { s with pending := rest } :=
  ⟨h.mem, h.bays, h.crews, h.threshers, h.silos, h.lofts, h.ports, h.links, h.domains⟩

/-- Settles O2: an empty queue's step is a clock period, any other is the front command, and both keep a whole state whole. -/
theorem stepKeepsTheDeviceWhole : Obligations.StepKeepsTheDeviceWhole := by
  unfold Obligations.StepKeepsTheDeviceWhole
  intro s t whole h
  unfold step at h
  split at h
  · cases h
    exact (State.tick_keeps (.refl s)).intact whole
  · next c rest _ => exact ((exec_keeps c _).next_keeps t h).intact (whole.withPending rest)

/-- Settles O4. -/
theorem commandsLeaveTheQueue : Obligations.CommandsLeaveTheQueue := by
  unfold Obligations.CommandsLeaveTheQueue
  intro c s t h
  exact ((exec_keeps c s).next_keeps t h).pending

/-- Settles O1, by the definition of a step. -/
theorem stepRunsTheFrontCommand : Obligations.StepRunsTheFrontCommand := by
  unfold Obligations.StepRunsTheFrontCommand
  refine ⟨fun c rest s => rfl, fun s empty => ?_⟩
  unfold step
  rw [empty]

/-- The state after reset is whole. -/
theorem intact_reset : Intact State.reset := by
  constructor <;> decide

/-- Settles O3: no byte is listed, so each reads as one that nobody has written. -/
theorem resetIsWhole : Obligations.ResetIsWhole := by
  unfold Obligations.ResetIsWhole
  exact ⟨intact_reset, rfl, fun a owner die addr => read_one State.reset a owner die addr⟩

/-- Every bay after reset is an ABSENT one. -/
theorem bay_reset (b : Nat) : State.reset.bay b = Bay.absent := by
  simp only [State.bay, State.reset, List.getD_eq_getElem?_getD, List.getElem?_replicate]
  split <;> rfl

/-- Settles O9: the state after reset is written out, so that each unit is looked up in it. -/
theorem resetLeavesNothingAllocated : Obligations.ResetLeavesNothingAllocated := by
  unfold Obligations.ResetLeavesNothingAllocated
  intro s
  have yokes : ∀ i < 5, 1 ≤ i → (s.link i).state.carries = false := by decide
  have lofts : ∀ k < 4, (s.loft k).state = .absent := by decide
  refine ⟨fun b => ?_, rfl, rfl, fun b n => ?_, rfl, rfl, rfl, fun i lo hi => yokes i (by omega) lo, fun k hk => lofts k (by omega),
    fun x hx => ?_, rfl, fun x hx => List.eq_of_mem_replicate hx⟩
  · rw [State.bayState, bay_reset]
    rfl
  · rw [State.table, bay_reset]
    rfl
  · rw [List.eq_of_mem_replicate hx]
    rfl

end Sys2Proof.Machine

/-! Which rows answer, what memory reads after a write, and what a row may change of it. -/

namespace Sys2Proof.Machine

/-- The rows of the hands look at no length: on a crew without a job a word of any length changes nothing. -/
theorem exec_handInstruction_any_len (len : Nat) :
    exec (.handInstruction 0 0 0 ⟨len, 0, 0, [], .nothing⟩) State.reset = .next State.reset := rfl

/-- Refutes O5: the check of well-formedness asks a word's length, which is no unit of the device, and exec does not: an instruction
of 3 bytes completes where the statement has it stop with the fault. -/
theorem not_wellFormedCommandsComplete : ¬ Obligations.WellFormedCommandsComplete := by
  unfold Obligations.WellFormedCommandsComplete
  intro h
  have faults := (h (.handInstruction 0 0 0 ⟨3, 0, 0, [], .nothing⟩) State.reset).2 rfl
  rw [exec_handInstruction_any_len] at faults
  cases faults

/-- A byte of an area after a write of an area's bytes. -/
theorem memGet_write {s : State} {a a' : Area} {owner die addr owner' die' x : Nat} {data : List Byte} (wf : Memory.wf s.mem = true)
    (ho : owner < 256) (hd : die < 2) (fit : addr + data.length ≤ 2 ^ 60) (ho' : owner' < 256) (hd' : die' < 2) (hx : x < 2 ^ 60) :
    memGet (s.write a owner die addr data).mem (memKey a' owner' die' x) =
      if a' = a ∧ owner' = owner ∧ die' = die ∧ addr ≤ x ∧ x < addr + data.length then data.getD (x - addr) 0
      else memGet s.mem (memKey a' owner' die' x) := by
  cases data with
  | nil => rw [if_neg (by simp only [List.length_nil]; omega)]; rfl
  | cons b l =>
    have start : addr < 2 ^ 60 := by simp only [List.length_cons] at fit; omega
    have among := memKey_mem (a := a) (a' := a') (n := (b :: l).length) ho hd start ho' hd' hx fit
    rw [State.write, memGet_memSets wf, if_congr among rfl rfl]
    split
    · next h =>
      obtain ⟨rfl, rfl, rfl, -, -⟩ := h
      rw [memKey_eq ho hd start, memKey_eq ho hd hx, Nat.add_sub_add_left]
    · rfl

/-- Bytes written to an area read back. -/
theorem read_write_same {s : State} {a : Area} {owner die addr : Nat} {data : List Byte} (wf : Memory.wf s.mem = true)
    (ho : owner < 256) (hd : die < 2) (fit : addr + data.length ≤ 2 ^ 60) :
    (s.write a owner die addr data).read a owner die addr data.length = data := by
  refine List.ext_getElem (by simp [State.read, items]) fun i hi hi' => ?_
  simp only [State.read, items, List.getElem_map, List.getElem_range]
  rw [memGet_write wf ho hd fit ho hd (by omega), if_pos ⟨rfl, rfl, rfl, by omega, by omega⟩, Nat.add_sub_cancel_left,
    List.getD_eq_getElem _ _ hi']

/-- A byte outside those written reads as before. -/
theorem read_write_other {s : State} {a a' : Area} {owner die addr owner' die' x : Nat} {data : List Byte} (wf : Memory.wf s.mem = true)
    (ho : owner < 256) (hd : die < 2) (fit : addr + data.length ≤ 2 ^ 60) (ho' : owner' < 256) (hd' : die' < 2) (hx : x < 2 ^ 60)
    (out : ¬(a' = a ∧ owner' = owner ∧ die' = die ∧ addr ≤ x ∧ x < addr + data.length)) :
    (s.write a owner die addr data).read a' owner' die' x 1 = s.read a' owner' die' x 1 := by
  rw [read_one, read_one, memGet_write wf ho hd fit ho' hd' hx, if_neg out]

/-- Settles O6. -/
theorem memoryReadsWhatWasWritten : Obligations.MemoryReadsWhatWasWritten := by
  unfold Obligations.MemoryReadsWhatWasWritten
  intro s a owner die addr data wf ho hd fit
  exact ⟨read_write_same wf ho hd fit, fun a' owner' die' x ho' hd' hx out => read_write_other wf ho hd fit ho' hd' hx out⟩

/-- Whether a state's memory is another's, but for bytes it may have stored in a bay's ring. -/
def StoresRing (s t : State) (b off : Nat) (data : List Byte) : Prop := t.mem = s.mem ∨ t.mem = (s.write .ring b 0 off data).mem

/-- What leaves memory as it is stores nothing in a ring. -/
theorem Keeps.storesRing {s t : State} (h : Keeps true s t) (b off : Nat) (data : List Byte) : StoresRing s t b off data := .inl (h.mem rfl)

/-- Operations that leave memory as it is may follow. -/
theorem StoresRing.trans {s t u : State} {b off : Nat} {data : List Byte} (h : StoresRing s t b off data) (k : Keeps true t u) :
    StoresRing s u b off data := by
  rw [StoresRing, k.mem rfl]
  exact h

/-- Bytes placed in a bay's ring are stored there. -/
theorem storesRing_placeRing (s : State) (b off : Nat) (data : List Byte) : StoresRing s (s.placeRing b off data) b off data := by
  unfold State.placeRing
  split
  · exact .inl rfl
  · exact .inr ((State.count_keeps (State.count_keeps (State.chargeDebt_keeps (.refl (km := true) _)))).mem rfl)

/-- What of the rest of memory reads as before. -/
theorem StoresRing.read_other {s t : State} {b off : Nat} {data : List Byte} (h : StoresRing s t b off data) (wf : Memory.wf s.mem = true)
    (hb : b ≤ 15) (fit : off + data.length ≤ 2 ^ 60) {a : Area} {owner die x : Nat} (ho : owner < 256) (hd : die < 2) (hx : x < 2 ^ 60)
    (out : ¬(a = .ring ∧ owner = b ∧ die = 0 ∧ off ≤ x ∧ x < off + data.length)) : t.read a owner die x 1 = s.read a owner die x 1 := by
  obtain same | stored := h
  · exact read_of_mem same a owner die x 1
  · rw [read_of_mem stored]
    exact read_write_other wf (by omega) (by omega) fit ho hd hx out

/-- A BAR2 write stores its bytes in its bay's ring, or nothing. -/
theorem bar2Write_storesRing {s t : State} {b off : Nat} {data : List Byte} (h : exec (.bar2Write b off data) s = .next t) :
    StoresRing s t b off data := by
  simp only [exec, execBar2Write] at h
  split at h
  · cases h
  · injection h with h
    subst h
    split
    · exact (Keeps.refl s).storesRing b off data
    · split
      · exact (State.tthEvent_keeps (State.tthCount_keeps (.refl s))).storesRing b off data
      · exact storesRing_placeRing s b off data

/-- A WRITE by RDMA stores its bytes in its bay's ring, or nothing. -/
theorem hatchRingWrite_storesRing {s t : State} {qpn key b off : Nat} {data : List Byte}
    (bay : ∀ q b', s.hatchOf qpn = some (q, b') → b' = b) (h : exec (.hatchRingWrite qpn key off data) s = .next t) :
    StoresRing s t b off data := by
  simp only [exec, execHatchRingWrite] at h
  injection h with h
  subst h
  split
  · exact (Keeps.refl s).storesRing b off data
  · next q b' e =>
    obtain rfl := bay q b' e
    split
    · exact (storesRing_placeRing s b' off data).trans (State.received_keeps (.refl _))
    · split
      · exact (State.ringWord_keeps (.refl s)).storesRing b' off data
      · exact (State.sendNak_keeps (.refl s)).storesRing b' off data

/-- A WRITE with Immediate stores its bytes in its bay's ring, or nothing. -/
theorem doorbellImm_storesRing {s t : State} {qpn key b off value : Nat} {data : List Byte}
    (bay : ∀ q b', s.hatchOf qpn = some (q, b') → b' = b) (h : exec (.doorbell (.imm qpn key off data value)) s = .next t) :
    StoresRing s t b off data := by
  simp only [exec, execDoorbell] at h
  injection h with h
  subst h
  split
  · exact (Keeps.refl s).storesRing b off data
  · next q b' e =>
    obtain rfl := bay q b' e
    split
    · exact (State.sendNak_keeps (.refl s)).storesRing b' off data
    · split
      · exact (State.sendNak_keeps (State.countFull_keeps (.refl s))).storesRing b' off data
      · exact (storesRing_placeRing s b' off data).trans (State.ring_keeps (State.received_keeps (.refl _)))

/-- Settles O7: a row that stores nothing keeps memory, and each of the three writes stores its bytes in the ring or nothing. -/
theorem storesChangeOnlyTheirBytes : Obligations.StoresChangeOnlyTheirBytes := by
  unfold Obligations.StoresChangeOnlyTheirBytes
  refine ⟨fun c s t quiet h a owner die x => ?_, fun s t b off data wf hb fit h a owner die x ho hd hx out => ?_⟩
  · exact read_of_mem (((exec_keeps c s).next_keeps t h).mem (by rw [quiet]; rfl)) a owner die x 1
  · have stores : StoresRing s t b off data := by
      obtain h | ⟨qpn, key, bay, h | ⟨value, h⟩⟩ := h
      · exact bar2Write_storesRing h
      · exact hatchRingWrite_storesRing bay h
      · exact doorbellImm_storesRing bay h
    exact stores.read_other wf hb fit ho hd hx out

end Sys2Proof.Machine

/-! The first ten checks of a request, in the order of R586. -/

namespace Sys2Proof.Machine

/-- A command found by its opcode has that opcode. -/
theorem specFor_op {op : Nat} {spec : CmdSpec} (h : specFor op = some spec) : spec.op = op := by
  simpa using List.find?_some h

/-- A check of the header that fails is the answer. -/
theorem firstChecks_head {s : State} {r : Req} {x : Check}
    (h : checkHead (fun op => s.bootRomDenies op || (specFor op).isSome) r = some x) : s.firstChecks r = x := by
  unfold State.firstChecks
  rw [h]

/-- A request whose header passes goes on with the checks of its command. -/
theorem firstChecks_known {s : State} {r : Req} {spec : CmdSpec}
    (h : checkHead (fun op => s.bootRomDenies op || (specFor op).isSome) r = none) (rom : s.bootRomDenies (headerOf r.msg).op = false)
    (known : specFor (headerOf r.msg).op = some spec) : s.firstChecks r = checkKnown s spec r := by
  unfold State.firstChecks
  simp only [h, rom, known, Bool.false_eq_true, if_false]

/-! ### Steps 1 to 4 -/

section
variable {known : Nat → Bool} {r : Req}

theorem checkHead_length (h : r.msg.length ≠ 16 + (headerOf r.msg).len ∨ 4096 < r.msg.length) :
    checkHead known r = some (failWith .badLength 0x8006) :=
  if_pos (by simpa using h)

variable (len : r.msg.length = 16 + (headerOf r.msg).len) (fits : r.msg.length ≤ 4096)
include len fits

theorem checkHead_version (h1 : (headerOf r.msg).version ≠ 1) (h2 : (headerOf r.msg).version ≠ 2) :
    checkHead known r = some (.fail ⟨.version, 0, [1, 2]⟩) := by
  unfold checkHead
  rw [if_neg (by simp [len]; omega), if_pos (by simp [h1, h2])]

theorem checkHead_fabricVersion (h1 : (headerOf r.msg).version = 1) (h2 : (headerOf r.msg).op / 256 = 0x0B) :
    checkHead known r = some (failWith .version 0) := by
  unfold checkHead
  rw [if_neg (by simp [len]; omega), if_neg (by simp [h1]), if_pos (by simp [h1, h2])]

variable (version : (headerOf r.msg).version = 2 ∨ (headerOf r.msg).version = 1 ∧ (headerOf r.msg).op / 256 ≠ 0x0B)
include version

/-- With a sound length and version the flags and then the opcode decide. -/
theorem checkHead_sound : checkHead known r =
    if 8 ≤ (headerOf r.msg).flags then some (failWith .range 0x8001)
    else if known (headerOf r.msg).op then none else some (failWith .badOpcode 0) := by
  have flags : (headerOf r.msg).flags / 8 ≠ 0 ↔ 8 ≤ (headerOf r.msg).flags := by omega
  unfold checkHead
  rw [if_neg (by simp [len]; omega), if_neg (by obtain h | ⟨h, -⟩ := version <;> simp [h]),
    if_neg (by obtain h | ⟨h, h'⟩ := version <;> simp [*]), if_congr flags rfl rfl]
  cases known (headerOf r.msg).op <;> rfl

end

/-! ### Steps 5 to 7 -/

/-- A transport that the command does not allow is DENIED (R598 to R600). -/
theorem checkKnown_transport {s : State} {spec : CmdSpec} {r : Req} (h : transportOk spec r = false) :
    checkKnown s spec r = failWith .denied 0 := by
  unfold checkKnown
  rw [h]
  rfl

/-- A session that fails its check gives the answer. -/
theorem checkKnown_session {s : State} {spec : CmdSpec} {r : Req} {st : Status} {d : Nat} (transport : transportOk spec r = true)
    (h : checkSession s spec r (headerOf r.msg) = failWith st d) : checkKnown s spec r = failWith st d := by
  unfold checkKnown
  simp only [transport, h]
  rfl

/-- A session that passes leaves the binding to be checked, and then the rest. -/
theorem checkKnown_bound {s : State} {spec : CmdSpec} {r : Req} {c : Caller} (transport : transportOk spec r = true)
    (h : checkSession s spec r (headerOf r.msg) = .pass c) :
    checkKnown s spec r = match checkBinding s r (headerOf r.msg) c with
      | .pass c => checkTail s spec r c
      | x => x := by
  unfold checkKnown
  simp only [transport, h]
  rfl

/-- Over the management bus a session is no session (R599). -/
theorem checkSession_mtw {s : State} {spec : CmdSpec} {r : Req} {h : Header} (via : r.via = .mtw) (handle : h.handle ≠ 0) :
    checkSession s spec r h = failWith .stale 0 := by
  unfold checkSession
  rw [via]
  exact if_neg handle

/-- On another carrier a session is asked for, but by the commands that open one. -/
theorem checkSession_none {s : State} {spec : CmdSpec} {r : Req} {h : Header} (via : r.via ≠ .mtw) (handle : h.handle = 0)
    (asks : spec.handle0 = false) : checkSession s spec r h = failWith .stale 0 := by
  unfold checkSession
  split
  · next e => exact absurd e via
  · rw [if_pos handle, asks]
    rfl

/-- A session that is not there, or is neither open nor one that SESSION_REATTACH may name, is stale (R502, R504). -/
theorem checkSession_stale {s : State} {spec : CmdSpec} {r : Req} {h : Header} (via : r.via ≠ .mtw) (handle : h.handle ≠ 0)
    (stale : ∀ x, s.session h.handle = some x →
      ¬(x.state = .opened ∧ s.dev.now < x.expiry) ∧ ¬(spec.op = 0x0105 ∧ x.state ≠ .ended)) :
    checkSession s spec r h = failWith .stale 0 := by
  unfold checkSession
  split
  · next e => exact absurd e via
  · rw [if_neg handle]
    split
    · rfl
    · next x e =>
      obtain ⟨closed, other⟩ := stale x e
      exact if_neg (by simpa using ⟨fun a => by simpa [a] using closed, by simpa using other⟩)

/-! ### Step 7: the binding -/

theorem checkBinding_send {s : State} {r : Req} {h : Header} {c : Caller} {qpn : Nat} (via : r.via = .send qpn) (handle : h.handle ≠ 0)
    (other : ∀ q, s.qp qpn = some q → q.session ≠ h.handle) : checkBinding s r h c = failWith .denied 0 := by
  unfold checkBinding
  rw [via]
  simp only [if_neg handle]
  refine if_neg ?_
  cases e : s.qp qpn with
  | none => simp
  | some q => simpa using other q e

theorem checkBinding_mailbox {s : State} {r : Req} {h : Header} {c : Caller} {m : Nat} (via : r.via = .mailbox m) (handle : h.handle ≠ 0)
    (other : (s.box m).bind Mailbox.session ≠ some h.handle) : checkBinding s r h c = failWith .denied 0 := by
  unfold checkBinding
  rw [via]
  simp only [if_neg handle, if_neg other]

theorem checkBinding_udp {s : State} {r : Req} {h : Header} {c : Caller} {a b p : Nat} {src : NetAddr} (via : r.via = .udp a b src p)
    (handle : h.handle ≠ 0) (other : (s.session h.handle).bind Session.udp ≠ some (src, p)) :
    checkBinding s r h c = .discard 2 := by
  unfold checkBinding
  rw [via]
  simp only [if_neg handle, if_neg other]

/-- A binding that passes leaves the caller as it is. -/
theorem checkBinding_caller {s : State} {r : Req} {h : Header} {c c' : Caller} (pass : checkBinding s r h c = .pass c') : c' = c := by
  unfold checkBinding at pass
  split at pass <;> (try split_ifs at pass) <;> cases pass <;> rfl

/-! ### Steps 8 to 10 -/

theorem checkBay_noBay {s : State} {spec : CmdSpec} {h : Header} {c : Caller} {p : List Byte} (names : h.bay ≠ 0xFFFF)
    (absent : 15 < h.bay ∨ s.bayState h.bay = .absent) : checkBay s spec h c p = failWith .noBay 0 :=
  if_pos (by simpa [names] using absent)

theorem checkBay_denied {s : State} {spec : CmdSpec} {h : Header} {c : Caller} {p : List Byte}
    (there : h.bay = 0xFFFF ∨ h.bay ≤ 15 ∧ s.bayState h.bay ≠ .absent) (other : h.bay ≠ c.bay.getD 0xFFFF) :
    checkBay s spec h c p = failWith .denied 0 := by
  unfold checkBay
  rw [if_neg (by obtain e | ⟨le, there⟩ := there <;> simp [*]), if_pos other]

theorem checkTail_bay {s : State} {spec : CmdSpec} {r : Req} {c : Caller} {st : Status} {d : Nat}
    (h : checkBay s spec (headerOf r.msg) c (ownPayload spec r c) = failWith st d) : checkTail s spec r c = failWith st d := by
  unfold checkTail
  simp only [h]
  rfl

theorem checkTail_length {s : State} {spec : CmdSpec} {r : Req} {c : Caller} {d : Nat}
    (h : checkBay s spec (headerOf r.msg) c (ownPayload spec r c) = .pass c) (bad : spec.lens c (ownPayload spec r c) = some d) :
    checkTail s spec r c = failWith .badLength d := by
  unfold checkTail
  simp only [h, bad]

theorem checkTail_fatal {s : State} {spec : CmdSpec} {r : Req} {c : Caller}
    (h : checkBay s spec (headerOf r.msg) c (ownPayload spec r c) = .pass c) (good : spec.lens c (ownPayload spec r c) = none) :
    checkTail s spec r c = if s.dev.fatal = true ∧ fatalOk spec.op = false then failWith .faulted 0 else .pass c := by
  unfold checkTail
  simp only [h, good]
  exact if_congr (by simp) rfl rfl

/-- Settles O8: the header's checks, the command's and the session's come one after the other; each is given by the lemma of its step. -/
theorem checksAreMadeInOrder : Obligations.ChecksAreMadeInOrder := by
  unfold Obligations.ChecksAreMadeInOrder
  intro s r rom
  dsimp only
  refine ⟨fun bad => firstChecks_head (checkHead_length bad), fun len fits => ⟨fun h1 h2 => firstChecks_head (checkHead_version len fits h1 h2),
    fun h1 h2 => firstChecks_head (checkHead_fabricVersion len fits h1 h2), fun version => ?_⟩⟩
  have head := checkHead_sound (known := fun op => s.bootRomDenies op || (specFor op).isSome) len fits version
  refine ⟨fun flags => firstChecks_head (by rw [head, if_pos flags]), fun flags => ⟨fun unknown => firstChecks_head ?_, fun spec known => ?_⟩⟩
  · rw [head, if_neg (by omega), if_neg (by simp [rom, unknown])]
  have op := specFor_op known
  rw [firstChecks_known (by rw [head, if_neg (by omega), if_pos (by simp [known])]) rom known]
  refine ⟨checkKnown_transport, fun transport => ⟨fun via handle => checkKnown_session transport (checkSession_mtw via handle),
    fun via handle asks => checkKnown_session transport (checkSession_none via handle asks),
    fun via handle stale => checkKnown_session transport (checkSession_stale via handle (by rwa [op])), fun c session => ?_⟩⟩
  rw [checkKnown_bound transport session]
  refine ⟨fun qpn via handle other => ?_, fun m via handle other => ?_, fun a b src p via handle other => ?_, fun bound => ?_⟩
  · rw [checkBinding_send via handle other]
    rfl
  · rw [checkBinding_mailbox via handle other]
    rfl
  · rw [checkBinding_udp via handle other]
  · rw [bound]
    refine ⟨fun names absent => checkTail_bay (checkBay_noBay names absent), fun there other => checkTail_bay (checkBay_denied there other),
      fun bay => ⟨fun d bad => checkTail_length bay bad, fun good => ?_⟩⟩
    rw [← op]
    exact checkTail_fatal bay good

end Sys2Proof.Machine

/-! What passes the guards that many commands share. -/

namespace Sys2Proof.Machine

/-- A test that holds does not stop what asks that it fail. -/
theorem bnot_not_true {x : Bool} (h : x = true) : ¬(!x) = true := by simp [h]

/-- Two tests that fail are not one that holds. -/
theorem bor_not_true {x y : Bool} (h : x = false) (h' : y = false) : ¬(x || y) = true := by simp [h, h']

/-- Two tests that hold are one that holds. -/
theorem band_pass {x y : Bool} (h : x = true) (h' : y = true) : (x && y) = true := by simp [h, h']

/-- A command without fields goes on. -/
theorem fields_nil {c : Ctx} {s : State} {k : Result} (h : c.padBad = none) : c.fields s [] k = k := fields_pass h (by simp)

/-- A condition that does not hold refuses nothing. -/
theorem refuseIf_false {cond : Bool} {st : Status} {d : Nat} {s : State} {k : Result} (h : cond = false) :
    refuseIf cond st d s k = k := by
  rw [h]
  rfl

/-- One check that passes keeps a list of them good. -/
theorem good_cons {f : Nat × Bool} {l : List (Nat × Bool)} (h : f.2 = true) (h' : ∀ f ∈ l, f.2 = true) : ∀ g ∈ f :: l, g.2 = true :=
  List.forall_mem_cons.2 ⟨h, h'⟩

/-- A command on a table for which nothing earlier waits, and nothing is under way, goes on. -/
theorem inOrder_pass {c : Ctx} {s : State} {n : Nat} {way : Bool} {k : Result} (idle : way = false)
    (parked : s.net.parked.any (s.changesTable c.bay n) = false) (prepared : s.preparedOn c.bay n = false) : inOrder c s n way k = k := by
  simp [inOrder, idle, parked, prepared]

end Sys2Proof.Machine

/-! Sessions and queue pairs: opened, kept, reported and expired (R486, R489, R500 to R504, R511). -/

namespace Sys2Proof.Machine

/-- A source whose HELLOs are no longer ignored is not ignored. -/
theorem not_ignored {s : State} {via : Via} (h : ∀ f ∈ s.net.ignored, some f.1 = s.sourceOf via → f.2 ≤ s.dev.now) :
    (s.net.ignored.any fun f => some f.1 == s.sourceOf via && decide (s.dev.now < f.2)) = false := by
  rw [List.any_eq_false]
  intro f hf
  simpa using h f hf

/-- With a good nonce and the right proof the test that a proof fails is false. -/
theorem proofFails_false {good : Bool} {x y : List Byte} (nonce : good = true) (proof : x = y) : (!good || x != y) = false := by
  simp [nonce, proof]

/-- The same where the session's token is asked for as well. -/
theorem reattachFails_false {good : Bool} {k l : Nat} {x y : List Byte} (nonce : good = true) (token : k = l) (proof : x = y) :
    (!good || k != l || x != y) = false := by
  simp [nonce, token, proof]

/-- Settles O12: each command passes its fields, finds what it names and answers as its own part says. -/
theorem sessionsAreOpenedAndKept : Obligations.SessionsAreOpenedAndKept := by
  unfold Obligations.SessionsAreOpenedAndKept
  refine ⟨fun r c s u p b => ⟨fun h heard => ?_, fun h unbound lease hold nonce proof few fewBay => ?_,
    fun h zero x found open_ bay nonce token proof => ?_⟩, fun r c s u p b => ⟨fun h x found opened lease => ?_, fun h => ?_,
    fun h x own found fits => ?_, fun h x device zero found bay fits => ?_⟩⟩
  · -- SESSION_HELLO
    refine runCommand_ok h (fun _ => by simp) ?_
    rw [doHello, fields_nil rfl, not_ignored heard]
    rfl
  · -- SESSION_OPEN
    refine runCommand_ok h (fun _ => by simp) ?_
    rw [doOpen, refuseIf_false unbound, fields_pass rfl (by simp; omega)]
    have room : (decide (1024 ≤ (u.net.sessions.filter fun x => x.state != .ended).length) ||
        (c.bay.isSome && decide (256 ≤ (u.baySessions c.bay).length))) = false := by
      simpa using ⟨few, fewBay⟩
    exact (if_neg (ne_true_of_eq_false (proofFails_false nonce proof))).trans (if_neg (ne_true_of_eq_false room))
  · -- SESSION_REATTACH
    refine runCommand_ok h (fun _ => by simp) ?_
    rw [doReattach, fields_pass rfl (by simpa using zero)]
    simp only [found]
    rw [if_neg (by simp [open_]), if_neg (by simp [bay])]
    exact if_neg (ne_true_of_eq_false (reattachFails_false nonce token proof))
  · -- HEARTBEAT
    refine runCommand_ok h (fun _ => by simp [timeBytes]) ?_
    rw [doHeartbeat, fields_nil rfl]
    simp [found, opened, lease]
  · exact runCommand_later h rfl
  · -- SESSION_QUERY of a bay session
    refine runCommand_ok h fits ?_
    simp [doSessionQuery, own, found]
  · -- SESSION_QUERY from device scope
    refine runCommand_ok h fits ?_
    have named : ((u.session (u32At p 4)).filter fun x => x.bay == some (u16At p 0)) = some x := by simp [found, bay]
    simp only [doSessionQuery, device, named]
    rw [fields_pass rfl (by simpa using zero)]
    rfl

/-- Of a bay's queue pairs one of the caller's that a request names is found. -/
theorem ownQp_some {c : Ctx} {s : State} {q : Qp} (h : s.qp (u32At c.p 0) = some q) (own : q.session = c.caller.handle) :
    ownQp c s = some q := by
  simp [ownQp, h, own]

/-- The queue pair that QP_CONNECT makes for a session of a bay (R486). -/
def connectedQp (s : State) (handle b : Nat) (p : List Byte) : Qp :=
  let port := u8At p 12
  let v6 := u8At p 8 == 6
  let retry := if u8At p 11 = 0 then 7 else u8At p 11
  { qpn := freeQpn (s.net.qps.map Qp.qpn) (s.net.qps.length + 1) s.net.nextQpn, session := handle, bay := some b, port := port
    sub := u8At p 13, addr := familyIndex (((s.subPort port (u8At p 13)).map SubPort.addrs).getD []) v6 (u8At p 14)
    clientQpn := u32At p 0, clientIp := ⟨v6, beNat (slice 16 (if v6 then 16 else 4) p)⟩, mtu := 512 * 2 ^ u8At p 9
    timeoutExp := if u8At p 10 = 0 then 10 else u8At p 10, retryMax := retry, ring := ⟨u64At p 32, u32At p 40, u32At p 44, 0⟩
    error := none, sentAt := s.dev.now, retriesLeft := retry, nextPsn := s.fresh.1 % 2 ^ 24, unacked := [], rxUnacked := 0
    rxLast := s.dev.now, rateKb := modeRateKb (s.portMode port), cutAt := none, quietSince := s.dev.now, cnpAt := none, sent := 0
    retransmitted := 0, cnps := 0 }

/-- Settles O13: QP_CONNECT's pair is the one above; the others find the caller's. -/
theorem queuePairCommandsComplete : Obligations.QueuePairCommandsComplete := by
  unfold Obligations.QueuePairCommandsComplete
  refine fun r c s u p b => ⟨fun h qpn psn family mtu mtu' timeout retry port sub idx named res v4 len len' mine bays all => ?_,
    fun h q found own zero => ?_, fun h q found own zero => ?_⟩
  · have ip : (if (u8At p 8 == 6) = true then 16 else 4) = if u8At p 8 = 6 then 16 else 4 := by simp
    refine ⟨connectedQp u c.handle b p, _, runCommand_ok h (fun _ => by simp) ?_, rfl, rfl, rfl, rfl, rfl, rfl, rfl, rfl, ?_, rfl, rfl, rfl,
      rfl, rfl, rfl⟩
    · rw [doQpConnect, fields_pass rfl (by simp [*]; omega), if_neg (by simp [*])]
      rfl
    · rw [← ip]
      rfl
  · have own' := ownQp_some (c := ctxOf c r p b) found own
    refine runCommand_ok h (fits_nil c) ?_
    rw [doQpDestroy, fields_pass rfl (by simp [own', zero])]
  · have own' := ownQp_some (c := ctxOf c r p b) found own
    refine fun fits => runCommand_ok h fits ?_
    rw [doQpQuery, fields_pass rfl (by simp [own', zero]), own']

/-- Settles O14. -/
theorem sessionsExpire : Obligations.SessionsExpire := by
  unfold Obligations.SessionsExpire
  refine fun h s x => ⟨fun found state due runs => ?_, fun found state due runs => ?_, rfl⟩
  · simp only [exec, execLeaseExpiry, found]
    rw [if_pos (by simp [state, due, runs])]
  · simp only [exec, execHoldExpiry, found]
    rw [if_pos (by simp [state, due, runs])]

end Sys2Proof.Machine

/-! Bays: formed, opened, drained, destroyed, rekeyed and reported (R53 to R61, R70, R76 to R80). -/

namespace Sys2Proof.Machine

/-- A command that names a bay and nothing else passes its fields. -/
theorem bayOnly_pass {c : Ctx} {s : State} {k : Result} (pad : c.padBad = none) (h : zeroAt c.p 1 7 = true) : bayOnly c s k = k :=
  fields_pass pad (by simpa using h)

/-- Settles O15: each command passes its fields and its limits. -/
theorem baysAreFormed : Obligations.BaysAreFormed := by
  unfold Obligations.BaysAreFormed
  refine fun r c s u p b => ⟨fun h parking shares zero regs loft test margin fit areas mins => ?_, fun h shares margin fit areas => ?_,
    fun h zero regs mins => ?_⟩
  · -- BAY_CREATE
    refine runCommand_ok h (fits_nil c) ?_
    rw [doBayCreate, refuseIf_false (by simp [parking]), fields_pass rfl (good_append (good_append shares (by simpa using zero)) regs),
      refuseIf_false (by simp [loft, test, margin]), refuseIf_false (by simp [fit, areas, mins])]
  · -- BAY_SET_SHARES
    refine runCommand_ok h (fits_nil c) ?_
    rw [doBaySetShares, fields_pass rfl shares, refuseIf_false margin, refuseIf_false (by simp [fit, areas])]
  · -- BAY_SET_REGULATORS
    refine runCommand_ok h (fits_nil c) ?_
    rw [doBaySetRegulators, fields_pass rfl (good_append (by simpa using zero) regs), refuseIf_false (by simp [mins])]

/-- The first OPEN bay has the quads woken, another has not (R264). -/
theorem openBay_eq (s : State) (b : Nat) : s.openBay b =
    let v := ((s.modLife b fun l => { l with state := .opened }).modBay b fun y =>
      { y with granary := { y.granary with refreshAt := some (s.dev.now + 1000000 * y.granary.refreshMs) } }).quadVotes
    if ∀ y ∈ s.bays, y.core.life.state ≠ .opened then (v.wakeUp 34 0).wakeUp 38 0 else v := by
  have first : (!s.bays.any fun y => y.core.life.state == .opened) = true ↔ ∀ y ∈ s.bays, y.core.life.state ≠ .opened := by simp
  exact if_congr first rfl rfl

/-- Settles O16: each command passes its fields; what it makes of the bay is its own part. -/
theorem bayCommandsComplete : Obligations.BayCommandsComplete := by
  unfold Obligations.BayCommandsComplete
  refine fun r c s u p b => ⟨fun h parking zero => ?_, fun h zero => ?_, fun h zero draining started => ?_, fun h zero past => ?_,
    fun h mask zero2 zero44 admission hatch hand => ?_, fun h zero => ?_⟩
  · -- BAY_OPEN
    refine runCommand_ok h (fits_nil c) ?_
    rw [doBayOpen, refuseIf_false (by simp [parking]), bayOnly_pass rfl zero, openBay_eq]
  · -- BAY_DRAIN
    refine runCommand_ok h (fits_nil c) ?_
    rw [doBayDrain, bayOnly_pass rfl zero]
    rfl
  · -- BAY_DESTROY of a bay that is draining
    refine runCommand_ok h (fits_nil c) ?_
    rw [doBayDestroy, bayOnly_pass rfl zero]
    simp [draining, started]
  · -- BAY_DESTROY of a bay that is FORMING or has drained
    refine runCommand_ok h (fits_nil c) ?_
    rw [doBayDestroy, bayOnly_pass rfl zero]
    obtain forming | drained := past
    · simp [forming]
    · simp [drained]
  · -- BAY_REKEY
    refine runCommand_ok h (fits_nil c) ?_
    rw [doBayRekey, fields_pass rfl (by simp [mask, zero2, zero44, admission, hatch, hand])]
  · -- BAY_QUERY
    refine fun fits => runCommand_ok h fits ?_
    rw [doBayQuery, bayOnly_pass rfl zero]

end Sys2Proof.Machine

/-! The commands of hand programs: loaded, unloaded, bound, run and reported (R291 to R296). -/

namespace Sys2Proof.Machine

/-- Nothing in flight that names a program keeps it from being unloaded (R294). -/
theorem unload_free {s : State} {b no : Nat} (bound : ((s.bay b).work.bindings.any fun x => x.program == no) = false)
    (runs : s.programRuns b no = false)
    (flight : ∀ x ∈ s.dp.sheafs, x.bay = b → (∃ e ∈ x.bindings, e.program = no) → x.phase ≠ .accepted ∧ x.phase ≠ .queued ∧ x.phase ≠ .held) :
    (decide (1 ≤ no) && (((s.bay b).work.bindings.any fun x => x.program == no) || s.programRuns b no || s.dp.sheafs.any fun x =>
      x.bay == b && (x.bindings.any fun e => e.program == no) && (x.phase == .accepted || x.phase == .queued || x.phase == .held))) = false := by
  have sheafs : (s.dp.sheafs.any fun x => x.bay == b && (x.bindings.any fun e => e.program == no) &&
      (x.phase == .accepted || x.phase == .queued || x.phase == .held)) = false := by
    rw [List.any_eq_false]
    intro x hx
    have := flight x hx
    simp only [Bool.and_eq_true, Bool.or_eq_true, beq_iff_eq, List.any_eq_true]
    rintro ⟨⟨bay, names⟩, phase⟩
    obtain ⟨accepted, queued, held⟩ := this bay names
    simp [accepted, queued, held] at phase
  simp only [bound, runs, sheafs, Bool.or_false, Bool.and_false]

/-- A crew mask's fields pass when it names 1 to 16 crews of the bay. -/
theorem crews_named {l mine : List Nat} (some_ : 1 ≤ l.length) (few : l.length ≤ 16) (own : ∀ k ∈ l, k ∈ mine) :
    (decide (1 ≤ l.length) && decide (l.length ≤ 16) && l.all fun k => mine.contains k) = true := by
  simpa [some_, few] using own

/-- Settles O17. -/
theorem handCommandsComplete : Obligations.HandCommandsComplete := by
  unfold Obligations.HandCommandsComplete
  refine fun r c s u p b => ⟨fun h now bulk => ?_, fun h zero named there bound runs flight => ?_,
    fun h t there live role program budget parked prepared => ?_, fun h now runnable zero some_ few own ms zero12 bulk data => ?_,
    fun h table zero => ?_⟩
  · -- HAND_LOAD
    intro m v g old others image signed runs queued fit runs' t room body hbody fits t'
    refine runCommand_ok h fits ?_
    rw [paced_now now, doHandLoad, fields_pass rfl bulk]
    subst hbody
    refine (if_neg (bnot_not_true image)).trans ((if_neg (bnot_not_true signed)).trans ((if_neg (bor_not_true runs queued)).trans
      ((if_neg (bnot_not_true fit)).trans ?_)))
    split
    · next full => cases full.symm.trans room
    · next e =>
      cases e.symm.trans room
      rfl
  · -- HAND_UNLOAD
    refine runCommand_ok h (fits_nil c) ?_
    rw [doHandUnload, refuseIf_false (unload_free bound runs flight), fields_pass rfl (by simp [there, zero])]
  · -- HAND_BIND
    refine runCommand_ok h (fits_nil c) ?_
    have free : TableFree u b (u16At p 0) t := ⟨there, live, parked, prepared⟩
    rw [doHandBind, onTable_pass (tab_of_free free) (by simpa [role, budget] using program), inOrder_free free]
  · -- HAND_RUN
    refine runCommand_later h ?_
    rw [paced_now now, doHandRun, fields_pass rfl (good_append (good_append (good_cons runnable (good_cons zero (good_cons
      (crews_named some_ few own) (by simp [ms, zero12])))) bulk) (by simpa using data))]
    rfl
  · -- HAND_QUERY
    intro y later l body fits
    refine runCommand_ok h fits ?_
    rw [doHandQuery, fields_pass rfl (by simp [table, zero])]
    simp only [body, l, later, y, Bool.and_eq_true, decide_eq_true_eq, beq_iff_eq, List.take_take]
    rfl

end Sys2Proof.Machine

/-! The tether: its commands, registers and events, the relays, and segments of fabric messages (R527, R528, R542 to R578). -/

namespace Sys2Proof.Machine

/-- A region of the caller's with an access it allows is found. -/
theorem ownRegion_filter {s : State} {b key : Nat} {g : Region} (own : s.ownRegion b key = some g) {access : Region → Bool}
    (allows : access g = true) : (s.ownRegion b key).filter access = some g := by
  rw [own, Option.filter_some, if_pos allows]

/-- A copy between a region and a span of the bay starts, its region allowing the access and its span being one of the bay's. -/
theorem doCopy_starts {kind : JobKind} {c : Caller} {r : Req} {p : List Byte} {b : Nat} {u : State} {g : Region}
    (own : u.ownRegion b (u32At p 0) = some g) (space : u8At p 4 = 1 ∨ u8At p 4 = 2) (zero5 : zeroAt p 5 3 = true)
    (aligned : u64At p 8 % 64 = 0) (some_ : 1 ≤ u32At p 24) (few : u32At p 24 ≤ 1048576) (inside : u64At p 8 + 64 * u32At p 24 ≤ g.len)
    (zero28 : zeroAt p 28 4 = true) (attached : u.tth.attached = true)
    (access : (if decide (kind = .copyIn) = true then g.read else g.write) = true)
    (span : (if decide (kind = .copyIn) = true then u.dstOk b 0 (u8At p 4) (u64At p 16) (u32At p 24)
      else u.spaceIn b 0 (u8At p 4) (u64At p 16) (u32At p 24)) = true) :
    doCopy kind (ctxOf c r p b) u = (none, (u.startJob (ctxOf c r p b) kind [] [0, 0]
      [u8At p 4, u64At p 16, u32At p 0, u64At p 8, u32At p 24]).2.tetherRun) := by
  have found := ownRegion_filter (access := fun r => if decide (kind = .copyIn) then r.read else r.write) own access
  have begins : u64At p 8 ≤ g.len := by omega
  simp only [doCopy, found]
  rw [fields_pass rfl (good_cons rfl (good_cons (by simpa using space) (good_cons zero5 (good_cons (by simp [aligned, begins])
    (good_cons span (good_cons (by simp [some_, few, inside]) (good_cons zero28 (by simp)))))))), refuseIf_false (by simp [attached])]

/-- Settles O18: the commands pass their fields; each access of an attached tether is its row's branch. -/
theorem tetherCommandsAndRegistersComplete : Obligations.TetherCommandsAndRegistersComplete := by
  unfold Obligations.TetherCommandsAndRegistersComplete
  refine ⟨fun r c s u p b => ⟨fun h size => ?_, fun h own zero => ?_, fun h g own read bias zero off len inside => ?_,
      fun g own space zero5 aligned some_ few inside zero28 attached => ⟨fun h read dst => ?_, fun h write src => ?_⟩,
      fun h => ?_, fun h peer base on zero i place => ?_⟩,
    fun s attached => ⟨fun bay off data hb => ?_, fun bay value hb => ?_, fun value => ?_, fun off => ?_, fun off isRead => ?_,
      fun bar off there => ?_, fun box value m hb found => ?_, fun box value m hb found => ?_, fun addr cxl => ?_,
      fun box failed m msg rest hb found waits => ?_⟩⟩
  · -- TETHER_REGION_REG
    intro pg g base len long room access owned vector zero attached few few' pages body hbody fits
    subst hbody
    refine runCommand_ok h fits ?_
    rw [doTetherRegionReg, fields_pass rfl (good_cons (by simpa using base) (good_cons (band_pass (band_pass (beq_iff_eq.2 len)
      (decide_eq_true long)) (decide_eq_true room)) (good_cons (by simpa using size)
      (good_cons (by simpa using access) (good_cons (by simpa using owned) (good_cons (by simpa using vector) (by simpa using zero))))))),
      refuseIf_false (by simp [attached]), refuseIf_false (by simpa using ⟨⟨few, few'⟩, pages⟩)]
  · -- TETHER_REGION_DEREG
    refine runCommand_later h ?_
    rw [doTetherRegionDereg, fields_pass rfl (by simp [own, zero])]
  · -- TETHER_BIAS_SET
    refine runCommand_later h ?_
    have found := ownRegion_filter (access := Region.read) own read
    simp only [doTetherBiasSet, found]
    rw [fields_pass rfl (by simp [bias, zero, off, len, inside])]
  · -- TETHER_COPY_IN
    exact runCommand_later h (doCopy_starts own space zero5 aligned some_ few inside zero28 attached read dst)
  · -- TETHER_COPY_OUT
    exact runCommand_later h (doCopy_starts own space zero5 aligned some_ few inside zero28 attached write src)
  · -- TETHER_QUERY
    exact fun fits => runCommand_ok h fits rfl
  · -- TETHER_RELAY_SET
    refine runCommand_ok h (fits_nil c) ?_
    simp only [doTetherRelaySet, place]
    rw [fields_pass rfl (by simp [peer, base, on, zero])]
    split <;> rfl
  · simp only [exec, execBar2Write]
    rw [if_neg (by omega), if_neg (by simp [attached])]
  · simp only [exec, execTthDoorbell]
    rw [if_neg (by omega), if_neg (by simp [attached])]
  · simp only [exec, execTthEvent]
    rw [if_pos attached]
  · simp only [exec, execTthCounterRead]
    rw [if_neg (by simp [attached])]
    simp only [Bool.and_eq_true, decide_eq_true_eq]
  · simp only [exec, execTthBadAccess]
    rw [if_neg (by simp [attached])]
  · simp only [exec, execBar2Read]
    rw [if_neg (by simpa [attached, and_assoc, or_iff_not_imp_left] using there)]
  · simp only [exec, execTthMboxSubmit, found]
    rw [if_neg (by omega), if_neg (by simp [attached])]
    simp only [Bool.or_eq_true, decide_eq_true_eq, or_assoc]
  · simp only [exec, execTthMboxStatus, found]
    rw [if_neg (by omega), if_neg (by simp [attached])]
  · simp only [exec, execHostSnoop]
    rw [if_pos (by simp [attached, cxl])]
  · simp only [exec, execMailboxResponse, found, waits]
    rw [if_neg (by omega)]

/-- Settles O19. -/
theorem tetherEventsComplete : Obligations.TetherEventsComplete := by
  unfold Obligations.TetherEventsComplete
  refine fun s => ⟨fun n hn pending time due => ?_, fun id failed data r found space => ?_, fun id r t found timeout due started paused => ?_,
    fun id w found kind flush => ?_, fun cause attached hc => ?_, fun protocol gen width attached enabled serving on taken => ?_⟩
  · simp only [exec, execVectorModerationTimer]
    rw [if_neg (by omega), if_pos (by simp [pending, time, due])]
  · simp only [exec, execHostReadCompletion, found]
    rw [if_neg (by simp [space])]
    rfl
  · have going : (s.fab.requests.any fun q => q.id == id && q.pausedAt.isSome) = false := by
      rw [List.any_eq_false]
      intro q hq
      have := paused q hq
      simp only [Bool.and_eq_true, beq_iff_eq]
      rintro ⟨same, some_⟩
      rw [this same] at some_
      cases some_
    simp only [exec, execEndToEndTimeout, found]
    rw [if_neg (by simp [going, started, timeout, due])]
    rfl
  · simp only [exec, execClflushComplete, found]
    rw [if_pos (by simp [kind, flush])]
  · simp only [exec, execTetherReset]
    rw [if_pos (by simp [attached, hc])]
    rfl
  · simp only [exec, execTetherAttach]
    rw [if_neg (by simp [attached, enabled, serving, on, taken])]

/-- A relay of an attached tether that is enabled can go on. -/
theorem relayOn'_some {s : State} {i : Nat} {r : Relay} (attached : s.tth.attached = true) (found : s.fab.relays[i]? = some r)
    (enabled : r.enabled = true) : s.relayOn' i = some r := by
  rw [State.relayOn', if_pos attached, found, Option.filter_some, if_pos enabled]

/-- A segment over UDP joins its message if its header is sound and its sender is admitted. -/
theorem fabricSegment_udp {s : State} {port sub srcPort : Nat} {src : NetAddr} {msg : List Byte} :
    s.fabricSegment ⟨.udp port sub src srcPort, msg⟩ =
      if (headerOf msg).version = 2 ∧ (headerOf msg).flags = 0 ∧ (headerOf msg).bay = 0xFFFF ∧ (headerOf msg).handle = 0 ∧
          msg.length = 16 + (headerOf msg).len ∧ segmentOk (msg.drop 16) = true ∧
          s.senderOk (.udp port sub src srcPort) (u16At (msg.drop 16) 8) = true
      then s.segmentIn (port / 4) (headerOf msg).tag (msg.drop 16) else s.dropSegment := by
  rw [← ite_not]
  exact if_congr (by simp [imp_iff_not_or, or_assoc]) rfl rfl

/-- Settles O20. -/
theorem relaysAndSegmentsComplete : Obligations.RelaysAndSegmentsComplete := by
  unfold Obligations.RelaysAndSegmentsComplete
  refine fun s => ⟨fun i r produced consumed alive slots attached found enabled due => ?_,
    fun i r x rest attached found enabled waits room => ?_, fun i r attached found enabled due => ?_,
    fun port sub src srcPort msg op up on => ?_, fun die sender id hd => ?_⟩
  · simp only [exec, execRelayPoll, relayOn'_some attached found enabled]
    rw [if_neg (by omega)]
  · simp only [exec, execRelaySend, relayOn'_some attached found enabled, waits]
    rw [if_pos room]
  · simp only [exec, execRelayAlive, relayOn'_some attached found enabled]
    rw [if_neg (by omega)]
  · intro r h serving
    simp only [exec, execFabricSegment, r]
    rw [if_neg (by simp [op, up, on]), if_neg (bnot_not_true serving), fabricSegment_udp]
  · intro late some_
    simp only [exec, execReassemblyTimeout]
    rw [if_neg (by omega), if_pos some_]

end Sys2Proof.Machine

/-! The commands on tables, directories, rows and default rows (R148 to R179, R198, R199). -/

namespace Sys2Proof.Machine

/-- The rows of ROW_WRITE: index, tier and home of each. -/
def rowItems (p : List Byte) : List (Nat × Nat × Nat) :=
  items (u16At p 4) fun i => (u64At p (32 + 16 * i), u8At p (40 + 16 * i), u8At p (41 + 16 * i))

/-- The fields of ROW_WRITE pass. -/
theorem rowWrite_good {p : List Byte} {t : Tab} {ring : Nat} (form : u8At p 2 ≤ 1) (zero3 : zeroAt p 3 1 = true) (some_ : 1 ≤ u16At p 4)
    (few : u16At p 4 ≤ 250) (zero6 : zeroAt p 6 2 = true) (bulk : Good (bulkChecks p 8 [1, 2] ring))
    (each : ∀ i, i < u16At p 4 → zeroAt p (42 + 16 * i) 6 = true ∧ (u8At p 2 = 1 → u8At p (40 + 16 * i) < t.desc.tiers)) :
    Good ([(2, decide (u8At p 2 ≤ 1)), (3, zeroAt p 3 1), (4, decide (1 ≤ u16At p 4) && decide (u16At p 4 ≤ 250)),
      (6, zeroAt p 6 2)] ++ bulkChecks p 8 [1, 2] ring ++ ((rowItems p).zipIdx.map fun x => (itemDetail x.2, zeroAt p (42 + 16 * x.2) 6)) ++
      (if u8At p 2 = 1 then (rowItems p).zipIdx.map fun x => (itemDetail x.2, decide (x.1.2.1 < t.desc.tiers)) else [])) := by
  refine good_append (good_append (good_append (by simp [form, zero3, some_, few, zero6]) bulk) (good_items_index fun i hi => (each i hi).1)) ?_
  split
  · next raw => exact good_items_index fun i hi => decide_eq_true ((each i hi).2 raw)
  · simp

/-- Settles O21: each command finds its table, passes its fields and waits for nothing. -/
theorem tableCommandsComplete : Obligations.TableCommandsComplete := by
  unfold Obligations.TableCommandsComplete
  refine fun r c s u p b => ⟨fun h now desc none_ parked prepared v made => ?_, fun t free => ⟨fun h zero still => ?_,
      fun h now op zero3 some_ few zero6 held => ?_, fun its sizes hits hsizes h now form zero3 some_ few zero6 bulk each len held read => ?_,
      fun h now configured zero bulk len held a row read => ?_⟩, fun h t there zero => ?_,
    fun t there => ⟨fun h now some_ few zero => ?_, fun h now form zero3 some_ few zero6 bulk => ?_⟩⟩
  · -- TABLE_CREATE
    refine runCommand_ok h (fits_nil c) ?_
    rw [paced_now now, doTableCreate]
    simp only [none_, made, Option.any_none, Option.isSome_none]
    rw [refuseIf_false rfl, fields_pass rfl desc, inOrder_pass rfl parked prepared, refuseIf_false rfl]
  · -- TABLE_DESTROY
    refine runCommand_spanned h ?_
    rw [doTableDestroy, onTable_pass (tab_of_free free) (by simpa using zero)]
    simp only [still, Bool.or_false]
    rw [inOrder_free free]
  · -- DIR_WRITE
    intro d fits
    refine runCommand_ok h fits ?_
    rw [paced_now now, doDirWrite, onTable_pass (tab_of_free free) (by simp [op, zero3, some_, few, zero6])]
    simp only [held]
    rw [inOrder_free free]
    rfl
  · -- ROW_WRITE
    intro v d fits
    subst hits hsizes
    refine runCommand_ok h fits ?_
    rw [paced_now now, doRowWrite, onTable_pass (tab_of_free free) (rowWrite_good form zero3 some_ few zero6 bulk each),
      if_neg (not_not.2 len), inOrder_free free]
    exact if_neg (bor_not_true held read)
  · -- DEFAULT_ROW_SET
    intro v e w
    refine runCommand_spanned h ?_
    have found := tab_of_free (c := c) (r := r) (p := p) free
    rw [paced_now now, doDefaultRowSet, refuseIf_false (by simp [found, configured]), onTable_pass found (good_append (by simpa using zero) bulk),
      if_neg (not_not.2 len), inOrder_free free]
    simp only [row, held]
    exact if_neg (by simp [read])
  · -- TABLE_QUERY
    intro rows body fits
    refine runCommand_ok h fits ?_
    simp only [doTableQuery, there]
    rw [fields_pass rfl (by simpa using zero)]
  · -- DIR_READ
    intro d body fits
    refine runCommand_ok h fits ?_
    rw [paced_now now, doDirRead, onTable_pass (tab_of_there there) (by simp [some_, few, zero])]
  · -- ROW_READ
    intro d data dest v body fits
    refine runCommand_ok h fits ?_
    rw [paced_now now, doRowRead, onTable_pass (tab_of_there there) (good_append (by simp [form, zero3, some_, few, zero6]) bulk)]
    change (match destBad (ctxOf c r p b) u 8 (8 * u16At p 4) data.length with
      | some e => fail .range e u
      | none => okWith body v.2) = okWith body v.2
    rw [dest]

end Sys2Proof.Machine

/-! The heat sketch and the granary's hot set: snapshots, jobs, settings, reports and the events of the halves (R193 to R197,
R356 to R385). -/

namespace Sys2Proof.Machine

/-- Settles O22: each command passes its fields; what it starts goes on as far as it may. -/
theorem heatAndGranaryCommandsComplete : Obligations.HeatAndGranaryCommandsComplete := by
  unfold Obligations.HeatAndGranaryCommandsComplete
  refine ⟨fun r c s u p b => ⟨fun h now action zero => ?_, fun h taken latest row zero off some_ few inside => ?_,
      fun h some_ few zero keys => ?_⟩,
    fun r c s u p b => ⟨fun h some_ few zero its => ?_, fun h all mask mask' n zero its => ?_, fun h mask mask' zero => ?_, fun h => ?_,
      fun h some_ few zero its => ?_, fun h ms action zero => ?_, fun h on mode limit rows => ?_, fun h => ?_⟩,
    fun s b die hb hd retiring over_ => ?_, fun s b t hb at_ due opened => ?_⟩
  · -- HEAT_SNAPSHOT
    refine fun fits => runCommand_ok h fits ?_
    rw [paced_now now, doHeatSnapshot, fields_pass rfl (by simp [action, zero])]
  · -- HEAT_READ
    refine fun fits => runCommand_ok h fits ?_
    rw [doHeatRead, refuseIf_false (by simp [taken, latest]), fields_pass rfl (by simp [row, zero, off, some_, few, inside])]
  · -- HEAT_QUERY
    refine fun fits => runCommand_ok h fits ?_
    rw [doHeatQuery, fields_pass rfl (good_append (by simp [some_, few, zero]) (good_items fun i hi => beq_iff_eq.2 (keys i hi)))]
  · -- HOTSET_PUT
    refine runCommand_later h ?_
    rw [doHotsetPut, fields_pass rfl (good_append (by simp [some_, few, zero]) its)]
  · -- HOTSET_DROP
    refine runCommand_later h ?_
    have count : (if bit (u8At p 0) 0 = true then u16At p 2 == 0 else decide (1 ≤ u16At p 2) && decide (u16At p 2 ≤ 250)) = true := by
      split at n <;> simp [*]
    rw [doHotsetDrop, fields_pass rfl (good_append (good_cons (decide_eq_true all) (good_cons (by simp [mask, mask'])
      (good_cons count (by simpa using zero)))) its)]
  · -- HOTSET_SWAP
    refine runCommand_later h ?_
    rw [doHotsetSwap, fields_pass rfl (by simp [mask, mask', zero])]
  · exact fun fits => runCommand_ok h fits rfl
  · -- HOTSET_HOME
    refine runCommand_later h ?_
    rw [doHotsetHome, fields_pass rfl (good_append (by simp [some_, few, zero]) its)]
    rfl
  · -- HOTSET_CONFIG
    refine runCommand_ok h (fits_nil c) ?_
    rw [doHotsetConfig, fields_pass rfl (by simp [ms, action, zero])]
  · -- RUNAHEAD_CONFIG
    refine runCommand_ok h (fits_nil c) ?_
    rw [doRunaheadConfig, fields_pass rfl (by simp [on, mode, limit, rows])]
  · exact fun fits => runCommand_ok h fits rfl
  · simp only [exec, execHalfRetired]
    rw [if_neg (by simp; omega), if_neg (by simpa [over_] using retiring)]
  · simp only [exec, execHotsetRefreshDue, at_]
    rw [if_neg (by omega), if_neg (by simp [due, opened])]

end Sys2Proof.Machine

/-! Migrations and rebuilds, destroyed tables and freed granules (R156, R180, R182 to R190). -/

namespace Sys2Proof.Machine

/-- Two tests of the same fact agree. -/
theorem beq_of_iff {x y : Bool} (h : x = true ↔ y = true) : (x == y) = true :=
  beq_iff_eq.2 (Bool.eq_iff_iff.2 h)

/-- Settles O23: each row finds its table and nothing that it waits for. -/
theorem rebuildsAndMovesComplete : Obligations.RebuildsAndMovesComplete := by
  unfold Obligations.RebuildsAndMovesComplete
  refine ⟨fun r c s u p b t free => ⟨fun h some_ few zero its => ?_, fun h now q hq tier scaled zero bulk kind len => ?_⟩,
    fun s b n t hb found => ⟨fun g rebuilding phase runs named held moved => ?_, fun g rebuilding phase runs peers lead held => ?_,
      fun life named held => ?_⟩, fun s b hb => ?_⟩
  · -- TIER_MIGRATE
    refine runCommand_later h ?_
    rw [doTierMigrate, onTable_pass (tab_of_free free) (good_append (by simp [some_, few, zero]) (good_items fun i hi => by simpa [and_assoc] using its i hi)),
      inOrder_free free]
  · -- TIER_REBUILD
    intro v sound alone j st
    subst hq
    refine runCommand_later h ?_
    have found := tab_of_free (c := c) (r := r) (p := p) free
    obtain ⟨-, live, parked, prepared⟩ := free
    have passes : (if (t.point (u8At p 2)).policy.discovery = 0 then settingsBad (t.point (u8At p 2)).policy t.desc.dim v.1 else none) = none := by
      split <;> simp [*]
    rw [paced_now now, doTierRebuild, onTable_pass found (good_append (good_append (by simp [tier, scaled, zero]) bulk)
      (good_cons (beq_of_iff (by simpa using kind)) (good_cons (beq_iff_eq.2 len) (by simp))))]
    simp only [live, reduceCtorEq, if_false]
    rw [inOrder_pass rfl parked prepared, show takeSource (ctxOf c r p b) u 8 32 = (v.1, v.2) from rfl]
    simp only [passes, alone]
    rfl
  · -- REBUILD_QUIESCED
    simp only [exec, execRebuildQuiesced, found, rebuilding]
    rw [if_neg (by omega), if_neg (by simpa [phase, named, held, moved, or_iff_not_imp_left] using runs)] <;> rfl
  · -- REBUILD_RESUME
    simp only [exec, execRebuildResume, found, rebuilding]
    rw [if_neg (by omega), if_neg (by simp [phase, runs, peers, lead, held])]
  · -- TABLE_OVERWRITE
    simp only [exec, execTableOverwrite, found]
    rw [if_neg (by omega), if_neg (by simp [life, named, held])]
    rfl
  · -- GRANULE_RELEASE
    simp only [exec, execGranuleRelease]
    rw [if_neg (by omega)]

end Sys2Proof.Machine

/-! The commands of training: ledgers, optimisers, epochs, pooling and the cancellation of sheafs (R230, R251, R390 to R416, R429). -/

namespace Sys2Proof.Machine

/-- Settles O24: each command finds the session, table or sheaf it names and passes its fields. -/
theorem trainingCommandsComplete : Obligations.TrainingCommandsComplete := by
  unfold Obligations.TrainingCommandsComplete
  refine fun r c s u p b => ⟨fun h x whose fits => ?_, fun h x found next fresh zero => ?_, fun h mask zero1 mib bar zero12 => ?_,
    fun t free => ⟨fun h now good kind moment => ?_, fun t' v h now good other idle made => ?_, fun h flags op format mode stream zero => ?_⟩,
    fun t there zero => ⟨fun h => ?_, fun h => ?_⟩, fun h table some_ few zero => ?_, fun h x named phase => ?_⟩
  · -- LEDGER_QUERY
    refine runCommand_ok h fits ?_
    obtain ⟨own, found⟩ | ⟨device, zero, found, bay⟩ := whose
    · rw [doLedgerQuery, if_pos own, fields_nil rfl]
      simp only [found]
    · have named : ((u.session (u32At p 4)).filter fun x => x.bay == some (u16At p 0)) = some x := by simp [found, bay]
      rw [doLedgerQuery, if_neg (by simp [device])]
      simp only [named]
      rw [fields_pass rfl (by simp [zero])]
  · -- LEDGER_SKIP
    intro l body hbody fits
    subst hbody
    refine runCommand_ok h fits ?_
    simp only [doLedgerSkip, found]
    rw [refuseIf_false (by simpa [next] using fun y hy => next ▸ fresh y hy), fields_pass rfl (by simpa using zero)]
  · -- LEDGER_CONFIG
    intro v
    have mibOk : (if bit (u8At p 0) 0 = true then decide (4 ≤ u32At p 4) && decide (u32At p 4 ≤ 4096) else u32At p 4 == 0) = true := by
      split at mib <;> simp [*]
    have barOk : (if bit (u8At p 0) 1 = true then u32At p 8 == 0 || (decide (1000 ≤ u32At p 8) && decide (u32At p 8 ≤ 10000000))
        else u32At p 8 == 0) = true := by
      split at bar <;> simp [*]
    refine ⟨fun same => runCommand_ok h (fits_nil c) ?_, fun sp sp' resize small first second => runCommand_ok h (fits_nil c) ?_⟩ <;>
      rw [doLedgerConfig, fields_pass rfl (good_cons (decide_eq_true mask) (good_cons zero1 (good_cons mibOk (good_cons barOk
        (good_cons zero12 (by simp))))))]
    · exact if_pos (by simp [same])
    · have room : ((List.range 2).any fun d => decide (2 ^ 20 * u32At p 4 < u.retained b d)) = false := by
        simp only [List.any_eq_false, List.mem_range, decide_eq_true_eq, not_lt]
        exact fun d hd => Nat.mul_comm (2 ^ 20) _ ▸ small d hd
      simp only [first, second]
      exact (if_neg (bnot_not_true resize)).trans (if_neg (ne_true_of_eq_false room))
  · -- OPT_SET of the same kind
    refine runCommand_spanned h ?_
    rw [paced_now now, doOptSet, onTable_pass (tab_of_free free) good, inOrder_free free]
    exact if_pos (by simp [kind, moment])
  · -- OPT_SET of another kind
    refine runCommand_spanned h ?_
    rw [paced_now now, doOptSet, onTable_pass (tab_of_free free) good, inOrder_free free]
    simp only [made]
    refine (if_neg (by simpa using other)).trans (if_neg ?_)
    simpa using idle
  · -- POOL_SET
    refine runCommand_spanned h ?_
    have fields : ((poolAt p).fuseOp ≠ 0 ∨ (poolAt p).fuseFormat = 0) ∧ ((poolAt p).fuseOp ≠ 0 ∨ (poolAt p).fuseMode = 0) ∧
        (if (poolAt p).fuseOp = 0 then (poolAt p).fuseStream == 0 else (u.persistent b (poolAt p).fuseStream).isSome) = true := by
      split at stream <;> simp [*]
    obtain ⟨f1, f2, f3⟩ := fields
    rw [doPoolSet, onTable_pass (tab_of_free free) (by simpa [flags, op, format, mode, zero, f1, f2] using f3), inOrder_free free]
  · -- OPT_GET
    refine fun fits => runCommand_ok h fits ?_
    rw [doOptGet, onTable_pass (tab_of_there there) (by simpa using zero)]
  · -- POOL_GET
    refine fun fits => runCommand_ok h fits ?_
    rw [doPoolGet, onTable_pass (tab_of_there there) (by simpa using zero)]
  · -- EPOCH_QUERY
    refine fun fits => runCommand_ok h fits ?_
    rw [doEpochQuery, fields_pass rfl (by simp [table, some_, few, zero])]
  · -- SHEAF_CANCEL
    refine runCommand_ok h (fits_nil c) ?_
    simp only [doSheafCancel, named]
    rw [fields_nil rfl]
    obtain e | e | e | ⟨e | e | e, lookup, still⟩ := phase <;> simp [*]

end Sys2Proof.Machine

/-! The commands on quantisation: policies, scales, codebooks, split columns and saturation counters (R105 to R147). -/

namespace Sys2Proof.Machine

/-- A command on a target of a table that can be changed, whose state condition holds, is its body on that table. -/
theorem onTarget_pass {c : Caller} {r : Req} {p : List Byte} {b g : Nat} {s : State} {t : Tab} {state : Tab → Bool}
    {more : Tab → List (Nat × Bool)} {k : Tab → Result} (free : TableFree s b (u16At p 0) t) (ready : state t = true)
    (still : g = 4 ∨ s.tableMoving b t.id = false) (good : Good (more t)) : onTarget (ctxOf c r p b) s g state more k = k t := by
  have found := tab_of_free (c := c) (r := r) free
  obtain ⟨there, -, parked, prepared⟩ := free
  have named : t.id = u16At p 0 := findKey_key there
  have idle : (g != 4 && s.tableMoving b t.id) = false := by
    obtain rfl | still := still
    · rfl
    · simp [still]
  rw [onTarget, ← named, inOrder_pass idle parked prepared, refuseIf_false (by simp [found, ready]), onTable_pass found good]

/-- A change of a point goes on where no read holds the default row and the change can be made. -/
theorem putPoint_some {c : Caller} {r : Req} {p : List Byte} {b g : Nat} {s v : State} {t : Tab} {q : Point}
    (held : g = 0 → s.defaultHeld b t.id = false) (made : s.changePoint b t g q = some v) :
    putPoint (ctxOf c r p b) s t g q = spanned (ctxOf c r p b) s t (okWith [] v) := by
  rw [putPoint, if_neg (by simpa using held)]
  simp only [made]

/-- Settles O25: each command passes the checks of its target, and QUANT_SET commands change its point. -/
theorem quantCommandsComplete : Obligations.QuantCommandsComplete := by
  unfold Obligations.QuantCommandsComplete
  refine fun r c s u p b t free => ⟨fun g v h now hg ready still zero good held made => ?_,
    fun g v w hg named hw zero bulk ready still parked held => ⟨fun h now scaled form len okay made => ?_,
      fun h now tier book zero3 len okay made => ?_⟩,
    fun g n v cols h now hg hn hcols tier ready still few count outlier zero order zeroEnd held made => ?_,
    fun g hg named => ⟨fun h zero bulk dest fits => ?_, fun h clear first some_ few last fits => ?_⟩⟩
  · -- QUANT_SET_POLICY
    subst hg
    refine runCommand_spanned h ?_
    rw [paced_now now, doQuantSetPolicy,
      onTarget_pass free ready still (good_append (by simpa using zero) good)]
    exact putPoint_some held made
  · -- QUANT_SET_SCALES
    subst hg hw
    refine runCommand_spanned h ?_
    rw [paced_now now, doQuantSetScales, onTarget_pass free ready still
      (good_append (good_append (by simpa [scaled, form, zero] using named) bulk) (by simpa using len))]
    simp only [okay]
    exact putPoint_some held made
  · -- QUANT_SET_CODEBOOK
    subst hg hw
    refine runCommand_spanned h ?_
    rw [paced_now now, doQuantSetCodebook, onTarget_pass free (by simp [ready, book]) still
      (good_append (good_append (by simpa [zero3] using tier) bulk) (by simpa using len))]
    simp only [okay]
    exact putPoint_some held made
  · -- QUANT_SET_SPLIT
    subst hg hn hcols
    refine runCommand_spanned h ?_
    rw [paced_now now, doQuantSetSplit, onTarget_pass free (by simp [ready]) (.inr still) (good_append (good_append
      (by simpa [tier, few, zero, ← count] using outlier) (good_items fun i hi => by simpa using order i hi)) (by simpa using zeroEnd))]
    exact putPoint_some held made
  · -- QUANT_GET_SCALES
    subst hg
    refine runCommand_ok h fits ?_
    rw [doQuantGetScales, onTable_pass (tab_of_free free) (good_append (by simpa [zero] using named) bulk)]
    simp only [dest]
  · -- QUANT_READ_SAT
    subst hg
    refine runCommand_ok h fits ?_
    rw [doQuantReadSat, onTable_pass (tab_of_free free) (by simpa [clear, first, some_, few, last] using named)]
    simp only [Bool.and_eq_true, decide_eq_true_eq]

end Sys2Proof.Machine

/-! The commands on stream contexts, and a context's entry to RUNNING (R301, R325, R338 to R341). -/

namespace Sys2Proof.Machine

/-- The stream that a payload names. -/
theorem stream_ctxOf {c : Caller} {r : Req} {p : List Byte} {b : Nat} {s : State} {x : Context}
    (h : s.persistent b (u16At p 0) = some x) : (ctxOf c r p b).stream s = some x := h

/-- Settles O26: each command finds its stream, passes its fields and waits for nothing. -/
theorem streamCommandsComplete : Obligations.StreamCommandsComplete := by
  unfold Obligations.StreamCommandsComplete
  refine ⟨fun r c s u p b => ⟨fun h die queue few zero bases no more runs v free room => ?_, fun x named =>
      ⟨fun h idle some_ few zero total runs v htotal most room body hbody fits => ?_, fun h idle fused zero => ?_,
        fun h zero once some_ => ?_, fun h zero idle none_ fits => ?_, fun h mask plain zero bases => ?_,
        fun h zero fits => ?_⟩, fun h zero e2e watchdog => ?_⟩,
    fun s n x found idle waits first room => ?_⟩
  · -- STREAM_CREATE
    intro x body hbody fits
    subst hbody
    refine runCommand_ok h fits ?_
    rw [doStreamCreate, fields_pass rfl (good_append (by simpa [die, few, zero] using queue)
      (good_items fun i hi => decide_eq_true (bases i hi)))]
    simp only [free, room, State.storeList, Nat.zero_add]
    rfl
  · -- STREAM_APPEND
    subst htotal hbody
    refine runCommand_ok h fits ?_
    rw [doStreamAppend, stream_ctxOf named, refuseIf_false (by simpa using idle), fields_pass rfl (by simp [some_, few, zero])]
    simp only [room, State.storeList]
    exact if_neg (by omega)
  · -- STREAM_DESTROY
    intro v w
    refine runCommand_ok h (fits_nil c) ?_
    rw [doStreamDestroy, stream_ctxOf named, refuseIf_false (by simp [idle, fused]), fields_pass rfl (by simp [zero])]
    rfl
  · -- STREAM_START
    refine runCommand_later h ?_
    have notBusy : ¬(x.active && x.heldCmd.isSome) = true := by simpa using once
    have entries : ¬(!x.active && x.list.isEmpty) = true := by obtain e | e := some_ <;> simp [e]
    rw [doStreamStart, stream_ctxOf named, fields_pass rfl (by simp [zero])]
    change State.streamStart _ _ _ = _
    rw [State.streamStart, if_neg notBusy, if_neg entries]
    by_cases runs : x.active = true <;> simp [runs]
  · -- STREAM_START of an empty list
    refine runCommand_ok h fits ?_
    rw [doStreamStart, stream_ctxOf named, fields_pass rfl (by simp [zero])]
    change State.streamStart _ _ _ = _
    rw [State.streamStart, if_neg (by simp [idle]), if_pos (by simp [idle, none_])]
  · -- STREAM_REARM
    refine runCommand_ok h (fits_nil c) ?_
    have each : ∀ i, i < 4 → (if bit (u8At p 2) i = true then decide (u64At p (8 + 8 * i) < 2 ^ 48)
        else u64At p (8 + 8 * i) == 0) = true := by
      intro i hi
      have := bases i hi
      by_cases hb : bit (u8At p 2) i = true <;> simp only [hb] at this ⊢
      · exact decide_eq_true this
      · exact beq_iff_eq.2 this
    rw [doStreamRearm, stream_ctxOf named, fields_pass rfl (good_append (by simp [mask, plain, zero]) (good_items each))]
    simp only [plain]
    rfl
  · -- STREAM_QUERY
    refine runCommand_ok h fits ?_
    rw [doStreamQuery, stream_ctxOf named, fields_pass rfl (by simp [zero])]
  · -- STREAM_CONFIG
    refine runCommand_ok h (fits_nil c) ?_
    rw [doStreamConfig, fields_pass rfl (by simp [zero, e2e, watchdog])]
  · -- CONTEXT_RUNNING
    have notBefore : (s.dp.contexts.any fun y => y.bay == x.bay && ctxDie y.no == ctxDie x.no && y.no != n &&
      State.waitsForReserve y && (decide (y.queue < x.queue) || (y.queue == x.queue && decide (y.waitSince < x.waitSince)))) = false := by
      simp only [List.any_eq_false, Bool.and_eq_true, beq_iff_eq, bne_iff_ne, ne_eq, Bool.or_eq_true, decide_eq_true_eq]
      rintro y hy ⟨⟨⟨⟨hb, hd⟩, hn⟩, hw⟩, earlier⟩
      have := first y hy hb hd hn hw
      omega
    change execContextRunning n s = _
    simp only [execContextRunning, found, notBefore]
    rw [if_neg (by simp [State.waitsForReserve, idle, waits]), if_pos room]

end Sys2Proof.Machine

/-! The wicket path: acceptance, the parser, the bypass unit, the result and the barrier's timeout (R342 to R350, R426, R724). -/

namespace Sys2Proof.Machine

/-- Settles O27: each event finds the lookup, message or section it is for, and none of its guards stops it. -/
theorem wicketOperationsComplete : Obligations.WicketOperationsComplete := by
  unfold Obligations.WicketOperationsComplete
  refine ⟨fun s r c b op len takes request safe fresh head known bay opened => ?_,
    fun s die unit => ⟨fun x next => ?_, fun m next standard => ?_, fun m next urgent => ?_⟩,
    fun s no k x t none_ found tab us waits strict unmet late => ?_,
    fun s v no k x y g found lookup accepted us okay hv there sect unset strict unmet late => ?_,
    fun s id x found => ⟨fun g n fixed bad phase sect ready free => ?_, fun g n fixed bad phase sect unit => ?_,
      fun placing => ⟨fun lost => ?_, fun m kept via region => ?_, fun q kept via => ?_⟩⟩⟩
  · -- WICKET_LOOKUP
    have here : ¬((headerOf r.msg).op ≠ 0x0610 || r.msg.length ≠ 64) = true := by simp [op, len]
    have accepted : s.lookupIn r = s.acceptLookup r b c.handle := by
      rw [State.lookupIn, if_neg (bnot_not_true takes), if_neg (by simp [request]), if_neg (by simp [safe])]
      simp only [fresh, head, known, bay, Option.getD_some]
      exact if_neg (not_not.2 opened)
    change execWicketLookup r s = _
    rw [execWicketLookup, if_neg here, accepted]
  · -- WICKET_PARSE of a lookup
    change execWicketParse die s = _
    rw [execWicketParse, if_neg (by omega), next]
  · -- WICKET_PARSE of a message
    change execWicketParse die s = _
    rw [execWicketParse, if_neg (by omega), next]
    exact congrArg Host.Outcome.next (if_neg standard)
  · -- URGENT_MESSAGE
    change execUrgentMessage die s = _
    rw [execUrgentMessage, if_neg (by omega), next]
    exact congrArg Host.Outcome.next (if_neg (not_not.2 urgent))
  · -- BARRIER_TIMEOUT of a lookup
    change execBarrierTimeout no k s = _
    rw [execBarrierTimeout, none_]
    change Host.Outcome.next (s.lookupTimeout no) = _
    rw [State.lookupTimeout, found]
    simp only [tab]
    rw [if_neg (by simp [us, waits, strict, unmet, late])]
  · -- BARRIER_TIMEOUT of a section
    subst hv
    change execBarrierTimeout no k s = _
    rw [execBarrierTimeout, found]
    simp only [there, Option.bind_some, sect]
    rw [if_neg (by simp [lookup, accepted, us, okay]), if_neg (by simp [unset, strict, unmet, late])]
  · -- BYPASS_FOLD takes a unit
    change execBypassFold ⟨id, fixed, bad⟩ s = _
    simp only [execBypassFold, found, phase, sect, free]
    rw [if_neg (bnot_not_true ready)]
  · -- BYPASS_FOLD folds
    change execBypassFold ⟨id, fixed, bad⟩ s = _
    simp only [execBypassFold, found, phase, sect, unit]
  · -- WICKET_RESULT that is lost
    change execWicketResult id s = _
    rw [execWicketResult, found]
    simp only [placing, lost, ne_eq, not_true_eq_false, if_false, if_true]
  · -- WICKET_RESULT over the tether
    change execWicketResult id s = _
    rw [execWicketResult, found]
    simp only [placing, kept, via, ne_eq, not_true_eq_false, if_false, region, if_true]
    rfl
  · -- WICKET_RESULT on a queue pair
    change execWicketResult id s = _
    rw [execWicketResult, found]
    obtain ⟨n, via, pair, noError, session⟩ | ⟨i, j, k, l, via, pair⟩ := via
    · simp [placing, kept, via, pair, noError, session, Option.filter]
    · simp [placing, kept, via, pair]

end Sys2Proof.Machine

/-! The commands of power (R607, R621, R622, R625), the power domains' entry and exit (R615 to R634), clocks and temperatures
(R606 to R608). -/

namespace Sys2Proof.Machine

/-- Settles O28: each command names a domain, passes its fields and changes that domain alone. -/
theorem powerCommandsComplete : Obligations.PowerCommandsComplete := by
  unfold Obligations.PowerCommandsComplete
  refine fun r c s u p b => ⟨fun i named => ⟨fun h zero fresh fits => ?_, fun h zero held fits => ?_, fun h zero fits => ?_,
    fun h low high cut zero us => ?_⟩, fun h point zero idle => ?_⟩
  · -- POWER_VOTE
    refine runCommand_ok h fits ?_
    rw [doPowerVote, named]
    change Ctx.fields _ _ _ _ = _
    rw [fields_pass rfl (by simp [zero]), refuseIf_false fresh]
  · -- POWER_RELEASE
    refine runCommand_ok h fits ?_
    rw [doPowerRelease, named]
    change Ctx.fields _ _ _ _ = _
    rw [fields_pass rfl (by simp [zero]), refuseIf_false (by simp [held])]
  · -- POWER_QUERY
    refine runCommand_ok h fits ?_
    rw [doPowerQuery, named]
    change Ctx.fields _ _ _ _ = _
    rw [fields_pass rfl (by simp [zero])]
  · -- POWER_CONFIG
    refine runCommand_ok h (fits_nil c) ?_
    rw [doPowerConfig, named]
    change Ctx.fields _ _ _ _ = _
    rw [fields_pass rfl (by simpa [low, high, zero, us, ← imp_iff_not_or] using cut)]
  · -- CCLK_SET
    refine runCommand_ok h (fits_nil c) ?_
    rw [doCclkSet, fields_pass rfl (by simp [point, zero]), refuseIf_false (by simp [idle])]
    exact (apply_ite (okWith []) _ _ _).symm

/-- A phase of an exit that is the domain's, with its ready signal, ends. -/
theorem exitPhase_ready {s : State} {i f : Nat} {p q : ExitPhase} {ready : Bool} (h : (s.domain i).state = .exiting f p)
    (r : ready = true) : s.exitPhase i p q ready = s.modDomain i fun d => { d with state := .exiting f q } := by
  simp [State.exitPhase, h, r]

/-- The wakes that R631 gives a domain. -/
theorem wakeFits_of {i cause : Nat} (h : cause ≤ 1 ∨ (cause ≤ 3 ∧ 46 ≤ i ∧ i < 54) ∨ (cause = 4 ∧ i = 62) ∨
    ((cause = 5 ∨ cause = 7) ∧ i = 0) ∨ (cause = 6 ∧ 54 ≤ i ∧ i < 58)) : wakeFits i cause = true := by
  have few : cause ≤ 7 := by omega
  interval_cases cause <;> simp [wakeFits] <;> omega

/-- Settles O29: each event finds its domain or port in the state it is for. -/
theorem domainsEnterFallowAndWake : Obligations.DomainsEnterFallowAndWake := by
  unfold Obligations.DomainsEnterFallowAndWake
  refine ⟨fun s i unit => ?_, fun s => ⟨fun port sub data there up st => ?_, fun port sub data there up st plain =>
      ⟨fun why bad => ?_, fun good => ?_⟩, fun port t few energy up late => ?_, fun set_ due => ?_⟩⟩
  · have here : ¬74 < i := by omega
    refine ⟨fun low a0 none_ idle long runs link => ?_, fun t st => ?_, fun t st => ⟨fun wake => ?_, fun quiet => ?_⟩,
      fun cause fits vote unparked untripped => ?_, fun f st => ?_, fun f st clock => ?_, fun f st => ?_⟩
    · -- HYSTERESIS_EXPIRY
      have go : ¬((s.domain i).state ≠ .a0 || (s.domain i).votes ≠ 0 || s.domainBusy i low ||
          s.dev.now < (s.domain i).idleSince + 1000 * (s.domain i).hysteresis || s.dev.phase ≠ .running ||
          (((54 ≤ i && i < 58) || i = 62) && s.entryTarget i = 2 && !low && !(i = 62 && !s.tth.attached))) = true := by
        simp only [a0, none_, idle, runs]
        simpa [or_iff_not_imp_left, long] using link
      change execHysteresisExpiry i low s = _
      rw [execHysteresisExpiry, if_neg here]
      refine congrArg Host.Outcome.next ((if_neg go).trans ?_)
      by_cases zero : i = 0 <;> simp only [zero, if_true, if_false]
    · -- ENTRY_COMMIT
      change execEntryCommit i s = _
      rw [execEntryCommit, if_neg here, st]
    · -- GATE_END with a wake
      change execGateEnd i s = _
      rw [execGateEnd, if_neg here, st]
      exact congrArg Host.Outcome.next (if_pos wake)
    · -- GATE_END
      change execGateEnd i s = _
      rw [execGateEnd, if_neg here, st]
      refine congrArg Host.Outcome.next ((if_neg (ne_true_of_eq_false quiet)).trans (if_congr (by simp) rfl rfl))
    · -- WAKE_LATCH
      have go : ¬(!wakeFits i cause || (cause = 0 && (s.domain i).votes = 0) || s.dev.phase = .parked || s.dev.phase = .tripped) = true := by
        simpa [wakeFits_of fits, unparked, untripped] using vote
      change execWakeLatch i cause s = _
      rw [execWakeLatch, if_neg here, if_neg go]
      simp only [State.wakeOf, Bool.and_eq_true, decide_eq_true_eq, beq_iff_eq, and_assoc]
    · -- PWR_OK
      change execPwrOk i s = _
      rw [execPwrOk, if_neg here, exitPhase_ready st rfl]
    · -- PLL_LOCK
      change execPllLock i s = _
      have ready : (!(decide (2 ≤ i) && decide (i < 46)) || s.domainA0 (domainDie i)) = true := by
        obtain below | above | on := clock
        · simp [show ¬2 ≤ i by omega]
        · simp [show ¬i < 46 by omega]
        · simp [on]
      rw [execPllLock, if_neg here, exitPhase_ready st ready]
    · -- MEM_OK
      change execMemOk i s = _
      rw [execMemOk, if_neg here, exitPhase_ready st rfl]
  · -- LISTEN_FRAME
    have listens : ¬(!s.linkUp port sub || !((s.domain (46 + port)).state == .fallow 2 || (s.domain (46 + port)).state == .entering 2 .gate ||
        match (s.domain (46 + port)).state with | .exiting .. => true | _ => false)) = true := by
      simp [up, st]
    change execListenFrame port sub data s = _
    rw [execListenFrame, if_neg (bnot_not_true there)]
    refine congrArg Host.Outcome.next ((if_neg listens).trans ?_)
    rfl
  · -- KNOCK that is rejected
    have heard : ¬(!s.linkUp port sub || (s.domain (46 + port)).state == .fallow 3 || bit (u8At data 3) 7) = true := by
      simp [up, st, plain]
    change execKnock port sub data s = _
    rw [execKnock, if_neg (bnot_not_true there), if_neg heard, bad]
  · -- KNOCK
    have heard : ¬(!s.linkUp port sub || (s.domain (46 + port)).state == .fallow 3 || bit (u8At data 3) 7) = true := by
      simp [up, st, plain]
    change execKnock port sub data s = _
    rw [execKnock, if_neg (bnot_not_true there), if_neg heard, good]
    exact congrArg Host.Outcome.next (if_congr (by simp) rfl rfl)
  · -- FALSE_WAKE
    change execFalseWake port s = _
    rw [execFalseWake, if_neg (by omega), energy]
    exact congrArg Host.Outcome.next (if_pos (by simp [up, late]))
  · -- LANTERN_TIMER
    change execLanternTimer s = _
    rw [execLanternTimer, if_pos (band_pass (decide_eq_true set_) (decide_eq_true due))]

/-- Settles O30: each event finds the change, die or clock it is for. -/
theorem clocksAndTemperaturesComplete : Obligations.ClocksAndTemperaturesComplete := by
  unfold Obligations.ClocksAndTemperaturesComplete
  refine fun s => ⟨fun x change_ notSwitch => ?_, fun die tj unit on => ?_, fun die unit on hot => ?_, fun k ref fresh => ?_,
    fun k ref lost => ?_, fun t alive lost long => ?_⟩
  · -- CCLK_PHASE_END
    change execCclkPhaseEnd s = _
    rw [execCclkPhaseEnd, change_]
    obtain ⟨phase, target, cause, cmd⟩ := x
    cases phase with
    | switch => exact absurd rfl notSwitch
    | raise => rfl
    | lock => rfl
    | lower => rfl
  · -- DIE_TEMPERATURE
    intro v w
    have runs : ¬(s.dev.phase ≠ .running && s.dev.phase ≠ .booting && s.dev.phase ≠ .recovery) = true := by
      obtain e | e | e := on <;> simp [e]
    have start : exec (.dieTemperature die tj) s = .next (
        if 105 * 16 ≤ v.hotTj then w.thermTrip v.hotTj
        else if 103 * 16 ≤ v.hotTj then (if 0 < s.dev.thermCeil then w.setThermal v.hotTj 0 else w)
        else if 100 * 16 ≤ v.hotTj then (if 1 < s.dev.thermCeil then w.setThermal v.hotTj 1 else w)
        else if (s.dev.thermCeil < s.dev.cclkSet && w.dev.coolSince.any fun t => decide (t + 100000000 ≤ s.dev.now)) = true then
          ({ w with dev.coolSince := some s.dev.now } : State).setThermal v.hotTj (s.dev.thermCeil + 1)
        else w) := by
      change execDieTemperature die tj s = _
      rw [execDieTemperature, if_neg (by omega)]
      exact congrArg Host.Outcome.next (if_neg runs)
    refine ⟨fun h => ?_, fun h h' => ?_, fun h h' => ?_, fun h => ?_⟩
    · rw [start, if_pos h]
    · rw [start, if_neg (by omega), if_pos h]
    · rw [start, if_neg (by omega), if_neg (by omega), if_pos h]
    · rw [start, if_neg (by omega), if_neg (by omega), if_neg (by omega)]
      simp only [Bool.and_eq_true, decide_eq_true_eq]
  · -- DIE_THERMTRIP
    change execDieThermtrip die s = _
    rw [execDieThermtrip, if_neg (by omega)]
    refine congrArg Host.Outcome.next (if_neg (bor_not_true ?_ (decide_eq_false (not_lt.2 hot))))
    obtain e | e | e := on <;> simp [e]
  · -- CLOCK_REF_LOST
    change execClockRefLost k s = _
    rw [execClockRefLost, if_neg (by omega), fresh, if_neg (by simp)]
    simp only [Bool.or_eq_true, decide_eq_true_eq]
  · -- CLOCK_REF_OK
    change execClockRefOk k s = _
    rw [execClockRefOk, if_neg (by omega), if_neg (by rw [Option.isNone_iff_eq_none, ← ne_eq, ← Option.isSome_iff_ne_none]; exact lost)]
  · -- REF_HOLDOVER_EXPIRY
    change execRefHoldoverExpiry s = _
    rw [execRefHoldoverExpiry, if_neg (bor_not_true alive (by rw [any_due lost long]; rfl))]

end Sys2Proof.Machine

/-! The commands that read events, counters, sensors and identity (R601, R659 to R664), the memory commands (R446, R465, R466), and the
silos and loft ports (R443 to R464). -/

namespace Sys2Proof.Machine

/-- Settles O31: each command passes its fields and reports what it names. -/
theorem telemetryAndMemoryCommandsComplete : Obligations.TelemetryAndMemoryCommandsComplete := by
  unfold Obligations.TelemetryAndMemoryCommandsComplete
  refine fun r c s u p b => ⟨fun h low zero fits => ?_, fun h own len block last some_ few form zero fits => ?_, fun h fits => ?_,
    fun h fits => ?_, fun h silo zero fits => ?_, fun h port zero fits => ?_, fun h hours zero => ?_, fun h k hk port form zero free => ?_⟩
  · -- EVENT_READ
    refine runCommand_ok h fits ?_
    rw [doEventRead, fields_pass rfl (by simp [low, zero])]
  · -- COUNTER_READ
    refine runCommand_ok h fits ?_
    have mine : (c.bay.any fun b => b != u16At p 0) = false := by
      cases e : c.bay with
      | none => rfl
      | some k => simpa using own k e
    rw [doCounterRead, refuseIf_false mine, fields_pass rfl (by simp [block, last, some_, few, form, zero])]
  · -- SENSOR_READ
    refine runCommand_ok h fits ?_
    rw [doSensorRead, fields_nil rfl]
  · -- DEVICE_QUERY
    refine runCommand_ok h fits ?_
    rw [doDeviceQuery, fields_nil rfl]
  · -- SILO_QUERY
    refine runCommand_ok h fits ?_
    rw [doSiloQuery, fields_pass rfl (by simp [silo, zero])]
  · -- LOFT_QUERY
    refine runCommand_ok h fits ?_
    rw [doLoftQuery, fields_pass rfl (by simp [port, zero])]
  · -- MEM_SCRUB_CONFIG
    refine runCommand_ok h (fits_nil c) ?_
    rw [doMemScrubConfig, fields_pass rfl (by simp [hours, zero])]
  · -- LOFT_PORT_SET
    subst hk
    refine runCommand_ok h (fits_nil c) ?_
    have unheld : (u8At p 1 == 0 && u.bays.any fun y => y.space.loftExt.contains (u8At p 0)) = false := by
      simpa using free
    rw [doLoftPortSet, fields_pass rfl (by simp [port, form, zero]), refuseIf_false unheld]
    simp only [apply_ite (okWith [])]

/-- An instant that is there and lies within a time before now. -/
theorem any_recent {o : Option Nat} {t d now : Nat} (h : o = some t) (h' : now ≤ t + d) : (o.any fun t => decide (now ≤ t + d)) = true := by
  subst h
  exact decide_eq_true h'

/-- Two tests that fail make one that fails. -/
theorem bor_false {x y : Bool} (h : x = false) (h' : y = false) : (x || y) = false := by simp [h, h']

/-- A loft port that is down, and whose time to try again has come, is tried. -/
theorem loftRetrain_down {s : State} {k trained label : Nat} (unit : k ≤ 3) (down : (s.loft k).state = .down)
    (late : (s.loft k).downAt + 1000000000 ≤ s.dev.now) (clock : s.domainA0 (58 + k) = true) :
    exec (.loftRetrain k trained label) s = .next (
      if trained = 0 then s.modLoft k fun x => { x with downAt := s.dev.now }
      else if label = 1 && !(s.loft k).writesOut then
        (s.modLoft k fun x => { x with state := .up }).raise 0x0305 0 none (some (loftDie k)) (leBytes 1 k)
      else
        let v := ((s.newLabel k).2.loseUnits k).modLoft k fun x => { x with state := .lost, label := (s.newLabel k).1, writesOut := false }
        v.raise 0x0306 2 none (some (loftDie k)) (leBytes 1 k ++ zeros 1 ++ leBytes 2 (v.lostUnits k none - s.lostUnits k none))) := by
  change execLoftRetrain k trained label s = _
  rw [execLoftRetrain, if_neg (by omega)]
  exact congrArg Host.Outcome.next (if_neg (bor_not_true (bor_false (by simp [down]) (decide_eq_false (not_lt.2 late))) (by simp [clock])))

/-- A DevLoad indication of a port that is up is kept, and taken at the next window, or lets the level fall. -/
theorem loftDevload_on {s : State} {k level : Nat} (unit : k ≤ 3) (named : level ≤ 3)
    (on : (s.loft k).state = .up ∨ (s.loft k).state = .lost) :
    exec (.loftDevload k level) s = .next (
      let v := s.modLoft k fun x => { x with devloadAt := x.devloadAt.set level s.dev.now }
      if (s.loft k).devload < level then v.modLoft k fun x => { x with devloadNext := some (max level (x.devloadNext.getD 0)) }
      else if v.devloadNow k level < (s.loft k).devload && (s.loft k).devloadNext.isNone then v.setDevload k (v.devloadNow k level) else v) := by
  change execLoftDevload k level s = _
  rw [execLoftDevload, if_neg (by omega)]
  exact congrArg Host.Outcome.next (if_neg (bor_not_true (decide_eq_false (by omega)) (by obtain e | e := on <;> simp [e])))

/-- Settles O32: each event finds its silo, port, read or unit in the state it is for. -/
theorem silosAndLoftPortsReportAndFail : Obligations.SilosAndLoftPortsReportAndFail := by
  unfold Obligations.SilosAndLoftPortsReportAndFail
  refine ⟨fun s k x unit found kept => ⟨fun temp => ?_, fun t low high none_ below late => ?_, fun cond holds => ?_,
      fun pc bay g channel => ?_, fun pc bay g result channel runs hours next due may => ?_⟩,
    fun s k unit => ⟨fun cause on => ?_, fun trained label down late clock => ⟨fun failed => ?_, fun up same all_ => ?_, fun up new => ?_⟩,
      fun level named on => ⟨fun higher => ?_, fun lower => ?_⟩, fun bay n on => ?_, fun serves up => ?_⟩,
    fun s id bad r found space started => ?_, fun s b e k bay ext lost on rows freed => ?_⟩
  · -- SILO_TEMPERATURE
    change execSiloTemperature k temp s = _
    rw [execSiloTemperature, if_neg (by omega), found]
    exact congrArg Host.Outcome.next (if_neg (ne_true_of_eq_false kept))
  · -- THROTTLE_FALL
    change execThrottleFall k s = _
    have falls : ¬(x.lost || x.step = 0 || 4 < x.step || x.nextStep.isSome) = true := by
      simp [kept, none_, show x.step ≠ 0 by omega, high]
    rw [execThrottleFall, if_neg (by omega), found]
    refine congrArg Host.Outcome.next ((if_neg falls).trans ?_)
    simp only [below]
    exact if_pos late
  · -- SILO_LOST
    change execSiloLost k cond s = _
    rw [execSiloLost, if_neg (by omega), found]
    refine congrArg Host.Outcome.next (if_neg (bor_not_true kept ?_))
    obtain ⟨rfl, t, halted, late⟩ | rfl | rfl | ⟨rfl, t, many, soon⟩ := holds
    · exact congrArg not (any_due halted late)
    · rfl
    · rfl
    · exact congrArg not (any_recent many soon)
  · -- SILO_UE
    change execSiloUe k pc bay g s = _
    rw [execSiloUe, if_neg (by simp; omega), found, if_neg (by simp [kept])]
  · -- SCRUB
    change execScrub k pc bay g result s = _
    have go : ¬(x.lost || x.step = 4 || s.memsys.scrubHours = 0 || !s.scrubNext k pc bay g x ||
        s.dev.now < x.scrubFrom + s.scrubTime x.scrubAt || !s.deviceMay k ((s.wants ++ s.heads).any fun w => w.points.contains k)) = true := by
      rw [next, may]
      simp [kept, runs, hours, due]
    rw [execScrub, if_neg (by simp; omega), found]
    refine congrArg Host.Outcome.next ((if_neg go).trans ?_)
    obtain _ | _ | _ | n := result <;> simp
  · -- LOFT_DOWN
    change execLoftDown k cause s = _
    rw [execLoftDown, if_neg (by omega), if_pos (by simpa using on)]
  · -- LOFT_RETRAIN that fails
    rw [loftRetrain_down unit down late clock, if_pos failed]
  · -- LOFT_RETRAIN with the same expander
    rw [loftRetrain_down unit down late clock, if_neg up, if_pos (by simp [same, all_])]
  · -- LOFT_RETRAIN with another expander
    rw [loftRetrain_down unit down late clock, if_neg up, if_neg (by simpa [← imp_iff_not_or] using new)]
  · -- LOFT_DEVLOAD that rises
    rw [loftDevload_on unit named on, if_pos higher]
  · -- LOFT_DEVLOAD that does not rise
    rw [loftDevload_on unit named on, if_neg (by omega)]
    simp only [Bool.and_eq_true, decide_eq_true_eq, Option.isNone_iff_eq_none]
  · -- LOFT_EVENT_POLL
    change execLoftEventPoll k bay n s = _
    rw [execLoftEventPoll, if_neg (by omega), if_pos (by simpa using on)]
  · -- LOFT_UNIT_ZEROED
    change execLoftUnitZeroed k s = _
    rw [execLoftUnitZeroed, if_neg (by omega), if_neg (bor_not_true (by simp [serves]) (by simp [up]))]
    rfl
  · -- LOFT_POISON
    change execLoftPoison id bad s = _
    rw [execLoftPoison, found]
    exact congrArg Host.Outcome.next (if_neg (by simp [space, started]))
  · -- LOFT_UNIT_RECLAIMED
    have same : (⟨e * unitGranules, unitGranules⟩ : Run) = ⟨unitGranules * e, unitGranules⟩ := by rw [Nat.mul_comm]
    have go : ¬(!(s.bay b).space.lostLoft.contains e || !((s.loft k).state == .up || (s.loft k).state == .lost) ||
        ((s.rowRuns b 2).any fun r => runsMeet r ⟨unitGranules * e, unitGranules⟩) ||
        ((s.bay b).space.loftFreed.any fun r => runsMeet r.1 ⟨unitGranules * e, unitGranules⟩)) = true := by
      rw [← same, rows, freed]
      obtain e | e := on <;> simp [lost, e]
    change execLoftUnitReclaimed b e s = _
    rw [same]
    rw [execLoftUnitReclaimed, if_neg (by omega)]
    simp only [ext]
    exact congrArg Host.Outcome.next (if_neg go)

end Sys2Proof.Machine

/-! Maintenance: the commands on firmware, self-test, margining, resets and secrets (R595, R698 to R716, R719), and the boot phases
(R707 to R711). -/

namespace Sys2Proof.Machine

/-- An upload and the emptying of the slot it goes to leave the security floor. -/
theorem floor_setUpload {s : State} {c : Ctx} {op : Nat} {o : Option (Nat × List Byte)} : (s.setUpload c op o).lan = s.lan := by
  unfold State.setUpload
  split <;> rfl

/-- An image that passes its checks is kept in its slot. -/
theorem stageImage_good {s : State} {k : Nat} {m : List Byte} (okay : imageOk m = true) (floor : s.lan.floor ≤ u32At m 20)
    (signed : Config.ed25519 Config.romKey (m.take (m.length - 64)) (m.drop (m.length - 64)) = true) :
    s.stageImage k m = okWith (leBytes 1 k ++ zeros 7) (s.modFw k fun _ =>
      ⟨.valid, u32At m 8, u64At m 12, u32At m 20, u16At m 6, bit (u8At m 5) 0, true⟩) := by
  rw [State.stageImage, if_neg (bnot_not_true okay), if_neg (not_lt.2 floor), if_neg (bnot_not_true signed)]

/-- A chunk that goes on an upload is taken, or completes the image. -/
theorem fwStage_next {r : Req} {c : Caller} {u : State} {p : List Byte} {b : Nat} {q : Upload} (zero : zeroAt p 8 8 = true)
    (free : u.slotIn .trial = none) (old : (if u32At p 0 = 0 then some ⟨0x0F01, u32At p 4, []⟩ else u.uploadOf (ctxOf c r p b) 0x0F01) = some q)
    (at_ : q.data.length = u32At p 0) (total : q.total = u32At p 4) (fits : u32At p 0 + (p.drop 16).length ≤ u32At p 4) :
    doFwStage (ctxOf c r p b) u =
      let v := if u32At p 0 = 0 then u.modFw u.stageSlot fun _ => Slot.none else u
      let m := q.data ++ p.drop 16
      if m.length < u32At p 4 then okWith [] (v.setUpload (ctxOf c r p b) 0x0F01 (some (u32At p 4, m)))
      else (v.setUpload (ctxOf c r p b) 0x0F01 none).stageImage u.stageSlot m := by
  have okay : ¬(q.data.length ≠ u32At p 0 || q.total ≠ u32At p 4 || u32At p 4 < u32At p 0 + (p.drop 16).length) = true := by
    simpa [at_, total] using fits
  rw [doFwStage, fields_pass rfl (by simpa using zero), refuseIf_false (by simp [free])]
  simp only [old]
  exact if_neg okay

/-- Settles O33: each command passes its fields and finds the slot or run it names. -/
theorem maintenanceCommandsComplete : Obligations.MaintenanceCommandsComplete := by
  unfold Obligations.MaintenanceCommandsComplete
  refine fun r c s u p b => ⟨fun h zero free q old at_ total last => ⟨fun more => ?_, fun whole okay floor signed fits => ?_⟩,
    fun h slot restart zero valid => ?_, fun h fits => ?_, fun h free i found => ?_, fun h few zero absent idle body hbody fits => ?_,
    fun h zero t found fits => ?_,
    fun h kind index sub lanes hk hi hs target legal kinds axis some_ few zero room fresh body hbody fits => ?_,
    fun h zero m found fits => ?_, fun h kind zero => ?_, fun h => ?_⟩
  · -- FW_STAGE of a chunk
    refine runCommand_ok h (fits_nil c) ?_
    rw [fwStage_next zero free old at_ total last]
    exact if_pos more
  · -- FW_STAGE of the last chunk
    refine runCommand_ok h fits ?_
    have floor' : ((if u32At p 0 = 0 then u.modFw u.stageSlot fun _ => Slot.none else u).setUpload (ctxOf c r p b) 0x0F01 none).lan.floor ≤
        u32At (q.data ++ p.drop 16) 20 := by
      rw [floor_setUpload]
      split <;> exact floor
    rw [fwStage_next zero free old at_ total last]
    exact (if_neg (by omega)).trans (stageImage_good okay floor' signed)
  · -- FW_ACTIVATE
    refine runCommand_ok h (fits_nil c) ?_
    rw [doFwActivate, fields_pass rfl (by simp [slot, restart, zero]), refuseIf_false (by simp [valid])]
  · -- FW_QUERY
    refine runCommand_ok h fits ?_
    rw [doFwQuery, fields_nil rfl]
  · -- FW_ROLLBACK
    refine runCommand_ok h (fits_nil c) ?_
    rw [doFwRollback, fields_nil rfl, found]
    exact refuseIf_false (by simp [free])
  · -- SELFTEST_RUN
    subst hbody
    refine runCommand_ok h fits ?_
    have may : (decide (0 < bits (u32At p 0) 1 6) && decide (u32At p 0 < 1024) && zeroAt p 4 4 &&
        !(List.range 16).all fun b => u.bayState b == .absent) = false := by
      obtain none_ | all_ := absent
      · simp [none_]
      · have : ((List.range 16).all fun b => u.bayState b == .absent) = true := by simpa using all_
        simp [this]
    rw [doSelftestRun, refuseIf_false may, fields_pass rfl (by simp [few, zero]), refuseIf_false (by simpa using idle)]
    rfl
  · -- SELFTEST_RESULT
    refine runCommand_ok h fits ?_
    rw [doSelftestResult, fields_pass rfl (by simp [found, zero])]
    simp only [found]
  · -- MARGIN_RUN
    subst hk hi hs hbody
    refine runCommand_ok h fits ?_
    have free : (decide (4 ≤ (u.mgmt.margins.filter fun m => m.state == 0).length) ||
        (u.mgmt.margins.filter fun m => m.state == 0).any fun m => m.kind == u8At p 0 && m.index == u8At p 1 && m.sub == u8At p 2) = false := by
      refine bor_false (decide_eq_false (by omega)) ?_
      simpa [and_assoc] using fresh
    rw [doMarginRun]
    simp only [target]
    rw [refuseIf_false (by simp [legal]), fields_pass rfl (by simp [kinds, axis, some_, few, zero]), refuseIf_false free]
    rfl
  · -- MARGIN_RESULT
    refine runCommand_ok h fits ?_
    rw [doMarginResult, fields_pass rfl (by simp [found, zero])]
    simp only [found]
  · -- DEVICE_RESET
    refine runCommand_ok h (fits_nil c) ?_
    rw [doDeviceReset, fields_pass rfl (by simp [kind, zero])]
  · -- ADMIN_REKEY
    refine runCommand_ok h (fits_nil c) ?_
    rw [doAdminRekey, fields_nil rfl]

/-- Settles O34: each phase of the boot is the one under way, and each run is the one that ends. -/
theorem bootPhasesComplete : Obligations.BootPhasesComplete := by
  unfold Obligations.BootPhasesComplete
  refine fun s => ⟨fun boots => ?_, fun i t trial since serves okay late => ?_, fun run failed code t found => ?_,
    fun run results m found => ?_⟩
  · have on : ¬s.dev.phase ≠ .booting := not_not.2 boots
    refine ⟨fun st => ?_, fun eeprom variant st => ?_, fun st => ?_, fun repairs failed capacity st => ?_, fun st => ?_,
      fun failed code st => ?_, fun loft st => ?_, fun st => ?_⟩
    · -- Verify
      change execBootPhase _ s = _
      rw [execBootPhase, if_neg on]
      exact st
    · -- Records
      change execBootPhase _ s = _
      rw [execBootPhase, if_neg on]
      exact st
    · -- Domains
      change execBootPhase _ s = _
      rw [execBootPhase, if_neg on]
      exact st
    · -- Silos
      change execBootPhase _ s = _
      rw [execBootPhase, if_neg on]
      exact st
    · -- Init
      change execBootPhase _ s = _
      rw [execBootPhase, if_neg on]
      exact st
    · -- Selftest
      change execBootPhase _ s = _
      rw [execBootPhase, if_neg on]
      exact st
    · -- Ports
      change execBootPhase _ s = _
      rw [execBootPhase, if_neg on]
      exact st
    · -- Ready
      change execBootComplete s = _
      rw [execBootComplete, if_neg (bor_not_true (decide_eq_false on) (decide_eq_false (not_not.2 st)))]
      rfl
  · -- TRIAL_CONFIRMED
    change execTrialConfirmed s = _
    rw [execTrialConfirmed, trial, since]
    exact congrArg Host.Outcome.next (if_neg (bor_not_true (bor_false (by simp [serves]) okay) (decide_eq_false (not_lt.2 late))))
  · -- SELFTEST_DONE
    change execSelftestDone run failed code s = _
    rw [execSelftestDone, found]
  · -- MARGIN_DONE
    change execMarginDone run results s = _
    rw [execMarginDone, found]

end Sys2Proof.Machine

/-! Network ports: the NET commands, priority flow control, preemption, links and frames (R467 to R482, R497). -/

namespace Sys2Proof.Machine

/-- A count leaves the network as it was. -/
theorem net_count {s : State} {block i k : Nat} : (s.count block i k).net = s.net := by
  unfold State.count
  split <;> rfl

/-- A change of a sub-port leaves every port's settings. -/
theorem settings_modSub {s : State} {port sub k : Nat} {f : SubPort → SubPort} : (s.modSub port sub f).settings k = s.settings k := by
  simp only [State.settings, State.modSub, List.getElem?_modify]
  cases s.net.ports[k]? with
  | none => rfl
  | some p =>
    by_cases at_ : port = k <;> simp [at_]

/-- So does a count of a sub-port. -/
theorem settings_countSub {s : State} {port sub i n k : Nat} : (s.countSub port sub i n).settings k = s.settings k := by
  have counted : (s.countSub port sub i n).settings k = (s.modSub port sub fun x =>
      { x with counters := x.counters.modify i fun m => satAdd 64 m n }).settings k := by
    simp only [State.countSub, State.settings, net_count]
  rw [counted, settings_modSub]

/-- Fragments that are held are discarded where their continuation does not follow. -/
theorem cutFrame_eq {s : State} {port sub : Nat} : s.cutFrame port sub = if ((s.subPort port sub).bind SubPort.fragment).isSome = true
    then (s.discardFrame port sub).modSub port sub fun x => { x with fragment := none } else s := by
  unfold State.cutFrame
  cases s.subPort port sub <;> rfl

/-- The fields of NET_PORT_SET pass. -/
theorem netPortSet_good {p : List Byte} {x : PortSettings} (port : u8At p 0 < 8) (mode : x.mode ≤ 5) (preempt : x.preempt ≤ 1)
    (three : ∀ i, i < 3 → u8At p (5 + i) ≤ 7 ∧ u8At p (8 + i) ≤ 63) (zero11 : zeroAt p 11 1 = true)
    (xoff : x.xoff ≤ sharedBytes x.mode x.pfcMask) (xon : x.xon < x.xoff) (step : 1 ≤ x.stepDen) (zero25 : zeroAt p 25 3 = true)
    (vcp : 1024 ≤ x.vcpPort) (zero34 : zeroAt p 34 2 = true) (dscps : ∀ i, i < 64 → u8At p (36 + i) ≤ 7) {big : Bool} :
    Good ([(0, decide (u8At p 0 < 8)), (1, decide (x.mode ≤ 5)), (4, decide (x.preempt ≤ 1))] ++
      (items 3 fun i => (5 + i, decide (u8At p (5 + i) ≤ 7))) ++ (items 3 fun i => (8 + i, decide (u8At p (8 + i) ≤ 63))) ++
      [(11, zeroAt p 11 1), (12, big || decide (x.xoff ≤ sharedBytes x.mode x.pfcMask)), (16, decide (x.xon < x.xoff)),
       (24, decide (1 ≤ x.stepDen)), (25, zeroAt p 25 3), (32, decide (1024 ≤ x.vcpPort)), (34, zeroAt p 34 2)] ++
      (items 64 fun i => (36 + i, decide (u8At p (36 + i) ≤ 7)))) :=
  good_append (good_append (good_append (good_append (by simp [port, mode, preempt])
    (good_items fun i hi => decide_eq_true (three i hi).1)) (good_items fun i hi => decide_eq_true (three i hi).2))
    (by simp [zero11, xoff, xon, step, zero25, vcp, zero34])) (good_items fun i hi => decide_eq_true (dscps i hi))

/-- A sub-port and priority that the device has. -/
theorem hasPrio {port sub prio : Nat} (there : hasSub port sub = true) (few : prio < 8) : ¬(!hasSub port sub || 8 ≤ prio) = true :=
  bor_not_true (by simp [there]) (decide_eq_false (not_le.2 few))

/-- Settles O35: each command passes its fields, and each event finds its port in the state it is for. -/
theorem portCommandsAndEventsComplete : Obligations.PortCommandsAndEventsComplete := by
  unfold Obligations.PortCommandsAndEventsComplete
  refine ⟨fun r c s u p b => ⟨fun h port zero fits => ?_,
      fun h x hx port mode preempt three zero11 xoff xon step zero25 vcp zero34 dscps room => ?_,
      fun h port sub few zero l hl each => ?_⟩,
    fun s port sub there => ⟨fun prio few => ⟨fun alive quanta => ?_, fun p found paused late => ?_,
        fun p t found since still long quiet => ?_, fun alive n => ?_, fun p t alive found high at_ late => ?_⟩,
      fun x n answered frag found verifies up ends => ?_, fun up p sub' changes found may => ?_,
      fun n tags mark fixed f few pcp alive on => ?_, fun n tags prio f => ?_⟩⟩
  · -- NET_PORT_QUERY
    refine runCommand_ok h fits ?_
    rw [doNetPortQuery, fields_pass rfl (by simp [port, zero])]
    rfl
  · -- NET_PORT_SET
    subst hx
    refine runCommand_later h ?_
    rw [doNetPortSet, fields_pass rfl (netPortSet_good port mode preempt three zero11 xoff xon step zero25 vcp zero34 dscps),
      refuseIf_false (decide_eq_false (not_lt.2 room))]
    rfl
  · -- NET_ADDR_SET
    subst hl
    refine runCommand_ok h (fits_nil c) ?_
    have none_ : ((List.range (u8At p 2)).find? fun i => !(addrItemOk p i && decide ((((items (u8At p 2) (addrItem p)).take (i + 1)).filter
        fun a => a.addr.v6 == (addrItem p i).addr.v6).length ≤ 4))) = none := by
      simpa using each
    rw [doNetAddrSet, fields_pass rfl (by simp [port, sub, few, zero])]
    simp only [none_]
  · -- PFC_FRAME
    change execPfcFrame port sub prio quanta s = _
    rw [execPfcFrame, if_neg (hasPrio there few), if_neg (bnot_not_true alive)]
    simp only [Bool.not_eq_true']
  · -- PFC_PAUSE_EXPIRY
    change execPfcPauseExpiry port sub prio s = _
    rw [execPfcPauseExpiry, if_neg (hasPrio there few), if_pos (by simp [found, paused, late])]
  · -- NET_PFC_STORM
    change execNetPfcStorm port sub prio s = _
    rw [execNetPfcStorm, if_neg (hasPrio there few), found]
    simp only [since]
    exact congrArg Host.Outcome.next (if_pos (band_pass (band_pass (decide_eq_true still) (decide_eq_true long)) (all_due quiet)))
  · -- PFC_XOFF
    change execPfcXoff port sub prio n s = _
    rw [execPfcXoff, if_neg (hasPrio there few), if_neg (bnot_not_true alive)]
    simp only [Bool.and_eq_true, Bool.not_eq_true', decide_eq_true_eq, and_assoc]
    rfl
  · -- PFC_REPEAT
    change execPfcRepeat port sub prio s = _
    have due : (s.alive port sub && (s.prio port sub prio).any fun p =>
        decide ((s.settings port).xon ≤ p.occupancy) && p.xoffAt.any fun t => decide (t + 20000 ≤ s.dev.now)) = true := by
      refine band_pass alive ?_
      rw [found]
      exact band_pass (decide_eq_true high) (any_due at_ late)
    rw [execPfcRepeat, if_neg (hasPrio there few), if_pos due]
  · -- PREEMPT_VERIFY
    change execPreemptVerify port sub answered frag s = _
    rw [execPreemptVerify, if_neg (bnot_not_true there), found]
    simp only [verifies]
    rw [if_neg (by simp [up])]
    by_cases hears : 0 < answered
    · rw [if_pos hears, if_pos hears]
    · rw [if_neg hears, if_neg hears, if_neg (by omega)]
  · -- NET_LINK_CHANGE
    change execNetLinkChange port sub up s = _
    have goes : ¬(up && (s.dev.phase != .running || (s.net.ports[port]?).any fun p => p.cage == 2)) = true := by
      cases up <;> simp_all
    rw [execNetLinkChange, if_neg (bnot_not_true there), if_neg (bor_not_true (decide_eq_false (not_le.2 sub')) (by simpa using changes)),
      if_neg goes]
    simp only [Bool.and_eq_true, decide_eq_true_eq]
  · -- FRAME_RECEIVE
    intro prio u held cut
    have unit : ¬(!hasSub port sub || 64 ≤ mark || (tags != 0 && decide (8 ≤ mark))) = true := by
      refine bor_not_true (bor_false (by simp [there]) (decide_eq_false (not_le.2 few))) ?_
      obtain e | e := pcp
      · simp [e]
      · simp [show ¬8 ≤ mark by omega]
    have seen : ¬(!s.alive port sub || !s.portOn port) = true := bor_not_true (by simp [alive]) (by simp [on])
    have same : u.rxPrio port tags mark = prio := by rw [State.rxPrio, settings_countSub]
    have cut_eq : u.cutFrame port sub = cut := cutFrame_eq
    refine ⟨fun hf => ?_, fun inOrder last whole hf => ⟨fun none_ => ?_, fun m held' => ?_⟩, fun notFirst notNext => ?_⟩
    · change execFrameReceive port sub n tags mark fixed f s = _
      subst hf
      rw [execFrameReceive, if_neg unit, if_neg seen, ← cut_eq]
    · change execFrameReceive port sub n tags mark fixed f s = _
      subst hf
      rw [execFrameReceive, if_neg unit, if_neg seen]
      change Host.Outcome.next (match held with | none => _ | some _ => _) = _
      rw [none_]
    · change execFrameReceive port sub n tags mark fixed f s = _
      subst hf
      rw [execFrameReceive, if_neg unit, if_neg seen]
      change Host.Outcome.next (match held with | none => _ | some _ => _) = _
      rw [held', ← cut_eq, ← same]
      cases inOrder <;> rfl
    · change execFrameReceive port sub n tags mark fixed f s = _
      rw [execFrameReceive, if_neg unit, if_neg seen, ← cut_eq, ← same]
      cases f with
      | firstPart => exact absurd rfl notFirst
      | nextPart inOrder last whole => exact absurd rfl (notNext inOrder last whole)
      | _ => rfl
  · -- A whole frame
    intro v drop
    refine ⟨fun cw hf => ?_, fun notFcs bad => ?_, fun short oneTag room => ?_⟩
    · subst hf
      rfl
    · have discard : (9216 < n || 1 < tags || (!s.pfcOn port prio && s.sharedFull port)) = true := by
        simpa [or_assoc] using bad
      cases f with
      | badFcs cw => exact absurd rfl (notFcs cw)
      | _ => exact if_pos discard
    · have keep : ¬(9216 < n || 1 < tags || (!s.pfcOn port prio && s.sharedFull port)) = true := by
        refine bor_not_true (bor_false (decide_eq_false (not_lt.2 short)) (decide_eq_false (not_lt.2 oneTag))) ?_
        obtain e | e := room <;> simp [e]
      refine ⟨fun hf => ?_, fun hf => ?_, fun hf => ?_, fun hf => ?_, fun a hf => ?_, fun a d hf => ?_⟩
      · subst hf
        exact if_neg keep
      · subst hf
        exact if_neg keep
      · subst hf
        exact if_neg keep
      · obtain rfl | rfl := hf <;> exact if_neg keep
      · subst hf
        exact if_neg keep
      · subst hf
        refine (if_neg keep).trans (if_congr ?_ rfl rfl)
        simp only [Bool.and_eq_true, decide_eq_true_eq]

end Sys2Proof.Machine

/-! Queue pairs in RTS (R477, R478, R484, R489), and the links (R513 to R518). -/

namespace Sys2Proof.Machine

/-- A queue pair without an error is in RTS. -/
theorem rts_some {s : State} {n : Nat} {q : Qp} (h : s.qp n = some q) (okay : q.error = none) : s.rts n = some q := by
  simp [State.rts, h, okay, Option.filter]

/-- Settles O36: each event finds its queue pair in RTS, or its session ended. -/
theorem queuePairEventsComplete : Obligations.QueuePairEventsComplete := by
  unfold Obligations.QueuePairEventsComplete
  refine fun s n q found => ⟨fun okay kind psn => ?_, fun okay out late => ?_, fun finished none_ all_ => ?_, fun okay up kind => ?_,
    fun okay some_ late => ?_, fun okay => ?_, fun okay quiet => ?_, fun okay up spaced => ?_⟩
  · -- RDMA_ACK
    change execRdmaAck n kind psn s = _
    rw [execRdmaAck, rts_some found okay]
  · -- QP_RETRY_TIMEOUT
    change execQpRetryTimeout n s = _
    rw [execQpRetryTimeout, rts_some found okay]
    exact congrArg Host.Outcome.next (if_neg (bor_not_true (by simpa using out) (decide_eq_false (not_lt.2 late))))
  · -- QP_ERROR
    have ended : ((s.session q.session).all (fun x => x.state == .ended) && (s.sessionWork q.session).isEmpty && q.unacked.isEmpty) = true := by
      simpa [Option.all_eq_true, none_, all_] using finished
    change execQpError n s = _
    rw [execQpError, found]
    exact congrArg Host.Outcome.next (if_pos ended)
  · -- RDMA_READ
    change execRdmaRead n kind s = _
    rw [execRdmaRead, rts_some found okay]
    exact congrArg Host.Outcome.next (if_pos up)
  · -- RESPONDER_ACK_DEADLINE
    change execResponderAckDeadline n s = _
    rw [execResponderAckDeadline, rts_some found okay]
    exact congrArg Host.Outcome.next (if_pos (band_pass (decide_eq_true some_) (decide_eq_true late)))
  · -- CNP_RECEIVE
    change execCnpReceive n s = _
    rw [execCnpReceive, rts_some found okay]
  · -- RATE_INCREASE
    change execRateIncrease n s = _
    rw [execRateIncrease, rts_some found okay]
    exact congrArg Host.Outcome.next (if_neg (not_lt.2 quiet))
  · -- CE_MARKED_PACKET
    change execCeMarkedPacket n s = _
    rw [execCeMarkedPacket, rts_some found okay]
    exact congrArg Host.Outcome.next (if_pos (band_pass up (all_due spaced)))

/-- A device whose ridge retrains with nothing to replay, while a message waits on the first yoke. -/
def ridgeRetrained : State :=
  (State.reset.modLink 0 fun l => { l with state := .retrain }).modLink 1 fun l => { l with
    state := .up, credits := [100, 100, 100], queue := [⟨0, none, false, 1, none, .linkRetrain 1⟩] }

/-- The messages that wait on the first yoke after a step. -/
def waitingOnYoke : Out → Option Nat
  | .next s => some (s.link 1).queue.length
  | _ => none

/-- Refutes O37: what waits for the ridge goes on by `State.linkGoesOn`, and for the ridge these are, beside the reads that `State.pump`
serves, the messages and frames that `State.portsGoOn` lets go (R513). The statement has the reads alone. A device whose ridge comes up
again sends the message that waits on its first yoke; by the statement it would still wait. -/
theorem not_linksRetryAndRetrain : ¬ Obligations.LinksRetryAndRetrain := by
  unfold Obligations.LinksRetryAndRetrain
  rintro ⟨-, links, -⟩
  obtain ⟨-, -, retrained⟩ := links ridgeRetrained 0 (by decide)
  have claim := congrArg waitingOnYoke (retrained true (by decide +kernel) (by decide +kernel))
  exact absurd claim (by decide +kernel)

end Sys2Proof.Machine

/-! Shard maps (R534, R537, R538) and the messages of commands on several packages (R539). -/

namespace Sys2Proof.Machine

/-- A table that a command can change lets a command on it go on. -/
theorem inOrder_live {c : Caller} {r : Req} {p : List Byte} {b n : Nat} {s : State} {t : Tab} {k : Result} (free : TableFree s b n t) :
    inOrder (ctxOf c r p b) s n ((s.table b n).any fun t => t.life == .rebuilding) k = k := by
  obtain ⟨there, live, parked, prepared⟩ := free
  have named : t.id = n := findKey_key there
  rw [named] at parked prepared
  exact inOrder_pass (by simp [there, live]) parked prepared

/-- A map that passes its checks, for which there is room, is installed where this package alone holds the table before and after, and
else is prepared here and at the packages it names. -/
theorem shardMapLoad_made {c : Caller} {r : Req} {p : List Byte} {b : Nat} {u w z : State} {t : Tab} {v : List Byte × State}
    {m : ShardMap} {segs : List Segment} (bulk : Good (bulkChecks p 0 [1, 2] (u.ringBytes b))) (len : 16 ≤ (bulkAt p 0).length)
    (free : TableFree u b (u16At (bulkSource u b p 0 24) 0) t) (source : takeSource (ctxOf c r p b) u 0 24 = v)
    (found : v.2.table b (u16At v.1 0) = some t) (checks : firstBad (v.2.mapChecks v.1 t.desc.rows) = none) (none_ : t.prevMap = none)
    (map : m = ⟨(t.map.version + 1) % 2 ^ 32, (mapFrom v.1).entries.map fun e =>
      if v.2.isSelf e.owner then { e with owner := v.2.selfNumber } else e⟩)
    (made : v.2.newSegments b t m = some (segs, w)) (reported : z = w.overlaps b t.id m) :
    doShardMapLoad (ctxOf c r p b) u =
      let body := leBytes 4 m.version ++ zeros 4
      let nodes := z.otherNodes (m.entries.map MapEntry.owner)
      let msg := r.msg.take 16 ++ m.bytes t.id
      let y := z.putPrepared ⟨selfNode, z.dev.commands, b, t.id, segs, false, msg, false⟩
      let x : Span := ⟨z.dev.commands, ⟨r.via, msg⟩, b, nodes, [], .span, z.dev.now, y.setupOf b t, body⟩
      let q : State := { y with dev.commands := z.dev.commands + 1, fab.spans := y.fab.spans ++ [x] }
      if nodes.isEmpty && (z.otherNodes (t.map.entries.map MapEntry.owner)).isEmpty then okWith body (z.install b t.id m segs)
      else if nodes.isEmpty then (none, q.spanNext { x with phase := .prepare })
      else (none, q.emits (nodes.map fun n => .span n 0 z.dev.commands x.setup)) := by
  have data : bulkSource u b p 0 24 = v.1 := by
    rw [← source]
    rfl
  subst map reported
  obtain ⟨d, s⟩ := v
  have fields : Good (bulkChecks p 0 [1, 2] (u.ringBytes b) ++ [(16, decide (16 ≤ (bulkAt p 0).length))]) := good_append bulk (by simpa using len)
  have there : (s.table b (u16At d 0)).filter (fun t => t.life != .destroying) = some t := by
    obtain ⟨-, live, -⟩ := free
    simp only [found, Option.filter, live]
    rfl
  rw [doShardMapLoad, fields_pass rfl fields]
  refine (inOrder_live free).trans ?_
  simp only [source, data, there, checks, none_]
  rw [made]
  rfl

/-- Settles O38: a map that passes its checks is installed, or its packages are asked; each message is of the kind it is for. -/
theorem shardMapsAreLoadedAndRetired : Obligations.ShardMapsAreLoadedAndRetired := by
  unfold Obligations.ShardMapsAreLoadedAndRetired
  refine ⟨fun r c s u p b => ⟨fun h now bulk len n t hn free => ?_, fun h t there zero bulk dest fits => ?_⟩,
    fun s node tag status msgs admitted => ?_, fun s b n before since t m bay found prev done late => ?_⟩
  · -- SHARD_MAP_LOAD
    intro v found checks none_ raw own m segs w made z body nodes msg y x q
    subst hn
    have loads := shardMapLoad_made (c := c) (r := r) bulk len free (v := v) rfl found checks none_ (m := m) rfl made (z := z) rfl
    refine ⟨fun here old fits => runCommand_ok h fits ?_, fun here old => runCommand_later h ?_, fun others => runCommand_later h ?_⟩ <;>
      rw [paced_now now, loads]
    · exact if_pos (band_pass (List.isEmpty_iff.2 here) (List.isEmpty_iff.2 old))
    · exact (if_neg fun h => old (List.isEmpty_iff.1 (Bool.and_eq_true_iff.1 h).2)).trans (if_pos (List.isEmpty_iff.2 here))
    · exact (if_neg fun h => others (List.isEmpty_iff.1 (Bool.and_eq_true_iff.1 h).1)).trans (if_neg fun h => others (List.isEmpty_iff.1 h))
  · -- SHARD_MAP_GET
    refine runCommand_ok h fits ?_
    rw [doShardMapGet, onTable_pass (tab_of_there there) (good_append (by simpa using zero) bulk)]
    simp only [dest]
  · -- SPAN_MESSAGE
    have start : ∀ kind, exec (.spanMessage node kind tag status msgs) s = execSpanMessage node kind tag status msgs s := fun _ => rfl
    simp only [start, execSpanMessage, admitted]
    exact ⟨rfl, rfl, rfl, rfl, rfl, rfl, rfl⟩
  · -- MAP_VERSION_RETIRE
    change execMapVersionRetire b n s = _
    rw [execMapVersionRetire, if_neg (by omega), found]
    simp only [prev]
    rw [if_neg (bor_not_true (by simp [done]) (decide_eq_false (not_lt.2 late)))]

end Sys2Proof.Machine

/-! Muster: its commands, the phases of the election, the roster and what a message does (R505 to R511). -/

namespace Sys2Proof.Machine

/-- The credit of a muster message changes neither the network's state nor the device's. -/
theorem musterCredit_keeps {s : State} {source : Nat} {m : MusterMsg} :
    (s.musterCredit source m).net = s.net ∧ (s.musterCredit source m).dev = s.dev := by
  unfold State.musterCredit
  split <;> exact ⟨rfl, rfl⟩

/-- Whether a message is of the field depends on the network's state alone. -/
theorem musterOk_congr {s u : State} {m : MusterMsg} (h : u.net = s.net) : u.musterOk m = s.musterOk m := by
  unfold State.musterOk
  rw [h]

/-- A message of the field from another node: it is noted who was heard, and what its kind asks is done. -/
theorem musterMessage_taken {s u : State} {source : Nat} {m : MusterMsg} (credit : s.musterCredit source m = u) (net : u.net = s.net)
    (dev : u.dev = s.dev) (runs : s.net.muster.phase ≠ .stopped) (okay : s.musterOk m = true)
    (other : m.sender ≠ s.net.muster.config.nodeId) :
    exec (.musterMessage source m) s = .next (
      let v := u.modMuster fun y => { y with
        heard := (m.sender, source, s.dev.now) :: y.heard.filter fun h => !(h.1 == m.sender && h.2.1 == source)
        roster := y.roster.map fun r => if r.nodeId = m.sender then { r with heardAt := s.dev.now } else r }
      let addr := (m.roster.find? fun r => r.1 == m.sender).bind fun r => r.2.2
      if m.kind = 0 then (if v.isCoordinator && !v.isDuplicated m.sender then v.admitNode m.sender m.number addr else v)
      else if m.kind = 1 then (if m.target = s.net.muster.config.nodeId && s.net.muster.phase = .admitting &&
          s.net.muster.coordinator = some m.sender
        then (v.net.muster.roster.foldl (fun s x => State.restartChannels s x.number) v).modMuster fun y => { y with number := some m.number }
        else v)
      else if m.kind = 2 then (if m.target = s.net.muster.config.nodeId && v.isCoordinator && !v.isDuplicated m.sender
        then v.admitNode m.sender m.number addr else v)
      else if m.kind = 3 then v.rosterHeard m else v.dropMuster) := by
  change execMusterMessage source m s = _
  have okay' : ¬(!u.musterOk m) = true := bnot_not_true ((musterOk_congr net).trans okay)
  rw [execMusterMessage, credit]
  simp only [net, dev]
  rw [if_neg runs, if_neg okay', if_neg other]
  obtain ⟨kind, _⟩ := m
  obtain _ | _ | _ | _ | k := kind <;> rfl

/-- Settles O39: each command passes its fields; each event finds the node in the phase it is for, and each message is the field's. -/
theorem musterElectsAndAdmits : Obligations.MusterElectsAndAdmits := by
  unfold Obligations.MusterElectsAndAdmits
  refine ⟨fun r c s u p b => ⟨fun h few zero => ?_, fun h zero fits => ?_⟩,
    fun s => ⟨fun phase calm due => ?_, fun phase calm late => ?_, fun phase late => ?_, fun coord late => ?_,
      fun id x found coord other late => ?_, fun phase member late => ?_, fun t back late => ?_, fun source m runs => ?_⟩⟩
  · -- MUSTER_CONFIG
    refine runCommand_ok h (fits_nil c) ?_
    rw [doMusterConfig, fields_pass rfl (by simp [few, zero])]
    simp only [Bool.and_eq_true, decide_eq_true_eq]
  · -- MUSTER_QUERY
    refine runCommand_ok h fits ?_
    rw [doMusterQuery, fields_pass rfl (by simp [zero])]
  · -- ANNOUNCE
    change execAnnounce s = _
    rw [execAnnounce]
    exact congrArg Host.Outcome.next (if_neg (bor_not_true (bor_false (by simp [phase]) (by simp [calm])) (decide_eq_false (not_lt.2 due))))
  · -- DECIDE
    intro wait low
    have goes : ¬(s.net.muster.phase ≠ .announce || s.net.muster.backoffUntil.isSome ||
        s.dev.now < s.net.muster.phaseSince + 20000000) = true :=
      bor_not_true (bor_false (by simp [phase]) (by simp [calm])) (decide_eq_false (not_lt.2 late))
    refine ⟨fun k heard => ?_, fun heard => ?_⟩ <;> change execDecide s = _ <;> rw [execDecide] <;> simp only [heard]
    · exact congrArg Host.Outcome.next (if_neg goes)
    · exact congrArg Host.Outcome.next (if_neg goes)
  · -- ADMIT_TIMEOUT
    change execAdmitTimeout s = _
    rw [execAdmitTimeout, if_pos (band_pass (decide_eq_true phase) (decide_eq_true late))]
  · -- ROSTER_PERIOD
    change execRosterPeriod s = _
    rw [execRosterPeriod, if_pos (band_pass coord (decide_eq_true late))]
  · -- MUSTER_NODE_LOST
    change execMusterNodeLost id s = _
    rw [execMusterNodeLost, found]
    exact congrArg Host.Outcome.next
      (if_neg (bor_not_true (bor_false (by simp [coord]) (decide_eq_false other)) (decide_eq_false (not_lt.2 late))))
  · -- ROSTER_SILENCE
    change execRosterSilence s = _
    rw [execRosterSilence, if_pos (band_pass (band_pass (decide_eq_true phase) (by simp [member])) (decide_eq_true late))]
  · -- DUP_ID_BACKOFF
    change execDupIdBackoff s = _
    rw [execDupIdBackoff, back]
    exact congrArg Host.Outcome.next (if_pos (decide_eq_true late))
  · intro u
    have credit : s.musterCredit source m = u := if_congr (by simp) rfl rfl
    obtain ⟨net, dev⟩ : u.net = s.net ∧ u.dev = s.dev := credit ▸ musterCredit_keeps
    clear_value u
    refine ⟨fun bad => ⟨?_, ?_⟩, fun okay kind own elsewhere => ?_, fun okay other => ?_⟩
    · -- MUSTER_MESSAGE that is not the field's
      change execMusterMessage source m s = _
      rw [execMusterMessage, credit]
      simp only [net, musterOk_congr net, bad]
      rw [if_neg runs]
      rfl
    · -- MUSTER_DUP_ID that is not the field's
      change execMusterDupId source m s = _
      rw [execMusterDupId, credit]
      simp only [net, musterOk_congr net, bad]
      rw [if_neg runs]
      rfl
    · -- MUSTER_DUP_ID
      change execMusterDupId source m s = _
      have dup : ¬(m.kind ≠ 0 || m.sender ≠ s.net.muster.config.nodeId || source = 0) = true := by simp [kind, own, elsewhere]
      rw [execMusterDupId, credit]
      simp only [net, musterOk_congr net, okay]
      rw [if_neg runs, if_neg (by simp)]
      exact congrArg Host.Outcome.next (if_neg dup)
    · -- MUSTER_MESSAGE
      rw [musterMessage_taken credit net dev runs okay other]
      refine ⟨fun kind => ?_, fun kind => ?_, fun kind => ?_, fun kind => ?_⟩
      · simp only [kind, Bool.and_eq_true, Bool.not_eq_true', if_true]
      · simp only [kind, Bool.and_eq_true, decide_eq_true_eq, and_assoc]
        rfl
      · simp only [kind, Bool.and_eq_true, Bool.not_eq_true', decide_eq_true_eq, and_assoc]
        rfl
      · simp only [kind]
        rfl

end Sys2Proof.Machine

/-! A held sheaf that is released (R391). -/

namespace Sys2Proof.Machine

/-- An update sheaf that is held, the next of its session. -/
def heldUpdate : Sheaf := { State.reset.newSheaf 0 1 .lost 0 [] with phase := .held }

/-- A device that holds it. -/
def holdingUpdate : State := { State.reset.putSession (newSession 1 0 (some 0) 0 0 0) with dp.sheafs := [heldUpdate] }

/-- Whether the first sheaf counts as released after a step. -/
def releasedAfter : Out → Option Bool
  | .next s => (s.sheaf 0).map Sheaf.released
  | _ => none

/-- Refutes O40: a sheaf that HOLD_RELEASE releases is also marked as released (`State.release`), the mark by which the later sheafs of its
session are released in their turn (R391). The statement changes its phase alone, so that the mark of a sheaf that has never been released
would stay unset. -/
theorem not_hatchWritesRingDoorbells : ¬ Obligations.HatchWritesRingDoorbells := by
  unfold Obligations.HatchWritesRingDoorbells
  rintro ⟨-, sheafs⟩
  obtain ⟨release, -⟩ := sheafs holdingUpdate 0 heldUpdate (by decide +kernel)
  have claim := congrArg releasedAfter (release (by decide +kernel) (by decide +kernel))
  exact absurd claim (by decide +kernel)

end Sys2Proof.Machine

/-! The jobs of crews: their start, faults and end (R275 to R280, R289, R290, R296 to R299). -/

namespace Sys2Proof.Machine

/-- A HAND_RUN whose crews are all idle, and next in their turn, starts on each of them. -/
theorem startRunJob_ready {s : State} {b id : Nat} {w : Waiting} (found : s.job id = some w)
    (ready : ∀ k ∈ maskCrews (natAt w.args 1), ∃ y, s.dp.crews[k]? = some y ∧ y.queue = [] ∧ y.job = none ∧ y.resetUntil ≤ s.dev.now ∧
      y.runs.head? = some id ∧ s.freeContexts b (k / 16) ≠ []) :
    s.startRunJob b id = (maskCrews (natAt w.args 1)).foldl (fun s' k =>
      (State.write s' .store k 0 (s.argPage b) w.data).beginJob k b 3 (natAt w.args 0) (2 ^ 64) (0x100000 + s.argPage b) 0
        (1000 * natAt w.args 2) id) (s.modJob id fun w => { w with at_ := 1 }) := by
  have all_ : ((maskCrews (natAt w.args 1)).all fun k => (s.dp.crews[k]?).any fun c => c.idle s.dev.now && c.runs.head? == some id &&
      !(s.freeContexts b (k / 16)).isEmpty) = true := by
    refine List.all_eq_true.2 fun k hk => ?_
    obtain ⟨y, there, queue, job, reset, first, contexts⟩ := ready k hk
    simp [there, Crew.idle, queue, job, reset, first, contexts]
  rw [State.startRunJob, found]
  exact if_neg (bnot_not_true all_)

/-- What follows on the fault of a hand, by the role of its job. -/
theorem crewFault_eq {s : State} {crew hand cause pc addr b : Nat} {j : Job} (bay : s.crewBay crew = some b) (job : s.jobOf crew = some j) :
    s.crewFault crew hand cause pc addr =
      let v := ((((s.raise 0x0408 2 (some b) (some (crew / 16))
        (leBytes 1 (16 * (crew % 16) + hand) ++ leBytes 1 cause ++ leBytes 4 (pc % 2 ^ 32) ++ leBytes 6 addr)).modCounters b
          fun c => { c with handFaults := satAdd 32 c.handFaults 1 }).count b 8 1).stopContexts crew (j.role == 1)).dropReads fun r =>
          match r.purpose with
          | .hand c .. => c == crew
          | _ => false
      let v' := if cause = 9 ∧ v.codePage b addr = true then v.reloadCode b crew else v
      let z := v'.modCrew crew fun c => { c with job := none, resetUntil := v'.dev.now + 2000 }
      let w := j.contexts.foldl (fun s n => State.ctxSettle s n)
        (if j.role = 1 then (z.dropUnbound j.sheaf j.contexts).gleanFaulted j.sheaf else z)
      if j.role = 1 then w
      else if j.role = 2 then w.modSheaf j.sheaf fun x => { x with phase := .finished Status.faulted.code, contribs := [], bad := false }
      else if j.role = 4 then w.modMatrix j.cmd fun q => { q with bias := .failed }
      else if j.role = 5 then w.moveFaulted j.cmd
      else State.endJob { w with dp.crews := w.dp.crews.map fun c => { c with runs := c.runs.filter (· != j.cmd) } } j.cmd
        ⟨.faulted, 0, leBytes 1 crew ++ leBytes 1 hand ++ leBytes 1 cause ++ zeros 1 ++ leBytes 4 (pc % 2 ^ 32)⟩ := by
  rw [State.crewFault, bay, job]
  simp only [Bool.and_eq_true, decide_eq_true_eq]
  obtain ⟨role, _⟩ := j
  obtain _ | _ | _ | _ | _ | _ | k := role <;> rfl

/-- A crew that has no job and whose reset has ended is not held up. -/
theorem awake {s : State} {c : Crew} (idle : c.job = none) (reset : c.resetUntil ≤ s.dev.now) :
    ¬(c.job.isSome || s.dev.now < c.resetUntil) = true := bor_not_true (by simp [idle]) (decide_eq_false (not_lt.2 reset))

/-- No HAND_RUN runs on a crew that has none. -/
theorem runsNone {s : State} {c : Crew} (h : c.runs = []) : ¬s.runsOn c = true := by simp [State.runsOn, h]

/-- Settles O41: each event finds its crew with the job, queue or program it is for. -/
theorem crewJobsStartFaultAndEnd : Obligations.CrewJobsStartFaultAndEnd := by
  unfold Obligations.CrewJobsStartFaultAndEnd
  refine ⟨fun s crew b c unit there bay idle reset => ⟨fun no rest x queue found contexts => ⟨?_, fun bad => ?_⟩,
      fun id rest w queue none_ runs found ready => ?_, fun queue runs contexts => ⟨fun q first => ?_, fun w none_ move => ?_⟩⟩,
    fun s crew hand b j unit unit' bay job => ⟨fun cause pc addr low high other => ?_, fun role late => ?_⟩,
    fun s crew j unit job exited taken => ?_⟩
  · -- JOB_START of a sheaf
    change execJobStart crew s = _
    rw [execJobStart, if_neg (by omega), there, bay]
    simp only [queue, found]
    rw [if_neg (awake idle reset), if_neg (by simpa using contexts), State.inBudget]
  · -- A sheaf that is malformed
    rw [State.startSheaf]
    exact if_pos (by rw [bad]; rfl)
  · -- JOB_START of a HAND_RUN
    change execJobStart crew s = _
    rw [execJobStart, if_neg (by omega), there, bay]
    simp only [queue, runs]
    rw [if_neg (awake idle reset), if_neg (ne_true_of_eq_false none_), startRunJob_ready found ready]
  · -- JOB_START of a ZPSUM job
    change execJobStart crew s = _
    rw [execJobStart, if_neg (by omega), there, bay]
    simp only [queue, runs]
    rw [if_neg (awake idle reset), if_neg (runsNone runs), if_neg (by simpa using contexts), State.startStandard, first]
  · -- JOB_START of a MIGRATE job
    change execJobStart crew s = _
    rw [execJobStart, if_neg (by omega), there, bay]
    simp only [queue, runs]
    rw [if_neg (awake idle reset), if_neg (runsNone runs), if_neg (by simpa using contexts), State.startStandard, none_]
    simp only [move]
    rfl
  · -- HAND_FAULT
    change execHandFault crew hand cause pc addr s = _
    rw [execHandFault, if_neg (by simp; omega), job]
    refine congrArg Host.Outcome.next ((if_pos (by simp [low, high, other])).trans (crewFault_eq bay job))
  · -- CYCLE_BUDGET_EXHAUSTED
    change execCycleBudgetExhausted crew hand s = _
    rw [execCycleBudgetExhausted, if_neg (by simp; omega), job]
    refine congrArg Host.Outcome.next ((if_pos (by simp [role, late])).trans (crewFault_eq bay job))
  · -- JOB_END
    change execJobEnd crew s = _
    rw [execJobEnd, if_neg (by omega), job]
    exact congrArg Host.Outcome.next (if_pos (by simpa [taken] using exited))

end Sys2Proof.Machine

/-! Carriers and the checks of what they bring (R586, R589, R592). -/

namespace Sys2Proof.Machine

/-- Settles O50: each carrier hands its message to `State.takeIn`, and `none` of it is the full queue. -/
theorem carriersDeliverMessages : Obligations.CarriersDeliverMessages := by
  refine ⟨fun s port sub src srcPort data badSum has alive => ?_, fun s qpn b q data found => ?_,
    fun s box slot len rest m fits found waits attached => ?_, fun s v data restart on begun => ?_⟩
  · -- VCP_DATAGRAM
    intro u r
    change execVcpDatagram port sub src srcPort data badSum s = _
    rw [execVcpDatagram, has, alive]
    exact congrArg Host.Outcome.next ((if_neg (by decide)).trans (if_congr (by simp) rfl rfl))
  · -- VCP_SEND
    change execVcpSend qpn data s = _
    rw [execVcpSend, found]
  · -- MAILBOX_TAKE
    change execMailboxTake box s = _
    simp only [execMailboxTake, if_neg (not_lt.2 fits), found, waits, attached]
    rfl
  · -- MTW_REQ
    intro w
    have unfolded : exec (.mtwReq data restart) s = .next (
        if restart then v
        else if 512 + flag w.mgmt.mtw.pec < data.length then (w.ackMtw false).badMtwReq
        else match w.mtwData 0x20 data with
        | (none, x) => x
        | (some d, x) => if d.length < 16 then x.badMtwReq else x.mtwSubmit d) := by
      change execMtwReq data restart s = _
      rw [execMtwReq, if_neg on, begun] <;> rfl
    refine ⟨fun yes => ?_, fun no long => ?_, fun d x no short read => ?_, fun x no short read => ?_⟩
    · rw [unfolded, if_pos yes]
    · rw [unfolded, no, if_neg Bool.false_ne_true, if_pos long]
    · rw [unfolded, no, if_neg Bool.false_ne_true, if_neg (not_lt.2 short), read]
    · rw [unfolded, no, if_neg Bool.false_ne_true, if_neg (not_lt.2 short), read]

/-- Settles O51: `State.takeIn` branch by branch, in the order of R586. -/
theorem requestsAreCheckedAndQueued : Obligations.RequestsAreCheckedAndQueued := by
  intro s r fabric lookup wicket
  have shaped : (r.msg.length == 64 && !isMtw r) = decide wicket := by
    simp [wicket, isMtw, Bool.beq_eq_decide_eq]
  have unfolded : s.takeIn r = if isResponse r then some s.countMalformed
      else if decide wicket && s.lan.failsafe then some (s.wicketBusy r)
      else if !s.serving r.via then some s
      else match s.repeated r with
        | some s => some s
        | none => match s.firstChecks r with
          | .discard w => some (s.countDiscard w)
          | .fail reply => some (s.respond r true reply)
          | .pass c => if decide wicket then some (s.queueMessage r c.bay)
            else if s.queueFull r then none else some (s.enqueue r) := by
    rw [State.takeIn, if_neg fabric]
    simp only [shaped]
    rw [if_neg (by simp [lookup])] <;> rfl
  refine ⟨fun yes => by rw [unfolded, if_pos yes], fun no safe => ?_⟩
  have noBusy : ¬(decide wicket && s.lan.failsafe) = true := by
    rw [Bool.and_eq_true, decide_eq_true_eq]
    exact fun ⟨is, fails⟩ => Bool.false_ne_true ((safe is).symm.trans fails)
  rw [no, if_neg Bool.false_ne_true, if_neg noBusy] at unfolded
  refine ⟨fun serves => by rw [unfolded, serves]; rfl, fun serves => ?_⟩
  rw [serves, if_neg (by decide)] at unfolded
  refine ⟨fun v again => by rw [unfolded, again], fun fresh => ?_⟩
  simp only [fresh] at unfolded
  refine ⟨fun w checked => by rw [unfolded, checked], fun reply checked => by rw [unfolded, checked],
    fun c checked => ⟨fun is => ?_, fun other => ?_⟩⟩
  · simp only [unfolded, checked, decide_eq_true is, if_true]
  · simp only [unfolded, checked, decide_eq_false other, Bool.false_eq_true, if_false]

end Sys2Proof.Machine

/-! The management bus and writes of registers (R640 to R651, R15). -/

namespace Sys2Proof.Machine

/-- What the start of a write transaction can do (R642, R643). -/
theorem mtwBegin_cases (s : State) (reg : Nat) :
    let u := s.count 0x700 0 1
    s.mtwBegin reg = if u.mgmt.mtw.busy = true ∨ u.mtwReg reg = none then (false, u.nackWrite)
      else if reg = 0x20 ∧ u.mtwReady = false then (false, u.nackWrite)
      else if reg = 0x20 ∧ u.domainA0 0 = false then (false, (u.nackWrite).wakeDomain 0 5)
      else (true, ({ u with mgmt.mtw.pointer := reg } : State).ackMtw true) :=
  if_congr (by simp) rfl (if_congr (by simp) rfl (if_congr (by simp) rfl rfl))

/-- Settles O52: each row of the bus, its device being supplied. -/
theorem managementBusAnswers : Obligations.ManagementBusAnswers := by
  intro s on
  refine ⟨fun addr read n => ?_, fun reg readLen => ?_, ?_, ?_, fun drives => ?_, fun m ready => ?_⟩
  · -- MTW_ADDRESS
    change execMtwAddress addr read n s = _
    rw [execMtwAddress, if_neg on]
    rfl
  · -- MTW_SET_POINTER
    intro u good
    change execMtwSetPointer reg readLen s = _
    rw [execMtwSetPointer, if_neg on, mtwBegin_cases]
    refine congrArg Host.Outcome.next ?_
    change (match (if u.mgmt.mtw.busy = true ∨ u.mtwReg reg = none then (false, u.nackWrite)
      else if reg = 0x20 ∧ u.mtwReady = false then (false, u.nackWrite)
      else if reg = 0x20 ∧ u.domainA0 0 = false then (false, (u.nackWrite).wakeDomain 0 5)
      else (true, good)) with | (false, s) => s | (true, s) => _) = _
    split_ifs
    · rfl
    · rfl
    · rfl
    · rfl
  · -- MTW_QUICK_WRITE
    change execMtwQuickWrite s = _
    rw [execMtwQuickWrite, if_neg on]
  · -- SMBUS_TIMEOUT
    change execSmbusTimeout s = _
    rw [execSmbusTimeout, if_neg on]
  · -- ALERT_RESPONSE
    change execAlertResponse s = _
    rw [execAlertResponse, if_neg (by simp [on, drives])]
  · -- MTW_RESPONSE
    change execMtwResponse s = _
    rw [execMtwResponse, ready]

/-- The lantern's register of a domain's configuration (R639). -/
theorem lanWrite_domain (s : State) (k v : Nat) (fits : k < 75) :
    s.lanWrite (0x500 + 4 * k) v = s.modDomain k fun d =>
      { d with fallow := if v % 4 = 0 then d.fallow else v % 4, hysteresis := v / 256 % 2 ^ 24 } := by
  have place : (0x500 + 4 * k - 0x500) / 4 = k := by omega
  have inside : (decide (0x500 ≤ 0x500 + 4 * k) && decide ((0x500 + 4 * k) % 4 = 0) &&
      decide (0x500 + 4 * k < 0x500 + 4 * 75)) = true := by
    simp only [Bool.and_eq_true, decide_eq_true_eq]
    omega
  rw [State.lanWrite, if_neg (by omega), if_neg (by omega), if_neg (by omega), if_neg (by omega), if_pos inside, place]

/-- A lantern register that cannot be written (R15). -/
theorem lanWrite_ignored (s : State) (off v : Nat) (fixed : off ∉ [0x004, 0x00C, 0x010, 0x014])
    (other : off < 0x500 ∨ off % 4 ≠ 0 ∨ 0x500 + 4 * 75 ≤ off) : s.lanWrite off v = s := by
  simp only [List.mem_cons, List.not_mem_nil, or_false, not_or] at fixed
  obtain ⟨not4, notC, not10, not14⟩ := fixed
  have outside : ¬(decide (0x500 ≤ off) && decide (off % 4 = 0) && decide (off < 0x500 + 4 * 75)) = true := by
    simp only [Bool.and_eq_true, decide_eq_true_eq]
    omega
  rw [State.lanWrite, if_neg not4, if_neg notC, if_neg not10, if_neg not14, if_neg outside]

/-- Settles O53: register writes by block; the start and the check of an MTW write are `State.mtwBegin` and `State.mtwData`. -/
theorem registerWritesSetTheirFields : Obligations.RegisterWritesSetTheirFields := by
  intro s data on
  have unfolded : ∀ block off, exec (.registerWrite block off data) s = .next (match block with
      | .tth => s.tthWrite off data
      | .mtw => if off = 0x20 then s else s.mtwWrite off data
      | .lan => s.lanWrite off (leNat (data.take 4))) := fun block off => by
    change execRegisterWrite block off data s = _
    exact congrArg Host.Outcome.next (if_neg on)
  have bus : ∀ off, off ≠ 0x20 → exec (.registerWrite .mtw off data) s = .next (s.mtwWrite off data) := fun off other => by
    rw [unfolded]
    exact congrArg Host.Outcome.next (if_neg other)
  refine ⟨fun off => unfolded _ _, unfolded _ _, fun off v begun other => ?_, fun off v w begun other wrong => ?_,
    fun off d v w begun other right => ?_, unfolded _ _, unfolded _ _, unfolded _ _, unfolded _ _, fun k fits => ?_,
    fun off fixed outside => ?_⟩
  · rw [bus off other, State.mtwWrite, begun]
  · rw [bus off other, State.mtwWrite, begun]
    simp only [wrong]
  · rw [bus off other, State.mtwWrite, begun]
    simp only [right]
    exact congrArg Host.Outcome.next (if_congr (by simp) rfl (if_congr (by simp) rfl rfl))
  · exact (unfolded _ _).trans (congrArg Host.Outcome.next (lanWrite_domain s k _ fits))
  · exact (unfolded _ _).trans (congrArg Host.Outcome.next (lanWrite_ignored s off _ fixed outside))

end Sys2Proof.Machine

/-! Windows, drains and zeroisation (R63 to R84), and the module as a board (R668 to R692). -/

namespace Sys2Proof.Machine

/-- Settles O54: a window's end is its stages in order; a drain and a zeroisation end by `State.endDrain` and `State.eraseBay`. -/
theorem windowsAndBayLifecycle : Obligations.WindowsAndBayLifecycle := by
  refine ⟨fun c => rfl, fun s runs due => ?_, fun s b t fits drains since => ?_,
    fun s b fits zeroing silosDone loftsDone => ?_⟩
  · -- WINDOW_BOUNDARY
    intro all u a b c
    change execWindowBoundary s = _
    have go : ¬(decide (s.dev.phase ≠ .running) || decide (s.dev.now < s.dev.windowStart + 1000)) = true :=
      bor_not_true (decide_eq_false (not_not.2 runs)) (decide_eq_false (not_lt.2 due))
    simp only [execWindowBoundary, if_neg go, State.zeroAll, all, u, a, b, c]
  · -- DRAIN_END and DRAIN_TIMEOUT
    have start : s.drainSince b = some t := by rw [State.drainSince, if_pos drains, since]
    refine ⟨fun noWork noUpdate noGap noMessage => ?_, fun late => ?_⟩
    · change execDrainEnd b s = _
      rw [execDrainEnd, if_neg (by omega)]
      exact congrArg Host.Outcome.next (if_pos (by simp [start, noWork, noUpdate, noGap, noMessage]))
    · change execDrainTimeout b s = _
      rw [execDrainTimeout, if_neg (by omega), start]
      exact congrArg Host.Outcome.next (if_neg (not_lt.2 late))
  · -- ZEROISATION_END
    intro u v
    have written : ((s.bay b).core.life.zeroSilo.all (· == 0) && (s.bay b).core.life.zeroLoft.all (· == 0)) = true := by
      rw [Bool.and_eq_true, List.all_eq_true, List.all_eq_true]
      exact ⟨fun n at_ => beq_iff_eq.2 (silosDone n at_), fun n at_ => beq_iff_eq.2 (loftsDone n at_)⟩
    change execZeroisationEnd b s = _
    rw [execZeroisationEnd, if_neg (by omega)]
    exact congrArg Host.Outcome.next (if_neg (bor_not_true 
      (decide_eq_false (not_not.2 zeroing)) (congrArg not written)))

/-- Settles O55: each row of the board, its guard met. -/
theorem moduleInsertsAndParks : Obligations.ModuleInsertsAndParks := by
  intro s
  refine ⟨fun on => ?_, fun ramps => ?_, fun k railing next fits => ?_, fun k down last low high => ?_, fun cause fits on => ?_,
    fun mv on low => ?_, ?_, ?_, fun free => ⟨fun up => ?_, fun notUp phase => ?_⟩, fun drains runs ended => ?_,
    fun port mw fits on => ?_, fun dom f fits exits => ?_⟩
  · -- MATED_N_DEBOUNCE
    change execMatedNDebounce s = _
    rw [execMatedNDebounce, if_neg on]
    exact congrArg Host.Outcome.next (if_congr (by simp [and_assoc]) rfl rfl)
  · -- RAMP_COMPLETE
    change execRampComplete s = _
    rw [execRampComplete, if_pos ramps]
  · -- RAIL_POWER_GOOD
    change execRailPowerGood k s = _
    rw [execRailPowerGood, if_neg (by simp; omega), if_neg (by simp [railing, next])]
  · -- RAIL_DOWN
    change execRailDown k s = _
    rw [execRailDown, if_neg (by simp; omega)]
    refine congrArg Host.Outcome.next ((if_neg (bor_not_true ?_ (decide_eq_false (not_not.2 last)))).trans
      (if_congr (by simp) rfl rfl))
    rw [Bool.not_eq_false', Bool.or_eq_true, beq_iff_eq, beq_iff_eq]
    exact down
  · -- HOTSWAP_FAULT
    change execHotswapFault cause s = _
    rw [execHotswapFault, if_neg (by omega), if_neg (bnot_not_true on)]
  · -- MODULE_INPUT_FAULT
    change execModuleInputFault mv s = _
    rw [execModuleInputFault, if_neg (by simp [on]; omega)]
  · -- STANDBY_LOSS
    rfl
  · -- SURPRISE_REMOVAL
    exact congrArg Host.Outcome.next (if_congr (by simp) rfl rfl)
  · -- ATTN_N while Varlet runs
    change execAttnN s = _
    rw [execAttnN, if_neg (not_not.2 free), if_pos up]
    rfl
  · -- ATTN_N while it does not
    change execAttnN s = _
    rw [execAttnN, if_neg (not_not.2 free), if_neg (by simp [notUp])]
    obtain booting | running := phase
    · rw [booting]
    · rw [running]
  · -- PARK_WAIT_END
    have closed : (s.bays.any fun y => y.core.life.state == .draining && y.core.life.drainStart.isSome) = false := by
      rw [List.any_eq_false]
      intro y at_ waits
      rw [Bool.and_eq_true, beq_iff_eq] at waits
      obtain ⟨draining, started⟩ := waits
      rw [ended y at_ draining] at started
      exact Bool.false_ne_true started
    change execParkWaitEnd s = _
    exact congrArg Host.Outcome.next (if_neg (bor_not_true (bor_false (by simp [drains]) closed) (by simp [runs])))
  · -- PLUGGABLE_INSERTION
    change execPluggableInsertion port mw s = _
    rw [execPluggableInsertion, if_neg (by omega), if_neg (bnot_not_true on)]
  · -- LOGIC_OK
    change execLogicOk dom s = _
    rw [execLogicOk, if_neg (by omega), exits]
    exact congrArg Host.Outcome.next (if_congr (by simp) rfl (if_congr (by simp [and_assoc]) rfl (if_congr (by simp) rfl rfl)))

end Sys2Proof.Machine

/-! Resets and the boot ROM (R609 to R614, R701 to R704). -/

namespace Sys2Proof.Machine

/-- The boot ROM on stewards that have not been reset (R701). -/
theorem bootRom_atBoot {s : State} (bad : List Nat) (phase : s.dev.phase = .booting) (rom : s.dev.boot = .rom)
    (high : s.board.resetLow = false) (up : s.dev.steward = .running) :
    exec (.bootRom bad) s = .next (let u := s.choose false bad
      if u.dev.slot = none then u.enterRecovery else { u with dev.boot := .verify }) := by
  change execBootRom bad s = _
  simp only [execBootRom, up]
  rw [if_neg Bool.false_ne_true, if_neg (by simp [phase, rom, high])]
  exact congrArg Host.Outcome.next (if_congr Option.isNone_iff_eq_none rfl (if_neg Bool.false_ne_true))

/-- The boot ROM in a steward reset (R612, R701). -/
theorem bootRom_inReset {s : State} {since cause n : Nat} (bad : List Nat) (reset : s.dev.steward = .inReset since cause n)
    (runs : s.dev.phase = .running) (none_ : s.dev.slot = none) (sound : s.trialFailed = false) :
    exec (.bootRom bad) s = .next (let u := s.choose true bad
      if u.dev.slot = none then u.enterRecovery else u) := by
  change execBootRom bad s = _
  simp only [execBootRom, reset]
  rw [if_neg (by simp [runs, none_, sound])]
  exact congrArg Host.Outcome.next (if_congr Option.isNone_iff_eq_none rfl (if_pos trivial))

/-- Settles O56: each reset row, its guard met; what a reset keeps stands in `State.wipe` and the record of R609. -/
theorem resetsKeepAndRestore : Obligations.ResetsKeepAndRestore := by
  refine ⟨fun s a k t => rfl, fun s => ⟨rfl, fun up => ⟨fun late => ?_, ?_⟩, fun phase => ?_, fun standby => ⟨?_, ?_⟩,
    fun since cause n reset => ⟨fun calm late => ?_, fun fails late => ?_,
      fun bad runs empty sound => bootRom_inReset bad reset runs empty sound, fun runs chosen => ?_⟩,
    fun bad phase rom high up => bootRom_atBoot bad phase rom high up, fun i found failed up => ?_⟩⟩
  · -- STEWARD_WATCHDOG
    change execStewardWatchdog s = _
    rw [execStewardWatchdog, if_pos (band_pass up (decide_eq_true late))]
  · -- STEWARD_EXCEPTION
    change execStewardException s = _
    rw [execStewardException, if_pos up]
  · -- MOD_RESET_N of a device that boots or runs
    change execModResetN true s = _
    obtain booting | running | recovery := phase
    · simp only [execModResetN, booting]
    · simp only [execModResetN, running]
    · simp only [execModResetN, recovery]
  · -- MOD_RESET_N asserted on standby
    change execModResetN true s = _
    simp only [execModResetN, standby]
  · -- MOD_RESET_N released on standby
    change execModResetN false s = _
    simp only [execModResetN, standby]
    exact congrArg Host.Outcome.next (if_congr (by simp [and_assoc]) rfl rfl)
  · -- LANTERN_FAILSAFE
    change execLanternFailsafe s = _
    simp only [execLanternFailsafe, reset]
    exact congrArg Host.Outcome.next (if_neg (bor_not_true calm (decide_eq_false (not_lt.2 late))))
  · -- FAILSAFE_RETRY
    change execFailsafeRetry s = _
    simp only [execFailsafeRetry, reset]
    exact congrArg Host.Outcome.next (if_neg (bor_not_true (congrArg not fails) (decide_eq_false (not_lt.2 late))))
  · -- STEWARD_RESUME
    intro d u v
    change execStewardResume s = _
    simp only [execStewardResume, reset]
    rw [if_neg (by simp [runs, chosen])]
  · -- TRIAL_FAILED
    intro back cause u v
    change execTrialFailed s = _
    have during : (match v.dev.steward with
        | .inReset _ c _ => some c
        | _ => none) = none := by
      rw [show v.dev.steward = .running from up]
    rw [execTrialFailed, found]
    refine congrArg Host.Outcome.next ((if_neg (bnot_not_true failed)).trans ?_)
    exact congrArg (fun d : Option Nat => if back.any fun j => (s.fwSlot i).journal == (s.fwSlot j).journal
      then (if d.isSome then v else v.stewardReset (d.getD cause))
      else { v.deviceReset (d.getD cause) with dev.notes := v.dev.notes }) during

end Sys2Proof.Machine

/-! The local bus, the UART with its console, sensors, fans and ceilings (R652 to R665, R675, R695, R696). -/

namespace Sys2Proof.Machine

/-- Settles O57: each result of a transfer, while Varlet runs. -/
theorem localBusMasterTransfers : Obligations.LocalBusMasterTransfers := by
  intro s runs
  refine ⟨fun target kind data free due => ?_, fun target data kind under => ?_, ?_, fun free => ?_, fun t held low late => ?_⟩
  · -- LTW_TRANSFER
    intro x a u
    have go : ¬(!s.varletRuns || s.mgmt.ltw.stuckScl.isSome || decide (s.dev.now < s.mgmt.ltw.notBefore)) = true :=
      bor_not_true (bor_false (congrArg not runs) (by rw [free]; rfl)) (decide_eq_false (not_lt.2 due))
    refine ⟨congrArg Host.Outcome.next (if_neg go), congrArg Host.Outcome.next (if_neg go),
      congrArg Host.Outcome.next (if_neg go), fun n => ?_⟩
    rw [Nat.add_comm 3 n]
    exact congrArg Host.Outcome.next (if_neg go)
  · -- LTW_ARB_STOP
    change execLtwArbStop s = _
    simp only [execLtwArbStop, under]
    rw [if_neg (bnot_not_true runs)]
  · -- LTW_BUS_STUCK, SDA
    exact congrArg Host.Outcome.next (if_neg (bnot_not_true runs))
  · -- LTW_BUS_STUCK, SCL
    refine congrArg Host.Outcome.next ((if_neg (bnot_not_true runs)).trans ?_)
    rw [if_neg (by decide), free]
  · -- LTW_BUS_STUCK, the check each second
    refine congrArg Host.Outcome.next ((if_neg (bnot_not_true runs)).trans ?_)
    rw [if_neg (by decide), low]
    exact if_neg (not_lt.2 late)

/-- A console command's row answers the line that waits. -/
theorem onConsole_some {s v : State} {f : ConsoleCmd → Option State} {c : ConsoleCmd} (runs : s.drainUart.varletRuns = true)
    (waits : s.drainUart.consoleWaits = some c) (acts : f c = some v) : onConsole s f = .next v.nextLine := by
  have bound : (s.drainUart.consoleWaits).bind f = some v := by rw [waits, Option.bind_some, acts]
  refine congrArg Host.Outcome.next ((if_neg (bnot_not_true runs)).trans ?_)
  rw [bound]

/-- Settles O58: frames and bytes by their rows, the console's commands by the line that waits. -/
theorem consoleAnswersItsLines : Obligations.ConsoleAnswersItsLines := by
  refine ⟨fun s on => ⟨fun b => ?_, fun b => ?_, ?_⟩, fun s b rest out => ?_, fun s runs =>
    ⟨fun waits => onConsole_some runs waits rfl, fun n waits => onConsole_some runs waits rfl,
      fun l waits => onConsole_some runs waits rfl, fun i waits => onConsole_some runs waits rfl⟩⟩
  · -- UART_BYTE without its stop bit
    exact congrArg Host.Outcome.next (if_neg on)
  · -- UART_BYTE
    exact congrArg Host.Outcome.next (if_neg on)
  · -- UART_BREAK
    exact congrArg Host.Outcome.next (if_neg on)
  · -- UART_TRANSMIT
    change execUartTransmit s = _
    rw [execUartTransmit, out]
    rfl

/-- Of the sensors, the package's power alone moves the ceiling (R675). -/
theorem packagePower_ofSensor (v : State) (n : Nat) (r : Option Int) :
    (match n, r with
      | 19, some x => v.packagePower x
      | _, _ => v) = if n = 19 then (match r with
        | some x => v.packagePower x
        | none => v) else v := by
  by_cases package : n = 19
  · subst package
    cases r with
    | none => rfl
    | some x => rfl
  · rw [if_neg package]
    split
    · exact absurd rfl package
    · rfl

/-- Settles O59: a poll takes the reading and its status; the limits are met when their times have come. -/
theorem sensorsFansAndCeilings : Obligations.SensorsFansAndCeilings := by
  refine ⟨fun s n reading fits on reads => ?_, fun s runs => ⟨fun k f t fits found present sound slow late => ?_,
    fun read high => ?_, fun t below low late => ?_⟩, fun s code bay die w up found late => ?_⟩
  · -- SENSOR_POLL
    intro r u v w
    have go : ¬(decide (s.dev.phase = .off) || (decide (14 ≤ n) && decide (n < 27)) && !s.varletRuns) = true := by
      simp only [Bool.or_eq_true, Bool.and_eq_true, decide_eq_true_eq, Bool.not_eq_true', not_or, not_and]
      refine ⟨on, fun bus stopped => ?_⟩
      obtain low | high | runs := reads
      · exact absurd bus.1 (by omega)
      · exact absurd bus.2 (by omega)
      · exact Bool.false_ne_true (stopped.symm.trans runs)
    change execSensorPoll n reading s = _
    rw [execSensorPoll, if_neg (by omega)]
    refine congrArg Host.Outcome.next ((if_neg go).trans ?_)
    exact congrArg (fun x : State => if x.varletRuns then x.driveFans else x) (packagePower_ofSensor v n r)
  · -- FAN_FAULT
    have due : (f.slowSince.any fun t => decide (t + 3000000000 ≤ s.dev.now)) = true := any_due slow late
    change execFanFault k s = _
    simp only [execFanFault, if_neg (not_lt.2 fits), found]
    exact congrArg Host.Outcome.next (if_neg (bor_not_true (bor_false (bor_false (congrArg not runs) (congrArg not present)) sound)
      (congrArg not due)))
  · -- PACKAGE_POWER_LIMIT
    exact congrArg Host.Outcome.next (if_neg (bor_not_true (bor_false (congrArg not runs) (decide_eq_false read))
      (decide_eq_false (not_le.2 high))))
  · -- POWER_CEILING_RAISE
    exact congrArg Host.Outcome.next (if_pos (band_pass (band_pass runs (decide_eq_true below)) (any_due low late)))
  · -- EVENT_SUPPRESSED
    change execEventSuppressed code bay die s = _
    rw [execEventSuppressed, if_neg (not_not.2 up), found]
    exact congrArg Host.Outcome.next (if_pos late)

end Sys2Proof.Machine

/-! The integer operations of a hand as those of bit vectors (R267). -/

namespace Sys2Proof.Machine

/-- A two's complement field is the bit vector of the integer. -/
theorem unsignedOf_eq (w : Nat) (i : Int) : unsignedOf w i = (BitVec.ofInt w i).toNat := (BitVec.toNat_ofInt i).symm

/-- A field read as signed is the bit vector's integer. -/
theorem signedOf_toNat {w : Nat} (x : BitVec w) (wide : 0 < w) : signedOf w x.toNat = x.toInt := by
  obtain ⟨n, rfl⟩ := Nat.exists_eq_add_one.2 wide
  rw [signedOf, Nat.mod_eq_of_lt x.isLt, BitVec.toInt_eq_toNat_cond, Nat.add_sub_cancel]
  exact if_congr (by rw [Nat.pow_succ]; omega) rfl rfl

/-- A value of 32 bits as a register holds it. -/
theorem sext32_toNat (x : BitVec 32) : sext32 x.toNat = (x.signExtend 64).toNat := by
  rw [sext32, signedOf_toNat x (by decide), unsignedOf_eq]
  rfl

/-- An operation sees the low bits of its operands alone. -/
theorem intOpAt_ofNat (w : Nat) (op : IntOp) (a b : Nat) :
    intOpAt w op a b = intOpAt w op (BitVec.ofNat w a).toNat (BitVec.ofNat w b).toNat := by
  simp only [intOpAt, BitVec.toNat_ofNat, Nat.mod_mod]

section
variable {w : Nat} (x y : BitVec w)

theorem intOpAt_add : intOpAt w .add x.toNat y.toNat = (x + y).toNat := by
  simp only [intOpAt, Nat.mod_eq_of_lt x.isLt, Nat.mod_eq_of_lt y.isLt, BitVec.toNat_add]

theorem intOpAt_sub : intOpAt w .sub x.toNat y.toNat = (x - y).toNat := by
  have fits := y.isLt
  simp only [intOpAt, Nat.mod_eq_of_lt x.isLt, Nat.mod_eq_of_lt y.isLt, BitVec.toNat_sub]
  exact congrArg (· % 2 ^ w) (by omega)

theorem intOpAt_mul : intOpAt w .mul x.toNat y.toNat = (x * y).toNat := by
  simp only [intOpAt, Nat.mod_eq_of_lt x.isLt, Nat.mod_eq_of_lt y.isLt, BitVec.toNat_mul]

theorem intOpAt_and : intOpAt w .and x.toNat y.toNat = (x &&& y).toNat := by
  simp only [intOpAt, Nat.mod_eq_of_lt x.isLt, Nat.mod_eq_of_lt y.isLt, ← BitVec.toNat_and, Nat.mod_eq_of_lt (x &&& y).isLt]

theorem intOpAt_or : intOpAt w .or x.toNat y.toNat = (x ||| y).toNat := by
  simp only [intOpAt, Nat.mod_eq_of_lt x.isLt, Nat.mod_eq_of_lt y.isLt, ← BitVec.toNat_or, Nat.mod_eq_of_lt (x ||| y).isLt]

theorem intOpAt_xor : intOpAt w .xor x.toNat y.toNat = (x ^^^ y).toNat := by
  simp only [intOpAt, Nat.mod_eq_of_lt x.isLt, Nat.mod_eq_of_lt y.isLt, ← BitVec.toNat_xor, Nat.mod_eq_of_lt (x ^^^ y).isLt]

theorem intOpAt_sll : intOpAt w .sll x.toNat y.toNat = (x <<< (y.toNat % w)).toNat := by
  simp only [intOpAt, Nat.mod_eq_of_lt x.isLt, Nat.mod_eq_of_lt y.isLt, BitVec.toNat_shiftLeft, Nat.shiftLeft_eq]

theorem intOpAt_srl : intOpAt w .srl x.toNat y.toNat = (x >>> (y.toNat % w)).toNat := by
  simp only [intOpAt, Nat.mod_eq_of_lt x.isLt, Nat.mod_eq_of_lt y.isLt]
  rw [← Nat.shiftRight_eq_div_pow, ← BitVec.toNat_ushiftRight, Nat.mod_eq_of_lt (x >>> (y.toNat % w)).isLt]

theorem intOpAt_sltu : intOpAt w .sltu x.toNat y.toNat = flag (x.ult y) % 2 ^ w := by
  simp only [intOpAt, Nat.mod_eq_of_lt x.isLt, Nat.mod_eq_of_lt y.isLt, BitVec.ult_eq_decide]

theorem intOpAt_divu : intOpAt w .divu x.toNat y.toNat = (if y = 0#w then BitVec.allOnes w else x / y).toNat := by
  have zero : y.toNat = 0 ↔ y = 0#w := (BitVec.toNat_eq (x := y) (y := 0#w)).symm
  simp only [intOpAt, Nat.mod_eq_of_lt x.isLt, Nat.mod_eq_of_lt y.isLt]
  split_ifs with none_ is is
  · rw [BitVec.toNat_allOnes, Nat.mod_eq_of_lt (by have := Nat.two_pow_pos w; omega)]
  · exact absurd (zero.1 none_) is
  · exact absurd (zero.2 is) none_
  · rw [← BitVec.toNat_udiv, Nat.mod_eq_of_lt (x / y).isLt]

theorem intOpAt_remu : intOpAt w .remu x.toNat y.toNat = (x % y).toNat := by
  simp only [intOpAt, Nat.mod_eq_of_lt x.isLt, Nat.mod_eq_of_lt y.isLt, BitVec.toNat_umod]
  split_ifs with none_
  · rw [none_, Nat.mod_zero, Nat.mod_eq_of_lt x.isLt]
  · exact Nat.mod_eq_of_lt ((Nat.mod_le _ _).trans_lt x.isLt)

/-- Signed division, its quotient of the most negative value by −1 taken modulo 2^w. -/
theorem ofInt_tdiv : BitVec.ofInt w (x.toInt.tdiv y.toInt) = x.sdiv y :=
  BitVec.eq_of_toInt_eq (by rw [BitVec.toInt_ofInt, BitVec.toInt_sdiv])

theorem ofInt_tmod : BitVec.ofInt w (x.toInt.tmod y.toInt) = x.srem y := by
  rw [← BitVec.toInt_srem, BitVec.ofInt_toInt]

variable (wide : 0 < w)
include wide

theorem intOpAt_slt : intOpAt w .slt x.toNat y.toNat = flag (x.slt y) % 2 ^ w := by
  simp only [intOpAt, Nat.mod_eq_of_lt x.isLt, Nat.mod_eq_of_lt y.isLt, signedOf_toNat x wide, signedOf_toNat y wide,
    BitVec.slt_eq_decide]

theorem intOpAt_sra : intOpAt w .sra x.toNat y.toNat = (x.sshiftRight (y.toNat % w)).toNat := by
  simp only [intOpAt, Nat.mod_eq_of_lt x.isLt, Nat.mod_eq_of_lt y.isLt, signedOf_toNat x wide, unsignedOf_eq]
  rw [Nat.mod_eq_of_lt (BitVec.isLt _), BitVec.sshiftRight_eq, Int.shiftRight_eq_div_pow]

theorem intOpAt_div : intOpAt w .div x.toNat y.toNat = (if y = 0#w then BitVec.allOnes w else x.sdiv y).toNat := by
  have zero : y.toNat = 0 ↔ y = 0#w := (BitVec.toNat_eq (x := y) (y := 0#w)).symm
  simp only [intOpAt, Nat.mod_eq_of_lt x.isLt, Nat.mod_eq_of_lt y.isLt, signedOf_toNat x wide, signedOf_toNat y wide,
    unsignedOf_eq, ofInt_tdiv x y]
  split_ifs with none_ is is
  · rw [BitVec.toNat_allOnes, Nat.mod_eq_of_lt (by have := Nat.two_pow_pos w; omega)]
  · exact absurd (zero.1 none_) is
  · exact absurd (zero.2 is) none_
  · exact Nat.mod_eq_of_lt (x.sdiv y).isLt

theorem intOpAt_rem : intOpAt w .rem x.toNat y.toNat = (x.srem y).toNat := by
  simp only [intOpAt, Nat.mod_eq_of_lt x.isLt, Nat.mod_eq_of_lt y.isLt, signedOf_toNat x wide, signedOf_toNat y wide,
    unsignedOf_eq, ofInt_tmod x y]
  split_ifs with none_
  · have zero : y = 0#w := BitVec.eq_of_toNat_eq none_
    rw [zero, BitVec.srem_zero, Nat.mod_eq_of_lt x.isLt]
  · exact Nat.mod_eq_of_lt (x.srem y).isLt

end

/-- A comparison's result as a word. -/
theorem flag_mod_word (c : Bool) : flag c % 2 ^ 64 = (if c = true then 1#64 else 0#64).toNat := by
  cases c <;> rfl

/-- The integer operations of the profile, each as that of bit vectors. -/
theorem intOp_words (a b : Nat) :
    let x := BitVec.ofNat 64 a
    let y := BitVec.ofNat 64 b
    let is := fun (op : IntOp) (z : BitVec 64) => intOp op false a b = z.toNat
    is .add (x + y) ∧ is .sub (x - y) ∧ is .mul (x * y) ∧ is .and (x &&& y) ∧ is .or (x ||| y) ∧ is .xor (x ^^^ y) ∧
    is .sll (x <<< (b % 64)) ∧ is .srl (x >>> (b % 64)) ∧ is .sra (x.sshiftRight (b % 64)) ∧
    is .slt (if x.slt y then 1#64 else 0#64) ∧ is .sltu (if x.ult y then 1#64 else 0#64) ∧
    is .divu (if y = 0#64 then BitVec.allOnes 64 else x / y) ∧ is .remu (x % y) ∧
    is .div (if y = 0#64 then BitVec.allOnes 64 else x.sdiv y) ∧ is .rem (x.srem y) ∧
    intOp .add true a b = ((BitVec.ofNat 32 a + BitVec.ofNat 32 b).signExtend 64).toNat ∧
    intOp .sub true a b = ((BitVec.ofNat 32 a - BitVec.ofNat 32 b).signExtend 64).toNat ∧
    intOp .mul true a b = ((BitVec.ofNat 32 a * BitVec.ofNat 32 b).signExtend 64).toNat := by
  intro x y is
  have full : ∀ op, intOp op false a b = intOpAt 64 op x.toNat y.toNat := fun op => intOpAt_ofNat 64 op a b
  have word : ∀ op, intOp op true a b = sext32 (intOpAt 32 op (BitVec.ofNat 32 a).toNat (BitVec.ofNat 32 b).toNat) :=
    fun op => congrArg sext32 (intOpAt_ofNat 32 op a b)
  have shift : y.toNat % 64 = b % 64 := by
    simp only [y, BitVec.toNat_ofNat]
    omega
  have wide : 0 < 64 := by decide
  refine ⟨(full _).trans (intOpAt_add x y), (full _).trans (intOpAt_sub x y), (full _).trans (intOpAt_mul x y),
    (full _).trans (intOpAt_and x y), (full _).trans (intOpAt_or x y), (full _).trans (intOpAt_xor x y),
    (full _).trans ?_, (full _).trans ?_, (full _).trans ?_,
    (full _).trans ((intOpAt_slt x y wide).trans (flag_mod_word _)), (full _).trans ((intOpAt_sltu x y).trans (flag_mod_word _)),
    (full _).trans (intOpAt_divu x y), (full _).trans (intOpAt_remu x y),
    (full _).trans (intOpAt_div x y wide), (full _).trans (intOpAt_rem x y wide),
    (word _).trans ?_, (word _).trans ?_, (word _).trans ?_⟩
  · rw [intOpAt_sll, shift]
  · rw [intOpAt_srl, shift]
  · rw [intOpAt_sra x y wide, shift]
  · rw [intOpAt_add, sext32_toNat]
  · rw [intOpAt_sub, sext32_toNat]
  · rw [intOpAt_mul, sext32_toNat]

end Sys2Proof.Machine

/-! Hands that execute (R267 to R286). -/

namespace Sys2Proof.Machine

/-! ### The custom instructions and the services -/

/-- hx.dwq of a hand that can execute (R283). -/
theorem exec_hxDwq_can {s : State} {crew hand pc b : Nat} {j : Job} {h : Hand} (can : CanExecute s crew hand pc 4 b j h)
    (rd rs1 rs2 : Nat) : exec (.hxDwq crew hand pc rd rs1 rs2) s = .next ((s.at crew hand pc).runDwq crew hand pc h rd rs1 rs2) := by
  change execHxDwq crew hand pc rd rs1 rs2 s = _
  rw [execHxDwq, onHand_can can]

/-- hx.swe of a hand that can execute (R285). -/
theorem exec_hxSwe_can {s : State} {crew hand pc b : Nat} {j : Job} {h : Hand} (can : CanExecute s crew hand pc 4 b j h)
    (rd rs1 rs2 : Nat) : exec (.hxSwe crew hand pc rd rs1 rs2) s = .next ((s.at crew hand pc).runSwe crew hand pc j h rd rs1 rs2) := by
  change execHxSwe crew hand pc rd rs1 rs2 s = _
  rw [execHxSwe, onHand_can can]

/-- A service that a hand which can execute calls by its number in a7 (R279). -/
theorem onEcall_can {s : State} {crew hand pc b service : Nat} {j : Job} {h : Hand} (can : CanExecute s crew hand pc 4 b j h)
    (calls : h.reg 17 = service) (f : Nat → Job → Hand → State → State) :
    s.onEcall crew hand pc service f = .next (f b j h (s.at crew hand pc)) :=
  (onHand_can can _).trans (congrArg Host.Outcome.next (if_pos calls))

/-! ### One instruction of the profile -/

/-- A choice on the negation of a test. -/
theorem ite_bnot {α : Type} (c : Bool) (x y : α) : (if (!c) = true then x else y) = if c = true then y else x := by
  cases c <;> rfl

/-- Two changes of one element that agree on it are the same. -/
theorem modify_congr {α : Type} {l : List α} {n : Nat} {f g : α → α} (agree : ∀ x, l[n]? = some x → f x = g x) :
    l.modify n f = l.modify n g := by
  refine List.ext_getElem? fun i => ?_
  rw [List.getElem?_modify, List.getElem?_modify]
  by_cases at_ : n = i
  · subst at_
    cases is : l[n]? with
    | none => rfl
    | some x => simp [agree x is]
  · simp [at_]

/-- Two changes of a hand that agree on it are the same. -/
theorem modHand_congr {u : State} {crew hand : Nat} {f g : Hand → Hand}
    (agree : ∀ j h, u.jobOf crew = some j → j.hands[hand]? = some h → f h = g h) :
    u.modHand crew hand f = u.modHand crew hand g := by
  have crews : (u.dp.crews.modify crew fun c => { c with job := c.job.map fun j => { j with hands := j.hands.modify hand f } }) =
      u.dp.crews.modify crew fun c => { c with job := c.job.map fun j => { j with hands := j.hands.modify hand g } } := by
    refine modify_congr fun c at_ => ?_
    cases has : c.job with
    | none => rfl
    | some j =>
      have job : u.jobOf crew = some j := by rw [State.jobOf, at_, Option.bind_some, has]
      exact congrArg (fun l => ({ c with job := some { j with hands := l } } : Crew)) (modify_congr fun h is => agree j h job is)
  exact congrArg (fun l => ({ u with dp.crews := l } : State)) crews

/-- The hand that executes has its registers as before. -/
theorem reg_at {s : State} {crew hand pc len b : Nat} {j j' : Job} {h h' : Hand} (can : CanExecute s crew hand pc len b j h)
    (job : (s.at crew hand pc).jobOf crew = some j') (is : j'.hands[hand]? = some h') (r : Nat) : h'.reg r = h.reg r := by
  obtain ⟨c, at_, has⟩ := Option.bind_eq_some_iff.1 can.job
  have moved : (s.at crew hand pc).jobOf crew = some { j with hands := j.hands.modify hand fun h => { h with pc := pc } } := by
    simp [State.jobOf, State.at, at_, has]
  obtain rfl := Option.some_inj.1 (moved.symm.trans job)
  rw [List.getElem?_modify_eq, can.hand] at is
  obtain rfl := Option.some_inj.1 is
  rfl

/-- An instruction of a hand that can execute, with what is corrected on its way (R297). -/
theorem exec_handInstruction_can {s : State} {crew hand pc b : Nat} {j : Job} {h : Hand} {i : Fetched}
    (can : CanExecute s crew hand pc i.len b j h) : exec (.handInstruction crew hand pc i) s =
      .next ((((s.at crew hand pc).storeCorrected (crew / 16) i.fixed).cribCorrected (crew / 16) i.cribFixed).runInstr
        b crew hand pc i.len j h i.bad i.op) := by
  change execHandInstruction crew hand pc i s = _
  rw [execHandInstruction, onHand_can can]

/-- A CSR that the profile has, and may be written if it is, takes the instruction (R270). -/
theorem handCsr_some {s : State} {b crew hand pc n old : Nat} {h : Hand} (op : CsrOp) (rd src : Nat) (imm : Bool)
    (has : s.csrValue b crew hand h n = some old) : ¬((op = .write ∨ src % 32 ≠ 0) ∧ n / 1024 = 3 ∧ n ≠ 0xCC0) →
    s.handCsr b crew hand pc h op n rd src imm = s.modHand crew hand fun y =>
      (if op = .write ∨ src % 32 ≠ 0 then y.setCsr n (match op with
        | .write => if imm then src % 32 else h.reg src
        | .set => old ||| (if imm then src % 32 else h.reg src)
        | .clear => old - (old &&& if imm then src % 32 else h.reg src)) else y).setReg rd old := by
  intro may
  have go : ¬((op == .write || src % 32 != 0) && csrFixed n) = true := by
    simpa [csrFixed] using may
  simp only [State.handCsr, has, if_neg go]
  have writes : (op == .write || src % 32 != 0) = true ↔ op = .write ∨ src % 32 ≠ 0 := by simp
  simp only [writes] <;> rfl

/-- Any other CSR instruction is illegal. -/
theorem handCsr_illegal {s : State} {b crew hand pc n : Nat} {h : Hand} (op : CsrOp) (rd src : Nat) (imm : Bool)
    (bad : s.csrValue b crew hand h n = none ∨ (op = .write ∨ src % 32 ≠ 0) ∧ n / 1024 = 3 ∧ n ≠ 0xCC0) :
    s.handCsr b crew hand pc h op n rd src imm = s.crewFault crew hand 1 pc 0 := by
  rw [State.handCsr]
  split
  · rfl
  · next old has =>
    obtain lacks | fixed := bad
    · rw [lacks] at has
      exact absurd has (Option.some_ne_none old).symm
    · exact if_pos (by simpa [csrFixed] using fixed)

/-! ### Loads by region -/

section
variable {s : State} {b die addr n : Nat}

theorem handRegion_scratch (low : addr + n ≤ 0xF060) (apart : addr + n ≤ 0xF000 ∨ 0xF000 ≤ addr) :
    s.handRegion b die addr n = .scratch addr := by
  rw [State.handRegion, if_pos]
  simp only [Bool.or_eq_true, Bool.and_eq_true, decide_eq_true_eq]
  omega

/-- What lies past a hand's scratch. -/
theorem not_scratch (high : 0xF060 ≤ addr) (some_ : 0 < n) :
    ¬(decide (0 ≤ addr) && decide (addr + n ≤ 0 + 0xF000) || decide (0xF000 ≤ addr) && decide (addr + n ≤ 0xF000 + 96)) = true := by
  simp only [Bool.or_eq_true, Bool.and_eq_true, decide_eq_true_eq]
  omega

/-- What lies past a region of some size. -/
theorem not_inside {lo size : Nat} (high : lo + size ≤ addr) (some_ : 0 < n) :
    ¬(decide (lo ≤ addr) && decide (addr + n ≤ lo + size)) = true := by
  simp only [Bool.and_eq_true, decide_eq_true_eq]
  omega

theorem inside {lo size off : Nat} (is : addr = lo + off) (fits : off + n ≤ size) :
    (decide (lo ≤ addr) && decide (addr + n ≤ lo + size)) = true := by
  simp only [Bool.and_eq_true, decide_eq_true_eq]
  omega

theorem handRegion_store {off : Nat} (some_ : 0 < n) (is : addr = 0x100000 + off) (fits : off + n ≤ 960 * 1024) :
    s.handRegion b die addr n = .store off := by
  rw [State.handRegion, if_neg (not_scratch (by omega) some_), if_pos (inside is fits)]
  exact congrArg Region'.store (by omega)

theorem handRegion_ring {off : Nat} (some_ : 0 < n) (is : addr = 0x100000000 + off) (fits : off + n ≤ s.ringBytes b) :
    s.handRegion b die addr n = .ring off := by
  rw [State.handRegion, if_neg (not_scratch (by omega) some_), if_neg (not_inside (by omega) some_), if_pos (inside is fits)]
  exact congrArg Region'.ring (by omega)

variable (ring : s.ringBytes b ≤ 2 ^ 32)
include ring

theorem handRegion_crib {off : Nat} (some_ : 0 < n) (is : addr = 0x1000000000 + off) (fits : off + n ≤ 64 * s.cribShare b die) :
    s.handRegion b die addr n = .crib off := by
  rw [State.handRegion, if_neg (not_scratch (by omega) some_), if_neg (not_inside (by omega) some_),
    if_neg (not_inside (by omega) some_), if_pos (inside is fits)]
  exact congrArg Region'.crib (by omega)

variable (crib : 64 * s.cribShare b die ≤ 2 ^ 32)
include crib

theorem handRegion_silo {off : Nat} (some_ : 0 < n) (is : addr = 0x10000000000 + off)
    (fits : off + n ≤ 64 * unitGranules * (s.bay b).space.siloExt.length) : s.handRegion b die addr n = .silo off := by
  rw [State.handRegion, if_neg (not_scratch (by omega) some_), if_neg (not_inside (by omega) some_),
    if_neg (not_inside (by omega) some_), if_neg (not_inside (by omega) some_), if_pos (inside is fits)]
  exact congrArg Region'.silo (by omega)

theorem handRegion_loft {off : Nat} (some_ : 0 < n) (silo : 64 * unitGranules * (s.bay b).space.siloExt.length ≤ 2 ^ 40)
    (is : addr = 0x20000000000 + off) (fits : off + n ≤ 64 * unitGranules * (s.bay b).space.loftExt.length) :
    s.handRegion b die addr n = .loft off := by
  rw [State.handRegion, if_neg (not_scratch (by omega) some_), if_neg (not_inside (by omega) some_),
    if_neg (not_inside (by omega) some_), if_neg (not_inside (by omega) some_), if_neg (not_inside (by omega) some_),
    if_pos (inside is fits)]
  exact congrArg Region'.loft (by omega)

end

/-- A counter leaves the datapath. -/
theorem dp_count {s : State} {block i k : Nat} : (s.count block i k).dp = s.dp := by
  unfold State.count
  split <;> rfl

/-- Correcting errors leaves the jobs. -/
theorem corrected_jobOf (s : State) (die n m crew : Nat) :
    ((s.storeCorrected die n).cribCorrected die m).jobOf crew = s.jobOf crew := by
  simp only [State.jobOf, State.storeCorrected, State.cribCorrected, dp_count]

/-- A load of the ring at its point's turn (R64, R72). -/
theorem ringLoad_open {s : State} {b role die off width : Nat} {bad : List Nat}
    (turn : s.mayAccess b die (handQueue role) 1 (s.ringGranule b off) 1 false = true) :
    let g := s.ringGranule b off
    let c := s.chargeRing b off width false (some die)
    let v := if off / 64 ∈ bad then (c.addPoison .ring b 0 (off / 64)).siloBad b g else c
    s.ringLoad b role die off width bad =
      some (if v.poisoned .ring b 0 (off / 64) 1 || v.siloLost b g || v.cutOff b die 1 g then zeros width
        else v.read .ring b 0 off width, v) := by
  simp only [State.ringLoad, turn, List.contains_iff_mem, Bool.not_true, Bool.false_eq_true, if_false]

/-- Settles O42: a custom instruction and a service by their own rows, one of the profile by `State.runInstr`; a load by the region
that its address names; the integer operations are those of bit vectors. -/
theorem handsExecute : Obligations.HandsExecute := by
  refine ⟨fun s crew hand pc b j h can => ?_, fun s crew hand pc b j h i can => ?_,
    fun s crew hand pc b rd width addr sgn bad j fits owner wide => ?_, fun s crew k b w j fits found job owner => ?_, intOp_words⟩
  · -- the custom instructions and the services
    intro u set fault
    refine ⟨fun rd rs1 imm => ?_, fun rd rs1 rs2 => ?_, fun rd rs1 rs2 => ?_, fun vd vs2 => ?_, fun calls => ?_, fun calls => ?_,
      fun calls => ?_, fun calls => ?_⟩
    · change execHxHash crew hand pc rd rs1 imm s = _
      rw [execHxHash, onHand_can can, State.runHash]
    · refine (exec_hxDwq_can can rd rs1 rs2).trans ?_
      exact congrArg Host.Outcome.next (if_congr (by simp) rfl rfl)
    · refine (exec_hxSwe_can can rd rs1 rs2).trans ?_
      exact congrArg Host.Outcome.next (if_congr Iff.rfl rfl (if_congr Iff.rfl rfl (if_congr (by simp) rfl rfl)))
    · refine (exec_hxDedup_can can vd vs2).trans ?_
      exact congrArg Host.Outcome.next (if_congr (by simp [or_assoc]) rfl rfl)
    · change execEcallExit crew hand pc s = _
      rw [execEcallExit, onEcall_can can calls, State.runExit]
    · change execEcallBarrier crew hand pc s = _
      rw [execEcallBarrier, onEcall_can can calls]
      rfl
    · change execEcallSectionDone crew hand pc s = _
      rw [execEcallSectionDone, onEcall_can can calls]
      rfl
    · change execEcallLog crew hand pc s = _
      rw [execEcallLog, onEcall_can can calls]
      rfl
  · -- HAND_INSTRUCTION
    intro u runs set setF fault addr fr
    have run : exec (.handInstruction crew hand pc i) s = .next (u.runInstr b crew hand pc i.len j h i.bad i.op) :=
      exec_handInstruction_can can
    have runsTo : ∀ {op t}, u.runInstr b crew hand pc i.len j h i.bad op = t → runs op t := fun eq is => by
      rw [run, is, eq]
    have same : u.jobOf crew = (s.at crew hand pc).jobOf crew :=
      corrected_jobOf ..
    have regs : ∀ j' h', u.jobOf crew = some j' → j'.hands[hand]? = some h' → ∀ r, h'.reg r = h.reg r :=
      fun j' h' job is => reg_at can (same.symm.trans job) is
    clear_value u
    refine ⟨fun rd w sgn rs1 imm => runsTo (if_congr (by simp) rfl rfl), fun w rs1 imm rs2 => runsTo (if_congr (by simp) rfl rfl),
      fun fd rs1 imm => runsTo rfl, fun rs1 imm fs => runsTo rfl, fun rd w rs1 => runsTo ?_,
      fun rd w rs1 rs2 => runsTo (if_congr (by simp) rfl rfl), fun o rd w rs1 rs2 => runsTo (if_congr (by simp) rfl rfl),
      fun o n rd src imm => ?_, fun o word rd rs1 rs2 => runsTo (if_congr (by simp) (modHand_congr fun j' h' job is => ?_) rfl),
      fun o word rd rs1 imm => runsTo (if_congr (by simp) (modHand_congr fun j' h' job is => ?_) rfl), fun rd imm pcRel => runsTo rfl, fun rd => runsTo rfl, runsTo rfl,
      fun o rm fd x y z => runsTo (if_congr (by simp [rmOk]) rfl rfl),
      fun o rm rd x y => runsTo (if_congr (by simp [rmOk]) rfl rfl),
      fun rm fd rs1 w sgn => runsTo (if_congr (by simp [rmOk]) rfl rfl), fun fd rs1 => runsTo rfl,
      fun rd rs1 length vtype rs2 => runsTo ?_, ?_⟩
    · -- load-reserved
      exact (if_congr (by simp) rfl rfl).trans (ite_not ..).symm
    · -- CSRs
      exact ⟨fun bad => runsTo (handCsr_illegal o rd src imm bad), fun old has may => runsTo (handCsr_some o rd src imm has may)⟩
    · rw [regs j' h' job is, regs j' h' job is]
    · rw [regs j' h' job is]
    · exact modHand_congr fun j' h' job is => by rw [regs j' h' job is]
    intro vload vstore upTo
    refine ⟨fun vd eew rs1 mode fields masked => runsTo (if_congr (by cases masked <;> simp [and_assoc]) rfl rfl),
      fun vd eew rs1 fields masked => runsTo (if_congr (by cases masked <;> simp) rfl rfl),
      fun vs eew rs1 mode fields masked => runsTo (if_congr (by simp) rfl rfl),
      fun vd rs1 => runsTo ?_, fun vs rs1 => runsTo ?_,
      fun n vd eew rs1 => runsTo (if_congr (by simp [and_assoc]) rfl rfl), fun n vs rs1 => runsTo (if_congr (by simp) rfl rfl),
      fun o => ⟨fun none_ => runsTo ?_, fun h' some_ => runsTo ?_⟩, fun w => ⟨fun none_ => runsTo ?_, fun rd rs1 imm is => runsTo ?_,
        fun rd rs1 rs2 is => runsTo ?_, fun rd rs1 rs2 is => runsTo ?_, fun vd vs2 is => runsTo ?_⟩,
      fun calls => runsTo ?_, runsTo rfl, runsTo rfl⟩
    · exact ite_bnot ..
    · exact ite_bnot ..
    · change (match h.runVector o with | some h' => _ | none => _) = _
      rw [none_]
    · change (match h.runVector o with | some h' => _ | none => _) = _
      rw [some_]
    · change State.runCustom u crew hand pc j h w = _
      rw [State.runCustom, none_]
    · change State.runCustom u crew hand pc j h w = _
      rw [State.runCustom, is]
    · change State.runCustom u crew hand pc j h w = _
      rw [State.runCustom, is]
    · change State.runCustom u crew hand pc j h w = _
      rw [State.runCustom, is]
    · change State.runCustom u crew hand pc j h w = _
      rw [State.runCustom, is]
    · obtain ⟨n, is⟩ : ∃ n, h.reg 17 = n + 4 := ⟨h.reg 17 - 4, by omega⟩
      change State.runEcall u b crew hand pc j h = _
      rw [State.runEcall, is]
      rfl
  · -- loads
    intro die load got far
    have some_ : 0 < width := by
      simp only [List.mem_cons, List.not_mem_nil, or_false] at wide
      omega
    refine ⟨fun low apart => ?_, fun off is ends => ?_, fun off is ends ring => ?_, fun ring off is ends => ?_,
      fun ring crib => ⟨fun off is ends _ => ?_, fun silo off is ends => ?_⟩⟩
    · simp only [load, State.handLoad, handRegion_scratch low apart, got]
    · simp only [load, State.handLoad, handRegion_store some_ is ends, got]
    · intro g c v
      have region : s.handRegion b die addr width = .ring off := handRegion_ring some_ is ends
      refine ⟨fun odd => ?_, fun even closed => ?_, fun even open_ => ?_⟩
      · simp only [load, State.handLoad, region, if_pos odd, die]
      · have none_ : s.ringLoad b j.role die off width bad = none := if_pos (by rw [closed]; rfl)
        simp only [load, State.handLoad, region, if_neg (not_not.2 even), die, none_]
      · simp only [load, State.handLoad, region, if_neg (not_not.2 even), die, ringLoad_open open_, got, v, c, g]
    · simp only [load, State.handLoad, handRegion_crib ring some_ is ends, got, State.cribBytes, List.contains_iff_mem, die]
    · have region : s.handRegion b die addr width = .silo off := handRegion_silo ring crib some_ is ends
      simp only [load, State.handLoad, region, far, die, apply_ite Prod.snd]
    · have region : s.handRegion b die addr width = .loft off := handRegion_loft ring crib some_ silo is ends
      simp only [load, State.handLoad, region, far, die, apply_ite Prod.snd]
  · -- WALK_COMPLETE
    intro die u gen done once
    change (u.walkTable b j w.table = none → execWalkComplete crew k s = _) ∧ ∀ t, u.walkTable b j w.table = some t →
      let idx := if t.desc.indexSigned && bit w.index 63 then none else some w.index
      execWalkComplete crew k s = _
    have run : ∀ x, (match u.walkTable b j w.table with
        | none => (walkRecord 0 5 0 0, u.count (0x500 + die) 6 1)
        | some t =>
          let idx := if t.desc.indexSigned && bit w.index 63 then none else some w.index
          (u.walkResult b die gen t idx, u.walkCharge b die t idx)) = x →
        execWalkComplete crew k s = .next (once (done x.2 x.1)) := by
      rintro x rfl
      simp only [execWalkComplete, if_neg (not_lt.2 fits), found, job, owner]
      rfl
    exact ⟨fun none_ => run (walkRecord 0 5 0 0, u.count (0x500 + die) 6 1) (by rw [none_]),
      fun t some_ => run (u.walkResult b die gen t _, u.walkCharge b die t _) (by rw [some_])⟩

end Sys2Proof.Machine

/-! The stream engine (R304 to R336). -/

namespace Sys2Proof.Machine

/-- The check of an entry, the sections and the kind of its sheaf written out (R310). -/
theorem headBad_eq (v : State) (x : Context) (w : Swath) :
    v.headBad x w = swMalformed x (if x.crew.isSome then ((v.sheaf x.sheaf).map Sheaf.sections).getD [] else [])
      ((v.sheaf x.sheaf).any Sheaf.isUpdate && x.crew.isSome) w.bytes := by
  rw [State.headBad]
  cases x.crew with
  | none => cases v.sheaf x.sheaf <;> simp
  | some c => cases v.sheaf x.sheaf <;> simp [Option.filter]

/-- The engine at the head of a RUNNING context. -/
theorem entryIssue_running {s v : State} {n : Nat} {x : Context} {w : Swath} {rest : List Swath} (pumped : v = s.pump)
    (found : v.context n = some x) (runs : x.running = true) (head : x.waiting = w :: rest) :
    exec (.entryIssue n) s = .next (
      if v.headBad x w && !v.entryHeld x w then ((v.malformedEntry x w.bytes).ctxPop n).pump
      else match v.availEntry x w with
        | .wait => v.modCtx n fun x => { x with stalledSince := none }
        | .stall => v.modCtx n fun x => { x with stalledSince := some (x.stalledSince.getD v.dev.now) }
        | .go none => (v.issueEntry x w []).pump
        | .go (some want) =>
          if v.turn want (v.wants ++ v.heads) then (v.issueEntry x w (v.wants ++ v.heads)).pump
          else v.modCtx n fun x => { x with stalledSince := none }) := by
  change execEntryIssue n s = _
  rw [execEntryIssue, ← pumped]
  simp only [found, runs, head] <;> rfl

/-- A UPDATE entry that is held waits, and one that reads what a COPY has still to write. -/
theorem availEntry_copyWaits {v : State} {x : Context} {w : Swath}
    (waits : ((v.entryReads x w).any fun r => v.copyWaits x r.1 r.2) = true) : v.availEntry x w = .wait := by
  rw [State.availEntry]
  split_ifs
  · rfl
  · rfl

/-- Settles O43: the engine by what its entry needs, the issue by the entry's kind; watchdog, spill and reload by their rows. -/
theorem swathEntriesAreIssued : Obligations.SwathEntriesAreIssued := by
  refine ⟨fun s v n x w rest pumped found runs head => ?_, fun s n x found => ?_, fun s x l => ?_⟩
  · -- ENTRY_ISSUE
    intro e bad c held
    have no : x.no = n := findKey_key found
    have engine := entryIssue_running pumped found runs head
    have test : (v.headBad x w && !v.entryHeld x w) = (bad && !held) := by
      rw [headBad_eq]
      rfl
    rw [test] at engine
    clear_value bad held
    refine ⟨fun isBad free => ?_, fun sound => ?_⟩
    · rw [engine, if_pos (band_pass isBad (congrArg not free))]
    · have go : ¬(bad && !held) = true := by
        obtain fine | holds := sound
        · simp [fine]
        · simp [holds]
      replace engine := engine.trans (congrArg Host.Outcome.next (if_neg go))
      have issue : ∀ rivals, ((v.availEntry x w = .go none ∧ rivals = []) ∨
          (∃ want, v.availEntry x w = .go (some want) ∧ rivals = v.wants ++ v.heads ∧ v.turn want rivals = true)) →
          exec (.entryIssue n) s = .next (v.issueEntry x w rivals).pump := by
        rintro rivals (⟨avail, rfl⟩ | ⟨want, avail, rfl, turn⟩)
        · simp only [engine, avail]
        · simp only [engine, avail, turn, if_true]
      refine ⟨fun waits => ?_, fun avail => ?_, fun avail => ?_, fun want avail turn => ?_, fun rivals may =>
        ⟨fun kind => ?_, fun kind empty => ?_, fun kind some_ => ?_, fun w' t kind some_ piece => ?_, fun kind => ?_, fun kind => ?_⟩⟩
      · simp only [engine, availEntry_copyWaits waits, c]
      · simp only [engine, avail, c]
      · simp only [engine, avail]
      · simp only [engine, avail, turn, c, Bool.false_eq_true, if_false]
      · simp only [issue rivals may, State.issueEntry, show swKind w.bytes = 0 from kind, no, c]
      · obtain is | is := kind
        · simp only [issue rivals may, State.issueEntry, show swKind w.bytes = 1 from is, show swLen w.bytes = 0 from empty, if_true,
            no, c]
        · simp only [issue rivals may, State.issueEntry, show swKind w.bytes = 2 from is, show swLen w.bytes = 0 from empty, if_true,
            no, c]
      · simp only [issue rivals may, State.issueEntry, show swKind w.bytes = 1 from kind, if_neg some_, no, c, e]
      · simp only [issue rivals may, State.issueEntry, show swKind w.bytes = 2 from kind,
          if_neg (show ¬swLen w.bytes = 0 from some_), no]
        rw [show (v.modCtx n fun x => { x with stalledSince := none }).issueCopy x w rivals = (w', t) from piece]
      · simp only [issue rivals may, State.issueEntry, show swKind w.bytes = 3 from kind, no, c, e]
      · have high : 4 ≤ swKind w.bytes := kind
        obtain ⟨k, is⟩ : ∃ k, swKind w.bytes = k + 4 := ⟨swKind w.bytes - 4, by omega⟩
        simp only [issue rivals may, State.issueEntry, is, no, c]
  · -- STALL_WATCHDOG and SPILL_RELOAD
    intro die
    refine ⟨fun t since moves => ?_, fun t since stalled late => ?_, ?_⟩
    · change execStallWatchdog n s = _
      simp only [execStallWatchdog, found, since]
      rw [if_pos (by rw [moves]; rfl)]
    · intro u tell
      have run : exec (.stallWatchdog n) s = .next (match u.victim x with
          | none => tell (noVictim n) 0
          | some v =>
            let slots := u.spillSlots v
            let pieces := u.spillWrites v
            let size := sumBy (fun (r : Nat × Nat × RowSlot) => r.2.2.granules) slots + sumBy (fun (w : Write) => w.data.length) pieces
            let a := slots.foldl (fun s r => State.sendSpill s v (.spillRow r.1 r.2.1 r.2.2.slot) r.2.2.granuleList) (tell v.no size)
            ((pieces.foldl (fun s w => State.sendSpill s v (.spillPiece w.id) w.data) a).count x.bay 15 1).pump) := by
        change execStallWatchdog n s = _
        simp only [execStallWatchdog, found, since]
        rw [if_neg (bnot_not_true stalled), if_neg (not_lt.2 late)] <;> rfl
      exact ⟨fun none_ => by rw [run, none_], fun v some_ => by rw [run, some_]⟩
    · intro v
      change execSpillReload n s = _
      rw [execSpillReload, found]
  · -- spill and reload
    intro die
    refine ⟨fun for_ => rfl, fun p a n gone => if_neg ?_⟩
    simp only [List.any_eq_true, Bool.and_eq_true, beq_iff_eq, Bool.not_eq_true', not_exists, not_and]
    intro q at_ is out
    exact Bool.false_ne_true (out.symm.trans (gone q at_ is))

end Sys2Proof.Machine

/-! Reads and writes that land, and the run-ahead scanner (R304 to R329, R373 to R382). -/

namespace Sys2Proof.Machine

/-- A granule without data keeps its contents. -/
theorem landGranule_none (w : Write) (s : State) (i : Nat) : State.landGranule w s (none, i) = s := rfl

/-- A granule with data lands where its memory can be reached. -/
theorem landGranule_some {w : Write} {s : State} {i : Nat} {bytes : List Byte} (reached : s.cutOff w.bay w.die w.space (w.addr + i) = false) :
    let a := spaceArea w.space w.half w.bay w.die
    State.landGranule w s (some bytes, i) = (s.write a.1 a.2.1 a.2.2 (64 * (w.addr + i)) bytes).heal a.1 a.2.1 a.2.2 (w.addr + i) 1 :=
  if_neg (by rw [reached]; decide)

/-- The first that is not done comes after all that are. -/
theorem takeWhile_done {before after : List Scan} {y : Scan} (done : ∀ z ∈ before, z.done = true) (open_ : y.done = false) :
    (before ++ y :: after).takeWhile (fun z => z.done) = before := by
  rw [List.takeWhile_append_of_pos done, List.takeWhile_cons_of_neg (by rw [open_]; decide), List.append_nil]

/-- What becomes of a write's data, with the errors it has met, where it is for. -/
def landed (p : Write × State) : State :=
  match p.1.for_ with
  | .move cmd => match (p.2.job cmd).map fun j => (j.bay, j.items.head?) with
    | some (b, some i) => (p.2.moveWritten cmd).releaseMove b i.table i.row
    | _ => p.2
  | .copy ctx => ((p.2.landWrite p.1).cribFree ctx p.1.took).ctxSettle ctx
  | .copyIn cmd => (p.2.landWrite p.1).copyWritten cmd (p.1.data.filter Option.isSome).length
  | .spillRow no k slot => (p.2.landWrite p.1).spillLanded no k slot (p.1.addr - p.2.spillBase p.1.bay p.1.die) p.1.data.length
  | .spillPiece copy => (p.2.landWrite p.1).pieceLanded copy (p.1.addr - p.2.spillBase p.1.bay p.1.die) p.1.data.length

/-- What a write that may land does: its data goes where it is for, and what waits goes on. -/
theorem writeCompletion_lands {s : State} {id : Nat} {w : Write} (fixed bad : List Nat)
    (found : findKey Write.id s.dp.writes id = some w) (here : w.spilled = none) :
    let q := s.writeQueue w
    let h := s.homeOf w.bay w.die w.space w.addr
    exec (.writeCompletion ⟨id, fixed, bad⟩) s = .next (
      if !s.mayAccess w.bay w.die q h.1 h.2 w.data.length true || (h.1 != 9 && s.readBefore w.bay h.1 h.2 w.data.length) then s
      else
        let u := ({ s with dp.writes := dropKey Write.id s.dp.writes id } : State).access w.bay w.die q h.1 h.2 w.data.length true
        let p := u.passageErrors w fixed bad
        (landed p).pump) := by
  intro q h
  have there : (findKey Write.id s.dp.writes id).filter (fun w => w.spilled.isNone) = some w := by
    rw [found, Option.filter_some_pos (by rw [here]; rfl)]
  change execWriteCompletion ⟨id, fixed, bad⟩ s = _
  simp only [execWriteCompletion, there]
  rfl

/-- Errors are met on its way by the data of a COPY alone (R318). -/
theorem passageErrors_other {s : State} {w : Write} {fixed bad : List Nat} (other : ∀ ctx, w.for_ ≠ .copy ctx) :
    s.passageErrors w fixed bad = (w, s) := by
  rw [State.passageErrors]
  split
  · next ctx is => exact absurd is (other ctx)
  · rfl

/-- Settles O44: the rows of reads and writes by their purpose; the scanner takes the first scan that is not done. -/
theorem readsAndWritesLand : Obligations.ReadsAndWritesLand := by
  refine ⟨fun s id r found near => ⟨fun fixed bad started purpose => ?_, fun bad table row started purpose => ?_⟩,
    fun w s i => ⟨landGranule_none w s i, fun bytes reached => landGranule_some reached⟩,
    fun s id w found here => ?_, fun s die no x before y after fits found scans done open_ is enabled opened deep => ?_⟩
  · -- READ_COMPLETION
    have there : (findKey Read.id s.dp.reads id).filter Read.started = some r := by
      rw [found, Option.filter_some_pos started]
    have go : ¬(decide (r.space = 3) && !r.outside) = true := by simp [near]
    change execReadCompletion id fixed bad s = _
    simp only [execReadCompletion, there]
    split
    · next is => rw [is] at purpose; exact purpose.elim
    · next is => rw [is] at purpose; exact purpose.elim
    · next is => rw [is] at purpose; exact purpose.elim
    · exact congrArg Host.Outcome.next (if_neg go)
  · -- STAGING_COMPLETE
    have go : ¬(decide (r.space = 3) || !r.started) = true := by simp [near, started]
    change execStagingComplete id bad s = _
    simp only [execStagingComplete, found, purpose]
    exact congrArg Host.Outcome.next (if_neg go)
  · -- WRITE_COMPLETION
    intro q h first
    have run := fun fixed bad => writeCompletion_lands fixed bad found here
    refine ⟨fun fixed bad waits => ?_, fun fixed bad may free => ?_⟩
    · rw [run, if_pos]
      simp only [Bool.or_eq_true, Bool.and_eq_true, Bool.not_eq_true', bne_iff_ne]
      exact waits
    · intro u v
      have go : ¬(!s.mayAccess w.bay w.die q h.1 h.2 w.data.length true || (h.1 != 9 && s.readBefore w.bay h.1 h.2 w.data.length)) =
          true := by
        simp only [Bool.or_eq_true, Bool.and_eq_true, Bool.not_eq_true', bne_iff_ne, not_or]
        exact ⟨fun closed => Bool.false_ne_true (closed.symm.trans may), free⟩
      have lands : exec (.writeCompletion ⟨id, fixed, bad⟩) s = .next (landed (u.passageErrors w fixed bad)).pump :=
        (run fixed bad).trans (congrArg Host.Outcome.next (if_neg go))
      have straight : (∀ ctx, w.for_ ≠ .copy ctx) → exec (.writeCompletion ⟨id, fixed, bad⟩) s = .next (landed (w, u)).pump :=
        fun other => by rw [lands, passageErrors_other other]
      refine ⟨fun cmd j i l for_ job items => ?_, fun ctx for_ => ?_, fun cmd for_ => ?_, fun no k slot for_ => ?_, fun copy for_ => ?_⟩
      · rw [straight (by simp [for_])]
        simp only [landed, for_, job, items, Option.map_some, List.head?_cons]
      · intro p data
        have same : p.1.data = data := by
          simp only [p, data, State.passageErrors, for_, List.contains_iff_mem]
        have kept : p.1.for_ = .copy ctx ∧ p.1.took = w.took := by
          simp only [p, State.passageErrors, for_, and_self]
        obtain ⟨copies, took⟩ := kept
        rw [lands]
        simp only [landed, State.landWrite, show (u.passageErrors w fixed bad).1.for_ = .copy ctx from copies, ← same, ← took, p]
      · rw [straight (by simp [for_])]
        simp only [landed, for_]
        rfl
      · rw [straight (by simp [for_])]
        simp only [landed, for_]
        rfl
      · rw [straight (by simp [for_])]
        simp only [landed, for_]
        rfl
  · -- RUNAHEAD_SCAN
    intro work t
    have go : ¬(decide (y.sheaf ≠ no) || decide ((s.bay x.bay).granary.runahead.enable = 0) || decide (s.bayState x.bay ≠ .opened) ||
        (decide ((s.bay x.bay).granary.runahead.depth ≠ 0) && decide ((s.bay x.bay).granary.runahead.depth ≤ before.length))) = true := by
      simp only [Bool.or_eq_true, Bool.and_eq_true, decide_eq_true_eq, not_or, not_not]
      exact ⟨⟨⟨is, enabled⟩, opened⟩, by omega⟩
    change execRunaheadScan die no s = _
    simp only [execRunaheadScan, if_neg (not_lt.2 fits), found, scans, takeWhile_done done open_]
    rw [List.getElem?_append_right (le_refl _), Nat.sub_self]
    exact congrArg Host.Outcome.next (if_neg go)

end Sys2Proof.Machine

/-! The array of a thresher: allotment, passes, write-back, tiles and draining (R234 to R250, R262 to R266). -/

namespace Sys2Proof.Machine

theorem sectionAt_some {s : State} {no k : Nat} {x : Sheaf} {g : Section} (sheaf : s.sheaf no = some x) (sect : x.sections[k]? = some g) :
    s.sectionAt no k = some (x, g) := by
  rw [State.sectionAt, sheaf, Option.bind_some, sect, Option.map_some]

theorem tallyAt_some {s : State} {no i : Nat} {x : Sheaf} {y : Tallied} (sheaf : s.sheaf no = some x) (group : x.tally[i]? = some y) :
    s.tallyAt no i = some (x, y) := by
  rw [State.tallyAt, sheaf, Option.bind_some, group, Option.map_some]

/-- A chain without a pass under way takes the next of its work, at its bay's turn (R64). -/
theorem pass_turn {s : State} {n i b : Nat} {r : BagRun} {p : PassSlice} {c : Chain} (fits : n ≤ 31)
    (bag : (s.thresher n).bags[i]? = some r) (chain : r.chains[p.slice]? = some c) (idle : c.flight = none)
    (bay : s.workBay r.work = some b) (turn : s.mayPass (thresherDie n) b = true) :
    exec (.pass n i p) s = .next (match r.work with
      | .bag no k bag => s.passBag n i p.slice no k bag c p.fixed p.bad
      | .tally no m => s.passGroup n i p.slice no m c
      | .matrix id block row => s.passMatrix n i p.slice id block row c) := by
  have ready : (r.chains[p.slice]?).filter (fun c => c.flight.isNone) = some c := by
    rw [chain, Option.filter_some_pos (by rw [idle]; rfl)]
  have may : ¬(!(s.workBay r.work).any (s.mayPass (thresherDie n))) = true := by
    rw [bay, Option.any_some, turn]
    decide
  change execPass n i p s = _
  simp only [execPass, if_neg (not_lt.2 fits), bag, ready]
  exact congrArg Host.Outcome.next (if_neg may)

/-- A pass of a bag's chain with positions that are there (R234). -/
theorem passBag_some {s : State} {n i j no k bag p p' e e' : Nat} {x x' : Sheaf} {g g' : Section} {c : Chain} {ls ls' : List Lane}
    {ch ch' : Bool} {fixed bad : List (Nat × Nat)} (at_ : s.sectionAt no k = some (x, g))
    (first : s.passAux x k g bag j 16 c.lanes c.next false 0 = (ls, p, ch, e)) (some_ : p ≠ c.next) :
    let lo := g.bagStart bag + c.next
    let u := s.rowErrors x.bay (thresherDie n) lo (p - c.next) g (fun s r => State.chaffSlot s x k r) fixed bad
    u.sectionAt no k = some (x', g') → u.passAux x' k g' bag j (p - c.next) c.lanes c.next false 0 = (ls', p', ch', e') →
    let v := u.heatSlots x' k g' lo (g'.bagStart bag + p')
    s.passBag n i j no k bag c fixed bad =
      (if e' = 0 ∨ j ≠ 0 then v else v.modCtx g'.ctx fun y => y.bump 4 e').enterPass n i j x'.bay ls' p'
        fun r => { r with chaffed := r.chaffed || ch' } := by
  intro lo u after second v
  simp only [State.passBag, at_, first]
  rw [if_neg some_]
  change (match u.sectionAt no k with
    | none => u
    | some (x, g) => _) = _
  rw [after]
  change (match u.passAux x' k g' bag j (p - c.next) c.lanes c.next false 0 with
    | (ls, p, ch, err) => _) = _
  rw [second]
  exact congrArg (fun t : State => t.enterPass n i j x'.bay ls' p' fun r => { r with chaffed := r.chaffed || ch' })
    (if_congr (by simp) rfl rfl)

/-- The errors that a pass can meet, by their number (R265, R266). -/
theorem match_fault {α : Type} (fault : Nat) (corrected slot store weight none_ : α) :
    (match fault with
      | 1 => corrected
      | 2 => slot
      | 3 => store
      | 4 => weight
      | _ => none_) = if fault = 1 then corrected else if fault = 2 then slot else if fault = 3 then store else if fault = 4 then weight
        else none_ := by
  obtain _ | _ | _ | _ | _ | f := fault
  · rfl
  · rfl
  · rfl
  · rfl
  · rfl
  · simp

/-- Settles O45: each row of the array, its guard met; the drain takes what `Thresher.drains` gives. -/
theorem threshersPool : Obligations.ThreshersPool := by
  refine ⟨fun s n no k bag x g fits sheaf sect lookup phase die waits whole awake bank room => ?_,
    fun s n no i m x y fits sheaf group phase out fresh die whole awake room => ?_,
    fun s n i j r c fits bag chain idle => ?_, fun s n i j fault entry readers r ls p fits bag flight => ?_,
    fun s n fits => ⟨?_, fun r i fixed bad drains => ?_, fun no k x g o fixed bad at_ held pooled die turn => ?_⟩,
    fun s no k x g at_ phase whole redo room => ?_⟩
  · -- ALLOT of a bag
    let need := if g.bagLen bag = 0 then 0 else g.tab.slotsNeeded
    let free := (s.thresher n).freeSlots (s.thresher n).filling
    have go : ¬(x.isUpdate || !(x.phase == .running || x.phase == .working) || decide (x.crew / 16 ≠ thresherDie n) ||
        !s.bagWaits x k bag g || (s.thresher n).matrix.isSome || !s.domainA0 (quadDomain n) || decide (free.length < need) ||
        !(s.thresher n).bankFor no k) = true := by
      simp [lookup, die, waits, whole, awake, bank, need, free, room]
      exact phase.resolve_left
    change execAllot n .bag no (k, bag) s = _
    simp only [execAllot, if_neg (not_lt.2 fits)]
    change Host.Outcome.next (s.allotBag n no k bag) = _
    simp only [State.allotBag, sectionAt_some sheaf sect]
    exact congrArg Host.Outcome.next (if_neg go)
  · -- ALLOT of a group
    let d := y.group.vals.length
    let free := (s.thresher n).freeSlots (s.thresher n).filling
    have go : ¬(decide (x.phase ≠ .tallying) || y.out || s.allotted (.tally no i) || decide (x.crew / 16 ≠ thresherDie n) ||
        (s.thresher n).matrix.isSome || !s.domainA0 (quadDomain n) || decide (free.length < slicesOf d)) = true := by
      have fewer : ¬free.length < slicesOf d := not_lt.2 room
      simp [phase, out, fresh, die, whole, awake, fewer]
    change execAllot n .tally no (i, m) s = _
    simp only [execAllot, if_neg (not_lt.2 fits)]
    change Host.Outcome.next (s.allotGroup n no i) = _
    simp only [State.allotGroup, tallyAt_some sheaf group]
    exact congrArg Host.Outcome.next (if_neg go)
  · -- PASS
    intro die enters
    refine ⟨fun no k bag' x g x' g' ls p ls' p' ch ch' e e' fixed bad work at_ first some_ bay turn after second => ?_,
      fun no m x y fixed bad work at_ some_ bay turn => ?_⟩
    · rw [pass_turn fits bag (p := ⟨j, fixed, bad⟩) chain idle bay turn]
      simp only [work]
      rw [passBag_some at_ first some_ after second]
      rfl
    · rw [pass_turn fits bag (p := ⟨j, fixed, bad⟩) chain idle bay turn]
      simp only [work, State.passGroup, at_]
      rw [if_neg (by simpa using some_)]
      simp only [State.enterPass, id_eq, enters, Bool.or_false]
      rfl
  · -- PASS_WRITEBACK
    intro die u mark v from_
    let broke := u.modBag n i fun r => { r with broken := some entry }
    let loaded := fun (id block row : Nat) => (mark 1).modThresher n fun t =>
      { t with weights := t.weights.filter fun w => !(w.job == id && w.block == block && w.group == row / 64 && w.k == from_) }
    let met : Work → State := fun w => match fault with
      | 1 => u.dieCorrected die 0
      | 2 => broke
      | 3 => mark 0
      | 4 => match w with
        | .matrix id block row => loaded id block row
        | _ => mark 1
      | _ => u
    have run : exec (.passWriteback n i j fault ⟨entry, readers⟩) s = .next ((match r.work with
        | .bag no k _ => (met r.work).releaseSlots no k false
        | _ => met r.work).noteReady n) := by
      change execPassWriteback n i j fault ⟨entry, readers⟩ s = _
      simp only [execPassWriteback, if_neg (not_lt.2 fits), bag, flight]
      rfl
    have plain : ∀ w, (∀ id block row, w ≠ .matrix id block row) → met w = v := by
      intro w other
      refine Eq.trans ?_ (match_fault fault (u.dieCorrected die 0) broke (mark 0) (mark 1) u)
      cases w with
      | matrix id block row => exact absurd rfl (other id block row)
      | bag no k bag => rfl
      | tally no m => rfl
    refine ⟨fun no k bag' work => ?_, fun no m work => ?_, fun id block row work => ?_⟩
    · rw [run, work]
      exact congrArg (fun t : State => Host.Outcome.next ((t.releaseSlots no k false).noteReady n)) (plain (.bag no k bag') (by simp))
    · rw [run, work]
      exact congrArg (fun t : State => Host.Outcome.next (t.noteReady n)) (plain (.tally no m) (by simp))
    · have reload : met (.matrix id block row) = if fault = 4 then loaded id block row else v := by
        refine (match_fault fault (u.dieCorrected die 0) broke (mark 0) (loaded id block row) u).trans ?_
        by_cases four : fault = 4
        · subst four
          rfl
        · simp only [if_neg four, v]
          rfl
      rw [run, work]
      refine congrArg (fun t : State => Host.Outcome.next (t.noteReady n)) (reload.trans ?_)
      by_cases four : fault = 4
      · subst four
        rfl
      · rw [if_neg four, if_neg four]
  · -- TILE_SWAP
    intro u t
    change execTileSwap n s = _
    simp only [execTileSwap, if_neg (not_lt.2 fits)]
    refine congrArg Host.Outcome.next (if_congr ?_ rfl rfl)
    simp [u, t]
  · -- DRAIN_SLICE
    intro u
    have taken : (s.thresher n).drains = some (r, i) := drains
    change (_ → execDrainSlice ⟨n, none, fixed, bad⟩ s = _) ∧ (_ → (∀ no k bag, _ → execDrainSlice ⟨n, none, fixed, bad⟩ s = _) ∧
      ∀ no m x y, _ → _ → _)
    refine ⟨fun more => ?_, fun last => ⟨fun no k bag work => ?_, fun no m x y work group => ?_⟩⟩
    · simp only [execDrainSlice, if_neg (not_lt.2 fits), taken]
      rw [if_pos more]
    · simp only [execDrainSlice, if_neg (not_lt.2 fits), taken, work]
      rw [if_neg (not_lt.2 last)]
    · change execDrainSlice ⟨n, none, fixed, bad⟩ s = _
      simp only [execDrainSlice, if_neg (not_lt.2 fits), taken, work]
      rw [if_neg (not_lt.2 last), State.drainGroup, group] <;> rfl
  · -- DRAIN_SLICE of held values
    intro u x' g' o' at' held' v x'' g'' o'' at'' held''
    have some_ : g.outs.any BagOut.isHeld = true := by
      rw [List.any_eq_true]
      exact ⟨o, List.mem_of_find?_eq_some held, List.find?_some held⟩
    change execDrainSlice ⟨n, some (no, k), fixed, bad⟩ s = _
    simp only [execDrainSlice, if_neg (not_lt.2 fits), State.readBack, at_]
    rw [if_neg (by simp [some_, pooled, die, turn])]
    change Host.Outcome.next (match u.sectionAt no k with
      | none => u
      | some (x, g) => _) = _
    simp only [at', held']
    change Host.Outcome.next (match v.sectionAt no k with
      | none => v
      | some (x, g) => _) = _
    simp only [at'', held'']
    by_cases more : g''.back + 1 < slicesOf g''.tab.desc.dim
    · simp only [Option.filter, decide_eq_false (not_le.2 more), if_pos more, Bool.false_eq_true, if_false, v, u]
    · simp only [Option.filter, decide_eq_true (not_lt.1 more), if_neg more, if_true, v, u]
  · -- REDO
    change execRedo no k s = _
    simp only [execRedo, at_]
    rw [if_neg (by simp [phase, whole, redo, room])]

end Sys2Proof.Machine

/-! A matrix job that has ended (R260). -/

namespace Sys2Proof.Machine

/-- The descriptor of a job whose C has one row and one column: BF16 in, FP32 out. -/
def unitProduct : List Byte := [1, 1, 0, 0] ++ leBytes 4 1 ++ leBytes 4 1 ++ leBytes 4 1 ++ zeros 48

/-- Its fields. -/
def unitDesc : MatDesc := ⟨.bf16, .bf16, .fp32, false, false, 0, 1, 1, 1, 0, 0, 0, 0, 0, 0, 0⟩

/-- That job, its one element written by thresher 0. -/
def writtenProduct : Matrix := ⟨4, 0, 0, 0, some 0, unitProduct, 0, .done, 1, 0, 1, 0, []⟩

/-- A device with that job, whose weights the thresher still holds. -/
def productWritten : State :=
  ({ State.reset with dp.matrices := [writtenProduct] } : State).modThresher 0 fun t =>
    { t with matrix := some 4, weights := [⟨4, 0, 0, 0, [[0x3F80]], false⟩] }

/-- Blocks of W in the weight registers of thresher 0 after a step. -/
def weightsAfter : Out → Option Nat
  | .next s => some (s.thresher 0).weights.length
  | _ => none

/-- Refutes O60: the end of a job also empties its thresher's weight registers (`State.endMatrix`), which the statement leaves as they were. -/
theorem not_matrixJobsRun : ¬ Obligations.MatrixJobsRun := by
  unfold Obligations.MatrixJobsRun
  rintro ⟨-, -, -, ends, -⟩
  obtain ⟨-, ofDesc⟩ := ends productWritten 4 writtenProduct (by decide +kernel)
  obtain ⟨-, written⟩ := ofDesc unitDesc (by decide +kernel)
  have claim := congrArg weightsAfter (written rfl rfl)
  exact absurd claim (by decide +kernel)

end Sys2Proof.Machine

/-! Results and completion records are placed (R220 to R229). -/

namespace Sys2Proof.Machine

/-- Settles O46: a placement and a record by where `State.placeAt` finds their place. -/
theorem resultsArePlaced : Obligations.ResultsArePlaced := by
  refine ⟨fun s no x0 x g found lookup working scaled sect whole once => ?_, fun s no st x found ready => ⟨fun fetches => ?_, fun quiet => ?_⟩⟩
  · -- RESULT_PLACEMENT
    intro off mark
    let k := x0.sections.findIdx fun g => !g.placed
    let u := s.modSection no k Section.scaled
    have run : exec (.resultPlacement no) s = .next (match u.placeAt x true with
        | .wait => s
        | .failed s => s.leaveSheaf no
        | .net q => mark (u.rdmaSend q off x.resultKey g.placedBytes (work := some x.no) (die := x.crew / 16)) (some q.qpn)
        | .host =>
          if !s.hostMay x.bay (x.crew / 16) g.placedBytes.length then s
          else mark (u.hostPlace x.resultKey off g.placedBytes s.tth.resultRo (x.crew / 16)) none
        | .nowhere => mark u none) := by
      change execResultPlacement no s = _
      simp only [execResultPlacement, found]
      rw [if_neg (by simp [lookup, working])]
      simp only [scaled, sect]
      rw [if_neg (by simp [Section.final, whole, once])] <;> rfl
    refine ⟨fun q at_ => ?_, fun at_ => ?_, fun at_ => ?_, fun at_ => ?_, fun v at_ => ?_⟩
    · rw [run, show u.placeAt x true = .net q from at_]
    · rw [run, show u.placeAt x true = .host from at_]
      exact congrArg Host.Outcome.next (ite_bnot ..)
    · rw [run, show u.placeAt x true = .wait from at_]
    · rw [run, show u.placeAt x true = .nowhere from at_]
    · rw [run, show u.placeAt x true = .failed v from at_]
  · -- COMPLETION_RECORD while the job's contexts still fetch
    have waits : x.readyStatus.filter (fun _ => !s.stillFetches no) = none := by
      rw [ready, fetches]
      rfl
    change execCompletionRecord no s = _
    simp only [execCompletionRecord, found, waits]
  · -- COMPLETION_RECORD
    intro r
    have goes : x.readyStatus.filter (fun _ => !s.stillFetches no) = some st := by
      rw [ready, quiet]
      rfl
    have run : exec (.completionRecord no) s = .next (match s.placeAt x false with
        | .wait => s
        | .failed s => s.leaveSheaf no
        | .net q => (s.rdmaSend q x.completionOff x.completionKey r (work := some x.no) (die := x.crew / 16)).leaveSheaf no
        | .host =>
          if !s.hostMay x.bay (x.crew / 16) 32 then s
          else
            let u := s.hostPlace x.completionKey x.completionOff r false (x.crew / 16)
            (match (s.region x.completionKey).bind Region.msix with
              | some v => u.countVec v
              | none => u).leaveSheaf no
        | .nowhere => s.leaveSheaf no) := by
      change execCompletionRecord no s = _
      simp only [execCompletionRecord, found, goes]
      rfl
    refine ⟨fun q at_ => ?_, fun at_ => ?_, fun at_ => ?_, fun at_ => ?_, fun v at_ => ?_⟩
    · rw [run, at_]
    · rw [run, at_]
      exact congrArg Host.Outcome.next (ite_bnot ..)
    · rw [run, at_]
    · rw [run, at_]
    · rw [run, at_]

end Sys2Proof.Machine

/-! The tally and the ledger between packages (R401 to R408, R419 to R423). -/

namespace Sys2Proof.Machine

/-- A ledger message that arrives, for this package or another (R420, R526). -/
theorem ledger_arrives {s u : State} {link : Nat} {msg : List Byte} (carries : Carries s link msg u) :
    (ForUs s msg → exec (.ledgerContrib link msg) s = .next (u.ledgerContrib msg) ∧
      exec (.ledgerAck link msg) s = .next (u.ledgerAck msg)) ∧
    (¬ForUs s msg → exec (.ledgerContrib link msg) s = .next (u.relayOn link (destOf msg) msg) ∧
      exec (.ledgerAck link msg) s = .next (u.relayOn link (destOf msg) msg)) := by
  refine ⟨fun us => ⟨?_, ?_⟩, fun them => ⟨?_, ?_⟩⟩
  · exact onYoke_us carries (fun s => s.ledgerContrib msg) us
  · exact onYoke_us carries (fun s => s.ledgerAck msg) us
  · exact onYoke_them carries (fun s => s.ledgerContrib msg) them
  · exact onYoke_them carries (fun s => s.ledgerAck msg) them

/-- Settles O47: the tally by its checks, the submission by the first sheaf whose turn has come, the ledger by its messages. -/
theorem updatesAreTalliedAndAcknowledged : Obligations.UpdatesAreTalliedAndAcknowledged := by
  refine ⟨fun s no x found update working expanded => ⟨fun bad => ?_, fun sound plain => ?_⟩, fun s no x found tallying => ?_,
    fun s b x due => ?_, fun s no x found applying ops messages groups => ?_, fun s u link msg carries => ledger_arrives carries,
    fun s b node seq => ⟨fun m found applying open_ left => ?_, fun x found runs late => ?_⟩⟩
  · -- TALLY of a malformed sheaf
    have isBad : (x.bad || mixedOps x.contribs) = true := by simpa using bad
    change execTally no s = _
    simp only [execTally, found]
    rw [if_neg (by simp [working]), if_neg (by simp [update, working, expanded]), if_pos isBad]
  · -- TALLY
    intro u
    change execTally no s = _
    simp only [execTally, found]
    rw [if_neg (by simp [working]), if_neg (by simp [update, working, expanded]), if_neg (bor_not_true sound plain)]
    rfl
  · -- TALLY of a sheaf that has been coalesced
    change execTally no s = _
    simp only [execTally, found]
    rw [if_pos tallying]
  · -- submission
    intro groups here away v n
    rw [State.submitTallied, due]
    rfl
  · -- UPDATE_ACKNOWLEDGE
    change execUpdateAcknowledge no s = _
    simp only [execUpdateAcknowledge, found]
    rw [if_pos (by simp [applying, ops, messages, groups])]
  · -- LEDGER_ACK_SEND
    intro v
    change execLedgerAckSend b node seq s = _
    simp only [execLedgerAckSend, found]
    rw [if_neg (by simp [applying, open_, left])]
  · -- LEDGER_RETRANSMIT
    intro msg path v
    change execLedgerRetransmit b node seq s = _
    simp only [execLedgerRetransmit, found]
    rw [if_neg (bor_not_true (by rw [runs]; rfl) (decide_eq_false (not_lt.2 late)))]

end Sys2Proof.Machine

/-! The flails (R406 to R418). -/

namespace Sys2Proof.Machine

/-- The reads of an update that is not computed yet (R410). -/
theorem flailReadDone_update {s : State} {k i b table : Nat} {e : Conflict} {no : Option Nat} {m : Option (Nat × Nat)} {row : Option Nat}
    {isWrite : Bool} {vals : List Nat} {epoch : Nat} {o : OptRec} (fits : k < 384) (at_ : (s.flail k).entries[i]? = some e)
    (op : e.op = .update no m b table row isWrite vals epoch o) (open_ : e.computed = none) :
    exec (.flailReadDone k i) s = .next (match s.table b table with
      | none => ((s.opDone e.op 0 0).releaseRow k e.key).hotPoll b
      | some t =>
        if s.updateCut k e.op then ((s.updateFailed k e.op).releaseRow k e.key).hotPoll b
        else if !s.updateMay k b t row false || !s.within (s.updateRead k b t row) b true false then s
        else
          let u := s.updateRead k b t row
          if u.updateBad b t row then ((u.updateFailed k e.op).releaseRow k e.key).hotPoll b
          else u.putFlail { u.flail k with
            entries := (u.flail k).entries.set i { e with computed := u.compute b t row isWrite vals o } }) := by
  change execFlailReadDone k i s = _
  simp only [execFlailReadDone, if_neg (not_le.2 fits), at_, op, open_] <;> rfl

/-- The writes of an update that is computed (R410, R411). -/
theorem flailWriteDone_update {s : State} {k i b table : Nat} {e : Conflict} {no : Option Nat} {m : Option (Nat × Nat)} {row : Option Nat}
    {isWrite : Bool} {vals : List Nat} {epoch : Nat} {o : OptRec} {c : Computed} (fits : k < 384)
    (at_ : (s.flail k).entries[i]? = some e) (op : e.op = .update no m b table row isWrite vals epoch o) (is : e.computed = some c) :
    let done := fun (v : State) => (v.releaseRow k e.key).hotPoll b
    exec (.flailWriteDone k i) s = .next (match s.table b table with
      | none => done (s.opDone e.op 0 (c.sat.length + c.momentSat))
      | some t =>
        if s.updateDead k b t row then done (s.updateFailed k e.op)
        else
          let v := s.commitUpdate k b t row epoch c
          if !s.updateMay k b t row true || !s.within v b false false || row.any (s.rowSplit b table) then s
          else done (v.opDone e.op 0 (c.sat.length + c.momentSat))) := by
  intro done
  change execFlailWriteDone k i s = _
  simp only [execFlailWriteDone, if_neg (not_le.2 fits), at_, op, is]
  rfl

/-- Settles O48: the head of a flail's queue, and the reads and the writes of an entry, each by its guards. -/
theorem flailsApplyUpdates : Obligations.FlailsApplyUpdates := by
  refine fun s k fits => ⟨fun op rest queue => ?_, fun i e no m b table row isWrite vals epoch o at_ op => ⟨fun open_ => ?_, fun c is => ?_⟩⟩
  · -- FLAIL_TAKE
    have take : exec (.flailTake k) s = .next (s.takeHead k) := if_neg (not_le.2 fits)
    refine ⟨fun behind => ?_, fun first room => ?_⟩
    · rw [take]
      simp only [State.takeHead, queue]
      rw [if_pos behind]
    · rw [take]
      simp only [State.takeHead, queue]
      rw [if_neg (by rw [first]; decide), if_neg (not_le.2 room)]
  · -- FLAIL_READ_DONE
    have run := flailReadDone_update fits at_ op open_
    refine ⟨fun gone => by rw [run, gone], fun t there => ?_⟩
    rw [there] at run
    refine ⟨fun cut => ?_, fun whole waits => ?_, fun whole may inside => ?_⟩
    · exact run.trans (congrArg Host.Outcome.next (if_pos cut))
    · refine run.trans (congrArg Host.Outcome.next ((if_neg (by rw [whole]; decide)).trans (if_pos ?_)))
      simpa using waits
    · refine run.trans (congrArg Host.Outcome.next ((if_neg (by rw [whole]; decide)).trans (if_neg ?_)))
      exact bor_not_true (congrArg not may) (congrArg not inside)
  · -- FLAIL_WRITE_DONE
    intro done
    have run := flailWriteDone_update fits at_ op is
    refine ⟨fun gone => by rw [run, gone], fun t there => ?_⟩
    rw [there] at run
    refine ⟨fun dead => run.trans (congrArg Host.Outcome.next (if_pos dead)), fun alive => ?_⟩
    refine run.trans (congrArg Host.Outcome.next ((if_neg (by rw [alive]; decide)).trans (if_congr ?_ rfl rfl)))
    cases row <;> simp [or_assoc]

end Sys2Proof.Machine

/-! Forwarded requests (R521 to R533). -/

namespace Sys2Proof.Machine

/-! ### Serving a request leaves the network's state alone -/

theorem foldl_net {α : Type} {f : State → α → State} (keeps : ∀ s x, (f s x).net = s.net) (l : List α) (s : State) :
    (l.foldl f s).net = s.net := by
  induction l generalizing s with
  | nil => rfl
  | cons x l ih => exact (ih _).trans (keeps s x)

@[simp] theorem State.count_net (s : State) {block idx k} : (s.count block idx k).net = s.net := by
  unfold State.count
  split <;> rfl

@[simp] theorem State.charge_net (s : State) {b point n} : (s.charge b point n).net = s.net := by
  simp [State.charge]

@[simp] theorem State.console_net (s : State) {line} : (s.console line).net = s.net := by
  unfold State.console
  split
  · rfl
  · exact s.count_net

@[simp] theorem State.logRecord_net (s : State) {time ev flags} : (s.logRecord time ev flags).net = s.net := by
  simp only [State.logRecord]
  split <;> split <;> simp

@[simp] theorem State.logRecords_net (s : State) {time ev more buffered} : (s.logRecords time ev more buffered).net = s.net := by
  cases more with
  | nil => exact s.logRecord_net
  | cons a rest => exact (foldl_net (fun s _ => s.logRecord_net) _ _).trans s.logRecord_net

@[simp] theorem State.closeWindow_net (s : State) {w} : (s.closeWindow w).net = s.net := by
  simp only [State.closeWindow]
  split
  · exact State.logRecord_net _
  · rfl

theorem State.writeEvent_net (s : State) {time ev more buffered} : (s.writeEvent time ev more buffered).net = s.net := by
  cases found : s.mgmt.windows.find? (sameKey ev) with
  | none => simp [State.writeEvent, found]
  | some w =>
    by_cases old : w.opened + 1000000000 ≤ s.dev.now
    · simp only [State.writeEvent, found, if_pos old]
      split
      · simp
      · split <;> simp
    · simp only [State.writeEvent, found, if_neg old]
      split <;> simp

@[simp] theorem State.raise_net (s : State) {code severity bay die args} : (s.raise code severity bay die args).net = s.net := by
  simp only [State.raise, State.raiseMore]
  split
  · rfl
  split
  · exact s.writeEvent_net
  split <;> rfl

@[simp] theorem State.linkSent_net (s : State) {i cls flits} : (s.linkSent i cls flits).net = s.net := by
  simp [State.linkSent]

theorem State.chargeAccess_net (s : State) {b die home addr g isWrite} :
    (s.chargeAccess b die home addr g isWrite).net = s.net := by
  unfold State.chargeAccess
  split
  · rfl
  · dsimp only
    split <;> split <;> (try split) <;> simp [State.takeSlots]

theorem State.chargeEntry_net (s : State) {b t row isWrite die} : (s.chargeEntry b t row isWrite die).net = s.net := by
  unfold State.chargeEntry
  split
  · exact s.chargeAccess_net
  · rfl

theorem State.access_net (s : State) {b die queue home addr g isWrite} :
    (s.access b die queue home addr g isWrite).net = s.net := by
  have took : ∀ (v : State) w ws p, (v.drrTakeAt w ws p).net = v.net := by
    intro v w ws p
    unfold State.drrTakeAt
    split <;> rfl
  refine (State.chargeAccess_net _).trans ?_
  split
  · exact foldl_net (fun v p => took v _ _ p) _ s
  · rfl

theorem State.siloError_net (s : State) {k pc b c u} : (s.siloError k pc b c u).net = s.net := by
  simp [State.siloError]

theorem State.retirePage_net (s : State) {k b page} : (s.retirePage k b page).2.net = s.net := by
  simp only [State.retirePage]
  split
  · rfl
  split
  · rfl
  split
  · rfl
  · simp

theorem State.siloBad_net (s : State) {b g} : (s.siloBad b g).net = s.net := by
  unfold State.siloBad
  split
  · rfl
  · simp [apply_ite State.net, State.retirePage_net, State.siloError_net]

theorem State.loftBad_net (s : State) {b g} : (s.loftBad b g).net = s.net := by
  unfold State.loftBad
  split <;> simp

theorem State.reportBad_net (s : State) {b home g n} : (s.reportBad b home g n).net = s.net := by
  unfold State.reportBad
  split
  · refine foldl_net (fun v i => ?_) _ s
    split
    · exact v.siloBad_net
    · rfl
  · refine foldl_net (fun v i => ?_) _ s
    split
    · exact v.loftBad_net
    · rfl
  · rfl

theorem State.walkCharge_net (s : State) {b die t idx} : (s.walkCharge b die t idx).net = s.net := by
  have cached : ∀ (v : State) table row, (v.cacheEntry b die table row).net = v.net := fun _ _ _ => rfl
  simp only [State.walkCharge]
  split
  · exact s.count_net
  split
  · exact s.count_net
  split
  · exact (cached _ _ _).trans s.count_net
  split
  · split
    · simp [State.siloBad_net, State.chargeEntry_net]
    · exact s.count_net
  · exact (cached _ _ _).trans (by simp [State.chargeEntry_net])

theorem State.serveRow_net (s : State) {b die node t m row} : (s.serveRow b die node t m row).2.net = s.net := by
  simp only [State.serveRow]
  split
  · simp [State.reportBad_net, State.access_net, State.walkCharge_net]
  · split
    · simp [State.countTable, State.modTable, State.walkCharge_net]
    · exact s.walkCharge_net
    · exact s.walkCharge_net
    · simp [apply_ite State.net, State.countTable, State.modTable, State.walkCharge_net]

theorem State.serveRows_net (s : State) {b die node t m} (rows : List Nat) :
    (State.serveRows b die node t m rows s).2.net = s.net := by
  induction rows generalizing s with
  | nil => rfl
  | cons row rows ih => exact (ih _).trans s.serveRow_net

theorem State.heatServed_net (s : State) {b die t m rows} : (s.heatServed b die t m rows).net = s.net :=
  foldl_net (f := fun v r => State.heatRow v b t.id r) (fun _ _ => rfl) _ s

theorem State.ownerAnswer_net (s : State) {die m} : (s.ownerAnswer die m).2.net = s.net := by
  simp only [State.ownerAnswer]
  split
  · split
    · rfl
    split
    · rfl
    split
    · rfl
    split
    · rfl
    · exact s.raise_net
  · split
    · exact (State.heatServed_net _).trans (s.serveRows_net _)
    · simp [State.heatServed_net, State.serveRows_net]

theorem isSelf_congr {s u : State} {n : Nat} (h : u.net = s.net) : u.isSelf n = s.isSelf n := by
  simp only [State.isSelf, h]

/-- A request that may be served is, its answer leaving for another package (R530). -/
theorem serveAll_away {s : State} {i : Incoming} {n : Nat} (found : s.fab.incoming.find? s.incomingMay = some i) :
    let u : State := { s with fab.incoming := s.fab.incoming.erase i }
    let a := u.ownerAnswer i.die i.msg
    let node := u16At i.msg 4
    u.isSelf node = false → State.serveAll (n + 1) s = State.serveAll n
      ((a.2.sendFabric (some (u16At i.msg 2)) i.die node (a.2.pathTo node (u32At i.msg 8) []) a.1).returnOwed i.die) := by
  intro u a node away
  have other : a.2.isSelf node = false := (isSelf_congr u.ownerAnswer_net).trans away
  have served : s.serveOne i =
      (a.2.sendFabric (some (u16At i.msg 2)) i.die node (a.2.pathTo node (u32At i.msg 8) []) a.1).returnOwed i.die :=
    congrArg (State.returnOwed · i.die) (if_neg (Bool.eq_false_iff.1 other))
  have next : State.serveAll (n + 1) s = State.serveAll n (s.serveOne i) := by
    rw [State.serveAll, found]
  exact next.trans (congrArg _ served)

/-! ### Requests and answers on a yoke -/

theorem ownerServe_yoke {u : State} {link die k : Nat} {msg : List Byte} (linked : link ≠ 0) (kind : u8At msg 0 = k) :
    u.ownerServe link die msg =
      if u.net.muster.phase = .stopped then u.requestCredit link die msg
      else if u.requestOk msg k = false then (u.malformedFabric link).requestCredit link die msg
      else (({ u with fab.incoming := u.fab.incoming ++ [⟨die, some link, msg⟩] } : State).requestCredit link die msg).serveIncoming := by
  simp only [State.ownerServe, if_neg linked, kind, Bool.not_eq_true']

theorem answerIn_malformed {u : State} {link k : Nat} {msg : List Byte} (kind : u8At msg 0 = k) (bad : u.responseOk msg k = false) :
    u.answerIn link msg = u.malformedFabric link := by
  simp only [State.answerIn, kind, bad, Bool.not_false, if_true]

/-- An answer that no request of its kind waits for is late (R533). -/
theorem answerIn_late {u : State} {link k : Nat} {msg : List Byte} (kind : u8At msg 0 = k) (good : u.responseOk msg k = true)
    (none_ : ∀ q, u.requestFor msg = some q → q.kind + 1 ≠ k) : u.answerIn link msg = u.lateCompletion (u32At msg 8) := by
  have unasked : ((u.requestFor msg).filter fun q => q.kind + 1 == k) = none := by
    simpa [Option.filter_eq_none_iff] using none_
  simp only [State.answerIn, kind, good, Bool.not_true, Bool.false_eq_true, if_false, unasked]

section

variable {u : State} {link : Nat} {msg : List Byte} (good : u.responseOk msg 7 = true) (size : msg.length = 32)
  (records : u32At msg 12 = 0) (bags : u32At msg 24 = 0)

include good size records bags

theorem errorIn_late (none_ : u.requestFor msg = none) : u.errorIn link msg = u.lateCompletion (u32At msg 8) := by
  simp [State.errorIn, good, size, records, bags, none_]

/-- An error that is not of the owner's state chaffs the positions (R532). -/
theorem errorIn_chaff {q : FabRequest} {r : Read} (asked : u.requestFor msg = some q)
    (out : findKey Read.id u.dp.reads q.id = some r) (status : u16At msg 18 ∉ [4, 10, 12]) : u.errorIn link msg = u.chaffAll r := by
  simp only [List.mem_cons, List.not_mem_nil, or_false, not_or] at status
  obtain ⟨not4, not10, not12⟩ := status
  simp [State.errorIn, good, size, records, bags, asked, out, not4, not10, not12]

end

/-- The failed path of a request (R532). -/
theorem pathFailure_dead {s : State} {id : Nat} {q : FabRequest} {r : Read} (found : s.fab.requests.find? (fun q => q.id == id) = some q)
    (out : findKey Read.id s.dp.reads id = some r) (dead : s.pathDead q.path = true) :
    exec (.pathFailure id) s = .next (s.pathFailed q r) := by
  change execPathFailure id s = _
  simp only [execPathFailure, found, out, dead, if_true]

/-- What a command of one kind of message does with one that ends here: of another kind, it is discarded (R521). -/
def kinded (link : Nat) (msg : List Byte) (k : Nat) (act : State → State) (v : State) : State :=
  if u8At msg 0 = k then act v else v.wrongKind link msg

section

variable (s : State) (link : Nat) (msg : List Byte)

theorem exec_readReq : exec (.readReq link msg) s =
    s.onYoke link msg (kinded link msg 3 fun v => v.ownerServe link (linkDie link) msg) := rfl

theorem exec_poolReq : exec (.poolReq link msg) s =
    s.onYoke link msg (kinded link msg 5 fun v => v.ownerServe link (linkDie link) msg) := rfl

theorem exec_readResp : exec (.readResp link msg) s = s.onYoke link msg (kinded link msg 4 fun v => v.answerIn link msg) := rfl

theorem exec_poolResp : exec (.poolResp link msg) s = s.onYoke link msg (kinded link msg 6 fun v => v.answerIn link msg) := rfl

theorem exec_fabricError : exec (.fabricError link msg) s = s.onYoke link msg (kinded link msg 7 fun v => v.errorIn link msg) := rfl

end

section

variable {s u : State} {link : Nat} {msg : List Byte} (carries : Carries s link msg u) (us : ForUs s msg)

include carries us

/-- A message for this package is acted on under the command of its kind, and discarded under any other. -/
theorem kinded_arrives {k : Nat} {i : Instr} {act : State → State}
    (runs : exec i s = s.onYoke link msg (kinded link msg k act)) :
    (u8At msg 0 ≠ k → exec i s = .next (u.wrongKind link msg)) ∧ (u8At msg 0 = k → exec i s = .next (act u)) := by
  rw [runs, onYoke_us carries _ us]
  exact ⟨fun other => congrArg Host.Outcome.next (if_neg other), fun same => congrArg Host.Outcome.next (if_pos same)⟩

/-- READ_REQ and POOL_REQ (R530). -/
theorem request_arrives {k : Nat} {i : Instr} (is : (k = 3 ∧ i = .readReq link msg) ∨ (k = 5 ∧ i = .poolReq link msg)) :
    (u8At msg 0 ≠ k → exec i s = .next (u.wrongKind link msg)) ∧
    (u8At msg 0 = k → exec i s = .next (u.ownerServe link (linkDie link) msg)) := by
  obtain ⟨rfl, rfl⟩ | ⟨rfl, rfl⟩ := is
  · exact kinded_arrives carries us (exec_readReq s link msg)
  · exact kinded_arrives carries us (exec_poolReq s link msg)

/-- READ_RESP and POOL_RESP (R217, R218). -/
theorem answer_arrives {k : Nat} {i : Instr} (is : (k = 4 ∧ i = .readResp link msg) ∨ (k = 6 ∧ i = .poolResp link msg)) :
    (u8At msg 0 ≠ k → exec i s = .next (u.wrongKind link msg)) ∧
    (u8At msg 0 = k → exec i s = .next (u.answerIn link msg)) := by
  obtain ⟨rfl, rfl⟩ | ⟨rfl, rfl⟩ := is
  · exact kinded_arrives carries us (exec_readResp s link msg)
  · exact kinded_arrives carries us (exec_poolResp s link msg)

/-- FABRIC_ERROR (R525). -/
theorem error_arrives :
    (u8At msg 0 ≠ 7 → exec (.fabricError link msg) s = .next (u.wrongKind link msg)) ∧
    (u8At msg 0 = 7 → exec (.fabricError link msg) s = .next (u.errorIn link msg)) :=
  kinded_arrives carries us (exec_fabricError s link msg)

end

/-- A forwarded message for another package is passed on (R526). -/
theorem forwarded_passes {s u : State} {link : Nat} {msg : List Byte} (carries : Carries s link msg u) (them : ¬ForUs s msg)
    {i : Instr} (is : i ∈ [Instr.readReq link msg, .poolReq link msg, .readResp link msg, .poolResp link msg, .fabricError link msg]) :
    exec i s = .next (u.relayOn link (destOf msg) msg) := by
  simp only [List.mem_cons, List.not_mem_nil, or_false] at is
  have passes := fun f => onYoke_them carries f them
  obtain rfl | rfl | rfl | rfl | rfl := is
  · exact (exec_readReq s link msg).trans (passes _)
  · exact (exec_poolReq s link msg).trans (passes _)
  · exact (exec_readResp s link msg).trans (passes _)
  · exact (exec_poolResp s link msg).trans (passes _)
  · exact (exec_fabricError s link msg).trans (passes _)

/-- Settles O49: serving a request keeps the network's state (`State.ownerAnswer_net`), so its answer leaves under the package's own
numbers; the other clauses are the rows on a yoke and their checks. -/
theorem forwardedRequestsAreServed : Obligations.ForwardedRequestsAreServed := by
  refine ⟨fun s u link msg carries => ⟨fun us => ⟨fun k i is => ?_, fun k i is => ?_, (error_arrives carries us).1, fun kind => ?_⟩,
      fun them i is => forwarded_passes carries them is⟩,
    fun s link die msg yoke => ⟨?_, ?_⟩, fun s i n found => serveAll_away found,
    fun s id => ⟨fun q found => ?_, rfl, fun q r found out dead => pathFailure_dead found out dead⟩⟩
  · -- requests
    obtain ⟨other, same⟩ := request_arrives carries us is
    refine ⟨other, fun kind => (same kind).trans (congrArg Host.Outcome.next ?_)⟩
    exact ownerServe_yoke (Nat.ne_of_gt carries.isYoke) kind
  · -- answers
    obtain ⟨other, same⟩ := answer_arrives carries us is
    exact ⟨other, fun kind => ⟨same kind, fun bad => (same kind).trans (congrArg Host.Outcome.next (answerIn_malformed kind bad)),
      fun good unasked => (same kind).trans (congrArg Host.Outcome.next (answerIn_late kind good unasked))⟩⟩
  · -- errors
    have runs := (error_arrives carries us).2 kind
    exact ⟨runs, fun good size records bags =>
      ⟨fun unasked => runs.trans (congrArg Host.Outcome.next (errorIn_late good size records bags unasked)),
        fun q r asked out status => runs.trans (congrArg Host.Outcome.next (errorIn_chaff good size records bags asked out status))⟩⟩
  · -- a message of another kind
    simp only [State.wrongKind, isRequest, Bool.or_eq_true, beq_iff_eq]
  · -- the credit of a request
    exact if_neg (Nat.ne_of_gt yoke)
  · -- LATE_COMPLETION
    change execLateCompletion id s = _
    simp only [execLateCompletion, State.lateCompletion, found] <;> rfl

end Sys2Proof.Machine
